-- ==== Sys2Proof/Word.lean ====
section
/-! DEFINITION. The word types of the machine: bytes, 32-bit lane values and instruction words
(R108), 64-bit uniform values, and 32-bit lane masks. -/

namespace Sys2Proof

abbrev Byte := BitVec 8
abbrev Word := BitVec 32
abbrev Dword := BitVec 64
/-- One bit per lane: bit L stands for lane L. -/
abbrev Mask := BitVec 32

end Sys2Proof
end

