-- ==== Sys2Proof/Syntax.lean ====
section
/-! DEFINITION. The instruction set as data: one constructor of `Instr` for each row of
spec/opcode_table.json. The first 240 are the words of the opcode map (R126), with the operand
fields of their formats (R124) already read into their classes (R119). The other 85 are the
table's device steps (95_what_each_step_holds.md), which have no bits: their arguments name the
thread, core, request or register the step is about. -/

namespace Sys2Proof

/-- A lane register v0 to v63. -/
abbrev LReg := BitVec 6
/-- A uniform register w0 to w31. -/
abbrev UReg := BitVec 5
/-- A predicate p0 to p7. -/
abbrev PReg := BitVec 3
/-- A buffer record b0 to b15. -/
abbrev BReg := BitVec 4
/-- A queue register q0 to q15. -/
abbrev QReg := BitVec 4
/-- An accumulator tile a0 to a15. -/
abbrev TReg := BitVec 4
/-- A format slot fmt0 to fmt7. -/
abbrev FSlot := BitVec 3

/-- A lane source selector (R119): a lane register or a bypass latch (0 li0 to 7 lm1). -/
inductive Src where
  | reg (n : LReg)
  | latch (k : BitVec 3)
  deriving DecidableEq, Repr

/-- A lane destination with the N bit (R121): a register, or the pipe's latch alone. -/
inductive Dst where
  | reg (n : LReg)
  | latch
  deriving DecidableEq, Repr

/-- The amount of LSH (R210): an immediate or a uniform register. -/
inductive Amt where
  | imm (s : BitVec 5)
  | reg (n : UReg)
  deriving DecidableEq, Repr

/-- The trap codes of R349. -/
inductive TrapCode where
  | ill | latchv | runlen | swtrap | bkpt | timer
  | bounds | xlate | perm | lockmiss | align | atomdet | stashmap
  | cvtovf | accovf
  | nest | qmis | lostpermit | graph
  | gate | priv
  | eccue
  | rlxbad
  deriving DecidableEq, Repr

/-- The four rings of a domain (R378). -/
inductive Ring where
  | fault | trace | sample | miss
  deriving DecidableEq, Repr

/-- The integer compare conditions (R125). -/
inductive ICond where
  | eq | ne | lt | le | ltu | leu | gt | ge
  deriving DecidableEq, Repr

/-- The float compare conditions (R125). -/
inductive FCond where
  | eq | ne | lt | le | gt | ge | un | ord
  deriving DecidableEq, Repr

/-- The overflow policies (R72). -/
inductive Pol where
  | sat | inf | nan | trap
  deriving DecidableEq, Repr

/-- The rounding codes (R71). -/
inductive Rnd where
  | rne | rtz | rdn | rup
  deriving DecidableEq, Repr

/-- The atomic operations (R125). -/
inductive AtomOp where
  | add | min | max | and | or | xor | xchg | cas
  deriving DecidableEq, Repr

/-- The fence scopes (R87). -/
inductive Scope where
  | wave | core | device | system
  deriving DecidableEq, Repr

/-- The WAITV tests (R234). -/
inductive PollCond where
  | eq | ne | ge | lt
  deriving DecidableEq, Repr

/-- The load modes (R125). -/
inductive LdMode where
  | plain | acq | nolease
  deriving DecidableEq, Repr

/-- The store modes (R125). -/
inductive StMode where
  | plain | rel | stream
  deriving DecidableEq, Repr

/-- The access widths (R224). -/
inductive Width where
  | b8 | b16 | b32 | b64 | b128 | s8 | s16
  deriving DecidableEq, Repr

/-- The uniform access widths (R225). -/
inductive WidthW where
  | b32 | b64
  deriving DecidableEq, Repr

/-- The narrow floating types as T3 of FCVT and FUPCVT (R199). -/
inductive FTy where
  | bf16 | fp16 | e4m3 | e5m2
  deriving DecidableEq, Repr

/-- The integer types as T3 of ICVTF and FCVTI (R200). -/
inductive ITy where
  | int32 | int8 | int4
  deriving DecidableEq, Repr

/-- The CERED operations (R308). -/
inductive RedOp where
  | add | mov | sub
  deriving DecidableEq, Repr

/-- The instructions of the opcode map and the steps of the device. -/
inductive Instr where
  | nop
  | exit
  | yield
  | ret
  | bkpt
  | trap
  | waitev (a : UReg)
  | bra (off : BitVec 18)
  | brt (p : PReg) (off : BitVec 18)
  | brf (p : PReg) (off : BitVec 18)
  | brany (p : PReg) (off : BitVec 18)
  | brall (p : PReg) (off : BitVec 18)
  | call (off : BitVec 18)
  | jmpi (a : UReg)
  | calli (a : Src)
  | loop (d : UReg) (imm : BitVec 10)
  | guard (p : PReg) (sense : Bool)
  | pand (d a b : PReg)
  | por (d a b : PReg)
  | pxor (d a b : PReg)
  | pandn (d a b : PReg)
  | pmov (d a : PReg)
  | ptov (d : LReg) (a : PReg)
  | ballot (d : UReg) (a : PReg)
  | vote (d a : PReg)
  | join (m : BitVec 4)
  | leave
  | arrive (m : BitVec 4)
  | barw (m : BitVec 4)
  | waitb (m : BitVec 4)
  | castq (d : UReg) (m : BitVec 4)
  | iadd (d : Dst) (a b : Src)
  | isub (d : Dst) (a b : Src)
  | and (d : Dst) (a b : Src)
  | or (d : Dst) (a b : Src)
  | xor (d : Dst) (a b : Src)
  | andn (d : Dst) (a b : Src)
  | imin (d : Dst) (a b : Src)
  | imax (d : Dst) (a b : Src)
  | shl (d : Dst) (a b : Src)
  | shr (d : Dst) (a b : Src)
  | sar (d : Dst) (a b : Src)
  | rol (d : Dst) (a b : Src)
  | iminu (d : Dst) (a b : Src)
  | imaxu (d : Dst) (a b : Src)
  | amin (d : LReg) (a b : Src)
  | iabsd (d : Dst) (a b : Src)
  | imul (d : Dst) (a b : Src)
  | imulh (d : Dst) (a b : Src)
  | imulhu (d : Dst) (a b : Src)
  | imad (d : LReg) (a b : Src)
  | clz (d : Dst) (a : Src)
  | popc (d : Dst) (a : Src)
  | brev (d : Dst) (a : Src)
  | iabs (d : Dst) (a : Src)
  | icmp (cond : ICond) (p : PReg) (a b : Src)
  | icmpW (cond : ICond) (p : PReg) (a b : UReg)
  | iaddi (d : Dst) (a : Src) (imm : BitVec 10)
  | shli (d : Dst) (a : Src) (s : BitVec 5)
  | shri (d : Dst) (a : Src) (s : BitVec 5)
  | sari (d : Dst) (a : Src) (s : BitVec 5)
  | roli (d : Dst) (a : Src) (s : BitVec 5)
  | movi (d : Dst) (imm : BitVec 17)
  | movhi (d : LReg) (imm : BitVec 17)
  | bfx (d : Dst) (a b : Src)
  | bfi (d : LReg) (a b : Src)
  | iadd64 (d a b : LReg)
  | isub64 (d a b : LReg)
  | shl64 (d a : LReg) (b : Src)
  | imulw (d : LReg) (a b : Src)
  | pack16 (d : Dst) (a b : Src)
  | byteperm (d : LReg) (a b : Src)
  | sel (d : Dst) (a b : Src) (p : PReg)
  | wadd (d a b : UReg)
  | wsub (d a b : UReg)
  | wand (d a b : UReg)
  | wor (d a b : UReg)
  | wxor (d a b : UReg)
  | wshl (d a b : UReg)
  | wshr (d a b : UReg)
  | wmul (d a b : UReg)
  | wmin (d a b : UReg)
  | wmax (d a b : UReg)
  | wsar (d a b : UReg)
  | vtow (d : UReg) (a : Src)
  | wtov (d : Dst) (a : UReg)
  | wsel (d a b : UReg)
  | wclz (d a : UReg)
  | wpopc (d a : UReg)
  | waddi (d a : UReg) (imm : BitVec 10)
  | wmovi (d : UReg) (imm : BitVec 17)
  | wmovk (d : UReg) (pos : BitVec 2) (imm : BitVec 16)
  | rand32 (d : Dst)
  | randf (d : Dst)
  | rseed (a : UReg)
  | rctr (d : Dst) (a : Src)
  | fadd (d : Dst) (a b : Src)
  | fsub (d : Dst) (a b : Src)
  | fmul (d : Dst) (a b : Src)
  | ffma (d : LReg) (a b : Src)
  | fmin (d : Dst) (a b : Src)
  | fmax (d : Dst) (a b : Src)
  | famin (d : Dst) (a b : Src)
  | ffms (d : LReg) (a b : Src)
  | badd2 (d : Dst) (a b : Src)
  | bmul2 (d : Dst) (a b : Src)
  | bfma2 (d : LReg) (a b : Src)
  | bmax2 (d : Dst) (a b : Src)
  | hadd2 (d : Dst) (a b : Src)
  | hmul2 (d : Dst) (a b : Src)
  | hfma2 (d : LReg) (a b : Src)
  | hmax2 (d : Dst) (a b : Src)
  | frcp (d : Dst) (a : Src)
  | frsq (d : Dst) (a : Src)
  | fsqrt (d : Dst) (a : Src)
  | fexp2 (d : Dst) (a : Src)
  | flog2 (d : Dst) (a : Src)
  | ftanh (d : Dst) (a : Src)
  | fsin2pi (d : Dst) (a : Src)
  | frnd (d : Dst) (a : Src) (rnd : Rnd)
  | fdiv (d : Dst) (a b : Src)
  | fabs (d : Dst) (a : Src)
  | fneg (d : Dst) (a : Src)
  | fcpys (d : Dst) (a b : Src)
  | fclass (d : Dst) (a : Src)
  | fscale (d : Dst) (a b : Src)
  | fexpt (d : Dst) (a : Src)
  | fcmp (cond : FCond) (p : PReg) (a b : Src)
  | fcvt (d : Dst) (a : Src) (ty : FTy) (pol : Pol) (rnd : Rnd)
  | fupcvt (d : Dst) (a : Src) (ty : FTy)
  | icvtf (d : Dst) (a : Src) (ty : ITy) (pol : Pol) (rnd : Rnd)
  | fcvti (d : Dst) (a : Src) (ty : ITy) (pol : Pol) (rnd : Rnd)
  | qpack (d : Dst) (a : LReg) (slot : FSlot) (pol : Pol) (rnd : Rnd)
  | qunpack (d : LReg) (a : Src) (slot : FSlot)
  | i8pack (d : Dst) (a : LReg) (pol : Pol)
  | fflrd (d : UReg)
  | fflclr (a : UReg)
  | fmode (a : UReg)
  | lshup (d : Dst) (a : Src) (b : Amt)
  | lshdn (d : Dst) (a : Src) (b : Amt)
  | lrot (d : Dst) (a : Src) (b : Amt)
  | lperm (d : Dst) (a b : Src)
  | lbcast (d : Dst) (a : Src) (b : Amt)
  | lxor (d : Dst) (a : Src) (b : Amt)
  | lscanadd (d : Dst) (a : Src)
  | lscanmin (d : Dst) (a : Src)
  | lscanmax (d : Dst) (a : Src)
  | lscanfadd (d : Dst) (a : Src)
  | lredadd (d : Dst) (a : Src)
  | lredmin (d : Dst) (a : Src)
  | lredmax (d : Dst) (a : Src)
  | lredfadd (d : Dst) (a : Src)
  | lmatch (d : PReg) (a : Src)
  | lfirst (d : PReg)
  | ld (d : Dst) (rec : BReg) (idx : Src) (w : Width) (mode : LdMode)
  | st (d : LReg) (rec : BReg) (idx : Src) (w : Width) (mode : StMode)
  | ldw (d : UReg) (rec : BReg) (idx : UReg) (w : WidthW) (mode : LdMode)
  | stw (d : UReg) (rec : BReg) (idx : UReg) (w : WidthW) (mode : StMode)
  | atom (d : LReg) (rec : BReg) (idx : Src) (op : AtomOp) (w64 ret ar : Bool)
  | fence (scope : Scope)
  | stflush (rec : BReg)
  | stdrop (rec : BReg)
  | stmap (rec : BReg) (a : UReg)
  | pref (rec : BReg) (idx : Src)
  | waitv (rec : BReg) (cond : PollCond) (idx cmp : Src)
  | bbarm (rec : BReg) (a : UReg)
  | bbwait (rec : BReg) (a : UReg)
  | bufset (d : BReg) (a : UReg)
  | bufget (d : UReg) (a : BReg)
  | bufnar (d a : BReg) (b : UReg)
  | lds (d : Dst) (rec : BReg) (idx : Src) (w : Width)
  | sts (d : LReg) (rec : BReg) (idx : Src) (w : Width)
  | tlblk (a : BReg)
  | tlbunlk (a : BReg)
  | tlbprb (d : UReg) (a : BReg) (b : UReg)
  | qpush (d : QReg) (a : Src)
  | qpushw (d : QReg) (a : UReg)
  | qpop (d : Dst) (q : QReg)
  | qpopw (d : UReg) (q : QReg)
  | qtry (d : LReg) (q : QReg) (b : PReg)
  | qtryw (d : UReg) (q : QReg) (b : PReg)
  | qlen (d : UReg) (q : QReg)
  | qbind (d : QReg) (a : UReg)
  | spawn (a : UReg)
  | waitc (rec : BReg) (a : UReg)
  | withdraw (d a : UReg)
  | tasktag (a : UReg)
  | siglead (a : UReg)
  | wbmac (q : UReg) (t : TReg) (slot : FSlot)
  | wbmacp (q : UReg) (t : TReg) (slot : FSlot) (plane : BitVec 3)
  | wbload (q : UReg) (slot : FSlot)
  | wbswap (q : UReg)
  | wbzero (q : UReg) (t : TReg)
  | tadd (q : UReg) (t : TReg)
  | tsub (q : UReg) (t : TReg)
  | tshl (q : UReg) (t : TReg)
  | tmov (q : UReg) (t : TReg)
  | tneg (q : UReg) (t : TReg)
  | tslice (q : UReg) (t : TReg)
  | tcvt (q : UReg) (t : TReg) (slot : FSlot)
  | settle (t : TReg)
  | tlin (q : UReg) (t : TReg)
  | trd (q : UReg) (t : TReg) (prov : Bool)
  | twr (q : UReg) (t : TReg)
  | apqk (q : UReg) (slot : FSlot)
  | appv (q : UReg) (t : TReg) (slot : FSlot) (acc hi : Bool)
  | apresc (q : UReg) (t : TReg)
  | apnorm (q : UReg) (t : TReg) (exp : Bool)
  | apcfg (q : UReg)
  | cecopy (q : UReg) (t : TReg) (tile : Bool)
  | celist (q : UReg)
  | cerope (q : UReg) (slot src : FSlot)
  | cepatch (q : UReg) (slot : FSlot) (rot : Bool)
  | cereq (q : UReg) (slot src : FSlot)
  | cered (q : UReg) (t : TReg) (op : RedOp)
  | cefill (q : UReg)
  | rlxbeg (a : UReg)
  | rlxend
  | rlxin (d : LReg)
  | rlxout (a : Src)
  | rlxjac (a : Src)
  | rlxstep (d : Dst)
  | rlxst (d : UReg)
  | rlxabt
  | rlxpeek (d : LReg)
  | rlxguess (a : Src)
  | callg (m : BitVec 7)
  | retg
  | gateq (d : UReg) (m : BitVec 7)
  | srd (d : UReg) (reg : BitVec 12)
  | swr (d : UReg) (reg : BitVec 12)
  | hclk (d : UReg)
  | wtime (d : UReg)
  | timer (a : UReg)
  | stamp (a : UReg)
  | enrd (d : UReg)
  | pmrd (d : UReg) (m : BitVec 2)
  | tmark (m : BitVec 7)
  | sleep (a : UReg)
  | signal (a : UReg)
  | resumeWrite (launch : Nat) (core : Nat) (value : Dword)
  | killWrite (launch : Nat) (core : Nat) (value : Dword)
  | illegalInstruction (code : TrapCode)
  | faultRecordWrite (asid : Nat)
  | sideArbitration (core : Nat) (side : Nat)
  | runEnd (tid : Nat)
  | codeFetch (tid : Nat)
  | loadReturn (req : Nat)
  | wctReturn (st : Nat)
  | fenceComplete (tid : Nat)
  | acquireHoldEnd (tid : Nat)
  | pollAttempt (tid : Nat)
  | sleepExpire (tid : Nat)
  | timerExpire (tid : Nat)
  | postedFaultDeliver (tid : Nat)
  | homeRead (req : Nat)
  | homeStoreArrival (st : Nat)
  | homeStorePerform (st : Nat)
  | homeAtomicPerform (st : Nat)
  | hubStoreAck (st : Nat)
  | l1LeaseExpire (core : Nat) (line : Nat)
  | windowLeaseWriteback (lc : Nat) (win : Nat) (line : Nat)
  | pageMigration (asid : Nat) (va : Nat) (pa : Nat)
  | tlbWalkComplete (req : Nat)
  | l2EvictionError (asid : Nat) (core : Nat) (line : Nat)
  | waveRetire (tid : Nat)
  | leadThreadRetire (tid : Nat)
  | doorbell (fn : Nat) (value : Dword)
  | launchAccept (queue : Nat)
  | dependenceRead (launch : Nat)
  | launchStartCore (launch : Nat) (core : Nat)
  | wavePlace (lc : Nat)
  | childPlace (die : Nat)
  | logicalCoreStart (launch : Nat) (core : Nat)
  | handlerWaveStart (lc : Nat)
  | launchFinishCore (lc : Nat)
  | launchFinish (launch : Nat)
  | permitAudit (die : Nat)
  | q0CommandStart (core : Nat) (asid : Nat)
  | benchPlane (core : Nat) (asid : Nat)
  | promptApply (core : Nat) (asid : Nat)
  | proxyAck (core : Nat) (asid : Nat)
  | ceredLand (core : Nat) (asid : Nat)
  | pairCommandStart (core : Nat) (asid : Nat)
  | copyCommandStart (core : Nat) (asid : Nat)
  | nodeComplete (core : Nat) (asid : Nat) (cmd : Nat)
  | stampSettleWrite (lc : Nat)
  | regionOpen (core : Nat)
  | regionStart (core : Nat)
  | relaxVerify (core : Nat)
  | regionClose (core : Nat)
  | gateReturn (tid : Nat)
  | gateTimeout (tid : Nat)
  | contextPreempt (asid : Nat)
  | contextRestore (asid : Nat)
  | gangSwitch
  | debugStop (asid : Nat)
  | pcSample (asid : Nat) (core : Nat)
  | clockRateChange (die : Nat) (clk : Nat)
  | powerOnReset (fail : Nat) (time : Option Nat) (cores : BitVec 192)
  | functionLevelReset (fn : Nat)
  | create (fn : Nat)
  | destroy (fn : Nat)
  | setmode (fn : Nat)
  | setgates (fn : Nat)
  | regcode (fn : Nat)
  | observe (fn : Nat)
  | install (fn : Nat)
  | unmap (fn : Nat)
  | reserve (fn : Nat)
  | switch (fn : Nat)
  | schedule (fn : Nat)
  | armstop (fn : Nat)
  | release (fn : Nat)
  | laneop (fn : Nat)
  | attest (fn : Nat)
  | weights (fn : Nat)
  | regqueue (fn : Nat)
  | causeClear (fn : Nat) (mask : Dword)
  | hostRegisterWrite (fn : Nat) (off : Nat) (value : Dword)
  | ieee1588Slew (ppm : Option Int)
  | tdispRequest (asid : Nat) (run : Bool)
  | hostMemoryAccess (asid : Nat) (ide : Bool) (addr : Nat) (data : List Byte)
  | ringHeadRaise (asid : Nat) (ring : Ring) (value : Nat)
  | queueConsumedRaise (queue : Nat) (value : Nat)
  deriving DecidableEq, Repr

end Sys2Proof
end

