-- ==== Sys2Proof/WellFormed.lean ====
section
/-! DEFINITION. The operand limits of the words that the field classes of Syntax.lean do not already
say: register pairs and groups (R173, R203, R224, R226, R236), the widths and N forms of each access
(R224, R228), the offset of LOOP (R125) and the quads of the engines and of SPAWN and RLXBEG
(R125, R253, R330). A word that breaks one of them traps ILL (R127). Limits that depend on the
wave's footprint or on register values are checked when the word issues. -/

namespace Sys2Proof

/-- The register number is a multiple of four. -/
def mult4 {w : Nat} (r : BitVec w) : Bool := r.toNat % 4 == 0
/-- The register number is even. -/
def even {w : Nat} (r : BitVec w) : Bool := r.toNat % 2 == 0

/-- The data registers of an access of a width (R224): b64 an even one, b128 a multiple of four. -/
def groupOk (w : Width) (d : LReg) : Bool :=
  match w with
  | .b64 => even d
  | .b128 => mult4 d
  | _ => true

/-- The destination of a load (R224): N only on the widths of one register. -/
def loadDstOk (w : Width) (d : Dst) : Bool :=
  match d with
  | .reg n => groupOk w n
  | .latch => w != .b64 && w != .b128

/-- The widths of a store (R224): not s8, not s16. -/
def storeWidthOk (w : Width) : Bool := w != .s8 && w != .s16

/-- The data registers of an ATOM (R226). -/
def atomOk (op : AtomOp) (w64 : Bool) (d : LReg) : Bool :=
  match op, w64 with
  | .cas, true => mult4 d
  | .cas, false => even d
  | _, true => even d
  | _, false => true

/-- The operand limits of the words; a device step has none. -/
def Instr.wf : Instr → Bool
  | .loop _ imm => imm != 0
  | .iadd64 d a b => even d && even a && even b
  | .isub64 d a b => even d && even a && even b
  | .shl64 d a _ => even d && even a
  | .imulw d _ _ => even d
  | .ld d _ _ w _ => loadDstOk w d
  | .st d _ _ w _ => storeWidthOk w && groupOk w d
  | .lds d _ _ w => loadDstOk w d
  | .sts d _ _ w => storeWidthOk w && groupOk w d
  | .atom d _ _ op w64 _ _ => atomOk op w64 d
  | .i8pack _ a _ => mult4 a
  | .bufset _ a => even a
  | .bufget d _ => even d
  | .bufnar _ _ b => even b
  | .spawn a => mult4 a
  | .rlxbeg a => mult4 a
  | .wbmac w _ _ => mult4 w
  | .wbmacp w _ _ _ => mult4 w
  | .wbload w _ => mult4 w
  | .wbswap w => mult4 w
  | .wbzero w _ => mult4 w
  | .tadd w _ => mult4 w
  | .tsub w _ => mult4 w
  | .tshl w _ => mult4 w
  | .tmov w _ => mult4 w
  | .tneg w _ => mult4 w
  | .tslice w _ => mult4 w
  | .tcvt w _ _ => mult4 w
  | .tlin w _ => mult4 w
  | .trd w _ _ => mult4 w
  | .twr w _ => mult4 w
  | .apqk w _ => mult4 w
  | .appv w _ _ _ _ => mult4 w
  | .apresc w _ => mult4 w
  | .apnorm w _ _ => mult4 w
  | .apcfg w => mult4 w
  | .cecopy w _ _ => mult4 w
  | .celist w => mult4 w
  | .cerope w _ _ => mult4 w
  | .cepatch w _ _ => mult4 w
  | .cereq w _ _ => mult4 w
  | .cered w _ _ => mult4 w
  | .cefill w => mult4 w
  | _ => true

end Sys2Proof
end

