-- ==== Sys2Proof/Decode.lean ====
section
/-! DEFINITION. The decoder of instruction words (R108, R119, R121, R124 to R127), total on any
32 bits and rejecting every other word by answering nothing, and the encoder written from the same
tables. A word is split into the fields of its format (R124); each field is then read in the class
its instruction gives it. -/

namespace Sys2Proof

/-! ### The fields of the operand layouts (R124) -/

/-- Bits 23:18, the destination field. -/
def fD (x : BitVec 24) : BitVec 6 := x.extractLsb' 18 6
/-- Bit 17, N (or dir). -/
def fN (x : BitVec 24) : BitVec 1 := x.extractLsb' 17 1
/-- Bits 16:10, the first selector. -/
def fA (x : BitVec 24) : BitVec 7 := x.extractLsb' 10 7
/-- Bits 9:3, the second selector. -/
def fB (x : BitVec 24) : BitVec 7 := x.extractLsb' 3 7
/-- Bits 2:0, fn. -/
def fFn (x : BitVec 24) : BitVec 3 := x.extractLsb' 0 3
/-- Bits 9:0. -/
def fImm10 (x : BitVec 24) : BitVec 10 := x.extractLsb' 0 10
/-- Bits 16:0. -/
def fImm17 (x : BitVec 24) : BitVec 17 := x.extractLsb' 0 17
/-- Bits 17:16 of K16. -/
def fPos (x : BitVec 24) : BitVec 2 := x.extractLsb' 16 2
/-- Bits 15:0. -/
def fImm16 (x : BitVec 24) : BitVec 16 := x.extractLsb' 0 16
/-- Bits 23:21. -/
def fCond (x : BitVec 24) : BitVec 3 := x.extractLsb' 21 3
/-- Bits 20:18. -/
def fP (x : BitVec 24) : BitVec 3 := x.extractLsb' 18 3
/-- Bits 17:0. -/
def fOff18 (x : BitVec 24) : BitVec 18 := x.extractLsb' 0 18
/-- Bit 20 of GD. -/
def fSense (x : BitVec 24) : BitVec 1 := x.extractLsb' 20 1
/-- Bits 19:0 of GD. -/
def fZ20 (x : BitVec 24) : BitVec 20 := x.extractLsb' 0 20
/-- Bits 16:13 of MEM, the record. -/
def fRec (x : BitVec 24) : BitVec 4 := x.extractLsb' 13 4
/-- Bits 12:6 of MEM, the index. -/
def fIdx (x : BitVec 24) : BitVec 7 := x.extractLsb' 6 7
/-- Bits 5:0 of MEM. -/
def fFn6 (x : BitVec 24) : BitVec 6 := x.extractLsb' 0 6
/-- Bits 23:20 of ENG, the queue. -/
def fQ (x : BitVec 24) : BitVec 4 := x.extractLsb' 20 4
/-- Bits 19:15 of ENG, the quad. -/
def fWbase (x : BitVec 24) : BitVec 5 := x.extractLsb' 15 5
/-- Bits 14:11 of ENG. -/
def fTile (x : BitVec 24) : BitVec 4 := x.extractLsb' 11 4
/-- Bits 10:8 of ENG. -/
def fSlot (x : BitVec 24) : BitVec 3 := x.extractLsb' 8 3
/-- Bits 7:3 of ENG. -/
def fMisc (x : BitVec 24) : BitVec 5 := x.extractLsb' 3 5
/-- Bits 16:12 of SYS. -/
def fZ5 (x : BitVec 24) : BitVec 5 := x.extractLsb' 12 5
/-- Bits 11:0 of SYS. -/
def fSreg (x : BitVec 24) : BitVec 12 := x.extractLsb' 0 12

/-! ### The layouts packed (R124) -/

/-- The R3 layout of R124. -/
def packR3 (d : BitVec 6) (n : BitVec 1) (a : BitVec 7) (b : BitVec 7) (fn : BitVec 3) : BitVec 24 :=
  d ++ n ++ a ++ b ++ fn
/-- The RI layout of R124. -/
def packRI (d : BitVec 6) (n : BitVec 1) (a : BitVec 7) (imm : BitVec 10) : BitVec 24 :=
  d ++ n ++ a ++ imm
/-- The I17 layout of R124. -/
def packI17 (d : BitVec 6) (n : BitVec 1) (imm : BitVec 17) : BitVec 24 :=
  d ++ n ++ imm
/-- The K16 layout of R124. -/
def packK16 (d : BitVec 6) (pos : BitVec 2) (imm : BitVec 16) : BitVec 24 :=
  d ++ pos ++ imm
/-- The BR layout of R124. -/
def packBR (k : BitVec 3) (p : BitVec 3) (off : BitVec 18) : BitVec 24 :=
  k ++ p ++ off
/-- The GD layout of R124. -/
def packGD (k : BitVec 3) (s : BitVec 1) (z : BitVec 20) : BitVec 24 :=
  k ++ s ++ z
/-- The CMP layout of R124. -/
def packCMP (k : BitVec 3) (p : BitVec 3) (n : BitVec 1) (a : BitVec 7) (b : BitVec 7) (fn : BitVec 3) : BitVec 24 :=
  k ++ p ++ n ++ a ++ b ++ fn
/-- The MEM layout of R124. -/
def packMEM (d : BitVec 6) (n : BitVec 1) (r : BitVec 4) (x : BitVec 7) (fn : BitVec 6) : BitVec 24 :=
  d ++ n ++ r ++ x ++ fn
/-- The ENG layout of R124. -/
def packENG (q : BitVec 4) (w : BitVec 5) (t : BitVec 4) (s : BitVec 3) (m : BitVec 5) (fn : BitVec 3) : BitVec 24 :=
  q ++ w ++ t ++ s ++ m ++ fn
/-- The SYS layout of R124. -/
def packSYS (d : BitVec 6) (n : BitVec 1) (z : BitVec 5) (sr : BitVec 12) : BitVec 24 :=
  d ++ n ++ z ++ sr

/-! ### Operand classes (R119, R121) -/

/-- One bit as a truth value. -/
def bit (b : BitVec 1) : Bool := b = 1#1
/-- A truth value as one bit. -/
def ofBit (b : Bool) : BitVec 1 := if b then 1#1 else 0#1
/-- A lane source selector (R119). -/
def srcOf (a : BitVec 7) : Option Src :=
  if a.extractLsb' 6 1 = 0#1 then some (.reg (a.extractLsb' 0 6))
  else if a.extractLsb' 3 3 = 0#3 then some (.latch (a.extractLsb' 0 3)) else none
/-- The selector of a lane source. -/
def srcBits : Src → BitVec 7
  | .reg n => 0#1 ++ n
  | .latch k => 1#1 ++ 0#3 ++ k
/-- A lane destination with N (R121): with N set, d must be zero. -/
def dstOf (d : BitVec 6) (n : BitVec 1) : Option Dst :=
  if n = 0#1 then some (.reg d) else if d = 0#6 then some .latch else none
/-- The d field of a lane destination. -/
def dstD : Dst → BitVec 6
  | .reg n => n
  | .latch => 0#6
/-- The N bit of a lane destination. -/
def dstN : Dst → BitVec 1
  | .reg _ => 0#1
  | .latch => 1#1
/-- The b field of LSH (R125, R210). -/
def amtOf (b : BitVec 7) : Option Amt :=
  if b.extractLsb' 5 2 = 0#2 then some (.imm (b.extractLsb' 0 5))
  else if b.extractLsb' 5 2 = 1#2 then some (.reg (b.extractLsb' 0 5)) else none
/-- The b field that says an LSH amount. -/
def amtBits : Amt → BitVec 7
  | .imm s => 0#2 ++ s
  | .reg n => 1#2 ++ n
/-- A 6-bit d field of a class of p0 to p7 (R119). -/
def low3 (d : BitVec 6) : Option (BitVec 3) :=
  if d.extractLsb' 3 3 = 0#3 then some (d.extractLsb' 0 3) else none
/-- The d field of a register of p0 to p7. -/
def up3 (n : BitVec 3) : BitVec 6 := 0#3 ++ n
/-- A 6-bit d field of a class of sixteen registers (R119). -/
def low4 (d : BitVec 6) : Option (BitVec 4) :=
  if d.extractLsb' 4 2 = 0#2 then some (d.extractLsb' 0 4) else none
/-- The d field of a register of sixteen registers. -/
def up4 (n : BitVec 4) : BitVec 6 := 0#2 ++ n
/-- A 6-bit d field of a class of w0 to w31 (R119). -/
def low5 (d : BitVec 6) : Option (BitVec 5) :=
  if d.extractLsb' 5 1 = 0#1 then some (d.extractLsb' 0 5) else none
/-- The d field of a register of w0 to w31. -/
def up5 (n : BitVec 5) : BitVec 6 := 0#1 ++ n
/-- A selector that must name a register of p0 to p7: no latch (R119). -/
def sel3 (a : BitVec 7) : Option (BitVec 3) :=
  if a.extractLsb' 3 4 = 0#4 then some (a.extractLsb' 0 3) else none
/-- The selector of a register of p0 to p7. -/
def selUp3 (n : BitVec 3) : BitVec 7 := 0#4 ++ n
/-- A selector that must name a register of b0 to b15: no latch (R119). -/
def sel4 (a : BitVec 7) : Option (BitVec 4) :=
  if a.extractLsb' 4 3 = 0#3 then some (a.extractLsb' 0 4) else none
/-- The selector of a register of b0 to b15. -/
def selUp4 (n : BitVec 4) : BitVec 7 := 0#3 ++ n
/-- A selector that must name a register of w0 to w31: no latch (R119). -/
def sel5 (a : BitVec 7) : Option (BitVec 5) :=
  if a.extractLsb' 5 2 = 0#2 then some (a.extractLsb' 0 5) else none
/-- The selector of a register of w0 to w31. -/
def selUp5 (n : BitVec 5) : BitVec 7 := 0#2 ++ n
/-- A selector that must name a register of v0 to v63: no latch (R119). -/
def sel6 (a : BitVec 7) : Option (BitVec 6) :=
  if a.extractLsb' 6 1 = 0#1 then some (a.extractLsb' 0 6) else none
/-- The selector of a register of v0 to v63. -/
def selUp6 (n : BitVec 6) : BitVec 7 := 0#1 ++ n

/-! ### Codes of selecting fields (R125) -/

/-- The integer compare conditions (R125) by code. -/
def ICond.ofCode (k : BitVec 3) : Option ICond :=
  match k.toNat with
  | 0 => some .eq
  | 1 => some .ne
  | 2 => some .lt
  | 3 => some .le
  | 4 => some .ltu
  | 5 => some .leu
  | 6 => some .gt
  | 7 => some .ge
  | _ => none
/-- The code of a member of the integer compare conditions (R125). -/
def ICond.code : ICond → BitVec 3
  | .eq => 0#3
  | .ne => 1#3
  | .lt => 2#3
  | .le => 3#3
  | .ltu => 4#3
  | .leu => 5#3
  | .gt => 6#3
  | .ge => 7#3
/-- The float compare conditions (R125) by code. -/
def FCond.ofCode (k : BitVec 3) : Option FCond :=
  match k.toNat with
  | 0 => some .eq
  | 1 => some .ne
  | 2 => some .lt
  | 3 => some .le
  | 4 => some .gt
  | 5 => some .ge
  | 6 => some .un
  | 7 => some .ord
  | _ => none
/-- The code of a member of the float compare conditions (R125). -/
def FCond.code : FCond → BitVec 3
  | .eq => 0#3
  | .ne => 1#3
  | .lt => 2#3
  | .le => 3#3
  | .gt => 4#3
  | .ge => 5#3
  | .un => 6#3
  | .ord => 7#3
/-- The overflow policies (R72) by code. -/
def Pol.ofCode (k : BitVec 2) : Option Pol :=
  match k.toNat with
  | 0 => some .sat
  | 1 => some .inf
  | 2 => some .nan
  | 3 => some .trap
  | _ => none
/-- The code of a member of the overflow policies (R72). -/
def Pol.code : Pol → BitVec 2
  | .sat => 0#2
  | .inf => 1#2
  | .nan => 2#2
  | .trap => 3#2
/-- The rounding codes (R71) by code. -/
def Rnd.ofCode (k : BitVec 2) : Option Rnd :=
  match k.toNat with
  | 0 => some .rne
  | 1 => some .rtz
  | 2 => some .rdn
  | 3 => some .rup
  | _ => none
/-- The code of a member of the rounding codes (R71). -/
def Rnd.code : Rnd → BitVec 2
  | .rne => 0#2
  | .rtz => 1#2
  | .rdn => 2#2
  | .rup => 3#2
/-- The atomic operations (R125) by code. -/
def AtomOp.ofCode (k : BitVec 3) : Option AtomOp :=
  match k.toNat with
  | 0 => some .add
  | 1 => some .min
  | 2 => some .max
  | 3 => some .and
  | 4 => some .or
  | 5 => some .xor
  | 6 => some .xchg
  | 7 => some .cas
  | _ => none
/-- The code of a member of the atomic operations (R125). -/
def AtomOp.code : AtomOp → BitVec 3
  | .add => 0#3
  | .min => 1#3
  | .max => 2#3
  | .and => 3#3
  | .or => 4#3
  | .xor => 5#3
  | .xchg => 6#3
  | .cas => 7#3
/-- The fence scopes (R87) by code. -/
def Scope.ofCode (k : BitVec 2) : Option Scope :=
  match k.toNat with
  | 0 => some .wave
  | 1 => some .core
  | 2 => some .device
  | 3 => some .system
  | _ => none
/-- The code of a member of the fence scopes (R87). -/
def Scope.code : Scope → BitVec 2
  | .wave => 0#2
  | .core => 1#2
  | .device => 2#2
  | .system => 3#2
/-- The WAITV tests (R234) by code. -/
def PollCond.ofCode (k : BitVec 2) : Option PollCond :=
  match k.toNat with
  | 0 => some .eq
  | 1 => some .ne
  | 2 => some .ge
  | 3 => some .lt
  | _ => none
/-- The code of a member of the WAITV tests (R234). -/
def PollCond.code : PollCond → BitVec 2
  | .eq => 0#2
  | .ne => 1#2
  | .ge => 2#2
  | .lt => 3#2
/-- The load modes (R125) by code. -/
def LdMode.ofCode (k : BitVec 3) : Option LdMode :=
  match k.toNat with
  | 0 => some .plain
  | 1 => some .acq
  | 2 => some .nolease
  | _ => none
/-- The code of a member of the load modes (R125). -/
def LdMode.code : LdMode → BitVec 3
  | .plain => 0#3
  | .acq => 1#3
  | .nolease => 2#3
/-- The store modes (R125) by code. -/
def StMode.ofCode (k : BitVec 3) : Option StMode :=
  match k.toNat with
  | 0 => some .plain
  | 1 => some .rel
  | 2 => some .stream
  | _ => none
/-- The code of a member of the store modes (R125). -/
def StMode.code : StMode → BitVec 3
  | .plain => 0#3
  | .rel => 1#3
  | .stream => 2#3
/-- The access widths (R224) by code. -/
def Width.ofCode (k : BitVec 3) : Option Width :=
  match k.toNat with
  | 0 => some .b8
  | 1 => some .b16
  | 2 => some .b32
  | 3 => some .b64
  | 4 => some .b128
  | 5 => some .s8
  | 6 => some .s16
  | _ => none
/-- The code of a member of the access widths (R224). -/
def Width.code : Width → BitVec 3
  | .b8 => 0#3
  | .b16 => 1#3
  | .b32 => 2#3
  | .b64 => 3#3
  | .b128 => 4#3
  | .s8 => 5#3
  | .s16 => 6#3
/-- The uniform access widths (R225) by code. -/
def WidthW.ofCode (k : BitVec 2) : Option WidthW :=
  match k.toNat with
  | 0 => some .b32
  | 1 => some .b64
  | _ => none
/-- The code of a member of the uniform access widths (R225). -/
def WidthW.code : WidthW → BitVec 2
  | .b32 => 0#2
  | .b64 => 1#2
/-- The narrow floating types as T3 of FCVT and FUPCVT (R199) by code. -/
def FTy.ofCode (k : BitVec 3) : Option FTy :=
  match k.toNat with
  | 1 => some .bf16
  | 2 => some .fp16
  | 3 => some .e4m3
  | 4 => some .e5m2
  | _ => none
/-- The code of a member of the narrow floating types as T3 of FCVT and FUPCVT (R199). -/
def FTy.code : FTy → BitVec 3
  | .bf16 => 1#3
  | .fp16 => 2#3
  | .e4m3 => 3#3
  | .e5m2 => 4#3
/-- The integer types as T3 of ICVTF and FCVTI (R200) by code. -/
def ITy.ofCode (k : BitVec 3) : Option ITy :=
  match k.toNat with
  | 0 => some .int32
  | 5 => some .int8
  | 6 => some .int4
  | _ => none
/-- The code of a member of the integer types as T3 of ICVTF and FCVTI (R200). -/
def ITy.code : ITy → BitVec 3
  | .int32 => 0#3
  | .int8 => 5#3
  | .int4 => 6#3
/-- The CERED operations (R308) by code. -/
def RedOp.ofCode (k : BitVec 2) : Option RedOp :=
  match k.toNat with
  | 0 => some .add
  | 1 => some .mov
  | 2 => some .sub
  | _ => none
/-- The code of a member of the CERED operations (R308). -/
def RedOp.code : RedOp → BitVec 2
  | .add => 0#2
  | .mov => 1#2
  | .sub => 2#2

/-! ### One decoder for each major opcode (R126) -/

/-- Major 0x00: NOP, EXIT, YIELD, RET, BKPT, TRAP, WAITEV. -/
def decode00 (x : BitVec 24) : Option Instr :=
  match (fFn x).toNat with
  | 0 => if fD x = 0#6 ∧ fN x = 0#1 ∧ fA x = 0#7 ∧ fB x = 0#7 then some .nop else none
  | 1 => if fD x = 0#6 ∧ fN x = 0#1 ∧ fA x = 0#7 ∧ fB x = 0#7 then some .exit else none
  | 2 => if fD x = 0#6 ∧ fN x = 0#1 ∧ fA x = 0#7 ∧ fB x = 0#7 then some .yield else none
  | 3 => if fD x = 0#6 ∧ fN x = 0#1 ∧ fA x = 0#7 ∧ fB x = 0#7 then some .ret else none
  | 4 => if fD x = 0#6 ∧ fN x = 0#1 ∧ fA x = 0#7 ∧ fB x = 0#7 then some .bkpt else none
  | 5 => if fD x = 0#6 ∧ fN x = 0#1 ∧ fA x = 0#7 ∧ fB x = 0#7 then some .trap else none
  | 6 => if fD x = 0#6 ∧ fN x = 0#1 ∧ fB x = 0#7 then (do let a ← sel5 (fA x); some (.waitev a)) else none
  | _ => none
/-- Major 0x01: BRA, BRT, BRF, BRANY, BRALL, CALL. -/
def decode01 (x : BitVec 24) : Option Instr :=
  match (fCond x).toNat with
  | 0 => if fP x = 0#3 then some (.bra (fOff18 x)) else none
  | 1 => some (.brt (fP x) (fOff18 x))
  | 2 => some (.brf (fP x) (fOff18 x))
  | 3 => some (.brany (fP x) (fOff18 x))
  | 4 => some (.brall (fP x) (fOff18 x))
  | 5 => if fP x = 0#3 then some (.call (fOff18 x)) else none
  | _ => none
/-- Major 0x02: JMPI, CALLI. -/
def decode02 (x : BitVec 24) : Option Instr :=
  match (fFn x).toNat with
  | 0 => if fD x = 0#6 ∧ fN x = 0#1 ∧ fB x = 0#7 then (do let a ← sel5 (fA x); some (.jmpi a)) else none
  | 1 => if fD x = 0#6 ∧ fN x = 0#1 ∧ fB x = 0#7 then (do let a ← srcOf (fA x); some (.calli a)) else none
  | _ => none
/-- Major 0x03: LOOP. -/
def decode03 (x : BitVec 24) : Option Instr :=
  if fN x = 0#1 ∧ fA x = 0#7 then (do let d ← low5 (fD x); some (.loop d (fImm10 x))) else none
/-- Major 0x04: GUARD. -/
def decode04 (x : BitVec 24) : Option Instr :=
  if fZ20 x = 0#20 then some (.guard (fCond x) (bit (fSense x))) else none
/-- Major 0x05: PAND, POR, PXOR, PANDN, PMOV, PTOV, BALLOT, VOTE. -/
def decode05 (x : BitVec 24) : Option Instr :=
  match (fFn x).toNat with
  | 0 => if fN x = 0#1 then (do let d ← low3 (fD x); let a ← sel3 (fA x); let b ← sel3 (fB x); some (.pand d a b)) else none
  | 1 => if fN x = 0#1 then (do let d ← low3 (fD x); let a ← sel3 (fA x); let b ← sel3 (fB x); some (.por d a b)) else none
  | 2 => if fN x = 0#1 then (do let d ← low3 (fD x); let a ← sel3 (fA x); let b ← sel3 (fB x); some (.pxor d a b)) else none
  | 3 => if fN x = 0#1 then (do let d ← low3 (fD x); let a ← sel3 (fA x); let b ← sel3 (fB x); some (.pandn d a b)) else none
  | 4 => if fN x = 0#1 ∧ fB x = 0#7 then (do let d ← low3 (fD x); let a ← sel3 (fA x); some (.pmov d a)) else none
  | 5 => if fN x = 0#1 ∧ fB x = 0#7 then (do let a ← sel3 (fA x); some (.ptov (fD x) a)) else none
  | 6 => if fN x = 0#1 ∧ fB x = 0#7 then (do let d ← low5 (fD x); let a ← sel3 (fA x); some (.ballot d a)) else none
  | 7 => if fN x = 0#1 ∧ fB x = 0#7 then (do let d ← low3 (fD x); let a ← sel3 (fA x); some (.vote d a)) else none
  | _ => none
/-- Major 0x06: JOIN, LEAVE, ARRIVE, BARW, WAITB, CASTQ. -/
def decode06 (x : BitVec 24) : Option Instr :=
  match (fFn x).toNat with
  | 0 => if fD x = 0#6 ∧ fN x = 0#1 ∧ fA x = 0#7 ∧ (fB x).extractLsb' 4 3 = 0#3 then some (.join ((fB x).extractLsb' 0 4)) else none
  | 1 => if fD x = 0#6 ∧ fN x = 0#1 ∧ fA x = 0#7 ∧ fB x = 0#7 then some .leave else none
  | 2 => if fD x = 0#6 ∧ fN x = 0#1 ∧ fA x = 0#7 ∧ (fB x).extractLsb' 4 3 = 0#3 then some (.arrive ((fB x).extractLsb' 0 4)) else none
  | 3 => if fD x = 0#6 ∧ fN x = 0#1 ∧ fA x = 0#7 ∧ (fB x).extractLsb' 4 3 = 0#3 then some (.barw ((fB x).extractLsb' 0 4)) else none
  | 4 => if fD x = 0#6 ∧ fN x = 0#1 ∧ fA x = 0#7 ∧ (fB x).extractLsb' 4 3 = 0#3 then some (.waitb ((fB x).extractLsb' 0 4)) else none
  | 5 => if fN x = 0#1 ∧ fA x = 0#7 ∧ (fB x).extractLsb' 4 3 = 0#3 then (do let d ← low5 (fD x); some (.castq d ((fB x).extractLsb' 0 4))) else none
  | _ => none
/-- Major 0x08: IADD, ISUB, AND, OR, XOR, ANDN, IMIN, IMAX. -/
def decode08 (x : BitVec 24) : Option Instr :=
  match (fFn x).toNat with
  | 0 => do let d ← dstOf (fD x) (fN x); let a ← srcOf (fA x); let b ← srcOf (fB x); some (.iadd d a b)
  | 1 => do let d ← dstOf (fD x) (fN x); let a ← srcOf (fA x); let b ← srcOf (fB x); some (.isub d a b)
  | 2 => do let d ← dstOf (fD x) (fN x); let a ← srcOf (fA x); let b ← srcOf (fB x); some (.and d a b)
  | 3 => do let d ← dstOf (fD x) (fN x); let a ← srcOf (fA x); let b ← srcOf (fB x); some (.or d a b)
  | 4 => do let d ← dstOf (fD x) (fN x); let a ← srcOf (fA x); let b ← srcOf (fB x); some (.xor d a b)
  | 5 => do let d ← dstOf (fD x) (fN x); let a ← srcOf (fA x); let b ← srcOf (fB x); some (.andn d a b)
  | 6 => do let d ← dstOf (fD x) (fN x); let a ← srcOf (fA x); let b ← srcOf (fB x); some (.imin d a b)
  | 7 => do let d ← dstOf (fD x) (fN x); let a ← srcOf (fA x); let b ← srcOf (fB x); some (.imax d a b)
  | _ => none
/-- Major 0x09: SHL, SHR, SAR, ROL, IMINU, IMAXU, AMIN, IABSD. -/
def decode09 (x : BitVec 24) : Option Instr :=
  match (fFn x).toNat with
  | 0 => do let d ← dstOf (fD x) (fN x); let a ← srcOf (fA x); let b ← srcOf (fB x); some (.shl d a b)
  | 1 => do let d ← dstOf (fD x) (fN x); let a ← srcOf (fA x); let b ← srcOf (fB x); some (.shr d a b)
  | 2 => do let d ← dstOf (fD x) (fN x); let a ← srcOf (fA x); let b ← srcOf (fB x); some (.sar d a b)
  | 3 => do let d ← dstOf (fD x) (fN x); let a ← srcOf (fA x); let b ← srcOf (fB x); some (.rol d a b)
  | 4 => do let d ← dstOf (fD x) (fN x); let a ← srcOf (fA x); let b ← srcOf (fB x); some (.iminu d a b)
  | 5 => do let d ← dstOf (fD x) (fN x); let a ← srcOf (fA x); let b ← srcOf (fB x); some (.imaxu d a b)
  | 6 => if fN x = 0#1 then (do let a ← srcOf (fA x); let b ← srcOf (fB x); some (.amin (fD x) a b)) else none
  | 7 => do let d ← dstOf (fD x) (fN x); let a ← srcOf (fA x); let b ← srcOf (fB x); some (.iabsd d a b)
  | _ => none
/-- Major 0x0A: IMUL, IMULH, IMULHU, IMAD, CLZ, POPC, BREV, IABS. -/
def decode0A (x : BitVec 24) : Option Instr :=
  match (fFn x).toNat with
  | 0 => do let d ← dstOf (fD x) (fN x); let a ← srcOf (fA x); let b ← srcOf (fB x); some (.imul d a b)
  | 1 => do let d ← dstOf (fD x) (fN x); let a ← srcOf (fA x); let b ← srcOf (fB x); some (.imulh d a b)
  | 2 => do let d ← dstOf (fD x) (fN x); let a ← srcOf (fA x); let b ← srcOf (fB x); some (.imulhu d a b)
  | 3 => if fN x = 0#1 then (do let a ← srcOf (fA x); let b ← srcOf (fB x); some (.imad (fD x) a b)) else none
  | 4 => if fB x = 0#7 then (do let d ← dstOf (fD x) (fN x); let a ← srcOf (fA x); some (.clz d a)) else none
  | 5 => if fB x = 0#7 then (do let d ← dstOf (fD x) (fN x); let a ← srcOf (fA x); some (.popc d a)) else none
  | 6 => if fB x = 0#7 then (do let d ← dstOf (fD x) (fN x); let a ← srcOf (fA x); some (.brev d a)) else none
  | 7 => if fB x = 0#7 then (do let d ← dstOf (fD x) (fN x); let a ← srcOf (fA x); some (.iabs d a)) else none
  | _ => none
/-- Major 0x0B: ICMP, ICMP_W. -/
def decode0B (x : BitVec 24) : Option Instr :=
  match (fFn x).toNat with
  | 0 => if fN x = 0#1 then (do let cond ← ICond.ofCode (fCond x); let a ← srcOf (fA x); let b ← srcOf (fB x); some (.icmp cond (fP x) a b)) else none
  | 1 => if fN x = 0#1 then (do let cond ← ICond.ofCode (fCond x); let a ← sel5 (fA x); let b ← sel5 (fB x); some (.icmpW cond (fP x) a b)) else none
  | _ => none
/-- Major 0x0C: IADDI. -/
def decode0C (x : BitVec 24) : Option Instr :=
  do let d ← dstOf (fD x) (fN x); let a ← srcOf (fA x); some (.iaddi d a (fImm10 x))
/-- Major 0x0D: SHLI, SHRI, SARI, ROLI. -/
def decode0D (x : BitVec 24) : Option Instr :=
  match ((fImm10 x).extractLsb' 5 5).toNat with
  | 0 => do let d ← dstOf (fD x) (fN x); let a ← srcOf (fA x); some (.shli d a ((fImm10 x).extractLsb' 0 5))
  | 8 => do let d ← dstOf (fD x) (fN x); let a ← srcOf (fA x); some (.shri d a ((fImm10 x).extractLsb' 0 5))
  | 16 => do let d ← dstOf (fD x) (fN x); let a ← srcOf (fA x); some (.sari d a ((fImm10 x).extractLsb' 0 5))
  | 24 => do let d ← dstOf (fD x) (fN x); let a ← srcOf (fA x); some (.roli d a ((fImm10 x).extractLsb' 0 5))
  | _ => none
/-- Major 0x0E: MOVI. -/
def decode0E (x : BitVec 24) : Option Instr :=
  do let d ← dstOf (fD x) (fN x); some (.movi d (fImm17 x))
/-- Major 0x0F: MOVHI. -/
def decode0F (x : BitVec 24) : Option Instr :=
  if fN x = 0#1 then some (.movhi (fD x) (fImm17 x)) else none
/-- Major 0x10: BFX, BFI, IADD64, ISUB64, SHL64, IMULW, PACK16, BYTEPERM. -/
def decode10 (x : BitVec 24) : Option Instr :=
  match (fFn x).toNat with
  | 0 => do let d ← dstOf (fD x) (fN x); let a ← srcOf (fA x); let b ← srcOf (fB x); some (.bfx d a b)
  | 1 => if fN x = 0#1 then (do let a ← srcOf (fA x); let b ← srcOf (fB x); some (.bfi (fD x) a b)) else none
  | 2 => if fN x = 0#1 then (do let a ← sel6 (fA x); let b ← sel6 (fB x); some (.iadd64 (fD x) a b)) else none
  | 3 => if fN x = 0#1 then (do let a ← sel6 (fA x); let b ← sel6 (fB x); some (.isub64 (fD x) a b)) else none
  | 4 => if fN x = 0#1 then (do let a ← sel6 (fA x); let b ← srcOf (fB x); some (.shl64 (fD x) a b)) else none
  | 5 => if fN x = 0#1 then (do let a ← srcOf (fA x); let b ← srcOf (fB x); some (.imulw (fD x) a b)) else none
  | 6 => do let d ← dstOf (fD x) (fN x); let a ← srcOf (fA x); let b ← srcOf (fB x); some (.pack16 d a b)
  | 7 => if fN x = 0#1 then (do let a ← srcOf (fA x); let b ← srcOf (fB x); some (.byteperm (fD x) a b)) else none
  | _ => none
/-- Major 0x11: SEL. -/
def decode11 (x : BitVec 24) : Option Instr :=
  do let d ← dstOf (fD x) (fN x); let a ← srcOf (fA x); let b ← srcOf (fB x); some (.sel d a b (fFn x))
/-- Major 0x12: WADD, WSUB, WAND, WOR, WXOR, WSHL, WSHR, WMUL. -/
def decode12 (x : BitVec 24) : Option Instr :=
  match (fFn x).toNat with
  | 0 => if fN x = 0#1 then (do let d ← low5 (fD x); let a ← sel5 (fA x); let b ← sel5 (fB x); some (.wadd d a b)) else none
  | 1 => if fN x = 0#1 then (do let d ← low5 (fD x); let a ← sel5 (fA x); let b ← sel5 (fB x); some (.wsub d a b)) else none
  | 2 => if fN x = 0#1 then (do let d ← low5 (fD x); let a ← sel5 (fA x); let b ← sel5 (fB x); some (.wand d a b)) else none
  | 3 => if fN x = 0#1 then (do let d ← low5 (fD x); let a ← sel5 (fA x); let b ← sel5 (fB x); some (.wor d a b)) else none
  | 4 => if fN x = 0#1 then (do let d ← low5 (fD x); let a ← sel5 (fA x); let b ← sel5 (fB x); some (.wxor d a b)) else none
  | 5 => if fN x = 0#1 then (do let d ← low5 (fD x); let a ← sel5 (fA x); let b ← sel5 (fB x); some (.wshl d a b)) else none
  | 6 => if fN x = 0#1 then (do let d ← low5 (fD x); let a ← sel5 (fA x); let b ← sel5 (fB x); some (.wshr d a b)) else none
  | 7 => if fN x = 0#1 then (do let d ← low5 (fD x); let a ← sel5 (fA x); let b ← sel5 (fB x); some (.wmul d a b)) else none
  | _ => none
/-- Major 0x13: WMIN, WMAX, WSAR, VTOW, WTOV, WSEL, WCLZ, WPOPC. -/
def decode13 (x : BitVec 24) : Option Instr :=
  match (fFn x).toNat with
  | 0 => if fN x = 0#1 then (do let d ← low5 (fD x); let a ← sel5 (fA x); let b ← sel5 (fB x); some (.wmin d a b)) else none
  | 1 => if fN x = 0#1 then (do let d ← low5 (fD x); let a ← sel5 (fA x); let b ← sel5 (fB x); some (.wmax d a b)) else none
  | 2 => if fN x = 0#1 then (do let d ← low5 (fD x); let a ← sel5 (fA x); let b ← sel5 (fB x); some (.wsar d a b)) else none
  | 3 => if fN x = 0#1 ∧ fB x = 0#7 then (do let d ← low5 (fD x); let a ← srcOf (fA x); some (.vtow d a)) else none
  | 4 => if fB x = 0#7 then (do let d ← dstOf (fD x) (fN x); let a ← sel5 (fA x); some (.wtov d a)) else none
  | 5 => if fN x = 0#1 then (do let d ← low5 (fD x); let a ← sel5 (fA x); let b ← sel5 (fB x); some (.wsel d a b)) else none
  | 6 => if fN x = 0#1 ∧ fB x = 0#7 then (do let d ← low5 (fD x); let a ← sel5 (fA x); some (.wclz d a)) else none
  | 7 => if fN x = 0#1 ∧ fB x = 0#7 then (do let d ← low5 (fD x); let a ← sel5 (fA x); some (.wpopc d a)) else none
  | _ => none
/-- Major 0x14: WADDI. -/
def decode14 (x : BitVec 24) : Option Instr :=
  if fN x = 0#1 then (do let d ← low5 (fD x); let a ← sel5 (fA x); some (.waddi d a (fImm10 x))) else none
/-- Major 0x15: WMOVI. -/
def decode15 (x : BitVec 24) : Option Instr :=
  if fN x = 0#1 then (do let d ← low5 (fD x); some (.wmovi d (fImm17 x))) else none
/-- Major 0x16: WMOVK. -/
def decode16 (x : BitVec 24) : Option Instr :=
  do let d ← low5 (fD x); some (.wmovk d (fPos x) (fImm16 x))
/-- Major 0x17: RAND32, RANDF, RSEED, RCTR. -/
def decode17 (x : BitVec 24) : Option Instr :=
  match (fFn x).toNat with
  | 0 => if fA x = 0#7 ∧ fB x = 0#7 then (do let d ← dstOf (fD x) (fN x); some (.rand32 d)) else none
  | 1 => if fA x = 0#7 ∧ fB x = 0#7 then (do let d ← dstOf (fD x) (fN x); some (.randf d)) else none
  | 2 => if fD x = 0#6 ∧ fN x = 0#1 ∧ fB x = 0#7 then (do let a ← sel5 (fA x); some (.rseed a)) else none
  | 3 => if fB x = 0#7 then (do let d ← dstOf (fD x) (fN x); let a ← srcOf (fA x); some (.rctr d a)) else none
  | _ => none
/-- Major 0x18: FADD, FSUB, FMUL, FFMA, FMIN, FMAX, FAMIN, FFMS. -/
def decode18 (x : BitVec 24) : Option Instr :=
  match (fFn x).toNat with
  | 0 => do let d ← dstOf (fD x) (fN x); let a ← srcOf (fA x); let b ← srcOf (fB x); some (.fadd d a b)
  | 1 => do let d ← dstOf (fD x) (fN x); let a ← srcOf (fA x); let b ← srcOf (fB x); some (.fsub d a b)
  | 2 => do let d ← dstOf (fD x) (fN x); let a ← srcOf (fA x); let b ← srcOf (fB x); some (.fmul d a b)
  | 3 => if fN x = 0#1 then (do let a ← srcOf (fA x); let b ← srcOf (fB x); some (.ffma (fD x) a b)) else none
  | 4 => do let d ← dstOf (fD x) (fN x); let a ← srcOf (fA x); let b ← srcOf (fB x); some (.fmin d a b)
  | 5 => do let d ← dstOf (fD x) (fN x); let a ← srcOf (fA x); let b ← srcOf (fB x); some (.fmax d a b)
  | 6 => do let d ← dstOf (fD x) (fN x); let a ← srcOf (fA x); let b ← srcOf (fB x); some (.famin d a b)
  | 7 => if fN x = 0#1 then (do let a ← srcOf (fA x); let b ← srcOf (fB x); some (.ffms (fD x) a b)) else none
  | _ => none
/-- Major 0x19: BADD2, BMUL2, BFMA2, BMAX2, HADD2, HMUL2, HFMA2, HMAX2. -/
def decode19 (x : BitVec 24) : Option Instr :=
  match (fFn x).toNat with
  | 0 => do let d ← dstOf (fD x) (fN x); let a ← srcOf (fA x); let b ← srcOf (fB x); some (.badd2 d a b)
  | 1 => do let d ← dstOf (fD x) (fN x); let a ← srcOf (fA x); let b ← srcOf (fB x); some (.bmul2 d a b)
  | 2 => if fN x = 0#1 then (do let a ← srcOf (fA x); let b ← srcOf (fB x); some (.bfma2 (fD x) a b)) else none
  | 3 => do let d ← dstOf (fD x) (fN x); let a ← srcOf (fA x); let b ← srcOf (fB x); some (.bmax2 d a b)
  | 4 => do let d ← dstOf (fD x) (fN x); let a ← srcOf (fA x); let b ← srcOf (fB x); some (.hadd2 d a b)
  | 5 => do let d ← dstOf (fD x) (fN x); let a ← srcOf (fA x); let b ← srcOf (fB x); some (.hmul2 d a b)
  | 6 => if fN x = 0#1 then (do let a ← srcOf (fA x); let b ← srcOf (fB x); some (.hfma2 (fD x) a b)) else none
  | 7 => do let d ← dstOf (fD x) (fN x); let a ← srcOf (fA x); let b ← srcOf (fB x); some (.hmax2 d a b)
  | _ => none
/-- Major 0x1A: FRCP, FRSQ, FSQRT, FEXP2, FLOG2, FTANH, FSIN2PI, FRND. -/
def decode1A (x : BitVec 24) : Option Instr :=
  match (fFn x).toNat with
  | 0 => if fB x = 0#7 then (do let d ← dstOf (fD x) (fN x); let a ← srcOf (fA x); some (.frcp d a)) else none
  | 1 => if fB x = 0#7 then (do let d ← dstOf (fD x) (fN x); let a ← srcOf (fA x); some (.frsq d a)) else none
  | 2 => if fB x = 0#7 then (do let d ← dstOf (fD x) (fN x); let a ← srcOf (fA x); some (.fsqrt d a)) else none
  | 3 => if fB x = 0#7 then (do let d ← dstOf (fD x) (fN x); let a ← srcOf (fA x); some (.fexp2 d a)) else none
  | 4 => if fB x = 0#7 then (do let d ← dstOf (fD x) (fN x); let a ← srcOf (fA x); some (.flog2 d a)) else none
  | 5 => if fB x = 0#7 then (do let d ← dstOf (fD x) (fN x); let a ← srcOf (fA x); some (.ftanh d a)) else none
  | 6 => if fB x = 0#7 then (do let d ← dstOf (fD x) (fN x); let a ← srcOf (fA x); some (.fsin2pi d a)) else none
  | 7 => if (fB x).extractLsb' 2 5 = 0#5 then (do let d ← dstOf (fD x) (fN x); let a ← srcOf (fA x); let rnd ← Rnd.ofCode ((fB x).extractLsb' 0 2); some (.frnd d a rnd)) else none
  | _ => none
/-- Major 0x1B: FDIV, FABS, FNEG, FCPYS, FCLASS, FSCALE, FEXPT. -/
def decode1B (x : BitVec 24) : Option Instr :=
  match (fFn x).toNat with
  | 0 => do let d ← dstOf (fD x) (fN x); let a ← srcOf (fA x); let b ← srcOf (fB x); some (.fdiv d a b)
  | 1 => if fB x = 0#7 then (do let d ← dstOf (fD x) (fN x); let a ← srcOf (fA x); some (.fabs d a)) else none
  | 2 => if fB x = 0#7 then (do let d ← dstOf (fD x) (fN x); let a ← srcOf (fA x); some (.fneg d a)) else none
  | 3 => do let d ← dstOf (fD x) (fN x); let a ← srcOf (fA x); let b ← srcOf (fB x); some (.fcpys d a b)
  | 4 => if fB x = 0#7 then (do let d ← dstOf (fD x) (fN x); let a ← srcOf (fA x); some (.fclass d a)) else none
  | 5 => do let d ← dstOf (fD x) (fN x); let a ← srcOf (fA x); let b ← srcOf (fB x); some (.fscale d a b)
  | 6 => if fB x = 0#7 then (do let d ← dstOf (fD x) (fN x); let a ← srcOf (fA x); some (.fexpt d a)) else none
  | _ => none
/-- Major 0x1C: FCMP. -/
def decode1C (x : BitVec 24) : Option Instr :=
  match (fFn x).toNat with
  | 0 => if fN x = 0#1 then (do let cond ← FCond.ofCode (fCond x); let a ← srcOf (fA x); let b ← srcOf (fB x); some (.fcmp cond (fP x) a b)) else none
  | _ => none
/-- Major 0x1D: FCVT, FUPCVT, ICVTF, FCVTI, QPACK, QUNPACK, I8PACK. -/
def decode1D (x : BitVec 24) : Option Instr :=
  match (fFn x).toNat with
  | 0 => do let d ← dstOf (fD x) (fN x); let a ← srcOf (fA x); let ty ← FTy.ofCode ((fB x).extractLsb' 4 3); let pol ← Pol.ofCode ((fB x).extractLsb' 2 2); let rnd ← Rnd.ofCode ((fB x).extractLsb' 0 2); some (.fcvt d a ty pol rnd)
  | 1 => if (fB x).extractLsb' 0 4 = 0#4 then (do let d ← dstOf (fD x) (fN x); let a ← srcOf (fA x); let ty ← FTy.ofCode ((fB x).extractLsb' 4 3); some (.fupcvt d a ty)) else none
  | 2 => do let d ← dstOf (fD x) (fN x); let a ← srcOf (fA x); let ty ← ITy.ofCode ((fB x).extractLsb' 4 3); let pol ← Pol.ofCode ((fB x).extractLsb' 2 2); let rnd ← Rnd.ofCode ((fB x).extractLsb' 0 2); some (.icvtf d a ty pol rnd)
  | 3 => do let d ← dstOf (fD x) (fN x); let a ← srcOf (fA x); let ty ← ITy.ofCode ((fB x).extractLsb' 4 3); let pol ← Pol.ofCode ((fB x).extractLsb' 2 2); let rnd ← Rnd.ofCode ((fB x).extractLsb' 0 2); some (.fcvti d a ty pol rnd)
  | 4 => do let d ← dstOf (fD x) (fN x); let a ← sel6 (fA x); let pol ← Pol.ofCode ((fB x).extractLsb' 2 2); let rnd ← Rnd.ofCode ((fB x).extractLsb' 0 2); some (.qpack d a ((fB x).extractLsb' 4 3) pol rnd)
  | 5 => if fN x = 0#1 ∧ (fB x).extractLsb' 0 4 = 0#4 then (do let a ← srcOf (fA x); some (.qunpack (fD x) a ((fB x).extractLsb' 4 3))) else none
  | 6 => if (fB x).extractLsb' 4 3 = 0#3 ∧ (fB x).extractLsb' 0 2 = 0#2 then (do let d ← dstOf (fD x) (fN x); let a ← sel6 (fA x); let pol ← Pol.ofCode ((fB x).extractLsb' 2 2); some (.i8pack d a pol)) else none
  | _ => none
/-- Major 0x1E: FFLRD, FFLCLR, FMODE. -/
def decode1E (x : BitVec 24) : Option Instr :=
  match (fFn x).toNat with
  | 0 => if fN x = 0#1 ∧ fA x = 0#7 ∧ fB x = 0#7 then (do let d ← low5 (fD x); some (.fflrd d)) else none
  | 1 => if fD x = 0#6 ∧ fN x = 0#1 ∧ fB x = 0#7 then (do let a ← sel5 (fA x); some (.fflclr a)) else none
  | 2 => if fD x = 0#6 ∧ fN x = 0#1 ∧ fB x = 0#7 then (do let a ← sel5 (fA x); some (.fmode a)) else none
  | _ => none
/-- Major 0x20: LSHUP, LSHDN, LROT, LPERM, LBCAST, LXOR. -/
def decode20 (x : BitVec 24) : Option Instr :=
  match (fFn x).toNat with
  | 0 => do let d ← dstOf (fD x) (fN x); let a ← srcOf (fA x); let b ← amtOf (fB x); some (.lshup d a b)
  | 1 => do let d ← dstOf (fD x) (fN x); let a ← srcOf (fA x); let b ← amtOf (fB x); some (.lshdn d a b)
  | 2 => do let d ← dstOf (fD x) (fN x); let a ← srcOf (fA x); let b ← amtOf (fB x); some (.lrot d a b)
  | 3 => do let d ← dstOf (fD x) (fN x); let a ← srcOf (fA x); let b ← srcOf (fB x); some (.lperm d a b)
  | 4 => do let d ← dstOf (fD x) (fN x); let a ← srcOf (fA x); let b ← amtOf (fB x); some (.lbcast d a b)
  | 5 => do let d ← dstOf (fD x) (fN x); let a ← srcOf (fA x); let b ← amtOf (fB x); some (.lxor d a b)
  | _ => none
/-- Major 0x21: LSCANADD, LSCANMIN, LSCANMAX, LSCANFADD, LREDADD, LREDMIN, LREDMAX, LREDFADD. -/
def decode21 (x : BitVec 24) : Option Instr :=
  match (fFn x).toNat with
  | 0 => if fB x = 0#7 then (do let d ← dstOf (fD x) (fN x); let a ← srcOf (fA x); some (.lscanadd d a)) else none
  | 1 => if fB x = 0#7 then (do let d ← dstOf (fD x) (fN x); let a ← srcOf (fA x); some (.lscanmin d a)) else none
  | 2 => if fB x = 0#7 then (do let d ← dstOf (fD x) (fN x); let a ← srcOf (fA x); some (.lscanmax d a)) else none
  | 3 => if fB x = 0#7 then (do let d ← dstOf (fD x) (fN x); let a ← srcOf (fA x); some (.lscanfadd d a)) else none
  | 4 => if fB x = 0#7 then (do let d ← dstOf (fD x) (fN x); let a ← srcOf (fA x); some (.lredadd d a)) else none
  | 5 => if fB x = 0#7 then (do let d ← dstOf (fD x) (fN x); let a ← srcOf (fA x); some (.lredmin d a)) else none
  | 6 => if fB x = 0#7 then (do let d ← dstOf (fD x) (fN x); let a ← srcOf (fA x); some (.lredmax d a)) else none
  | 7 => if fB x = 0#7 then (do let d ← dstOf (fD x) (fN x); let a ← srcOf (fA x); some (.lredfadd d a)) else none
  | _ => none
/-- Major 0x22: LMATCH, LFIRST. -/
def decode22 (x : BitVec 24) : Option Instr :=
  match (fFn x).toNat with
  | 0 => if fN x = 0#1 ∧ fB x = 0#7 then (do let d ← low3 (fD x); let a ← srcOf (fA x); some (.lmatch d a)) else none
  | 1 => if fN x = 0#1 ∧ fA x = 0#7 ∧ fB x = 0#7 then (do let d ← low3 (fD x); some (.lfirst d)) else none
  | _ => none
/-- Major 0x24: LD. -/
def decode24 (x : BitVec 24) : Option Instr :=
  do let d ← dstOf (fD x) (fN x); let idx ← srcOf (fIdx x); let w ← Width.ofCode ((fFn6 x).extractLsb' 3 3); let mode ← LdMode.ofCode ((fFn6 x).extractLsb' 0 3); some (.ld d (fRec x) idx w mode)
/-- Major 0x25: ST. -/
def decode25 (x : BitVec 24) : Option Instr :=
  if fN x = 0#1 then (do let idx ← srcOf (fIdx x); let w ← Width.ofCode ((fFn6 x).extractLsb' 3 3); let mode ← StMode.ofCode ((fFn6 x).extractLsb' 0 3); some (.st (fD x) (fRec x) idx w mode)) else none
/-- Major 0x26: LDW, STW. -/
def decode26 (x : BitVec 24) : Option Instr :=
  match ((fFn6 x).extractLsb' 5 1).toNat with
  | 0 => if fN x = 0#1 then (do let d ← low5 (fD x); let idx ← sel5 (fIdx x); let w ← WidthW.ofCode ((fFn6 x).extractLsb' 3 2); let mode ← LdMode.ofCode ((fFn6 x).extractLsb' 0 3); some (.ldw d (fRec x) idx w mode)) else none
  | 1 => if fN x = 0#1 then (do let d ← low5 (fD x); let idx ← sel5 (fIdx x); let w ← WidthW.ofCode ((fFn6 x).extractLsb' 3 2); let mode ← StMode.ofCode ((fFn6 x).extractLsb' 0 3); some (.stw d (fRec x) idx w mode)) else none
  | _ => none
/-- Major 0x27: ATOM. -/
def decode27 (x : BitVec 24) : Option Instr :=
  if fN x = 0#1 then (do let idx ← srcOf (fIdx x); let op ← AtomOp.ofCode ((fFn6 x).extractLsb' 3 3); some (.atom (fD x) (fRec x) idx op (bit ((fFn6 x).extractLsb' 2 1)) (bit ((fFn6 x).extractLsb' 1 1)) (bit ((fFn6 x).extractLsb' 0 1)))) else none
/-- Major 0x28: FENCE, STFLUSH, STDROP, STMAP, PREF, WAITV, BBARM, BBWAIT. -/
def decode28 (x : BitVec 24) : Option Instr :=
  match (fFn x).toNat with
  | 0 => if fD x = 0#6 ∧ fN x = 0#1 ∧ (fA x).extractLsb' 2 5 = 0#5 ∧ fB x = 0#7 then (do let scope ← Scope.ofCode ((fA x).extractLsb' 0 2); some (.fence scope)) else none
  | 1 => if (fD x).extractLsb' 0 2 = 0#2 ∧ fN x = 0#1 ∧ fA x = 0#7 ∧ fB x = 0#7 then some (.stflush ((fD x).extractLsb' 2 4)) else none
  | 2 => if (fD x).extractLsb' 0 2 = 0#2 ∧ fN x = 0#1 ∧ fA x = 0#7 ∧ fB x = 0#7 then some (.stdrop ((fD x).extractLsb' 2 4)) else none
  | 3 => if (fD x).extractLsb' 0 2 = 0#2 ∧ fN x = 0#1 ∧ fB x = 0#7 then (do let a ← sel5 (fA x); some (.stmap ((fD x).extractLsb' 2 4) a)) else none
  | 4 => if (fD x).extractLsb' 0 2 = 0#2 ∧ fN x = 0#1 ∧ fB x = 0#7 then (do let idx ← srcOf (fA x); some (.pref ((fD x).extractLsb' 2 4) idx)) else none
  | 5 => if fN x = 0#1 then (do let cond ← PollCond.ofCode ((fD x).extractLsb' 0 2); let idx ← srcOf (fA x); let cmp ← srcOf (fB x); some (.waitv ((fD x).extractLsb' 2 4) cond idx cmp)) else none
  | 6 => if (fD x).extractLsb' 0 2 = 0#2 ∧ fN x = 0#1 ∧ fB x = 0#7 then (do let a ← sel5 (fA x); some (.bbarm ((fD x).extractLsb' 2 4) a)) else none
  | 7 => if (fD x).extractLsb' 0 2 = 0#2 ∧ fN x = 0#1 ∧ fB x = 0#7 then (do let a ← sel5 (fA x); some (.bbwait ((fD x).extractLsb' 2 4) a)) else none
  | _ => none
/-- Major 0x29: BUFSET, BUFGET, BUFNAR. -/
def decode29 (x : BitVec 24) : Option Instr :=
  match (fFn x).toNat with
  | 0 => if fN x = 0#1 ∧ fB x = 0#7 then (do let d ← low4 (fD x); let a ← sel5 (fA x); some (.bufset d a)) else none
  | 1 => if fN x = 0#1 ∧ fB x = 0#7 then (do let d ← low5 (fD x); let a ← sel4 (fA x); some (.bufget d a)) else none
  | 2 => if fN x = 0#1 then (do let d ← low4 (fD x); let a ← sel4 (fA x); let b ← sel5 (fB x); some (.bufnar d a b)) else none
  | _ => none
/-- Major 0x2A: LDS, STS. -/
def decode2A (x : BitVec 24) : Option Instr :=
  match ((fFn6 x).extractLsb' 5 1).toNat with
  | 0 => if (fFn6 x).extractLsb' 0 2 = 0#2 then (do let d ← dstOf (fD x) (fN x); let idx ← srcOf (fIdx x); let w ← Width.ofCode ((fFn6 x).extractLsb' 2 3); some (.lds d (fRec x) idx w)) else none
  | 1 => if fN x = 0#1 ∧ (fFn6 x).extractLsb' 0 2 = 0#2 then (do let idx ← srcOf (fIdx x); let w ← Width.ofCode ((fFn6 x).extractLsb' 2 3); some (.sts (fD x) (fRec x) idx w)) else none
  | _ => none
/-- Major 0x2B: TLBLK, TLBUNLK, TLBPRB. -/
def decode2B (x : BitVec 24) : Option Instr :=
  match (fFn x).toNat with
  | 0 => if fD x = 0#6 ∧ fN x = 0#1 ∧ fB x = 0#7 then (do let a ← sel4 (fA x); some (.tlblk a)) else none
  | 1 => if fD x = 0#6 ∧ fN x = 0#1 ∧ fB x = 0#7 then (do let a ← sel4 (fA x); some (.tlbunlk a)) else none
  | 2 => if fN x = 0#1 then (do let d ← low5 (fD x); let a ← sel4 (fA x); let b ← sel5 (fB x); some (.tlbprb d a b)) else none
  | _ => none
/-- Major 0x2C: QPUSH, QPUSHW, QPOP, QPOPW, QTRY, QTRYW, QLEN, QBIND. -/
def decode2C (x : BitVec 24) : Option Instr :=
  match (fFn x).toNat with
  | 0 => if fN x = 0#1 ∧ fB x = 0#7 then (do let d ← low4 (fD x); let a ← srcOf (fA x); some (.qpush d a)) else none
  | 1 => if fN x = 0#1 ∧ fB x = 0#7 then (do let d ← low4 (fD x); let a ← sel5 (fA x); some (.qpushw d a)) else none
  | 2 => if (fA x).extractLsb' 4 3 = 0#3 ∧ fB x = 0#7 then (do let d ← dstOf (fD x) (fN x); some (.qpop d ((fA x).extractLsb' 0 4))) else none
  | 3 => if fN x = 0#1 ∧ (fA x).extractLsb' 4 3 = 0#3 ∧ fB x = 0#7 then (do let d ← low5 (fD x); some (.qpopw d ((fA x).extractLsb' 0 4))) else none
  | 4 => if fN x = 0#1 ∧ (fA x).extractLsb' 4 3 = 0#3 then (do let b ← sel3 (fB x); some (.qtry (fD x) ((fA x).extractLsb' 0 4) b)) else none
  | 5 => if fN x = 0#1 ∧ (fA x).extractLsb' 4 3 = 0#3 then (do let d ← low5 (fD x); let b ← sel3 (fB x); some (.qtryw d ((fA x).extractLsb' 0 4) b)) else none
  | 6 => if fN x = 0#1 ∧ (fA x).extractLsb' 4 3 = 0#3 ∧ fB x = 0#7 then (do let d ← low5 (fD x); some (.qlen d ((fA x).extractLsb' 0 4))) else none
  | 7 => if fN x = 0#1 ∧ fB x = 0#7 then (do let d ← low4 (fD x); let a ← sel5 (fA x); some (.qbind d a)) else none
  | _ => none
/-- Major 0x2D: SPAWN, WAITC, WITHDRAW, TASKTAG, SIGLEAD. -/
def decode2D (x : BitVec 24) : Option Instr :=
  match (fFn x).toNat with
  | 0 => if fD x = 0#6 ∧ fN x = 0#1 ∧ fB x = 0#7 then (do let a ← sel5 (fA x); some (.spawn a)) else none
  | 1 => if (fD x).extractLsb' 0 2 = 0#2 ∧ fN x = 0#1 ∧ fB x = 0#7 then (do let a ← sel5 (fA x); some (.waitc ((fD x).extractLsb' 2 4) a)) else none
  | 2 => if fN x = 0#1 ∧ fB x = 0#7 then (do let d ← low5 (fD x); let a ← sel5 (fA x); some (.withdraw d a)) else none
  | 3 => if fD x = 0#6 ∧ fN x = 0#1 ∧ fB x = 0#7 then (do let a ← sel5 (fA x); some (.tasktag a)) else none
  | 4 => if fD x = 0#6 ∧ fN x = 0#1 ∧ fB x = 0#7 then (do let a ← sel5 (fA x); some (.siglead a)) else none
  | _ => none
/-- Major 0x30: WBMAC, WBMACP, WBLOAD, WBSWAP, WBZERO. -/
def decode30 (x : BitVec 24) : Option Instr :=
  match (fFn x).toNat with
  | 0 => if fQ x = 0#4 ∧ fMisc x = 0#5 then some (.wbmac (fWbase x) (fTile x) (fSlot x)) else none
  | 1 => if fQ x = 0#4 ∧ (fMisc x).extractLsb' 3 2 = 0#2 then some (.wbmacp (fWbase x) (fTile x) (fSlot x) ((fMisc x).extractLsb' 0 3)) else none
  | 2 => if fQ x = 0#4 ∧ fTile x = 0#4 ∧ fMisc x = 0#5 then some (.wbload (fWbase x) (fSlot x)) else none
  | 3 => if fQ x = 0#4 ∧ fTile x = 0#4 ∧ fSlot x = 0#3 ∧ fMisc x = 0#5 then some (.wbswap (fWbase x)) else none
  | 4 => if fQ x = 0#4 ∧ fSlot x = 0#3 ∧ fMisc x = 0#5 then some (.wbzero (fWbase x) (fTile x)) else none
  | _ => none
/-- Major 0x31: TADD, TSUB, TSHL, TMOV, TNEG, TSLICE, TCVT. -/
def decode31 (x : BitVec 24) : Option Instr :=
  match (fFn x).toNat with
  | 0 => if fQ x = 0#4 ∧ fSlot x = 0#3 ∧ fMisc x = 0#5 then some (.tadd (fWbase x) (fTile x)) else none
  | 1 => if fQ x = 0#4 ∧ fSlot x = 0#3 ∧ fMisc x = 0#5 then some (.tsub (fWbase x) (fTile x)) else none
  | 2 => if fQ x = 0#4 ∧ fSlot x = 0#3 ∧ fMisc x = 0#5 then some (.tshl (fWbase x) (fTile x)) else none
  | 3 => if fQ x = 0#4 ∧ fSlot x = 0#3 ∧ fMisc x = 0#5 then some (.tmov (fWbase x) (fTile x)) else none
  | 4 => if fQ x = 0#4 ∧ fSlot x = 0#3 ∧ fMisc x = 0#5 then some (.tneg (fWbase x) (fTile x)) else none
  | 5 => if fQ x = 0#4 ∧ fSlot x = 0#3 ∧ fMisc x = 0#5 then some (.tslice (fWbase x) (fTile x)) else none
  | 6 => if fQ x = 0#4 ∧ fMisc x = 0#5 then some (.tcvt (fWbase x) (fTile x) (fSlot x)) else none
  | _ => none
/-- Major 0x32: SETTLE, TLIN, TRD, TWR. -/
def decode32 (x : BitVec 24) : Option Instr :=
  match (fFn x).toNat with
  | 0 => if fQ x = 0#4 ∧ fWbase x = 0#5 ∧ fSlot x = 0#3 ∧ fMisc x = 0#5 then some (.settle (fTile x)) else none
  | 1 => if fQ x = 0#4 ∧ fSlot x = 0#3 ∧ fMisc x = 0#5 then some (.tlin (fWbase x) (fTile x)) else none
  | 2 => if fQ x = 0#4 ∧ fSlot x = 0#3 ∧ (fMisc x).extractLsb' 1 4 = 0#4 then some (.trd (fWbase x) (fTile x) (bit ((fMisc x).extractLsb' 0 1))) else none
  | 3 => if fQ x = 0#4 ∧ fSlot x = 0#3 ∧ fMisc x = 0#5 then some (.twr (fWbase x) (fTile x)) else none
  | _ => none
/-- Major 0x33: APQK, APPV, APRESC, APNORM, APCFG. -/
def decode33 (x : BitVec 24) : Option Instr :=
  match (fFn x).toNat with
  | 0 => if fQ x = 1#4 ∧ fTile x = 0#4 ∧ fMisc x = 0#5 then some (.apqk (fWbase x) (fSlot x)) else none
  | 1 => if fQ x = 1#4 ∧ (fMisc x).extractLsb' 2 3 = 0#3 then some (.appv (fWbase x) (fTile x) (fSlot x) (bit ((fMisc x).extractLsb' 1 1)) (bit ((fMisc x).extractLsb' 0 1))) else none
  | 2 => if fQ x = 1#4 ∧ fSlot x = 0#3 ∧ fMisc x = 0#5 then some (.apresc (fWbase x) (fTile x)) else none
  | 3 => if fQ x = 1#4 ∧ fSlot x = 0#3 ∧ (fMisc x).extractLsb' 1 4 = 0#4 then some (.apnorm (fWbase x) (fTile x) (bit ((fMisc x).extractLsb' 0 1))) else none
  | 4 => if fQ x = 1#4 ∧ fTile x = 0#4 ∧ fSlot x = 0#3 ∧ fMisc x = 0#5 then some (.apcfg (fWbase x)) else none
  | _ => none
/-- Major 0x34: CECOPY, CELIST, CEROPE, CEPATCH, CEREQ, CERED, CEFILL. -/
def decode34 (x : BitVec 24) : Option Instr :=
  match (fFn x).toNat with
  | 0 => if fQ x = 2#4 ∧ fSlot x = 0#3 ∧ (fMisc x).extractLsb' 1 4 = 0#4 then some (.cecopy (fWbase x) (fTile x) (bit ((fMisc x).extractLsb' 0 1))) else none
  | 1 => if fQ x = 2#4 ∧ fTile x = 0#4 ∧ fSlot x = 0#3 ∧ fMisc x = 0#5 then some (.celist (fWbase x)) else none
  | 2 => if fQ x = 2#4 ∧ fTile x = 0#4 ∧ (fMisc x).extractLsb' 3 2 = 0#2 then some (.cerope (fWbase x) (fSlot x) ((fMisc x).extractLsb' 0 3)) else none
  | 3 => if fQ x = 2#4 ∧ fTile x = 0#4 ∧ (fMisc x).extractLsb' 1 4 = 0#4 then some (.cepatch (fWbase x) (fSlot x) (bit ((fMisc x).extractLsb' 0 1))) else none
  | 4 => if fQ x = 2#4 ∧ fTile x = 0#4 ∧ (fMisc x).extractLsb' 3 2 = 0#2 then some (.cereq (fWbase x) (fSlot x) ((fMisc x).extractLsb' 0 3)) else none
  | 5 => if fQ x = 2#4 ∧ fSlot x = 0#3 ∧ (fMisc x).extractLsb' 2 3 = 0#3 then (do let op ← RedOp.ofCode ((fMisc x).extractLsb' 0 2); some (.cered (fWbase x) (fTile x) op)) else none
  | 6 => if fQ x = 2#4 ∧ fTile x = 0#4 ∧ fSlot x = 0#3 ∧ fMisc x = 0#5 then some (.cefill (fWbase x)) else none
  | _ => none
/-- Major 0x36: RLXBEG, RLXEND, RLXIN, RLXOUT, RLXJAC, RLXSTEP, RLXST, RLXABT. -/
def decode36 (x : BitVec 24) : Option Instr :=
  match (fFn x).toNat with
  | 0 => if fD x = 0#6 ∧ fN x = 0#1 ∧ fB x = 0#7 then (do let a ← sel5 (fA x); some (.rlxbeg a)) else none
  | 1 => if fD x = 0#6 ∧ fN x = 0#1 ∧ fA x = 0#7 ∧ fB x = 0#7 then some .rlxend else none
  | 2 => if fN x = 0#1 ∧ fA x = 0#7 ∧ fB x = 0#7 then some (.rlxin (fD x)) else none
  | 3 => if fD x = 0#6 ∧ fN x = 0#1 ∧ fB x = 0#7 then (do let a ← srcOf (fA x); some (.rlxout a)) else none
  | 4 => if fD x = 0#6 ∧ fN x = 0#1 ∧ fB x = 0#7 then (do let a ← srcOf (fA x); some (.rlxjac a)) else none
  | 5 => if fA x = 0#7 ∧ fB x = 0#7 then (do let d ← dstOf (fD x) (fN x); some (.rlxstep d)) else none
  | 6 => if fN x = 0#1 ∧ fA x = 0#7 ∧ fB x = 0#7 then (do let d ← low5 (fD x); some (.rlxst d)) else none
  | 7 => if fD x = 0#6 ∧ fN x = 0#1 ∧ fA x = 0#7 ∧ fB x = 0#7 then some .rlxabt else none
  | _ => none
/-- Major 0x37: RLXPEEK, RLXGUESS. -/
def decode37 (x : BitVec 24) : Option Instr :=
  match (fFn x).toNat with
  | 0 => if fN x = 0#1 ∧ fA x = 0#7 ∧ fB x = 0#7 then some (.rlxpeek (fD x)) else none
  | 1 => if fD x = 0#6 ∧ fN x = 0#1 ∧ fB x = 0#7 then (do let a ← srcOf (fA x); some (.rlxguess a)) else none
  | _ => none
/-- Major 0x38: CALLG, RETG, GATEQ. -/
def decode38 (x : BitVec 24) : Option Instr :=
  match (fFn x).toNat with
  | 0 => if fD x = 0#6 ∧ fN x = 0#1 ∧ fA x = 0#7 then some (.callg (fB x)) else none
  | 1 => if fD x = 0#6 ∧ fN x = 0#1 ∧ fA x = 0#7 ∧ fB x = 0#7 then some .retg else none
  | 2 => if fN x = 0#1 ∧ fA x = 0#7 then (do let d ← low5 (fD x); some (.gateq d (fB x))) else none
  | _ => none
/-- Major 0x39: SRD, SWR. -/
def decode39 (x : BitVec 24) : Option Instr :=
  match (fN x).toNat with
  | 0 => if fZ5 x = 0#5 then (do let d ← low5 (fD x); some (.srd d (fSreg x))) else none
  | 1 => if fZ5 x = 0#5 then (do let d ← low5 (fD x); some (.swr d (fSreg x))) else none
  | _ => none
/-- Major 0x3A: HCLK, WTIME, TIMER, STAMP, ENRD, PMRD, TMARK. -/
def decode3A (x : BitVec 24) : Option Instr :=
  match (fFn x).toNat with
  | 0 => if fN x = 0#1 ∧ fA x = 0#7 ∧ fB x = 0#7 then (do let d ← low5 (fD x); some (.hclk d)) else none
  | 1 => if fN x = 0#1 ∧ fA x = 0#7 ∧ fB x = 0#7 then (do let d ← low5 (fD x); some (.wtime d)) else none
  | 2 => if fD x = 0#6 ∧ fN x = 0#1 ∧ fB x = 0#7 then (do let a ← sel5 (fA x); some (.timer a)) else none
  | 3 => if fD x = 0#6 ∧ fN x = 0#1 ∧ fB x = 0#7 then (do let a ← sel5 (fA x); some (.stamp a)) else none
  | 4 => if fN x = 0#1 ∧ fA x = 0#7 ∧ fB x = 0#7 then (do let d ← low5 (fD x); some (.enrd d)) else none
  | 5 => if fN x = 0#1 ∧ fA x = 0#7 ∧ (fB x).extractLsb' 2 5 = 0#5 then (do let d ← low5 (fD x); some (.pmrd d ((fB x).extractLsb' 0 2))) else none
  | 6 => if fD x = 0#6 ∧ fN x = 0#1 ∧ fA x = 0#7 then some (.tmark (fB x)) else none
  | _ => none
/-- Major 0x3B: SLEEP, SIGNAL. -/
def decode3B (x : BitVec 24) : Option Instr :=
  match (fFn x).toNat with
  | 0 => if fD x = 0#6 ∧ fN x = 0#1 ∧ fB x = 0#7 then (do let a ← sel5 (fA x); some (.sleep a)) else none
  | 1 => if fD x = 0#6 ∧ fN x = 0#1 ∧ fB x = 0#7 then (do let a ← sel5 (fA x); some (.signal a)) else none
  | _ => none

/-- The instruction of a major opcode and an operand field (R126, R127): nothing for a reserved
major, an unassigned selecting value, a nonzero zero field or an operand that breaks R119, R121 or
R125. -/
def decodeBody (major : BitVec 6) (x : BitVec 24) : Option Instr :=
  match major.toNat with
  | 0x00 => decode00 x
  | 0x01 => decode01 x
  | 0x02 => decode02 x
  | 0x03 => decode03 x
  | 0x04 => decode04 x
  | 0x05 => decode05 x
  | 0x06 => decode06 x
  | 0x08 => decode08 x
  | 0x09 => decode09 x
  | 0x0A => decode0A x
  | 0x0B => decode0B x
  | 0x0C => decode0C x
  | 0x0D => decode0D x
  | 0x0E => decode0E x
  | 0x0F => decode0F x
  | 0x10 => decode10 x
  | 0x11 => decode11 x
  | 0x12 => decode12 x
  | 0x13 => decode13 x
  | 0x14 => decode14 x
  | 0x15 => decode15 x
  | 0x16 => decode16 x
  | 0x17 => decode17 x
  | 0x18 => decode18 x
  | 0x19 => decode19 x
  | 0x1A => decode1A x
  | 0x1B => decode1B x
  | 0x1C => decode1C x
  | 0x1D => decode1D x
  | 0x1E => decode1E x
  | 0x20 => decode20 x
  | 0x21 => decode21 x
  | 0x22 => decode22 x
  | 0x24 => decode24 x
  | 0x25 => decode25 x
  | 0x26 => decode26 x
  | 0x27 => decode27 x
  | 0x28 => decode28 x
  | 0x29 => decode29 x
  | 0x2A => decode2A x
  | 0x2B => decode2B x
  | 0x2C => decode2C x
  | 0x2D => decode2D x
  | 0x30 => decode30 x
  | 0x31 => decode31 x
  | 0x32 => decode32 x
  | 0x33 => decode33 x
  | 0x34 => decode34 x
  | 0x36 => decode36 x
  | 0x37 => decode37 x
  | 0x38 => decode38 x
  | 0x39 => decode39 x
  | 0x3A => decode3A x
  | 0x3B => decode3B x
  | _ => none

/-- Whether the C and E bits suit the instruction: flow words, CALLG, RETG, RLXBEG, RLXEND, BKPT and
TRAP end their run and chain to nothing (R34, R118, R153, R331, R332); a GUARD is chained to the
word it guards, so it cannot end the run (R116). -/
def ceOk (c e : Bool) : Instr → Bool
  | .exit | .yield | .ret | .bkpt | .trap | .bra _ | .brt _ _ | .brf _ _ | .brany _ _ | .brall _ _
  | .call _ | .jmpi _ | .calli _ | .loop _ _ | .rlxbeg _ | .rlxend | .callg _ | .retg => !c && e
  | .guard _ _ => c && !e
  | _ => true

/-- A decoded word: the chain bit C, the run-end bit E (R108) and the instruction. -/
structure Decoded where
  c : Bool
  e : Bool
  i : Instr
  deriving DecidableEq, Repr

/-- Decodes a 32-bit word (R108). A word that answers nothing traps ILL (R127). -/
def decodeWord (w : Word) : Option Decoded :=
  (decodeBody (w.extractLsb' 24 6) (w.extractLsb' 0 24)).bind fun i =>
    let c := bit (w.extractLsb' 31 1)
    let e := bit (w.extractLsb' 30 1)
    if ceOk c e i && i.wf then some ⟨c, e, i⟩ else none

/-- The four bytes of a word, little-endian (R2, R108). -/
def wordOfBytes (b0 b1 b2 b3 : Byte) : Word := b3 ++ b2 ++ b1 ++ b0

/-- Decodes the first word of a byte string, and answers the bytes after it. -/
def decodeBytes : List Byte → Option (Decoded × List Byte)
  | b0 :: b1 :: b2 :: b3 :: r => (decodeWord (wordOfBytes b0 b1 b2 b3)).map fun d => (d, r)
  | _ => none

/-- The major opcode and the operand field of an instruction of the map; nothing for a device
step, which has no word. -/
def encodeBody : Instr → Option (BitVec 6 × BitVec 24)
  | .nop => some (0x00#6, packR3 0#6 0#1 0#7 0#7 0#3)
  | .exit => some (0x00#6, packR3 0#6 0#1 0#7 0#7 1#3)
  | .yield => some (0x00#6, packR3 0#6 0#1 0#7 0#7 2#3)
  | .ret => some (0x00#6, packR3 0#6 0#1 0#7 0#7 3#3)
  | .bkpt => some (0x00#6, packR3 0#6 0#1 0#7 0#7 4#3)
  | .trap => some (0x00#6, packR3 0#6 0#1 0#7 0#7 5#3)
  | .waitev a => some (0x00#6, packR3 0#6 0#1 (selUp5 a) 0#7 6#3)
  | .bra off => some (0x01#6, packBR 0#3 0#3 off)
  | .brt p off => some (0x01#6, packBR 1#3 p off)
  | .brf p off => some (0x01#6, packBR 2#3 p off)
  | .brany p off => some (0x01#6, packBR 3#3 p off)
  | .brall p off => some (0x01#6, packBR 4#3 p off)
  | .call off => some (0x01#6, packBR 5#3 0#3 off)
  | .jmpi a => some (0x02#6, packR3 0#6 0#1 (selUp5 a) 0#7 0#3)
  | .calli a => some (0x02#6, packR3 0#6 0#1 (srcBits a) 0#7 1#3)
  | .loop d imm => some (0x03#6, packRI (up5 d) 0#1 0#7 imm)
  | .guard p sense => some (0x04#6, packGD p (ofBit sense) 0#20)
  | .pand d a b => some (0x05#6, packR3 (up3 d) 0#1 (selUp3 a) (selUp3 b) 0#3)
  | .por d a b => some (0x05#6, packR3 (up3 d) 0#1 (selUp3 a) (selUp3 b) 1#3)
  | .pxor d a b => some (0x05#6, packR3 (up3 d) 0#1 (selUp3 a) (selUp3 b) 2#3)
  | .pandn d a b => some (0x05#6, packR3 (up3 d) 0#1 (selUp3 a) (selUp3 b) 3#3)
  | .pmov d a => some (0x05#6, packR3 (up3 d) 0#1 (selUp3 a) 0#7 4#3)
  | .ptov d a => some (0x05#6, packR3 d 0#1 (selUp3 a) 0#7 5#3)
  | .ballot d a => some (0x05#6, packR3 (up5 d) 0#1 (selUp3 a) 0#7 6#3)
  | .vote d a => some (0x05#6, packR3 (up3 d) 0#1 (selUp3 a) 0#7 7#3)
  | .join m => some (0x06#6, packR3 0#6 0#1 0#7 (0#3 ++ m) 0#3)
  | .leave => some (0x06#6, packR3 0#6 0#1 0#7 0#7 1#3)
  | .arrive m => some (0x06#6, packR3 0#6 0#1 0#7 (0#3 ++ m) 2#3)
  | .barw m => some (0x06#6, packR3 0#6 0#1 0#7 (0#3 ++ m) 3#3)
  | .waitb m => some (0x06#6, packR3 0#6 0#1 0#7 (0#3 ++ m) 4#3)
  | .castq d m => some (0x06#6, packR3 (up5 d) 0#1 0#7 (0#3 ++ m) 5#3)
  | .iadd d a b => some (0x08#6, packR3 (dstD d) (dstN d) (srcBits a) (srcBits b) 0#3)
  | .isub d a b => some (0x08#6, packR3 (dstD d) (dstN d) (srcBits a) (srcBits b) 1#3)
  | .and d a b => some (0x08#6, packR3 (dstD d) (dstN d) (srcBits a) (srcBits b) 2#3)
  | .or d a b => some (0x08#6, packR3 (dstD d) (dstN d) (srcBits a) (srcBits b) 3#3)
  | .xor d a b => some (0x08#6, packR3 (dstD d) (dstN d) (srcBits a) (srcBits b) 4#3)
  | .andn d a b => some (0x08#6, packR3 (dstD d) (dstN d) (srcBits a) (srcBits b) 5#3)
  | .imin d a b => some (0x08#6, packR3 (dstD d) (dstN d) (srcBits a) (srcBits b) 6#3)
  | .imax d a b => some (0x08#6, packR3 (dstD d) (dstN d) (srcBits a) (srcBits b) 7#3)
  | .shl d a b => some (0x09#6, packR3 (dstD d) (dstN d) (srcBits a) (srcBits b) 0#3)
  | .shr d a b => some (0x09#6, packR3 (dstD d) (dstN d) (srcBits a) (srcBits b) 1#3)
  | .sar d a b => some (0x09#6, packR3 (dstD d) (dstN d) (srcBits a) (srcBits b) 2#3)
  | .rol d a b => some (0x09#6, packR3 (dstD d) (dstN d) (srcBits a) (srcBits b) 3#3)
  | .iminu d a b => some (0x09#6, packR3 (dstD d) (dstN d) (srcBits a) (srcBits b) 4#3)
  | .imaxu d a b => some (0x09#6, packR3 (dstD d) (dstN d) (srcBits a) (srcBits b) 5#3)
  | .amin d a b => some (0x09#6, packR3 d 0#1 (srcBits a) (srcBits b) 6#3)
  | .iabsd d a b => some (0x09#6, packR3 (dstD d) (dstN d) (srcBits a) (srcBits b) 7#3)
  | .imul d a b => some (0x0A#6, packR3 (dstD d) (dstN d) (srcBits a) (srcBits b) 0#3)
  | .imulh d a b => some (0x0A#6, packR3 (dstD d) (dstN d) (srcBits a) (srcBits b) 1#3)
  | .imulhu d a b => some (0x0A#6, packR3 (dstD d) (dstN d) (srcBits a) (srcBits b) 2#3)
  | .imad d a b => some (0x0A#6, packR3 d 0#1 (srcBits a) (srcBits b) 3#3)
  | .clz d a => some (0x0A#6, packR3 (dstD d) (dstN d) (srcBits a) 0#7 4#3)
  | .popc d a => some (0x0A#6, packR3 (dstD d) (dstN d) (srcBits a) 0#7 5#3)
  | .brev d a => some (0x0A#6, packR3 (dstD d) (dstN d) (srcBits a) 0#7 6#3)
  | .iabs d a => some (0x0A#6, packR3 (dstD d) (dstN d) (srcBits a) 0#7 7#3)
  | .icmp cond p a b => some (0x0B#6, packCMP (ICond.code cond) p 0#1 (srcBits a) (srcBits b) 0#3)
  | .icmpW cond p a b => some (0x0B#6, packCMP (ICond.code cond) p 0#1 (selUp5 a) (selUp5 b) 1#3)
  | .iaddi d a imm => some (0x0C#6, packRI (dstD d) (dstN d) (srcBits a) imm)
  | .shli d a s => some (0x0D#6, packRI (dstD d) (dstN d) (srcBits a) (0#5 ++ s))
  | .shri d a s => some (0x0D#6, packRI (dstD d) (dstN d) (srcBits a) (8#5 ++ s))
  | .sari d a s => some (0x0D#6, packRI (dstD d) (dstN d) (srcBits a) (16#5 ++ s))
  | .roli d a s => some (0x0D#6, packRI (dstD d) (dstN d) (srcBits a) (24#5 ++ s))
  | .movi d imm => some (0x0E#6, packI17 (dstD d) (dstN d) imm)
  | .movhi d imm => some (0x0F#6, packI17 d 0#1 imm)
  | .bfx d a b => some (0x10#6, packR3 (dstD d) (dstN d) (srcBits a) (srcBits b) 0#3)
  | .bfi d a b => some (0x10#6, packR3 d 0#1 (srcBits a) (srcBits b) 1#3)
  | .iadd64 d a b => some (0x10#6, packR3 d 0#1 (selUp6 a) (selUp6 b) 2#3)
  | .isub64 d a b => some (0x10#6, packR3 d 0#1 (selUp6 a) (selUp6 b) 3#3)
  | .shl64 d a b => some (0x10#6, packR3 d 0#1 (selUp6 a) (srcBits b) 4#3)
  | .imulw d a b => some (0x10#6, packR3 d 0#1 (srcBits a) (srcBits b) 5#3)
  | .pack16 d a b => some (0x10#6, packR3 (dstD d) (dstN d) (srcBits a) (srcBits b) 6#3)
  | .byteperm d a b => some (0x10#6, packR3 d 0#1 (srcBits a) (srcBits b) 7#3)
  | .sel d a b p => some (0x11#6, packR3 (dstD d) (dstN d) (srcBits a) (srcBits b) p)
  | .wadd d a b => some (0x12#6, packR3 (up5 d) 0#1 (selUp5 a) (selUp5 b) 0#3)
  | .wsub d a b => some (0x12#6, packR3 (up5 d) 0#1 (selUp5 a) (selUp5 b) 1#3)
  | .wand d a b => some (0x12#6, packR3 (up5 d) 0#1 (selUp5 a) (selUp5 b) 2#3)
  | .wor d a b => some (0x12#6, packR3 (up5 d) 0#1 (selUp5 a) (selUp5 b) 3#3)
  | .wxor d a b => some (0x12#6, packR3 (up5 d) 0#1 (selUp5 a) (selUp5 b) 4#3)
  | .wshl d a b => some (0x12#6, packR3 (up5 d) 0#1 (selUp5 a) (selUp5 b) 5#3)
  | .wshr d a b => some (0x12#6, packR3 (up5 d) 0#1 (selUp5 a) (selUp5 b) 6#3)
  | .wmul d a b => some (0x12#6, packR3 (up5 d) 0#1 (selUp5 a) (selUp5 b) 7#3)
  | .wmin d a b => some (0x13#6, packR3 (up5 d) 0#1 (selUp5 a) (selUp5 b) 0#3)
  | .wmax d a b => some (0x13#6, packR3 (up5 d) 0#1 (selUp5 a) (selUp5 b) 1#3)
  | .wsar d a b => some (0x13#6, packR3 (up5 d) 0#1 (selUp5 a) (selUp5 b) 2#3)
  | .vtow d a => some (0x13#6, packR3 (up5 d) 0#1 (srcBits a) 0#7 3#3)
  | .wtov d a => some (0x13#6, packR3 (dstD d) (dstN d) (selUp5 a) 0#7 4#3)
  | .wsel d a b => some (0x13#6, packR3 (up5 d) 0#1 (selUp5 a) (selUp5 b) 5#3)
  | .wclz d a => some (0x13#6, packR3 (up5 d) 0#1 (selUp5 a) 0#7 6#3)
  | .wpopc d a => some (0x13#6, packR3 (up5 d) 0#1 (selUp5 a) 0#7 7#3)
  | .waddi d a imm => some (0x14#6, packRI (up5 d) 0#1 (selUp5 a) imm)
  | .wmovi d imm => some (0x15#6, packI17 (up5 d) 0#1 imm)
  | .wmovk d pos imm => some (0x16#6, packK16 (up5 d) pos imm)
  | .rand32 d => some (0x17#6, packR3 (dstD d) (dstN d) 0#7 0#7 0#3)
  | .randf d => some (0x17#6, packR3 (dstD d) (dstN d) 0#7 0#7 1#3)
  | .rseed a => some (0x17#6, packR3 0#6 0#1 (selUp5 a) 0#7 2#3)
  | .rctr d a => some (0x17#6, packR3 (dstD d) (dstN d) (srcBits a) 0#7 3#3)
  | .fadd d a b => some (0x18#6, packR3 (dstD d) (dstN d) (srcBits a) (srcBits b) 0#3)
  | .fsub d a b => some (0x18#6, packR3 (dstD d) (dstN d) (srcBits a) (srcBits b) 1#3)
  | .fmul d a b => some (0x18#6, packR3 (dstD d) (dstN d) (srcBits a) (srcBits b) 2#3)
  | .ffma d a b => some (0x18#6, packR3 d 0#1 (srcBits a) (srcBits b) 3#3)
  | .fmin d a b => some (0x18#6, packR3 (dstD d) (dstN d) (srcBits a) (srcBits b) 4#3)
  | .fmax d a b => some (0x18#6, packR3 (dstD d) (dstN d) (srcBits a) (srcBits b) 5#3)
  | .famin d a b => some (0x18#6, packR3 (dstD d) (dstN d) (srcBits a) (srcBits b) 6#3)
  | .ffms d a b => some (0x18#6, packR3 d 0#1 (srcBits a) (srcBits b) 7#3)
  | .badd2 d a b => some (0x19#6, packR3 (dstD d) (dstN d) (srcBits a) (srcBits b) 0#3)
  | .bmul2 d a b => some (0x19#6, packR3 (dstD d) (dstN d) (srcBits a) (srcBits b) 1#3)
  | .bfma2 d a b => some (0x19#6, packR3 d 0#1 (srcBits a) (srcBits b) 2#3)
  | .bmax2 d a b => some (0x19#6, packR3 (dstD d) (dstN d) (srcBits a) (srcBits b) 3#3)
  | .hadd2 d a b => some (0x19#6, packR3 (dstD d) (dstN d) (srcBits a) (srcBits b) 4#3)
  | .hmul2 d a b => some (0x19#6, packR3 (dstD d) (dstN d) (srcBits a) (srcBits b) 5#3)
  | .hfma2 d a b => some (0x19#6, packR3 d 0#1 (srcBits a) (srcBits b) 6#3)
  | .hmax2 d a b => some (0x19#6, packR3 (dstD d) (dstN d) (srcBits a) (srcBits b) 7#3)
  | .frcp d a => some (0x1A#6, packR3 (dstD d) (dstN d) (srcBits a) 0#7 0#3)
  | .frsq d a => some (0x1A#6, packR3 (dstD d) (dstN d) (srcBits a) 0#7 1#3)
  | .fsqrt d a => some (0x1A#6, packR3 (dstD d) (dstN d) (srcBits a) 0#7 2#3)
  | .fexp2 d a => some (0x1A#6, packR3 (dstD d) (dstN d) (srcBits a) 0#7 3#3)
  | .flog2 d a => some (0x1A#6, packR3 (dstD d) (dstN d) (srcBits a) 0#7 4#3)
  | .ftanh d a => some (0x1A#6, packR3 (dstD d) (dstN d) (srcBits a) 0#7 5#3)
  | .fsin2pi d a => some (0x1A#6, packR3 (dstD d) (dstN d) (srcBits a) 0#7 6#3)
  | .frnd d a rnd => some (0x1A#6, packR3 (dstD d) (dstN d) (srcBits a) (0#5 ++ Rnd.code rnd) 7#3)
  | .fdiv d a b => some (0x1B#6, packR3 (dstD d) (dstN d) (srcBits a) (srcBits b) 0#3)
  | .fabs d a => some (0x1B#6, packR3 (dstD d) (dstN d) (srcBits a) 0#7 1#3)
  | .fneg d a => some (0x1B#6, packR3 (dstD d) (dstN d) (srcBits a) 0#7 2#3)
  | .fcpys d a b => some (0x1B#6, packR3 (dstD d) (dstN d) (srcBits a) (srcBits b) 3#3)
  | .fclass d a => some (0x1B#6, packR3 (dstD d) (dstN d) (srcBits a) 0#7 4#3)
  | .fscale d a b => some (0x1B#6, packR3 (dstD d) (dstN d) (srcBits a) (srcBits b) 5#3)
  | .fexpt d a => some (0x1B#6, packR3 (dstD d) (dstN d) (srcBits a) 0#7 6#3)
  | .fcmp cond p a b => some (0x1C#6, packCMP (FCond.code cond) p 0#1 (srcBits a) (srcBits b) 0#3)
  | .fcvt d a ty pol rnd => some (0x1D#6, packR3 (dstD d) (dstN d) (srcBits a) (FTy.code ty ++ Pol.code pol ++ Rnd.code rnd) 0#3)
  | .fupcvt d a ty => some (0x1D#6, packR3 (dstD d) (dstN d) (srcBits a) (FTy.code ty ++ 0#4) 1#3)
  | .icvtf d a ty pol rnd => some (0x1D#6, packR3 (dstD d) (dstN d) (srcBits a) (ITy.code ty ++ Pol.code pol ++ Rnd.code rnd) 2#3)
  | .fcvti d a ty pol rnd => some (0x1D#6, packR3 (dstD d) (dstN d) (srcBits a) (ITy.code ty ++ Pol.code pol ++ Rnd.code rnd) 3#3)
  | .qpack d a slot pol rnd => some (0x1D#6, packR3 (dstD d) (dstN d) (selUp6 a) (slot ++ Pol.code pol ++ Rnd.code rnd) 4#3)
  | .qunpack d a slot => some (0x1D#6, packR3 d 0#1 (srcBits a) (slot ++ 0#4) 5#3)
  | .i8pack d a pol => some (0x1D#6, packR3 (dstD d) (dstN d) (selUp6 a) (0#3 ++ Pol.code pol ++ 0#2) 6#3)
  | .fflrd d => some (0x1E#6, packR3 (up5 d) 0#1 0#7 0#7 0#3)
  | .fflclr a => some (0x1E#6, packR3 0#6 0#1 (selUp5 a) 0#7 1#3)
  | .fmode a => some (0x1E#6, packR3 0#6 0#1 (selUp5 a) 0#7 2#3)
  | .lshup d a b => some (0x20#6, packR3 (dstD d) (dstN d) (srcBits a) (amtBits b) 0#3)
  | .lshdn d a b => some (0x20#6, packR3 (dstD d) (dstN d) (srcBits a) (amtBits b) 1#3)
  | .lrot d a b => some (0x20#6, packR3 (dstD d) (dstN d) (srcBits a) (amtBits b) 2#3)
  | .lperm d a b => some (0x20#6, packR3 (dstD d) (dstN d) (srcBits a) (srcBits b) 3#3)
  | .lbcast d a b => some (0x20#6, packR3 (dstD d) (dstN d) (srcBits a) (amtBits b) 4#3)
  | .lxor d a b => some (0x20#6, packR3 (dstD d) (dstN d) (srcBits a) (amtBits b) 5#3)
  | .lscanadd d a => some (0x21#6, packR3 (dstD d) (dstN d) (srcBits a) 0#7 0#3)
  | .lscanmin d a => some (0x21#6, packR3 (dstD d) (dstN d) (srcBits a) 0#7 1#3)
  | .lscanmax d a => some (0x21#6, packR3 (dstD d) (dstN d) (srcBits a) 0#7 2#3)
  | .lscanfadd d a => some (0x21#6, packR3 (dstD d) (dstN d) (srcBits a) 0#7 3#3)
  | .lredadd d a => some (0x21#6, packR3 (dstD d) (dstN d) (srcBits a) 0#7 4#3)
  | .lredmin d a => some (0x21#6, packR3 (dstD d) (dstN d) (srcBits a) 0#7 5#3)
  | .lredmax d a => some (0x21#6, packR3 (dstD d) (dstN d) (srcBits a) 0#7 6#3)
  | .lredfadd d a => some (0x21#6, packR3 (dstD d) (dstN d) (srcBits a) 0#7 7#3)
  | .lmatch d a => some (0x22#6, packR3 (up3 d) 0#1 (srcBits a) 0#7 0#3)
  | .lfirst d => some (0x22#6, packR3 (up3 d) 0#1 0#7 0#7 1#3)
  | .ld d rec idx w mode => some (0x24#6, packMEM (dstD d) (dstN d) rec (srcBits idx) (Width.code w ++ LdMode.code mode))
  | .st d rec idx w mode => some (0x25#6, packMEM d 0#1 rec (srcBits idx) (Width.code w ++ StMode.code mode))
  | .ldw d rec idx w mode => some (0x26#6, packMEM (up5 d) 0#1 rec (selUp5 idx) (0#1 ++ WidthW.code w ++ LdMode.code mode))
  | .stw d rec idx w mode => some (0x26#6, packMEM (up5 d) 0#1 rec (selUp5 idx) (1#1 ++ WidthW.code w ++ StMode.code mode))
  | .atom d rec idx op w64 ret ar => some (0x27#6, packMEM d 0#1 rec (srcBits idx) (AtomOp.code op ++ ofBit w64 ++ ofBit ret ++ ofBit ar))
  | .fence scope => some (0x28#6, packR3 0#6 0#1 (0#5 ++ Scope.code scope) 0#7 0#3)
  | .stflush rec => some (0x28#6, packR3 (rec ++ 0#2) 0#1 0#7 0#7 1#3)
  | .stdrop rec => some (0x28#6, packR3 (rec ++ 0#2) 0#1 0#7 0#7 2#3)
  | .stmap rec a => some (0x28#6, packR3 (rec ++ 0#2) 0#1 (selUp5 a) 0#7 3#3)
  | .pref rec idx => some (0x28#6, packR3 (rec ++ 0#2) 0#1 (srcBits idx) 0#7 4#3)
  | .waitv rec cond idx cmp => some (0x28#6, packR3 (rec ++ PollCond.code cond) 0#1 (srcBits idx) (srcBits cmp) 5#3)
  | .bbarm rec a => some (0x28#6, packR3 (rec ++ 0#2) 0#1 (selUp5 a) 0#7 6#3)
  | .bbwait rec a => some (0x28#6, packR3 (rec ++ 0#2) 0#1 (selUp5 a) 0#7 7#3)
  | .bufset d a => some (0x29#6, packR3 (up4 d) 0#1 (selUp5 a) 0#7 0#3)
  | .bufget d a => some (0x29#6, packR3 (up5 d) 0#1 (selUp4 a) 0#7 1#3)
  | .bufnar d a b => some (0x29#6, packR3 (up4 d) 0#1 (selUp4 a) (selUp5 b) 2#3)
  | .lds d rec idx w => some (0x2A#6, packMEM (dstD d) (dstN d) rec (srcBits idx) (0#1 ++ Width.code w ++ 0#2))
  | .sts d rec idx w => some (0x2A#6, packMEM d 0#1 rec (srcBits idx) (1#1 ++ Width.code w ++ 0#2))
  | .tlblk a => some (0x2B#6, packR3 0#6 0#1 (selUp4 a) 0#7 0#3)
  | .tlbunlk a => some (0x2B#6, packR3 0#6 0#1 (selUp4 a) 0#7 1#3)
  | .tlbprb d a b => some (0x2B#6, packR3 (up5 d) 0#1 (selUp4 a) (selUp5 b) 2#3)
  | .qpush d a => some (0x2C#6, packR3 (up4 d) 0#1 (srcBits a) 0#7 0#3)
  | .qpushw d a => some (0x2C#6, packR3 (up4 d) 0#1 (selUp5 a) 0#7 1#3)
  | .qpop d q => some (0x2C#6, packR3 (dstD d) (dstN d) (0#3 ++ q) 0#7 2#3)
  | .qpopw d q => some (0x2C#6, packR3 (up5 d) 0#1 (0#3 ++ q) 0#7 3#3)
  | .qtry d q b => some (0x2C#6, packR3 d 0#1 (0#3 ++ q) (selUp3 b) 4#3)
  | .qtryw d q b => some (0x2C#6, packR3 (up5 d) 0#1 (0#3 ++ q) (selUp3 b) 5#3)
  | .qlen d q => some (0x2C#6, packR3 (up5 d) 0#1 (0#3 ++ q) 0#7 6#3)
  | .qbind d a => some (0x2C#6, packR3 (up4 d) 0#1 (selUp5 a) 0#7 7#3)
  | .spawn a => some (0x2D#6, packR3 0#6 0#1 (selUp5 a) 0#7 0#3)
  | .waitc rec a => some (0x2D#6, packR3 (rec ++ 0#2) 0#1 (selUp5 a) 0#7 1#3)
  | .withdraw d a => some (0x2D#6, packR3 (up5 d) 0#1 (selUp5 a) 0#7 2#3)
  | .tasktag a => some (0x2D#6, packR3 0#6 0#1 (selUp5 a) 0#7 3#3)
  | .siglead a => some (0x2D#6, packR3 0#6 0#1 (selUp5 a) 0#7 4#3)
  | .wbmac q t slot => some (0x30#6, packENG 0#4 q t slot 0#5 0#3)
  | .wbmacp q t slot plane => some (0x30#6, packENG 0#4 q t slot (0#2 ++ plane) 1#3)
  | .wbload q slot => some (0x30#6, packENG 0#4 q 0#4 slot 0#5 2#3)
  | .wbswap q => some (0x30#6, packENG 0#4 q 0#4 0#3 0#5 3#3)
  | .wbzero q t => some (0x30#6, packENG 0#4 q t 0#3 0#5 4#3)
  | .tadd q t => some (0x31#6, packENG 0#4 q t 0#3 0#5 0#3)
  | .tsub q t => some (0x31#6, packENG 0#4 q t 0#3 0#5 1#3)
  | .tshl q t => some (0x31#6, packENG 0#4 q t 0#3 0#5 2#3)
  | .tmov q t => some (0x31#6, packENG 0#4 q t 0#3 0#5 3#3)
  | .tneg q t => some (0x31#6, packENG 0#4 q t 0#3 0#5 4#3)
  | .tslice q t => some (0x31#6, packENG 0#4 q t 0#3 0#5 5#3)
  | .tcvt q t slot => some (0x31#6, packENG 0#4 q t slot 0#5 6#3)
  | .settle t => some (0x32#6, packENG 0#4 0#5 t 0#3 0#5 0#3)
  | .tlin q t => some (0x32#6, packENG 0#4 q t 0#3 0#5 1#3)
  | .trd q t prov => some (0x32#6, packENG 0#4 q t 0#3 (0#4 ++ ofBit prov) 2#3)
  | .twr q t => some (0x32#6, packENG 0#4 q t 0#3 0#5 3#3)
  | .apqk q slot => some (0x33#6, packENG 1#4 q 0#4 slot 0#5 0#3)
  | .appv q t slot acc hi => some (0x33#6, packENG 1#4 q t slot (0#3 ++ ofBit acc ++ ofBit hi) 1#3)
  | .apresc q t => some (0x33#6, packENG 1#4 q t 0#3 0#5 2#3)
  | .apnorm q t exp => some (0x33#6, packENG 1#4 q t 0#3 (0#4 ++ ofBit exp) 3#3)
  | .apcfg q => some (0x33#6, packENG 1#4 q 0#4 0#3 0#5 4#3)
  | .cecopy q t tile => some (0x34#6, packENG 2#4 q t 0#3 (0#4 ++ ofBit tile) 0#3)
  | .celist q => some (0x34#6, packENG 2#4 q 0#4 0#3 0#5 1#3)
  | .cerope q slot src => some (0x34#6, packENG 2#4 q 0#4 slot (0#2 ++ src) 2#3)
  | .cepatch q slot rot => some (0x34#6, packENG 2#4 q 0#4 slot (0#4 ++ ofBit rot) 3#3)
  | .cereq q slot src => some (0x34#6, packENG 2#4 q 0#4 slot (0#2 ++ src) 4#3)
  | .cered q t op => some (0x34#6, packENG 2#4 q t 0#3 (0#3 ++ RedOp.code op) 5#3)
  | .cefill q => some (0x34#6, packENG 2#4 q 0#4 0#3 0#5 6#3)
  | .rlxbeg a => some (0x36#6, packR3 0#6 0#1 (selUp5 a) 0#7 0#3)
  | .rlxend => some (0x36#6, packR3 0#6 0#1 0#7 0#7 1#3)
  | .rlxin d => some (0x36#6, packR3 d 0#1 0#7 0#7 2#3)
  | .rlxout a => some (0x36#6, packR3 0#6 0#1 (srcBits a) 0#7 3#3)
  | .rlxjac a => some (0x36#6, packR3 0#6 0#1 (srcBits a) 0#7 4#3)
  | .rlxstep d => some (0x36#6, packR3 (dstD d) (dstN d) 0#7 0#7 5#3)
  | .rlxst d => some (0x36#6, packR3 (up5 d) 0#1 0#7 0#7 6#3)
  | .rlxabt => some (0x36#6, packR3 0#6 0#1 0#7 0#7 7#3)
  | .rlxpeek d => some (0x37#6, packR3 d 0#1 0#7 0#7 0#3)
  | .rlxguess a => some (0x37#6, packR3 0#6 0#1 (srcBits a) 0#7 1#3)
  | .callg m => some (0x38#6, packR3 0#6 0#1 0#7 m 0#3)
  | .retg => some (0x38#6, packR3 0#6 0#1 0#7 0#7 1#3)
  | .gateq d m => some (0x38#6, packR3 (up5 d) 0#1 0#7 m 2#3)
  | .srd d reg => some (0x39#6, packSYS (up5 d) 0#1 0#5 reg)
  | .swr d reg => some (0x39#6, packSYS (up5 d) 1#1 0#5 reg)
  | .hclk d => some (0x3A#6, packR3 (up5 d) 0#1 0#7 0#7 0#3)
  | .wtime d => some (0x3A#6, packR3 (up5 d) 0#1 0#7 0#7 1#3)
  | .timer a => some (0x3A#6, packR3 0#6 0#1 (selUp5 a) 0#7 2#3)
  | .stamp a => some (0x3A#6, packR3 0#6 0#1 (selUp5 a) 0#7 3#3)
  | .enrd d => some (0x3A#6, packR3 (up5 d) 0#1 0#7 0#7 4#3)
  | .pmrd d m => some (0x3A#6, packR3 (up5 d) 0#1 0#7 (0#5 ++ m) 5#3)
  | .tmark m => some (0x3A#6, packR3 0#6 0#1 0#7 m 6#3)
  | .sleep a => some (0x3B#6, packR3 0#6 0#1 (selUp5 a) 0#7 0#3)
  | .signal a => some (0x3B#6, packR3 0#6 0#1 (selUp5 a) 0#7 1#3)
  | .resumeWrite _ _ _ => none
  | .killWrite _ _ _ => none
  | .illegalInstruction _ => none
  | .faultRecordWrite _ => none
  | .sideArbitration _ _ => none
  | .runEnd _ => none
  | .codeFetch _ => none
  | .loadReturn _ => none
  | .wctReturn _ => none
  | .fenceComplete _ => none
  | .acquireHoldEnd _ => none
  | .pollAttempt _ => none
  | .sleepExpire _ => none
  | .timerExpire _ => none
  | .postedFaultDeliver _ => none
  | .homeRead _ => none
  | .homeStoreArrival _ => none
  | .homeStorePerform _ => none
  | .homeAtomicPerform _ => none
  | .hubStoreAck _ => none
  | .l1LeaseExpire _ _ => none
  | .windowLeaseWriteback _ _ _ => none
  | .pageMigration _ _ _ => none
  | .tlbWalkComplete _ => none
  | .l2EvictionError _ _ _ => none
  | .waveRetire _ => none
  | .leadThreadRetire _ => none
  | .doorbell _ _ => none
  | .launchAccept _ => none
  | .dependenceRead _ => none
  | .launchStartCore _ _ => none
  | .wavePlace _ => none
  | .childPlace _ => none
  | .logicalCoreStart _ _ => none
  | .handlerWaveStart _ => none
  | .launchFinishCore _ => none
  | .launchFinish _ => none
  | .permitAudit _ => none
  | .q0CommandStart _ _ => none
  | .benchPlane _ _ => none
  | .promptApply _ _ => none
  | .proxyAck _ _ => none
  | .ceredLand _ _ => none
  | .pairCommandStart _ _ => none
  | .copyCommandStart _ _ => none
  | .nodeComplete _ _ _ => none
  | .stampSettleWrite _ => none
  | .regionOpen _ => none
  | .regionStart _ => none
  | .relaxVerify _ => none
  | .regionClose _ => none
  | .gateReturn _ => none
  | .gateTimeout _ => none
  | .contextPreempt _ => none
  | .contextRestore _ => none
  | .gangSwitch => none
  | .debugStop _ => none
  | .pcSample _ _ => none
  | .clockRateChange _ _ => none
  | .powerOnReset _ _ _ => none
  | .functionLevelReset _ => none
  | .create _ => none
  | .destroy _ => none
  | .setmode _ => none
  | .setgates _ => none
  | .regcode _ => none
  | .observe _ => none
  | .install _ => none
  | .unmap _ => none
  | .reserve _ => none
  | .switch _ => none
  | .schedule _ => none
  | .armstop _ => none
  | .release _ => none
  | .laneop _ => none
  | .attest _ => none
  | .weights _ => none
  | .regqueue _ => none
  | .causeClear _ _ => none
  | .hostRegisterWrite _ _ _ => none
  | .ieee1588Slew _ => none
  | .tdispRequest _ _ => none
  | .hostMemoryAccess _ _ _ _ => none
  | .ringHeadRaise _ _ _ => none
  | .queueConsumedRaise _ _ => none

/-- The word of an instruction with its C and E bits (R108). -/
def encode (c e : Bool) (i : Instr) : Option Word :=
  (encodeBody i).map fun p => ofBit c ++ ofBit e ++ p.1 ++ p.2

/-- Whether the instruction is a step of the device, which has no word. -/
def Instr.isEvent (i : Instr) : Bool := (encodeBody i).isNone

/-- The instruction read from a table word: its bytes as the hardware stores them, given to the
decoder. -/
def decodeTableWord (_nbits w : Nat) : Option Instr :=
  (decodeBytes [BitVec.ofNat 8 w, BitVec.ofNat 8 (w / 2 ^ 8), BitVec.ofNat 8 (w / 2 ^ 16),
    BitVec.ofNat 8 (w / 2 ^ 24)]).map fun p => p.1.i

end Sys2Proof
end

