-- ==== Sys2Proof/Config.lean ====
section
/-! DEFINITION. What is fixed for the machine (the part's sizes) and the free values: what the spec
leaves to the device and states no value for. A free value is an opaque constant, applied to a
counter of the state or to the operands it depends on, so that no proof can see what it is. -/

namespace Sys2Proof.Config

/-! ### The part (R11, R12, R16, R17) -/

/-- Cores of the package (R11). -/
def cores : Nat := 192
/-- Cores of one compute die (R11). -/
def coresPerDie : Nat := 48
/-- Compute dies (R11). -/
def dies : Nat := 4
/-- Wave slots of a core (R17). -/
def slots : Nat := 64
/-- Bytes of a memory line (R220). -/
def lineBytes : Nat := 128
/-- Bytes of one die's region of device memory (R12). -/
def dieBytes : Nat := 192 * 2 ^ 30
/-- Bytes of device memory (R11). -/
def deviceBytes : Nat := 768 * 2 ^ 30
/-- Bytes of a core's stash (R227). -/
def stashBytes : Nat := 2 ^ 20
/-- Gate windows of a core (R339). -/
def gateWindows : Nat := 8
/-- Entries of q0, q1 and q2 (R243). -/
def engineQueue : Nat := 32
/-- Nodes a walker holds in flight, and held decrements it keeps (R250). -/
def walkerNodes : Nat := 256
/-- Children a die dispatcher holds (R51). -/
def pendingChildren : Nat := 4096
/-- Lead threads of one core at once (R49). -/
def leadThreads : Nat := 4
/-- Locked entries of a first-level TLB (R238). -/
def lockedEntries : Nat := 32
/-- Settle stamps a core holds pending (R362). -/
def pendingStamps : Nat := 16

/-! ### Free values -/

/-- Entries of a core's store queue (R91, R222): free. -/
opaque storeQueue : Nat
/-- Entries of a memory unit's request buffer (R222): free. -/
opaque requestBuffer : Nat

/-- A byte that an engine reads of a stash footprint whose wave has retired (R36, R275), by draw and offset: free. -/
opaque freedByte : Nat → Nat → Byte
/-- Permits of a Copy Engine channel between dies (R246): free; the machine has at least one. -/
opaque channelDepth : Nat

/-- The energy weights the security processor loads at bring-up, by class and clock step (R364):
free. -/
opaque energyWeight : Nat → Nat → Nat
/-- A value that the spec leaves open, by draw: free. -/
opaque openValue : Nat → Dword
/-- How many events of an energy class a piece of work makes where R364 names the class without the
count: free, by draw. -/
opaque energyEvents : Nat → Nat
/-- Arithmetic cycles of a clock step in some ticks (R22, R23): free. -/
opaque cycles : Nat → Nat → Nat
/-- Whether an unlocked translation is present in a first-level TLB (R240, L1): free, by draw. -/
opaque tlbPresent : Nat → Bool
/-- SHA-256 (R386): the spec names the standard and does not state the function: free. -/
opaque sha256 : List Byte → List Byte
/-- The SHA-256 digests of the firmware stages, in boot order (R386): free. -/
opaque fwDigests : List (List Byte)
/-- What a walk of a domain's page tables finds for a 64 KiB piece of its address space (R377): a physical address, a
page size code, and whether the page may be read and written. The spec does not lay the tables out: free, by PTROOT, by
the number of the host's changes, and by piece. -/
opaque pageWalk : Nat → Nat → Nat → Option (Nat × Nat × Bool × Bool)
/-- The RSASSA-PSS signature of the identity key (R387), by draw of its salt: free. -/
opaque signature : Nat → List Byte → List Byte
/-- The serial number and the device identifier of an attestation report (R387): free. -/
opaque serial : BitVec 64
/-- The 20-bit device identifier (R26, R387): free. -/
opaque deviceId : BitVec 20
/-- The digest of the fuses and the enabled-core set (R387): free. -/
opaque cfgMeas : BitVec 192 → List Byte
/-- The saved image of a debug stop (R379), whose layout is the device's own: free, by draw. -/
opaque debugImage : Nat → List Byte
/-- What pre-emption writes into context storage (R353), whose layout is the device's own: free, by
draw. -/
opaque storageImage : Nat → List Byte
/-- The skew of a core's copy of HCLK, by draw and core; the machine keeps it from −2 to 2 (R20): free. -/
opaque skew : Nat → Nat → Int
/-- A byte of a line of a destroyed domain (R388): undecryptable data, free, by address. -/
opaque undecryptable : Nat → Nat → Byte

/-- A measurement register after it is extended with a digest (R386): 32 bytes. -/
def extendMeas (reg digest : List Byte) : List Byte :=
  let x := sha256 (reg ++ digest)
  (List.range 32).map fun i => (x[i]?).getD 0

/-- FWMEAS once the boot ROM has measured every stage of the firmware (R386). -/
def fwMeas : List Byte := fwDigests.foldl extendMeas (List.replicate 32 0)

end Sys2Proof.Config
end

