-- ==== Sys2Proof/Machine/State.lean ====
section
/-! DEFINITION. The state of the AV-940 as plain data: every piece of state the spec gives the
machine (INVENTORY.md lists each with its rule), the reasons a step can stop, and the state right
after reset. Collections are lists; an entry a list does not hold reads as the entry's reset value,
which is the default of its structure. Memory is a list of cells in one canonical form. -/

namespace Sys2Proof.Machine

/-! ### Why a step can stop -/

/-- The machine stops with a fault. -/
inductive Fault where
  /-- Raised by `step` alone: the device stands at a bring-up step that failed (R390) and nothing
  can run on it. Safe: the hardware runs no program either. -/
  | bringUpFailed (step : Nat)
  deriving DecidableEq, Repr

/-- The machine has no meaning for what it should do. -/
inductive Refusal where
  /-- Raised by `exec` alone, for an instruction the model gives no meaning yet. Safe. -/
  | notModelled (mnemonic : String)
  deriving DecidableEq, Repr

/-! ### Lanes and threads -/

/-- The states of a lane (R30). -/
inductive LaneSt where
  | live | parked | exited | killed
  deriving DecidableEq, Repr

/-- The pipes that push bypass latches (R120). -/
inductive Pipe where
  | i | f | x | m
  deriving DecidableEq, Repr

/-- A bypass latch (R119, R120): its value, whether it is valid for the lane (R122), and the load
request its value is pending on (R222). -/
structure Latch where
  val : Word := 0
  valid : Bool := false
  pend : Option Nat := none
  deriving DecidableEq, Repr

/-- Why a live lane does not enter the PC table (R208, R318, R319, R342). -/
inductive Hold where
  | no
  /-- Held at RETG until every lane of the activation is (R342). -/
  | retg
  /-- Held by a relaxation region: at RLXEND, faulted, settled or spare (R318, R319). -/
  | region
  /-- A caller's lane outside the activation (R341). -/
  | caller
  deriving DecidableEq, Repr

/-- One lane (R30, R119, R152, R184). -/
structure Lane where
  st : LaneSt := .exited
  /-- Program counter, a word index; of a parked lane, its faulting PC. -/
  pc : Word := 0
  /-- The new PC the run's last word gives the lane (R151). -/
  npc : Word := 0
  v : List Word := []
  p : BitVec 8 := 0
  /-- li0 li1 lf0 lf1 lx0 lx1 lm0 lm1. -/
  latch : List Latch := []
  /-- Latches kept with a lane parked by its own trap (R123). -/
  kept : Option (List Latch) := none
  /-- The on-chip call stack, oldest entry first; its length is CN (R152). -/
  cstk : List Word := []
  spill : Nat := 0
  ctr : Word := 0
  /-- HCLK before which none of the lane's later accesses is sent (R94). -/
  acq : Nat := 0
  /-- Pending registers, each with the load request it waits for (R222). -/
  pend : List (Nat × Nat) := []
  /-- A parked lane that re-enters at the next packet (R157). -/
  parkNext : Bool := false
  /-- The lane arrived in phase LASTPH (R165). -/
  arrived : Bool := false
  hold : Hold := .no
  deriving DecidableEq, Repr

/-- A buffer record: its 128 bits (R213) and its hidden LENDER (R214). -/
structure BufRec where
  bits : BitVec 128 := 0
  lender : Option Nat := none
  deriving DecidableEq, Repr

/-- A run in progress (R33, R35): its mask, the word at which it stands, the first word of the
packet its length is counted from, the words fetched for it, and what stopped the fetch after them. -/
structure Run where
  mask : Mask := 0
  ip : Nat := 0
  base : Nat := 0
  code : List Word := []
  stop : Option (TrapCode × Nat) := none
  /-- Chosen by a side, or by the lead thread's front-end: latches and lanes are fixed (R31, R35). -/
  started : Bool := false
  /-- The E group has issued, or no lane remains: the next event is RUN_END. -/
  ended : Bool := false
  /-- A parked lane of the wave was resumed since the run began: a cross-lane group does not issue in
  this run (R208, R359). -/
  resumed : Bool := false
  /-- The group at which a word waits, and the lanes that have passed the checks made before it (R128). -/
  passed : Option (Nat × Mask) := none
  deriving DecidableEq, Repr

/-- What a waiting instruction waits for (R39, R222). -/
inductive Wait where
  /-- FENCE and what acts as one (R93). -/
  | fence (sc : Scope)
  /-- Room for n entries in a queue register (R247). -/
  | push (q n : Nat)
  /-- n entries in a queue register (R247). -/
  | pop (q n : Nat)
  /-- The wave's turn at a queue in deterministic mode (R245). -/
  | turn (q : Nat) (isPush : Bool)
  /-- Room in engine queue q and in the walker (R250). -/
  | engine (q : Nat)
  /-- Phase ph of cast m complete (R167). -/
  | phase (m ph : Nat)
  /-- The open phase of cast m, in which the wave does not count, complete (R167). -/
  | joined (m : Nat)
  /-- A poll of WAITV, WAITC or BBWAIT (R234). -/
  | poll
  /-- The tile settled, and q0 writes granted before g complete, for SETTLE, which reads no tile (R283). -/
  | settled (t g : Nat)
  /-- The same, for a word that reads the tile (R282, R285). -/
  | settle (t g : Nat)
  /-- As settle, but provisional values are read (R285). -/
  | prov (t g : Nat)
  /-- No earlier command reads or writes the tile, no live tag has it as source (R286). -/
  | tileFree (t g : Nat)
  /-- A free gate window, no parked lane, nothing pending (R341). -/
  | gate
  /-- Nothing of the callee pending, every lane of the activation held (R342). -/
  | retg
  /-- Room in the die dispatcher (R51). -/
  | spawn
  /-- WTIME reaching a value (R357). -/
  | sleep (until_ : Nat)
  /-- One of the events pending (R158). -/
  | event (m : BitVec 16)
  /-- No parked lane in the wave (R208). -/
  | parked
  /-- Room in the core's store queue and in its memory unit's request buffer (R222). -/
  | room
  /-- Values pending on load requests (R222). -/
  | pending (reqs : List Nat)
  /-- Acquires of the lanes and byte-barrier holds over (R94, R235). -/
  | held (m : Mask)
  /-- The region opens (R312). -/
  | region
  /-- Fewer than 16 settle stamps pending on the core (R362). -/
  | stamps
  /-- The translations of these lines are known (R152, R220). -/
  | walk (ps : List (Nat × Nat))
  /-- The page of an address of a domain is mapped, or will not come (R239). -/
  | page (dom va : Nat)
  /-- A read of these lines of a domain may be made at once: no atomic of the core, no forwarded store and no
  migration stands before it (R90, R95, R105). -/
  | lines (ps : List (Nat × Nat))
  /-- The homes of these lines let the device write them (R88, R90). -/
  | free (ps : List Nat)
  deriving DecidableEq, Repr

/-- A fault posted to a thread by an engine or by a lost store (R77, R292). -/
structure Posted where
  code : TrapCode
  addr : Nat := 0
  node : Nat := 0
  /-- The lanes that were in Active() when the word issued. -/
  mask : Mask := 0xFFFFFFFF
  /-- The domain charged, where it is not the thread's context (R354). -/
  dom : Option Nat := none
  deriving DecidableEq, Repr

/-- A caller's state, banked by CALLG (R341). -/
structure Banked where
  /-- The activation's lanes. -/
  act : Mask := 0
  /-- n of the CALLG word. -/
  ret : Word := 0
  lanes : List Lane := []
  w : List Dword := []
  b : List BufRec := []
  fflags : BitVec 6 := 0
  rm : BitVec 2 := 0
  seed : Dword := 0
  evp : BitVec 16 := 0
  curtag : Word := 0
  dom : Nat := 0
  code : Nat := 0
  textPkts : Nat := 0
  regs : Nat := 0
  uregs : Nat := 32
  /-- WSTART and BUDGET of the activation. -/
  wstart : Nat := 0
  budget : Nat := 0
  deriving DecidableEq, Repr

/-- What a thread is. -/
inductive ThreadKind where
  | initial | child | handler | lead
  deriving DecidableEq, Repr

/-- A poll in progress (R234): the tick before which no new attempt is sent, the lines that the attempt has read, each
with its domain and address, the latest home time of its loads, and whether it is over. -/
structure Poll where
  next : Nat := 0
  got : List ((Nat × Nat) × List Byte) := []
  home : Nat := 0
  done : Bool := false
  deriving DecidableEq, Repr

/-- A wave, or a lead thread, whose single lane is lane 0 (R30 to R50). -/
structure Thread where
  /-- In a slot, or a lead thread that has not retired. -/
  alive : Bool := false
  kind : ThreadKind := .initial
  lc : Nat := 0
  core : Nat := 0
  slot : Nat := 0
  waveid : Word := 0
  depth : Nat := 0
  cls : Nat := 0
  /-- Loss count (R41) and the mark of YIELD (R155). -/
  loss : Nat := 0
  yielded : Bool := false
  /-- The domain in whose address space it executes (R338), and its code object: the address of the
  text section and its packets (R110). -/
  dom : Nat := 0
  code : Nat := 0
  textPkts : Nat := 0
  /-- Lane registers of the footprint (R36), and uniform registers of a callee's window (R338). -/
  regs : Nat := 0
  uregs : Nat := 32
  lanes : List Lane := []
  w : List Dword := []
  wpend : List (Nat × Nat) := []
  b : List BufRec := []
  fflags : BitVec 6 := 0
  rm : BitVec 2 := 0
  seed : Dword := 0
  evp : BitVec 16 := 0
  curtag : Word := 0
  arg0 : Dword := 0
  arg1 : Dword := 0
  /-- WTIME and the TIMER deadline (R352, R361). -/
  wtime : Nat := 0
  deadline : Option Nat := none
  /-- Held times (R92). -/
  wctc : Nat := 0
  wctd : Nat := 0
  wcts : Nat := 0
  /-- Activations, innermost first; their number is GDEPTH (R341). -/
  acts : List Banked := []
  /-- Windows written since the last device or system fence, each by its launch-on-core and number (R104). -/
  dirtyWin : List (Nat × Nat) := []
  /-- Stores of BBARM whose WCT has not returned (R235). -/
  bbHold : List Nat := []
  /-- Cast membership: the number, LASTPH, and the first phase its lanes count in (R165, R166). -/
  cast : Option Nat := none
  lastph : Option Nat := none
  joinph : Nat := 0
  run : Option Run := none
  wait : Option Wait := none
  /-- The index of the word that waits (R366). -/
  waitAt : Nat := 0
  /-- Pages, each by its domain and address, that a waiting word or fetch will not get: the host has unmapped them
  (R380). -/
  denied : List (Nat × Nat) := []
  /-- The cast and the phase of the arrival that BARW has made in the group that waits (R167). -/
  inBarw : Option (Nat × Nat) := none
  poll : Option Poll := none
  posted : List Posted := []
  /-- Lanes that a RESUME re-entered, and the house tick at which: a KILL of that same cycle still
  finds them (R351). -/
  resumed : Mask := 0
  resumedAt : Option Nat := none
  /-- Stopped by pre-emption or a debug stop (R35). -/
  stopped : Bool := false
  /-- The thread's own stash footprint: its size and bytes (R36, R227). -/
  stashSize : Nat := 0
  stash : List Host.Cell := []
  /-- Address of its completion counter, 0 for none (R53). -/
  counter : Nat := 0
  /-- The word of its EXIT, reported until it retires (R366). -/
  exitPc : Word := 0
  /-- Its RLXBEG: descriptor, record and body start, while it waits for or is in a region (R312). -/
  rlx : Option (List Dword × BufRec × Nat) := none
  deriving DecidableEq, Repr

/-! ### Memory traffic -/

/-- Where a returning value goes (R222, R224 to R226). -/
inductive Dest where
  /-- A lane's registers from a first one, n of them; narrower loads extend w bytes. -/
  | lane (l : Nat) (reg : Option Nat) (n : Nat)
  /-- A uniform register. -/
  | uni (r : Nat)
  deriving DecidableEq, Repr

/-- What an access that has issued keeps for a fault that is found later: the first word of its chain group and its
bits, whether the fault falls on the wave, the domain and the activation depth it ran in, the lanes that park, each as
it stood at the start of the group's cycle, and where in the line each lane's bytes lie (R8, R123, R218). -/
structure Late where
  /-- Line requests and stores that had been made before its group: those of later groups have more. -/
  made : Nat := 0
  /-- Lanes that the late fault of an earlier access has put back: they make this one anew (R8). -/
  undone : Mask := 0
  /-- Lanes that made it in a relaxation body (R326). -/
  body : Mask := 0
  /-- The activation that made it has ended (R344). -/
  closed : Bool := false
  pc : Word := 0
  word : Word := 0
  uniform : Bool := false
  dom : Nat := 0
  depth : Nat := 0
  lanes : List (Nat × Lane) := []
  offs : List (Nat × Nat) := []
  deriving DecidableEq, Repr

/-- One lane's part of a line request: where its bytes lie in the line, how wide they are, whether
they are sign-extended, and where the value goes. -/
structure Part where
  dest : Dest
  off : Nat
  width : Nat
  signed : Bool := false
  latch : Bool := false
  /-- Of a load in a relaxation body: how many stores its step had buffered, and its place among its loads (R317). -/
  body : Option (Nat × Nat) := none
  deriving DecidableEq, Repr

/-- The stages of a request. -/
inductive ReqSt where
  /-- The line waits for a translation walk (R220). -/
  | walk
  | sent | home | done
  deriving DecidableEq, Repr

/-- A read of one line (R220, R222). -/
structure Req where
  tid : Nat
  /-- The activation depth it was issued at: whose registers it fills (R341). -/
  depth : Nat := 0
  core : Nat
  dom : Nat
  va : Nat
  /-- Physical line address once translated. -/
  line : Nat := 0
  lease : Nat := 0
  /-- A plain load or a prefetch, whose line a window or the L1 may keep (R89, R231). -/
  keeps : Bool := false
  acq : Bool := false
  parts : List Part := []
  /-- Atomics of the core that must be performed before it is served, and the requests of its lanes on its line
  that must be served before it (R95); and the atomic whose old values it stands for (R226). -/
  after : List Nat := []
  behind : List Nat := []
  store : Option Nat := none
  /-- How many stores had been accepted when the load issued: what the store queue may give it (R91,
  R95), and the bytes it gave. -/
  seen : Nat := 0
  own : List Host.Cell := []
  st : ReqSt := .sent
  data : List Byte := []
  expiry : Nat := 0
  homeTime : Nat := 0
  pref : Bool := false
  /-- It asks only whether a body's buffered store may be made: the store's translation (R317). -/
  probe : Bool := false
  /-- Why it could not be served. -/
  failed : Option TrapCode := none
  late : Late := {}
  /-- Of an activation that has ended before its loads: the first of its requests (R344). -/
  scrub : Option Nat := none
  deriving DecidableEq, Repr

/-- One lane's atomic in a line (R226). -/
structure AtomPart where
  lane : Nat
  off : Nat
  op : AtomOp
  w64 : Bool
  data : Dword
  new : Dword
  deriving DecidableEq, Repr

/-- What a store-queue entry does. -/
inductive StoreKind where
  | plain
  | atom (parts : List AtomPart)
  /-- An unsigned 64-bit add made by the device (R53, R100, R364). -/
  | add (off : Nat) (n : Nat)
  deriving DecidableEq, Repr

/-- The stages of a store (R90, R91). -/
inductive StoreSt where
  /-- Waiting for a translation walk, or for the window that covers its line. -/
  | walk
  | accepted
  /-- At its home, with a performance time. -/
  | arrived
  /-- Forwarded to the owner of a system line, not yet acknowledged (R90). -/
  | forwarded
  | performed
  deriving DecidableEq, Repr

/-- A store, atomic or device add to one line (R91). -/
structure Store where
  /-- Still in the store queue or owed a WCT. -/
  live : Bool := false
  core : Nat := 0
  /-- The threads whose held times it joins, none for an engine's (R92, R293). -/
  tids : List Nat := []
  /-- Lanes that made it, for program order (R95), and the activation depth they made it at (R342). -/
  lanes : Mask := 0
  depth : Nat := 0
  dom : Nat := 0
  va : Nat := 0
  line : Nat := 0
  kind : StoreKind := .plain
  /-- Bytes by offset in the line, ascending. -/
  bytes : List Host.Cell := []
  st : StoreSt := .accepted
  perf : Nat := 0
  /-- Its place in the order of arrival at the homes, once it has arrived (R90). -/
  arr : Nat := 0
  /-- Not performed before this time (R106). -/
  notBefore : Nat := 0
  /-- What an add of the device found, once it is performed (R362). -/
  old : Nat := 0
  wctBack : Bool := false
  /-- An ATOM with acqrel: an acquire once it has returned (R94). -/
  acq : Bool := false
  stream : Bool := false
  /-- It waits to be written into the window that covers its line, once its page is there and the window can fetch the
  line (R103, R220). -/
  fills : Bool := false
  /-- Line requests of its lanes that must be served before it arrives (R95). -/
  after : List Nat := []
  late : Late := {}
  /-- Why it will not be performed, until its fault is taken. -/
  failed : Option TrapCode := none
  deriving DecidableEq, Repr

/-- What a home keeps of a line (R90, R354). -/
structure Line where
  addr : Nat
  /-- Latest lease expiry granted. -/
  lease : Nat := 0
  /-- Performance time of the latest store that arrived. -/
  last : Nat := 0
  poisoned : Bool := false
  deriving DecidableEq, Repr

/-- A copy of a line in an L1, and the domain that loaded it (R89, R353). -/
structure Copy where
  core : Nat
  line : Nat
  expiry : Nat
  data : List Byte
  dom : Nat := 0
  deriving DecidableEq, Repr

/-- A page translation (R220, R375 INSTALL). -/
structure Page where
  va : Nat
  /-- log2 of the size: 16, 21 or 30. -/
  log : Nat
  pa : Nat
  r : Bool
  w : Bool
  deriving DecidableEq, Repr

/-! ### Launches -/

/-- A format slot (R78): the raw 64 bits of the launch record. -/
abbrev Fmt := BitVec 64

/-- The states of a launch. -/
inductive LaunchSt where
  /-- Accepted, waiting for DEPADDR (R60). -/
  | depends
  | eligible
  | finished
  deriving DecidableEq, Repr

/-- A launch that the arbiter has accepted (R55 to R60). -/
structure Launch where
  asid : Nat
  queue : Nat
  seq : Nat
  code : Nat
  leadEntry : Word
  waveEntry : Word
  control : Dword
  place : BitVec 256
  reqtag : Word
  fmt : List Fmt
  bufrec : List (BitVec 128)
  qbind : List Word
  compctr : Nat
  energy : Nat
  stampbuf : Nat
  handler : Word
  depaddr : Nat
  depthresh : Nat
  /-- From the code object's header (R145): address of the text and its packets. -/
  text : Nat
  textPkts : Nat
  st : LaunchSt := .eligible
  /-- Physical cores, or logical cores, not yet started; and started ones not yet finished. -/
  todo : List Nat := []
  running : List Nat := []
  deriving DecidableEq, Repr

/-- An entry of a mapped stash window (R103): one line. -/
structure WinEntry where
  off : Nat
  expiry : Nat
  data : List Byte
  /-- Bit n: byte n is dirty. -/
  dirty : BitVec 128 := 0
  /-- The threads that wrote it since its last write-back. -/
  writers : List Nat := []
  deriving DecidableEq, Repr

/-- A mapped stash window (R231). -/
structure Window where
  mapped : Bool := false
  record : BufRec := {}
  base : Nat := 0
  span : Nat := 0
  /-- Byte offset of its backing in the LSTASH area. -/
  backing : Nat := 0
  entries : List WinEntry := []
  deriving DecidableEq, Repr

/-- A queue of 64-bit entries with its permits (R48, R243, R246). -/
structure Fifo where
  /-- 0 unbound, 1 stash FIFO (and q3, q4), 2 host work queue (R58). -/
  kind : Nat := 0
  spec : BitVec 28 := 0
  entries : List Dword := []
  depth : Nat := 0
  permits : Nat := 0
  frozen : Bool := false
  /-- Accesses by waves so far, for the turns of deterministic mode (R245). -/
  pushes : Nat := 0
  pops : Nat := 0
  /-- Entries popped since it was bound: the oldest entry of a stash FIFO lies in slot head modulo its depth of
  its bytes in the LSTASH area (R58, R227). -/
  head : Nat := 0
  deriving DecidableEq, Repr

/-- A cast (R165). Membership is in the threads. -/
structure Cast where
  exist : Bool := false
  phase : Nat := 0
  open_ : Bool := false
  target : Nat := 0
  arrived : Nat := 0
  deriving DecidableEq, Repr

/-- A settle stamp not yet written (R362). -/
structure Stamp where
  tid : Nat
  tile : Nat
  grant : Nat
  id : BitVec 16
  curtag : Word
  /-- HCLK when its tile settled. -/
  at_ : Option Nat := none
  deriving DecidableEq, Repr

/-- A stamp record whose add to NEXT has been sent (R362): the store that adds, the wave, and the record. -/
structure StampAdd where
  add : Nat
  tid : Nat
  bytes : List Byte
  deriving DecidableEq, Repr

/-- A fault record before it is written (R348). -/
structure FaultRec where
  hclk : Nat
  code : TrapCode
  detail : Nat := 0
  kind : Nat := 0
  lane : Nat := 255
  domain : Nat := 0
  core : Nat := 0
  pc : Word := 0
  word : Word := 0
  waveid : Word := 0
  slot : Nat := 0
  addr : Nat := 0
  node : Nat := 0
  tag : Word := 0
  launch : Dword := 0
  /-- Handed to this launch-on-core's handler wave once written (R350). -/
  lc : Option Nat := none
  deriving DecidableEq, Repr

/-- A launch on one core, or on one logical core (R47, R48, R56 to R61). -/
structure LC where
  launch : Nat := 0
  core : Nat := 0
  logcore : Nat := 0
  asid : Nat := 0
  /-- Started and not finished. -/
  live : Bool := false
  lead : Option Nat := none
  /-- Initial waves not yet placed. -/
  toPlace : Nat := 0
  /-- Children to be placed here in spawn order (deterministic mode, R62). -/
  nextWave : Nat := 0
  lstash : List Host.Cell := []
  windows : List Window := []
  /-- q3 to q15. -/
  queues : List Fifo := []
  casts : List Cast := []
  /-- MXBADT MXINEX MXSAT MXPSKIP MXCVT MXNAN (R85). -/
  mx : List Word := []
  /-- The status RLXST reads (R327). -/
  rlxst : Dword := 7
  /-- Class sums in picojoules (R364). -/
  energy : List Nat := []
  /-- Locked regions: base and length (R238). -/
  locks : List (Nat × Nat) := []
  /-- Locked entries: page address and log2 of its size (R238). -/
  lockPages : List (Nat × Nat) := []
  stamps : List Stamp := []
  adds : List StampAdd := []
  /-- Records waiting for a handler wave, with their address and SEQ, and the handler (R350). -/
  toHandle : List (Nat × Nat) := []
  handler : Option Nat := none
  /-- The energy adds of its finish, by store number, once they have been sent (R364). -/
  finishing : Option (List Nat) := none
  deriving DecidableEq, Repr

/-- A child that waits for placement (R51, R254). -/
structure Child where
  lc : Nat
  core : Nat
  cls : Nat
  lanes : Nat
  entry : Word
  arg0 : Dword
  arg1 : Dword
  counter : Nat
  depth : Nat
  curtag : Word
  bin : Nat
  waveid : Option Word := none
  deriving DecidableEq, Repr

/-- The dispatcher of a die (R51): pending children in arrival order, the current bin and the
children of its turn; before the first turn the bins start at bin 0 (notes/assumptions/4). -/
structure Die where
  pend : List Child := []
  bin : Nat := 63
  turn : List Child := []
  /-- HCLK of the last permit audit (R246), and the clock step (R23). -/
  audit : Nat := 0
  clk : Nat := 0
  deriving DecidableEq, Repr

/-! ### Engines -/

/-- A weight bank (R258). -/
structure Bank where
  valid : Bool := false
  kb : Nat := 0
  /-- Packed T codes: row k is the 32 bytes at 32k. -/
  codes : List Byte := []
  /-- eB(j, g) at j × ceil(KB / 16) + g. -/
  exps : List Int := []
  ovf : Nat := 0
  deriving DecidableEq, Repr

/-- A lineage link (R267): tag, coefficient, rows, and the last plane of its tag applied. -/
structure Link where
  tag : Nat
  coef : Int
  rows : Mask
  plane : Nat
  deriving DecidableEq, Repr

/-- A WBMACP of overflow policy 11 whose tag has covered rows of a tile: who receives its ACCOVF
(R269), and the core and number of the command. -/
structure Cover where
  src : Nat × Nat
  rows : Mask
  tid : Nat
  node : Nat
  mask : Mask
  deriving DecidableEq, Repr

/-- An accumulator tile (R263): 32 rows of 128 cells. -/
structure Tile where
  rows : List (List Int) := []
  et : Int := 0
  links : List Link := []
  covers : List Cover := []
  deriving DecidableEq, Repr

/-- A lineage tag (R267, R289). -/
structure Tag where
  live : Bool := false
  /-- The source tile, once its WBMACP has published. -/
  source : Option Nat := none
  /-- Its WBMACP's command number, or none for a proxy tag. -/
  cmd : Option Nat := none
  /-- The core and the number of its WBMACP, of a proxy tag too. -/
  src : Nat × Nat := (0, 0)
  lc : Nat := 0
  tid : Nat := 0
  node : Nat := 0
  /-- The lanes of Active() when its WBMACP issued. -/
  mask : Mask := 0
  ovf : Nat := 0
  /-- Its WBMACP has formed its last plane; of a proxy tag, its CERED has landed. -/
  formed : Bool := false
  /-- For a proxy tag: the issuing core and its tag. -/
  proxyOf : Option (Nat × Nat) := none
  /-- Remote holders that have not acknowledged the last plane: target core and proxy tag there. -/
  proxies : List (Nat × Nat) := []
  /-- Counts that wait for retirement (R86). -/
  mx : List Nat := []
  /-- Of a proxy tag: its source stood at plane 0 when it was taken, so that no plane is owed (R289). -/
  atLast : Bool := false
  deriving DecidableEq, Repr

/-- A prompt tile (R267): the contributions of one plane. -/
structure Prompt where
  tag : Nat
  plane : Nat
  rows : List (List Int)
  mask : Mask
  /-- Products still to be carried to remote holders: core and proxy tag. -/
  remote : List (Nat × Nat) := []
  /-- Applied to the local holders. -/
  applied : Bool := false
  deriving DecidableEq, Repr

/-- The state of the Attention Pair (R296). Values are FP32 or BF16 bit patterns. -/
structure Pair where
  c : Word := 0
  mask : Nat := 0
  online : Bool := false
  d : Nat := 1
  qpos0 : Nat := 0
  lim : List Word := []
  /-- M, LS and RS: the reset values are −∞, +0 and 1.0. -/
  m : List Word := List.replicate 32 0xFF800000
  ls : List Word := []
  rs : List Word := List.replicate 32 0x3F800000
  bsum : List Word := []
  p : List (List (BitVec 16)) := []
  mkeys : List Mask := []
  nk : Nat := 0
  deriving DecidableEq, Repr

/-- The guess store (R315). -/
structure Guess where
  e : List (List Word) := []
  ws : Nat := 1
  ns : Nat := 0
  supplied : List Bool := []
  deriving DecidableEq, Repr

/-- The stages of an engine command. -/
inductive CmdSt where
  | queued
  | started
  /-- Its work is done; its stores are being performed (R100). -/
  | storing
  | complete
  deriving DecidableEq, Repr

/-- An engine command (R249, R250): the word, the operands captured at issue, and its progress. -/
structure Cmd where
  id : Nat := 0
  i : Instr := .nop
  lc : Nat := 0
  tid : Nat := 0
  tag : Word := 0
  /-- The domain it acts for. -/
  dom : Nat := 0
  mask : Mask := 0
  node : Nat := 0
  succ0 : Nat := 0
  succ1 : Nat := 0
  bbcount : Nat := 0
  bbaddr : Nat := 0
  /-- Predecessor count still outstanding. -/
  count : Nat := 0
  /-- M-grant order on the core (R244). -/
  grant : Nat := 0
  w2 : Dword := 0
  w3 : Dword := 0
  recs : List BufRec := []
  fmts : List Fmt := []
  st : CmdSt := .queued
  /-- Stores it has made, by number (R100). -/
  stores : List Nat := []
  /-- Faulted: no byte-barrier add (R292). -/
  fault : Bool := false
  /-- WBMAC: the A operand, plane h, the next plane, the tag and the publication plane. -/
  a : List (List Int) := []
  ea : List (List Int) := []
  h : Nat := 0
  next : Int := 0
  pub : Nat := 0
  ltag : Option Nat := none
  published : Bool := false
  /-- Counts to be added when R86 says. -/
  mx : List Nat := []
  /-- A fault to post when it completes: ACCOVF or CVTOVF under policy 11 (R77, R295). -/
  late : Option TrapCode := none
  /-- A linear operation or TSLICE: the cells it writes in its last cycle, with the links and Et that they bring
  (R268). CERED: the cells and links it has read, until they land. -/
  cells : List (List Int) := []
  links : List Link := []
  et : Int := 0
  /-- The Copy Engine's checkpoint (R18, R302): the entries, tokens or rows done, the lines done of the present
  one, and what was read of it when it was reached, a list entry or the rows of a token. -/
  unit : Nat := 0
  line : Nat := 0
  entry : Option (List Nat) := none
  /-- Numbers that the loader or the Pair has read so far, in the order of its reads. -/
  got : List (List Nat) := []
  /-- The page that it waits for, by domain and address, and the pages that it will not get: the host has
  unmapped them (R220, R380). -/
  hold : Option (Nat × Nat) := none
  denied : List (Nat × Nat) := []
  deriving DecidableEq, Repr

/-- A decrement held for a node not yet issued (R250). -/
structure Held where
  lc : Nat
  node : Nat
  n : Nat
  deriving DecidableEq, Repr

/-- An entry of a step buffer (R317): bytes of one store or load of the body, of memory
(`stash` none) or of a stash area. -/
structure StepMem where
  /-- 0 global, 1 the LSTASH area, 2 the footprint area. -/
  space : Nat
  /-- The wave whose footprint area it is. -/
  area : Nat
  dom : Nat
  addr : Nat
  bytes : List Byte
  deriving DecidableEq, Repr

/-- One step of a relaxation region (R310, R317, R319). -/
structure Step where
  g : List Word := []
  f : List Word := []
  j : List Word := []
  out : Bool := false
  stores : List StepMem := []
  loads : List StepMem := []
  flags : BitVec 6 := 0
  mx : List Nat := []
  faulted : Bool := false
  deriving DecidableEq, Repr

/-- The stages of a region. -/
inductive RegionSt where
  /-- Opened: the load of x0 is on its way (R312). -/
  | opening
  | pass
  | commit
  | closing
  deriving DecidableEq, Repr

/-- An open relaxation region (R310 to R328). -/
structure Region where
  lc : Nat
  cast : Nat
  desc : List Dword
  record : BufRec
  /-- Threads of rank 0 to W − 1, and the first word of the body of each (R319). -/
  waves : List Nat
  starts : List Nat := []
  /-- Where each component of x0 comes from: an offset in the line of a request, or a value (R312). -/
  wants : List (Option Nat × Nat) := []
  st : RegionSt := .opening
  x0 : List Word := []
  steps : List Step := []
  sc : Nat := 0
  pc : Nat := 0
  /-- Word index of the region's RLXEND, once executed. -/
  rlxend : Option Nat := none
  abort : Bool := false
  trap : Bool := false
  /-- Largest residual of the pass before, whether it failed to fall, and k − SC of that pass. -/
  resid : Word := 0
  stalled : Bool := false
  adv : Nat := 0
  k : Nat := 0
  code : Nat := 7
  first : Nat := 0
  xn : List (List Word) := []
  /-- Stores still to send at commit, with the step each belongs to, and those sent (R106). -/
  toSend : List (Nat × StepMem) := []
  sent : List Nat := []
  deriving DecidableEq, Repr

/-- What a core holds of one context: its engines, tiles and counters (R17, R18, R27). -/
structure Unit_ where
  bank0 : Bank := {}
  bank1 : Bank := {}
  /-- Which bank is active. -/
  active : Bool := false
  tiles : List Tile := []
  tags : List Tag := []
  prompts : List Prompt := []
  pair : Pair := {}
  gs : Guess := {}
  q0 : List Cmd := []
  q1 : List Cmd := []
  q2 : List Cmd := []
  held : List Held := []
  region : Option Region := none
  /-- The four event counters (R365). -/
  pm : List Nat := []
  /-- M grants so far, and commands issued so far. -/
  grants : Nat := 0
  cmds : Nat := 0
  /-- The sampling tick of the last samples (R366). -/
  sampled : Nat := 0
  deriving DecidableEq, Repr

/-- An issue side (R40): the thread that issues on it, and the slot it chose last; before its first
choice the round-robin starts at slot 0 (notes/assumptions/4). -/
structure Side where
  cur : Option Nat := none
  last : Nat := 63
  /-- The arithmetic clock step of its run: that of the die as the side last chose (R23). -/
  clk : Nat := 0
  deriving DecidableEq, Repr

/-- A core: its two sides, the gate windows in use (R339), and the HCLK skew (R20). -/
structure CoreSt where
  side0 : Side := {}
  side1 : Side := {}
  windows : Nat := 0
  skew : Int := 0
  deriving DecidableEq, Repr

/-! ### Domains and the host -/

/-- A miss queue entry the host has not answered (R380). -/
structure Miss where
  va : Nat
  access : Nat
  core : Nat
  hclk : Nat
  written : Bool := false
  deriving DecidableEq, Repr

/-- The states of an armed debug stop (R367, R379). -/
inductive StopSt where
  | none | armed | stopped
  deriving DecidableEq, Repr

/-- A work queue registered to a context (R381, R382). -/
structure WorkQ where
  queue : Nat
  block : Nat
  /-- The TAIL last read (R382). -/
  tail : Nat := 0
  /-- TAIL is to be read, once the page of its block is there (R220, R382). -/
  rung : Bool := false
  /-- Stopped by a wrong SEQ. -/
  stopped : Bool := false
  /-- Sequence numbers above COMPLETED whose records have been written. -/
  written : List Nat := []
  /-- The permits of its producing side, and the CONSUMED of a TYPE 2 queue that the device read last (R246). -/
  permits : Nat := 0
  cons : Nat := 0
  deriving DecidableEq, Repr

/-- A context or a wing (R338, R375, R377). -/
structure Domain where
  alive : Bool := false
  wing : Bool := false
  /-- CREATE has completed and no DESTROY has begun (R341). -/
  resident : Bool := false
  /-- The ASID was that of a wing which a DESTROY has ended, and no CREATE has taken it since (R375). -/
  fallen : Bool := false
  debug : Bool := false
  fn : Nat := 0
  /-- The control block's address and the fields read at CREATE (R377). -/
  block : Nat := 0
  storage : Nat := 0
  storsize : Nat := 0
  ptroot : Nat := 0
  gang : Nat := 0
  fqBase : Nat := 0
  fqDepth : Nat := 0
  trBase : Nat := 0
  trDepth : Nat := 0
  smBase : Nat := 0
  smDepth : Nat := 0
  mqBase : Nat := 0
  mqDepth : Nat := 0
  /-- TAILs, drops and RPUSED, also kept in the block. -/
  fqTail : Nat := 0
  trTail : Nat := 0
  trDrop : Nat := 0
  smTail : Nat := 0
  smDrop : Nat := 0
  mqTail : Nat := 0
  rpUsed : Nat := 0
  ctxmode : Dword := 0
  gates : Nat := 0
  gtsize : Nat := 0
  ctxmeas : List Byte := List.replicate 32 0
  pages : List Page := []
  /-- Pages of device memory that it had mapped before, whose lines its key still covers (R388). -/
  past : List Page := []
  /-- Pages of device memory that the hardware has found in its tables and used (R388). -/
  found : List Page := []
  /-- How often the host has changed its page tables, as far as the device is told: UNMAP commands (R377). -/
  walks : Nat := 0
  /-- Migrations since then of device memory that its tables may name: from, bytes and to (R105). -/
  moves : List (Nat × Nat × Nat) := []
  /-- RESERVE: pool address, entries, range base and size (R375). -/
  pool : Nat := 0
  poolN : Nat := 0
  resBase : Nat := 0
  resSize : Nat := 0
  tracing : Bool := false
  sampling : Bool := false
  period : Nat := 0
  /-- HCLK when OBSERVE last set the period: samples are of later ticks. -/
  sampleFrom : Nat := 0
  codes : List Nat := []
  /-- Fault records not yet written (R348). -/
  records : List FaultRec := []
  misses : List Miss := []
  /-- Pages that the launch arbiter waits for, and whether the host has unmapped them since (R60, R146, R380). -/
  asks : List (Nat × Bool) := []
  stop : StopSt := .none
  stopAt : Nat := 0
  stopArea : Nat := 0
  stopSize : Nat := 0
  /-- The largest HCLK at which a part of the context stopped, once it is stopping. -/
  stopClk : Option Nat := none
  /-- Switched in: its gang runs and it is not pre-empted (R353, R385). -/
  running : Bool := true
  /-- Its pre-emption has begun: its engines go to their checkpoints (R353). -/
  halting : Bool := false
  /-- The TDI is in state RUN (R388). -/
  tdiRun : Bool := true
  queues : List WorkQ := []
  units : List Unit_ := []
  /-- The Copy Engine channels between dies (R246): from die a to die b at 4 × a + b. -/
  channels : List Fifo := []
  /-- A key exists (R388). -/
  key : Bool := false
  deriving DecidableEq, Repr

/-- A function's register window (R374, R376). -/
structure Fn where
  cmdaddr : Dword := 0
  /-- The command block read at CMDGO. -/
  pending : Option (List Byte) := none
  busy : Bool := false
  result : BitVec 16 := 0
  status : BitVec 8 := 0
  done : Dword := 0
  cause : Dword := 0
  causeMask : Dword := 0
  /-- How far a command that takes several steps has come. -/
  phase : Nat := 0
  /-- MSI-X interrupts raised so far. -/
  msix : Nat := 0
  deriving DecidableEq, Repr

/-! ### The whole machine -/

/-- One thing that happens: a step of the device, or the issue of a thread's next chain group,
after HCLK has advanced by some ticks. -/
inductive Choice where
  | perform (dt : Nat) (ev : Instr)
  | issue (dt : Nat) (tid : Nat)
  /-- Uncorrectable errors arise in lines and in stash bytes, which nothing has met yet (R13, R354, R275). -/
  | flaw (dt : Nat) (lines : List Nat) (stash : List (Nat × Nat))
  /-- The host registers system memory for the device, all but some ranges of it (R376, R377). -/
  | register (dt : Nat) (unreached : List (Nat × Nat))
  /-- Which of the copy commands that run on a core comes next (R302). -/
  | copyTurn (dt : Nat) (n : Nat)
  deriving DecidableEq, Repr

/-- A trap taken by lanes in the group that issues. -/
structure Taken where
  lane : Nat
  code : TrapCode
  detail : Nat := 0
  uniform : Bool := false
  addr : Nat := 0
  /-- The domain charged, where it is not the thread's own (R354). -/
  dom : Option Nat := none
  /-- A trap of the code fetch or of the call stack, which a relaxation body does not suppress (R326). -/
  stack : Bool := false
  deriving DecidableEq, Repr

/-- The chain group that issues: the thread, Active() for the word, the word's index, the group's
first word, the thread as it stood at the start of the group's cycle (R114), the lanes that trapped
in it, and what one of its words waits for. -/
structure Issue where
  tid : Nat := 0
  mask : Mask := 0
  /-- The lanes of the run that have not trapped in the group. -/
  run : Mask := 0
  /-- The lanes a GUARD leaves to the word chained after it (R162). -/
  guard : Option Mask := none
  pc : Nat := 0
  grp : Nat := 0
  old : Thread := {}
  traps : List Taken := []
  blocked : Option Wait := none
  /-- The matrix exception counters at the start of the group's cycle (R114, R355). -/
  mx : List Word := []
  /-- The word that fails checks 1 to 3 of R128 is a uniform one. -/
  uniform : Bool := false
  /-- Line requests and stores made before the group, and whether a word of it has zeroed the lanes' CTR (R185). -/
  made : Nat := 0
  seeded : Bool := false
  deriving DecidableEq, Repr

/-- The state of the machine. -/
structure State where
  /-- House ticks since reset or since HCLK was set; HCLK is this modulo 2^64 (R19). -/
  hclk : Nat := 0
  /-- Enabled cores, bit n for core n (R28). -/
  enabled : BitVec 192 := BitVec.allOnes 192
  /-- The bring-up step reached (R390), and 0 or the step that failed. -/
  bringUp : Nat := 8
  failed : Nat := 0
  /-- The PTP slewing rate in parts per million (R21). -/
  slew : Int := 0
  /-- The firmware measurement register (R386). -/
  fwmeas : List Byte := Config.fwMeas
  mem : List Host.Cell := []
  lines : List Line := []
  copies : List Copy := []
  reqs : List Req := []
  stores : List Store := []
  /-- Lines whose stored data holds an uncorrectable error that nothing has met yet (R13, R354). -/
  flawed : List Nat := []
  /-- The same of stash bytes: an area, 2n for the LSTASH area of launch-on-core n and 2n + 1 for the footprint of
  thread n, and an offset (R275). -/
  flawedStash : List (Nat × Nat) := []
  /-- Stores that have arrived at their homes so far (R90). -/
  arrivals : Nat := 0
  /-- Migrations under way: a domain, an address of its page and the new place (R105). -/
  moving : List (Nat × Nat × Nat) := []
  /-- Writes of the device to system memory that the hub holds, oldest first: the place and the bytes (R88, R90). -/
  outbox : List (Nat × List Byte) := []
  /-- Access counts that the base dies and the hub keep: page, stack and count (R13, R221). -/
  access : List ((Nat × Nat) × Nat) := []
  threads : List Thread := []
  cores : List CoreSt := []
  dies : List Die := []
  launches : List Launch := []
  lcs : List LC := []
  domains : List Domain := []
  fns : List Fn := []
  /-- System memory that the host has not registered for the device, as ranges (R376, R377). -/
  unreached : List (Nat × Nat) := []
  /-- The gang that runs, the gang that a switch under way goes to, and the schedule (R385). -/
  gang : Nat := 0
  switching : Option Nat := none
  schedule : List (Nat × Nat) := []
  /-- The model's own: outside inputs and scheduling choices still to come (notes/assumptions/1). -/
  agenda : List Choice := []
  /-- The model's own: where the choice among the copy commands that run on a core begins (notes/assumptions/9). -/
  copyTurn : Nat := 0
  /-- The model's own: the chain group that issues. -/
  cur : Issue := {}
  /-- The model's own: free values drawn so far (notes/assumptions/12). -/
  draws : Nat := 0
  deriving DecidableEq, Repr

/-- The machine right after reset (R390): the device ready, no domain, no launch, no thread,
nothing listed in memory. -/
def State.reset : State := {}

end Sys2Proof.Machine
end

