-- ==== Sys2Proof/Machine/Bits.lean ====
section
/-! DEFINITION. Helpers on plain data that the machine's operations share: lists whose missing
entries read as a default, bit fields, masks of lanes, and little-endian byte strings (R2). -/

namespace Sys2Proof.Machine

/-! ### Lists with a default -/

/-- Entry n of a list, or the default. -/
def rd {α : Type} (d : α) : List α → Nat → α
  | [], _ => d
  | x :: _, 0 => x
  | _ :: t, n + 1 => rd d t n

/-- A list turned so that its entry n modulo its length comes first. -/
def turned {α : Type} (l : List α) (n : Nat) : List α :=
  let k := n % max 1 l.length
  l.drop k ++ l.take k

/-- The list with entry n replaced, padded with the default where it is shorter. -/
def wr {α : Type} (d : α) : List α → Nat → α → List α
  | [], 0, x => [x]
  | [], n + 1, x => d :: wr d [] n x
  | _ :: t, 0, x => x :: t
  | h :: t, n + 1, x => h :: wr d t n x

/-- The list with a function applied to entry n. -/
def upd {α : Type} (d : α) (l : List α) (n : Nat) (f : α → α) : List α := wr d l n (f (rd d l n))

/-- The first index whose entry meets a test. -/
def findIdx? {α : Type} (p : α → Bool) (l : List α) : Option Nat :=
  let rec go (i : Nat) : List α → Option Nat
    | [] => none
    | x :: t => if p x then some i else go (i + 1) t
  go 0 l

/-- The indices whose entries meet a test, ascending. -/
def indices {α : Type} (p : α → Bool) (l : List α) : List Nat :=
  let rec go (i : Nat) : List α → List Nat
    | [] => []
    | x :: t => if p x then i :: go (i + 1) t else go (i + 1) t
  go 0 l

/-- Inserts into a list in ascending order of a key, after the entries of an equal key. -/
def insertBy {α : Type} (key : α → Nat) (x : α) : List α → List α
  | [] => [x]
  | y :: t => if key x < key y then x :: y :: t else y :: insertBy key x t

/-- Sorts by ascending key, stably. -/
def sortBy {α : Type} (key : α → Nat) (l : List α) : List α := l.foldl (fun a x => insertBy key x a) []

/-! ### Fields and masks -/

/-- Bits hi down to lo of a value, as a number (R2). -/
def fld {w : Nat} (x : BitVec w) (hi lo : Nat) : Nat := (x.toNat >>> lo) % 2 ^ (hi + 1 - lo)

/-- A field read as a signed integer (R6). -/
def sfld {w : Nat} (x : BitVec w) (hi lo : Nat) : Int :=
  let n := fld x hi lo
  if n < 2 ^ (hi - lo) then n else (n : Int) - 2 ^ (hi + 1 - lo)

/-- The two's complement value of the low n bits of a number (R6). -/
def sintOf (n x : Nat) : Int :=
  let y := x % 2 ^ n
  if y < 2 ^ (n - 1) then y else (y : Int) - 2 ^ n

/-- The lanes of a mask, ascending. -/
def lanesOf (m : Mask) : List Nat := (List.range 32).filter fun l => m.getLsbD l

/-- The mask of the lanes that meet a test. -/
def maskOf (p : Nat → Bool) : Mask :=
  (List.range 32).foldl (fun m l => if p l then m ||| (1#32 <<< l) else m) 0

/-- The mask of one lane. -/
def laneBit (l : Nat) : Mask := 1#32 <<< l

/-! ### Bytes -/

/-- The n bytes of a number, the lowest first (R2). -/
def bytesOf : Nat → Nat → List Byte
  | 0, _ => []
  | n + 1, x => BitVec.ofNat 8 x :: bytesOf n (x / 256)

/-- The number that a little-endian byte string holds (R2). -/
def ofBytes : List Byte → Nat
  | [] => 0
  | b :: t => b.toNat + 256 * ofBytes t

/-- Little-endian bytes off to off + n − 1 of a byte string, as a number. -/
def leAt (l : List Byte) (off n : Nat) : Nat := ofBytes ((l.drop off).take n)

/-- ⌈a / b⌉. -/
def ceilDiv (a b : Nat) : Nat := (a + b - 1) / b

/-- The line of a byte address (R220). -/
def lineOf (a : Nat) : Nat := a / 128 * 128

end Sys2Proof.Machine
end

