-- ==== Sys2Proof/Machine/Num.lean ====
section
/-! DEFINITION. Number formats and exact arithmetic (R64 to R79, R81): the encodings, rounding with
tininess after rounding (R71), the overflow policies (R72), and the IEEE results of arithmetic
(R73). A finite value is a sign, a magnitude and a power of two; a real value that is no dyadic
number is given by the dyadic number just below its magnitude and a sticky mark. -/

namespace Sys2Proof.Machine

/-! ### Flags (R83) -/

/-- The sticky flags, as bits of FFLAGS (R83). -/
abbrev Flags := BitVec 6
/-- NX: inexact result. -/
def fNX : Flags := 1
/-- UF: tiny and inexact result. -/
def fUF : Flags := 2
/-- OF: overflow. -/
def fOF : Flags := 4
/-- DZ: exact infinite result from a finite operand. -/
def fDZ : Flags := 8
/-- NV: invalid operation. -/
def fNV : Flags := 16
/-- SAT: a saturated value delivered by a down-conversion. -/
def fSAT : Flags := 32

/-! ### Encodings (R66) -/

/-- A floating-point type: exponent bits, fraction bits, bias, and whether it has infinities. -/
structure FSpec where
  eb : Nat
  fb : Nat
  bias : Nat
  inf : Bool
  deriving DecidableEq, Repr

/-- IEEE binary32. -/
def fp32 : FSpec := ⟨8, 23, 127, true⟩
/-- BF16. -/
def bf16 : FSpec := ⟨8, 7, 127, true⟩
/-- IEEE binary16. -/
def fp16 : FSpec := ⟨5, 10, 15, true⟩
/-- E4M3, which has no infinity. -/
def e4m3 : FSpec := ⟨4, 3, 7, false⟩
/-- E5M2. -/
def e5m2 : FSpec := ⟨5, 2, 15, true⟩

/-- Bits of a code. -/
def FSpec.width (t : FSpec) : Nat := 1 + t.eb + t.fb
/-- Exponent of the smallest normal. -/
def FSpec.emin (t : FSpec) : Int := 1 - (t.bias : Int)
/-- The canonical NaN (R66). -/
def FSpec.nan (t : FSpec) : Nat :=
  if t.inf then (2 ^ t.eb - 1) * 2 ^ t.fb + 2 ^ (t.fb - 1) else 2 ^ (t.eb + t.fb) - 1
/-- The sign bit of a code. -/
def FSpec.sign (t : FSpec) (neg : Bool) : Nat := if neg then 2 ^ (t.eb + t.fb) else 0
/-- The code of an infinity. -/
def FSpec.infCode (t : FSpec) (neg : Bool) : Nat := t.sign neg + (2 ^ t.eb - 1) * 2 ^ t.fb
/-- The code of the largest finite magnitude. -/
def FSpec.maxCode (t : FSpec) (neg : Bool) : Nat :=
  t.sign neg + if t.inf then (2 ^ t.eb - 1) * 2 ^ t.fb - 1 else 2 ^ (t.eb + t.fb) - 2

/-- A decoded value: a NaN (signalling when its quiet bit is clear), an infinity, or the finite
value ± m × 2^e. -/
inductive Val where
  | nan (sig : Bool)
  | inf (neg : Bool)
  | fin (neg : Bool) (m : Nat) (e : Int)
  deriving DecidableEq, Repr

/-- Decodes a code (R66). -/
def FSpec.dec (t : FSpec) (c : Nat) : Val :=
  let neg := c.testBit (t.eb + t.fb)
  let x := (c >>> t.fb) % 2 ^ t.eb
  let f := c % 2 ^ t.fb
  if x = 2 ^ t.eb - 1 then
    if t.inf then
      if f = 0 then .inf neg else .nan (!f.testBit (t.fb - 1))
    else if f = 2 ^ t.fb - 1 then .nan false
    else .fin neg (2 ^ t.fb + f) ((x : Int) - t.bias - t.fb)
  else if x = 0 then .fin neg f (t.emin - t.fb)
  else .fin neg (2 ^ t.fb + f) ((x : Int) - t.bias - t.fb)

/-- Whether a value is a NaN. -/
def Val.isNan : Val → Bool
  | .nan _ => true
  | _ => false
/-- Whether a value is a signalling NaN (R67). -/
def Val.isSig : Val → Bool
  | .nan s => s
  | _ => false
/-- Whether a value is a zero. -/
def Val.isZero : Val → Bool
  | .fin _ m _ => m = 0
  | _ => false
/-- The sign of a value that is no NaN. -/
def Val.neg : Val → Bool
  | .nan _ => false
  | .inf n => n
  | .fin n _ _ => n
/-- The value with its sign changed. -/
def Val.negate : Val → Val
  | .nan s => .nan s
  | .inf n => .inf !n
  | .fin n m e => .fin (!n) m e
/-- The value × 2^k. -/
def Val.scale (k : Int) : Val → Val
  | .fin n m e => .fin n m (e + k)
  | v => v

/-! ### Rounding (R71) -/

/-- Rounds a magnitude i + r, 0 ≤ r < 1, to an integer: `half` compares r with 1/2, `exact` says r
is 0. -/
def roundUnit (r : Rnd) (neg : Bool) (i : Nat) (exact : Bool) (half : Ordering) : Nat :=
  if exact then i else
  match r with
  | .rne => if half = .gt || (half = .eq && i % 2 = 1) then i + 1 else i
  | .rtz => i
  | .rdn => if neg then i + 1 else i
  | .rup => if neg then i else i + 1

/-- Rounds the magnitude (m, and a little more when sticky) × 2^e to a multiple of 2^q: the multiple
and whether it is exact. -/
def roundAt (r : Rnd) (neg : Bool) (m : Nat) (e : Int) (sticky : Bool) (q : Int) : Nat × Bool :=
  if e ≥ q then
    let i := m <<< (e - q).toNat
    (roundUnit r neg i (!sticky) .lt, !sticky)
  else
    let k := (q - e).toNat
    let i := m >>> k
    let rem := m % 2 ^ k
    let exact := rem = 0 && !sticky
    let h := 2 ^ (k - 1)
    let half := if rem < h then .lt else if rem > h || sticky then .gt else .eq
    (roundUnit r neg i exact half, exact)

/-- A rounded finite value: multiple i of 2^q, whether it overflows, is inexact, and was tiny. -/
structure Rounded where
  i : Nat
  q : Int
  big : Bool
  inexact : Bool
  tiny : Bool
  deriving DecidableEq, Repr

/-- Rounds to a floating-point type with no upper end of the exponents (R71). -/
def FSpec.round (t : FSpec) (r : Rnd) (neg : Bool) (m : Nat) (e : Int) (sticky : Bool) : Rounded :=
  if m = 0 && !sticky then ⟨0, t.emin - t.fb, false, false, false⟩ else
  let x : Int := (Nat.log2 m : Int) + e
  let q := max (x - t.fb) (t.emin - t.fb)
  let (i, exact) := roundAt r neg m e sticky q
  let (i, q) := if i = 2 ^ (t.fb + 1) then (2 ^ t.fb, q + 1) else (i, q)
  let maxI := if t.inf then 2 ^ (t.fb + 1) - 1 else 2 ^ (t.fb + 1) - 2
  let emaxQ : Int := (if t.inf then (2 ^ t.eb - 2 : Int) else (2 ^ t.eb - 1 : Int)) - t.bias - t.fb
  let big := q > emaxQ || (q = emaxQ && i > maxI)
  let (j, _) := roundAt r neg m e sticky (x - t.fb)
  let tiny := x < t.emin && !(x = t.emin - 1 && j = 2 ^ (t.fb + 1))
  ⟨i, q, big, !exact, tiny⟩

/-- The code of a rounded finite value that does not overflow. -/
def FSpec.encode (t : FSpec) (neg : Bool) (i : Nat) (q : Int) : Nat :=
  t.sign neg + if i < 2 ^ t.fb then i else
    (q + t.fb + t.bias).toNat * 2 ^ t.fb + (i - 2 ^ t.fb)

/-- NX, and UF when tiny (R71). -/
def Rounded.flags (x : Rounded) : Flags :=
  if x.inexact then (if x.tiny then fNX ||| fUF else fNX) else 0

/-- Rounds a real value in arithmetic, with the IEEE result of an overflow (R73): code and flags. -/
def FSpec.arith (t : FSpec) (r : Rnd) (neg : Bool) (m : Nat) (e : Int) (sticky : Bool := false) :
    Nat × Flags :=
  let x := t.round r neg m e sticky
  if x.big then
    let toInf := match r with
      | .rne => true
      | .rtz => false
      | .rdn => neg
      | .rup => !neg
    (if toInf && t.inf then t.infCode neg else t.maxCode neg, fOF ||| fNX)
  else (t.encode neg x.i x.q, x.flags)

/-- A down-conversion of a value to a floating-point type under a policy (R72): nothing is a trap
CVTOVF. -/
def FSpec.convert (t : FSpec) (r : Rnd) (p : Pol) (v : Val) (sticky : Bool := false) :
    Option (Nat × Flags) :=
  let overflow (neg : Bool) : Option (Nat × Flags) :=
    match p with
    | .sat => some (t.maxCode neg, fOF ||| fNX ||| fSAT)
    | .inf => if t.inf then some (t.infCode neg, fOF ||| fNX)
              else some (t.maxCode neg, fOF ||| fNX ||| fSAT)
    | .nan => some (t.nan, fOF ||| fNX ||| fNV)
    | .trap => none
  match v with
  | .nan s => some (t.nan, if s then fNV else 0)
  | .inf neg => if t.inf then some (t.infCode neg, 0) else overflow neg
  | .fin neg m e =>
    let x := t.round r neg m e sticky
    if x.big then overflow neg else some (t.encode neg x.i x.q, x.flags)

/-- A down-conversion to a signed integer of the range lo to hi (R72): the integer and flags. -/
def intConvert (lo hi : Int) (r : Rnd) (p : Pol) (v : Val) (sticky : Bool := false) :
    Option (Int × Flags) :=
  let overflow (neg : Bool) : Option (Int × Flags) :=
    match p with
    | .sat | .inf => some (if neg then lo else hi, fOF ||| fNX ||| fSAT)
    | .nan => some (lo, fOF ||| fNX ||| fNV)
    | .trap => none
  match v with
  | .nan _ =>
    match p with
    | .sat | .inf => some (0, fNV)
    | .nan => some (lo, fNV)
    | .trap => none
  | .inf neg => overflow neg
  | .fin neg m e =>
    let (i, exact) := roundAt r neg m e sticky 0
    let x : Int := if neg then -(i : Int) else i
    if x < lo || x > hi then overflow neg else some (x, if exact then 0 else fNX)

/-! ### Exact sums and products -/

/-- The exact sum of two finite values as a signed multiple of a power of two. -/
def addFin (n1 : Bool) (m1 : Nat) (e1 : Int) (n2 : Bool) (m2 : Nat) (e2 : Int) : Int × Int :=
  let e := min e1 e2
  let a : Int := (m1 <<< (e1 - e).toNat : Nat)
  let b : Int := (m2 <<< (e2 - e).toNat : Nat)
  ((if n1 then -a else a) + (if n2 then -b else b), e)

/-- The sign of an exact zero sum (R68). -/
def zeroSign (r : Rnd) (n1 n2 : Bool) : Bool := if n1 = n2 then n1 else r = .rdn

/-- NV when any of the values is a signalling NaN (R67). -/
def sigFlags (vs : List Val) : Flags := if vs.any Val.isSig then fNV else 0

/-- a + b in a type (R67, R68, R73). -/
def FSpec.add (t : FSpec) (r : Rnd) (a b : Val) : Nat × Flags :=
  match a, b with
  | .nan _, _ => (t.nan, sigFlags [a, b])
  | _, .nan _ => (t.nan, sigFlags [a, b])
  | .inf n, .inf k => if n = k then (t.infCode n, 0) else (t.nan, fNV)
  | .inf n, _ => (t.infCode n, 0)
  | _, .inf n => (t.infCode n, 0)
  | .fin n1 m1 e1, .fin n2 m2 e2 =>
    let (s, e) := addFin n1 m1 e1 n2 m2 e2
    if s = 0 then (t.sign (zeroSign r n1 n2), 0)
    else t.arith r (s < 0) s.natAbs e

/-- a × b in a type. -/
def FSpec.mul (t : FSpec) (r : Rnd) (a b : Val) : Nat × Flags :=
  match a, b with
  | .nan _, _ => (t.nan, sigFlags [a, b])
  | _, .nan _ => (t.nan, sigFlags [a, b])
  | .inf n, .inf k => (t.infCode (n != k), 0)
  | .inf n, .fin k m _ => if m = 0 then (t.nan, fNV) else (t.infCode (n != k), 0)
  | .fin k m _, .inf n => if m = 0 then (t.nan, fNV) else (t.infCode (n != k), 0)
  | .fin n1 m1 e1, .fin n2 m2 e2 =>
    if m1 * m2 = 0 then (t.sign (n1 != n2), 0) else t.arith r (n1 != n2) (m1 * m2) (e1 + e2)

/-- a × b + c in a type, formed exactly and rounded once (R81). 0 × ∞ raises NV even when c is a
NaN. -/
def FSpec.fma (t : FSpec) (r : Rnd) (a b c : Val) : Nat × Flags :=
  let bad : Bool := match a, b with
    | .inf _, .fin _ m _ => m = 0
    | .fin _ m _, .inf _ => m = 0
    | _, _ => false
  if bad then (t.nan, fNV)
  else if a.isNan || b.isNan || c.isNan then (t.nan, sigFlags [a, b, c])
  else
    match a, b, c with
    | .fin n1 m1 e1, .fin n2 m2 e2, .fin n3 m3 e3 =>
      let n := n1 != n2
      let (s, e) := addFin n (m1 * m2) (e1 + e2) n3 m3 e3
      if s = 0 then (t.sign (zeroSign r n n3), 0) else t.arith r (s < 0) s.natAbs e
    | .fin _ _ _, .fin _ _ _, .inf n => (t.infCode n, 0)
    | _, _, .inf k => if (a.neg != b.neg) = k then (t.infCode k, 0) else (t.nan, fNV)
    | _, _, _ => (t.infCode (a.neg != b.neg), 0)

/-- The order of two values that are no NaN: −0 equals +0. -/
def Val.cmp (a b : Val) : Ordering :=
  match a, b with
  | .inf n, .inf k => if n = k then .eq else if n then .lt else .gt
  | .inf n, _ => if n then .lt else .gt
  | _, .inf n => if n then .gt else .lt
  | .fin n1 m1 e1, .fin n2 m2 e2 =>
    let (s, _) := addFin n1 m1 e1 (!n2) m2 e2
    compare s 0
  | _, _ => .eq

/-! ### FP32 on bit patterns -/

/-- The value of an FP32 pattern. -/
def dec32 (x : Word) : Val := fp32.dec x.toNat
/-- A code as an FP32 pattern. -/
def w32 (c : Nat) : Word := BitVec.ofNat 32 c
/-- A code and flags as an FP32 pattern and flags. -/
def wf32 (r : Nat × Flags) : Word × Flags := (w32 r.1, r.2)
/-- Round(a + b, FP32, r). -/
def fadd32 (r : Rnd) (a b : Word) : Word × Flags := wf32 (fp32.add r (dec32 a) (dec32 b))
/-- Round(a × b, FP32, r). -/
def fmul32 (r : Rnd) (a b : Word) : Word × Flags := wf32 (fp32.mul r (dec32 a) (dec32 b))
/-- Round(a × b + c, FP32, r). -/
def ffma32 (r : Rnd) (a b c : Word) : Word × Flags := wf32 (fp32.fma r (dec32 a) (dec32 b) (dec32 c))

/-! ### Element types (R64, R65, R69) -/

/-- Bits of an element of a type code (R64). -/
def typeBits (ty : Nat) : Nat := rd 8 [32, 16, 16, 8, 8, 8, 4, 2, 32, 64, 8] ty

/-- The floating-point type of a type code, for codes 0 to 4. -/
def floatOf (ty : Nat) : Option FSpec := rd none [some fp32, some bf16, some fp16, some e4m3, some e5m2] ty

/-- The value of an integer. -/
def valOfInt (x : Int) : Val := .fin (x < 0) x.natAbs 0

/-- Dec(c) of a type code (R64 to R69); T code 10 reads as 0. -/
def decElem (ty c : Nat) : Val :=
  match floatOf ty with
  | some t => t.dec c
  | none =>
    if ty = 7 then (if c % 4 = 1 then valOfInt 1 else if c % 4 = 3 then valOfInt (-1) else valOfInt 0)
    else valOfInt (sintOf (typeBits ty) c)

/-- The range of an integer type code as a conversion target (R72, R201): T takes −1 to 1. -/
def intRange (ty : Nat) : Int × Int :=
  if ty = 7 then (-1, 1)
  else if ty = 9 then (-(2 ^ 47), 2 ^ 47 - 1)
  else (-(2 ^ (typeBits ty - 1)), 2 ^ (typeBits ty - 1) - 1)

/-- The code of Round(v, TYPE, r) under a policy (R71, R72): nothing is a trap CVTOVF. -/
def encElem (ty : Nat) (r : Rnd) (p : Pol) (v : Val) (sticky : Bool := false) : Option (Nat × Flags) :=
  match floatOf ty with
  | some t => t.convert r p v sticky
  | none =>
    let (lo, hi) := intRange ty
    (intConvert lo hi r p v sticky).map fun (x, f) => ((x % 2 ^ typeBits ty).toNat, f)

/-! ### Format slots (R78, R79) -/

/-- TYPE. -/
def fmtType (f : Fmt) : Nat := fld f 3 0
/-- SCALE. -/
def fmtScale (f : Fmt) : Nat := fld f 7 4
/-- SCALEBUF. -/
def fmtBuf (f : Fmt) : Nat := fld f 11 8
/-- OVF. -/
def fmtOvf (f : Fmt) : Pol := rd .sat [.sat, .inf, .nan, .trap] (fld f 13 12)
/-- RND. -/
def fmtRnd (f : Fmt) : Rnd := rd .rne [.rne, .rtz, .rdn, .rup] (fld f 15 14)
/-- ADJ. -/
def fmtAdj (f : Fmt) : Int := sfld f 23 16

/-- The rounding mode of FMODE.RM (R82). -/
def rndOf (rm : BitVec 2) : Rnd := rd .rne [.rne, .rtz, .rdn, .rup] rm.toNat

end Sys2Proof.Machine
end

