-- ==== Sys2Proof/Machine/Ops.lean ====
section
/-! DEFINITION. The named operations of the machine over threads, lanes and records: reading and
writing them, what a word's kind lets it do (R8, R117, R316, R345), waiting (R39), taking a trap
(R8, R123, R326, R344, R348) and returning from one (R351), and leaving an activation (R342). -/

namespace Sys2Proof.Machine

/-! ### Reading and replacing parts of the state -/

/-- Thread number tid. -/
def State.thread (s : State) (tid : Nat) : Thread := rd {} s.threads tid
/-- Replaces a thread by a function of it. -/
def State.mapThread (s : State) (tid : Nat) (f : Thread → Thread) : State :=
  { s with threads := upd {} s.threads tid f }
/-- The thread whose group issues. -/
def State.me (s : State) : Thread := s.thread s.cur.tid
/-- Replaces the thread whose group issues. -/
def State.mapMe (s : State) (f : Thread → Thread) : State := s.mapThread s.cur.tid f
/-- Launch-on-core number n. -/
def State.lc (s : State) (n : Nat) : LC := rd {} s.lcs n
/-- Replaces a launch-on-core. -/
def State.mapLC (s : State) (n : Nat) (f : LC → LC) : State := { s with lcs := upd {} s.lcs n f }
/-- The launch-on-core of a thread. -/
def State.lcOf (s : State) (tid : Nat) : LC := s.lc (s.thread tid).lc
/-- Launch number n, if it exists. -/
def State.launch? (s : State) (n : Nat) : Option Launch := s.launches[n]?
/-- Replaces a launch. -/
def State.mapLaunch (s : State) (n : Nat) (f : Launch → Launch) : State :=
  { s with launches := s.launches.modify n f }
/-- The launch of a thread. -/
def State.launchOf (s : State) (tid : Nat) : Option Launch := s.launch? (s.lcOf tid).launch
/-- Domain number asid. -/
def State.domain (s : State) (asid : Nat) : Domain := rd {} s.domains asid
/-- Whether a domain's engines and units work: it is switched in and no debug stop holds it (R353, R367). -/
def Domain.goes (d : Domain) : Bool := d.alive && d.running && d.stop ≠ .stopped
/-- Whether its engines and units take up new work: no pre-emption and no debug stop brings them to their checkpoints
(R18, R353, R367). -/
def Domain.starts (d : Domain) : Bool := d.goes && !d.halting
/-- Replaces a domain. -/
def State.mapDomain (s : State) (asid : Nat) (f : Domain → Domain) : State :=
  { s with domains := upd {} s.domains asid f }
/-- What a core holds of a context. -/
def State.unit (s : State) (asid core : Nat) : Unit_ := rd {} (s.domain asid).units core
/-- Replaces what a core holds of a context. -/
def State.mapUnit (s : State) (asid core : Nat) (f : Unit_ → Unit_) : State :=
  s.mapDomain asid fun d => { d with units := upd {} d.units core f }
/-- A core. -/
def State.core (s : State) (c : Nat) : CoreSt := rd {} s.cores c
/-- Replaces a core. -/
def State.mapCore (s : State) (c : Nat) (f : CoreSt → CoreSt) : State :=
  { s with cores := upd {} s.cores c f }
/-- A die. -/
def State.die (s : State) (n : Nat) : Die := rd {} s.dies n
/-- Replaces a die. -/
def State.mapDie (s : State) (n : Nat) (f : Die → Die) : State := { s with dies := upd {} s.dies n f }
/-- A function's window. -/
def State.fn (s : State) (n : Nat) : Fn := rd {} s.fns n
/-- Replaces a function's window. -/
def State.mapFn (s : State) (n : Nat) (f : Fn → Fn) : State := { s with fns := upd {} s.fns n f }
/-- The context of a thread's launch, whose units, casts and queues it uses (R345). -/
def State.ctxOf (s : State) (tid : Nat) : Nat := (s.lcOf tid).asid
/-- The unit of a thread's core and context. -/
def State.unitOf (s : State) (tid : Nat) : Unit_ := s.unit (s.ctxOf tid) (s.thread tid).core
/-- Replaces the unit of a thread's core and context. -/
def State.mapUnitOf (s : State) (tid : Nat) (f : Unit_ → Unit_) : State :=
  s.mapUnit (s.ctxOf tid) (s.thread tid).core f
/-- HCLK as a core reads it (R19, R20), before reduction modulo 2^64. -/
def State.coreClock (s : State) (c : Nat) : Nat := ((s.hclk : Int) + (s.core c).skew).toNat
/-- A debug stop keeps the HCLK at which an engine has come to its checkpoint (R367). -/
def State.haltedAt (s : State) (asid core : Nat) : State :=
  let d := s.domain asid
  if d.halting && d.stop = .armed then
    s.mapDomain asid fun d => { d with stopClk := some (max (d.stopClk.getD 0) (s.coreClock core)) }
  else s
/-- HCLK as the master reads it, in 64 bits. -/
def State.clock64 (s : State) : Nat := s.hclk % 2 ^ 64
/-- Draws a fresh number for a free value. -/
def State.draw (s : State) : State × Nat := ({ s with draws := s.draws + 1 }, s.draws)

/-- Whether a thread is a lead thread (R47). -/
def Thread.isLead (t : Thread) : Bool := t.kind = .lead
/-- Whether the host has unmapped the page of an address that a thread's word waited for (R380). -/
def Thread.deniedAt (t : Thread) (dom va : Nat) : Bool :=
  t.denied.any fun d => d.1 = dom && d.2 / 2 ^ 16 = va / 2 ^ 16

/-- Lane l of a thread. -/
def Thread.lane (t : Thread) (l : Nat) : Lane := rd {} t.lanes l
/-- The 32 lanes of a thread, each replaced by a function of its index and itself. -/
def Thread.mapLanes (t : Thread) (f : Nat → Lane → Lane) : Thread :=
  { t with lanes := (List.range 32).map fun l => f l (t.lane l) }
/-- Replaces one lane. -/
def Thread.mapLane (t : Thread) (l : Nat) (f : Lane → Lane) : Thread :=
  { t with lanes := upd {} t.lanes l f }
/-- The lanes of a thread in a state that a test accepts. -/
def Thread.lanesWith (t : Thread) (p : Lane → Bool) : Mask := maskOf fun l => p (t.lane l)
/-- The participating set: live and parked lanes (R30). -/
def Thread.participating (t : Thread) : Mask := t.lanesWith fun L => L.st = .live || L.st = .parked
/-- The parked lanes. -/
def Thread.parkedLanes (t : Thread) : Mask := t.lanesWith fun L => L.st = .parked
/-- Activation depth (R341). -/
def Thread.gdepth (t : Thread) : Nat := t.acts.length
/-- Uniform register n. -/
def Thread.wreg (t : Thread) (n : UReg) : Dword := rd 0 t.w n.toNat
/-- Buffer record n. -/
def Thread.brec (t : Thread) (n : BReg) : BufRec := rd {} t.b n.toNat
/-- The LAUNCH special register (R356). -/
def launchReg (l : Launch) : Dword := BitVec.ofNat 64 (l.queue % 2 ^ 17 + (l.seq % 2 ^ 32) <<< 32)

/-! ### Fault records (R348) -/

/-- Sets bits of a function's CAUSE, and raises MSI-X vector 0 when the mask lets one of them (R374). -/
def State.raise (s : State) (fn : Nat) (bits : Nat) : State :=
  s.mapFn fn fun f =>
    let c := f.cause ||| BitVec.ofNat 64 bits
    { f with cause := c, msix := if BitVec.ofNat 64 bits &&& f.causeMask ≠ 0 then f.msix + 1 else f.msix }

/-- Queues a fault record for a domain; the device writes it into the ring in order (R348). -/
def State.charge (s : State) (asid : Nat) (r : FaultRec) : State :=
  s.mapDomain asid fun d => { d with records := d.records ++ [{ r with domain := asid }] }

/-- Adds to the event counters of a context on a core that are set to an event (R365). -/
def State.count (s : State) (asid core event n : Nat) : State :=
  let d := s.domain asid
  if n = 0 || !d.debug then s else
  s.mapUnit asid core fun u =>
    { u with pm := (List.range 4).map fun i =>
        if event ≠ 0 ∧ rd 0 d.codes i = event then (rd 0 u.pm i + n) % 2 ^ 64 else rd 0 u.pm i }

/-- Adds to the event counters of a thread's context for what the thread does in the domain where it executes, whose
debug may be locked where the context's is not (R365, R389). -/
def State.countBy (s : State) (tid event n : Nat) : State :=
  let t := s.thread tid
  if (s.domain t.dom).debug then s.count (s.ctxOf tid) t.core event n else s

/-- The instruction word of a thread at a word index, as fetched for its run. -/
def Thread.wordAt (t : Thread) (pc : Nat) : Word :=
  match t.run with
  | some r => rd 0 r.code (pc - r.base)
  | none => 0

/-- The record of a trap of the group that issues (R348). -/
def State.trapRecord (s : State) (x : Taken) (kind : Nat) : FaultRec :=
  let t := s.cur.old
  { hclk := s.coreClock t.core, code := x.code, detail := x.detail, kind := kind,
    lane := if t.isLead then 255 else x.lane, core := t.core, pc := BitVec.ofNat 32 s.cur.grp,
    word := t.wordAt s.cur.grp, waveid := t.waveid, slot := if t.isLead then 64 else t.slot,
    addr := x.addr, tag := t.curtag,
    launch := ((s.launch? (s.lc t.lc).launch).map launchReg).getD 0,
    lc := if t.kind = .handler || kind = 3 then none else some t.lc }

/-! ### Relaxation bodies (R316) -/

/-- The step a lane of a thread belongs to in the open region of its core, by rank (R310). -/
def State.regionStep (s : State) (tid l : Nat) : Option Nat :=
  match (s.unitOf tid).region with
  | some r => (findIdx? (· = tid) r.waves).bind fun k =>
      if 32 * k + l < r.steps.length then some (32 * k + l) else none
  | none => none

/-- A thread's RLXBEG has not completed, or does so in the group that issues: the body begins with the packet after it
(R312, R319). -/
def State.atRlxbeg (s : State) (tid : Nat) : Bool :=
  (s.thread tid).rlx.isSome || (s.cur.tid = tid && s.cur.old.rlx.isSome)

/-- The step of the open pass a lane holds, if it does: the lane is in the body (R316). -/
def State.bodyStep (s : State) (tid l : Nat) : Option Nat :=
  match (s.unitOf tid).region, s.regionStep tid l with
  | some r, some t =>
    if r.st = .pass ∧ r.sc ≤ t ∧ ((s.thread tid).lane l).hold ≠ .region ∧ !s.atRlxbeg tid then some t else none
  | _, _ => none

/-- The lanes of a mask that are in the body of an open region. -/
def State.bodyLanes (s : State) (m : Mask) : Mask :=
  maskOf fun l => m.getLsbD l && (s.bodyStep s.cur.tid l).isSome

/-- Replaces the step a lane of a thread belongs to. -/
def State.mapStep (s : State) (tid l : Nat) (f : Step → Step) : State :=
  match s.regionStep tid l with
  | some k => s.mapUnitOf tid fun u =>
      { u with region := u.region.map fun r => { r with steps := upd {} r.steps k f } }
  | none => s

/-- Marks the region of a thread's core as ended by a trap (R321, test 1). -/
def State.markRegionTrap (s : State) (tid : Nat) : State :=
  s.mapUnitOf tid fun u => { u with region := u.region.map fun r => { r with trap := true } }

/-- A step lane among those of a mask parks, which ends its region by test 1 (R321, R326). -/
def State.markParked (s : State) (tid : Nat) (m : Mask) : State :=
  if (lanesOf m).any fun l => (s.regionStep tid l).isSome then s.markRegionTrap tid else s

/-! ### Casts (R165, R45) -/

/-- Whether a thread is a member of cast m of a launch-on-core. -/
def Thread.inCast (t : Thread) (lc m : Nat) : Bool := t.alive && t.lc = lc && t.cast = some m

/-- A cast of a launch-on-core. -/
def State.castOf (s : State) (lc m : Nat) : Cast := rd {} (s.lc lc).casts m
/-- Replaces a cast. -/
def State.mapCast (s : State) (lc m : Nat) (f : Cast → Cast) : State :=
  s.mapLC lc fun x => { x with casts := upd {} x.casts m f }

/-- The number of lanes of a mask. -/
def popMask (m : Mask) : Nat := (lanesOf m).length

/-- The cast count of the open or next phase: lanes of the members that count in it (R45). -/
def State.castCount (s : State) (lc m : Nat) : Nat :=
  let ph := (s.castOf lc m).phase
  ((s.threads.filter fun t => t.inCast lc m && t.joinph ≤ ph).map fun t => popMask t.participating).sum

/-- Completes the open phase when the arrivals equal the target (R165). -/
def State.castCheck (s : State) (lc m : Nat) : State :=
  s.mapCast lc m fun c =>
    if c.open_ ∧ c.arrived = c.target then
      { c with phase := c.phase + 1, open_ := false, target := 0, arrived := 0 }
    else c

/-- Lanes of a thread leave its cast's open phase with their arrivals, and the completion check
follows (R45). -/
def State.castDrop (s : State) (tid : Nat) (lanes : Mask) : State :=
  let t := s.thread tid
  match t.cast with
  | none => s
  | some m =>
    let c := s.castOf t.lc m
    let s :=
      if c.open_ ∧ t.joinph ≤ c.phase then
        let gone := lanes &&& t.participating
        let arr := if t.lastph = some c.phase then
          gone &&& t.lanesWith fun L => L.arrived else 0
        s.mapCast t.lc m fun c =>
          { c with target := c.target - popMask gone, arrived := c.arrived - popMask arr }
      else s
    s.castCheck t.lc m

/-- The cast rank of a thread: its position among the members by WAVEID (R44). -/
def State.castRank (s : State) (tid : Nat) : Option Nat :=
  let t := s.thread tid
  t.cast.map fun m =>
    (s.threads.filter fun x => x.inCast t.lc m && x.waveid.toNat < t.waveid.toNat).length

/-- The members of a thread's cast, in cast order (R44). -/
def State.castMembers (s : State) (lc m : Nat) : List Nat :=
  sortBy (fun i => (s.thread i).waveid.toNat) (indices (fun t => t.inCast lc m) s.threads)

/-! ### Sides -/

/-- Takes a thread off the side it runs on (R35). -/
def State.releaseSide (s : State) (tid : Nat) : State :=
  let t := s.thread tid
  if t.isLead then s else
  s.mapCore t.core fun c =>
    { c with side0 := if c.side0.cur = some tid then { c.side0 with cur := none } else c.side0,
             side1 := if c.side1.cur = some tid then { c.side1 with cur := none } else c.side1 }

/-! ### Leaving an activation (R342 to R344) -/

/-- A lane with no valid latch (R122). -/
def Lane.freshLatches (L : Lane) : Lane := { L with latch := [], kept := none }

/-- Restores the banked caller of a thread, with v0 to v7 of the activation's lanes given by a
function of the lane, and w0 to w3 (R342). -/
def Thread.unbank (t : Thread) (b : Banked) (rest : List Banked) (v07 : Nat → List Word)
    (w03 : List Dword) : Thread :=
  { t with
    lanes := (List.range 32).map fun l =>
      let L := rd {} b.lanes l
      let L := { L with acq := (t.lane l).acq, latch := [] }
      if b.act.getLsbD l then
        { L with v := if t.isLead then L.v else v07 l ++ L.v.drop 8, pc := b.ret, npc := b.ret, kept := none }
      else L
    w := w03 ++ b.w.drop 4, wpend := [], b := b.b, fflags := b.fflags, rm := b.rm, seed := b.seed,
    evp := b.evp, curtag := b.curtag, dom := b.dom, code := b.code, textPkts := b.textPkts,
    regs := b.regs, uregs := b.uregs, acts := rest, run := none, wait := none,
    poll := none }

/-- Frees a gate window of a core (R339); a context that is switched out holds none there (R353). -/
def State.freeWindow (s : State) (core : Nat) : State :=
  s.mapCore core fun c => { c with windows := c.windows - 1 }

/-- Drops the destinations of the loads of a thread's innermost activation, whose window is
scrubbed once they have completed (R344). -/
def State.dropDests (s : State) (tid : Nat) : State :=
  let d := (s.thread tid).gdepth
  let first := findIdx? (fun r => r.tid = tid && r.depth = d && r.st ≠ .done && r.scrub.isNone) s.reqs
  { s with reqs := s.reqs.map fun r =>
      if r.tid = tid && r.depth = d && r.scrub.isNone then { r with parts := [], scrub := first } else r }

/-- The gate windows of a core that are in use: those of its activations, and those of activations that have ended
whose loads have not completed (R339, R344). -/
def State.windowsUsed (s : State) (core : Nat) : Nat :=
  (s.core core).windows +
  ((s.reqs.filter fun r => r.core = core && r.st ≠ .done).filterMap (·.scrub)).eraseDups.length

/-- The accesses of an activation that ends are its own still: their faults end no later one (R344). -/
def Late.close (x : Late) (depth : Nat) : Late := if x.depth = depth then { x with closed := true } else x

/-- Closes the accesses that a thread has made at an activation depth. -/
def State.closeAccesses (s : State) (tid depth : Nat) : State :=
  { s with
    reqs := s.reqs.map fun r => if r.tid = tid then { r with late := r.late.close depth } else r
    stores := s.stores.map fun x => if x.tids.contains tid then { x with late := x.late.close depth } else x }

/-- Ends the innermost activation of a thread with status GFAULT (1) or GTIMEOUT (2): v0 to v7 of
its lanes and w1 to w3 are zero, w0 is the status (R343, R344). -/
def State.endActivation (s : State) (tid status : Nat) : State :=
  let t := s.thread tid
  match t.acts with
  | [] => s
  | b :: rest =>
    let s := (s.dropDests tid).closeAccesses tid t.gdepth
    let s := if (s.domain (s.ctxOf tid)).running then s.freeWindow t.core else s
    let s := s.releaseSide tid
    s.mapThread tid fun t =>
      t.unbank b rest (fun _ => List.replicate 8 0) [BitVec.ofNat 64 status, 0, 0, 0]

/-- A lane with CTR 0. -/
def Lane.ctrZero (L : Lane) : Lane := { L with ctr := 0 }

/-- CTR of every lane of the thread that issues becomes 0, in any state: of a lane that a fault found later puts back to an
earlier word too (R10, R185; DEDUCED, notes/assumptions/60). -/
def State.zeroCtr (s : State) : State :=
  let tid := s.cur.tid
  let d := s.me.gdepth
  let zero (x : Late) : Late := if x.depth = d then { x with lanes := x.lanes.map fun q => (q.1, q.2.ctrZero) } else x
  { (s.mapMe fun t => t.mapLanes fun _ L => L.ctrZero) with
    reqs := s.reqs.map fun r => if r.tid = tid then { r with late := zero r.late } else r
    stores := s.stores.map fun x => if x.tids.contains tid then { x with late := zero x.late } else x
    cur := { s.cur with seeded := true } }

/-! ### Taking a trap -/

/-- The traps that a relaxation body suppresses (R326). -/
def suppressed : TrapCode → Bool
  | .bounds | .xlate | .perm | .lockmiss | .align | .stashmap => true
  | _ => false

/-- Parks one lane at the group's first word with the registers and latches it had at the start of
the group's cycle (R8, R123), and charges its record (R348). In a relaxation body the region ends
by test 1 (R326), as it does where a lane with a step parks in the group of its RLXBEG. RSEED in the group zeroes its CTR all the same: it does so in every lane of the wave, in any
state (R10, R185; DEDUCED, notes/assumptions/60). -/
def State.parkLane (s : State) (x : Taken) : State :=
  let t := s.cur.old
  let L := t.lane x.lane
  let s := s.markParked s.cur.tid (laneBit x.lane)
  let s := s.mapMe fun me =>
    { (me.mapLane x.lane fun _ =>
        { L with st := .parked, pc := BitVec.ofNat 32 s.cur.grp, kept := some L.latch, ctr := (me.lane x.lane).ctr,
                 parkNext := x.code = .bkpt || x.code = .swtrap }) with
      run := me.run.map fun r => { r with mask := r.mask &&& ~~~ laneBit x.lane } }
  let s := s.countBy s.cur.tid 14 1
  let s := if x.code = .xlate then s.countBy s.cur.tid 15 1 else s
  s.charge (x.dom.getD t.dom) (s.trapRecord x (if x.uniform then 1 else 0))

/-- A suppressed fault of the body: the step is faulted and its lane is held as at RLXEND (R326). -/
def State.faultStep (s : State) (x : Taken) : State :=
  let L := s.cur.old.lane x.lane
  let s := s.mapStep s.cur.tid x.lane fun st => { st with faulted := true }
  s.mapMe fun me =>
    { (me.mapLane x.lane fun _ => { L with hold := .region }) with
      run := me.run.map fun r => { r with mask := r.mask &&& ~~~ laneBit x.lane } }

/-- A trap in a callee ends the activation with GFAULT, with one record per trapping lane in the
wing's queue (R344). -/
def State.gateFault (s : State) (xs : List Taken) : State :=
  let s := xs.foldl (fun s x =>
    (s.countBy s.cur.tid 14 1).charge (x.dom.getD s.cur.old.dom) (s.trapRecord x 3)) s
  s.endActivation s.cur.tid 1

/-- The lanes that a list of traps names. -/
def takenMask (xs : List Taken) : Mask := maskOf fun l => xs.any fun x => x.lane = l

/-- Takes the lanes of a list of traps out of the group. -/
def State.excluding (s : State) (xs : List Taken) : State :=
  { s with cur := { s.cur with traps := s.cur.traps ++ xs,
                               mask := s.cur.mask &&& ~~~ takenMask xs,
                               run := s.cur.run &&& ~~~ takenMask xs } }

/-- Parks, or holds, each lane of a list of traps (R123, R326): the faults of a body's own loads and stores
are suppressed, those of its code and of its call stack are not. -/
def State.takeAll (s : State) (xs : List Taken) : State :=
  xs.foldl (fun s x =>
    if suppressed x.code && !x.stack && (s.bodyStep s.cur.tid x.lane).isSome then s.faultStep x
    else s.parkLane x) s

/-- TAKING A TRAP, the one shared operation: the lanes of `xs` take nothing from the group and are
parked, held or end their activation; the other lanes take the effect (R8, R123, R326, R344). -/
def State.trapping (s : State) (xs : List Taken) (eff : State → State) : State :=
  if xs.isEmpty then eff s
  else if s.cur.old.acts.isEmpty then (eff (s.excluding xs)).takeAll xs
  else (s.excluding xs).gateFault xs

/-- A trap of a uniform word, for the wave as a whole: every lane of the run (R8, R35). -/
def State.trapWave (s : State) (code : TrapCode) (detail : Nat := 0) (addr : Nat := 0)
    (dom : Option Nat := none) : State :=
  s.trapping ((lanesOf s.cur.run).map fun l =>
    { lane := l, code := code, detail := detail, uniform := true, addr := addr, dom := dom }) id

/-- A trap of a lane-wise word that parks every lane of the run: KIND is that of a lane trap (R348). -/
def State.trapRun (s : State) (code : TrapCode) : State :=
  s.trapping ((lanesOf s.cur.run).map fun l => { lane := l, code := code }) id

/-- A trap of the lanes of a mask. -/
def State.trapLanes (s : State) (m : Mask) (code : TrapCode) (eff : State → State)
    (detail : Nat := 0) : State :=
  s.trapping ((lanesOf m).map fun l => { lane := l, code := code, detail := detail }) eff

/-! ### The issue context of a group -/

/-- The issue context of a thread's group. -/
def issueOf (tid : Nat) (t : Thread) (run : Mask) (grp : Nat) : Issue :=
  { tid := tid, mask := run, run := run, pc := grp, grp := grp, old := t }

/-- The run after a group: it stands at the next word, or has ended. -/
def State.afterGroup (s : State) (tid next : Nat) (e : Bool) : State :=
  { (s.mapThread tid fun t =>
      { t with wait := none, inBarw := none, denied := [],
               run := t.run.map fun r => { r with ip := next, ended := r.ended || e || r.mask = 0 } }) with
    cur := {} }

/-- Whether the run of a thread is over, and its lanes have still to take their new PCs. -/
def Run.isOver (r : Run) : Bool := r.started && (r.ended || r.mask = 0)

/-- A thread as the end of its run leaves it: the lanes of the run that are still live take their new PCs (R32, R151). -/
def Thread.runEnded (t : Thread) : Thread :=
  match t.run with
  | some r =>
    if !r.isOver then t else
    { (t.mapLanes fun l L => if r.mask.getLsbD l && L.st = .live then { L with pc := L.npc } else L) with
      run := none, wait := none, poll := none }
  | none => t

/-! ### What a word's kind lets it do -/

/-- What a word may not do in a callee: the DETAIL of its GATE trap (R345). -/
abbrev GateRule := Option Nat

/-- A lane-wise word: in a callee it traps GATE where R345 forbids it, and in a relaxation body
RLXBAD in the lanes that hold a step where R316 forbids it. -/
def State.laneWise (s : State) (gate : GateRule) (bodyOk : Bool) (eff : State → State) : State :=
  match gate, s.cur.old.acts with
  | some d, _ :: _ => s.trapLanes s.cur.mask .gate eff d
  | _, _ => if bodyOk then eff s else s.trapLanes (s.bodyLanes s.cur.mask) .rlxbad eff

/-- A uniform word: it does not execute when no lane remains (R117); in a callee or a body it traps
for the wave where R345 or R316 forbids it. -/
def State.uniform (s : State) (gate : GateRule) (bodyOk : Bool) (eff : State → State) : State :=
  if s.cur.mask = 0 then s else
  match gate, s.cur.old.acts with
  | some d, _ :: _ => s.trapWave .gate d
  | _, _ => if !bodyOk && s.bodyLanes s.cur.mask ≠ 0 then s.trapWave .rlxbad else eff s

/-- The group waits: the waiting word takes no effect and the wave is not ready (R35, R39). -/
def State.block (s : State) (w : Wait) : State :=
  { (s.mapMe fun t => { t with wait := some w }) with cur := { s.cur with blocked := some w } }

/-! ### Resume and kill (R351) -/

/-- The first word of the packet after a word's packet: n of R151. -/
def nextPacket (pc : Nat) : Nat := 3 * (pc / 3 + 1)

/-- A run ends at the group at which it stands: its lanes enter the PC table at the group's first word
with their latches kept (R208). -/
def Thread.endRunAt (t : Thread) (r : Run) : Thread :=
  { (t.mapLanes fun l L =>
      if r.mask.getLsbD l then { L with pc := BitVec.ofNat 32 r.ip, kept := some L.latch } else L) with
    run := none, wait := none }

/-- What a resumed lane does to the run of its wave: one held at a cross-lane word, or at CALLG, ends
(R208); another that has begun ends where it reaches such a word (R359, notes/assumptions/53); one that
no side has chosen yet is judged again (R31). -/
def Thread.endHeldRun (t : Thread) : Thread :=
  match t.wait, t.run with
  | some .parked, some r => t.endRunAt r
  | some .gate, some r => t.endRunAt r
  | _, some r => if r.started then { t with run := some { r with resumed := true } } else { t with run := none }
  | _, none => t

/-- Re-enters parked lanes at their faulting PC, or at the next packet (R351, R123, R157). -/
def State.resumeLanes (s : State) (tid : Nat) (lanes : Mask) (skip : Bool) : State :=
  let t := s.thread tid
  let m := lanes &&& t.parkedLanes
  if m = 0 then s else
  s.mapThread tid fun t =>
    { (t.mapLanes fun l L =>
        if m.getLsbD l then
          if skip || L.parkNext then
            { L with st := .live, pc := BitVec.ofNat 32 (nextPacket L.pc.toNat), kept := none,
                     parkNext := false }
          else { L with st := .live }
        else L).endHeldRun with
      resumed := if t.resumedAt = some s.hclk then t.resumed ||| m else m
      resumedAt := some s.hclk }

/-- Lanes that a KILL finds: the parked ones, and those that a RESUME of the same cycle re-entered,
for a lane both resumed and killed in one cycle is killed (R351). -/
def State.killable (s : State) (tid : Nat) : Mask :=
  let t := s.thread tid
  t.parkedLanes ||| (if t.resumedAt = some s.hclk then
    t.resumed &&& t.lanesWith fun L => L.st = .live else 0)

/-- Kills lanes (R30): they leave their cast (R45), and a step lane aborts its region (R311). -/
def State.killLanes (s : State) (tid : Nat) (lanes : Mask) : State :=
  let t := s.thread tid
  let m := lanes &&& t.participating
  let s := s.castDrop tid m
  let s := (lanesOf m).foldl (fun s l =>
      match s.regionStep tid l with
      | some _ => s.markRegionTrap tid
      | none => s) s
  s.mapThread tid fun t =>
    { (t.mapLanes fun l L => if m.getLsbD l then { L with st := .killed } else L) with
      run := t.run.map fun r => { r with mask := r.mask &&& ~~~ m } }

/-- The thread a RESUME or KILL value names on a launch-on-core: the lead thread, or the wave in
SLOT (R351). -/
def State.laneOpTarget (s : State) (lc : Nat) (v : Dword) : Option Nat :=
  if v.getLsbD 7 then (s.lc lc).lead.filter fun i => (s.thread i).alive
  else findIdx? (fun t => t.alive && t.lc = lc && !t.isLead && t.slot = fld v 5 0) s.threads

/-- A write to RESUME or KILL (R351), without its reserved-bit check. A wave waiting at a killed or
resumed lane is judged again. -/
def State.laneOp (s : State) (lc : Nat) (v : Dword) (kill : Bool) : State :=
  match s.laneOpTarget lc v with
  | none => s
  | some tid =>
    let m := if v.getLsbD 7 then 1 else BitVec.ofNat 32 (fld v 63 32)
    if kill then s.killLanes tid (m &&& s.killable tid)
    else s.resumeLanes tid m (v.getLsbD 8)

/-! ### Posted events (R158, R357, R257) -/

/-- ORs events into a thread's EVP: of a thread in an activation, into the set that its own program
banked when it called, which is the set that the thread will wait on again (R341). -/
def Thread.postEvents (t : Thread) (e : BitVec 16) : Thread :=
  if t.acts.isEmpty then { t with evp := t.evp ||| e }
  else { t with acts := t.acts.modify (t.acts.length - 1) fun b => { b with evp := b.evp ||| e } }

/-! ### Posted faults (R77) -/

/-- Posts a fault to a thread: it is taken at its next run boundary; a retired thread's record goes
to the context's fault queue (R77, R292). -/
def State.post (s : State) (tid : Nat) (p : Posted) : State :=
  let t := s.thread tid
  if t.alive ∧ (t.lanesWith fun L => L.st = .live || L.st = .parked) &&& p.mask ≠ 0 then
    s.mapThread tid fun t => { t with posted := t.posted ++ [p] }
  else
    s.charge (p.dom.getD (s.ctxOf tid))
      { hclk := s.coreClock t.core, code := p.code, kind := 2, core := t.core, waveid := t.waveid,
        slot := if t.isLead then 64 else t.slot, addr := p.addr, node := p.node, tag := t.curtag,
        launch := ((s.launchOf tid).map launchReg).getD 0, lc := if t.kind = .handler then none else some t.lc }

end Sys2Proof.Machine
end

