-- ==== Sys2Proof/Machine/Mem.lean ====
section
/-! DEFINITION. Memory: the sparse bytes in their canonical form, physical places (R12, R88), page
translation (R220), the checks of the memory unit (R213 to R219), the store queue (R91), homes,
leases and performance times (R89, R90), loads and their returns (R222), mapped windows (R103) and
the stash (R217, R227). -/

namespace Sys2Proof.Machine

/-! ### Energy (R364) -/

/-- The arithmetic clock step of a core's die (R23). -/
def State.clkOf (s : State) (core : Nat) : Nat := (s.die (core / Config.coresPerDie)).clk

/-- The clock step at which a thread issues: that of its side's run; the lead thread's front-end has no side
(R23). -/
def State.clkOfThread (s : State) (tid : Nat) : Nat :=
  let t := s.thread tid
  let c := s.core t.core
  if c.side0.cur = some tid then c.side0.clk else if c.side1.cur = some tid then c.side1.clk else s.clkOf t.core

/-- Adds n events of an energy class to a launch-on-core's sum, with the weight of a clock step (R364). -/
def State.spendAt (s : State) (clk lc cls n : Nat) : State :=
  s.mapLC lc fun x => { x with energy := wr 0 x.energy cls (rd 0 x.energy cls + n * Config.energyWeight cls clk) }

/-- The same with the clock step of the core's die. -/
def State.spend (s : State) (lc cls n : Nat) : State := s.spendAt (s.clkOf (s.lc lc).core) lc cls n

/-- Adds a free number of events of each of some energy classes: R364 names what they count without
saying how many a piece of work makes. -/
def State.spendFree (s : State) (lc : Nat) (classes : List Nat) : State :=
  classes.foldl (fun s c => let (s, k) := s.draw; s.spend lc c (Config.energyEvents k)) s

/-! ### Bytes of memory -/

/-- What an address reads as that no cell lists (notes/assumptions/3). -/
def unlisted : Byte := 0

/-- The byte at an address. -/
def memGet : List Host.Cell → Nat → Byte
  | [], _ => unlisted
  | (a, b) :: t, n => if n < a then unlisted else if n = a then b else memGet t n

/-- Writes a byte, keeping the canonical form. -/
def memPut : List Host.Cell → Nat → Byte → List Host.Cell
  | [], n, x => if x = unlisted then [] else [(n, x)]
  | (a, b) :: t, n, x =>
    if n < a then if x = unlisted then (a, b) :: t else (n, x) :: (a, b) :: t
    else if n = a then if x = unlisted then t else (n, x) :: t
    else (a, b) :: memPut t n x

/-- The canonical form: addresses strictly rising, no cell equal to what an unlisted one reads as. -/
def Memory.wf : List Host.Cell → Bool
  | [] => true
  | [(_, b)] => b != unlisted
  | (a, b) :: (a', b') :: t => b != unlisted && decide (a < a') && Memory.wf ((a', b') :: t)

/-- The n bytes from an address. -/
def memGetN (m : List Host.Cell) (a n : Nat) : List Byte := (List.range n).map fun i => memGet m (a + i)

/-- Writes bytes from an address. -/
def memPutN (m : List Host.Cell) (a : Nat) : List Byte → List Host.Cell
  | [] => m
  | b :: t => memPutN (memPut m a b) (a + 1) t

/-! ### Physical places

Device memory is addressed from 0 (R12). A host's system address a is place 2^64 + a, and a peer's
address a on device d is place 2^64 × (2 + d) + a (notes/assumptions/5). -/

/-- Whether a place is device memory (R87). -/
def isDevice (p : Nat) : Bool := p < 2 ^ 64
/-- The place of a host system address. -/
def hostPlace (a : Nat) : Nat := 2 ^ 64 + a % 2 ^ 64
/-- The place of a peer's address. -/
def peerPlace (dev a : Nat) : Nat := 2 ^ 64 * (2 + dev) + a
/-- The die whose region holds a device place (R12). -/
def dieOf (p : Nat) : Nat := p / Config.dieBytes

/-- The stack of its die that holds a device place: consecutive 4 KiB blocks go to the three stacks in turn
(R12). -/
def stackOf (p : Nat) : Nat := p % Config.dieBytes / 4096 % 3

/-- Reads bytes of system or device memory as they stand performed. -/
def State.readPlace (s : State) (p n : Nat) : List Byte := memGetN s.mem p n
/-- Writes bytes of memory at once, as the host or the security processor does. -/
def State.writePlace (s : State) (p : Nat) (bs : List Byte) : State :=
  { s with mem := memPutN s.mem p bs }
/-- A write of the device to memory of the host: it goes out through the hub after those before it, once the line's
leases have run out and no store waits there (R88, R90; notes/assumptions/5). -/
def State.sendOut (s : State) (p : Nat) (bs : List Byte) : State := { s with outbox := s.outbox ++ [(p, bs)] }

/-! ### Translation (R220) -/

/-- log2 of the page size that PSZ codes (R240). -/
def pageLog (psz : Nat) : Nat := if psz = 0 then 16 else if psz = 1 then 21 else 30

/-- The place of a physical address that the host gives: device memory, or system memory past it (R12, R375;
notes/assumptions/5). -/
def physPlace (pa : Nat) : Nat := if pa < Config.deviceBytes then pa else hostPlace pa

/-- Where a page that a domain's tables name lies now, after the migrations since (R105). -/
def Domain.movedTo (d : Domain) (pa : Nat) : Nat :=
  d.moves.foldl (fun a m => if m.1 ≤ a && a < m.1 + m.2.1 then a - m.1 + m.2.2 else a) pa

/-- The page that the hardware finds in a domain's tables while WALKH is 0; with PTROOT 0 there are none (R377, R384;
notes/assumptions/6). -/
def Domain.walked (d : Domain) (va : Nat) : Option Page :=
  if d.ptroot = 0 || d.ctxmode.getLsbD 0 then none else
  (Config.pageWalk d.ptroot d.walks (va / 2 ^ 16)).map fun (pa, psz, r, w) =>
    let log := pageLog psz
    ⟨va / 2 ^ log * 2 ^ log, log, d.movedTo (physPlace (pa / 2 ^ log * 2 ^ log)), r, w⟩

/-- The page of a domain that maps a virtual address: one that was installed, else one of its tables. -/
def Domain.page (d : Domain) (va : Nat) : Option Page :=
  match d.pages.find? fun p => p.va / 2 ^ p.log = va / 2 ^ p.log with
  | some p => some p
  | none => d.walked va

/-- The place of a virtual address, if it is mapped. -/
def Domain.place (d : Domain) (va : Nat) : Option Nat :=
  (d.page va).map fun p => p.pa + va % 2 ^ p.log

/-- The kinds of access that a page and a record allow or refuse (R218). -/
inductive Acc where
  | load | store | atomic
  deriving DecidableEq, Repr

/-- Whether the permissions r and w allow an access. -/
def Acc.allowed (k : Acc) (r w : Bool) : Bool :=
  match k with
  | .load => r
  | .store => w
  | .atomic => r && w

/-- How the translation of a line ends (R218, check 6). -/
inductive Trans where
  | ok (place : Nat)
  | trap (code : TrapCode)
  /-- The line waits for the host to install a page (R220, R384). -/
  | walk
  deriving DecidableEq, Repr

/-- Whether a line lies in a locked region of the launch without a locked entry (R238). -/
def LC.lockMiss (x : LC) (va : Nat) : Bool :=
  (x.locks.any fun (b, n) => b / 128 ≤ va / 128 && va / 128 ≤ (b + n - 1) / 128) &&
  !(x.lockPages.any fun (a, l) => va / 2 ^ l = a / 2 ^ l)

/-- Translates a virtual address for an access of a launch's thread (R218, check 6). -/
def State.translate (s : State) (lc dom va : Nat) (k : Acc) : Trans :=
  let d := s.domain dom
  let x := s.lc lc
  match d.page va with
  | some p =>
    if dom = x.asid && x.lockMiss va then .trap .lockmiss
    else if k.allowed p.r p.w then .ok (p.pa + va % 2 ^ p.log)
    else .trap .perm
  | none =>
    if dom = x.asid && x.lockMiss va then .trap .lockmiss
    else if d.ctxmode.getLsbD 0 && d.alive then .walk
    else .trap .xlate

/-- A translation fault in a reserve-backed range maps the next page of the pool while RESH is 0
(R375, R384): readable, writable, 64 KiB. -/
def State.ensureMapped (s : State) (dom va : Nat) : State :=
  let d := s.domain dom
  if (d.page va).isNone && !d.ctxmode.getLsbD 1 && d.resBase ≤ va && va < d.resBase + d.resSize
      && d.rpUsed < d.poolN then
    let e := hostPlace (d.pool + 8 * d.rpUsed)
    let pa := physPlace (ofBytes (s.readPlace e 8))
    let s := s.sendOut e (bytesOf 8 0)
    let s := s.sendOut (hostPlace (d.block + 0xB0)) (bytesOf 8 (d.rpUsed + 1))
    s.mapDomain dom fun d =>
      { d with rpUsed := d.rpUsed + 1,
               pages := d.pages ++ [⟨va / 2 ^ 16 * 2 ^ 16, 16, pa, true, true⟩] }
  else s

/-- The miss queue entry of a page, with its ACCESS bit (R380); later misses to the page join it as it stands. -/
def State.missOf (s : State) (dom va core bits : Nat) : State :=
  let page := va / 2 ^ 16 * 2 ^ 16
  s.mapDomain dom fun d =>
    if d.misses.any fun m => m.va = page then d
    else { d with misses := d.misses ++ [{ va := page, access := bits, core := core, hclk := s.clock64 }] }

/-- The miss queue entry of a page that a line needs. -/
def State.missEntry (s : State) (dom va core : Nat) (k : Acc) : State :=
  s.missOf dom va core (match k with | .load => 1 | .store => 2 | .atomic => 4)

/-- Brings in the page of an address that the launch arbiter reads: from the reserve pool, or by a miss queue entry;
whether the arbiter waits for it. It does not for a page that the host has unmapped since it was asked (R60, R146,
R375, R380). The arbiter stands on no core: CORE of the entry is 0 (DESIGN CHOICE, notes/assumptions/69). -/
def State.askPage (s : State) (asid va : Nat) (k : Acc := .load) : State × Bool :=
  let page := va / 2 ^ 16 * 2 ^ 16
  let s := s.ensureMapped asid va
  let d := s.domain asid
  if (d.page va).isSome || !(d.ctxmode.getLsbD 0 && d.alive) || d.asks.contains (page, true) then (s, false)
  else ((s.missEntry asid va 0 k).mapDomain asid fun d =>
    { d with asks := if d.asks.contains (page, false) then d.asks else d.asks ++ [(page, false)] }, true)

/-- Brings in the pages of n bytes for the launch arbiter, n at most 64 KiB. -/
def State.askBytes (s : State) (asid va n : Nat) (k : Acc := .load) : State × Bool :=
  match s.askPage asid va k with
  | (s, true) => (s, true)
  | (s, false) => s.askPage asid (va + n - 1) k

/-- The arbiter waits no longer for the pages of n bytes. -/
def State.answered (s : State) (asid va n : Nat) : State :=
  s.mapDomain asid fun d =>
    { d with asks := d.asks.filter fun a => a.1 / 2 ^ 16 ≠ va / 2 ^ 16 && a.1 / 2 ^ 16 ≠ (va + n - 1) / 2 ^ 16 }

/-! ### Buffer records (R213 to R217) -/

/-- EXTENT. -/
def BufRec.extent (r : BufRec) : Nat := fld r.bits 127 96
/-- STRIDE. -/
def BufRec.stride (r : BufRec) : Nat := fld r.bits 95 72
/-- ESIZE. -/
def BufRec.esize (r : BufRec) : Nat := fld r.bits 70 68
/-- SWZ. -/
def BufRec.swz (r : BufRec) : Nat := fld r.bits 67 66
/-- LEASE. -/
def BufRec.lease (r : BufRec) : Nat := fld r.bits 65 64
/-- LENT. -/
def BufRec.lent (r : BufRec) : Bool := r.bits.getLsbD 63
/-- SPACE: whether it is a stash record. -/
def BufRec.stash (r : BufRec) : Bool := r.bits.getLsbD 62
/-- W. -/
def BufRec.w (r : BufRec) : Bool := r.bits.getLsbD 61
/-- R. -/
def BufRec.r (r : BufRec) : Bool := r.bits.getLsbD 60
/-- OOB. -/
def BufRec.oob (r : BufRec) : Nat := fld r.bits 59 58
/-- BASE. -/
def BufRec.base (r : BufRec) : Nat := fld r.bits 56 0
/-- Ticks of a lease class (R213). -/
def leaseTicks (c : Nat) : Nat := rd 0 [0, 64, 256, 1024] c

/-- Whether a record's bits hold a reserved bit or a reserved code (R213). -/
def badRecord (b : BitVec 128) : Bool :=
  b.getLsbD 71 || b.getLsbD 57 || fld b 70 68 > 4 || fld b 67 66 = 3 || fld b 59 58 = 3

/-- Bytes from element 0 to the end of the last element (R215). -/
def BufRec.span (r : BufRec) : Nat :=
  if r.extent = 0 then 0 else ((r.extent - 1) * r.stride + 1) * 2 ^ r.esize

/-- The byte offset of an element and whether it is in bounds (R215). -/
def BufRec.elemOff (r : BufRec) (i w : Nat) : Nat × Bool :=
  let off := i * r.stride * 2 ^ r.esize
  let inb := i < r.extent && off + w ≤ r.span
  let sw (k : Nat) : Nat := off ^^^ (((off >>> k) % 8) <<< 4)
  (if r.swz = 1 then sw 7 else if r.swz = 2 then sw 10 else off, inb)

/-- Where one lane's access goes, after checks 1 to 5 of R218. -/
inductive Place where
  | trap (code : TrapCode) (addr : Nat)
  /-- Returns 0, or is dropped (R219). -/
  | none
  /-- A virtual address of a domain. -/
  | mem (dom va : Nat)
  /-- A byte of the LSTASH area, or of the thread's own footprint. -/
  | lstash (off : Nat)
  | own (off : Nat)
  deriving DecidableEq, Repr

/-- The mapped windows of a launch-on-core. -/
def LC.mapped (x : LC) : List Window := x.windows.filter (·.mapped)

/-- Bytes of the LSTASH area (R56). -/
def State.lstashSize (s : State) (lc : Nat) : Nat :=
  ((s.launch? (s.lc lc).launch).map fun l => fld l.control 40 32 * 4096).getD 0

/-- Checks 4 and 5 of an access at an offset (R216 to R218). -/
def State.placeAt (s : State) (t : Thread) (r : BufRec) (off w : Nat) : Place :=
  if !r.stash then
    let va := r.base + off
    if va % w ≠ 0 then .trap .align va
    else if va ≥ 2 ^ 57 then .trap .xlate va
    else .mem (if r.lent then r.lender.getD t.dom else t.dom) va
  else
    let o := r.base % 2 ^ 20 + off
    if o % w ≠ 0 then .trap .align 0
    else if r.base / 2 ^ 21 ≠ 0 then .trap .stashmap 0
    else if r.base / 2 ^ 20 % 2 = 0 then
      if o + w > s.lstashSize t.lc then .trap .stashmap 0
      else if (s.lc t.lc).mapped.any fun x => x.backing < o + w && o < x.backing + x.span then
        .trap .stashmap 0
      else .lstash o
    else if t.isLead || o + w > t.stashSize then .trap .stashmap 0
    else .own o

/-- Checks 1 to 5 of R218 with the policies of R219, for a record used by a thread. `forceTrap` is
the exception of R152: an access out of bounds always traps. -/
def State.checkAccess (s : State) (t : Thread) (r : BufRec) (i w : Nat) (k : Acc) (stash : Bool)
    (forceTrap : Bool := false) : Place :=
  let bva := if r.stash then 0 else r.base + (r.elemOff i w).1
  if r.stash ≠ stash then .trap .stashmap 0
  else if !k.allowed r.r r.w then .trap .perm bva
  else
    let (off, inb) := r.elemOff i w
    if inb then s.placeAt t r off w
    else if r.oob = 0 || forceTrap then .trap .bounds bva
    else if r.oob = 2 && k = .load then
      let (off, inb) := r.elemOff (r.extent - 1) w
      if inb then s.placeAt t r off w else .none
    else .none

/-- Check 7 (R218, R354): whether a read of a line meets an uncorrectable error: the line is poisoned, or its
stored data holds an error that nothing has met yet. -/
def State.poisoned (s : State) (p : Nat) : Bool :=
  s.flawed.contains (lineOf p) || s.lines.any fun l => l.addr = lineOf p && l.poisoned

/-! ### Homes (R88 to R90) -/

/-- What a home keeps of a line. -/
def State.line (s : State) (p : Nat) : Line :=
  (s.lines.find? fun l => l.addr = lineOf p).getD { addr := lineOf p }

/-- Replaces what a home keeps of a line. -/
def State.mapLine (s : State) (p : Nat) (f : Line → Line) : State :=
  { s with lines := f (s.line p) :: s.lines.filter fun l => l.addr ≠ lineOf p }

/-- Grants a read lease on a line at its home now, cut to the performance time of the first store
that waits there (R89): the expiry. The home's copy of HCLK is taken to agree with the master (DESIGN CHOICE,
notes/assumptions/7). -/
def State.grantLease (s : State) (p ticks : Nat) : State × Nat :=
  let waiting := (s.stores.filter fun x => x.live && x.line = lineOf p && x.st = .arrived).map (·.perf)
  let e := waiting.foldl min (s.hclk + ticks)
  (s.mapLine p fun l => { l with lease := max l.lease e }, e)

/-- Keeps that a domain has used a page of device memory which the hardware found in its tables: its key covers the
page's lines (R388). -/
def State.useFound (s : State) (dom va : Nat) : State :=
  let d := s.domain dom
  match d.page va with
  | some p => if d.pages.contains p || d.found.contains p || !isDevice p.pa then s
      else s.mapDomain dom fun d => { d with found := d.found ++ [p] }
  | none => s

/-- The counts after one more access to a place, at the base die of the place's stack, or at the hub (R13, R221). -/
def countIn (counts : List ((Nat × Nat) × Nat)) (p : Nat) : List ((Nat × Nat) × Nat) :=
  let key := (p / 2 ^ 16, if isDevice p then stackOf p else 0)
  let n := ((counts.find? fun a => a.1 = key).map (·.2)).getD 0
  (key, (n + 1) % 2 ^ 64) :: counts.filter fun a => a.1 ≠ key

/-- Counts an access of a domain to a place, at an address. -/
def State.countAccess (s : State) (dom va p : Nat) : State :=
  let s := s.useFound dom va
  { s with access := countIn s.access p }

/-- Counts an access to each line of n bytes from a place. -/
def State.countSpan (s : State) (p n : Nat) : State :=
  { s with access := (List.range ((p + n + 127) / 128 - p / 128)).foldl (fun as k => countIn as ((p / 128 + k) * 128)) s.access }

/-- Whether a place lies in a page that is being migrated: accesses that arrive for it are queued until it has
its new home (R105). -/
def State.isMoving (s : State) (p : Nat) : Bool :=
  s.moving.any fun (asid, va, _) =>
    match (s.domain asid).page va with
    | some g => g.pa ≤ p && p < g.pa + 2 ^ g.log
    | none => false

/-- Whether the device may write a line at its home now: every lease on it has run out and no store waits
there (R90). -/
def State.lineFree (s : State) (p : Nat) : Bool :=
  (s.line p).lease ≤ s.hclk && !s.isMoving p &&
  !s.stores.any fun x => x.live && x.line = lineOf p && (x.st = .arrived || x.st = .forwarded)

/-! ### The store queue (R91) -/

/-- Whether a store goes to a line: one that waits for its page has no line until the page is mapped (R220). -/
def State.goesTo (s : State) (x : Store) (line : Nat) : Bool :=
  if x.st = .walk then ((s.domain x.dom).place x.va).any fun p => lineOf p = line else x.line = line

/-- The cells of the accepted, unperformed stores of a core to a line, the latest last. -/
def State.queued (s : State) (core line : Nat) : List Host.Cell :=
  (s.stores.filter fun x => x.live && x.core = core && x.st ≠ .performed && x.kind = .plain
    && s.goesTo x line).flatMap (·.bytes)

/-- The cells of the stores of a core that wait to be written into a window's entry of a line, or for its page (R91, R103). -/
def State.waitingCells (s : State) (core line : Nat) : List Host.Cell :=
  (s.stores.filter fun x => x.live && x.core = core && x.st = .walk && x.kind = .plain && s.goesTo x line).flatMap (·.bytes)

/-- The same, of the first n stores that were accepted: what a load that issued then may be given. -/
def State.queuedBefore (s : State) (core line n : Nat) : List Host.Cell :=
  ((s.stores.take n).filter fun x => x.live && x.core = core && x.st ≠ .performed && x.kind = .plain
    && s.goesTo x line).flatMap (·.bytes)

/-- The latest cell of an offset. -/
def cellAt (cs : List Host.Cell) (off : Nat) : Option Byte :=
  cs.foldl (fun r c => if c.1 = off then some c.2 else r) none

/-- Bytes of a line with cells laid over them. -/
def overlay (cs : List Host.Cell) (data : List Byte) : List Byte :=
  (List.range 128).map fun i => (cellAt cs i).getD (rd 0 data i)

/-- A line as its home holds it now. -/
def State.homeLine (s : State) (line : Nat) : List Byte := s.readPlace line 128

/-- A line as a core reads it through its store queue (R91). -/
def State.coreLine (s : State) (core line : Nat) : List Byte :=
  overlay (s.queued core line) (s.homeLine line)

/-- Enters a store into its core's queue; its number is the length of the list before. It is a line sent to a
home (R365 code 5). -/
def State.enqueue (s : State) (x : Store) : State :=
  let s : State := { s with stores := s.stores ++ [{ x with live := true }] }
  if x.core < Config.cores then
    match x.tids with
    | i :: _ => s.countBy i 5 1
    | [] => s.count x.dom x.core 5 1
  else s

/-- Accepts a store of threads, whose WCTC rises to the tick of acceptance (R91, R92). -/
def State.accept (s : State) (x : Store) : State :=
  let clk := s.coreClock x.core
  (x.tids.foldl (fun s i => s.mapThread i fun t => { t with wctc := max t.wctc clk }) s).enqueue x

/-- The new value of an atomic (R226). -/
def atomNew (op : AtomOp) (w64 : Bool) (old data new : Dword) : Dword :=
  let n := if w64 then 64 else 32
  let x := old.toNat % 2 ^ n
  let y := data.toNat % 2 ^ n
  let lt := sintOf n x < sintOf n y
  BitVec.ofNat 64 (match op with
    | .add => (x + y) % 2 ^ n
    | .min => if lt then x else y
    | .max => if lt then y else x
    | .and => x &&& y
    | .or => x ||| y
    | .xor => x ^^^ y
    | .xchg => y
    | .cas => if x = y then new.toNat % 2 ^ n else x)

/-- Performs one lane's atomic at its home: the memory after it, and the old value. -/
def atomStep (mem : List Host.Cell) (line : Nat) (a : AtomPart) : List Host.Cell × Dword :=
  let w := if a.w64 then 8 else 4
  let old := BitVec.ofNat 64 (ofBytes (memGetN mem (line + a.off) w))
  (memPutN mem (line + a.off) (bytesOf w (atomNew a.op a.w64 old a.data a.new).toNat), old)

/-- Performs the lanes of an atomic in ascending order (R97); each old value replaces `data`. -/
def atomAll (mem : List Host.Cell) (line : Nat) : List AtomPart → List Host.Cell × List AtomPart
  | [] => (mem, [])
  | a :: t =>
    let (m, old) := atomStep mem line a
    let (m, r) := atomAll m line t
    (m, { a with data := old } :: r)

/-- Performs a store at its home: memory takes its bytes, and a store of a whole line clears the
line's poison (R90, R354). An atomic that would read a line with an uncorrectable error is not performed: it fails
with ECCUE (R218, R354). -/
def State.performStore (s : State) (n : Nat) : State :=
  match s.stores[n]? with
  | none => s
  | some x =>
    if x.kind ≠ .plain && s.poisoned x.line then
      { s with stores := s.stores.modify n fun x => { x with live := false, failed := some .eccue } }
    else
    let s := if x.bytes.length = 128 && x.kind = .plain then
        { (s.mapLine x.line fun l => { l with poisoned := false }) with
          flawed := s.flawed.filter fun a => a ≠ x.line }
      else s
    let (mem, kind) := match x.kind with
      | .plain => (x.bytes.foldl (fun m c => memPut m (x.line + c.1) c.2) s.mem, StoreKind.plain)
      | .atom ps => let (m, ps) := atomAll s.mem x.line ps; (m, .atom ps)
      | .add off k =>
        (memPutN s.mem (x.line + off) (bytesOf 8 (ofBytes (memGetN s.mem (x.line + off) 8) + k)), .add off k)
    let old := match x.kind with
      | .add off _ => ofBytes (memGetN s.mem (x.line + off) 8)
      | _ => 0
    { s with mem := mem
             stores := s.stores.modify n fun x =>
               { x with st := .performed, kind := kind, live := !x.wctBack, old := old, late := {} } }

/-- The stores at their device homes whose performance time has come, in the order of performance
and then of arrival (R90). -/
def State.due (s : State) : List Nat :=
  sortBy (fun n => ((s.stores[n]?).map (·.perf)).getD 0)
    (sortBy (fun n => ((s.stores[n]?).map (·.arr)).getD 0)
      (indices (fun x => x.live && x.st = .arrived && isDevice x.line && x.perf ≤ s.hclk) s.stores))

/-- Performs every store whose time has come (R90). -/
def State.settle (s : State) : State := s.due.foldl State.performStore s

/-- The line requests and stores of a thread that have not come back (R93). -/
def State.loadsOut (s : State) (tid : Nat) : Bool :=
  s.reqs.any fun r => r.tid = tid && r.st ≠ .done && !r.parts.isEmpty
/-- An atomic of a thread has not returned. -/
def State.atomsOut (s : State) (tid : Nat) : Bool :=
  s.stores.any fun x => x.live && x.tids.contains tid && !x.wctBack &&
    match x.kind with | .atom _ => true | _ => false
/-- A store of a thread whose WCT has not come back. -/
def State.wctOut (s : State) (tid : Nat) : Bool :=
  s.stores.any fun x => x.live && x.tids.contains tid && !x.wctBack

/-- A stamp record of a thread whose store is still to be made (R362). -/
def State.stampsOut (s : State) (tid : Nat) : Bool := (s.lcOf tid).adds.any fun y => y.tid = tid

/-- The conditions of FENCE at a scope (R93). -/
def State.fenceOver (s : State) (tid : Nat) (sc : Scope) : Bool :=
  let t := s.thread tid
  let clk := s.coreClock t.core
  !s.loadsOut tid && !s.atomsOut tid && !s.stampsOut tid &&
  match sc with
  | .wave => true
  | .core => t.wctc + 4 ≤ clk
  | .device => !s.wctOut tid && t.wctd + 4 ≤ clk
  | .system => !s.wctOut tid && t.wcts + 4 ≤ clk

/-- Whether a store is an atomic (R97). -/
def Store.isAtomic (x : Store) : Bool := match x.kind with | .plain => false | _ => true

/-- The atomics of a core that are not performed on a line yet. -/
def State.atomsOn (s : State) (core line : Nat) : List Nat :=
  indices (fun x => x.live && x.core = core && x.st ≠ .performed
    && x.isAtomic && s.goesTo x line) s.stores

/-- Whether the store queue of a core or the request buffer of its memory unit is full (R222). Neither is while
it is empty. -/
def State.memFull (s : State) (core : Nat) : Bool :=
  let q := (s.stores.filter fun x => x.live && x.core = core && x.st ≠ .performed).length
  let b := (s.reqs.filter fun r => r.core = core && r.st ≠ .done).length
  (0 < q && Config.storeQueue ≤ q) || (0 < b && Config.requestBuffer ≤ b)

/-- A store to a line has been forwarded to its owner and is not acknowledged yet: no read of the line is
served (R90). -/
def State.forwardedOn (s : State) (line : Nat) : Bool :=
  s.stores.any fun x => x.live && x.line = line && x.st = .forwarded

/-- Whether a read of a line by a core can be made at once: no atomic of the core, no forwarded store and no
migration of its page stands before it (R90, R95, R105). -/
def State.lineClear (s : State) (lc core dom va : Nat) : Bool :=
  match s.translate lc dom va .load with
  | .ok p => (s.atomsOn core (lineOf p)).isEmpty && !s.forwardedOn (lineOf p) && !s.isMoving p
  | _ => true

/-! ### Mapped windows (R103, R231) -/

/-- The window of a launch-on-core that covers a virtual address of its context. -/
def LC.windowOf (x : LC) (dom va : Nat) : Option Nat :=
  if dom ≠ x.asid then none else
  findIdx? (fun w => w.mapped && w.base ≤ va && va < w.base + w.span) x.windows

/-- The offset of the filled entry of a window that holds the line of a place, whatever address it was filled by. -/
def State.entryOf (s : State) (k n place : Nat) : Option Nat :=
  let x := s.lc k
  let w : Window := rd {} x.windows n
  if !w.mapped then none else
  (w.entries.find? fun e => ((s.domain x.asid).place (w.base + e.off)).any fun p => lineOf p = lineOf place).map (·.off)

/-- The window of a core that holds the line of a place in an entry, with its launch-on-core. -/
def State.holder (s : State) (core place : Nat) : Option (Nat × Nat) :=
  (indices (fun x => x.live && x.core = core && !x.windows.isEmpty) s.lcs).findSome? fun k =>
    ((List.range (s.lc k).windows.length).find? fun n => (s.entryOf k n place).isSome).map fun n => (k, n)

/-- The window that serves a line on a core: the one that holds it in an entry, by whatever address; else one of the
launch's own that covers it, else one that another launch of the context has mapped on the core, with its
launch-on-core: no line has two copies in one core (R103, R224). -/
def State.windowAt (s : State) (lc dom va : Nat) : Option (Nat × Nat) :=
  match ((s.domain dom).place va).bind (s.holder (s.lc lc).core) with
  | some x => some x
  | none =>
    match (s.lc lc).windowOf dom va with
    | some n => some (lc, n)
    | none => (indices (fun x => x.live && x.core = (s.lc lc).core) s.lcs).findSome? fun k =>
        ((s.lc k).windowOf dom va).map fun n => (k, n)

/-- The offset in a window of the line that it serves: that of the entry which holds it, else by its address. -/
def State.windowOff (s : State) (k n dom line : Nat) : Nat :=
  match ((s.domain dom).place line).bind (s.entryOf k n) with
  | some off => off
  | none => line - (rd ({} : Window) (s.lc k).windows n).base

/-- Replaces a window. -/
def State.mapWindow (s : State) (lc n : Nat) (f : Window → Window) : State :=
  s.mapLC lc fun x => { x with windows := upd {} x.windows n f }

/-- A window of a launch-on-core. -/
def State.window (s : State) (lc n : Nat) : Window := rd {} (s.lc lc).windows n

/-- The entry of a window that serves accesses to its line now: its lease has not reached E − 4 (R89). -/
def State.winEntry (s : State) (lc n off : Nat) : Option WinEntry :=
  (s.window lc n).entries.find? fun e => e.off = off && s.coreClock (s.lc lc).core + 4 < e.expiry

/-- A byte-masked store of the dirty bytes of a window entry to its home, for the threads that wrote
it and those that ask (R103). Their WCTC rose as they wrote (R92). -/
def State.writeBackEntry (s : State) (lc n : Nat) (e : WinEntry) (tids : List Nat) : State :=
  let x := s.lc lc
  let w := s.window lc n
  if e.dirty = 0 then s else
  match (s.domain x.asid).place (w.base + e.off) with
  | none => s
  | some p =>
    let bytes := ((List.range 128).filter fun i => e.dirty.getLsbD i).map fun i => (i, rd 0 e.data i)
    s.enqueue { core := x.core, tids := (e.writers ++ tids).eraseDups, dom := x.asid,
                va := w.base + e.off, line := lineOf p, bytes := bytes }

/-- Empties the entries of a window that a test accepts: what they held stays in the window's backing bytes
(R231). -/
def State.emptyEntries (s : State) (lc n : Nat) (p : WinEntry → Bool) : State :=
  s.mapLC lc fun x =>
    let w := rd ({} : Window) x.windows n
    { x with
      lstash := (w.entries.filter p).foldl (fun m e => memPutN m (w.backing + e.off) e.data) x.lstash
      windows := wr {} x.windows n { w with entries := w.entries.filter fun e => !p e } }

/-- Writes back the dirty entries of a window that a test accepts; `keep` leaves the entries filled
and clean, else they become empty (R231, R232). -/
def State.writeBack (s : State) (lc n : Nat) (p : WinEntry → Bool) (keep : Bool) (tids : List Nat) : State :=
  let s := ((s.window lc n).entries.filter p).foldl (fun s e => s.writeBackEntry lc n e tids) s
  if keep then s.mapWindow lc n fun w =>
    { w with entries := w.entries.map fun e => if p e then { e with dirty := 0, writers := [] } else e }
  else s.emptyEntries lc n p

/-- Fills the entry of a line of a window from its home, with the record's lease, unless one serves it
already; an entry whose lease has run out is written back first (R89, R103). -/
def State.fillWindow (s : State) (lc n off place : Nat) : State :=
  if (s.winEntry lc n off).isSome then s else
  let x := s.lc lc
  let s := s.writeBack lc n (fun e => e.off = off) false []
  let (s, e) := s.grantLease place (leaseTicks (s.window lc n).record.lease)
  let s := (s.countAccess x.asid ((s.window lc n).base + off) place).spendFree lc [4, 5, 6]
  let data := s.coreLine x.core (lineOf place)
  s.mapWindow lc n fun w => { w with entries := { off := off, expiry := e, data := data } :: w.entries }

/-- Whether a window can serve a line now: it holds it in an entry, or may fetch it (R90, R95, R103, R105). -/
def State.windowReady (s : State) (lc dom va : Nat) : Bool :=
  match s.windowAt lc dom va with
  | some (k, n) => (s.winEntry k n (s.windowOff k n dom (lineOf va))).isSome || s.lineClear lc (s.lc lc).core dom va
  | none => true

/-- Whether a window can take a store to a line now: none of the core's before it waits for it (R95, R103). -/
def State.windowTakes (s : State) (lc dom va place : Nat) : Bool :=
  s.windowReady lc dom va && (s.waitingCells (s.lc lc).core (lineOf place)).isEmpty

/-- Writes bytes into a filled entry of a window (R103). -/
def State.writeWindow (s : State) (lc n off : Nat) (bytes : List Host.Cell) (tid : Nat) : State :=
  let clk := s.coreClock (s.lc lc).core
  let s := s.mapWindow lc n fun w =>
    { w with entries := w.entries.map fun e =>
        if e.off = off then
          { e with data := overlay bytes e.data, writers := (tid :: e.writers).eraseDups,
                   dirty := bytes.foldl (fun d c => d ||| (1#128 <<< c.1)) e.dirty }
        else e }
  s.mapThread tid fun t =>
    { t with dirtyWin := (t.dirtyWin ++ [(lc, n)]).eraseDups, wctc := max t.wctc clk }

/-- Writes back every dirty entry of the windows that a thread has written since its last fence (R104). -/
def State.flushDirty (s : State) (tid : Nat) : State :=
  let t := s.thread tid
  let s := t.dirtyWin.foldl (fun s x => s.writeBack x.1 x.2 (fun e => e.dirty ≠ 0) false [tid]) s
  s.mapThread tid fun t => { t with dirtyWin := [] }

/-! ### Stash bytes (R227) -/

/-- Reads n bytes of a stash area. -/
def State.readStash (s : State) (t : Thread) (p : Place) (n : Nat) : List Byte :=
  match p with
  | .lstash o => memGetN (s.lc t.lc).lstash o n
  | .own o => memGetN t.stash o n
  | _ => List.replicate n 0

/-- The area and the offset of a place of the stash, of a thread. -/
def State.stashKey (s : State) (tid : Nat) (p : Place) : Option (Nat × Nat) :=
  match p with
  | .lstash o => some (2 * (s.thread tid).lc, o)
  | .own o => some (2 * tid + 1, o)
  | _ => none

/-- Whether n bytes of a stash area hold an uncorrectable error (R218, R275). -/
def State.stashFlawed (s : State) (tid : Nat) (p : Place) (n : Nat) : Bool :=
  match s.stashKey tid p with
  | some (a, o) => s.flawedStash.any fun x => x.1 = a && o ≤ x.2 && x.2 < o + n
  | none => false

/-- Writes bytes of a stash area of a thread; bytes that are written anew hold no error. -/
def State.writeStash (s : State) (tid : Nat) (p : Place) (bs : List Byte) : State :=
  let s := match s.stashKey tid p with
    | some (a, o) => { s with flawedStash := s.flawedStash.filter fun x => !(x.1 = a && o ≤ x.2 && x.2 < o + bs.length) }
    | none => s
  match p with
  | .lstash o => s.mapLC (s.thread tid).lc fun x => { x with lstash := memPutN x.lstash o bs }
  | .own o => s.mapThread tid fun t => { t with stash := memPutN t.stash o bs }
  | _ => s

/-! ### Reads by engines and by the device (R293) -/

/-- The entry of a window that holds a line which an engine is to read is written back where its lease has reached
E − 4: it serves no more (R89, R103). -/
def State.expireAt (s : State) (lc dom line : Nat) : State :=
  match s.windowAt lc dom line with
  | some (k, n) =>
    let off := s.windowOff k n dom line
    if (s.winEntry k n off).isNone then s.writeBack k n (fun e => e.off = off) false [] else s
  | none => s

/-- The byte an engine of a core reads at a virtual address: through the core's windows and its store queue,
or at the home (R91, R103). Nothing is the trap. -/
def State.engineByte (s : State) (lc dom core va : Nat) : Except TrapCode Byte :=
  match s.translate lc dom va .load with
  | .ok p =>
    let home : Except TrapCode Byte :=
      if s.poisoned p then .error .eccue
      else .ok ((cellAt (s.queued core (lineOf p)) (p % 128)).getD (memGet s.mem p))
    match s.windowAt lc dom va with
    | some (k, n) =>
      match s.winEntry k n (s.windowOff k n dom (lineOf va)) with
      | some e => .ok ((cellAt (s.waitingCells core (lineOf p)) (p % 128)).getD (rd 0 e.data (va % 128)))
      | none => home
    | none => home
  | .trap c => .error c
  | .walk => .error .xlate

/-- n bytes an engine reads from a virtual address, or the trap and its address. -/
def State.engineRead (s : State) (lc dom core : Nat) : Nat → Nat → Except (TrapCode × Nat) (List Byte)
  | _, 0 => .ok []
  | va, n + 1 =>
    match s.engineByte lc dom core va with
    | .ok b => (s.engineRead lc dom core (va + 1) n).map (b :: ·)
    | .error c => .error (c, va)

/-- Splits bytes from an address into the cells of each line. -/
def splitLines (va : Nat) (bs : List Byte) : List (Nat × List Host.Cell) :=
  let cells := (List.range bs.length).zip bs
  let first := va / 128
  (List.range ((va + bs.length - 1) / 128 + 1 - first)).map fun k =>
    let line := (first + k) * 128
    (line, (cells.filter fun c => lineOf (va + c.1) = line).map fun c => (va + c.1 - line, c.2))

/-- Whether an access at a virtual address of a domain must wait for the host to install its page, or finds its
page installed from the reserve pool first (R220, R375): the state, and whether it waits. -/
def State.awaitPage (s : State) (lc dom core va : Nat) (k : Acc) : State × Bool :=
  let s := if dom = (s.lc lc).asid && (s.lc lc).lockMiss va then s else s.ensureMapped dom va
  if s.translate lc dom va k = .walk then (s.missEntry dom va core k, true) else (s, false)

/-- Counts the lines of n bytes that an engine or the device reaches at their homes (R13, R221). -/
def State.countLines (s : State) (dom va n : Nat) : State :=
  (List.range ((va + n + 127) / 128 - va / 128)).foldl (fun s k =>
    match (s.domain dom).place ((va / 128 + k) * 128) with
    | some p => s.countAccess dom ((va / 128 + k) * 128) p
    | none => s) s

/-- What lines that the device itself reaches for a launch-on-core cost it: lines sent to a home, and a free number of the
events of the lines' energy (R364, R365). -/
def State.chargeLines (s : State) (lc n : Nat) : State :=
  let x := s.lc lc
  (s.count x.asid x.core 5 n).spendFree lc [4, 5, 6]

/-- The line of an engine's read: an entry of a window gives it, which is a hit, or it is read at its home (R13, R103, R221,
R365); one that serves no more is written back first (R89). -/
def State.engineLine (s : State) (lc dom line : Nat) : State :=
  let s := s.expireAt lc dom line
  let x := s.lc lc
  match s.windowAt lc dom line with
  | some (k, n) =>
    if (s.winEntry k n (s.windowOff k n dom line)).isSome then s.count x.asid x.core 4 1
    else (s.countLines dom line 128).count x.asid x.core 5 1
  | none => (s.countLines dom line 128).count x.asid x.core 5 1

/-- A store of bytes by an engine or the device at a virtual address, one entry for each line; it
answers the numbers of the stores, and the trap of the first line that cannot be written (R292). -/
def State.engineWrite (s : State) (lc dom core va : Nat) (bs : List Byte) (tids : List Nat)
    (notBefore : Nat := 0) : State × List Nat × Option (TrapCode × Nat) :=
  if bs.isEmpty then (s, [], none) else
  (splitLines va bs).foldl (fun (s, ids, bad) (line, cells) =>
    match bad with
    | some b => (s, ids, some b)
    | none =>
      let x : Store := { core := core, tids := tids, dom := dom, va := line, bytes := cells, notBefore := notBefore }
      match s.translate lc dom line .store with
      | .ok p =>
        match s.windowAt lc dom line, tids with
        | some (k, n), tid :: _ =>
          let off := s.windowOff k n dom line
          let fills := (s.winEntry k n off).isNone
          if fills && s.poisoned p then (s, ids, some (.eccue, line))
          else if !s.windowTakes lc dom line p then (s.accept { x with st := .walk, fills := true }, ids ++ [s.stores.length], none)
          else (((s.countBy tid (if fills then 5 else 4) 1).fillWindow k n off p).writeWindow k n off cells tid, ids, none)
        | some (k, n), [] =>
          let off := s.windowOff k n dom line
          let s := s.writeBack k n (fun e => e.off = off) false []
          (s.accept { x with line := lineOf p }, ids ++ [s.stores.length], none)
        | none, _ => (s.accept { x with line := lineOf p }, ids ++ [s.stores.length], none)
      | .trap c => (s, ids, some (c, line))
      | .walk => ((s.missEntry dom line core .store).accept { x with st := .walk }, ids ++ [s.stores.length], none)) (s, [], none)

/-- A 64-bit add by the device with release (R53, R100, R364): its store number, or the trap. Its page is mapped
from the reserve pool, or waited for, where it is missing (R220, R375). -/
def State.deviceAdd (s : State) (dom core va n : Nat) : State × Except TrapCode Nat :=
  let s := s.ensureMapped dom va
  match (s.domain dom).page va with
  | some p =>
    if p.r && p.w then
      let a := p.pa + va % 2 ^ p.log
      (s.accept { core := core, dom := dom, va := va, line := lineOf a, kind := .add (a % 128) n },
        .ok s.stores.length)
    else (s, .error .perm)
  | none =>
    if (s.domain dom).ctxmode.getLsbD 0 && (s.domain dom).alive then
      ((s.missEntry dom va core .atomic).accept
        { core := core, dom := dom, va := va, st := .walk, kind := .add (va % 128) n }, .ok s.stores.length)
    else (s, .error .xlate)

/-- Whether the device can read n bytes now: no store of their lines is forwarded and not acknowledged, and no page
of theirs is being migrated (R90, R105). -/
def State.deviceClear (s : State) (asid va n : Nat) : Bool :=
  (List.range ((va + n + 127) / 128 - va / 128)).all fun k =>
    match (s.domain asid).place ((va / 128 + k) * 128) with
    | some p => !s.forwardedOn (lineOf p) && !s.isMoving p
    | none => true

/-- Reads n bytes of a domain's memory for the device itself, as they stand performed. -/
def State.deviceRead (s : State) (dom va n : Nat) : Option (List Byte) :=
  (List.range n).mapM fun i =>
    match (s.domain dom).page (va + i) with
    | some p => if p.r && !s.poisoned (p.pa + (va + i) % 2 ^ p.log) then
        some (memGet s.mem (p.pa + (va + i) % 2 ^ p.log)) else none
    | none => none

/-- Maps the pages of n bytes from the reserve pool where they are missing (R375). -/
def State.devicePages (s : State) (dom va n : Nat) : State :=
  (List.range ((va + n + 0xFFFF) / 2 ^ 16 - va / 2 ^ 16)).foldl (fun s k => s.ensureMapped dom (max va ((va / 2 ^ 16 + k) * 2 ^ 16))) s

/-- The same as an access of the device: its pages are mapped from the reserve pool, and the lines are counted at
their homes (R13, R221, R375). -/
def State.deviceReads (s : State) (dom va n : Nat) : State × Option (List Byte) :=
  let s := s.devicePages dom va n
  (s.countLines dom va n, s.deviceRead dom va n)

/-- Whether the homes of the lines of n bytes let the device write them (R88, R90). -/
def State.deviceFree (s : State) (dom va n : Nat) : Bool :=
  (List.range ((va + n + 127) / 128 - va / 128)).all fun k =>
    match (s.domain dom).place ((va / 128 + k) * 128) with
    | some p => s.lineFree p
    | none => true

/-- Whether the device may write n bytes of a domain's memory: each is mapped by a page that allows it. -/
def State.deviceHas (s : State) (dom va n : Nat) : Bool :=
  (List.range n).all fun i => ((s.domain dom).page (va + i)).any (·.w)

/-- Writes bytes of a domain's memory for the device itself, performed at once: what does so has waited until
their homes let it (R88, R90). The lines are counted at their homes (R13, R221). -/
def State.deviceWrite (s : State) (dom va : Nat) (bs : List Byte) : Option State :=
  let cells : Option (List (Nat × Byte)) := (List.range bs.length).mapM fun i =>
    match (s.domain dom).page (va + i) with
    | some p => if p.w then some (p.pa + (va + i) % 2 ^ p.log, rd 0 bs i) else none
    | none => none
  cells.map fun cs =>
    ({ s with mem := cs.foldl (fun (m : List Host.Cell) c => memPut m c.1 c.2) s.mem } : State).countLines dom va bs.length

/-! ### Writes through the hub (R88, R90) -/

/-- Whether the homes of n bytes from a place let the device write them now. -/
def State.placeFree (s : State) (p n : Nat) : Bool :=
  (List.range ((p + n + 127) / 128 - p / 128)).all fun k => s.lineFree ((p / 128 + k) * 128)

/-- Whether the device may write some ranges of bytes at once: the hub holds no earlier write, and the homes let it
(R88, R90). -/
def State.outClear (s : State) (ps : List (Nat × Nat)) : Bool :=
  s.outbox.isEmpty && ps.all fun p => s.placeFree p.1 p.2

/-- A write of the device to a domain's memory that goes out through the hub, where each byte is mapped by a page that
allows it (R88, R90). -/
def State.deviceSend (s : State) (dom va : Nat) (bs : List Byte) : Option State :=
  if !s.deviceHas dom va bs.length then none
  else some ((splitLines va bs).foldl (fun s x =>
    match (s.domain dom).place x.1 with
    | some p => s.sendOut (lineOf p + (x.2.map (·.1)).headD 0) (x.2.map (·.2))
    | none => s) (s.countLines dom va bs.length))

/-- Performs the writes that the hub holds, in order, up to the first that must wait: at most n of them. -/
def State.sendOuts (s : State) : Nat → State
  | 0 => s
  | n + 1 =>
    match s.outbox with
    | [] => s
    | (p, bs) :: rest => if s.placeFree p bs.length then ({ (s.writePlace p bs) with outbox := rest }).sendOuts n else s

/-- Performs every write that the hub can perform now. -/
def State.flushOut (s : State) : State := s.sendOuts s.outbox.length

end Sys2Proof.Machine
end

