-- ==== Sys2Proof/Machine/Operands.lean ====
section
/-! DEFINITION. Every operand form: the pipe of a word and what the lead thread may issue (R115,
R126), the registers and latches a word names (R116, R119, R222), the reading of sources at the
start of a group's cycle (R114), and the writing of results with the push of latches (R120 to
R122). -/

namespace Sys2Proof.Machine

/-! ### Majors, pipes and the lead column (R115, R126) -/

/-- The major opcode of a word, and 64 for a device step, which has no word. -/
def Instr.major (i : Instr) : Nat :=
  match encodeBody i with
  | some (m, _) => m.toNat
  | none => 64

/-- What a word occupies (R115). -/
inductive Port where
  | none | b
  | pipe (p : Pipe)
  deriving DecidableEq, Repr

/-- The pipe of a word, by its major (R126). -/
def Instr.port (i : Instr) : Port :=
  let m := Instr.major i
  if i = .nop || m = 0x04 then .none
  else if m ≤ 0x05 || m = 0x38 then .b
  else if m = 0x06 then .pipe .m
  else if m ≤ 0x17 || m = 0x39 then .pipe .i
  else if m ≤ 0x19 || m = 0x1C || m = 0x1E then .pipe .f
  else if m ≤ 0x22 then .pipe .x
  else .pipe .m

/-- What the lead thread may issue (R126). -/
def Instr.leadOk (i : Instr) : Bool :=
  match i with
  | .calli _ | .ptov _ _ | .ballot _ _ | .vote _ _ | .icmp _ _ _ _ | .vtow _ _ | .wtov _ _
  | .qpush _ _ | .qpop _ _ | .qtry _ _ _ | .siglead _ | .tcvt _ _ _ | .trd _ _ _ | .twr _ _ => false
  | _ =>
    let m := Instr.major i
    m ≤ 0x05 || m = 0x0B || (0x12 ≤ m && m ≤ 0x16) || m = 0x26 || m = 0x28 || m = 0x29 || m = 0x2B
      || (0x2C ≤ m && m ≤ 0x34) || (0x38 ≤ m && m ≤ 0x3B)

/-- The uniform words (R117): KIND of their traps is 1 (R348). Majors 0x30 to 0x34 are uniform but for the
lane-wise tile words; VTOW and WTOV are lane-wise (R182). -/
def Instr.isUniform (i : Instr) : Bool :=
  match i with
  | .waitev _ | .bra _ | .brany _ _ | .brall _ _ | .jmpi _ | .loop _ _ | .ballot _ _ | .join _ | .leave
  | .arrive _ | .barw _ | .waitb _ | .castq _ _ | .icmpW _ _ _ _ | .wadd _ _ _ | .wsub _ _ _
  | .wand _ _ _ | .wor _ _ _ | .wxor _ _ _ | .wshl _ _ _ | .wshr _ _ _ | .wmul _ _ _ | .wmin _ _ _
  | .wmax _ _ _ | .wsar _ _ _ | .wsel _ _ _ | .wclz _ _ | .wpopc _ _ | .waddi _ _ _
  | .wmovi _ _ | .wmovk _ _ _ | .rseed _ | .fflrd _ | .fflclr _ | .fmode _ | .ldw _ _ _ _ _
  | .stw _ _ _ _ _ | .fence _ | .stflush _ | .stdrop _ | .stmap _ _ | .bbarm _ _ | .bbwait _ _
  | .bufset _ _ | .bufget _ _ | .bufnar _ _ _ | .tlblk _ | .tlbunlk _ | .tlbprb _ _ _ | .qpushw _ _
  | .qpopw _ _ | .qtryw _ _ _ | .qlen _ _ | .qbind _ _ | .spawn _ | .waitc _ _ | .withdraw _ _
  | .tasktag _ | .siglead _ | .settle _ | .tlin _ _ | .rlxbeg _ | .rlxst _ | .rlxabt | .callg _
  | .gateq _ _ | .srd _ _ | .swr _ _ | .hclk _ | .wtime _ | .timer _ | .stamp _ | .enrd _ | .pmrd _ _
  | .tmark _ | .sleep _ | .signal _ => true
  | .tcvt _ _ _ | .trd _ _ _ | .twr _ _ => false
  | _ => 0x30 ≤ Instr.major i && Instr.major i ≤ 0x34

/-- The words that must stand alone at the end of their run without a GUARD (R331, R332). -/
def Instr.noGuard : Instr → Bool
  | .rlxbeg _ | .rlxend => true
  | _ => false

/-- The cross-lane words, which wait while a lane of the wave is parked (R208). -/
def Instr.crossLane (i : Instr) : Bool := 0x20 ≤ Instr.major i && Instr.major i ≤ 0x22

/-- The words that access memory or are engine commands, which acquires and BBARM hold (R94,
R235). -/
def Instr.held (i : Instr) : Bool :=
  let m := Instr.major i
  match i with
  | .fence _ | .stflush _ | .stdrop _ | .stmap _ _ | .bufset _ _ | .bufget _ _ | .bufnar _ _ _
  | .settle _ | .tlin _ _ | .trd _ _ _ | .twr _ _ | .tcvt _ _ _ => false
  | .waitc _ _ | .rlxbeg _ => true
  | _ => (0x24 ≤ m && m ≤ 0x28) || (0x30 ≤ m && m ≤ 0x34)

/-- Whether a word of a thread sends something that needs room in the store queue or the request buffer: an access, a
prefetch, the attempts of a poll, the write-backs of windows, or the spill or refill of a call stack in a lane of a mask
(R152, R222, R231, R232, R234). -/
def Thread.needsRoom (t : Thread) (i : Instr) (m : Mask) : Bool :=
  m ≠ 0 && match i with
  | .call _ | .calli _ => !(t.brec 13).stash && t.lanesWith (fun L => L.cstk.length ≥ 4 && L.spill ≠ 65535) &&& m ≠ 0
  | .ret => !(t.brec 13).stash && t.lanesWith (fun L => L.cstk.isEmpty && L.spill ≠ 0) &&& m ≠ 0
  | .pref _ _ | .bbarm _ _ | .bbwait _ _ | .waitv _ _ _ _ | .waitc _ _ | .stflush _ => true
  | .stmap _ a => (t.wreg a).getLsbD 4
  | .fence sc => (sc = .device || sc = .system) && !t.dirtyWin.isEmpty
  | _ => 0x24 ≤ Instr.major i && Instr.major i ≤ 0x27

/-! ### What a word names -/

/-- A register, predicate or latch that a word reads or writes. -/
inductive Use where
  | vr (n : Nat) | vw (n : Nat)
  | ur (n : Nat) | uw (n : Nat)
  | pr (n : Nat) | pw (n : Nat)
  | lat (k : Nat)
  deriving DecidableEq, Repr

/-- A lane source. -/
def useS : Src → List Use
  | .reg n => [.vr n.toNat]
  | .latch k => [.lat k.toNat]
/-- A lane source that names a uniform register on the lead thread (R229). -/
def useSL (lead : Bool) : Src → List Use
  | .reg n => if lead then [.ur n.toNat] else [.vr n.toNat]
  | .latch k => [.lat k.toNat]
/-- A lane destination. -/
def useD : Dst → List Use
  | .reg n => [.vw n.toNat]
  | .latch => []
/-- n lane registers read from a first one. -/
def useVR {w : Nat} (r : BitVec w) (n : Nat) : List Use := (List.range n).map fun i => .vr (r.toNat + i)
/-- n lane registers written from a first one. -/
def useVW {w : Nat} (r : BitVec w) (n : Nat) : List Use := (List.range n).map fun i => .vw (r.toNat + i)
/-- n uniform registers read from a first one. -/
def useUR (r : UReg) (n : Nat) : List Use := (List.range n).map fun i => .ur (r.toNat + i)
/-- n uniform registers written from a first one. -/
def useUW (r : UReg) (n : Nat) : List Use := (List.range n).map fun i => .uw (r.toNat + i)
/-- The amount of LSH. -/
def useA : Amt → List Use
  | .imm _ => []
  | .reg n => [.ur n.toNat]
/-- A predicate read. -/
def useP (p : PReg) : List Use := [.pr p.toNat]
/-- A predicate written. -/
def useQ (p : PReg) : List Use := [.pw p.toNat]

/-- The registers of an access width (R224). -/
def widthRegs : Width → Nat
  | .b64 => 2
  | .b128 => 4
  | _ => 1

/-- Lane destination of a load: as many registers as its width. -/
def useLD (d : Dst) (w : Width) : List Use :=
  match d with
  | .reg n => useVW n (widthRegs w)
  | .latch => []

/-- The data registers an ATOM reads (R226). -/
def atomRegs (op : AtomOp) (w64 : Bool) : Nat := (if w64 then 2 else 1) * (if op = .cas then 2 else 1)

/-- A format slot of the launch of a thread (R78). -/
def State.fmtOf (s : State) (tid : Nat) (n : FSlot) : Fmt :=
  ((s.launchOf tid).map fun l => rd 0 l.fmt n.toNat).getD 0

/-- Elements packed in one lane register of a slot's TYPE (R201). -/
def groupSize (f : Fmt) : Nat := 32 / max 1 (typeBits (fmtType f))

/-- The state components of a relaxation word's group: S of the open region, or WS of the guess
store (R330). -/
def State.rlxS (s : State) (tid : Nat) : Nat :=
  let u := s.unitOf tid
  match u.region with
  | some r => 2 ^ fld (rd 0 r.desc 0) 13 12
  | none => u.gs.ws

/-- What a word names. The lane registers of TCVT, TRD and TWR are those that w[q] names as it stands: where that register
is still pending the word waits for it, and then for those that it names when it comes (R116, R222; DESIGN CHOICE,
notes/assumptions/75). CALLG names the registers that it reads, and w0 and w1, which it writes itself; the registers that
its return writes are no part of the group (R116, R341, R342; DESIGN CHOICE, notes/assumptions/79). -/
def State.uses (s : State) (tid : Nat) (lead : Bool) (i : Instr) : List Use :=
  let t := s.thread tid
  let quad (q : UReg) := useUR q 4
  let desc (q : UReg) : Nat × Nat :=
    let x := rd (0 : Dword) t.w q.toNat
    (fld x 23 16, fld x 5 0)
  match i with
  | .waitev a | .jmpi a | .rseed a | .fflclr a | .fmode a | .tasktag a | .siglead a | .timer a
  | .stamp a | .sleep a | .signal a => useUR a 1
  | .brt p _ | .brf p _ | .brany p _ | .brall p _ | .guard p _ => useP p
  | .calli a => useS a
  | .loop d _ => useUR d 1 ++ useUW d 1
  | .pand d a b | .por d a b | .pxor d a b | .pandn d a b => useP a ++ useP b ++ useQ d
  | .pmov d a | .vote d a => useP a ++ useQ d
  | .ptov d a => useP a ++ useVW d 1
  | .ballot d a => useP a ++ useUW d 1
  | .castq d _ | .fflrd d | .rlxst d | .gateq d _ | .srd d _ | .hclk d | .wtime d | .enrd d
  | .pmrd d _ | .qlen d _ | .qpopw d _ => useUW d 1
  | .iadd d a b | .isub d a b | .and d a b | .or d a b | .xor d a b | .andn d a b | .imin d a b
  | .imax d a b | .shl d a b | .shr d a b | .sar d a b | .rol d a b | .iminu d a b | .imaxu d a b
  | .iabsd d a b | .imul d a b | .imulh d a b | .imulhu d a b | .bfx d a b | .pack16 d a b
  | .fadd d a b | .fsub d a b | .fmul d a b | .fmin d a b | .fmax d a b | .famin d a b
  | .badd2 d a b | .bmul2 d a b | .bmax2 d a b | .hadd2 d a b | .hmul2 d a b | .hmax2 d a b
  | .fdiv d a b | .fcpys d a b | .fscale d a b | .lperm d a b => useS a ++ useS b ++ useD d
  | .amin d a b | .imad d a b | .bfi d a b | .byteperm d a b | .ffma d a b | .ffms d a b
  | .bfma2 d a b | .hfma2 d a b => useS a ++ useS b ++ useVR d 1 ++ useVW d 1
  | .clz d a | .popc d a | .brev d a | .iabs d a | .rctr d a | .frcp d a | .frsq d a | .fsqrt d a
  | .fexp2 d a | .flog2 d a | .ftanh d a | .fsin2pi d a | .fabs d a | .fneg d a | .fclass d a
  | .fexpt d a | .lscanadd d a | .lscanmin d a | .lscanmax d a | .lscanfadd d a | .lredadd d a
  | .lredmin d a | .lredmax d a | .lredfadd d a => useS a ++ useD d
  | .icmp _ p a b | .fcmp _ p a b => useS a ++ useS b ++ useQ p
  | .icmpW _ p a b => useUR a 1 ++ useUR b 1 ++ useQ p
  | .iaddi d a _ | .shli d a _ | .shri d a _ | .sari d a _ | .roli d a _ | .frnd d a _
  | .fcvt d a _ _ _ | .fupcvt d a _ | .icvtf d a _ _ _ | .fcvti d a _ _ _ => useS a ++ useD d
  | .movi d _ | .rand32 d | .randf d | .rlxstep d => useD d
  | .movhi d _ => useVR d 1 ++ useVW d 1
  | .iadd64 d a b | .isub64 d a b => useVR a 2 ++ useVR b 2 ++ useVW d 2
  | .shl64 d a b => useVR a 2 ++ useS b ++ useVW d 2
  | .imulw d a b => useS a ++ useS b ++ useVW d 2
  | .sel d a b p => useS a ++ useS b ++ useP p ++ useD d
  | .wadd d a b | .wsub d a b | .wand d a b | .wor d a b | .wxor d a b | .wshl d a b | .wshr d a b
  | .wmul d a b | .wmin d a b | .wmax d a b | .wsar d a b => useUR a 1 ++ useUR b 1 ++ useUW d 1
  | .vtow d a => useS a ++ useUW d 1
  | .wtov d a => useUR a 1 ++ useD d
  | .wsel d a b => useUR a 1 ++ useUR b 1 ++ useUR d 1 ++ useUW d 1
  | .wclz d a | .wpopc d a | .waddi d a _ | .withdraw d a => useUR a 1 ++ useUW d 1
  | .wmovi d _ => useUW d 1
  | .wmovk d _ _ => useUR d 1 ++ useUW d 1
  | .qpack d a slot _ _ => useVR a (groupSize (s.fmtOf tid slot)) ++ useD d
  | .qunpack d a slot => useS a ++ useVW d (groupSize (s.fmtOf tid slot))
  | .i8pack d a _ => useVR a 4 ++ useD d
  | .lshup d a b | .lshdn d a b | .lrot d a b | .lbcast d a b | .lxor d a b => useS a ++ useA b ++ useD d
  | .lmatch d a => useS a ++ useQ d
  | .lfirst d => useQ d
  | .ld d _ x w _ | .lds d _ x w => useS x ++ useLD d w
  | .st d _ x w _ | .sts d _ x w => useS x ++ useVR d (widthRegs w)
  | .ldw d _ x _ _ => useUR x 1 ++ useUW d 1
  | .stw d _ x _ _ => useUR x 1 ++ useUR d 1
  | .atom d _ x op w64 ret _ =>
    useS x ++ useVR d (atomRegs op w64) ++ if ret then useVW d (if w64 then 2 else 1) else []
  | .stmap _ a | .bbarm _ a | .bbwait _ a | .qpushw _ a | .qbind _ a | .waitc _ a => useUR a 1
  | .pref _ x => useSL lead x
  | .waitv _ _ x y => useSL lead x ++ useSL lead y
  | .bufset _ a => useUR a 2
  | .bufget d _ => useUW d 2
  | .bufnar _ _ b => useUR b 2
  | .tlbprb d _ b => useUR b 1 ++ useUW d 1
  | .qpush _ a => useS a
  | .qpop d _ => useD d
  | .qtry d _ b => useVW d 1 ++ useQ b
  | .qtryw d _ b => useUW d 1 ++ useQ b
  | .spawn a | .rlxbeg a => quad a
  | .wbmac q _ _ | .wbmacp q _ _ _ | .wbload q _ | .wbswap q | .wbzero q _ | .tadd q _ | .tsub q _
  | .tshl q _ | .tmov q _ | .tneg q _ | .tslice q _ | .apqk q _ | .appv q _ _ _ _ | .apresc q _
  | .apnorm q _ _ | .apcfg q | .cecopy q _ _ | .celist q | .cerope q _ _ | .cepatch q _ _
  | .cereq q _ _ | .cered q _ _ | .cefill q => quad q
  | .tcvt q _ _ => useUR q 1 ++ useVW (BitVec.ofNat 6 (desc q).2) (desc q).1
  | .trd q _ _ => useUR q 1 ++ useVW (BitVec.ofNat 6 (desc q).2) (2 * (desc q).1)
  | .twr q _ => useUR q 1 ++ useVR (BitVec.ofNat 6 (desc q).2) (2 * (desc q).1)
  | .tlin q _ => useUW q 1
  | .rlxin d | .rlxpeek d => useVW d (s.rlxS tid)
  | .rlxout a | .rlxguess a =>
    match a with | .reg n => useVR n (s.rlxS tid) | .latch k => [.lat k.toNat]
  | .rlxjac a =>
    match a with | .reg n => useVR n (s.rlxS tid * s.rlxS tid) | .latch k => [.lat k.toNat]
  | .swr d _ => useUR d 1
  | .callg _ => (if lead then [] else useVR (0 : LReg) 8) ++ useUR 0 4 ++ useUW 0 2
  | _ => []

/-- Whether a word's registers lie within the footprint and, in a callee, within its uniform window
(R119, R345). The groups that a descriptor or a region's S names are checked by their entries, but the
register that a word itself names is checked here. -/
def usesOk (t : Thread) (i : Instr) (us : List Use) : Bool :=
  let inside {w : Nat} (r : BitVec w) : Bool := r.toNat < t.regs
  let dynamic := match i with
    | .tcvt _ _ _ | .trd _ _ _ | .twr _ _ | .rlxin _ | .rlxpeek _ | .rlxout _ | .rlxguess _
    | .rlxjac _ => true
    | _ => false
  let named := match i with
    | .rlxin d | .rlxpeek d => inside d
    | .rlxout (.reg n) | .rlxguess (.reg n) | .rlxjac (.reg n) => inside n
    | _ => true
  named && us.all fun u =>
    match u with
    | .vr n | .vw n => dynamic || n < t.regs
    | .ur n | .uw n => n < min 32 t.uregs
    | .lat _ => !t.isLead
    | _ => true

/-! ### Reading sources (R114, R119) -/

/-- The value of a lane source in a lane, as it stood at the start of the group's cycle. -/
def State.src (s : State) (l : Nat) (x : Src) : Word :=
  let L := s.cur.old.lane l
  match x with
  | .reg n => rd 0 L.v n.toNat
  | .latch k => (rd {} L.latch k.toNat).val
/-- A lane register, as it stood. -/
def State.vreg (s : State) (l n : Nat) : Word := rd 0 (s.cur.old.lane l).v n
/-- A register pair as 64 bits (R173). -/
def State.vpair (s : State) (l n : Nat) : Nat := (s.vreg l n).toNat + 2 ^ 32 * (s.vreg l (n + 1)).toNat
/-- A uniform register, as it stood. -/
def State.ureg (s : State) (n : UReg) : Dword := s.cur.old.wreg n
/-- Register k of a quad. -/
def State.quadReg (s : State) (q : UReg) (k : Nat) : Dword := rd 0 s.cur.old.w (q.toNat + k)
/-- A predicate of a lane, as it stood. -/
def State.preg (s : State) (l : Nat) (p : PReg) : Bool := (s.cur.old.lane l).p.getLsbD p.toNat
/-- A buffer record, as it stood. -/
def State.breg (s : State) (b : BReg) : BufRec := s.cur.old.brec b
/-- A lane source of PREF or WAITV, which on the lead thread names a uniform register (R229). -/
def State.srcOrW (s : State) (l : Nat) (x : Src) : Nat :=
  if s.cur.old.isLead then
    match x with
    | .reg n => (rd 0 s.cur.old.w n.toNat).toNat
    | .latch _ => 0
  else (s.src l x).toNat

/-! ### Writing results (R114, R120 to R122) -/

/-- The latest latch of a pipe: li0, lf0, lx0 or lm0. -/
def Pipe.latch : Pipe → Nat
  | .i => 0
  | .f => 2
  | .x => 4
  | .m => 6

/-- Pushes a pipe's pair in one lane. -/
def Lane.push (L : Lane) (p : Pipe) (x : Latch) : Lane :=
  { L with latch := wr {} (wr {} L.latch (p.latch + 1) (rd {} L.latch p.latch)) p.latch x }

/-- Writes a lane register of one lane. -/
def Lane.setV (L : Lane) (n : Nat) (x : Word) : Lane := { L with v := wr 0 L.v n x }

/-- Writes consecutive lane registers of one lane. -/
def Lane.setVs (L : Lane) (n : Nat) : List Word → Lane
  | [] => L
  | x :: t => Lane.setVs (L.setV n x) (n + 1) t

/-- Writes a predicate of one lane. -/
def Lane.setP (L : Lane) (p : PReg) (b : Bool) : Lane :=
  { L with p := if b then L.p ||| (1#8 <<< p.toNat) else L.p &&& ~~~ (1#8 <<< p.toNat) }

/-- Replaces the lanes of Active(). -/
def State.mapActive (s : State) (f : Nat → Lane → Lane) : State :=
  s.mapMe fun t => t.mapLanes fun l L => if s.cur.mask.getLsbD l then f l L else L

/-- Pushes a pipe's pair in the lanes of the run: the lanes of Active() take a value, the others 0
(R120). -/
def State.pushAll (s : State) (p : Pipe) (f : Nat → Word) : State :=
  s.mapMe fun t => t.mapLanes fun l L =>
    if s.cur.run.getLsbD l then
      L.push p { val := if s.cur.mask.getLsbD l then f l else 0, valid := true }
    else L

/-- Writes a result of one 32-bit lane register: the register, unless N keeps it in the latch, and
the pipe's pair (R120, R121). -/
def State.setLane (s : State) (p : Pipe) (d : Dst) (f : Nat → Word) : State :=
  let s := match d with
    | .reg n => s.mapActive fun l L => L.setV n.toNat (f l)
    | .latch => s
  s.pushAll p f

/-- Writes a result of several lane registers, which pushes no latch (R120). -/
def State.setGroup (s : State) (d : Nat) (f : Nat → List Word) : State :=
  s.mapActive fun l L => L.setVs d (f l)

/-- Writes a pair from 64 bits (R173). -/
def State.setPair (s : State) (d : LReg) (f : Nat → Nat) : State :=
  s.setGroup d.toNat fun l => [BitVec.ofNat 32 (f l), BitVec.ofNat 32 (f l / 2 ^ 32)]

/-- Writes a predicate in the lanes of Active(). -/
def State.setPred (s : State) (p : PReg) (f : Nat → Bool) : State :=
  s.mapActive fun l L => L.setP p (f l)

/-- Writes a uniform register. -/
def State.setU (s : State) (d : UReg) (x : Dword) : State :=
  s.mapMe fun t => { t with w := wr 0 t.w d.toNat x }

/-- Writes consecutive uniform registers. -/
def State.setU2 (s : State) (d : UReg) (x y : Dword) : State :=
  s.mapMe fun t => { t with w := wr 0 (wr 0 t.w d.toNat x) (d.toNat + 1) y }

/-- Writes a buffer record. -/
def State.setB (s : State) (d : BReg) (x : BufRec) : State :=
  s.mapMe fun t => { t with b := wr {} t.b d.toNat x }

/-- Gives the lanes of Active() a new PC at the end of the run (R151). -/
def State.branch (s : State) (f : Nat → Nat) : State :=
  s.mapActive fun l L => { L with npc := BitVec.ofNat 32 (f l) }

/-- n of R151: the first word of the packet after the packet of the word. -/
def State.fallPc (s : State) : Nat := nextPacket s.cur.pc

/-- The packet target of a signed offset (R111), as a packet number. -/
def packetTarget (pc : Nat) (off : Int) : Int := (pc / 3 : Nat) + off

/-- The first word of a packet target. -/
def targetPc (pc : Nat) (off : Int) : Nat := 3 * (packetTarget pc off).toNat

/-- Whether a word index is a slot-0 word of the text section (R110, R156, R160). -/
def Thread.codeAddr (t : Thread) (a : Nat) : Bool := a % 3 = 0 && a < 3 * t.textPkts

end Sys2Proof.Machine
end

