-- ==== Sys2Proof/Machine/Flags.lean ====
section
/-! DEFINITION. Every flag computation: the sticky flags of a wave (R83, R84) and of a step of a
relaxation body, the matrix exception counters (R85, R86), and the check of a format slot at each
use (R79). -/

namespace Sys2Proof.Machine

/-! ### FFLAGS (R84) -/

/-- ORs the flags that each lane of Active() raises into FFLAGS, or, for a lane in a relaxation
body, into its step's flags (R84, R316). -/
def State.addFlags (s : State) (f : Nat → Flags) : State :=
  (lanesOf s.cur.mask).foldl (fun s l =>
    if f l = 0 then s
    else if (s.bodyStep s.cur.tid l).isSome then
      s.mapStep s.cur.tid l fun st => { st with flags := st.flags ||| f l }
    else s.mapMe fun t => { t with fflags := t.fflags ||| f l }) s

/-! ### The matrix exception counters (R85, R86) -/

/-- A counter stops at 2^32 − 1 (R85). -/
def mxAdd (x : Word) (n : Nat) : Word := BitVec.ofNat 32 (min (x.toNat + n) (2 ^ 32 - 1))

/-- Adds to counter k of a launch-on-core: 0 MXBADT, 1 MXINEX, 2 MXSAT, 3 MXPSKIP, 4 MXCVT,
5 MXNAN. -/
def State.addMx (s : State) (lc k n : Nat) : State :=
  if n = 0 then s else
  s.mapLC lc fun x => { x with mx := wr 0 x.mx k (mxAdd (rd 0 x.mx k) n) }

/-- Adds a list of six counts. -/
def State.addMxs (s : State) (lc : Nat) (ns : List Nat) : State :=
  (List.range 6).foldl (fun s k => s.addMx lc k (rd 0 ns k)) s

/-- Adds what each lane of Active() counts to counter k: for a lane in a relaxation body to its step's
counts (R86). -/
def State.countLanes (s : State) (k : Nat) (f : Nat → Nat) : State :=
  (lanesOf s.cur.mask).foldl (fun s l =>
    if f l = 0 then s
    else if (s.bodyStep s.cur.tid l).isSome then
      s.mapStep s.cur.tid l fun st => { st with mx := wr 0 st.mx k (rd 0 st.mx k + f l) }
    else s.addMx s.me.lc k (f l)) s

/-! ### Format slots (R79) -/

/-- Whether a slot is accepted: its own rules of R79 against the record b[SCALEBUF], and the TYPEs and
SCALEs that the entry accepts. -/
def slotFits (recs : List BufRec) (f : Fmt) (types scales : List Nat) : Bool :=
  let r := rd {} recs (fmtBuf f)
  fmtType f < 10 && fmtScale f < 3
  && (fmtScale f ≠ 1 || [5, 6, 7, 3, 4].contains (fmtType f))
  && (fmtScale f = 0 || r.esize = if fmtScale f = 1 then 0 else 2)
  && types.contains (fmtType f) && scales.contains (fmtScale f)

/-- Whether a slot is accepted by a word of the thread that issues, with its records as they stand. -/
def State.slotOk (s : State) (f : Fmt) (types scales : List Nat) : Bool :=
  slotFits s.cur.old.b f types scales

end Sys2Proof.Machine
end

