-- ==== Sys2Proof/Machine/Ready.lean ====
section
/-! DEFINITION. What a waiting instruction waits for (R39): room and entries in the queue registers
(R243 to R249), the order of tiles (R265, R272, R282 to R286, R294), and the test of every wait. -/

namespace Sys2Proof.Machine

/-! ### Queue registers (R243, R48, R58) -/

/-- A queue register of a launch-on-core; q3 and q4 hold 64 entries (R48). -/
def LC.fifo (x : LC) (q : Nat) : Fifo := rd {} x.queues (q - 3)
/-- Replaces a queue register. -/
def State.mapFifo (s : State) (lc q : Nat) (f : Fifo → Fifo) : State :=
  s.mapLC lc fun x => { x with queues := upd {} x.queues (q - 3) f }

/-- The work queue registered to a domain under a number (R381). -/
def Domain.workq (d : Domain) (n : Nat) : Option WorkQ := d.queues.find? fun w => w.queue = n

/-- A field of a queue control block (R381), read as it stands in memory. -/
def State.blockField (s : State) (asid block off n : Nat) : Nat :=
  ((s.deviceRead asid (block + off) n).map ofBytes).getD 0

/-- TYPE of a registered queue. -/
def State.workType (s : State) (asid : Nat) (w : WorkQ) : Nat := s.blockField asid w.block 0x0E 1
/-- DEPTH of a registered queue. -/
def State.workDepth (s : State) (asid : Nat) (w : WorkQ) : Nat := s.blockField asid w.block 0x08 4

/-- The host work queue that a queue register is bound to. -/
def State.boundQ (s : State) (lc q : Nat) : Option WorkQ :=
  let f := (s.lc lc).fifo q
  if f.kind = 2 then (s.domain (s.lc lc).asid).workq (fld f.spec 16 0) else none

/-- Occupied entries of a queue register q3 to q15. -/
def State.queueHeld (s : State) (lc q : Nat) : Nat :=
  let f := (s.lc lc).fifo q
  let asid := (s.lc lc).asid
  match s.boundQ lc q with
  | some w =>
    let consumed := s.blockField asid w.block 0x18 8
    if s.workType asid w = 1 then w.tail - consumed
    else s.blockField asid w.block 0x10 8 - consumed
  | none => f.entries.length

/-- Depth of a queue register q3 to q15. -/
def State.queueDepth (s : State) (lc q : Nat) : Nat :=
  match s.boundQ lc q with
  | some w => s.workDepth (s.lc lc).asid w
  | none => ((s.lc lc).fifo q).depth

/-- Free entries of a queue register q3 to q15. -/
def State.queueFree (s : State) (lc q : Nat) : Nat := s.queueDepth lc q - s.queueHeld lc q

/-- Whether the lead thread of a launch-on-core has exited, or there is none (R49). One that has been killed counts as exited
(R351; DESIGN CHOICE, notes/assumptions/81). -/
def State.leadGone (s : State) (lc : Nat) : Bool :=
  match (s.lc lc).lead with
  | none => true
  | some i =>
    let L := (s.thread i).lane 0
    !(s.thread i).alive || L.st = .exited || L.st = .killed

/-- Whether a launch runs in deterministic mode. -/
def State.det (s : State) (tid : Nat) : Bool :=
  ((s.launchOf tid).map fun l => l.control.getLsbD 20).getD false
/-- CONTROL.WAVES. -/
def State.waves (s : State) (tid : Nat) : Nat := ((s.launchOf tid).map fun l => fld l.control 19 13).getD 0

/-- The trap of a push or pop of n entries by a thread (R243, R245 to R247, R48, R49, R58). R243 names the two
directions of a host work queue the other way round than R381 gives its roles: as R381 has it, the device pushes
to TYPE 2 alone and pops from TYPE 1 alone (DEDUCED, notes/assumptions/64). -/
def State.queueTrap (s : State) (tid q n : Nat) (isPush : Bool) : Option TrapCode :=
  let t := s.thread tid
  let f := (s.lc t.lc).fifo q
  let asid := (s.lc t.lc).asid
  if q < 3 then some .qmis
  else if f.frozen then some .lostpermit
  else if f.kind = 0 || (f.kind = 2 && (s.boundQ t.lc q).isNone) then some .qmis
  else if q = 3 && (isPush != t.isLead) then some .qmis
  else if q = 4 && (isPush == t.isLead) then some .qmis
  else if q = 3 && !isPush && s.leadGone t.lc && s.queueHeld t.lc q < n then some .qmis
  else if q = 4 && isPush && s.leadGone t.lc then some .qmis
  else if n > s.queueDepth t.lc q then some .qmis
  else if (s.boundQ t.lc q).any (fun w => s.workType asid w ≠ (if isPush then 2 else 1)) then some .qmis
  else if s.det tid && !t.isLead && t.waveid.toNat ≥ s.waves tid then some .qmis
  else none

/-- Whether it is the thread's turn at a queue (R245). -/
def State.turnOk (s : State) (tid q : Nat) (isPush : Bool) : Bool :=
  let t := s.thread tid
  let f := (s.lc t.lc).fifo q
  t.isLead || !s.det tid ||
    (if isPush then f.pushes else f.pops) % max 1 (s.waves tid) = t.waveid.toNat

/-! ### Engine queues and the walker (R243, R250) -/

/-- The commands of an engine queue. -/
def Unit_.queue (u : Unit_) (q : Nat) : List Cmd := if q = 0 then u.q0 else if q = 1 then u.q1 else u.q2
/-- Replaces the commands of an engine queue. -/
def Unit_.setQueue (u : Unit_) (q : Nat) (l : List Cmd) : Unit_ :=
  if q = 0 then { u with q0 := l } else if q = 1 then { u with q1 := l } else { u with q2 := l }
/-- Every command in flight. -/
def Unit_.cmdsAll (u : Unit_) : List Cmd := u.q0 ++ u.q1 ++ u.q2
/-- Commands of a queue that have not started: what occupies its entries. -/
def Unit_.waiting (u : Unit_) (q : Nat) : Nat := ((u.queue q).filter fun c => c.st = .queued).length
/-- Nodes in flight: commands that have not completed. -/
def Unit_.inFlight (u : Unit_) : Nat := (u.cmdsAll.filter fun c => c.st ≠ .complete && !c.published).length
/-- Whether a command word of engine queue q may enter (R250). -/
def Unit_.roomFor (u : Unit_) (q : Nat) : Bool :=
  u.waiting q < Config.engineQueue && u.inFlight < Config.walkerNodes

/-! ### The tiles a command names (R265, R294) -/

/-- SRCA of a tile operation's operand word (R279). -/
def srcA (w2 : Dword) : Nat := fld w2 3 0
/-- SRCB. -/
def srcB (w2 : Dword) : Nat := fld w2 7 4

/-- The tiles of its core that a command reads. -/
def Cmd.tilesRead (c : Cmd) : List Nat :=
  match c.i with
  | .wbmac _ t _ | .wbmacp _ t _ _ => [t.toNat]
  | .tadd _ _ | .tsub _ _ => [srcA c.w2, srcB c.w2]
  | .tshl _ _ | .tmov _ _ | .tneg _ _ | .tslice _ _ => [srcA c.w2]
  | .appv _ t _ acc _ => if acc then [t.toNat] else []
  | .apresc _ t => [t.toNat]
  | .apnorm _ t exp => if exp then [] else [t.toNat]
  | .cecopy _ t tile => if tile then [t.toNat] else []
  | .cered _ _ _ => [srcA c.w2]
  | _ => []

/-- TCORE of CERED's operand word (R288). -/
def tcore (w2 : Dword) : Nat := fld w2 15 8

/-- The tiles of a core that a command issued on core `home` writes. -/
def Cmd.tilesWritten (c : Cmd) (home core : Nat) : List Nat :=
  match c.i with
  | .cered _ t _ => if tcore c.w2 = core then [t.toNat] else []
  | .wbmac _ t _ | .wbmacp _ t _ _ | .wbzero _ t | .tadd _ t | .tsub _ t | .tshl _ t | .tmov _ t
  | .tneg _ t | .tslice _ t | .appv _ t _ _ _ | .apresc _ t => if home = core then [t.toNat] else []
  | .apnorm _ t exp => if home = core && !exp then [t.toNat] else []
  | _ => []

/-- Whether a q0 command has completed as a node, at its end or at its publication (R266). -/
def Cmd.tileDone (c : Cmd) : Bool := c.published || c.st = .complete

/-- An earlier command of a core's queues that still has to write a tile. -/
def Unit_.writesOwed (u : Unit_) (core t g : Nat) : Bool :=
  (u.q0.any fun c => c.grant < g && !c.tileDone && (c.tilesWritten core core).contains t) ||
  ((u.q1 ++ u.q2).any fun c => c.grant < g && c.st ≠ .complete && (c.tilesWritten core core).contains t)

/-- An earlier command of a core's queues that still has to read a tile. -/
def Unit_.readsOwed (u : Unit_) (t g : Nat) : Bool :=
  (u.q0.any fun c => c.grant < g && !c.tileDone && c.tilesRead.contains t) ||
  ((u.q1 ++ u.q2).any fun c => c.grant < g && c.st ≠ .complete && c.tilesRead.contains t)

/-- A tile. -/
def Unit_.tile (u : Unit_) (t : Nat) : Tile := rd {} u.tiles t
/-- Settled(tile) (R270). -/
def Unit_.settled (u : Unit_) (t : Nat) : Bool := (u.tile t).links.isEmpty
/-- Whether a tile is the source of a live tag (R271). -/
def Unit_.isSource (u : Unit_) (t : Nat) : Bool := u.tags.any fun g => g.live && g.source = some t
/-- The last plane of a tag that the Prompter has applied to a local holder. -/
def Unit_.tagPlane (u : Unit_) (tag : Nat) : Option Nat :=
  ((u.tiles.flatMap (·.links)).filter fun k => k.tag = tag).foldl
    (fun m k => some (min k.plane (m.getD k.plane))) none
/-- Whether each link of a tile stands at its tag's plane (R285). -/
def Unit_.snapshot (u : Unit_) (t : Nat) : Bool :=
  (u.tile t).links.all fun k => u.tagPlane k.tag = some k.plane

/-- A debug stop of a thread's context is armed whose tick its core's clock has reached: the thread stops where it
stands (R35, R367). -/
def State.stopDue (s : State) (tid : Nat) : Bool :=
  let d := s.domain (s.ctxOf tid)
  d.stop = .armed && d.running && d.stopAt ≤ s.coreClock (s.thread tid).core

/-! ### The test of every wait -/

/-- Whether a request belongs to one of the lanes of a mask; a uniform one belongs to all. -/
def Req.ofLanes (r : Req) (m : Mask) : Bool :=
  r.parts.any fun p => match p.dest with | .lane l _ _ => m.getLsbD l | .uni _ => true

/-- Whether the acquires of the lanes of a mask and the byte-barrier holds of the thread are over (R94,
R235). -/
def State.heldOver (s : State) (tid : Nat) (m : Mask) : Bool :=
  let t := s.thread tid
  let clk := s.coreClock t.core
  (lanesOf m).all (fun l => (t.lane l).acq ≤ clk) &&
  !(s.reqs.any fun r => r.tid = tid && r.acq && r.st ≠ .done && r.ofLanes m) &&
  !(s.stores.any fun x => x.live && x.acq && x.tids.contains tid && !x.wctBack && x.lanes &&& m ≠ 0) &&
  t.bbHold.all fun n => ((s.stores[n]?).map (·.wctBack)).getD true

/-- Whether every value that a thread's registers wait for has come (R222). -/
def State.nonePending (s : State) (tid : Nat) : Bool :=
  !(s.reqs.any fun r => r.tid = tid && r.st ≠ .done && !r.parts.isEmpty)

/-- The core whose unit holds an open region of another cast, among running domains (R311). -/
def State.otherRegion (s : State) (tid : Nat) : Bool :=
  let t := s.thread tid
  (indices (fun d => d.alive && d.running) s.domains).any fun a =>
    match (s.unit a t.core).region with
    | some r => !(r.lc = t.lc && some r.cast = t.cast)
    | none => false

/-- Whether what a thread waits for has come about (R39). -/
def State.waitOver (s : State) (tid : Nat) (w : Wait) : Bool :=
  let t := s.thread tid
  let u := s.unitOf tid
  match w with
  | .fence sc => s.fenceOver tid sc
  | .push q n => (s.queueTrap tid q n true).isSome || (s.turnOk tid q true && n ≤ s.queueFree t.lc q)
  | .pop q n => (s.queueTrap tid q n false).isSome || (s.turnOk tid q false && n ≤ s.queueHeld t.lc q)
  | .turn q p => (s.queueTrap tid q 0 p).isSome || s.turnOk tid q p
  | .engine q => u.roomFor q
  | .phase m ph => (s.castOf t.lc m).phase > ph
  | .joined m => !((s.castOf t.lc m).open_ && t.joinph > (s.castOf t.lc m).phase)
  | .poll => match t.poll with | some p => p.done | none => true
  | .settled n g | .settle n g => !u.writesOwed t.core n g && u.settled n
  | .prov n g => !u.writesOwed t.core n g && u.snapshot n
  | .tileFree n g => !u.writesOwed t.core n g && !u.readsOwed n g && !u.isSource n
  | .gate => s.windowsUsed t.core < Config.gateWindows
  | .retg => s.nonePending tid
  | .spawn => s.fenceOver tid .device &&
      (let d := s.die (t.core / Config.coresPerDie)
       d.pend.length + d.turn.length < Config.pendingChildren)
  | .sleep n => n ≤ t.wtime
  | .event m => t.evp &&& m ≠ 0
  | .parked => t.parkedLanes = 0
  | .room => !s.memFull t.core
  | .pending rs => rs.all fun n =>
      match s.reqs[n]? with | some r => r.st = .done | none => true
  | .held m => s.heldOver tid m
  | .region =>
    match t.rlx, u.region with
    | none, _ => !s.otherRegion tid
    | some _, some r => r.waves.contains tid && r.st ≠ .opening
    | some mine, none =>
      -- the rank-0 wave has issued another descriptor (R312)
      match t.cast with
      | none => true
      | some m =>
        match (s.castMembers t.lc m).head? with
        | some z => match (s.thread z).rlx with
          | some other => mine.1 ≠ other.1 || mine.2.1 ≠ other.2.1
          | none => false
        | none => true
  | .stamps =>
    ((s.lcs.filter fun x => x.core = t.core && (s.domain x.asid).running).map fun x => x.stamps.length).sum < Config.pendingStamps
  | .walk ps => ps.all fun p => t.deniedAt p.1 p.2 || s.translate t.lc p.1 p.2 .load ≠ .walk
  | .page dom va => t.deniedAt dom va || ((s.domain dom).page va).isSome ||
      !((s.domain dom).ctxmode.getLsbD 0 && (s.domain dom).alive)
  | .lines ps => ps.all fun p => s.lineClear t.lc t.core p.1 p.2
  | .free ps => ps.all s.lineFree

/-- A word that waits until w has come about (R35, R39). -/
def State.await (s : State) (w : Wait) (eff : State → State) : State :=
  if s.waitOver s.cur.tid w then eff s else s.block w

/-- The M-grant number of the tile word that issues: the one it took when it first waited (R244). -/
def State.grantOf (s : State) : Nat :=
  match s.cur.old.wait with
  | some (.settled _ g) | some (.settle _ g) | some (.prov _ g) | some (.tileFree _ g) => g
  | _ => (s.unitOf s.cur.tid).grants

end Sys2Proof.Machine
end

