-- ==== Sys2Proof/Machine/Access.lean ====
section
/-! DEFINITION. The shared operations of memory words: the checks of all lanes and their lines (R218
to R220), loads (R91, R95, R222), stores (R91, R96), atomics (R97, R226), buffered accesses of a
relaxation body (R317), and releases (R94). -/

namespace Sys2Proof.Machine

/-! ### Checks of all lanes (R218) -/

/-- A lane and where its access goes. -/
abbrev Lanes := List (Nat × Place)

/-- Maps reserve-backed pages that the accesses need (R375, R384); a line that a locked region holds out is
never walked (R238). -/
def State.reserve (s : State) (ps : Lanes) : State :=
  ps.foldl (fun s p =>
    match p.2 with
    | .mem dom va =>
      let x := s.lc s.cur.old.lc
      if dom = x.asid && x.lockMiss va then s else s.ensureMapped dom va
    | _ => s) s

/-- Whether an access to a line must first fill the entry of a window (R103). -/
def State.fillsAt (s : State) (lc dom va : Nat) : Bool :=
  match s.windowAt lc dom va with
  | some (k, n) => (s.winEntry k n (s.windowOff k n dom (lineOf va))).isNone
  | none => false

/-- The traps of the lanes, where a page that a waiting word will not get is missing (R380): checks 1 to 5 of each, and checks 6 and 7 of each line (R218, R354): a store reads
its line where it must fill a window entry. -/
def State.judge (s : State) (lc : Nat) (ps : Lanes) (k : Acc) : List Taken :=
  ps.filterMap fun (l, p) =>
    match p with
    | .trap c a => some { lane := l, code := c, addr := a }
    | .mem dom va =>
      match s.translate lc dom va k with
      | .trap c => some { lane := l, code := c, addr := va }
      | .ok q => if (k ≠ .store || s.fillsAt lc dom va) && s.poisoned q then
          some { lane := l, code := .eccue, addr := va, dom := some dom } else none
      | .walk => if s.cur.old.deniedAt dom va then some { lane := l, code := .xlate, addr := va } else none
    | _ => none

/-- In a callee an access through a stash record traps GATE (R345). -/
def State.stashGate (s : State) (r : BufRec) : Bool := r.stash && !s.cur.old.acts.isEmpty

/-- The places of the lanes of Active() for an access through a record. -/
def State.places (s : State) (r : BufRec) (idx : Nat → Nat) (w : Nat) (k : Acc) (stash : Bool)
    (force : Bool := false) : Lanes :=
  (lanesOf s.cur.mask).map fun l => (l, s.checkAccess s.cur.old r (idx l) w k stash force)

/-- Runs an effect on the lanes that pass every check; the others trap (R8, R218). -/
def State.checked (s : State) (r : BufRec) (ps : Lanes) (k : Acc) (extra : List Taken)
    (eff : State → Lanes → State) : State :=
  if s.stashGate r then s.trapLanes s.cur.mask .gate (fun s => eff s []) 5 else
  let s := s.reserve ps
  let xs := s.judge s.cur.old.lc ps k
  let xs := xs ++ extra.filter fun x => !(xs.any fun y => y.lane = x.lane)
  s.trapping xs fun s => eff s (ps.filter fun p => s.cur.mask.getLsbD p.1)

/-! ### Values -/

/-- The 32-bit registers of a loaded value: w bytes extended to n registers (R224). -/
def extend (bytes : List Byte) (w n : Nat) (signed : Bool) : List Word :=
  let v := ofBytes (bytes.take w)
  let v := if signed then (sintOf (8 * w) v % 2 ^ 32).toNat else v
  (List.range n).map fun i => BitVec.ofNat 32 (v / 2 ^ (32 * i))

/-- Bytes of an access width and whether it is sign-extended (R224). -/
def widthBytes : Width → Nat
  | .b8 | .s8 => 1
  | .b16 | .s16 => 2
  | .b32 => 4
  | .b64 => 8
  | .b128 => 16
/-- Whether a width sign-extends. -/
def widthSigned : Width → Bool
  | .s8 | .s16 => true
  | _ => false

/-- What a part of a request with a number does to the lane that waits for it: registers that still
wait, and latches wherever the pending place stands (R222). A lane that has been put back before the load waits for it no
more (R8). -/
def Lane.land (L : Lane) (req : Nat) (reg : Option Nat) (ws : List Word) : Lane :=
  let L := match reg with | some r => if L.pend.any (fun q => q.2 = req) then L.setVs r ws else L | none => L
  let land (x : Latch) : Latch :=
    if x.pend = some req then { x with val := rd 0 ws 0, pend := none } else x
  { L with pend := L.pend.filter fun q => q.2 ≠ req, latch := L.latch.map land,
           kept := L.kept.map fun ks => ks.map land }

/-- Replaces a lane of a thread as it stood at an activation depth: a banked one where the thread has
called since (R341). -/
def Thread.mapLaneAt (t : Thread) (depth l : Nat) (f : Lane → Lane) : Thread :=
  if t.gdepth ≤ depth then t.mapLane l f
  else { t with acts := t.acts.modify (t.gdepth - 1 - depth) fun b => { b with lanes := upd {} b.lanes l f } }

/-- Where bytes of a step buffer lie: bytes of memory by their place, where their page is mapped (R317, R319). -/
def State.stepKey (s : State) (space area dom addr : Nat) : Nat × Nat × Nat :=
  if space = 0 then
    match (s.domain dom).place addr with
    | some p => (0, 0, p)
    | none => (3, dom, addr)
  else (space, area, addr)

/-- The bytes of some buffered stores of a step over bytes read from the same memory (R317). -/
def State.bufferedOver (s : State) (stores : List StepMem) (e : StepMem) (bs : List Byte) : List Byte :=
  let x := s.stepKey e.space e.area e.dom e.addr
  stores.foldl (fun bs y =>
    let k := s.stepKey y.space y.area y.dom y.addr
    if k.1 = x.1 && k.2.1 = x.2.1 then
      (List.range bs.length).map fun i =>
        if k.2.2 ≤ x.2.2 + i && x.2.2 + i < k.2.2 + y.bytes.length then rd 0 y.bytes (x.2.2 + i - k.2.2) else rd 0 bs i
    else bs) bs

/-- The open region's step of a lane, as it stands. -/
def State.stepOf (s : State) (tid l : Nat) : Step :=
  match (s.unitOf tid).region, s.regionStep tid l with
  | some r, some k => rd {} r.steps k
  | _, _ => {}

/-- A load of a body receives its bytes: those of the step's earlier stores take the place of memory's, and the load
records what it read (R317). -/
def State.bodyRead (s : State) (tid l stores load : Nat) (bs : List Byte) : State × List Byte :=
  let st := s.stepOf tid l
  let e : StepMem := rd ⟨3, 0, 0, 0, []⟩ st.loads load
  let bs := s.bufferedOver (st.stores.take stores) e bs
  (s.mapStep tid l fun st => { st with loads := st.loads.modify load fun e => { e with bytes := bs } }, bs)

/-- Writes the value of one part of a request into its destination (R222). -/
def State.deliver (s : State) (req tid depth : Nat) (p : Part) (data : List Byte) : State :=
  match p.dest with
  | .lane l reg n =>
    let bs := (data.drop p.off).take p.width
    let (s, bs) := match p.body with
      | some (m, k) => s.bodyRead tid l m k bs
      | none => (s, bs)
    let ws := extend bs p.width n p.signed
    s.mapThread tid fun t => t.mapLaneAt depth l fun L => L.land req reg ws
  | .uni r =>
    let x := BitVec.ofNat 64 (leAt data p.off p.width)
    s.mapThread tid fun t =>
      if t.gdepth ≤ depth then { t with w := wr 0 t.w r x, wpend := t.wpend.filter fun q => q.2 ≠ req }
      else { t with acts := t.acts.modify (t.gdepth - 1 - depth) fun b => { b with w := wr 0 b.w r x } }

/-! ### Loads (R222, R224, R225) -/

/-- The distinct lines of the accesses, in ascending address (R220): domain and line address. -/
def linesOf (ps : Lanes) : List (Nat × Nat) :=
  sortBy (fun x => x.2)
    ((ps.filterMap fun p => match p.2 with | .mem d va => some (d, lineOf va) | _ => none).eraseDups)

/-- The loads of a thread's lanes on a line that are not served yet, by the line's address or its place: what a
later access of theirs to it comes after (R95). -/
def State.loadsBefore (s : State) (tid : Nat) (m : Mask) (dom line : Nat) : List Nat :=
  let place := ((s.domain dom).place line).map lineOf
  indices (fun r => r.tid = tid && r.ofLanes m &&
    ((r.st = .walk && r.dom = dom && lineOf r.va = line) ||
     (r.st = .sent && ((r.dom = dom && lineOf r.va = line) || place = some r.line)))) s.reqs

/-- Posts the miss queue entries of the pages that lines wait for (R380). -/
def State.missLines (s : State) (lc core : Nat) (ls : List (Nat × Nat)) (k : Acc) : State :=
  ls.foldl (fun s x => if s.translate lc x.1 x.2 k = .walk then s.missEntry x.1 x.2 core k else s) s

/-- Waits until the lines of some accesses can be read at once (R90, R95, R220). -/
def State.awaitLines (s : State) (ps : Lanes) (eff : State → State) : State :=
  let ls := linesOf ps
  if ls.isEmpty then eff s
  else (s.missLines s.cur.old.lc s.cur.old.core ls .load).await (.walk ls) fun s =>
    s.await (.pending (ls.flatMap fun x => s.loadsBefore s.cur.tid s.cur.mask x.1 x.2)) fun s => s.await (.lines ls) eff

/-- The lanes of one line. -/
def onLine (ps : Lanes) (d line : Nat) : List (Nat × Nat) :=
  ps.filterMap fun (l, p) =>
    match p with | .mem d' va => if d' = d && lineOf va = line then some (l, va - line) else none | _ => none

/-- A copy of a line in a core's L1 that may still serve loads (R89). -/
def State.l1Copy (s : State) (core line : Nat) : Option Copy :=
  s.copies.find? fun c => c.core = core && c.line = line && s.coreClock core + 4 < c.expiry

/-- How a load's line is served. -/
inductive Served where
  /-- At once, by a window or the L1: the 128 bytes. -/
  | now (data : List Byte)
  /-- By the home. -/
  | home (place : Nat)
  /-- Once the page is installed. -/
  | walk
  deriving DecidableEq, Repr

/-- Serves one line of a load of a thread in a mode (R89, R91, R103, R224). `fresh`: no earlier load of its lanes on the line
is on its way, which a window or a copy in the L1 would overtake (R95). A window that cannot serve the line yet leaves it to
the home, and is filled as it returns (R103, R220). -/
def State.serve (s : State) (tid lc core dom line : Nat) (mode : LdMode) (fresh : Bool := true) : State × Served :=
  match s.translate lc dom line .load with
  | .ok p =>
    match s.windowAt lc dom line with
    | some (k, n) =>
      let off := s.windowOff k n dom line
      if mode = .plain && fresh && s.windowReady lc dom line then
        let s := (s.countBy tid (if (s.winEntry k n off).isSome then 4 else 5) 1).fillWindow k n off p
        (s, .now (overlay (s.waitingCells core (lineOf p))
          ((((s.window k n).entries.find? fun e => e.off = off).map (·.data)).getD (s.coreLine core (lineOf p)))))
      else (s.writeBack k n (fun e => e.off = off) false [], .home (lineOf p))
    | none =>
      if mode = .plain && fresh && (s.atomsOn core (lineOf p)).isEmpty then
        match s.l1Copy core (lineOf p) with
        | some c => (s.countBy tid 4 1, .now (overlay (s.queued core (lineOf p)) c.data))
        | none => (s, .home (lineOf p))
      else (s, .home (lineOf p))
  | .walk => (s.missEntry dom line core .load, .walk)
  | .trap _ => (s, .walk)

/-- What the reading of a line at its home by a thread counts: the page's access, a line sent to a home, and the lines
that carry it (R13, R221, R364, R365). -/
def State.homeCounts (s : State) (tid dom va p : Nat) : State :=
  ((s.countAccess dom va p).countBy tid 5 1).spendFree (s.thread tid).lc [4, 5, 6]

/-- What the word that issues keeps for a fault that is found later, of some of its lanes with their offsets in a line,
or of the wave (R8, R123). -/
def State.lateOf (s : State) (on : List (Nat × Nat)) (uniform : Bool) : Late :=
  let t := s.cur.old
  let ls := if uniform then lanesOf s.cur.run else on.map (·.1)
  { made := s.cur.made, pc := BitVec.ofNat 32 s.cur.grp, word := t.wordAt s.cur.grp, uniform := uniform, dom := t.dom,
    depth := t.gdepth, offs := on, body := maskOf fun l => ls.contains l && (s.bodyStep s.cur.tid l).isSome
    lanes := ls.map fun l => (l, if s.cur.seeded then { t.lane l with ctr := 0 } else t.lane l) }

/-- Where a lane's bytes lie in the line; of a uniform access, where its bytes do. -/
def Late.off (x : Late) (l : Nat) : Nat :=
  match x.offs.find? fun o => o.1 = l with
  | some o => o.2
  | none => (x.offs.map (·.2)).headD 0

/-- The lanes of some parts with their offsets. -/
def partLanes (ps : List Part) : List (Nat × Nat) :=
  ps.map fun p => match p.dest with | .lane l _ _ => (l, p.off) | .uni _ => (0, p.off)

/-- Sends a request for one line (R220), behind the loads of its lanes on that line (R95). `keeps`: the line may be kept
with a lease, that of the record it was asked through unless a window covers it (R89, R231). -/
def State.request (s : State) (tid dom va : Nat) (sv : Served) (lease : Nat) (keeps acq : Bool)
    (parts : List Part) (pref : Bool := false) (behind : List Nat := []) : State :=
  let core := (s.thread tid).core
  let q : Req :=
    { tid := tid, depth := (s.thread tid).gdepth, core := core, dom := dom, va := va, lease := lease, keeps := keeps, acq := acq,
      parts := parts, seen := s.stores.length, behind := behind, pref := pref,
      late := if parts.isEmpty then {} else s.lateOf (partLanes parts) (parts.any fun p => match p.dest with | .uni _ => true | _ => false) }
  match sv with
  | .now _ => s
  | .home p =>
    let s := s.countBy tid 5 1
    { s with reqs := s.reqs ++ [{ q with line := p, after := s.atomsOn core p }] }
  | .walk => { s with reqs := s.reqs ++ [{ q with st := .walk }] }

/-- One line of a lane-wise load: served lanes take their value, the others wait for the request. -/
def State.loadLine (s : State) (ps : Lanes) (r : BufRec) (d : Dst) (w n : Nat) (signed : Bool)
    (mode : LdMode) (dom line : Nat) : State :=
  let tid := s.cur.tid
  let t := s.cur.old
  let reg := match d with | .reg x => some x.toNat | .latch => none
  let on := onLine ps dom line
  let early := s.loadsBefore tid (maskOf fun l => on.any fun x => x.1 = l) dom line
  let (s, sv) := s.serve tid t.lc t.core dom line mode early.isEmpty
  let id := s.reqs.length
  let parts := on.map fun (l, off) =>
    ({ dest := .lane l reg n, off := off, width := w, signed := signed, latch := decide (n = 1),
       body := (s.bodyStep tid l).map fun _ => ((s.stepOf tid l).stores.length, (s.stepOf tid l).loads.length) } : Part)
  -- a body's load has its place in its step's buffer (R317)
  let s := on.foldl (fun s (l, off) =>
    if (s.bodyStep tid l).isSome then s.mapStep tid l fun st =>
      { st with loads := st.loads ++ [⟨0, 0, dom, line + off, List.replicate w 0⟩] }
    else s) s
  -- the destinations wait for this request until it answers
  let s := s.mapThread tid fun t => parts.foldl (fun t p =>
    match p.dest with
    | .lane l reg n => t.mapLane l fun L =>
        let L := match reg with
          | some r => { L with pend := L.pend ++ (List.range n).map fun i => (r + i, id) }
          | none => L
        if p.latch then { L with latch := upd {} L.latch Pipe.m.latch fun x => { x with pend := some id } }
        else L
    | .uni _ => t) t
  match sv with
  | .now data => parts.foldl (fun s p => s.deliver id tid t.gdepth p data) s
  | _ => s.request tid dom line sv (leaseTicks r.lease) (mode = .plain) (mode = .acq) parts false early

/-- Space, area, domain and address of a place, as a step buffer keys it. -/
def Place.key (p : Place) (tid : Nat) : Nat × Nat × Nat × Nat :=
  match p with
  | .mem d va => (0, 0, d, va)
  | .lstash o => (1, 0, 0, o)
  | .own o => (2, tid, 0, o)
  | _ => (3, 0, 0, 0)

/-- Reads a line for a thread at once, as a plain load with a lease would: through its window, the L1 or at the home,
whose copy the L1 keeps under the lease (R89, R103). -/
def State.readLine (s : State) (tid dom line lease : Nat) : State × List Byte :=
  let t := s.thread tid
  match s.serve tid t.lc t.core dom line .plain with
  | (s, .now d) => (s, d)
  | (s, .home q) =>
    let s := s.homeCounts tid dom line q
    if lease = 0 then (s, s.coreLine t.core q) else
    let (s, e) := s.grantLease q lease
    ({ s with copies := { core := t.core, line := q, expiry := e, data := s.homeLine q, dom := dom } ::
        s.copies.filter fun c => c.core ≠ t.core || c.line ≠ q }, s.coreLine t.core q)
  | (s, .walk) => (s, [])

/-- Reads some lines so, each once (R220). -/
def State.readLines (s : State) (tid lease : Nat) (ls : List (Nat × Nat)) : State × List ((Nat × Nat) × List Byte) :=
  ls.foldl (fun (s, got) x =>
    let (s, d) := s.readLine tid x.1 x.2 lease
    (s, got ++ [(x, d)])) (s, [])

/-- n bytes of a place of memory in lines that have been read. -/
def Place.inLines (p : Place) (got : List ((Nat × Nat) × List Byte)) (n : Nat) : Nat :=
  match p with
  | .mem dom va => ((got.find? fun g => g.1 = (dom, lineOf va)).map fun g => leAt g.2 (va % 128) n).getD 0
  | _ => 0

/-- A load of a lane in a relaxation body from the stash: laid over by its step's buffered stores, and
recorded (R317). -/
def State.bodyLoad (s : State) (l : Nat) (p : Place) (w n : Nat) (signed : Bool) (d : Dst) : State :=
  let tid := s.cur.tid
  match p with
  | .none => s
  | _ =>
    let (sp, ar, dom, addr) := p.key tid
    let st := s.stepOf tid l
    let s := s.mapStep tid l fun st => { st with loads := st.loads ++ [⟨sp, ar, dom, addr, List.replicate w 0⟩] }
    let (s, bs) := s.bodyRead tid l st.stores.length st.loads.length (s.readStash (s.thread tid) p w)
    let ws := extend bs w n signed
    s.mapMe fun t => t.mapLane l fun L =>
      let L := match d with | .reg r => L.setVs r.toNat ws | .latch => L
      if n = 1 then { L with latch := upd {} L.latch Pipe.m.latch fun x => { x with val := rd 0 ws 0 } } else L

/-- RLXBAD of the body lanes whose step buffer is full (R317). -/
def State.bufferFull (s : State) (store : Bool) : List Taken :=
  (lanesOf s.cur.mask).filterMap fun l =>
    match s.bodyStep s.cur.tid l, (s.unitOf s.cur.tid).region with
    | some k, some r =>
      let st := rd {} r.steps k
      if (if store then st.stores.length ≥ 16 else st.loads.length ≥ 32) then
        some { lane := l, code := .rlxbad } else none
    | _, _ => none

/-- The lanes whose access returns 0 take it at once; the registers of the others stay as they are until their value
comes back (R8, R219, R222). -/
def State.zeroDropped (s : State) (ps : Lanes) (d n : Nat) : State :=
  s.mapActive fun l L => if ps.any fun p => p.1 = l && p.2 = .none then L.setVs d (List.replicate n 0) else L

/-- A lane-wise load from global memory (R224). -/
def State.load (s : State) (r : BufRec) (idx : Nat → Nat) (d : Dst) (w n : Nat) (signed : Bool)
    (mode : LdMode) : State :=
  s.checked r (s.places r idx w .load false) .load (s.bufferFull false) fun s ps =>
    let s := match d with
      | .reg x => s.zeroDropped ps x.toNat n
      | .latch => s
    let s := if n = 1 then s.pushAll .m fun _ => 0 else s
    (linesOf ps).foldl (fun s x => s.loadLine ps r d w n signed mode x.1 x.2) s

/-- The 128-byte line of its stash area in which an access lies. -/
def Place.stashLine : Place → Place
  | .lstash o => .lstash (lineOf o)
  | .own o => .own (lineOf o)
  | p => p

/-- ECCUE of the lanes whose bytes lie in a line of the stash of which a lane would read bytes with an uncorrectable error
(R218, check 7), then RLXBAD. -/
def State.stashErrors (s : State) (ps : Lanes) (w : Nat) : List Taken :=
  let bad := (ps.filter fun p => s.stashFlawed s.cur.tid p.2 w).map fun p => p.2.stashLine
  let xs : List Taken := ps.filterMap fun (l, p) =>
    if bad.contains p.stashLine then some { lane := l, code := .eccue } else none
  xs ++ (s.bufferFull false).filter fun x => !(xs.any fun y => y.lane = x.lane)

/-- A lane-wise load from the stash, which never leaves a register pending (R228). -/
def State.loadStash (s : State) (r : BufRec) (idx : Nat → Nat) (d : Dst) (w n : Nat) (signed : Bool) : State :=
  let ps := s.places r idx w .load true
  s.checked r ps .load (s.stashErrors ps w) fun s ps =>
    let s := match d with
      | .reg x => s.setGroup x.toNat fun _ => List.replicate n 0
      | .latch => s
    let s := if n = 1 then s.pushAll .m fun _ => 0 else s
    ps.foldl (fun s p =>
      if (s.bodyStep s.cur.tid p.1).isSome then s.bodyLoad p.1 p.2 w n signed d
      else
        let ws := extend (s.readStash s.cur.old p.2 w) w n signed
        s.mapMe fun t => t.mapLane p.1 fun L =>
          let L := match d with | .reg x => L.setVs x.toNat ws | .latch => L
          if n = 1 then { L with latch := upd {} L.latch Pipe.m.latch fun x => { x with val := rd 0 ws 0 } } else L) s

/-! ### Stores (R91, R96, R103) -/

/-- Accepts the bytes that lanes of the thread that issues, or its wave, store to one line of a domain (R91), or writes
them into the window that covers it (R103): once its page is there, the loads of its lanes on it are served, and the window
can fetch it, if it cannot now (R90, R95, R220). -/
def State.storeLine (s : State) (tid : Nat) (m : Mask) (dom line : Nat) (cells : List Host.Cell)
    (stream : Bool) (uniform : Bool := false) (on : List (Nat × Nat) := []) : State :=
  let t := s.thread tid
  let on := if uniform then [(0, (cells.map (·.1)).headD 0)] else on
  let x : Store := { core := t.core, tids := [tid], lanes := m, depth := t.gdepth, dom := dom, va := line, bytes := cells,
                     stream := stream, after := s.loadsBefore tid m dom line }
  match s.translate t.lc dom line .store with
  | .ok p =>
    match s.windowAt t.lc dom line with
    | some (k, n) =>
      let off := s.windowOff k n dom line
      let fills := (s.winEntry k n off).isNone
      if x.after.isEmpty && s.windowTakes t.lc dom line p then
        ((s.countBy tid (if fills then 5 else 4) 1).fillWindow k n off p).writeWindow k n off cells tid
      else s.accept { x with st := .walk, fills := true, late := s.lateOf on uniform }
    | none => s.accept { x with line := lineOf p }
  | .walk => (s.missEntry dom line t.core .store).accept { x with st := .walk, fills := true, late := s.lateOf on uniform }
  | .trap _ => s

/-- A window that holds a line in an entry gives it up: the entry's dirty bytes are written back (R103). -/
def State.evictLine (s : State) (lc dom line : Nat) : State :=
  match s.windowAt lc dom line with
  | some (k, n) =>
    let off := s.windowOff k n dom line
    s.writeBack k n (fun e => e.off = off) false []
  | none => s

/-- A store of the wave that issues which goes to the home whatever window covers its line (R235). -/
def State.storeHome (s : State) (dom line : Nat) (cells : List Host.Cell) : State :=
  let t := s.cur.old
  let x : Store := { core := t.core, tids := [s.cur.tid], lanes := s.cur.mask, depth := t.gdepth, dom := dom, va := line,
                     bytes := cells, after := s.loadsBefore s.cur.tid s.cur.mask dom line }
  match s.translate t.lc dom line .store with
  | .ok p => s.accept { x with line := lineOf p }
  | _ => (s.missEntry dom line t.core .store).accept
      { x with st := .walk, late := s.lateOf [(0, (cells.map (·.1)).headD 0)] true }

/-- Stores the bytes of lanes at global places: one entry for each line, the higher lane's byte
winning (R96). -/
def State.storeAll (s : State) (tid : Nat) (ps : Lanes) (data : Nat → List Byte) (stream : Bool) : State :=
  (linesOf ps).foldl (fun s (dom, line) =>
    let on := onLine ps dom line
    let cells := on.flatMap fun (l, off) =>
      (List.range (data l).length).map fun i => (off + i, rd 0 (data l) i)
    let cells := (List.range 128).filterMap fun i => (cellAt cells i).map fun b => (i, b)
    s.storeLine tid (maskOf fun l => on.any fun x => x.1 = l) dom line cells stream false on) s

/-- Asks for the translation of the page that a buffered store goes to, where the host is to install it: the store's
check 6 decides whether its step is faulted (R220, R317, R326). -/
def State.probeStore (s : State) (l dom va : Nat) : State :=
  let t := s.cur.old
  if s.translate t.lc dom va .store = .walk then
    let q : Req :=
      { tid := s.cur.tid, depth := t.gdepth, core := t.core, dom := dom, va := lineOf va, probe := true, st := .walk,
        parts := [{ dest := .lane l none 0, off := va % 128, width := 0, body := some (0, 0) }], late := s.lateOf [(l, va % 128)] false }
    let s := s.missEntry dom va t.core .store
    { s with reqs := s.reqs ++ [q] }
  else s

/-- Buffers a store of a body lane in its step (R317). -/
def State.bodyStore (s : State) (l : Nat) (p : Place) (bs : List Byte) : State :=
  let s := match p with
    | .mem dom va => s.probeStore l dom va
    | _ => s
  match p with
  | .none => s
  | _ =>
    let (sp, ar, dom, addr) := p.key s.cur.tid
    s.mapStep s.cur.tid l fun st => { st with stores := st.stores ++ [⟨sp, ar, dom, addr, bs⟩] }

/-- The stores of lanes after their checks. -/
def State.storeParts (s : State) (ps : Lanes) (data : Nat → List Byte) (stream : Bool) : State :=
  let body := ps.filter fun p => (s.bodyStep s.cur.tid p.1).isSome
  let plain := ps.filter fun p => (s.bodyStep s.cur.tid p.1).isNone
  let s := body.foldl (fun s p => s.bodyStore p.1 p.2 (data p.1)) s
  let s := plain.foldl (fun s p =>
    match p.2 with
    | .lstash _ | .own _ => s.writeStash s.cur.tid p.2 (data p.1)
    | _ => s) s
  s.storeAll s.cur.tid plain data stream

/-! ### Releases (R93, R94) -/

/-- Waits for the conditions of FENCE at a scope, having first written back the windows that the
thread has written (R93, R104). -/
def State.fenceThen (s : State) (sc : Scope) (eff : State → State) : State :=
  let s := match sc with
    | .device | .system => s.flushDirty s.cur.tid
    | _ => s
  s.await (.fence sc) eff

/-- The release scope of a store to the places of its lanes: system scope when any line is system
memory (R94). -/
def State.releaseScope (s : State) (lc : Nat) (ps : Lanes) : Option Scope :=
  let qs := ps.filterMap fun p => match p.2 with
    | .mem d va => match s.translate lc d va .store with | .ok q => some (isDevice q) | _ => some true
    | _ => none
  if qs.isEmpty then none else if qs.all (fun b => b) then some .device else some .system

/-- Runs an effect under a release, when one is asked for (R94). -/
def State.released (s : State) (on : Bool) (ps : Lanes) (eff : State → State) : State :=
  match on, s.releaseScope s.cur.old.lc ps with
  | true, some sc => s.fenceThen sc eff
  | _, _ => eff s

/-- A lane-wise store (R224, R228). -/
def State.store (s : State) (r : BufRec) (idx : Nat → Nat) (data : Nat → List Byte) (w : Nat) (stash : Bool)
    (mode : StMode) : State :=
  s.checked r (s.places r idx w .store stash) .store (s.bufferFull true) fun s ps =>
    s.released (mode = .rel) ps fun s => s.storeParts ps data (mode = .stream)

/-! ### Atomics (R97, R226) -/

/-- Sends the atomics of the lanes of one line; a returning one leaves its registers pending. -/
def State.atomLine (s : State) (ps : Lanes) (dom line : Nat) (part : Nat → Nat → AtomPart) (acq : Bool)
    (ret : Option (Nat × Nat)) : State :=
  let tid := s.cur.tid
  let t := s.cur.old
  let on := onLine ps dom line
  let m := maskOf fun l => on.any fun x => x.1 = l
  -- a window gives the line up first (R226)
  let s := match s.windowAt t.lc dom line with
    | some (k, n) =>
      let off := s.windowOff k n dom line
      s.writeBack k n (fun e => e.off = off) false [tid]
    | none => s
  let base : Store := { core := t.core, tids := [tid], lanes := m, depth := t.gdepth, dom := dom, va := line, acq := acq,
                        kind := .atom (on.map fun (l, off) => part l off), after := s.loadsBefore tid m dom line,
                        late := s.lateOf on false }
  let id := s.stores.length
  let s := match s.translate t.lc dom line .atomic with
    | .ok p => s.accept { base with line := lineOf p }
    | _ => (s.missEntry dom line t.core .atomic).accept { base with st := .walk }
  match ret with
  | none => s
  | some (reg, n) =>
    let rid := s.reqs.length
    let parts := on.map fun (l, off) =>
      ({ dest := .lane l (some reg) n, off := off, width := 4 * n, latch := decide (n = 1) } : Part)
    let s := s.mapThread tid fun t => on.foldl (fun t (l, _) => t.mapLane l fun L =>
      let L := { L with pend := L.pend ++ (List.range n).map fun i => (reg + i, rid) }
      if n = 1 then { L with latch := upd {} L.latch Pipe.m.latch fun x => { x with pend := some rid } } else L) t
    let q : Req :=
      { tid := tid, depth := t.gdepth, core := t.core, dom := dom, va := line, acq := acq, parts := parts, st := .home,
        store := some id }
    { s with reqs := s.reqs ++ [q] }

/-! ### Uniform accesses (R225) -/

/-- One access of a uniform word: its traps fall on the wave. -/
def State.uniAccess (s : State) (r : BufRec) (idx w : Nat) (k : Acc) (eff : State → Place → State) : State :=
  if s.stashGate r then s.trapWave .gate 5 else
  let p := s.checkAccess s.cur.old r idx w k false
  let s := s.reserve [(0, p)]
  match s.judge s.cur.old.lc [(0, p)] k with
  | x :: _ => s.trapWave x.code 0 x.addr x.dom
  | [] => eff s p

/-- LDW: the uniform register takes the value, or waits for it. -/
def State.loadUni (s : State) (d : UReg) (r : BufRec) (idx w : Nat) (mode : LdMode) : State :=
  s.uniAccess r idx w .load fun s p =>
    match p with
    | .mem dom va =>
      let tid := s.cur.tid
      let t := s.cur.old
      let early := s.loadsBefore tid (BitVec.allOnes 32) dom (lineOf va)
      let (s, sv) := s.serve tid t.lc t.core dom (lineOf va) mode early.isEmpty
      let id := s.reqs.length
      let part : Part := { dest := .uni d.toNat, off := va % 128, width := w }
      match sv with
      | .now data => s.deliver id tid t.gdepth part data
      | _ =>
        let s := s.mapThread tid fun t => { t with wpend := t.wpend ++ [(d.toNat, id)] }
        s.request tid dom (lineOf va) sv (leaseTicks r.lease) (mode = .plain) (mode = .acq) [part] false early
    | _ => s.setU d 0

/-- STW: one store of w bytes. -/
def State.storeUni (s : State) (r : BufRec) (idx w : Nat) (bs : List Byte) (mode : StMode) : State :=
  s.uniAccess r idx w .store fun s p =>
    match p with
    | .mem dom va =>
      s.released (mode = .rel) [(0, p)] fun s =>
        s.storeLine s.cur.tid s.cur.mask dom (lineOf va)
          ((List.range bs.length).map fun i => (va % 128 + i, rd 0 bs i)) (mode = .stream) true
    | _ => s

end Sys2Proof.Machine
end

