-- ==== Sys2Proof/Machine/Msync.lean ====
section
/-! DEFINITION. Fences, windows, prefetch, polls and byte barriers: major 0x28 (R229 to R235, R93,
R101, R103, R104). A poll's attempts are made by POLL_ATTEMPT; the word starts the poll, waits, and
takes its acquire when it is over. -/

namespace Sys2Proof.Machine

/-- FENCE (R230, R93, R104). -/
def execFence (scope : Scope) (s : State) : Host.Outcome State Fault Refusal :=
  .next (s.uniform none false fun s => s.fenceThen scope id)

/-! ### Windows (R231, R232) -/

/-- Whether the line at a window's offset lies within a record's span (R232). -/
def lineInSpan (r : BufRec) (line : Nat) : Bool := r.base ≤ line && line + 128 ≤ r.base + r.span

/-- STFLUSH: writes back and leaves the entries filled and clean (R232). -/
def execStflush (rec : BReg) (s : State) : Host.Outcome State Fault Refusal :=
  .next (s.uniform (some 2) false fun s =>
    let r := s.breg rec
    if r.stash then s.trapWave .stashmap
    else (List.range 16).foldl (fun s n =>
      let w := rd ({} : Window) (s.lc s.cur.old.lc).windows n
      if w.mapped then
        s.writeBack s.cur.old.lc n (fun e => lineInSpan r (w.base + e.off)) true [s.cur.tid]
      else s) s)

/-- STDROP: empties the entries without writing them back (R232). -/
def execStdrop (rec : BReg) (s : State) : Host.Outcome State Fault Refusal :=
  .next (s.uniform (some 2) false fun s =>
    let r := s.breg rec
    if r.stash then s.trapWave .stashmap
    else (List.range 16).foldl (fun s n =>
      let w := rd ({} : Window) (s.lc s.cur.old.lc).windows n
      if w.mapped then s.emptyEntries s.cur.old.lc n fun e => lineInSpan r (w.base + e.off) else s) s)

/-- Whether two ranges of bytes overlap. -/
def overlaps (a n b m : Nat) : Bool := a < b + m && b < a + n

/-- The bound FIFOs of a launch-on-core, q5 to q15, as offset and length in its LSTASH area (R58). -/
def LC.boundFifos (x : LC) : List (Nat × Nat) :=
  ((x.queues.drop 2).filter fun f => f.kind = 1).map fun f =>
    (fld f.spec 27 16 * 256, (fld f.spec 7 0 + 1) * 8)

/-- Whether a map of a window is refused (R231). -/
def State.mapBad (s : State) (lc win off : Nat) (r : BufRec) : Bool :=
  let x := s.lc lc
  r.stash || r.swz ≠ 0 || r.lease = 0 || (r.stride ≠ 1 && r.extent ≠ 1)
  || r.base % 128 ≠ 0 || r.span = 0 || r.span % 128 ≠ 0
  || off * 4096 + r.span > s.lstashSize lc
  || (rd {} x.windows win).mapped
  || x.mapped.any (fun w => overlaps r.base r.span w.base w.span || overlaps (off * 4096) r.span w.backing w.span)
  || x.boundFifos.any fun (a, n) => overlaps (off * 4096) r.span a n

/-- Unmaps a window: dirty entries are written back, and the backing bytes hold what the entries last held
(R231). -/
def State.unmapWindow (s : State) (lc n : Nat) (tids : List Nat) : State :=
  let w := rd {} (s.lc lc).windows n
  if !w.mapped then s else
  (s.writeBack lc n (fun _ => true) false tids).mapWindow lc n fun _ => {}

/-- STMAP (R231). -/
def execStmap (rec : BReg) (a : UReg) (s : State) : Host.Outcome State Fault Refusal :=
  .next (s.uniform (some 2) false fun s =>
    let x := s.ureg a
    let lc := s.cur.old.lc
    let win := fld x 3 0
    let off := fld x 19 12
    let r := s.breg rec
    if fld x 63 20 ≠ 0 || fld x 11 5 ≠ 0 || (x.getLsbD 4 && rec ≠ 0) then s.trapWave .ill
    else if x.getLsbD 4 then s.unmapWindow lc win [s.cur.tid]
    else if s.mapBad lc win off r then s.trapWave .stashmap
    else s.mapWindow lc win fun _ =>
      { mapped := true, record := r, base := r.base, span := r.span, backing := off * 4096 })

/-! ### PREF (R233) -/

/-- Asks the home for a line that no window entry and no copy in the L1 serves: it goes to the entry of the window
that covers it, with that window's lease, or to the L1 (R90, R103, R233). -/
def State.prefLine (s : State) (r : BufRec) (dom line : Nat) : State :=
  let t := s.cur.old
  let (s, sv) := s.serve s.cur.tid t.lc t.core dom line (if s.fillsAt t.lc dom line then .acq else .plain)
  s.request s.cur.tid dom line sv (leaseTicks r.lease) true false [] true

/-- PREF: a lane that would fail a check of R218 is dropped silently, one out of bounds under any policy too. The
checks are made for one byte of the element (DESIGN CHOICE, notes/assumptions/62). -/
def execPref (rec : BReg) (idx : Src) (s : State) : Host.Outcome State Fault Refusal :=
  .next (s.laneWise none true fun s =>
    let r := s.breg rec
    if r.lease = 0 then s else
    let ps := (s.places r (fun l => s.srcOrW l idx) 1 .load false).filter fun p =>
      (r.elemOff (s.srcOrW p.1 idx) 1).2
    let s := s.reserve ps
    let bad := s.judge s.cur.old.lc ps .load
    let ok := ps.filter fun p => !(bad.any fun x => x.lane = p.1)
    (linesOf ok).foldl (fun s x => s.prefLine r x.1 x.2) s)

/-! ### Polls (R234, R235) -/

/-- The acquire of the lanes of Active() at the end of a poll, at the latest home time (R94, R101). -/
def State.pollAcquire (s : State) (p : Poll) : State :=
  (s.mapActive fun _ L => { L with acq := max L.acq (p.home + 4) }).mapMe fun t => { t with poll := none }

/-- A poll: its checks and its start, the wait, and its acquire once it is over. -/
def State.pollWord (s : State) (r : BufRec) (ps : Lanes) : State :=
  match s.cur.old.poll with
  | some p => if p.done then s.pollAcquire p else s.block .poll
  | none =>
    s.checked r ps .load [] fun s ps =>
      if ps.isEmpty then s
      else (s.mapMe fun t => { t with poll := some { next := s.coreClock t.core } }).block .poll

/-- WAITV (R234). -/
def execWaitv (rec : BReg) (_cond : PollCond) (idx _cmp : Src) (s : State) :
    Host.Outcome State Fault Refusal :=
  .next (s.laneWise none false fun s =>
    let r := s.breg rec
    s.pollWord r (s.places r (fun l => s.srcOrW l idx) 4 .load false))

/-- A poll of a uniform word, whose traps fall on the wave. -/
def State.pollUni (s : State) (r : BufRec) (w : Nat) : State :=
  match s.cur.old.poll with
  | some p =>
    if p.done then
      (s.mapMe fun t => (t.mapLanes fun _ L => { L with acq := max L.acq (p.home + 4) })).mapMe fun t =>
        { t with poll := none }
    else s.block .poll
  | none =>
    s.uniAccess r 0 w .load fun s _ =>
      (s.mapMe fun t => { t with poll := some { next := s.coreClock t.core } }).block .poll

/-- BBARM: a release store of COUNT 0 and the target; the thread's later accesses wait for its WCT
(R235). Where a window serves the line, its entry is evicted at once, and the store goes to the home, so that it has a WCT
(R103). -/
def execBbarm (rec : BReg) (a : UReg) (s : State) : Host.Outcome State Fault Refusal :=
  .next (s.uniform none false fun s =>
    s.uniAccess (s.breg rec) 0 16 .store fun s p =>
      match p with
      | .mem dom va =>
        s.released true [(0, p)] fun s =>
          let s := s.evictLine s.cur.old.lc dom (lineOf va)
          let id := s.stores.length
          let bs := bytesOf 16 ((s.ureg a).toNat * 2 ^ 64)
          let s := s.storeHome dom (lineOf va) ((List.range 16).map fun i => (va % 128 + i, rd 0 bs i))
          s.mapMe fun t => { t with bbHold := t.bbHold ++ [id] }
      | _ => s)

/-- BBWAIT (R235). -/
def execBbwait (rec : BReg) (_a : UReg) (s : State) : Host.Outcome State Fault Refusal :=
  .next (s.uniform none false fun s => s.pollUni (s.breg rec) 16)

end Sys2Proof.Machine
end

