-- ==== Sys2Proof/Machine/Engine.lean ====
section
/-! DEFINITION. What every engine command shares (R249 to R251, R291 to R295): its issue into an
engine queue, the dependence graph, the reading and writing of records by an engine, the posting of
faults and its completion as a node (R100). -/

namespace Sys2Proof.Machine

/-! ### Commands of a unit -/

/-- Replaces the command with a number, in whichever queue it is. -/
def Unit_.mapCmd (u : Unit_) (id : Nat) (f : Cmd → Cmd) : Unit_ :=
  let g (c : Cmd) : Cmd := if c.id = id then f c else c
  { u with q0 := u.q0.map g, q1 := u.q1.map g, q2 := u.q2.map g }
/-- Removes the command with a number. -/
def Unit_.dropCmd (u : Unit_) (id : Nat) : Unit_ :=
  let g (c : Cmd) : Bool := c.id ≠ id
  { u with q0 := u.q0.filter g, q1 := u.q1.filter g, q2 := u.q2.filter g }
/-- The command with a number. -/
def Unit_.cmd (u : Unit_) (id : Nat) : Option Cmd := u.cmdsAll.find? fun c => c.id = id
/-- The node in flight with an id of a launch-on-core (R250). -/
def Unit_.node (u : Unit_) (lc n : Nat) : Option Cmd :=
  u.cmdsAll.find? fun c => c.lc = lc && c.node = n && c.st ≠ .complete && !c.published

/-- Posts a fault of a command to its issuing wave (R77, R292). -/
def State.postCmd (s : State) (c : Cmd) (code : TrapCode) (addr : Nat := 0) : State :=
  s.post c.tid { code := code, addr := addr, node := c.node, mask := c.mask }

/-! ### The dependence graph (R250, R251) -/

/-- A decrement of a node by a completing command: held for a node not in flight (R250); a node whose
count is 0, or a full table, posts GRAPH and drops the decrement (R251). -/
def State.decrement (s : State) (asid core : Nat) (c : Cmd) (n : Nat) : State :=
  let u := s.unit asid core
  if n = 0 then s else
  match u.node c.lc n with
  | some x =>
    if x.count = 0 then s.postCmd x .graph
    else s.mapUnit asid core fun u => u.mapCmd x.id fun x => { x with count := x.count - 1 }
  | none =>
    if (u.held.map (·.n)).sum ≥ Config.walkerNodes then s.postCmd c .graph
    else s.mapUnit asid core fun u =>
      if u.held.any fun h => h.lc = c.lc && h.node = n then
        { u with held := u.held.map fun h =>
            if h.lc = c.lc && h.node = n then { h with n := h.n + 1 } else h }
      else { u with held := u.held ++ [⟨c.lc, n, 1⟩] }

/-- The byte-barrier add of a completing node (R100): a release at the barrier's home, of which a
window first gives up the line. -/
def State.barrierAdd (s : State) (core : Nat) (c : Cmd) : State :=
  if c.bbcount = 0 then s else
  let s := match s.windowAt c.lc c.dom c.bbaddr with
    | some (k, n) =>
      let off := s.windowOff k n c.dom (lineOf c.bbaddr)
      s.writeBack k n (fun e => e.off = off) false []
    | none => s
  match s.deviceAdd c.dom core c.bbaddr c.bbcount with
  | (s, .ok _) => s
  | (s, .error code) => s.postCmd c code c.bbaddr

/-- Completes a node: its successors' counts, its byte-barrier add unless it faulted or was removed,
its counts, and a fault held to its end (R100, R250, R86). -/
def State.completeNode (s : State) (asid core : Nat) (c : Cmd) : State :=
  let s := (s.decrement asid core c c.succ0).decrement asid core c c.succ1
  let s := if c.fault then s else s.barrierAdd core c
  let s := s.addMxs c.lc c.mx
  match c.late with
  | some code => s.postCmd c code
  | none => s

/-- A command that acts as completed with no stores: removed by WITHDRAW or discarded (R251, R256). -/
def State.discardCmd (s : State) (asid core : Nat) (c : Cmd) : State :=
  let s := s.mapUnit asid core fun u => u.dropCmd c.id
  s.completeNode asid core { c with fault := true, mx := [], late := none }

/-- The head of a queue waits on a predecessor that lies behind it in the same queue (R251). -/
def headStuck (c : Cmd) (behind : List Cmd) : Bool :=
  c.count ≠ 0 && c.node ≠ 0 &&
    behind.any fun x => x.lc = c.lc && (x.succ0 = c.node || x.succ1 = c.node)

/-- The command of a queue that may start next: the first that has not started. -/
def Unit_.head (u : Unit_) (q : Nat) : Option Cmd := (u.queue q).find? fun c => c.st = .queued

/-- Ends the work of a command: its node completes once its stores are performed (R100). -/
def State.finishCmd (s : State) (asid core id : Nat) (f : Cmd → Cmd) : State :=
  let s := match (s.unit asid core).cmd id with
    | some c => s.spendFree c.lc [3, 4, 5, 6]
    | none => s
  s.mapUnit asid core fun u => u.mapCmd id fun c => { f c with st := .storing }

/-- Ends a command with a fault: no byte-barrier add; the fault is posted (R292). -/
def State.failCmd (s : State) (asid core : Nat) (c : Cmd) (code : TrapCode) (addr : Nat) : State :=
  (s.finishCmd asid core c.id fun c => { c with fault := true }).postCmd c code addr

/-! ### Records used by an engine -/

/-- The bytes of an element of a record: their offsets from BASE. -/
def elemBytes (r : BufRec) (i w : Nat) : List Nat :=
  let off := (r.elemOff i w).1
  (List.range w).map fun k => off + k

/-- A stash byte at an offset of a record, for a thread (R217). -/
def State.stashByte (s : State) (t : Thread) (r : BufRec) (off : Nat) : Place := s.placeAt t r off 1

/-- The traps of a span of n elements of w bytes that an entry fixes at issue: BOUNDS past the
extent, whatever the OOB policy, and STASHMAP under R217. -/
def State.spanTrap (s : State) (t : Thread) (r : BufRec) (first n w : Nat) : Option TrapCode :=
  if n = 0 then none
  else if !(r.elemOff (first + n - 1) w).2 then some .bounds
  else if !r.stash then none
  else if r.base % 2 ^ 20 + (first + n - 1) * r.stride * 2 ^ r.esize ≥ 2 ^ 21 then some .stashmap
  else if (List.range n).any fun i => (elemBytes r (first + i) w).any fun o =>
      match s.stashByte t r o with | .trap _ _ => true | _ => false then some .stashmap
  else none

/-- The stash byte at an offset of a record, whose checks were made at issue (R217, R275). -/
def BufRec.stashPlace (r : BufRec) (off : Nat) : Place :=
  if r.base / 2 ^ 20 % 2 = 0 then .lstash (r.base % 2 ^ 20 + off) else .own (r.base % 2 ^ 20 + off)

/-- Whether a place lies in a footprint whose wave has retired: its bytes belong to no wave (R36; DESIGN CHOICE,
notes/assumptions/65). -/
def State.freed (s : State) (c : Cmd) (p : Place) : Bool :=
  match p with
  | .own _ => !(s.thread c.tid).alive
  | _ => false

/-- One byte an engine reads through a record. -/
def State.recByte (s : State) (c : Cmd) (core : Nat) (r : BufRec) (off : Nat) :
    Except (TrapCode × Nat) Byte :=
  if r.stash then
    let p := r.stashPlace off
    if s.stashFlawed c.tid p 1 then .error (.eccue, 0)
    else if s.freed c p then .ok (Config.freedByte s.draws off)
    else .ok (rd 0 (s.readStash (s.thread c.tid) p 1) 0)
  else if r.base + off ≥ 2 ^ 57 then .error (.xlate, r.base + off)
  else
    match s.engineByte c.lc c.dom core (r.base + off) with
    | .ok b => .ok b
    | .error code => .error (code, r.base + off)

/-- Bytes at offsets that an engine reads through a record. -/
def State.recRead (s : State) (c : Cmd) (core : Nat) (r : BufRec) : List Nat →
    Except (TrapCode × Nat) (List Byte)
  | [] => .ok []
  | o :: t =>
    match s.recByte c core r o with
    | .error e => .error e
    | .ok b =>
      match s.recRead c core r t with
      | .error e => .error e
      | .ok bs => .ok (b :: bs)

/-- Element i of a record, of w bytes, as a number. -/
def State.recElem (s : State) (c : Cmd) (core : Nat) (r : BufRec) (i w : Nat) :
    Except (TrapCode × Nat) Nat :=
  (s.recRead c core r (elemBytes r i w)).map ofBytes

/-- n elements of w bytes from element i on. -/
def State.recElems (s : State) (c : Cmd) (core : Nat) (r : BufRec) (w : Nat) : Nat → Nat →
    Except (TrapCode × Nat) (List Nat)
  | _, 0 => .ok []
  | i, n + 1 =>
    match s.recElem c core r i w with
    | .error e => .error e
    | .ok x =>
      match s.recElems c core r w (i + 1) n with
      | .error e => .error e
      | .ok xs => .ok (x :: xs)

/-- The runs of consecutive offsets of a list of cells, each within one line of memory. -/
def cellRuns (base : Nat) : List (Nat × Byte) → List (Nat × List Byte)
  | [] => []
  | (o, b) :: t =>
    match cellRuns base t with
    | (o', bs) :: rest =>
      if o + 1 = o' && (base + o) / 128 = (base + o') / 128 then (o, b :: bs) :: rest
      else (o, [b]) :: (o', bs) :: rest
    | [] => [(o, [b])]

/-- Writes bytes at offsets of a record for an engine: at once in the stash, as stores in global
memory. It answers the stores' numbers, and the trap of the first line that cannot be written. -/
def State.recWrite (s : State) (c : Cmd) (core : Nat) (r : BufRec) (cells : List (Nat × Byte)) :
    State × List Nat × Option (TrapCode × Nat) :=
  if r.stash then
    (cells.foldl (fun s (o, b) =>
      let p := r.stashPlace o
      if s.freed c p then s else s.writeStash c.tid p [b]) s, [], none)
  else
    (cellRuns r.base cells).foldl (fun (s, ids, bad) (o, bs) =>
      match bad with
      | some _ => (s, ids, bad)
      | none =>
        if r.base + o + bs.length > 2 ^ 57 then (s, ids, some (.xlate, r.base + o))
        else
          let (s, more, bad) := s.engineWrite c.lc c.dom core (r.base + o) bs []
          (s, ids ++ more, bad)) (s, [], none)

/-! ### What a command waits for while it runs -/

/-- Bytes of a record: the record, the first offset and how many. -/
abbrev Range := BufRec × Nat × Nat

/-- The lines of global memory that ranges touch, in their order. -/
def rangeLines (xs : List Range) : List Nat :=
  (xs.flatMap fun x =>
    if x.1.stash || x.2.2 = 0 then [] else
    let a := x.1.base + x.2.1
    (List.range ((a + x.2.2 + 127) / 128 - a / 128)).map fun k => (a / 128 + k) * 128).eraseDups

/-- The ranges of n elements of w bytes of a record. -/
def elemRanges (r : BufRec) (first n w : Nat) : List Range :=
  (List.range n).map fun i => (r, (r.elemOff (first + i) w).1, w)

/-- Whether the host has unmapped the page of an address that a command waited for (R380). -/
def Cmd.deniedAt (c : Cmd) (dom va : Nat) : Bool := c.denied.any fun d => d.1 = dom && d.2 / 2 ^ 16 = va / 2 ^ 16

/-- Brings in the page of an address for a command, and marks the command where it must wait for the host
(R220, R375, R380): whether it waits. -/
def State.cmdPage (s : State) (asid core : Nat) (c : Cmd) (va : Nat) (k : Acc) : State × Bool :=
  if c.deniedAt c.dom va then (s, false) else
  let (s, w) := s.awaitPage c.lc c.dom core va k
  if w then (s.mapUnit asid core fun u => u.mapCmd c.id fun c => { c with hold := some (c.dom, va) }, true)
  else (s, false)

/-- Brings in the pages of lines in order, up to one that waits or that cannot be had: whether one waits. -/
def State.cmdPages (s : State) (asid core : Nat) (c : Cmd) (k : Acc) : List Nat → State × Bool
  | [] => (s, false)
  | va :: t =>
    let (s, w) := s.cmdPage asid core c va k
    if w then (s, true)
    else
      match s.translate c.lc c.dom va k with
      | .ok _ => s.cmdPages asid core c k t
      | _ => (s, false)

/-- Runs a piece of a command's work once the lines it reads can be read and the lines it writes have their pages
(R90, R95, R220), and counts its reads (R13, R221, R365); until then the command waits. -/
def State.withLines (s : State) (asid core : Nat) (c : Cmd) (reads writes : List Range) (eff : State → State) : State :=
  let rs := rangeLines reads
  match s.cmdPages asid core c .load rs with
  | (s, true) => s
  | (s, false) =>
    match s.cmdPages asid core c .store (rangeLines writes) with
    | (s, true) => s
    | (s, false) =>
      if rs.all fun va => s.lineClear c.lc core c.dom va then
        eff (rs.foldl (fun s va => s.engineLine c.lc c.dom va) s)
      else s

/-! ### The issue of a command word -/

/-- The operand word w[wbase + 2] as a command holds it. In deterministic mode the TCORE of a CERED is
a logical core (R62, R288); the command holds the physical core it runs on. -/
def State.operandWord (s : State) (i : Instr) (w2 : Dword) : Dword :=
  match i with
  | .cered _ _ _ =>
    if s.det s.cur.tid then w2 &&& ~~~ 0xFF00 ||| BitVec.ofNat 64 (s.cur.old.core * 2 ^ 8) else w2
  | _ => w2

/-- The command that a word would enter into its queue: the operands as they stand (R249, R291). -/
def State.cmdOf (s : State) (i : Instr) (q : UReg) : Cmd :=
  let t := s.cur.old
  let h := s.quadReg q 0
  { i := i, lc := t.lc, tid := s.cur.tid, tag := t.curtag, dom := t.dom,
    mask := if t.isLead then BitVec.allOnes 32 else s.cur.mask,
    bbcount := fld h 63 44, succ1 := fld h 43 32, succ0 := fld h 31 20, count := fld h 19 12,
    node := fld h 11 0, bbaddr := (s.quadReg q 1).toNat, w2 := s.operandWord i (s.quadReg q 2), w3 := s.quadReg q 3,
    recs := (List.range 16).map fun n => rd {} t.b n,
    fmts := (List.range 8).map fun n => s.fmtOf s.cur.tid (BitVec.ofNat 3 n) }

/-- The decrements held for a node. -/
def Unit_.heldFor (u : Unit_) (lc n : Nat) : Nat :=
  ((u.held.filter fun h => h.lc = lc && h.node = n).map (·.n)).sum

/-- The header faults of a command word (R251). -/
def State.headerTrap (s : State) (c : Cmd) : Option TrapCode :=
  let u := s.unitOf s.cur.tid
  if c.node ≠ 0 && ((u.node c.lc c.node).isSome || c.succ0 = c.node || c.succ1 = c.node
      || u.heldFor c.lc c.node > c.count) then some .graph
  else if c.bbcount ≠ 0 && c.bbaddr % 16 ≠ 0 then some .align
  else none

/-- Enters a command into its queue: its count is PREDS less the decrements held for it, and it takes
the next M grant (R244, R250). -/
def State.enterCmd (s : State) (q : Nat) (c : Cmd) : State :=
  s.mapUnitOf s.cur.tid fun u =>
    let n := if c.node = 0 then 0 else u.heldFor c.lc c.node
    let u := { u with held := u.held.filter fun h => !(h.lc = c.lc && h.node = c.node) }
    { u.setQueue q (u.queue q ++ [{ c with id := u.cmds, grant := u.grants, count := c.count - n }]) with
      grants := u.grants + 1, cmds := u.cmds + 1 }

/-- An engine command word: its entry's traps and the header's fall on the wave, it waits for room,
and it enters its queue (R274, R291). -/
def State.command (s : State) (q : Nat) (i : Instr) (wb : UReg)
    (check : State → Cmd → Option TrapCode) : State :=
  s.uniform (some 2) false fun s =>
    let c := s.cmdOf i wb
    match check s c with
    | some code => s.trapWave code
    | none =>
      match s.headerTrap c with
      | some code => s.trapWave code
      | none => s.await (.engine q) fun s => s.enterCmd q c

/-- The first trap of a list of conditions. -/
def firstTrap : List (Bool × TrapCode) → Option TrapCode
  | [] => none
  | (b, c) :: t => if b then some c else firstTrap t

/-- A record of a command. -/
def Cmd.rec_ (c : Cmd) (n : Nat) : BufRec := rd {} c.recs n
/-- A slot of a command. -/
def Cmd.fmt (c : Cmd) (n : FSlot) : Fmt := rd 0 c.fmts n.toNat

/-! ### The tile order (R265, R294) -/

/-- A tile word of a wave that was granted before a command and still waits for a tile: one that reads or writes
it where the command writes it, and TWR where the command reads it (R265, condition 6; R294). -/
def State.tileWordWaits (s : State) (asid core : Nat) (c : Cmd) (t : Nat) (writes : Bool) : Bool :=
  s.threads.any fun x => x.alive && x.core = core && (s.lc x.lc).asid = asid &&
    match x.wait with
    | some (.tileFree n g) => n = t && g ≤ c.grant
    | some (.settle n g) | some (.prov n g) => writes && n = t && g ≤ c.grant
    | _ => false

/-- Whether the tile order lets a command read and write its tiles on its own core (R294). Two commands of q2 keep it too,
though R294 orders those of another queue alone (DESIGN CHOICE, notes/assumptions/88). -/
def State.tilesFree (s : State) (asid core : Nat) (c : Cmd) : Bool :=
  let u := s.unit asid core
  (c.tilesRead.all fun t => !u.writesOwed core t c.grant && !s.tileWordWaits asid core c t false) &&
  (c.tilesWritten core core).all fun t =>
    !u.writesOwed core t c.grant && !u.readsOwed t c.grant && !s.tileWordWaits asid core c t true

/-- Whether every store of a command has been performed at device scope (R100). -/
def State.cmdStored (s : State) (core : Nat) (c : Cmd) : Bool :=
  c.stores.all fun n => match s.stores[n]? with
    | some x => x.wctBack && x.perf + 4 ≤ s.coreClock core
    | none => true

/-- Completes a command whose work is done, once its byte barrier's page is there (R100, R220). -/
def State.completeCmd (s : State) (asid core : Nat) (c : Cmd) : State :=
  match (if c.fault || c.bbcount = 0 then (s, false) else s.cmdPage asid core c c.bbaddr .atomic) with
  | (s, true) => s
  | (s, false) => (s.mapUnit asid core fun u => u.dropCmd c.id).completeNode asid core c

end Sys2Proof.Machine
end

