-- ==== Sys2Proof/Machine/Bench.lean ====
section
/-! DEFINITION. The Weight Bench, the Prompter and lineage: major 0x30 and the steps of q0 (R258 to
R278, R76, R77). A WBMAC runs a plane at a step; the other commands of q0 start in Tile.lean and end at
NODE_COMPLETE (notes/assumptions/9). -/

namespace Sys2Proof.Machine

/-! ### Tiles -/

/-- Row i of a tile: 128 cells. -/
def Tile.row (t : Tile) (i : Nat) : List Int := (List.range 128).map fun j => rd 0 (rd [] t.rows i) j
/-- Cell (i, j) of a tile. -/
def Tile.cell (t : Tile) (i j : Nat) : Int := rd 0 (rd [] t.rows i) j
/-- The rows that at least one link includes (R267). -/
def Tile.linked (t : Tile) : Mask := t.links.foldl (fun m k => m ||| k.rows) 0
/-- Replaces a tile of a unit. -/
def State.mapTile (s : State) (asid core t : Nat) (f : Tile → Tile) : State :=
  s.mapUnit asid core fun u => { u with tiles := upd {} u.tiles t f }
/-- The ACC48 range (R70). -/
def accMax : Int := 2 ^ 47 - 1
/-- Its lower end. -/
def accMin : Int := -(2 ^ 47)
/-- Whether a value lies in the ACC48 range. -/
def accOk (x : Int) : Bool := accMin ≤ x && x ≤ accMax
/-- A value brought into the ACC48 range. -/
def clamp48 (x : Int) : Int := max accMin (min accMax x)
/-- Cells of a list that lie outside the range. -/
def outside (xs : List Int) : Nat := (xs.filter fun x => !accOk x).length
/-- Whether a value lies within the range of a linked row (R269). -/
def wideOk (x : Int) : Bool := -(2 ^ 95 : Int) ≤ x && x ≤ 2 ^ 95

/-- A tag of a unit. -/
def Unit_.tag (u : Unit_) (t : Nat) : Tag := rd {} u.tags t
/-- Replaces a tag of a unit. -/
def Unit_.mapTag (u : Unit_) (t : Nat) (f : Tag → Tag) : Unit_ := { u with tags := upd {} u.tags t f }
/-- The lowest free tag of the 64 (R267). -/
def Unit_.freeTag (u : Unit_) : Option Nat := (List.range 64).find? fun n => !(u.tag n).live
/-- How many tags are free. -/
def Unit_.freeTags (u : Unit_) : Nat := ((List.range 64).filter fun n => !(u.tag n).live).length

/-- Rows that leave every link of a tile: links lose them, and a link left with none is cut (R271). -/
def Tile.unlink (t : Tile) (m : Mask) : Tile :=
  { t with links := (t.links.map fun k => { k with rows := k.rows &&& ~~~ m }).filter fun k => k.rows ≠ 0,
           covers := (t.covers.map fun k => { k with rows := k.rows &&& ~~~ m }).filter fun k => k.rows ≠ 0 }

/-- Brings the cells of rows that have stopped being linked into the ACC48 range (R269): the tile, how
many cells saturated, and the WBMACPs of policy 11 that covered such a cell's row. -/
def Tile.clampRows (t : Tile) (m : Mask) : Tile × Nat × List Cover :=
  let rows := (List.range 32).map fun i => if m.getLsbD i then (t.row i).map clamp48 else t.row i
  let bad := maskOf fun i => m.getLsbD i && (t.row i).any fun x => !accOk x
  let n := ((lanesOf m).map fun i => outside (t.row i)).sum
  ({ t with rows := if m = 0 then t.rows else rows }, n, t.covers.filter fun k => k.rows &&& bad ≠ 0)

/-- Covers with others added: a WBMACP stands once, with all its rows (R269). -/
def mergeCovers (cs : List Cover) : List Cover → List Cover
  | [] => cs
  | x :: t =>
    mergeCovers (if cs.any fun k => k.src = x.src then
        cs.map fun k => if k.src = x.src then { k with rows := k.rows ||| x.rows } else k
      else cs ++ [x]) t

/-- Posts ACCOVF to the issuing waves of covers (R269). -/
def State.postCovers (s : State) (cs : List Cover) : State :=
  cs.foldl (fun s k => s.post k.tid { code := .accovf, node := k.node, mask := k.mask }) s

/-! ### Prompt tiles (R270) -/

/-- Applies a prompt tile to the rows of each link of its tag that stands at the plane before. -/
def Tile.applyPrompt (t : Tile) (p : Prompt) : Tile :=
  let owed := t.links.filter fun k => k.tag = p.tag && k.plane = p.plane + 1
  if owed.isEmpty then t else
  { t with
    rows := (List.range 32).map fun i =>
      let c := (owed.filter fun k => k.rows.getLsbD i).foldl (fun a k => a + k.coef) 0
      if c = 0 then t.row i else ((t.row i).zip (rd [] p.rows i)).map fun x => x.1 + c * x.2
    links := t.links.map fun k =>
      if k.tag = p.tag && k.plane = p.plane + 1 then { k with plane := p.plane } else k }

/-! ### The retirement of a tag (R270) -/

/-- Whether a command is a CERED onto its own core (R289). -/
def Cmd.ownRed (c : Cmd) (core : Nat) : Bool :=
  match c.i with
  | .cered _ _ _ => tcore c.w2 = core
  | _ => false

/-- Whether a linear operation that has read its inputs, a CERED onto its own core among them, holds a link to a tag
until it writes them (R268, R289). -/
def Unit_.tagInFlight (u : Unit_) (core t : Nat) : Bool :=
  let reads (c : Cmd) : Bool := c.st = .started && c.links.any fun k => k.tag = t
  u.q0.any reads || u.q2.any fun c => c.ownRed core && reads c

/-- Whether every plane of a tag has been formed and applied, to local and remote holders. -/
def Unit_.tagDone (u : Unit_) (core t : Nat) : Bool :=
  let g := u.tag t
  g.live && g.formed && g.proxies.isEmpty && !u.tagInFlight core t
  && (g.atLast || u.prompts.any fun p => p.tag = t && p.plane = 0 && p.applied && p.remote.isEmpty)
  && (u.tiles.all fun x => x.links.all fun k => k.tag ≠ t || k.plane = 0)

/-- Retires a tag: its links go, the rows that are no longer linked are brought into range, and its
counts are added (R86, R269, R270). ACCOVF is posted for each tile of whose rows one saturates, so of a command that covers
several more than once (DESIGN CHOICE, notes/assumptions/84). -/
def State.retireTag (s : State) (asid core t : Nat) : State :=
  let u := s.unit asid core
  let g := u.tag t
  let step (acc : State × Nat) (n : Nat) : State × Nat :=
    let (s, k) := acc
    let x := (s.unit asid core).tile n
    let before := x.linked
    let x := { x with links := x.links.filter fun l => l.tag ≠ t }
    let gone := before &&& ~~~ x.linked
    let (y, more, cs) := x.clampRows gone
    let y := { y with covers := (y.covers.map fun c => { c with rows := c.rows &&& ~~~ gone }).filter fun c => c.rows ≠ 0 }
    ((s.mapTile asid core n fun _ => y).postCovers cs, k + more)
  let (s, sat) := (List.range 16).foldl step (s, 0)
  let s := s.addMxs g.lc (wr 0 g.mx 2 (rd 0 g.mx 2 + sat))
  s.mapUnit asid core fun u =>
    { (u.mapTag t fun _ => {}) with prompts := u.prompts.filter fun p => p.tag ≠ t }

/-- Retires every local tag that is done; a proxy tag retires when it acknowledges (R289). -/
def State.retireDone (s : State) (asid core : Nat) : State :=
  (List.range 64).foldl (fun s t =>
    let u := s.unit asid core
    if u.tagDone core t && (u.tag t).proxyOf.isNone then s.retireTag asid core t else s) s

/-! ### The issue of WB commands (R274 to R278) -/

/-- The issue traps of WBMAC and WBMACP (R275). -/
def State.macTrap (s : State) (c : Cmd) (slot : FSlot) (plane : Nat) : Option TrapCode :=
  let t := s.cur.old
  let f := c.fmt slot
  let w := c.w2
  let k := fld w 10 0 + 1
  let pitch := fld w 31 16
  let a := c.rec_ (fld w 35 32)
  let bytes := if fmtType f = 5 then k else ceilDiv k 2
  let g := ceilDiv k 16
  let e := c.rec_ (fmtBuf f)
  let scaled := fmtScale f = 1
  let spans := (lanesOf c.mask).filterMap fun i => s.spanTrap t a (i * pitch) bytes 1
  let exps := if scaled then (lanesOf c.mask).filterMap fun i => s.spanTrap t e (i * g) g 1 else []
  firstTrap [(!s.slotOk f [5, 6] [0, 1], .ill), (fmtType f = 6 && plane > 3, .ill),
      (fld w 63 36 ≠ 0 || fld w 15 11 ≠ 0 || c.w3 ≠ 0, .ill),
      (!(a.stash && a.esize = 0 && a.stride = 1), .ill), (pitch < bytes, .ill),
      (scaled && !(e.stash && e.esize = 0), .ill), (!a.r || (scaled && !e.r), .perm)]
    <|> (spans ++ exps).head?

/-- The issue traps of WBLOAD (R276). -/
def State.loadTrap (s : State) (c : Cmd) (slot : FSlot) : Option TrapCode :=
  let t := s.cur.old
  let f := c.fmt slot
  let k := fld c.w2 10 0 + 1
  let b := c.rec_ (fld c.w2 35 32)
  let e := c.rec_ (fmtBuf f)
  let scaled := fmtScale f = 1
  firstTrap [(!s.slotOk f [7] [0, 1], .ill), (fld c.w2 63 36 ≠ 0 || fld c.w2 31 11 ≠ 0 || c.w3 ≠ 0, .ill),
      (!(b.esize = 0 && b.stride = 1), .ill), (!b.r || (scaled && !e.r), .perm)]
    <|> s.spanTrap t b 0 (32 * k) 1
    <|> (if scaled then s.spanTrap t e 0 (128 * ceilDiv k 16) 1 else none)

/-- WBMAC (R275). -/
def execWbmac (q : UReg) (t : TReg) (slot : FSlot) (s : State) : Host.Outcome State Fault Refusal :=
  .next (s.command 0 (.wbmac q t slot) q fun s c => s.macTrap c slot 0)
/-- WBMACP (R275). -/
def execWbmacp (q : UReg) (t : TReg) (slot : FSlot) (plane : BitVec 3) (s : State) :
    Host.Outcome State Fault Refusal :=
  .next (s.command 0 (.wbmacp q t slot plane) q fun s c => s.macTrap c slot plane.toNat)
/-- WBLOAD (R276). -/
def execWbload (q : UReg) (slot : FSlot) (s : State) : Host.Outcome State Fault Refusal :=
  .next (s.command 0 (.wbload q slot) q fun s c => s.loadTrap c slot)
/-- WBSWAP reads only the node header and BBADDR (R277). -/
def execWbswap (q : UReg) (s : State) : Host.Outcome State Fault Refusal :=
  .next (s.command 0 (.wbswap q) q fun _ _ => none)
/-- WBZERO (R278). -/
def execWbzero (q : UReg) (t : TReg) (s : State) : Host.Outcome State Fault Refusal :=
  .next (s.command 0 (.wbzero q t) q fun _ c =>
    if fld c.w2 63 8 ≠ 0 || c.w3 ≠ 0 then some .ill else none)

/-! ### The start of a contraction (R260, R261, R273) -/

/-- The active bank (R258). -/
def Unit_.bank (u : Unit_) : Bank := if u.active then u.bank1 else u.bank0

/-- A list cut into pieces of n. -/
def pieces {α : Type} (n : Nat) : Nat → List α → List (List α)
  | 0, _ => []
  | fuel + 1, l => l.take n :: pieces n fuel (l.drop n)

/-- The 128 T codes of a packed row (R259). -/
def tCodes (bytes : List Byte) : List Nat :=
  bytes.flatMap fun b => [b.toNat % 4, b.toNat / 4 % 4, b.toNat / 16 % 4, b.toNat / 64 % 4]
/-- The value of a T code (R69). -/
def tVal (c : Nat) : Int := if c = 1 then 1 else if c = 3 then -1 else 0
/-- The rows of codes of a bank, up to row k. -/
def Bank.rowsTo (b : Bank) (k : Nat) : List (List Nat) := (pieces 32 k b.codes).map tCodes
/-- The exponents eB of each column. -/
def Bank.colExps (b : Bank) : List (List Int) := pieces (ceilDiv b.kb 16) 128 b.exps

/-- The smallest plane at and above which the bits of a value are all equal (R260). -/
def topPlane (v : Int) : Nat :=
  let m := if v < 0 then (-v - 1).toNat else v.toNat
  if m = 0 then 0 else Nat.log2 m + 1

/-- Row i of the A operand (R275): an INT8 byte, or a nibble, for each k. -/
def State.readA (s : State) (c : Cmd) (core ty i k : Nat) : Except (TrapCode × Nat) (List Int) :=
  let r := c.rec_ (fld c.w2 35 32)
  let first := i * fld c.w2 31 16
  if ty = 5 then (s.recElems c core r 1 first k).map fun bs => bs.map fun b => sintOf 8 b
  else (s.recElems c core r 1 first (ceilDiv k 2)).map fun bs =>
    ((bs.flatMap fun b => [sintOf 4 b, sintOf 4 (b / 16)]).take k)

/-- The exponents eA of row i (R261). -/
def State.readEA (s : State) (c : Cmd) (core : Nat) (f : Fmt) (i g : Nat) :
    Except (TrapCode × Nat) (List Int) :=
  if fmtScale f = 1 then
    (s.recElems c core (c.rec_ (fmtBuf f)) 1 (i * g) g).map fun bs => bs.map fun b => sintOf 8 b + fmtAdj f
  else .ok (List.replicate g (fmtAdj f))

/-- The rows of a mask, each read by a function; rows outside it are empty. -/
def readRows {α ε : Type} (m : Mask) (f : Nat → Except ε (List α)) : List Nat → Except ε (List (List α))
  | [] => .ok []
  | i :: t =>
    match (if m.getLsbD i then f i else .ok []), readRows m f t with
    | .ok x, .ok xs => .ok (x :: xs)
    | .error e, _ => .error e
    | _, .error e => .error e

/-- The shifts s = eA + eB − Et of row i: for each column, each block (R76). -/
def shifts (et : Int) (ea : List Int) (eb : List (List Int)) : List (List Int) :=
  eb.map fun col => (ea.zip col).map fun p => p.1 + p.2 - et

/-- The tile and slot of a contraction, and whether it may publish at a plane. -/
def Cmd.mac (c : Cmd) : Option (Nat × Fmt × Option Nat) :=
  match c.i with
  | .wbmac _ t f => some (t.toNat, c.fmt f, none)
  | .wbmacp _ t f p => some (t.toNat, c.fmt f, some p.toNat)
  | _ => none

/-- Starts a contraction: it reads A and its exponents, finds its top plane, decides whether it
publishes, takes its tag and counts what does not depend on its planes (R261, R267, R273). Nothing is
returned while a lineage rule holds it. -/
def State.startMac (s : State) (asid core : Nat) (c : Cmd) (dst : Nat) (f : Fmt) (pub : Option Nat) :
    Option State :=
  let u := s.unit asid core
  let bank := u.bank
  let k := fld c.w2 10 0 + 1
  let g := ceilDiv k 16
  if !bank.valid || k > bank.kb then some (s.failCmd asid core c .ill 0) else
  match readRows c.mask (fun i => s.readA c core (fmtType f) i k) (List.range 32),
        readRows c.mask (fun i => s.readEA c core f i g) (List.range 32) with
  | .error e, _ => some (s.failCmd asid core c e.1 e.2)
  | _, .error e => some (s.failCmd asid core c e.1 e.2)
  | .ok a, .ok ea =>
    let tile := u.tile dst
    let h := (a.flatMap id).foldl (fun m v => max m (topPlane v)) 0
    let sh := (lanesOf c.mask).flatMap fun i => (shifts tile.et (rd [] ea i) (bank.colExps)).flatMap id
    let big := sh.any (· > 15)
    let inex := (sh.filter (· < 0)).length
    let badt := ((bank.rowsTo k).map fun r => (r.filter (· = 2)).length).sum
    let at_ := min (pub.getD 0) h
    let tag := if at_ > 0 && !big then u.freeTag else none
    let skip := if at_ > 0 && tag.isNone then 1 else 0
    if u.isSource dst || (big && tile.linked &&& c.mask ≠ 0) || (tag.isSome && tile.links.length ≥ 4) then none
    else
      let s := s.count asid core 8 ((if fmtType f = 5 then 7 else 3) - h)
      let s := s.mapUnit asid core fun u =>
        u.mapCmd c.id fun c =>
          { c with st := .started, a := a, ea := ea, h := h, next := h, pub := at_, ltag := tag,
                   mx := [badt, inex, 0, skip, 0, 0] }
      some (match tag with
        | some n => s.mapUnit asid core fun u => u.mapTag n fun _ =>
            { live := true, cmd := some c.id, src := (core, c.id), lc := c.lc, tid := c.tid, node := c.node, mask := c.mask,
              ovf := fld f 13 12 }
        | none => s)

/-! ### A plane (R76, R77, R260, R261) -/

/-- The partial sums of a plane for one row: for each block, the 128 columns. -/
def planeSums (h q : Nat) (a : List Int) (brows : List (List Int)) : List (List Int) :=
  let w : Int := if q = h then -(2 ^ h) else 2 ^ q
  let terms := (a.zip brows).map fun (v, row) =>
    if (v / 2 ^ q) % 2 = 1 then row.map (w * ·) else row.map fun _ => 0
  (pieces 16 (ceilDiv a.length 16) terms).map fun blk =>
    blk.foldl (fun acc r => (acc.zip r).map fun p => p.1 + p.2) (List.replicate 128 0)

/-- A contribution P × 2^s, rounded to an integer under RNE when s < 0 (R76). -/
def contribution (p s : Int) : Int :=
  if s ≥ 0 then p * 2 ^ s.toNat
  else
    let m := (roundAt .rne (p < 0) p.natAbs 0 false (-s)).1
    if p < 0 then -(m : Int) else m

/-- Adds the blocks of one cell on a row that is not linked: the cell, and how often it saturated
(R77, R261). Where s is above 15 the cell takes the bound of the sign of the value it would have had; R77 names
none for the value 0, and the upper bound is taken (DESIGN CHOICE, notes/assumptions/56). -/
def addBlocks : Int → List (Int × Int) → Int × Nat
  | x, [] => (x, 0)
  | x, (p, s) :: t =>
    let v := x + contribution p s
    let (y, n) := if s > 15 then
        if p = 0 then (x, 0) else (if v < 0 then accMin else accMax, 1)
      else if accOk v then (v, 0) else (clamp48 v, 1)
    let (z, m) := addBlocks y t
    (z, n + m)

/-- The contributions of a plane to one row: for each column, each block's sum and shift. -/
def rowBlocks (et : Int) (h q : Nat) (a ea : List Int) (brows eb : List (List Int)) :
    List (List (Int × Int)) :=
  let ps := planeSums h q a brows
  let sh := shifts et ea eb
  (List.range 128).map fun j => (ps.map fun v => rd 0 v j).zip (rd [] sh j)

/-- The contributions of a command's plane: for each row, column and block. -/
def State.planeBlocks (s : State) (asid core : Nat) (c : Cmd) (dst q : Nat) : List (List (List (Int × Int))) :=
  let u := s.unit asid core
  let bank := u.bank
  let brows := (bank.rowsTo (fld c.w2 10 0 + 1)).map fun r => r.map tVal
  (List.range 32).map fun i =>
    if c.mask.getLsbD i then
      rowBlocks (u.tile dst).et c.h q (rd [] c.a i) (rd [] c.ea i) brows bank.colExps
    else []

/-- Adds a plane into the tile: linked rows exactly (R269), the others block by block with the
overflow policy (R77). -/
def Tile.addPlane (t : Tile) (m : Mask) (bs : List (List (List (Int × Int)))) : Tile × Nat :=
  let one (i : Nat) : List (Int × Nat) :=
    ((t.row i).zip (rd [] bs i)).map fun (x, ps) =>
      if t.linked.getLsbD i then (x + (ps.map fun p => contribution p.1 p.2).sum, 0) else addBlocks x ps
  let rows := (List.range 32).map fun i => if m.getLsbD i then (one i).map (·.1) else t.row i
  let sat := ((lanesOf m).map fun i => ((one i).map (·.2)).sum).sum
  ({ t with rows := rows }, sat)

/-- The prompts of a unit that still hold a place of the Prompter (R267). -/
def Unit_.promptsHeld (u : Unit_) : Nat :=
  (u.prompts.filter fun p => (u.tag p.tag).proxyOf.isNone && (!p.applied || !p.remote.isEmpty)).length

/-- Forms the prompt tile of a plane (R267). -/
def State.formPrompt (s : State) (asid core : Nat) (c : Cmd) (tag q : Nat)
    (bs : List (List (List (Int × Int)))) : State :=
  s.mapUnit asid core fun u =>
    { u with prompts := u.prompts ++
        [{ tag := tag, plane := q, mask := c.mask, remote := (u.tag tag).proxies,
           rows := bs.map fun r => r.map fun ps => (ps.map fun p => contribution p.1 p.2).sum }] }

/-- The end of a plane of a contraction: publication, and the end after plane 0 (R266, R267). -/
def State.afterPlane (s : State) (asid core : Nat) (c : Cmd) (dst q : Nat) : State :=
  let s := (s.count asid core 7 1).spend c.lc 0 (popMask c.mask)
  let s := match c.ltag with
    | some tag =>
      if q = c.pub then
        let s := s.mapTile asid core dst fun t =>
          { t with links := t.links ++ [({ tag := tag, coef := 1, rows := c.mask, plane := q } : Link)],
                   covers := if ((s.unit asid core).tag tag).ovf = 3 then
                       mergeCovers t.covers [{ src := (core, c.id), rows := c.mask, tid := c.tid, node := c.node, mask := c.mask }]
                     else t.covers }
        let s := s.mapUnit asid core fun u =>
          (u.mapTag tag fun g => { g with source := some dst, mx := c.mx }).mapCmd c.id fun c =>
            { c with published := true, mx := [], late := none }
        s.completeNode asid core { c with mx := [] }
      else s
    | none => s
  if q = 0 then
    match c.ltag with
    | some tag =>
      ((s.spendFree c.lc [3, 4, 5, 6]).mapUnit asid core fun u =>
        (u.mapTag tag fun g => { g with formed := true }).dropCmd c.id).retireDone asid core
    | none => s.finishCmd asid core c.id id
  else s.mapUnit asid core fun u => u.mapCmd c.id fun c => { c with next := q - 1 }

/-- BENCH_PLANE: the contraction that holds the array adds its next plane to the tile, or forms its
prompt tile (R261, R267). -/
def execBenchPlane (core asid : Nat) (s : State) : Host.Outcome State Fault Refusal :=
  .next (
    let u := s.unit asid core
    if !(s.domain asid).starts then s else
    match u.q0.find? fun c => c.st = .started && c.mac.isSome with
    | none => s
    | some c =>
      match c.mac with
      | none => s
      | some (dst, f, _) =>
        let q := c.next.toNat
        let bs := s.planeBlocks asid core c dst q
        -- a publication waits for its byte barrier's page (R220)
        let (s, waits) := if c.ltag.isSome && q = c.pub && c.bbcount ≠ 0 then s.cmdPage asid core c c.bbaddr .atomic else (s, false)
        if waits then s else
        match c.ltag, c.published with
        | some tag, true =>
          if u.promptsHeld ≥ 8 then s
          else (s.formPrompt asid core c tag q bs).afterPlane asid core c dst q
        | _, _ =>
          let (t, sat) := (u.tile dst).addPlane c.mask bs
          -- rows that have come to be linked since the start (R269)
          if (u.tile dst).linked &&& c.mask ≠ 0 && bs.any (fun r => r.any fun ps => ps.any fun p => p.2 > 15) then s
          else if t.rows.any fun r => r.any fun x => !wideOk x then s
          else
            let c := { c with mx := wr 0 c.mx 2 (rd 0 c.mx 2 + sat),
                              late := if sat > 0 && fmtOvf f = .trap then some .accovf else c.late }
            let s := (s.mapTile asid core dst fun _ => t).mapUnit asid core fun u => u.mapCmd c.id fun _ => c
            s.afterPlane asid core c dst q)

/-! ### The Prompter (R270) -/

/-- Whether a prompt tile is still to be applied to a holder, or handed to a proxy. -/
def Unit_.promptOwed (u : Unit_) (p : Prompt) : Bool :=
  !p.applied || !p.remote.isEmpty
  || u.tiles.any fun t => t.links.any fun k => k.tag = p.tag && k.plane = p.plane + 1

/-- PROMPT_APPLY: the first prompt tile that is owed, in the order of formation, is applied to every
local holder as one and handed on for every proxy tag; tags that are done retire (R270, R289). -/
def execPromptApply (core asid : Nat) (s : State) : Host.Outcome State Fault Refusal :=
  .next (
    let u := s.unit asid core
    if !(s.domain asid).starts then s else
    match findIdx? u.promptOwed u.prompts with
    | none => s
    | some n =>
      let p := rd { tag := 0, plane := 0, rows := [], mask := 0 } u.prompts n
      let s := s.mapUnit asid core fun u =>
        { u with tiles := u.tiles.map fun t => t.applyPrompt p,
                 prompts := u.prompts.modify n fun p => { p with applied := true, remote := [] } }
      let s := p.remote.foldl (fun s (tc, pt) => s.mapUnit asid tc fun u =>
        { u with prompts := u.prompts ++ [{ p with tag := pt, remote := (u.tag pt).proxies, applied := false }] }) s
      (s.count asid core 9 (if p.applied then 0 else 1)).retireDone asid core)

end Sys2Proof.Machine
end

