-- ==== Sys2Proof/Machine/Buf.lean ====
section
/-! DEFINITION. Making and narrowing buffer records: major 0x29 (R236, R237, R214). -/

namespace Sys2Proof.Machine

/-- BUFSET: the two registers as a record; it lends nothing (R236, R214). -/
def execBufset (d : BReg) (a : UReg) (s : State) : Host.Outcome State Fault Refusal :=
  .next (s.uniform none false fun s =>
    let x : BitVec 128 := s.quadReg a 1 ++ s.ureg a
    if badRecord x then s.trapWave .ill
    else if x.getLsbD 63 then s.trapWave .perm
    else s.setB d { bits := x, lender := none })

/-- BUFGET (R236). -/
def execBufget (d : UReg) (a : BReg) (s : State) : Host.Outcome State Fault Refusal :=
  .next (s.uniform none false fun s =>
    let x := (s.breg a).bits
    s.setU2 d (x.extractLsb' 0 64) (x.extractLsb' 64 64))

/-- The narrowed record of BUFNAR (R237). -/
def narrow (r : BufRec) (base count : Nat) (keep : Dword) : BufRec :=
  let x := r.bits
  let ext : BitVec 32 := BitVec.ofNat 32 count
  let rw : BitVec 2 := BitVec.ofNat 2 ((if r.w && keep.getLsbD 1 then 2 else 0) + if r.r && keep.getLsbD 0 then 1 else 0)
  { r with bits := ext ++ x.extractLsb' 62 34 ++ rw ++ x.extractLsb' 57 3 ++ BitVec.ofNat 57 base }

/-- BUFNAR: no element and no permission beyond those of its source (R237). -/
def execBufnar (d a : BReg) (b : UReg) (s : State) : Host.Outcome State Fault Refusal :=
  .next (s.uniform none false fun s =>
    let r := s.breg a
    let keep := s.quadReg b 1
    let start := fld (s.ureg b) 31 0
    let count := fld (s.ureg b) 63 32
    let by_ := start * r.stride * 2 ^ r.esize
    if fld keep 63 2 ≠ 0 then s.trapWave .ill
    else if start + count > r.extent then s.trapWave .bounds
    else if r.base + by_ ≥ 2 ^ 57 then s.trapWave .bounds
    else if r.stash && r.base % 2 ^ 20 + by_ ≥ 2 ^ 20 then s.trapWave .bounds
    else s.setB d (narrow r (r.base + by_) count keep))

end Sys2Proof.Machine
end

