-- ==== Sys2Proof/Machine/Cast.lean ====
section
/-! DEFINITION. Cast membership and barriers: major 0x06 (R164 to R170, R44, R45). -/

namespace Sys2Proof.Machine

/-- Whether a region is open on cast m of the thread's launch-on-core (R311). -/
def State.regionOn (s : State) (m : Nat) : Bool :=
  match (s.unitOf s.cur.tid).region with
  | some r => r.lc = s.cur.old.lc && r.cast = m
  | none => false

/-- A CAST word of cast m: it traps RLXBAD for the wave while a region is open on that cast (R311). -/
def State.castWord (s : State) (m : Option Nat) (eff : State → State) : State :=
  s.uniform (some 2) false fun s =>
    if m.any fun m => s.regionOn m then s.trapWave .rlxbad else eff s

/-- Removes a thread from its cast; the cast dissolves with its last member (R45, R166). -/
def State.leaveCast (s : State) (tid : Nat) : State :=
  let t := s.thread tid
  match t.cast with
  | none => s
  | some m =>
    let s := s.castDrop tid t.participating
    let s := s.mapThread tid fun t =>
      { (t.mapLanes fun _ L => { L with arrived := false }) with cast := none, lastph := none }
    if s.threads.any fun x => x.inCast t.lc m then s else s.mapCast t.lc m fun _ => {}

/-- Records an arrival of lanes in the open phase of cast m, opening one if none is open (R165, R167):
the phase. -/
def State.recordArrival (s : State) (m : Nat) : State × Nat :=
  let lc := s.cur.old.lc
  let c := s.castOf lc m
  let act := s.cur.mask
  let s := if c.open_ then s else s.mapCast lc m fun c =>
    { c with open_ := true, target := s.castCount lc m, arrived := 0 }
  let s := s.mapCast lc m fun c => { c with arrived := c.arrived + popMask act }
  let again := s.cur.old.lastph = some c.phase
  let s := s.mapMe fun t =>
    { (t.mapLanes fun l L => { L with arrived := act.getLsbD l || (again && L.arrived) }) with
      lastph := some c.phase }
  (s.castCheck lc m, c.phase)

/-- The arrival of ARRIVE and BARW, with its traps and waits (R45, R167): `done` receives the phase. -/
def State.arrive (s : State) (m : Nat) (done : State → Nat → State) : State :=
  let t := s.cur.old
  if t.cast ≠ some m then s.trapWave .ill
  else s.await (.joined m) fun s =>
    s.await (.fence .core) fun s =>
      let c := s.castOf t.lc m
      let mine := t.lanesWith fun L => L.arrived
      if c.open_ && t.lastph = some c.phase && mine &&& s.cur.mask ≠ 0 then s.trapWave .ill
      else
        let (s, ph) := s.recordArrival m
        done s ph

/-- JOIN m (R166). -/
def execJoin (m : BitVec 4) (s : State) : Host.Outcome State Fault Refusal :=
  .next (s.castWord (some m.toNat) fun s =>
    let t := s.cur.old
    if t.cast.isSome then s.trapWave .ill else
    let c := s.castOf t.lc m.toNat
    let s := s.mapCast t.lc m.toNat fun c => { c with exist := true }
    s.mapMe fun t =>
      { t with cast := some m.toNat, lastph := none, joinph := if c.open_ then c.phase + 1 else c.phase })

/-- LEAVE (R166). -/
def execLeave (s : State) : Host.Outcome State Fault Refusal :=
  .next (s.castWord s.cur.old.cast fun s =>
    if s.cur.old.cast.isNone then s.trapWave .ill else s.leaveCast s.cur.tid)

/-- ARRIVE m (R167). -/
def execArrive (m : BitVec 4) (s : State) : Host.Outcome State Fault Refusal :=
  .next (s.castWord (some m.toNat) fun s => s.arrive m.toNat fun s _ => s)

/-- BARW m: an arrival, and then a wait for its phase (R167). -/
def execBarw (m : BitVec 4) (s : State) : Host.Outcome State Fault Refusal :=
  .next (s.castWord (some m.toNat) fun s =>
    match s.cur.old.inBarw with
    | some (n, ph) => s.await (.phase n ph) id
    | none => s.arrive m.toNat fun s ph =>
        (s.mapMe fun t => { t with inBarw := some (m.toNat, ph) }).await (.phase m.toNat ph) id)

/-- WAITB m: waits until the phase in which the wave last arrived has completed (R167). -/
def execWaitb (m : BitVec 4) (s : State) : Host.Outcome State Fault Refusal :=
  .next (s.castWord (some m.toNat) fun s =>
    let t := s.cur.old
    if t.cast ≠ some m.toNat then s.trapWave .ill
    else
      match t.lastph with
      | none => s
      | some ph => s.await (.phase m.toNat ph) id)

/-- CASTQ: the state of cast m (R169). -/
def execCastq (d : UReg) (m : BitVec 4) (s : State) : Host.Outcome State Fault Refusal :=
  .next (s.uniform (some 2) false fun s =>
    let lc := s.cur.old.lc
    let c := s.castOf lc m.toNat
    let members := (s.threads.filter fun t => t.inCast lc m.toNat).length
    s.setU d (if c.exist then
        BitVec.ofNat 64 (members + (if c.open_ then 2 ^ 7 + 2 ^ 8 * c.target + 2 ^ 20 * c.arrived else 0)
          + 2 ^ 32 * (c.phase % 2 ^ 32))
      else 0))

end Sys2Proof.Machine
end

