-- ==== Sys2Proof/Machine/Control.lean ====
section
/-! DEFINITION. Control and lane flow: majors 0x00 to 0x05 (R149 to R163). -/

namespace Sys2Proof.Machine

/-! ### Call stacks (R152) -/

/-- The element of b13 that holds spill number e of a lane (R152). -/
def spillElem (lead : Bool) (l e : Nat) : Nat := if lead then e else e * 32 + l

/-- PushRet and the branch, for the lanes of Active(): a lane with a full on-chip stack stores its
oldest entry through b13, as a plain store (R91, R103, R152). `bad` are lanes that trap for their own target. The traps of a spill fall on
its lane alone; in a callee a spill through a stash record traps GATE (R345). -/
def State.callAll (s : State) (ret : Nat) (tgt : Nat → Nat) (bad : List Taken) : State :=
  let t := s.cur.old
  let rec13 := t.brec 13
  let lanes := (lanesOf s.cur.mask).filter fun l => !(bad.any fun x => x.lane = l)
  let deep := lanes.filter fun l => (t.lane l).cstk.length ≥ 4
  let nest := (deep.filter fun l => (t.lane l).spill = 65535).map fun l => { lane := l, code := .nest : Taken }
  let spills := deep.filter fun l => (t.lane l).spill ≠ 65535
  let gate := s.stashGate rec13
  let gated := if gate then spills.map fun l => { lane := l, code := .gate, detail := 5 : Taken } else []
  let ps := if gate then [] else spills.map fun l =>
    (l, s.checkAccess t rec13 (spillElem t.isLead l (t.lane l).spill) 4 .store false true)
  let go (s : State) : State :=
    let s := s.reserve ps
    let xs := (s.judge t.lc ps .store).map fun x => { x with stack := true }
    s.trapping (bad ++ nest ++ gated ++ xs) fun s =>
      let ps := ps.filter fun p => s.cur.mask.getLsbD p.1
      let s := s.storeAll s.cur.tid ps (fun l => bytesOf 4 (rd 0 (t.lane l).cstk 0).toNat) false
      s.mapActive fun l L =>
        let full := L.cstk.length ≥ 4
        { L with cstk := (if full then L.cstk.drop 1 else L.cstk) ++ [BitVec.ofNat 32 ret],
                 spill := if full then L.spill + 1 else L.spill,
                 npc := BitVec.ofNat 32 (tgt l) }
  if deep.isEmpty then go s else s.await (.held s.cur.mask) go

/-- The lanes of Active() whose on-chip stack is empty and that refill from the spill area. -/
def State.refilling (s : State) : List Nat :=
  (lanesOf s.cur.mask).filter fun l =>
    let L := s.cur.old.lane l
    L.cstk.isEmpty && L.spill ≠ 0

/-- The places of the refills of a RET: nothing through a stash record in a callee, where it traps GATE. -/
def State.refillPlaces (s : State) : Lanes :=
  let t := s.cur.old
  if s.stashGate (t.brec 13) then [] else
  s.refilling.map fun l =>
    (l, s.checkAccess t (t.brec 13) (spillElem t.isLead l ((t.lane l).spill - 1)) 4 .load false true)

/-- PopRet of a lane, with the lines read for the refills: the return address, or the trap of an empty stack or of the
refill (R152, R156). -/
def State.popRet (s : State) (ps : Lanes) (got : List ((Nat × Nat) × List Byte)) (l : Nat) : Except Taken Nat :=
  let t := s.cur.old
  let L := t.lane l
  match L.cstk.getLast? with
  | some a => .ok a.toNat
  | none =>
    if L.spill = 0 then .error { lane := l, code := .ill }
    else match ps.find? fun p => p.1 = l with
    | none => .error { lane := l, code := .gate, detail := 5 }
    | some p =>
      match s.judge t.lc [p] .load with
      | x :: _ => .error { x with stack := true }
      | [] => .ok (p.2.inLines got 4)

/-- Reads the lines of the refills of a RET that trap in no lane, each once, with the lease of b13 (R152, R220). -/
def State.refill (s : State) (ps : Lanes) : State × List ((Nat × Nat) × List Byte) :=
  s.readLines s.cur.tid (leaseTicks (s.cur.old.brec 13).lease)
    (linesOf (ps.filter fun p => (s.judge s.cur.old.lc [p] .load).isEmpty))

/-! ### CTL (R109, R153 to R158) -/

/-- NOP changes no state (R109). -/
def execNop (s : State) : Host.Outcome State Fault Refusal := .next s

/-- EXIT retires the lanes of Active(), which leave their cast (R53, R45, R154). -/
def execExit (s : State) : Host.Outcome State Fault Refusal :=
  .next (s.laneWise (some 1) false fun s =>
    let s := s.castDrop s.cur.tid s.cur.mask
    (s.mapActive fun _ L => { L with st := .exited }).mapMe fun t =>
      { t with exitPc := BitVec.ofNat 32 s.cur.pc })

/-- YIELD marks the wave for the next choice on its core (R155). -/
def execYield (s : State) : Host.Outcome State Fault Refusal :=
  .next (s.laneWise none false fun s =>
    if s.cur.mask = 0 then s else s.mapMe fun t => { t with yielded := true })

/-- RET pops one return address for each lane of Active(). A refill waits as a plain load does (R152, R156). -/
def execRet (s : State) : Host.Outcome State Fault Refusal :=
  .next (s.laneWise none true fun s =>
    let t := s.cur.old
    let ps := s.refillPlaces
    let go (s : State) : State :=
      let (s, got) := s.refill ps
      let xs := (lanesOf s.cur.mask).filterMap fun l =>
        match s.popRet ps got l with
        | .error x => some x
        | .ok a => if t.codeAddr a then none else some { lane := l, code := .ill }
      s.trapping xs fun s' => s'.mapActive fun l L =>
        { L with cstk := L.cstk.dropLast, spill := if L.cstk.isEmpty then L.spill - 1 else L.spill,
                 npc := match s.popRet ps got l with | .ok a => BitVec.ofNat 32 a | .error _ => L.npc }
    if ps.isEmpty then go s
    else s.await (.held s.cur.mask) fun s => (s.reserve ps).awaitLines ps go)

/-- BKPT parks the lanes of Active() (R157). -/
def execBkpt (s : State) : Host.Outcome State Fault Refusal :=
  .next (s.laneWise none true fun s => s.trapLanes s.cur.mask .bkpt id)

/-- TRAP parks the lanes of Active() (R157). -/
def execTrap (s : State) : Host.Outcome State Fault Refusal :=
  .next (s.laneWise none true fun s => s.trapLanes s.cur.mask .swtrap id)

/-- WAITEV waits for one of the events of its mask and clears them (R158). -/
def execWaitev (a : UReg) (s : State) : Host.Outcome State Fault Refusal :=
  .next (s.uniform (some 2) false fun s =>
    let x := s.ureg a
    let m : BitVec 16 := x.extractLsb' 0 16
    if fld x 63 16 ≠ 0 then s.trapWave .ill
    else if m = 0 then s
    else s.await (.event m) fun s => s.mapMe fun t => { t with evp := t.evp &&& ~~~ m })

/-! ### BR, JIND and LOOP (R111, R159 to R161) -/

/-- BRA: every lane of Active() takes the target (R159). -/
def execBra (off : BitVec 18) (s : State) : Host.Outcome State Fault Refusal :=
  .next (s.uniform none true fun s => s.branch fun _ => targetPc s.cur.pc off.toInt)

/-- BRT: the lanes whose predicate is true take the target (R159). -/
def execBrt (p : PReg) (off : BitVec 18) (s : State) : Host.Outcome State Fault Refusal :=
  .next (s.laneWise none true fun s => s.branch fun l =>
    if s.preg l p then targetPc s.cur.pc off.toInt else s.fallPc)

/-- BRF: the lanes whose predicate is false take the target (R159). -/
def execBrf (p : PReg) (off : BitVec 18) (s : State) : Host.Outcome State Fault Refusal :=
  .next (s.laneWise none true fun s => s.branch fun l =>
    if s.preg l p then s.fallPc else targetPc s.cur.pc off.toInt)

/-- BRANY: all take the target if any lane's predicate is true (R159). -/
def execBrany (p : PReg) (off : BitVec 18) (s : State) : Host.Outcome State Fault Refusal :=
  .next (s.uniform none true fun s => s.branch fun _ =>
    if (lanesOf s.cur.mask).any fun l => s.preg l p then targetPc s.cur.pc off.toInt else s.fallPc)

/-- BRALL: all take the target if every lane's predicate is true (R159). -/
def execBrall (p : PReg) (off : BitVec 18) (s : State) : Host.Outcome State Fault Refusal :=
  .next (s.uniform none true fun s => s.branch fun _ =>
    if (lanesOf s.cur.mask).all fun l => s.preg l p then targetPc s.cur.pc off.toInt else s.fallPc)

/-- CALL pushes n and takes the target (R159). -/
def execCall (off : BitVec 18) (s : State) : Host.Outcome State Fault Refusal :=
  .next (s.laneWise none true fun s => s.callAll s.fallPc (fun _ => targetPc s.cur.pc off.toInt) [])

/-- JMPI: every lane of Active() takes the address in a uniform register (R160). -/
def execJmpi (a : UReg) (s : State) : Host.Outcome State Fault Refusal :=
  .next (s.uniform none true fun s =>
    let x := (s.ureg a).toNat
    if x < 2 ^ 32 && s.cur.old.codeAddr x then s.branch fun _ => x else s.trapWave .ill)

/-- CALLI: each lane of Active() calls the address in its source (R160). -/
def execCalli (a : Src) (s : State) : Host.Outcome State Fault Refusal :=
  .next (s.laneWise none true fun s =>
    let bad := (lanesOf s.cur.mask).filterMap fun l =>
      if s.cur.old.codeAddr (s.src l a).toNat then none else some { lane := l, code := .ill }
    s.callAll s.fallPc (fun l => (s.src l a).toNat) bad)

/-- LOOP counts down and takes the backward target until the count is used up (R161). -/
def execLoop (d : UReg) (imm : BitVec 10) (s : State) : Host.Outcome State Fault Refusal :=
  .next (s.uniform none true fun s =>
    let x := s.ureg d
    if x.toNat ≤ 1 then (s.setU d 0).branch fun _ => s.fallPc
    else (s.setU d (x - 1)).branch fun _ => targetPc s.cur.pc (-(imm.toNat : Int)))

/-- GUARD leaves the word chained after it to the lanes whose predicate meets the sense (R162). -/
def execGuard (p : PReg) (sense : Bool) (s : State) : Host.Outcome State Fault Refusal :=
  .next { s with cur := { s.cur with guard := some (maskOf fun l => s.preg l p == !sense) } }

/-! ### PRED (R163) -/

/-- PAND. -/
def execPand (d a b : PReg) (s : State) : Host.Outcome State Fault Refusal :=
  .next (s.laneWise none true fun s => s.setPred d fun l => s.preg l a && s.preg l b)
/-- POR. -/
def execPor (d a b : PReg) (s : State) : Host.Outcome State Fault Refusal :=
  .next (s.laneWise none true fun s => s.setPred d fun l => s.preg l a || s.preg l b)
/-- PXOR. -/
def execPxor (d a b : PReg) (s : State) : Host.Outcome State Fault Refusal :=
  .next (s.laneWise none true fun s => s.setPred d fun l => s.preg l a != s.preg l b)
/-- PANDN. -/
def execPandn (d a b : PReg) (s : State) : Host.Outcome State Fault Refusal :=
  .next (s.laneWise none true fun s => s.setPred d fun l => s.preg l a && !s.preg l b)
/-- PMOV. -/
def execPmov (d a : PReg) (s : State) : Host.Outcome State Fault Refusal :=
  .next (s.laneWise none true fun s => s.setPred d fun l => s.preg l a)
/-- PTOV writes 1 or 0; pipe B pushes no latch (R120, R163). -/
def execPtov (d : LReg) (a : PReg) (s : State) : Host.Outcome State Fault Refusal :=
  .next (s.laneWise none true fun s => s.setGroup d.toNat fun l => [if s.preg l a then 1 else 0])
/-- BALLOT gathers the predicate of the lanes of Active(). -/
def execBallot (d : UReg) (a : PReg) (s : State) : Host.Outcome State Fault Refusal :=
  .next (s.uniform none true fun s =>
    s.setU d ((maskOf fun l => s.cur.mask.getLsbD l && s.preg l a).setWidth 64))
/-- VOTE: whether the predicate holds in every lane of Active(). -/
def execVote (d a : PReg) (s : State) : Host.Outcome State Fault Refusal :=
  .next (s.laneWise none true fun s => s.setPred d fun _ =>
    (lanesOf s.cur.mask).all fun l => s.preg l a)

end Sys2Proof.Machine
end

