-- ==== Sys2Proof/Machine/Real.lean ====
section
/-! DEFINITION. The correctly rounded functions of R80. A quotient or a root is formed with a sticky
mark. FEXP2, FLOG2, FTANH and FSIN2PI are bracketed in fixed point at rising precision until the
bracket holds no multiple of the last place asked for; the exact value of each of their results that
is no dyadic number is irrational, so every bracket closes at some precision; that the six precisions
tried suffice for every FP32 operand is notes/assumptions/16. -/

namespace Sys2Proof.Machine

/-- A real magnitude: (m, and a little more when sticky) × 2^e. -/
structure Mag where
  m : Nat
  e : Int
  sticky : Bool := false
  deriving DecidableEq, Repr

/-- a / b for positive b, with at least 64 significant bits. -/
def divMag (m1 : Nat) (e1 : Int) (m2 : Nat) (e2 : Int) : Mag :=
  let k := 64 + Nat.log2 m2 + 1
  let n := m1 <<< k
  ⟨n / m2, e1 - e2 - k, n % m2 ≠ 0⟩

/-- √(m × 2^e), with at least 64 significant bits. -/
def sqrtMag (m : Nat) (e : Int) : Mag :=
  let odd := e % 2 ≠ 0
  let m := if odd then m * 2 else m
  let e := if odd then e - 1 else e
  let n := m <<< 128
  let r := Nat.sqrt n
  ⟨r, e / 2 - 64, r * r ≠ n⟩

/-- Rounds a magnitude to FP32 under RNE (R80). -/
def Mag.toF32 (x : Mag) (neg : Bool) : Word × Flags := wf32 (fp32.arith .rne neg x.m x.e x.sticky)

/-! ### Fixed-point brackets

Each function answers an approximation A at scale 2^p and a bound E with |A − true × 2^p| ≤ E. -/

/-- Σ t^i / i! for i < n, t in fixed point below 2^p. -/
def expSum (p t : Nat) : Nat → Nat → Nat → Nat → Nat
  | 0, _, _, acc => acc
  | n + 1, i, term, acc => expSum p t n (i + 1) (((term * t) >>> p) / (i + 1)) (acc + term)

/-- exp of t/2^p for 0 ≤ t < 2^p, within 1024 units. -/
def expFix (p t : Nat) : Nat := expSum p t (p / 3 + 10) 0 (1 <<< p) 0

/-- Σ z^(2i+1) / (2i+1) for i < n. -/
def atanhSum (p z2 : Nat) : Nat → Nat → Nat → Nat → Nat
  | 0, _, _, acc => acc
  | n + 1, i, pw, acc => atanhSum p z2 n (i + 2) ((pw * z2) >>> p) (acc + pw / i)

/-- 2 × atanh(a / b) for 0 ≤ a/b ≤ 1/3, within 512 units. -/
def atanh2 (p a b : Nat) : Nat :=
  let z := (a <<< p) / b
  2 * atanhSum p ((z * z) >>> p) (p / 3 + 8) 1 z 0

/-- ln 2, within 512 units. -/
def ln2Fix (p : Nat) : Nat := atanh2 p 1 3

/-- Σ ± z^(2i+1) / (2i+1) for z = 1/b. -/
def atanSum (b2 : Nat) : Nat → Nat → Nat → Bool → Int → Int
  | 0, _, _, _, acc => acc
  | n + 1, i, pw, s, acc => atanSum b2 n (i + 2) (pw / b2) (!s) (if s then acc - (pw / i : Nat) else acc + (pw / i : Nat))

/-- π by Machin's formula, within 2^12 units. -/
def piFix (p : Nat) : Nat :=
  let at_ (b : Nat) : Int := atanSum (b * b) (p / 4 + 8) 1 ((1 <<< p) / b) false 0
  (16 * at_ 5 - 4 * at_ 239).toNat

/-- Σ ± t^(2i+1) / (2i+1)!. -/
def sinSum (p t2 : Nat) : Nat → Nat → Nat → Bool → Int → Int
  | 0, _, _, _, acc => acc
  | n + 1, i, term, s, acc =>
    sinSum p t2 n (i + 2) ((term * t2) >>> p / ((i + 1) * (i + 2))) (!s)
      (if s then acc - term else acc + term)

/-- The first precision of a list at which a bracket closes: `f p` answers A and E at scale 2^p, and
the result is ⌊true × 2^k⌋; none where no precision of the list closes it. -/
def ziv (k : Nat) (f : Nat → Nat × Nat) : List Nat → Option Nat
  | [] => none
  | p :: ps =>
    let (a, e) := f p
    let lo := (a - e) >>> (p - k)
    let hi := (a + e) >>> (p - k)
    if lo = hi then some lo else ziv k f ps

/-- The precisions tried above a base. -/
def precisions (b : Nat) : List Nat := [b + 32, b + 64, b + 96, b + 160, b + 256, b + 512]

/-- 2^f for 0 < f < 1, f = m × 2^-d. -/
def exp2Frac (m d : Nat) : Option Mag :=
  (ziv 64 (fun p => (expFix p ((((m <<< p) >>> d) * ln2Fix p) >>> p), 2 ^ 13)) (precisions 64)).map fun n => ⟨n, -64, true⟩

/-- log2 of y = m × 2^-d in (1, 2), as a fraction at scale 2^k. -/
def log2Frac (k m d : Nat) : Option Nat :=
  ziv k (fun p =>
    let l := atanh2 p (m - 1 <<< d) (m + 1 <<< d)
    ((l <<< p) / ln2Fix p, 2 ^ 12)) (precisions k)

/-- Squares a bracket n times. -/
def squareN (p : Nat) : Nat → Nat × Nat → Nat × Nat
  | 0, x => x
  | n + 1, (lo, hi) => squareN p n ((lo * lo) >>> p, ((hi * hi) >>> p) + 1)

/-- tanh of x = m × 2^e, 2^-14 ≤ x < 16, at scale 2^64, of the first precision of a list whose bracket closes. -/
def tanhFix (m : Nat) (e : Int) : List Nat → Option Nat
  | [] => none
  | p :: ps =>
    -- t = 2x / 64 < 1/2
    let sh := (p : Int) + e - 5
    let t := if sh ≥ 0 then m <<< sh.toNat else m >>> (-sh).toNat
    let x := expFix p t
    let (lo, hi) := squareN p 6 (x - 1024, x + 1024)
    let one := 1 <<< p
    let a := ((lo - one) <<< 64) / (lo + one)
    let b := ((hi - one) <<< 64) / (hi + one)
    if a = b then some a else tanhFix m e ps

/-- sin(2πf) for 0 < f ≤ 1/4, f = m × 2^-d, as a magnitude. -/
def sinFrac (m d : Nat) : Option Mag :=
  let k := 64 + (d - Nat.log2 m)
  (ziv k (fun p =>
    let t := (((m <<< p) >>> d) * (2 * piFix p)) >>> p
    let t2 := (t * t) >>> p
    ((sinSum p t2 (p / 8 + 24) 1 t false 0).toNat, 2 ^ 16)) (precisions k)).map fun n => ⟨n, -(k : Int), true⟩

/-! ### The functions of R80 -/

/-- The canonical FP32 NaN. -/
def nan32 : Word := 0x7FC00000
/-- An FP32 infinity. -/
def inf32 (neg : Bool) : Word := w32 (fp32.infCode neg)
/-- An FP32 zero. -/
def zero32 (neg : Bool) : Word := w32 (fp32.sign neg)
/-- A NaN result of a NaN operand: NV only if it was signalling. -/
def nanOf (vs : List Val) : Word × Flags := (nan32, sigFlags vs)

/-- a / b (R80). -/
def fdiv32 (a b : Word) : Word × Flags :=
  match dec32 a, dec32 b with
  | .nan s, y => nanOf [.nan s, y]
  | x, .nan s => nanOf [x, .nan s]
  | .inf _, .inf _ => (nan32, fNV)
  | .inf n, y => (inf32 (n != y.neg), 0)
  | x, .inf k => (zero32 (x.neg != k), 0)
  | .fin n1 m1 e1, .fin n2 m2 e2 =>
    if m2 = 0 then if m1 = 0 then (nan32, fNV) else (inf32 (n1 != n2), fDZ)
    else if m1 = 0 then (zero32 (n1 != n2), 0)
    else (divMag m1 e1 m2 e2).toF32 (n1 != n2)

/-- 1 / a (R80). -/
def frcp32 (a : Word) : Word × Flags := fdiv32 0x3F800000 a

/-- √a (R80). -/
def fsqrt32 (a : Word) : Word × Flags :=
  match dec32 a with
  | .nan s => nanOf [.nan s]
  | .inf n => if n then (nan32, fNV) else (inf32 false, 0)
  | .fin n m e =>
    if m = 0 then (a, 0) else if n then (nan32, fNV) else (sqrtMag m e).toF32 false

/-- 1 / √a (R80): 1/√x = √(1/x), formed as the root of a quotient with 192 significant bits. -/
def frsq32 (a : Word) : Word × Flags :=
  match dec32 a with
  | .nan s => nanOf [.nan s]
  | .inf n => if n then (nan32, fNV) else (zero32 false, 0)
  | .fin n m e =>
    if m = 0 then (inf32 n, fDZ) else if n then (nan32, fNV) else
      let odd := e % 2 ≠ 0
      let m := if odd then m * 2 else m
      let e := if odd then e - 1 else e
      let q := (1 <<< 192) / m
      let r := Nat.sqrt q
      (Mag.toF32 ⟨r, -(e / 2) - 96, r * r * m ≠ 1 <<< 192⟩ false)

/-- The result of a function whose bracket closed. That no bracket stays open for an FP32 operand is
notes/assumptions/16; the NaN is never seen. -/
def ofClosed (o : Option (Word × Flags)) : Word × Flags := o.getD (nan32, 0)

/-- 2^a (R80), where its bracket closes. -/
def fexp2Closed (a : Word) : Option (Word × Flags) :=
  match dec32 a with
  | .nan s => some (nanOf [.nan s])
  | .inf n => some (if n then zero32 false else inf32 false, 0)
  | .fin n m e =>
    if m = 0 then some (0x3F800000, 0)
    else if (Nat.log2 m : Int) + e ≥ 8 then
      -- |a| ≥ 256: beyond both ends of the range
      some (if n then Mag.toF32 ⟨1, -200, true⟩ false else Mag.toF32 ⟨1, 200, false⟩ false)
    else if (Nat.log2 m : Int) + e < -40 then
      -- 2^a lies strictly between 1 and a neighbour closer than any rounding boundary
      some (if n then Mag.toF32 ⟨2 ^ 36 - 1, -36, true⟩ false else Mag.toF32 ⟨2 ^ 36, -36, true⟩ false)
    else
      let d := if e < 0 then (-e).toNat else 0
      let m := if e < 0 then m else m <<< e.toNat
      let i : Int := (m >>> d : Nat)
      let f := m % 2 ^ d
      if f = 0 then some (Mag.toF32 ⟨1, if n then -i else i, false⟩ false)
      else
        let (i, f) := if n then (-i - 1, 2 ^ d - f) else (i, f)
        (exp2Frac f d).map fun y => Mag.toF32 { y with e := y.e + i } false
/-- 2^a (R80). -/
def fexp232 (a : Word) : Word × Flags := ofClosed (fexp2Closed a)

/-- log2 a (R80), where its bracket closes. -/
def flog2Closed (a : Word) : Option (Word × Flags) :=
  match dec32 a with
  | .nan s => some (nanOf [.nan s])
  | .inf n => some (if n then (nan32, fNV) else (inf32 false, 0))
  | .fin n m e =>
    if m = 0 then some (inf32 true, fDZ) else if n then some (nan32, fNV) else
      let d := Nat.log2 m
      let i : Int := (d : Int) + e
      if m = 2 ^ d then some (wf32 (fp32.arith .rne (i < 0) i.natAbs 0))
      else
        let k := 96
        (log2Frac k m d).map fun f =>
          let s : Int := i * 2 ^ k + f
          -- the exact value lies strictly between s and s + 1
          if s ≥ 0 then Mag.toF32 ⟨s.toNat, -96, true⟩ false
          else Mag.toF32 ⟨(-s).toNat - 1, -96, true⟩ true
/-- log2 a (R80). -/
def flog232 (a : Word) : Word × Flags := ofClosed (flog2Closed a)

/-- tanh a (R80), where its bracket closes. -/
def ftanhClosed (a : Word) : Option (Word × Flags) :=
  match dec32 a with
  | .nan s => some (nanOf [.nan s])
  | .inf n => some (if n then 0xBF800000 else 0x3F800000, 0)
  | .fin n m e =>
    let x : Int := (Nat.log2 m : Int) + e
    if m = 0 then some (a, 0)
    else if x < -14 then some (Mag.toF32 ⟨4 * m - 1, e - 2, true⟩ n)
    else if x ≥ 4 then some (Mag.toF32 ⟨2 ^ 26 - 1, -26, true⟩ n)
    else (tanhFix m e (precisions 96)).map fun q => Mag.toF32 ⟨q, -64, true⟩ n
/-- tanh a (R80). -/
def ftanh32 (a : Word) : Word × Flags := ofClosed (ftanhClosed a)

/-- sin(2πa) (R80), where its bracket closes. -/
def fsin2piClosed (a : Word) : Option (Word × Flags) :=
  match dec32 a with
  | .nan s => some (nanOf [.nan s])
  | .inf _ => some (nan32, fNV)
  | .fin n m e =>
    if e ≥ 0 then some (zero32 n, 0) else
      let d := (-e).toNat
      let f := m % 2 ^ d
      -- f / 2^d in [0, 1)
      let h := 2 ^ (d - 1)
      if f = 0 || f = h then some (zero32 n, 0)
      else
        let neg := n != decide (f > h)
        let g := f % h
        -- sin on the half turn [0, 1/2): fold to (0, 1/4]
        let g := if 4 * g > 2 ^ d then h - g else g
        if 4 * g = 2 ^ d then some (if neg then 0xBF800000 else 0x3F800000, 0)
        else (sinFrac g d).map fun y => y.toF32 neg
/-- sin(2πa) (R80). -/
def fsin2pi32 (a : Word) : Word × Flags := ofClosed (fsin2piClosed a)

end Sys2Proof.Machine
end

