-- ==== Sys2Proof/Machine/Float.lean ====
section
/-! DEFINITION. Floating-point words of lanes: majors 0x18 to 0x1C and 0x1E (R187 to R197, R204,
R205). Each result is a function on bit patterns with the flags it raises; the meaning reads the
sources and FMODE.RM as they stood, writes the lanes of Active(), pushes the pipe's latch pair and
ORs the flags. -/

namespace Sys2Proof.Machine

/-! ### Results -/

/-- FMODE.RM of the thread as it stood (R82, R205). -/
def State.rm (s : State) : Rnd := rndOf s.cur.old.rm

/-- An FP32 pattern with its sign inverted. -/
def fneg32 (x : Word) : Word := x ^^^ 0x80000000

/-- Whether value x of pattern p orders before value y of pattern q, with −0 below +0 (R190). -/
def Val.before (x y : Val) : Bool :=
  if x.isZero && y.isZero then x.neg && !y.neg else x.cmp y = .lt

/-- FMIN or FMAX of two codes of a type (R190). -/
def FSpec.minMax (t : FSpec) (isMax : Bool) (a b : Nat) : Nat × Flags :=
  let x := t.dec a
  let y := t.dec b
  let f := sigFlags [x, y]
  if x.isNan && y.isNan then (t.nan, f)
  else if x.isNan then (b, f)
  else if y.isNan then (a, f)
  else if (if isMax then y.before x else x.before y) then (a, f)
  else (b, f)

/-- FAMIN (R190). -/
def famin32 (a b : Word) : Word × Flags :=
  let mag (x : Word) : Nat := x.toNat % 2 ^ 31
  let x := dec32 a
  let y := dec32 b
  if x.isNan || y.isNan || mag a = mag b then wf32 (fp32.minMax false a.toNat b.toNat)
  else (if mag a < mag b then a else b, 0)

/-- An operation of a 16-bit type on both halves of 32-bit operands (R191). -/
def packed2 (f : Nat → Nat → Nat → Nat × Flags) (a b c : Word) : Word × Flags :=
  let half (x : Word) (k : Nat) : Nat := fld x (16 * k + 15) (16 * k)
  let r0 := f (half a 0) (half b 0) (half c 0)
  let r1 := f (half a 1) (half b 1) (half c 1)
  (BitVec.ofNat 32 (r0.1 % 2 ^ 16 + r1.1 * 2 ^ 16), r0.2 ||| r1.2)

/-- FRND (R193): NV for a signalling NaN, never NX. -/
def frnd32 (r : Rnd) (a : Word) : Word × Flags :=
  match dec32 a with
  | .nan sg => (nan32, if sg then fNV else 0)
  | .inf _ => (a, 0)
  | .fin n m e =>
    if m = 0 || e ≥ 0 then (a, 0) else
      let (i, _) := roundAt r n m e false 0
      if i = 0 then (zero32 n, 0) else (w32 (fp32.arith .rtz n i 0).1, 0)

/-- FSCALE (R194). -/
def fscale32 (r : Rnd) (a b : Word) : Word × Flags :=
  match dec32 a with
  | .nan sg => (nan32, if sg then fNV else 0)
  | .inf _ => (a, 0)
  | .fin n m e =>
    if m = 0 then (a, 0)
    else
      -- beyond ±1024 the result is past both ends of the range already
      let k : Int := max (-1024) (min 1024 b.toInt)
      wf32 (fp32.arith r n m (e + k))

/-- FCLASS: the one-hot class (R195). -/
def fclass32 (a : Word) : Word :=
  match dec32 a with
  | .nan sg => if sg then 0x100 else 0x200
  | .inf n => if n then 0x001 else 0x080
  | .fin n m _ =>
    if m = 0 then if n then 0x008 else 0x010
    else if m < 2 ^ 23 then if n then 0x004 else 0x020
    else if n then 0x002 else 0x040

/-- FEXPT (R196). -/
def fexpt32 (a : Word) : Word × Flags :=
  match dec32 a with
  | .nan sg => (0x80000000, if sg then fNV else 0)
  | .inf _ => (0x7FFFFFFF, 0)
  | .fin _ m e => if m = 0 then (0x80000000, 0) else (BitVec.ofInt 32 ((Nat.log2 m : Int) + e), 0)

/-- FCMP: the predicate and NV (R197). -/
def fcmp32 (c : FCond) (a b : Word) : Bool × Flags :=
  let x := dec32 a
  let y := dec32 b
  if x.isNan || y.isNan then
    let f := sigFlags [x, y]
    match c with
    | .eq | .ord => (false, f)
    | .ne | .un => (true, f)
    | .lt | .le | .gt | .ge => (false, fNV)
  else
    let o := x.cmp y
    (match c with
     | .eq => o = .eq
     | .ne => o ≠ .eq
     | .lt => o = .lt
     | .le => o ≠ .gt
     | .gt => o = .gt
     | .ge => o ≠ .lt
     | .un => false
     | .ord => true, 0)

/-- Writes a floating-point result of each lane of Active() with its flags. -/
def State.setFloat (s : State) (p : Pipe) (d : Dst) (f : Nat → Word × Flags) : State :=
  (s.setLane p d fun l => (f l).1).addFlags fun l => (f l).2

/-! ### FALU: FP32 arithmetic (R189, R190) -/

/-- FADD. -/
def execFadd (d : Dst) (a b : Src) (s : State) : Host.Outcome State Fault Refusal :=
  .next (s.laneWise none true fun s => s.setFloat .f d fun l => fadd32 s.rm (s.src l a) (s.src l b))
/-- FSUB. -/
def execFsub (d : Dst) (a b : Src) (s : State) : Host.Outcome State Fault Refusal :=
  .next (s.laneWise none true fun s => s.setFloat .f d fun l => fadd32 s.rm (s.src l a) (fneg32 (s.src l b)))
/-- FMUL. -/
def execFmul (d : Dst) (a b : Src) (s : State) : Host.Outcome State Fault Refusal :=
  .next (s.laneWise none true fun s => s.setFloat .f d fun l => fmul32 s.rm (s.src l a) (s.src l b))
/-- FFMA: the destination is the addend. -/
def execFfma (d : LReg) (a b : Src) (s : State) : Host.Outcome State Fault Refusal :=
  .next (s.laneWise none true fun s => s.setFloat .f (.reg d) fun l => ffma32 s.rm (s.src l a) (s.src l b) (s.vreg l d.toNat))
/-- FMIN. -/
def execFmin (d : Dst) (a b : Src) (s : State) : Host.Outcome State Fault Refusal :=
  .next (s.laneWise none true fun s => s.setFloat .f d fun l => wf32 (fp32.minMax false (s.src l a).toNat (s.src l b).toNat))
/-- FMAX. -/
def execFmax (d : Dst) (a b : Src) (s : State) : Host.Outcome State Fault Refusal :=
  .next (s.laneWise none true fun s => s.setFloat .f d fun l => wf32 (fp32.minMax true (s.src l a).toNat (s.src l b).toNat))
/-- FAMIN. -/
def execFamin (d : Dst) (a b : Src) (s : State) : Host.Outcome State Fault Refusal :=
  .next (s.laneWise none true fun s => s.setFloat .f d fun l => famin32 (s.src l a) (s.src l b))
/-- FFMS: the destination is subtracted. -/
def execFfms (d : LReg) (a b : Src) (s : State) : Host.Outcome State Fault Refusal :=
  .next (s.laneWise none true fun s => s.setFloat .f (.reg d) fun l => ffma32 s.rm (s.src l a) (s.src l b) (fneg32 (s.vreg l d.toNat)))

/-! ### HALU: packed BF16 and FP16 (R191) -/

/-- BADD2. -/
def execBadd2 (d : Dst) (a b : Src) (s : State) : Host.Outcome State Fault Refusal :=
  .next (s.laneWise none true fun s => s.setFloat .f d fun l =>
    packed2 (fun x y _ => bf16.add s.rm (bf16.dec x) (bf16.dec y)) (s.src l a) (s.src l b) 0)
/-- BMUL2. -/
def execBmul2 (d : Dst) (a b : Src) (s : State) : Host.Outcome State Fault Refusal :=
  .next (s.laneWise none true fun s => s.setFloat .f d fun l =>
    packed2 (fun x y _ => bf16.mul s.rm (bf16.dec x) (bf16.dec y)) (s.src l a) (s.src l b) 0)
/-- BFMA2: the destination is the addend. -/
def execBfma2 (d : LReg) (a b : Src) (s : State) : Host.Outcome State Fault Refusal :=
  .next (s.laneWise none true fun s => s.setFloat .f (.reg d) fun l =>
    packed2 (fun x y z => bf16.fma s.rm (bf16.dec x) (bf16.dec y) (bf16.dec z)) (s.src l a) (s.src l b) (s.vreg l d.toNat))
/-- BMAX2. -/
def execBmax2 (d : Dst) (a b : Src) (s : State) : Host.Outcome State Fault Refusal :=
  .next (s.laneWise none true fun s => s.setFloat .f d fun l =>
    packed2 (fun x y _ => bf16.minMax true x y) (s.src l a) (s.src l b) 0)
/-- HADD2. -/
def execHadd2 (d : Dst) (a b : Src) (s : State) : Host.Outcome State Fault Refusal :=
  .next (s.laneWise none true fun s => s.setFloat .f d fun l =>
    packed2 (fun x y _ => fp16.add s.rm (fp16.dec x) (fp16.dec y)) (s.src l a) (s.src l b) 0)
/-- HMUL2. -/
def execHmul2 (d : Dst) (a b : Src) (s : State) : Host.Outcome State Fault Refusal :=
  .next (s.laneWise none true fun s => s.setFloat .f d fun l =>
    packed2 (fun x y _ => fp16.mul s.rm (fp16.dec x) (fp16.dec y)) (s.src l a) (s.src l b) 0)
/-- HFMA2: the destination is the addend. -/
def execHfma2 (d : LReg) (a b : Src) (s : State) : Host.Outcome State Fault Refusal :=
  .next (s.laneWise none true fun s => s.setFloat .f (.reg d) fun l =>
    packed2 (fun x y z => fp16.fma s.rm (fp16.dec x) (fp16.dec y) (fp16.dec z)) (s.src l a) (s.src l b) (s.vreg l d.toNat))
/-- HMAX2. -/
def execHmax2 (d : Dst) (a b : Src) (s : State) : Host.Outcome State Fault Refusal :=
  .next (s.laneWise none true fun s => s.setFloat .f d fun l =>
    packed2 (fun x y _ => fp16.minMax true x y) (s.src l a) (s.src l b) 0)

/-! ### FSPEC and FDIV: correctly rounded functions (R192, R193) -/

/-- FRCP. -/
def execFrcp (d : Dst) (a : Src) (s : State) : Host.Outcome State Fault Refusal :=
  .next (s.laneWise none true fun s => s.setFloat .x d fun l => frcp32 (s.src l a))
/-- FRSQ. -/
def execFrsq (d : Dst) (a : Src) (s : State) : Host.Outcome State Fault Refusal :=
  .next (s.laneWise none true fun s => s.setFloat .x d fun l => frsq32 (s.src l a))
/-- FSQRT. -/
def execFsqrt (d : Dst) (a : Src) (s : State) : Host.Outcome State Fault Refusal :=
  .next (s.laneWise none true fun s => s.setFloat .x d fun l => fsqrt32 (s.src l a))
/-- FEXP2. -/
def execFexp2 (d : Dst) (a : Src) (s : State) : Host.Outcome State Fault Refusal :=
  .next (s.laneWise none true fun s => s.setFloat .x d fun l => fexp232 (s.src l a))
/-- FLOG2. -/
def execFlog2 (d : Dst) (a : Src) (s : State) : Host.Outcome State Fault Refusal :=
  .next (s.laneWise none true fun s => s.setFloat .x d fun l => flog232 (s.src l a))
/-- FTANH. -/
def execFtanh (d : Dst) (a : Src) (s : State) : Host.Outcome State Fault Refusal :=
  .next (s.laneWise none true fun s => s.setFloat .x d fun l => ftanh32 (s.src l a))
/-- FSIN2PI. -/
def execFsin2pi (d : Dst) (a : Src) (s : State) : Host.Outcome State Fault Refusal :=
  .next (s.laneWise none true fun s => s.setFloat .x d fun l => fsin2pi32 (s.src l a))
/-- FRND. -/
def execFrnd (d : Dst) (a : Src) (rnd : Rnd) (s : State) : Host.Outcome State Fault Refusal :=
  .next (s.laneWise none true fun s => s.setFloat .x d fun l => frnd32 rnd (s.src l a))
/-- FDIV. -/
def execFdiv (d : Dst) (a b : Src) (s : State) : Host.Outcome State Fault Refusal :=
  .next (s.laneWise none true fun s => s.setFloat .x d fun l => fdiv32 (s.src l a) (s.src l b))

/-! ### FMISC: sign, scale, class and exponent (R194 to R196) -/

/-- FABS acts on the bits alone. -/
def execFabs (d : Dst) (a : Src) (s : State) : Host.Outcome State Fault Refusal :=
  .next (s.laneWise none true fun s => s.setLane .x d fun l => (s.src l a) &&& 0x7FFFFFFF)
/-- FNEG acts on the bits alone. -/
def execFneg (d : Dst) (a : Src) (s : State) : Host.Outcome State Fault Refusal :=
  .next (s.laneWise none true fun s => s.setLane .x d fun l => fneg32 (s.src l a))
/-- FCPYS: the sign of b and the rest of a. -/
def execFcpys (d : Dst) (a b : Src) (s : State) : Host.Outcome State Fault Refusal :=
  .next (s.laneWise none true fun s => s.setLane .x d fun l =>
    ((s.src l b) &&& 0x80000000) ||| ((s.src l a) &&& 0x7FFFFFFF))
/-- FCLASS. -/
def execFclass (d : Dst) (a : Src) (s : State) : Host.Outcome State Fault Refusal :=
  .next (s.laneWise none true fun s => s.setLane .x d fun l => fclass32 (s.src l a))
/-- FSCALE. -/
def execFscale (d : Dst) (a b : Src) (s : State) : Host.Outcome State Fault Refusal :=
  .next (s.laneWise none true fun s => s.setFloat .x d fun l => fscale32 s.rm (s.src l a) (s.src l b))
/-- FEXPT. -/
def execFexpt (d : Dst) (a : Src) (s : State) : Host.Outcome State Fault Refusal :=
  .next (s.laneWise none true fun s => s.setFloat .x d fun l => fexpt32 (s.src l a))

/-! ### FCMP (R197) -/

/-- FCMP writes a predicate and pushes no latch. -/
def execFcmp (cond : FCond) (p : PReg) (a b : Src) (s : State) : Host.Outcome State Fault Refusal :=
  .next (s.laneWise none true fun s => 
    (s.setPred p fun l => (fcmp32 cond (s.src l a) (s.src l b)).1).addFlags fun l => (fcmp32 cond (s.src l a) (s.src l b)).2)

/-! ### FFLG (R204, R205) -/

/-- FFLRD. -/
def execFflrd (d : UReg) (s : State) : Host.Outcome State Fault Refusal :=
  .next (s.uniform none true fun s => s.setU d (s.cur.old.fflags.setWidth 64))
/-- Clears flags of the thread, as they stood at the start of the group's cycle (R116, R204); flags that other words of the group raise are ORed after
(R205). In a relaxation body it clears the thread's FFLAGS at once and leaves what its steps have collected
(DESIGN CHOICE, notes/assumptions/61). -/
def State.clearFlags (s : State) (m : Dword) : State :=
  s.mapMe fun t => { t with fflags := s.cur.old.fflags &&& ~~~ (m.extractLsb' 0 6) }
/-- FFLCLR. -/
def execFflclr (a : UReg) (s : State) : Host.Outcome State Fault Refusal :=
  .next (s.uniform none true fun s => 
    if fld (s.ureg a) 63 6 ≠ 0 then s.trapWave .ill else s.clearFlags (s.ureg a))
/-- FMODE. -/
def execFmode (a : UReg) (s : State) : Host.Outcome State Fault Refusal :=
  .next (s.uniform none true fun s => 
    if fld (s.ureg a) 63 2 ≠ 0 then s.trapWave .ill
    else s.mapMe fun t => { t with rm := (s.ureg a).extractLsb' 0 2 })

end Sys2Proof.Machine
end

