-- ==== Sys2Proof/Machine/Convert.lean ====
section
/-! DEFINITION. Conversions: major 0x1D (R198 to R203). A conversion that overflows under policy 11
traps CVTOVF in its lane (R72, R201); the rules on slots and groups trap ILL for the run (R198). -/

namespace Sys2Proof.Machine

/-! ### Results -/

/-- The floating-point type of T3 (R199). -/
def FTy.spec : FTy → FSpec
  | .bf16 => bf16
  | .fp16 => fp16
  | .e4m3 => e4m3
  | .e5m2 => e5m2

/-- Bits of an integer type (R200). -/
def ITy.bits : ITy → Nat
  | .int32 => 32
  | .int8 => 8
  | .int4 => 4

/-- FCVT (R199). -/
def fcvt32 (t : FSpec) (p : Pol) (r : Rnd) (x : Word) : Option (Word × Flags) :=
  (t.convert r p (dec32 x)).map wf32

/-- FUPCVT: exact (R199). -/
def fupcvt32 (t : FSpec) (x : Word) : Word × Flags :=
  ((fp32.convert .rne .sat (t.dec (x.toNat % 2 ^ t.width))).map wf32).getD (nan32, 0)

/-- ICVTF: the low bits of a register as a signed integer (R200). -/
def icvtf32 (n : Nat) (r : Rnd) (x : Word) : Word × Flags :=
  let k := sintOf n x.toNat
  wf32 (fp32.arith r (k < 0) k.natAbs 0)

/-- FCVTI: sign-extended from the type's width (R200). -/
def fcvti32 (n : Nat) (p : Pol) (r : Rnd) (x : Word) : Option (Word × Flags) :=
  (intConvert (-(2 ^ (n - 1))) (2 ^ (n - 1) - 1) r p (dec32 x)).map fun (k, f) => (wrap32 k, f)
where
  /-- The low 32 bits of an integer. -/
  wrap32 (k : Int) : Word := BitVec.ofInt 32 k

/-- Packs elements of w bits, the first lowest, and ORs their flags (R65, R201). -/
def packElems (w : Nat) : List (Option (Nat × Flags)) → Option (Nat × Flags)
  | [] => some (0, 0)
  | x :: t =>
    match x, packElems w t with
    | some (c, f), some (cs, fs) => some (c % 2 ^ w + 2 ^ w * cs, f ||| fs)
    | _, _ => none

/-- QPACK of a group of values (R201). -/
def qpackElems (ty : Nat) (adj : Int) (p : Pol) (r : Rnd) (vs : List Word) : Option (Word × Flags) :=
  (packElems (typeBits ty) (vs.map fun v => encElem ty r p ((dec32 v).scale (-adj)))).map wf32

/-- Element i of a packed register. -/
def elemOf (ty : Nat) (x : Word) (i : Nat) : Nat := (x.toNat >>> (typeBits ty * i)) % 2 ^ typeBits ty

/-- QUNPACK of one element: exact (R202). -/
def qunpackElem (ty : Nat) (adj : Int) (c : Nat) : Word × Flags :=
  ((fp32.convert .rne .sat ((decElem ty c).scale adj)).map wf32).getD (nan32, 0)

/-- I8PACK of four integers (R203). -/
def i8packElems (p : Pol) (vs : List Word) : Option (Word × Flags) :=
  (packElems 8 (vs.map fun v =>
    (intConvert (-128) 127 .rne p (valOfInt v.toInt)).map fun (k, f) => ((k % 256).toNat, f))).map wf32

/-! ### The rules on slots and groups (R198, R201, R202) -/

/-- The ADJ values with which QUNPACK is exact (R202). -/
def adjRange (ty : Nat) : Int × Int :=
  rd (0, -1) [(0, -1), (-16, 0), (-125, 112), (-128, 119), (-128, 112), (-128, 120), (-128, 124),
    (-128, 127)] ty

/-- Whether a slot is accepted by QPACK (R201). -/
def State.packSlotOk (s : State) (f : Fmt) (reg : Nat) : Bool :=
  s.slotOk f [1, 2, 3, 4, 5, 6, 7] [0, 1] && reg % groupSize f = 0

/-- Whether a slot is accepted by QUNPACK (R201, R202). -/
def State.unpackSlotOk (s : State) (f : Fmt) (reg : Nat) : Bool :=
  s.packSlotOk f reg && (adjRange (fmtType f)).1 ≤ fmtAdj f && fmtAdj f ≤ (adjRange (fmtType f)).2

/-- The operand limits of QPACK and QUNPACK, which depend on the launch's slots (R127, R198). -/
def State.cvtOk (s : State) (i : Instr) : Bool :=
  match i with
  | .qpack _ a slot _ _ => s.packSlotOk (s.fmtOf s.cur.tid slot) a.toNat
  | .qunpack d _ slot => s.unpackSlotOk (s.fmtOf s.cur.tid slot) d.toNat
  | _ => true

/-! ### Meanings -/

/-- Writes the converted value of each lane of Active(); a lane without one traps CVTOVF (R72). -/
def State.setConv (s : State) (d : Dst) (f : Nat → Option (Word × Flags)) : State :=
  s.trapLanes (maskOf fun l => s.cur.mask.getLsbD l && (f l).isNone) .cvtovf fun s =>
    s.setFloat .x d fun l => (f l).getD (0, 0)

/-- FCVT (R199). -/
def execFcvt (d : Dst) (a : Src) (ty : FTy) (pol : Pol) (rnd : Rnd) (s : State) :
    Host.Outcome State Fault Refusal :=
  .next (s.laneWise none true fun s => s.setConv d fun l => fcvt32 (FTy.spec ty) pol rnd (s.src l a))

/-- FUPCVT (R199). -/
def execFupcvt (d : Dst) (a : Src) (ty : FTy) (s : State) : Host.Outcome State Fault Refusal :=
  .next (s.laneWise none true fun s => s.setFloat .x d fun l => fupcvt32 (FTy.spec ty) (s.src l a))

/-- ICVTF; its policy has no effect (R200). -/
def execIcvtf (d : Dst) (a : Src) (ty : ITy) (_pol : Pol) (rnd : Rnd) (s : State) :
    Host.Outcome State Fault Refusal :=
  .next (s.laneWise none true fun s => s.setFloat .x d fun l => icvtf32 (ITy.bits ty) rnd (s.src l a))

/-- FCVTI (R200). -/
def execFcvti (d : Dst) (a : Src) (ty : ITy) (pol : Pol) (rnd : Rnd) (s : State) :
    Host.Outcome State Fault Refusal :=
  .next (s.laneWise none true fun s => s.setConv d fun l => fcvti32 (ITy.bits ty) pol rnd (s.src l a))

/-- QPACK (R201). -/
def execQpack (d : Dst) (a : LReg) (slot : FSlot) (pol : Pol) (rnd : Rnd) (s : State) :
    Host.Outcome State Fault Refusal :=
  .next (s.laneWise none true fun s =>
    let f := s.fmtOf s.cur.tid slot
    if !s.packSlotOk f a.toNat then s.trapRun .ill else
    s.setConv d fun l => qpackElems (fmtType f) (fmtAdj f) pol rnd
      ((List.range (groupSize f)).map fun i => s.vreg l (a.toNat + i)))

/-- QUNPACK (R201, R202), which counts the T elements of code 10 that it reads (R86). -/
def execQunpack (d : LReg) (a : Src) (slot : FSlot) (s : State) : Host.Outcome State Fault Refusal :=
  .next (s.laneWise none true fun s =>
    let f := s.fmtOf s.cur.tid slot
    if !s.unpackSlotOk f d.toNat then s.trapRun .ill else
    let g := groupSize f
    let out (l : Nat) : List (Word × Flags) :=
      (List.range g).map fun i => qunpackElem (fmtType f) (fmtAdj f) (elemOf (fmtType f) (s.src l a) i)
    let s' := (s.setGroup d.toNat fun l => (out l).map (·.1)).addFlags fun l =>
      (out l).foldl (fun x y => x ||| y.2) 0
    if fmtType f = 7 then
      s'.countLanes 0 fun l =>
        ((List.range g).filter fun i => elemOf 7 (s.src l a) i = 2).length
    else s')

/-- I8PACK (R203). -/
def execI8pack (d : Dst) (a : LReg) (pol : Pol) (s : State) : Host.Outcome State Fault Refusal :=
  .next (s.laneWise none true fun s =>
    if a.toNat % 4 ≠ 0 then s.trapRun .ill else
    s.setConv d fun l => i8packElems pol ((List.range 4).map fun i => s.vreg l (a.toNat + i)))

end Sys2Proof.Machine
end

