-- ==== Sys2Proof/Machine/Tile.lean ====
section
/-! DEFINITION. Tile operations and the words that read and write tiles: majors 0x31 and 0x32 (R264,
R268 to R272, R279 to R286), and the start of a q0 command (R265). -/

namespace Sys2Proof.Machine

/-! ### Linear operations (R268, R269) -/

/-- The coefficient of a tile for a tag on a row: 0 where it has no such link. -/
def Tile.coefAt (t : Tile) (tag i : Nat) : Int :=
  ((t.links.filter fun k => k.tag = tag && k.rows.getLsbD i).map (·.coef)).sum
/-- The links of a tile that a set of rows reads. -/
def Tile.linksOn (t : Tile) (m : Mask) : List Link := t.links.filter fun k => k.rows &&& m ≠ 0
/-- Whether a coefficient is ±2^e with e at most 15. -/
def coefOk (c : Int) : Bool := (List.range 16).any fun e => c.natAbs = 2 ^ e

/-- Whether the links that an operation reads to one tag all stand at one plane (R268). -/
def onePlane (ls : List Link) : Bool := ls.all fun a => ls.all fun b => a.tag ≠ b.tag || a.plane = b.plane

/-- The links that kA × A + kB × B gives the rows of a mask; nothing where a coefficient is not
±2^e (R268). -/
def newLinks (kA kB : Int) (a b : Tile) (m : Mask) : Option (List Link) :=
  let ls := a.linksOn m ++ b.linksOn m
  let tags := (ls.map (·.tag)).eraseDups
  let c (t i : Nat) : Int := kA * a.coefAt t i + kB * b.coefAt t i
  let cs := tags.flatMap fun t => (((lanesOf m).map fun i => (t, c t i)).filter fun x => x.2 ≠ 0).eraseDups
  if cs.all fun x => coefOk x.2 then
    some (cs.map fun (t, k) =>
      { tag := t, coef := k, rows := maskOf fun i => m.getLsbD i && c t i = k,
        plane := ((ls.find? fun l => l.tag = t).map (·.plane)).getD 0 })
  else none

/-- The covers that new links bring (R269). -/
def Unit_.coversOf (u : Unit_) (ls : List Link) : List Cover :=
  ls.filterMap fun k =>
    let g := u.tag k.tag
    if g.ovf = 3 then some { src := g.src, rows := k.rows, tid := g.tid, node := g.node, mask := g.mask } else none

/-- The coefficients kA and kB of a CERED's operation (R308). -/
def redCoefs : RedOp → Int × Int
  | .add => (1, 1)
  | .mov => (1, 0)
  | .sub => (-1, 1)

/-- The links that a started command will bring a tile of its core beyond those that the tile holds (R268, R273). -/
def Unit_.linksDue (u : Unit_) (dst : Nat) (c : Cmd) : Nat :=
  let d := u.tile dst
  if c.st ≠ .started then 0 else
  match c.i with
  | .wbmac _ t _ | .wbmacp _ t _ _ => if t.toNat = dst && !c.published && c.ltag.isSome then 1 else 0
  | .tadd _ t | .tsub _ t | .tshl _ t | .tmov _ t | .tneg _ t => if t.toNat = dst then c.links.length else 0
  | .cered _ t op =>
    if t.toNat ≠ dst then 0 else
    let ls := (newLinks (redCoefs op).1 (redCoefs op).2 { links := c.links } d c.mask).getD []
    (d.unlink c.mask).links.length + ls.length - d.links.length
  | _ => 0

/-- The places kept for links that running commands of a core will bring a tile: WBMACPs, tile operations, and CEREDs onto
their own core (R268, R273). -/
def Unit_.reserved (u : Unit_) (core dst : Nat) : Nat :=
  (u.q0.map (u.linksDue dst)).sum + ((u.q2.filter fun c => c.ownRed core).map (u.linksDue dst)).sum

/-- D := kA × A + kB × B on the rows of a mask (R268): the exact cells of the rows, and D's links to be, or nothing
while a lineage rule makes the operation wait (R268, R269, R271). -/
def Unit_.linear (u : Unit_) (core dst : Nat) (kA kB : Int) (a b : Tile) (m : Mask) :
    Option (List (List Int) × List Link) :=
  match newLinks kA kB a b m with
  | none => none
  | some ls =>
    let on := ls.foldl (fun x k => x ||| k.rows) 0
    let val (i : Nat) : List Int := ((a.row i).zip (b.row i)).map fun p => kA * p.1 + kB * p.2
    let wide := (lanesOf (m &&& on)).any fun i => (val i).any fun x => !wideOk x
    let held := ((u.tile dst).unlink m).links.length + ls.length + u.reserved core dst
    if u.isSource dst || !onePlane (a.linksOn m ++ b.linksOn m) || held > 4 || wide then none
    else some ((List.range 32).map fun i => if m.getLsbD i then val i else [], ls)

/-- Rows that stop being linked because they are overwritten (R271): the cells they keep are brought
into range, and the saturations accrue to the last tag that covered each row (R269): where several links cover it, that
of the tile's last link (DESIGN CHOICE, notes/assumptions/72). -/
def State.cutRows (s : State) (asid core t : Nat) (m : Mask) : State :=
  let x := (s.unit asid core).tile t
  let gone := x.linked &&& m
  let (y, _, cs) := x.clampRows gone
  let s := (lanesOf gone).foldl (fun s i =>
    let n := outside (x.row i)
    match (x.links.filter fun k => k.rows.getLsbD i).getLast? with
    | some k => s.mapUnit asid core fun u =>
        u.mapTag k.tag fun g => { g with mx := wr 0 g.mx 2 (rd 0 g.mx 2 + n) }
    | none => s) s
  ((s.mapTile asid core t fun _ => y.unlink m).postCovers cs).retireDone asid core

/-- Writes the rows of a linear operation with their links (R268): a row that is not linked after it is brought into
range, and none posts a fault (R280); it answers the tile and how many cells saturated. -/
def Unit_.landLinear (u : Unit_) (t : Nat) (m : Mask) (cells : List (List Int)) (ls : List Link) (et : Int) :
    Tile × Nat :=
  let d := u.tile t
  let on := ls.foldl (fun x k => x ||| k.rows) 0
  let gone := d.linked &&& m &&& ~~~ on
  let val (i : Nat) : List Int := rd [] cells i
  let rows := (List.range 32).map fun i =>
    if !m.getLsbD i then d.row i else if on.getLsbD i then val i else (val i).map clamp48
  let kept := (d.covers.map fun k => { k with rows := k.rows &&& ~~~ gone }).filter fun k => k.rows ≠ 0
  ({ rows := rows, et := et, links := (d.unlink m).links ++ ls, covers := mergeCovers kept (u.coversOf ls) },
    ((lanesOf (m &&& ~~~ on)).map fun i => outside (val i)).sum)

/-- Lands a linear operation on a tile of a core; an overwrite first cuts the rows out of their links (R271). It
answers how many cells saturated. -/
def State.landRows (s : State) (asid core t : Nat) (cuts : Bool) (m : Mask) (cells : List (List Int)) (ls : List Link)
    (et : Int) : State × Nat :=
  let s := if cuts then s.cutRows asid core t m else s
  let (x, sat) := (s.unit asid core).landLinear t m cells ls et
  (s.mapTile asid core t fun _ => x, sat)

/-! ### The issue of tile operations (R279 to R281) -/

/-- The reserved bits and unused fields of a tile operation's operand word. -/
def tileTrap (c : Cmd) (useB useSh useCol : Bool) : Option TrapCode :=
  let w := c.w2
  firstTrap [(fld w 63 38 ≠ 0 || fld w 15 12 ≠ 0 || c.w3 ≠ 0, .ill), (!useB && fld w 7 4 ≠ 0, .ill),
    (!useSh && fld w 11 8 ≠ 0, .ill), (!useCol && fld w 37 16 ≠ 0, .ill),
    (useCol && (fld w 30 24 + fld w 23 16 > 127 || fld w 37 31 + fld w 23 16 > 127), .ill)]

/-- TADD (R280). -/
def execTadd (q : UReg) (t : TReg) (s : State) : Host.Outcome State Fault Refusal :=
  .next (s.command 0 (.tadd q t) q fun _ c => tileTrap c true false false)
/-- TSUB (R280). -/
def execTsub (q : UReg) (t : TReg) (s : State) : Host.Outcome State Fault Refusal :=
  .next (s.command 0 (.tsub q t) q fun _ c => tileTrap c true false false)
/-- TSHL (R280). -/
def execTshl (q : UReg) (t : TReg) (s : State) : Host.Outcome State Fault Refusal :=
  .next (s.command 0 (.tshl q t) q fun _ c => tileTrap c false true false)
/-- TMOV (R280). -/
def execTmov (q : UReg) (t : TReg) (s : State) : Host.Outcome State Fault Refusal :=
  .next (s.command 0 (.tmov q t) q fun _ c => tileTrap c false false false)
/-- TNEG (R280). -/
def execTneg (q : UReg) (t : TReg) (s : State) : Host.Outcome State Fault Refusal :=
  .next (s.command 0 (.tneg q t) q fun _ c => tileTrap c false false false)
/-- TSLICE (R281). -/
def execTslice (q : UReg) (t : TReg) (s : State) : Host.Outcome State Fault Refusal :=
  .next (s.command 0 (.tslice q t) q fun _ c => tileTrap c false false true)

/-! ### The start of a q0 command (R265) -/

/-- Starts a tile operation: what it reads in its first cycle stands in the command until its last (R268). -/
def State.readTile (s : State) (asid core : Nat) (c : Cmd) (cells : List (List Int)) (ls : List Link) (et : Int) : State :=
  s.mapUnit asid core fun u => u.mapCmd c.id fun c => { c with st := .started, cells := cells, links := ls, et := et }

/-- Starts TSLICE (R281), which reads its source columns: nothing while its source is not settled or its
destination is a live source. -/
def State.startSlice (s : State) (asid core : Nat) (c : Cmd) (dst : Nat) : Option State :=
  let u := s.unit asid core
  let a := u.tile (srcA c.w2)
  if !u.settled (srcA c.w2) || u.isSource dst then none
  else some (s.readTile asid core c
    ((List.range 32).map fun i => (List.range (fld c.w2 23 16 + 1)).map fun k => a.cell i (fld c.w2 30 24 + k)) [] 0)

/-- Ends TSLICE (R281). -/
def State.endSlice (s : State) (asid core : Nat) (c : Cmd) (dst : Nat) : State :=
  let dcol := fld c.w2 37 31
  let n := fld c.w2 23 16 + 1
  (s.cutRows asid core dst c.mask).mapTile asid core dst fun d =>
    { d with rows := (List.range 32).map fun i =>
        if c.mask.getLsbD i then
          (List.range 128).map fun j => if dcol ≤ j && j < dcol + n then rd 0 (rd [] c.cells i) (j - dcol) else d.cell i j
        else d.row i }

/-- Ends WBZERO (R278). -/
def State.endZero (s : State) (asid core : Nat) (c : Cmd) (dst : Nat) : State :=
  (s.cutRows asid core dst c.mask).mapTile asid core dst fun t =>
    { t with et := sintOf 8 c.w2.toNat
             rows := (List.range 32).map fun i => if c.mask.getLsbD i then List.replicate 128 0 else t.row i }

/-! ### WBLOAD (R276) -/

/-- Replaces the shadow bank. -/
def State.mapShadow (s : State) (asid core : Nat) (f : Bank → Bank) : State :=
  s.mapUnit asid core fun u => if u.active then { u with bank0 := f u.bank0 } else { u with bank1 := f u.bank1 }

/-- The pieces that WBLOAD reads, in their order: 128 bytes of codes at a time, then the exponents. -/
def Cmd.loadPieces (c : Cmd) (f : Fmt) : List (BufRec × Nat × Nat) :=
  let k := fld c.w2 10 0 + 1
  ((List.range (ceilDiv k 4)).map fun n => (c.rec_ (fld c.w2 35 32), 128 * n, min 128 (32 * k - 128 * n))) ++
  if fmtScale f = 1 then (List.range (ceilDiv k 16)).map fun n => (c.rec_ (fmtBuf f), 128 * n, 128) else []

/-- The loader's next step (R276): the next piece of what it reads, or the shadow bank it has read; a fault leaves the
shadow invalid. -/
def State.loadStep (s : State) (asid core : Nat) (c : Cmd) (f : Fmt) : State :=
  let k := fld c.w2 10 0 + 1
  match (c.loadPieces f)[c.got.length]? with
  | some (r, first, n) =>
    s.withLines asid core c (elemRanges r first n 1) [] fun s =>
      match s.recElems c core r 1 first n with
      | .ok xs => s.mapUnit asid core fun u => u.mapCmd c.id fun c => { c with got := c.got ++ [xs], hold := none, denied := [] }
      | .error e => s.failCmd asid core c e.1 e.2
  | none =>
    let codes := (c.got.take (ceilDiv k 4)).flatten
    let exps := (c.got.drop (ceilDiv k 4)).flatten.map fun x => sintOf 8 x + fmtAdj f
    let exps := if fmtScale f = 1 then exps else List.replicate (128 * ceilDiv k 16) (fmtAdj f)
    let s := s.mapShadow asid core fun _ =>
      { valid := true, kb := k, codes := codes.map (BitVec.ofNat 8), exps := exps, ovf := fld f 13 12 }
    (s.spendFree c.lc [3, 4, 5, 6]).completeCmd asid core c

/-- Starts a q0 command whose start conditions 1 to 6 hold; nothing while a lineage rule holds it. -/
def State.startQ0 (s : State) (asid core : Nat) (c : Cmd) : Option State :=
  let u := s.unit asid core
  let a := u.tile (srcA c.w2)
  let lin (dst : Nat) (kA kB : Int) (b : Tile) : Option State :=
    (u.linear core dst kA kB a b c.mask).map fun r => s.readTile asid core c r.1 r.2 a.et
  match c.i with
  | .tadd _ t => lin t.toNat 1 1 (u.tile (srcB c.w2))
  | .tsub _ t => lin t.toNat 1 (-1) (u.tile (srcB c.w2))
  | .tshl _ t => lin t.toNat (2 ^ fld c.w2 11 8) 0 {}
  | .tmov _ t => lin t.toNat 1 0 {}
  | .tneg _ t => lin t.toNat (-1) 0 {}
  | .tslice _ t => s.startSlice asid core c t.toNat
  | .wbzero _ t => if u.isSource t.toNat then none else some (s.readTile asid core c [] [] 0)
  | .wbswap _ => some (s.readTile asid core c [] [] 0)
  | .wbload _ _ => some ((s.mapShadow asid core fun b => { b with valid := false }).readTile asid core c [] [] 0)
  | .wbmac _ t slot => s.startMac asid core c t.toNat (c.fmt slot) none
  | .wbmacp _ t slot p => s.startMac asid core c t.toNat (c.fmt slot) (some p.toNat)
  | _ => none

/-- The unit of a q0 command: the array, the loader or the tile unit (R265). -/
def Cmd.unitOf (c : Cmd) : Nat :=
  match c.i with
  | .wbmac _ _ _ | .wbmacp _ _ _ _ | .wbswap _ => 0
  | .wbload _ _ => 1
  | _ => 2

/-- Whether the unit of a q0 command is free; WBSWAP waits for the loader too, and the loader for a WBSWAP before it, which
changes the bank that is the shadow (R262, R265, R276). -/
def Unit_.unitFree (u : Unit_) (c : Cmd) : Bool :=
  let swap (c : Cmd) : Bool := match c.i with | .wbswap _ => true | _ => false
  !u.q0.any fun x => x.st = .started &&
    (x.unitOf = c.unitOf || (swap c && x.unitOf = 1) || (c.unitOf = 1 && swap x))

/-- The commands of a queue behind one. -/
def Unit_.behind (u : Unit_) (q id : Nat) : List Cmd := ((u.queue q).dropWhile fun c => c.id ≠ id).drop 1

/-- Q0_COMMAND_START: the head of q0 starts when every condition of R265 holds; a head that waits on
a predecessor behind it is discarded (R251). -/
def execQ0CommandStart (core asid : Nat) (s : State) : Host.Outcome State Fault Refusal :=
  .next (
    let u := s.unit asid core
    match u.head 0 with
    | none => s
    | some c =>
      if !(s.domain asid).starts then s
      else if headStuck c (u.behind 0 c.id) then (s.postCmd c .graph).discardCmd asid core c
      else if c.count ≠ 0 || !u.unitFree c || !s.tilesFree asid core c then s
      else (s.startQ0 asid core c).getD s)

/-! ### The end of a command (R100, R266) -/

/-- A tile operation that has written its rows completes, with its saturations (R266, R280). -/
def State.endTile (s : State) (asid core : Nat) (c : Cmd) (sat : Nat) : State :=
  ((s.spendFree c.lc [3, 4, 5, 6]).completeCmd asid core { c with mx := [0, 0, sat] }).retireDone asid core

/-- The last cycle of a started command of the loader, the tile unit or WBSWAP, or the loader's next piece; the other
engines' commands end elsewhere. A command whose byte barrier's page is awaited writes nothing yet (R220). -/
def State.endQ0 (s : State) (asid core : Nat) (c : Cmd) : State :=
  let lin (t : TReg) (cuts : Bool) : State :=
    let (s, sat) := s.landRows asid core t.toNat cuts c.mask c.cells c.links c.et
    s.endTile asid core c sat
  match c.i with
  | .tadd _ t | .tsub _ t => lin t false
  | .tshl _ t | .tmov _ t | .tneg _ t => lin t (srcA c.w2 ≠ t.toNat)
  | .tslice _ t => (s.endSlice asid core c t.toNat).endTile asid core c 0
  | .wbzero _ t => (s.endZero asid core c t.toNat).endTile asid core c 0
  | .wbswap _ => (s.mapUnit asid core fun u => { u with active := !u.active }).endTile asid core c 0
  | .wbload _ slot => s.loadStep asid core c (c.fmt slot)
  | _ => s

/-- Whether a started command ends at NODE_COMPLETE: one of the loader or the tile unit, or WBSWAP. -/
def Cmd.endsHere (c : Cmd) : Bool :=
  match c.i with
  | .tadd _ _ | .tsub _ _ | .tshl _ _ | .tmov _ _ | .tneg _ _ | .tslice _ _ | .wbzero _ _ | .wbswap _ | .wbload _ _ => true
  | _ => false

/-- NODE_COMPLETE: a node whose stores have been performed at device scope completes, and so does a command of the
Bench's loader or tile unit, or WBSWAP, in the last cycle of its work (R100, R266). A pre-emption lets the tile unit
end its command (R287). -/
def execNodeComplete (core asid cmd : Nat) (s : State) : Host.Outcome State Fault Refusal :=
  .next (match (s.unit asid core).cmd cmd with
    | some c =>
      if !(s.domain asid).goes then s
      else if c.st = .storing then if s.cmdStored core c then s.completeCmd asid core c else s
      else if c.st = .started && c.endsHere && (c.unitOf = 2 || (s.domain asid).starts) then
        match (if c.fault || c.bbcount = 0 then (s, false) else s.cmdPage asid core c c.bbaddr .atomic) with
        | (s, true) => s
        | (s, false) => (s.haltedAt asid core).endQ0 asid core c
      else s
    | none => s)

/-! ### Words that read and write tiles (R282 to R286) -/

/-- The descriptor of TCVT, TRD and TWR: registers or cells, first column, first register. -/
def State.tileDesc (s : State) (q : UReg) : Nat × Nat × Nat :=
  let w := s.ureg q
  (fld w 23 16, fld w 15 8, fld w 5 0)

/-- The ILL rules on a descriptor: reserved bits, columns, and registers within the footprint. -/
def State.descBad (s : State) (q : UReg) (perReg regs : Nat) (pairs : Bool) : Bool :=
  let w := s.ureg q
  let (n, col, vd) := s.tileDesc q
  fld w 63 24 ≠ 0 || fld w 7 6 ≠ 0 || n = 0 || col + n * perReg > 128 || vd + n * regs > s.cur.old.regs
    || (pairs && vd % 2 ≠ 0) || (pairs && n > 32)

/-- The tile of the thread that issues. -/
def State.myTile (s : State) (t : TReg) : Tile := (s.unitOf s.cur.tid).tile t.toNat

/-- The registers TCVT writes in a lane, with their flags, or nothing where an element overflows under
policy 11 (R282). -/
def tcvtRegs (f : Fmt) (et : Int) (cells : List Int) : Option (List (Word × Flags)) :=
  let ty := fmtType f
  let g := groupSize f
  (pieces g (ceilDiv cells.length g) cells).mapM fun es =>
    (packElems (typeBits ty) (es.map fun x =>
      encElem ty (fmtRnd f) (fmtOvf f) (.fin (x < 0) x.natAbs (et - fmtAdj f)))).map wf32

/-- TCVT (R282). -/
def execTcvt (q : UReg) (t : TReg) (slot : FSlot) (s : State) : Host.Outcome State Fault Refusal :=
  .next (s.laneWise (some 2) true fun s =>
    let f := s.fmtOf s.cur.tid slot
    let (n, col, vd) := s.tileDesc q
    if !s.slotOk f [0, 1, 2, 3, 4, 5, 6, 8] [0] || s.descBad q (groupSize f) 1 false then s.trapRun .ill
    else if s.cur.mask = 0 then (if n = 1 then s.pushAll .m fun _ => 0 else s)
    else s.await (.settle t.toNat s.grantOf) fun s =>
      let x := s.myTile t
      let out (l : Nat) : Option (List (Word × Flags)) :=
        tcvtRegs f x.et ((List.range (n * groupSize f)).map fun j => x.cell l (col + j))
      s.trapLanes (maskOf fun l => s.cur.mask.getLsbD l && (out l).isNone) .cvtovf fun s =>
        let regs (l : Nat) : List (Word × Flags) := (out l).getD []
        let s := s.setGroup vd fun l => (regs l).map (·.1)
        let s := if n = 1 then s.pushAll .m fun l => ((regs l).map (·.1)).headD 0 else s
        s.addFlags fun l => (regs l).foldl (fun a r => a ||| r.2) 0)

/-- SETTLE (R283). -/
def execSettle (t : TReg) (s : State) : Host.Outcome State Fault Refusal :=
  .next (s.uniform (some 2) true fun s => s.await (.settled t.toNat s.grantOf) id)

/-- The lineage state of a tile (R284). Its links stand in the order in which the tile took them: link 0 is the oldest
(DESIGN CHOICE, notes/assumptions/72). -/
def Unit_.lineage (u : Unit_) (core t : Nat) : Dword :=
  let x := u.tile t
  let tags := ((List.range 4).map fun i => ((x.links[i]?).map (·.tag)).getD 0 * 2 ^ (6 * i)).sum
  let owed := u.q0.any fun c => !c.tileDone && (c.tilesWritten core core).contains t
  let remain := (x.links.map (·.plane)).foldl max 0
  BitVec.ofNat 64 (tags * 2 ^ 32 + (x.et % 256).toNat * 2 ^ 16 + remain * 2 ^ 8 + x.links.length * 2 ^ 2
    + (if x.links.isEmpty then 0 else 2) + if owed then 1 else 0)

/-- TLIN (R284). -/
def execTlin (q : UReg) (t : TReg) (s : State) : Host.Outcome State Fault Refusal :=
  .next (s.uniform (some 2) true fun s =>
    s.setU q ((s.unitOf s.cur.tid).lineage s.cur.old.core t.toNat))

/-- TRD: cells into register pairs, linked ones clamped (R285). -/
def execTrd (q : UReg) (t : TReg) (prov : Bool) (s : State) : Host.Outcome State Fault Refusal :=
  .next (s.laneWise (some 2) (!prov) fun s =>
    let (n, col, vd) := s.tileDesc q
    if s.descBad q 1 2 true then s.trapRun .ill
    else if s.cur.mask = 0 then s
    else s.await (if prov then .prov t.toNat s.grantOf else .settle t.toNat s.grantOf) fun s =>
      let x := s.myTile t
      s.setGroup vd fun l => (List.range n).flatMap fun j =>
        let v : Dword := BitVec.ofInt 64 (clamp48 (x.cell l (col + j)))
        [v.extractLsb' 0 32, v.extractLsb' 32 32])

/-- TWR: register pairs into the cells of each lane's row, an overwrite (R286). -/
def execTwr (q : UReg) (t : TReg) (s : State) : Host.Outcome State Fault Refusal :=
  .next (s.laneWise (some 2) false fun s =>
    let (n, col, vd) := s.tileDesc q
    if s.descBad q 1 2 true then s.trapRun .ill
    else if s.cur.mask = 0 then s
    else s.await (.tileFree t.toNat s.grantOf) fun s =>
      let asid := s.ctxOf s.cur.tid
      let core := s.cur.old.core
      let s := s.cutRows asid core t.toNat s.cur.mask
      s.mapTile asid core t.toNat fun x =>
        { x with rows := (List.range 32).map fun i =>
            if s.cur.mask.getLsbD i then
              (List.range 128).map fun j =>
                if col ≤ j && j < col + n then sintOf 48 (s.vpair i (vd + 2 * (j - col))) else x.cell i j
            else x.row i })

end Sys2Proof.Machine
end

