-- ==== Sys2Proof/Machine/Pair.lean ====
section
/-! DEFINITION. The Attention Pair: major 0x33 and PAIR_COMMAND_START (R291 to R301). A command reads its operands
row by row, a row at a step, and then takes its effect (notes/assumptions/9). -/

namespace Sys2Proof.Machine

/-! ### Issue traps -/

/-- The record of an array with an ESIZE and STRIDE 1: ILL when it breaks that, PERM without R. -/
def arrayTrap (r : BufRec) (esize : Nat) (write : Bool) : Option TrapCode :=
  firstTrap [(!(r.esize = esize && r.stride = 1), .ill), (if write then !r.w else !r.r, .perm)]

/-- The record of queries, keys or values, of an ESIZE and any STRIDE (R298, R299). -/
def rowsTrap (r : BufRec) (esize : Nat) : Option TrapCode := firstTrap [(r.esize ≠ esize, .ill), (!r.r, .perm)]

/-- The ESIZE of an element of BF16, E4M3 or E5M2. -/
def kvSize (f : Fmt) : Nat := if fmtType f = 1 then 1 else 0

/-- Whether a slot is accepted for queries, keys and values (R298). -/
def State.kvSlotOk (s : State) (f : Fmt) : Bool := s.slotOk f [1, 3, 4] [0] && fmtAdj f = 0

/-- Head dimension D of the Pair's configuration. -/
def Pair.dim (p : Pair) : Nat := p.d

/-- The configuration of the Pair as commands issued so far will leave it: that of the last APCFG in
q1, or the present one (R298 checks against it at issue). -/
def Unit_.dimAtIssue (u : Unit_) : Nat :=
  u.q1.foldl (fun d c => match c.i with | .apcfg _ => if c.st = .queued || c.st = .started then fld c.w3 39 32 + 1 else d | _ => d)
    u.pair.dim

/-- NKEY as commands issued so far will leave it. -/
def Unit_.keysAtIssue (u : Unit_) : Nat :=
  u.q1.foldl (fun n c => match c.i with | .apqk _ _ => if c.st = .queued || c.st = .started then fld c.w3 37 32 else n | _ => n)
    u.pair.nk

/-- The issue traps of APCFG (R297). SHREC is read under MASK 2 alone: else its value is not looked at (DESIGN CHOICE,
notes/assumptions/87). -/
def State.apcfgTrap (s : State) (c : Cmd) : Option TrapCode :=
  let lim := c.rec_ (fld c.w2 39 36)
  let mask := fld c.w2 35 34
  firstTrap [(fld c.w2 63 40 ≠ 0 || fld c.w3 63 40 ≠ 0 || mask = 3, .ill)]
    <|> (if mask = 2 then arrayTrap lim 2 false <|> s.spanTrap s.cur.old lim 0 32 4 else none)

/-- APCFG (R297). -/
def execApcfg (q : UReg) (s : State) : Host.Outcome State Fault Refusal :=
  .next (s.command 1 (.apcfg q) q fun s c => s.apcfgTrap c)

/-- The issue traps of APQK (R298). -/
def State.apqkTrap (s : State) (c : Cmd) (slot : FSlot) : Option TrapCode :=
  let f := c.fmt slot
  let d := (s.unitOf s.cur.tid).dimAtIssue
  let t := s.cur.old
  let kr := c.rec_ (fld c.w2 39 36)
  let qr := c.rec_ (fld c.w2 35 32)
  let kp := fld c.w2 31 16
  let qp := fld c.w2 15 0
  let n := fld c.w3 37 32
  let w := 2 ^ kvSize f
  let rows (r : BufRec) (n p : Nat) : Option TrapCode :=
    ((List.range n).filterMap fun i => s.spanTrap t r (i * p) d w).head?
  firstTrap [(fld c.w2 63 40 ≠ 0 || fld c.w3 63 38 ≠ 0 || n > 32 || !s.kvSlotOk f || kp < d || qp < d, .ill)]
    <|> rowsTrap kr (kvSize f) <|> rowsTrap qr (kvSize f)
    <|> rows qr 32 qp <|> rows kr n kp

/-- APQK (R298). -/
def execApqk (q : UReg) (slot : FSlot) (s : State) : Host.Outcome State Fault Refusal :=
  .next (s.command 1 (.apqk q slot) q fun s c => s.apqkTrap c slot)

/-- The issue traps of APPV (R299). -/
def State.appvTrap (s : State) (c : Cmd) (slot : FSlot) : Option TrapCode :=
  let f := c.fmt slot
  let vr := c.rec_ (fld c.w2 39 36)
  let vp := fld c.w2 15 0
  let n := (s.unitOf s.cur.tid).keysAtIssue
  firstTrap [(fld c.w2 63 40 ≠ 0 || fld c.w2 35 16 ≠ 0 || c.w3 ≠ 0 || !s.kvSlotOk f || vp < 64, .ill)]
    <|> rowsTrap vr (kvSize f)
    <|> ((List.range n).filterMap fun j => s.spanTrap s.cur.old vr (j * vp) 64 (2 ^ kvSize f)).head?

/-- APPV (R299). -/
def execAppv (q : UReg) (t : TReg) (slot : FSlot) (acc hi : Bool) (s : State) : Host.Outcome State Fault Refusal :=
  .next (s.command 1 (.appv q t slot acc hi) q fun s c => s.appvTrap c slot)

/-- APRESC (R300). -/
def execApresc (q : UReg) (t : TReg) (s : State) : Host.Outcome State Fault Refusal :=
  .next (s.command 1 (.apresc q t) q fun _ c => if c.w2 ≠ 0 || c.w3 ≠ 0 then some .ill else none)

/-- The issue traps of APNORM (R300). -/
def State.apnormTrap (s : State) (c : Cmd) (t : TReg) (exp : Bool) : Option TrapCode :=
  let r := c.rec_ (fld c.w2 35 32)
  if exp then
    firstTrap [(t ≠ 0 || fld c.w2 63 36 ≠ 0 || fld c.w2 31 0 ≠ 0 || c.w3 ≠ 0, .ill)]
      <|> arrayTrap r 2 true <|> s.spanTrap s.cur.old r 0 64 4
  else if c.w2 ≠ 0 || c.w3 ≠ 0 then some .ill else none

/-- APNORM (R300). -/
def execApnorm (q : UReg) (t : TReg) (exp : Bool) (s : State) : Host.Outcome State Fault Refusal :=
  .next (s.command 1 (.apnorm q t exp) q fun s c => s.apnormTrap c t exp)

/-! ### Arithmetic of the Pair -/

/-- FP32 of a BF16, E4M3 or E5M2 code. -/
def kvVal (f : Fmt) (c : Nat) : Word :=
  match floatOf (fmtType f) with
  | some t => (fupcvt32 t (BitVec.ofNat 32 c)).1
  | none => 0
/-- Whether an FP32 pattern is a NaN. -/
def isNan32 (x : Word) : Bool := (dec32 x).isNan
/-- A NaN made by an operation from operands that are none (R295). -/
def madeNan (r : Word) (ops : List Word) : Nat := if isNan32 r && !(ops.any isNan32) then 1 else 0

/-- acc := Round(acc + x × y, FP32, 00) along a row, counting NaNs made (R81). -/
def dot : Word → List (Word × Word) → Word × Nat
  | acc, [] => (acc, 0)
  | acc, (x, y) :: t =>
    let r := (ffma32 .rne x y acc).1
    let (z, n) := dot r t
    (z, n + madeNan r [x, y, acc])

/-- s := Round(s + x, FP32, 00) along a row. -/
def sum32 : Word → List Word → Word × Nat
  | acc, [] => (acc, 0)
  | acc, x :: t =>
    let r := (fadd32 .rne acc x).1
    let (z, n) := sum32 r t
    (z, n + madeNan r [acc, x])

/-- Round to BF16, as a BF16 pattern (a P value never overflows). -/
def toBf16 (x : Word) : BitVec 16 := BitVec.ofNat 16 (((bf16.convert .rne .sat (dec32 x)).map (·.1)).getD 0)
/-- FP32 of a BF16 pattern. -/
def ofBf16 (x : BitVec 16) : Word := x.setWidth 32 <<< (16 : Nat)

/-- The result of one row of a score block (R298). -/
structure ScoreRow where
  m : Word
  rs : Word
  bsum : Word
  p : List (BitVec 16)
  keys : Mask
  nans : Nat
  deriving DecidableEq, Repr

/-- One row of APQK (R298): the scores u of the unmasked keys and the row's state after them. Where M and mn are both
−infinity, RS is what the formula gives, a NaN (DESIGN CHOICE, notes/assumptions/86). -/
def scoreRow (m : Word) (mk : Mask) (u : List (Word × Nat)) : ScoreRow :=
  let live := (List.range 32).filter fun j => !mk.getLsbD j
  let uj (j : Nat) : Word := (rd (0, 0) u j).1
  let n0 := (live.map fun j => (rd (0, 0) u j).2).sum
  if live.isEmpty then
    { m := m, rs := 0x3F800000, bsum := 0, p := List.replicate 32 0, keys := mk, nans := 0 }
  else
    let top := (live.drop 1).foldl (fun a j => w32 (fp32.minMax true a.toNat (uj j).toNat).1) (uj (live.headD 0))
    let mn := w32 (fp32.minMax true m.toNat top.toNat).1
    let expDiff (x : Word) : Word × Nat :=
      let d := (fadd32 .rne x (fneg32 mn)).1
      ((fexp232 d).1, madeNan d [x, mn])
    let rs := expDiff m
    let ps := (List.range 32).map fun j =>
      if mk.getLsbD j then ((0 : BitVec 16), 0) else ((toBf16 (expDiff (uj j)).1), (expDiff (uj j)).2)
    let s := sum32 0 (ps.map fun x => ofBf16 x.1)
    { m := mn, rs := rs.1, bsum := s.1, p := ps.map (·.1), keys := mk,
      nans := n0 + rs.2 + (ps.map (·.2)).sum + s.2 }

/-! ### The steps of the Pair -/

/-- Replaces the Pair's state of a unit. -/
def State.mapPair (s : State) (asid core : Nat) (f : Pair → Pair) : State :=
  s.mapUnit asid core fun u => { u with pair := f u.pair }

/-- Ends a Pair command with the NaNs it made (R86, R295). -/
def State.endPair (s : State) (asid core : Nat) (c : Cmd) (nans : Nat) : State :=
  s.finishCmd asid core c.id fun c => { c with mx := [0, 0, 0, 0, 0, nans] }

/-- What a Pair command reads, row by row: a record, the first element, how many, and their bytes. -/
def Cmd.pairReads (c : Cmd) (p : Pair) : List (BufRec × Nat × Nat × Nat) :=
  let rows (r : BufRec) (f : Fmt) (n pitch d : Nat) : List (BufRec × Nat × Nat × Nat) :=
    (List.range n).map fun i => (r, i * pitch, d, 2 ^ kvSize f)
  match c.i with
  | .apcfg _ => if fld c.w2 35 34 = 2 then [(c.rec_ (fld c.w2 39 36), 0, 32, 4)] else []
  | .apqk _ slot =>
    rows (c.rec_ (fld c.w2 35 32)) (c.fmt slot) 32 (fld c.w2 15 0) p.d ++
    rows (c.rec_ (fld c.w2 39 36)) (c.fmt slot) (fld c.w3 37 32) (fld c.w2 31 16) p.d
  | .appv _ _ slot _ _ => rows (c.rec_ (fld c.w2 39 36)) (c.fmt slot) p.nk (fld c.w2 15 0) 64
  | _ => []

/-- APCFG (R297). -/
def State.runCfg (s : State) (asid core : Nat) (c : Cmd) : State :=
  let mask := fld c.w2 35 34
  let s := s.mapPair asid core fun p =>
    let p := { p with c := c.w2.extractLsb' 0 32, mask := mask, online := c.w2.getLsbD 33,
                      d := fld c.w3 39 32 + 1, qpos0 := fld c.w3 31 0,
                      lim := if mask = 2 then (rd [] c.got 0).map (BitVec.ofNat 32) else p.lim }
    if c.w2.getLsbD 32 then
      { p with m := List.replicate 32 0xFF800000, ls := [], rs := List.replicate 32 0x3F800000 }
    else p
  s.endPair asid core c 0

/-- The key mask of a row (R298). -/
def Pair.maskRow (p : Pair) (n kpos i : Nat) : Mask :=
  maskOf fun j => n ≤ j || (p.mask = 1 && kpos + j > p.qpos0 + i) || (p.mask = 2 && kpos + j ≥ (rd 0 p.lim i).toNat)

/-- APQK (R298), of the query and key rows that it has read. -/
def State.runScores (s : State) (asid core : Nat) (c : Cmd) (f : Fmt) : State :=
  let p := (s.unit asid core).pair
  let n := fld c.w3 37 32
  let vals := c.got.map fun r => r.map (kvVal f)
  let ks := vals.drop 32
  let m := if p.online then p.m else List.replicate 32 0xFF800000
  let ls := if p.online then p.ls else []
  let rows := (List.range 32).map fun i =>
    let u := ks.map fun k =>
      let (a, x) := dot 0 ((rd [] vals i).zip k)
      let r := (fmul32 .rne a p.c).1
      (r, x + madeNan r [a, p.c])
    scoreRow (rd 0 m i) (p.maskRow n (fld c.w3 31 0) i) u
  let s := s.mapPair asid core fun p =>
    { p with m := rows.map (·.m), rs := rows.map (·.rs), bsum := rows.map (·.bsum),
             p := rows.map (·.p), mkeys := rows.map (·.keys), nk := n, ls := ls }
  ((s.count asid core 10 1).spend c.lc 1 1).endPair asid core c ((rows.map (·.nans)).sum)

/-- The FP32 value of a cell (R296). -/
def cell32 (x : Int) : Word := BitVec.ofInt 32 x

/-- APPV (R299), of the value rows that it has read. -/
def State.runValues (s : State) (asid core : Nat) (c : Cmd) (t : Nat) (f : Fmt) (acc hi : Bool) : State :=
  let p := (s.unit asid core).pair
  let vs := c.got.map fun r => r.map (kvVal f)
  let tile := (s.unit asid core).tile t
  let base := if hi then 64 else 0
  let one (i n : Nat) : Word × Nat :=
    let terms := ((List.range p.nk).filter fun j => !(rd (0 : Mask) p.mkeys i).getLsbD j).map fun j =>
      (ofBf16 (rd 0 (rd [] p.p i) j), rd 0 (rd [] vs j) n)
    let (a, k) := dot 0 terms
    if acc then
      let o := cell32 (tile.cell i (base + n))
      let r := (fadd32 .rne o a).1
      (r, k + madeNan r [o, a])
    else (a, k)
  let out := (List.range 32).map fun i => (List.range 64).map fun n => one i n
  let s := s.mapTile asid core t fun x =>
    { x with rows := (List.range 32).map fun i =>
        (List.range 128).map fun j =>
          if base ≤ j && j < base + 64 then ((rd (0, 0) (rd [] out i) (j - base)).1.toNat : Int) else x.cell i j }
  let sums := (List.range 32).map fun i =>
    let r := (fadd32 .rne (rd 0 p.ls i) (rd 0 p.bsum i)).1
    (r, madeNan r [rd 0 p.ls i, rd 0 p.bsum i])
  let s := if hi then s else s.mapPair asid core fun p => { p with ls := sums.map (·.1) }
  let nans := ((out.flatMap id).map (·.2)).sum + if hi then 0 else (sums.map (·.2)).sum
  s.endPair asid core c nans

/-- Replaces every cell of a tile by a function of its row and FP32 value, counting NaNs made. -/
def State.eachCell (s : State) (asid core t : Nat) (f : Nat → Word → Word × Nat) : State × Nat :=
  let x := (s.unit asid core).tile t
  let out := (List.range 32).map fun i => (x.row i).map fun v => f i (cell32 v)
  (s.mapTile asid core t fun x => { x with rows := out.map fun r => r.map fun v => (v.1.toNat : Int) },
    ((out.flatMap id).map (·.2)).sum)

/-- APRESC (R300). -/
def State.runResc (s : State) (asid core : Nat) (c : Cmd) (t : Nat) : State :=
  let p := (s.unit asid core).pair
  let mulBy (x : Word) (i : Nat) : Word × Nat :=
    let r := (fmul32 .rne x (rd 0 p.rs i)).1
    (r, madeNan r [x, rd 0 p.rs i])
  let (s, n) := s.eachCell asid core t fun i x => mulBy x i
  let ls := (List.range 32).map fun i => mulBy (rd 0 p.ls i) i
  let s := s.mapPair asid core fun p => { p with ls := ls.map (·.1), rs := List.replicate 32 0x3F800000 }
  s.endPair asid core c (n + (ls.map (·.2)).sum)

/-- APNORM (R300). -/
def State.runNorm (s : State) (asid core : Nat) (c : Cmd) (t : Nat) : State :=
  let p := (s.unit asid core).pair
  let (s, n) := s.eachCell asid core t fun i x =>
    let l := rd 0 p.ls i
    if (dec32 l).isZero then (0, 0)
    else
      let r := (fdiv32 x l).1
      (r, madeNan r [x, l])
  s.endPair asid core c n

/-- APNORM.EXP: M and LS as 64 elements of a record (R300). -/
def State.runExp (s : State) (asid core : Nat) (c : Cmd) : State :=
  let p := (s.unit asid core).pair
  let r := c.rec_ (fld c.w2 35 32)
  let vals := ((List.range 32).map fun i => rd 0 p.m i) ++ (List.range 32).map fun i => rd 0 p.ls i
  let cells := ((List.range 64).zip vals).flatMap fun (i, v) => (elemBytes r i 4).zip (bytesOf 4 v.toNat)
  s.withLines asid core c [] (elemRanges r 0 64 4) fun s =>
    match s.recWrite c core r cells with
    | (s, ids, none) => s.finishCmd asid core c.id fun c => { c with stores := ids }
    | (_, _, some e) => s.failCmd asid core c e.1 e.2

/-- The tile a Pair command touches. -/
def Cmd.pairTile (c : Cmd) : Option Nat :=
  match c.i with
  | .appv _ t _ _ _ | .apresc _ t => some t.toNat
  | .apnorm _ t exp => if exp then none else some t.toNat
  | _ => none

/-- The effect of a Pair command that has read its operands. -/
def State.runPair (s : State) (asid core : Nat) (c : Cmd) : State :=
  match c.i with
  | .apcfg _ => s.runCfg asid core c
  | .apqk _ slot => s.runScores asid core c (c.fmt slot)
  | .appv _ t slot acc hi => s.runValues asid core c t.toNat (c.fmt slot) acc hi
  | .apresc _ t => s.runResc asid core c t.toNat
  | .apnorm _ t exp => if exp then s.runExp asid core c else s.runNorm asid core c t.toNat
  | _ => s

/-- The next step of a Pair command: the next row that it reads, or its effect; a fault leaves the Pair's state and
its tile as they were (R292). -/
def State.pairStep (s : State) (asid core : Nat) (c : Cmd) : State :=
  match (c.pairReads (s.unit asid core).pair)[c.got.length]? with
  | some (r, first, n, w) =>
    s.withLines asid core c (elemRanges r first n w) [] fun s =>
      match s.recElems c core r w first n with
      | .ok xs => s.mapUnit asid core fun u => u.mapCmd c.id fun c =>
          { c with st := .started, got := c.got ++ [xs], hold := none, denied := [] }
      | .error e => s.failCmd asid core c e.1 e.2
  | none => s.runPair asid core c

/-- PAIR_COMMAND_START: the command of q1 that runs takes its next step; with none, the head of q1 starts when its
count is zero and its tile is free and settled (R272, R294, R296), or is discarded where it waits on a predecessor
behind it (R251). A pre-emption lets the Pair end its command (R295). -/
def execPairCommandStart (core asid : Nat) (s : State) : Host.Outcome State Fault Refusal :=
  .next (
    let u := s.unit asid core
    if !(s.domain asid).goes then s else
    match u.q1.find? fun c => c.st = .started with
    | some c => (s.haltedAt asid core).pairStep asid core c
    | none =>
      match u.head 1 with
      | none => s
      | some c =>
        if !(s.domain asid).starts then s
        else if headStuck c (u.behind 1 c.id) then (s.postCmd c .graph).discardCmd asid core c
        else if c.count ≠ 0 || !s.tilesFree asid core c
            || c.pairTile.any (fun t => !u.settled t || u.isSource t) then s
        else s.pairStep asid core c)

end Sys2Proof.Machine
end

