-- ==== Sys2Proof/Machine/Copy.lean ====
section
/-! DEFINITION. The Copy Engine: major 0x34, COPY_COMMAND_START, CERED_LAND and PROXY_ACK (R288, R289,
R291 to R295, R302 to R309). A command moves a line at a step, its checkpoint (R18, R295); CERED reads its source at
its start and lands at CERED_LAND (notes/assumptions/9). -/

namespace Sys2Proof.Machine

/-! ### Issue traps -/

/-- The access traps of a record used as an array of an ESIZE, with STRIDE 1 where asked. -/
def copyRec (r : BufRec) (esize : Nat) (unitStride read write : Bool) : Option TrapCode :=
  firstTrap [(r.esize ≠ esize || (unitStride && r.stride ≠ 1), .ill), ((read && !r.r) || (write && !r.w), .perm)]

/-- Traps with ILL come before those with PERM, and these before span traps (R291). -/
def inOrder (ts : List (Option TrapCode)) : Option TrapCode :=
  let xs := ts.filterMap id
  (xs.find? (· = .ill)) <|> (xs.find? (· = .perm)) <|> xs.head?

/-- A span of bytes or elements that passes an extent, and the placement of its stash bytes (R217). -/
def State.spanBad (s : State) (t : Thread) (r : BufRec) (first n w : Nat) : Option TrapCode :=
  if first + n > r.extent then some .bounds else s.spanTrap t r first n w

/-- The traps of a copy of n bytes (R303). -/
def State.copyTrap (s : State) (t : Thread) (src dst : BufRec) (sidx didx n : Nat) : Option TrapCode :=
  inOrder [copyRec src 0 true true false, copyRec dst 0 true false true, s.spanBad t src sidx n 1,
    s.spanBad t dst didx n 1]

/-- log2 of the bytes of an element of a type: ESIZE of a record of it; packed types have 0. -/
def typeSize (ty : Nat) : Nat := rd 0 [2, 1, 1, 0, 0, 0, 0, 0] ty

/-- Whether a slot is accepted by CEROPE and CEPATCH (R305, R306). -/
def ropeSlotOk (recs : List BufRec) (f : Fmt) : Bool := slotFits recs f [0, 1, 2, 3, 4] [0] && fmtAdj f = 0

/-- What a rotation of rows is given (R305). -/
structure Rope where
  hd : Nat
  trec : BufRec
  drec : BufRec
  srec : BufRec
  d : Fmt
  s : Fmt
  ntok : Nat
  pos0 : Nat
  didx : Nat := 0
  sidx : Nat := 0
  deriving DecidableEq, Repr

/-- The traps of a rotation (R305). -/
def State.ropeTrap (s : State) (t : Thread) (recs : List BufRec) (x : Rope) : Option TrapCode :=
  let n := x.ntok * x.hd
  let ws := 2 ^ typeSize (fmtType x.s)
  let wd := 2 ^ typeSize (fmtType x.d)
  inOrder [firstTrap [(x.hd % 2 ≠ 0 || !ropeSlotOk recs x.d || !ropeSlotOk recs x.s, .ill)],
    copyRec x.srec (typeSize (fmtType x.s)) false true false, copyRec x.drec (typeSize (fmtType x.d)) false false true,
    copyRec x.trec 2 true true false,
    if n = 0 then none else s.spanBad t x.srec x.sidx n ws,
    if n = 0 then none else s.spanBad t x.drec x.didx n wd,
    if n = 0 then none else s.spanBad t x.trec (x.pos0 * x.hd) n 4]

/-- The operands of CEROPE (R305). -/
def Cmd.rope (c : Cmd) (slot src : FSlot) : Rope :=
  { hd := fld c.w2 55 48 + 1, trec := c.rec_ (fld c.w2 47 44), drec := c.rec_ (fld c.w2 43 40),
    srec := c.rec_ (fld c.w2 39 36), d := c.fmt slot, s := c.fmt src, ntok := fld c.w2 15 0,
    pos0 := fld c.w3 31 0 }

/-- The issue traps of CECOPY (R303). -/
def State.cecopyTrap (s : State) (c : Cmd) (t : TReg) (tile : Bool) : Option TrapCode :=
  let n := fld c.w2 31 0
  let sidx := fld c.w3 31 0
  let didx := fld c.w3 63 32
  let dst := c.rec_ (fld c.w2 39 36)
  if tile then
    inOrder [firstTrap [(fld c.w2 63 40 ≠ 0 || fld c.w2 35 32 ≠ 0 || sidx + n > 32768, .ill)],
      copyRec dst 0 true false true, s.spanBad s.cur.old dst didx n 1]
  else
    firstTrap [(fld c.w2 63 40 ≠ 0 || t ≠ 0, .ill)]
      <|> s.copyTrap s.cur.old (c.rec_ (fld c.w2 35 32)) dst sidx didx n

/-- CECOPY (R303). -/
def execCecopy (q : UReg) (t : TReg) (tile : Bool) (s : State) : Host.Outcome State Fault Refusal :=
  .next (s.command 2 (.cecopy q t tile) q fun s c => s.cecopyTrap c t tile)

/-- The issue traps of CELIST (R304). -/
def State.celistTrap (s : State) (c : Cmd) : Option TrapCode :=
  let r := c.rec_ (fld c.w2 35 32)
  inOrder [firstTrap [(fld c.w2 63 36 ≠ 0 || fld c.w2 31 16 ≠ 0 || fld c.w3 63 32 ≠ 0, .ill)],
    copyRec r 0 true true false, s.spanBad s.cur.old r (fld c.w3 31 0) (32 * fld c.w2 15 0) 1]

/-- CELIST (R304). -/
def execCelist (q : UReg) (s : State) : Host.Outcome State Fault Refusal :=
  .next (s.command 2 (.celist q) q fun s c => s.celistTrap c)

/-- The issue traps of CEROPE (R305). -/
def State.ceropeTrap (s : State) (c : Cmd) (slot src : FSlot) : Option TrapCode :=
  firstTrap [(fld c.w2 63 56 ≠ 0 || fld c.w2 35 16 ≠ 0 || fld c.w3 63 32 ≠ 0, .ill)]
    <|> s.ropeTrap s.cur.old c.recs (c.rope slot src)

/-- CEROPE (R305). -/
def execCerope (q : UReg) (slot src : FSlot) (s : State) : Host.Outcome State Fault Refusal :=
  .next (s.command 2 (.cerope q slot src) q fun s c => s.ceropeTrap c slot src)

/-- Whether a stash record names no area of a thread: reserved bits of BASE, or a footprint of the lead (R217). -/
def noArea (t : Thread) (r : BufRec) : Bool :=
  r.stash && (r.base / 2 ^ 21 ≠ 0 || (r.base / 2 ^ 20 % 2 = 1 && t.isLead))

/-- The trap of n elements of a record that a command reaches, checked then (R217, R306); a footprint whose wave has
retired has no end any more (notes/assumptions/65). -/
def State.reachTrap (s : State) (c : Cmd) (r : BufRec) (first n w : Nat) : Option TrapCode :=
  if s.freed c (r.stashPlace 0) && r.stash then if (r.elemOff (first + n - 1) w).2 then none else some .bounds
  else s.spanTrap (s.thread c.tid) r first n w

/-- The issue traps of CEPATCH (R306). -/
def State.cepatchTrap (s : State) (c : Cmd) (slot : FSlot) (rot : Bool) : Option TrapCode :=
  let f := c.fmt slot
  let hd := fld c.w2 31 24 + 1
  let delta := sfld c.w3 23 0
  let t := c.rec_ (fld c.w2 43 40)
  inOrder [firstTrap [(fld c.w3 63 24 ≠ 0 || !ropeSlotOk c.recs f || (rot && hd % 2 ≠ 0)
      || (fld c.w2 23 0 : Int) + delta < 0, .ill)],
    copyRec (c.rec_ (fld c.w2 39 36)) (typeSize (fmtType f)) false true true,
    copyRec (c.rec_ (fld c.w2 35 32)) 2 false true false,
    if rot then copyRec t 2 true true false else none,
    if rot && fld c.w2 63 48 ≠ 0 then s.spanBad s.cur.old t (delta.natAbs * hd) hd 4 else none,
    if fld c.w2 63 48 ≠ 0 && (noArea s.cur.old (c.rec_ (fld c.w2 39 36)) || noArea s.cur.old (c.rec_ (fld c.w2 35 32)))
      then some .stashmap else none]

/-- CEPATCH (R306). -/
def execCepatch (q : UReg) (slot : FSlot) (rot : Bool) (s : State) : Host.Outcome State Fault Refusal :=
  .next (s.command 2 (.cepatch q slot rot) q fun s c => s.cepatchTrap c slot rot)

/-- Whether the byte spans of two records share a byte of memory or of a stash area. -/
def spansMeet (a b : BufRec) : Bool :=
  a.stash = b.stash &&
  (if a.stash then a.base / 2 ^ 20 = b.base / 2 ^ 20 else a.lent = b.lent && (!a.lent || a.lender = b.lender)) &&
  overlaps a.base a.span b.base b.span

/-- The issue traps of CEREQ (R307). -/
def State.cereqTrap (s : State) (c : Cmd) (slot src : FSlot) : Option TrapCode :=
  let t := s.cur.old
  let fd := c.fmt slot
  let fs := c.fmt src
  let dst := c.rec_ (fld c.w2 39 36)
  let srcR := c.rec_ (fld c.w2 35 32)
  let ed := c.rec_ (fmtBuf fd)
  let es := c.rec_ (fmtBuf fs)
  let rows := fld c.w2 31 16
  let len := fld c.w2 15 0
  let g := ceilDiv len 16
  let bytes (f : Fmt) : Nat := rows * len * typeBits (fmtType f) / 8 / 2 ^ typeSize (fmtType f)
  let codes := [0, 1, 2, 3, 4, 5, 6, 7]
  inOrder [firstTrap [(fld c.w2 63 40 ≠ 0 || c.w3 ≠ 0 || len = 0, .ill),
      (!slotFits c.recs fs codes [0, 1, 2] || !slotFits c.recs fd codes [0, 1], .ill),
      (len * typeBits (fmtType fs) % 8 ≠ 0 || len * typeBits (fmtType fd) % 8 ≠ 0, .ill),
      (spansMeet srcR dst || (fmtScale fd = 1 && (spansMeet srcR ed || spansMeet dst ed)), .ill),
      ((fmtScale fs ≠ 0 && !es.r) || (fmtScale fd = 1 && !ed.w), .perm)],
    copyRec srcR (typeSize (fmtType fs)) false true false, copyRec dst (typeSize (fmtType fd)) false false true,
    s.spanBad t srcR 0 (bytes fs) (2 ^ typeSize (fmtType fs)),
    s.spanBad t dst 0 (bytes fd) (2 ^ typeSize (fmtType fd)),
    if fmtScale fs = 1 then s.spanBad t es 0 (rows * g) 1
      else if fmtScale fs = 2 then s.spanBad t es 0 rows 4 else none,
    if fmtScale fd = 1 then s.spanBad t ed 0 (rows * g) 1 else none]

/-- CEREQ (R307). -/
def execCereq (q : UReg) (slot src : FSlot) (s : State) : Host.Outcome State Fault Refusal :=
  .next (s.command 2 (.cereq q slot src) q fun s c => s.cereqTrap c slot src)

/-- The issue traps of CERED (R288, R308). -/
def State.ceredTrap (s : State) (_c : Cmd) (q : UReg) : Option TrapCode :=
  let w := s.quadReg q 2
  let core := tcore w
  let det := s.det s.cur.tid
  let placed := ((s.launchOf s.cur.tid).map fun l => l.place.getLsbD core).getD false
  firstTrap [(fld w 63 16 ≠ 0 || fld w 7 4 ≠ 0 || s.quadReg q 3 ≠ 0 || core > 191, .ill),
    (!det && (!s.enabled.getLsbD core || !placed), .ill),
    (det && core ≠ (s.lcOf s.cur.tid).logcore, .atomdet)]

/-- CERED (R288, R308). In deterministic mode TCORE names a logical core (R62). -/
def execCered (q : UReg) (t : TReg) (op : RedOp) (s : State) : Host.Outcome State Fault Refusal :=
  .next (s.command 2 (.cered q t op) q fun s c => s.ceredTrap c q)

/-- The issue traps of CEFILL (R309). -/
def State.cefillTrap (s : State) (c : Cmd) : Option TrapCode :=
  let r := c.rec_ (fld c.w2 35 32)
  inOrder [firstTrap [(fld c.w2 63 36 ≠ 0, .ill)], copyRec r 0 true false true,
    s.spanBad s.cur.old r 0 (fld c.w2 31 0) 1]

/-- CEFILL (R309). -/
def execCefill (q : UReg) (s : State) : Host.Outcome State Fault Refusal :=
  .next (s.command 2 (.cefill q) q fun s c => s.cefillTrap c)

/-! ### Lines (R302) -/

/-- What one element of a destination receives: its bytes, and what it counts (R295). -/
structure Piece where
  bytes : List Byte
  /-- MXBADT, MXINEX, MXSAT, MXPSKIP, MXCVT, MXNAN. -/
  mx : List Nat := []
  /-- An overflow under policy 11. -/
  late : Bool := false
  deriving DecidableEq, Repr

/-- Adds counts element by element. -/
def addCounts (a b : List Nat) : List Nat := (List.range 6).map fun i => rd 0 a i + rd 0 b i

/-- The line of a destination byte: of memory, or of a stash area. -/
def lineKey (r : BufRec) (off : Nat) : Nat := ((if r.stash then r.base % 2 ^ 20 else r.base) + off) / 128

/-- The address that a fault names for a line that is not written: the line, or the faulting address
where the destination is a stash (R292, R348). -/
def notWritten (r : BufRec) (line addr : Nat) : Nat := if r.stash then addr else max r.base (line * 128)

/-- A row of a destination: n elements of w bytes from element `first`, what element e reads, and what it receives. -/
structure Span where
  dst : BufRec
  first : Nat
  n : Nat
  w : Nat
  reads : Nat → List Range
  src : State → Nat → Except (TrapCode × Nat) Piece

/-- The elements of a row, each with the offsets of its bytes. -/
def Span.elems (x : Span) : List (Nat × List Nat) := (List.range x.n).map fun e => (e, elemBytes x.dst (x.first + e) x.w)

/-- The lines of a row, in ascending address (R302). -/
def Span.lines (x : Span) : List Nat :=
  sortBy id ((x.elems.flatMap fun e => e.2.map fun o => lineKey x.dst o).eraseDups)

/-- The pieces of the elements that have a byte in a line. -/
def piecesOf (src : Nat → Except (TrapCode × Nat) Piece) : List (Nat × List Nat) →
    Except (TrapCode × Nat) (List (Piece × List Nat))
  | [] => .ok []
  | (e, offs) :: t =>
    match src e, piecesOf src t with
    | .ok p, .ok ps => .ok ((p, offs) :: ps)
    | .error x, _ => .error x
    | _, .error x => .error x

/-- Replaces a command of a core. -/
def State.mapCmd (s : State) (asid core id : Nat) (f : Cmd → Cmd) : State := s.mapUnit asid core fun u => u.mapCmd id f

/-- Ends a copy command that has gone as far as it could, with the fault that stopped it and the address of what was
not written (R292, R295). -/
def State.stopCopy (s : State) (asid core : Nat) (c : Cmd) (code : TrapCode) (addr : Nat) : State :=
  s.failCmd asid core c code addr

/-- Writes one line of a row: its source bytes are read first, and the line is written byte-masked (R302). An element
counts in the line of its first byte. -/
def State.copyLine (s : State) (asid core : Nat) (c : Cmd) (x : Span) (line : Nat) : State :=
  let on := x.elems.filter fun e => e.2.any fun o => lineKey x.dst o = line
  let writes : List Range := on.flatMap fun e => (e.2.filter fun o => lineKey x.dst o = line).map fun o => (x.dst, o, 1)
  s.withLines asid core c (on.flatMap fun e => x.reads e.1) writes fun s =>
    match piecesOf (x.src s) on with
    | .error e => s.stopCopy asid core c e.1 (notWritten x.dst line e.2)
    | .ok ps =>
      let cells := ps.flatMap fun (p, offs) => (offs.zip p.bytes).filter fun b => lineKey x.dst b.1 = line
      let first := ps.filter fun p => lineKey x.dst (p.2.headD 0) = line
      match s.recWrite c core x.dst cells with
      | (s, ids, none) =>
        (s.count asid core 11 1).mapCmd asid core c.id fun c =>
          { c with st := .started, line := c.line + 1, stores := c.stores ++ ids, hold := none, denied := [],
                   mx := first.foldl (fun m p => addCounts m p.1.mx) c.mx,
                   late := if first.any fun p => p.1.late then some .cvtovf else c.late }
      | (s, ids, some e) =>
        (s.mapCmd asid core c.id fun c => { c with stores := c.stores ++ ids }).stopCopy asid core c e.1
          (notWritten x.dst line e.2)

/-! ### CECOPY and CEFILL (R303, R309) -/

/-- A byte of a tile's image. -/
def Tile.imageByte (t : Tile) (x : Nat) : Byte :=
  let n := x / 8
  BitVec.ofInt 8 (t.cell (n / 128) (n % 128) / 2 ^ (8 * (x % 8)))

/-- A copy of n bytes. -/
def copySpan (c : Cmd) (core : Nat) (src dst : BufRec) (sidx didx n : Nat) : Span :=
  { dst := dst, first := didx, n := n, w := 1, reads := fun e => elemRanges src (sidx + e) 1 1,
    src := fun s e => (s.recRead c core src (elemBytes src (sidx + e) 1)).map fun bs => { bytes := bs } }

/-! ### CEROPE and CEPATCH (R305, R306) -/

/-- Round(x, TYPE(D), 00) of an FP32 value under the slot's OVF: the saturated value is written under
policy 11 (R86, R295). Of a NaN that an integer type has no saturated value for, 0 is written and CVTOVF posted; a
canonical NaN that policy 10 delivers of a value that is none counts in MXCVT alone (R72, R85; DESIGN CHOICE,
notes/assumptions/57). -/
def toSlot (f : Fmt) (r : Rnd) (v : Val) (sticky : Bool := false) : Nat × Bool × Bool :=
  let ty := fmtType f
  match encElem ty r (fmtOvf f) v sticky with
  | some (x, fl) => (x, fl &&& fOF ≠ 0, false)
  | none =>
    match encElem ty r .sat v sticky with
    | some (x, fl) => (x, fl &&& fOF ≠ 0, true)
    | none => (0, false, true)

/-- Element i of a record of a floating-point type, as FP32. -/
def State.recFloat (s : State) (c : Cmd) (core : Nat) (r : BufRec) (f : Fmt) (i : Nat) :
    Except (TrapCode × Nat) Word :=
  (s.recElem c core r i (2 ^ typeSize (fmtType f))).map fun x =>
    match floatOf (fmtType f) with
    | some t => (fupcvt32 t (BitVec.ofNat 32 x)).1
    | none => 0

/-- A rotated value: x × a + y × b, fused and rounded to FP32, and whether it made a NaN. -/
def rotate (x a y b : Word) : Word × Nat :=
  -- x × a exactly, then the fused sum: both products exact, one rounding (R305)
  let r := wf32 (sumProducts x a y b)
  (r.1, madeNan r.1 [x, a, y, b])
where
  /-- Round(x × a + y × b, FP32, 00) with both products exact. -/
  sumProducts (x a y b : Word) : Nat × Flags :=
    match dec32 x, dec32 a with
    | .fin n1 m1 e1, .fin n2 m2 e2 => fp32.fma .rne (dec32 y) (dec32 b) (.fin (n1 != n2) (m1 * m2) (e1 + e2))
    | .nan g, _ => (fp32.nan, if g then fNV else 0)
    | _, .nan g => (fp32.nan, if g then fNV else 0)
    | .inf n, v => if v.isZero then (fp32.nan, fNV) else fp32.fma .rne (dec32 y) (dec32 b) (.inf (n != v.neg))
    | v, .inf n => if v.isZero then (fp32.nan, fNV) else fp32.fma .rne (dec32 y) (dec32 b) (.inf (n != v.neg))

/-- Element e of a rotated row: `src` gives element numbers of the source row, `table` the element
number of cs for a pair, `flip` negates sn. -/
def State.roped (s : State) (c : Cmd) (core : Nat) (srec trec : BufRec) (fs fd : Fmt) (src table : Nat → Nat)
    (flip : Bool) (e : Nat) : Except (TrapCode × Nat) Piece :=
  let k := e / 2
  match s.recFloat c core srec fs (src (2 * k)), s.recFloat c core srec fs (src (2 * k + 1)),
        s.recElem c core trec (table k) 4, s.recElem c core trec (table k + 1) 4 with
  | .ok x, .ok y, .ok cs, .ok sn =>
    let cs := BitVec.ofNat 32 cs
    let sn := if flip then fneg32 (BitVec.ofNat 32 sn) else BitVec.ofNat 32 sn
    let (v, nans) := if e % 2 = 0 then rotate x cs (fneg32 y) sn else rotate x sn y cs
    let (code, cvt, late) := toSlot fd .rne (dec32 v)
    .ok { bytes := bytesOf (2 ^ typeSize (fmtType fd)) code,
          mx := [0, 0, 0, 0, if cvt then 1 else 0, nans], late := late }
  | .error x, _, _, _ | _, .error x, _, _ | _, _, .error x, _ | _, _, _, .error x => .error x

/-- What a rotated element reads: its pair of the source row, and the table's pair. -/
def ropeReads (srec trec : BufRec) (fs : Fmt) (src table : Nat → Nat) (e : Nat) : List Range :=
  elemRanges srec (src (2 * (e / 2))) 1 (2 ^ typeSize (fmtType fs)) ++
  elemRanges srec (src (2 * (e / 2) + 1)) 1 (2 ^ typeSize (fmtType fs)) ++ elemRanges trec (table (e / 2)) 2 4

/-- Row t of a rotation (R305). -/
def ropeSpan (c : Cmd) (core : Nat) (x : Rope) (t : Nat) : Span :=
  let src (k : Nat) : Nat := x.sidx + t * x.hd + k
  let table (k : Nat) : Nat := 2 * ((x.pos0 + t) * (x.hd / 2) + k)
  { dst := x.drec, first := x.didx + t * x.hd, n := x.hd, w := 2 ^ typeSize (fmtType x.d),
    reads := ropeReads x.srec x.trec x.s src table,
    src := fun s e => s.roped c core x.srec x.trec x.s x.d src table false e }

/-- Token u of a CEPATCH, in the order in which it takes them (R306). -/
def Cmd.token (c : Cmd) (u : Nat) : Nat :=
  let nt := fld c.w2 63 48
  fld c.w2 23 0 + if sfld c.w3 23 0 > 0 then nt - 1 - u else u

/-- The page-list elements of a token's source and destination rows (R306). -/
def Cmd.pageElems (c : Cmd) (u : Nat) : List Nat :=
  let plog := fld c.w2 47 44
  [c.token u / 2 ^ plog, ((c.token u : Int) + sfld c.w3 23 0).toNat / 2 ^ plog]

/-- The rows of a token, from the page-list elements that were read. -/
def Cmd.tokenRows (c : Cmd) (u : Nat) (pages : List Nat) : Nat × Nat :=
  let plog := fld c.w2 47 44
  let to_ := ((c.token u : Int) + sfld c.w3 23 0).toNat
  (rd 0 pages 0 * 2 ^ plog + c.token u % 2 ^ plog, rd 0 pages 1 * 2 ^ plog + to_ % 2 ^ plog)

/-- The row that a token moves to, from the row of a (R306). -/
def patchSpan (c : Cmd) (core : Nat) (f : Fmt) (rot : Bool) (a b : Nat) : Span :=
  let hd := fld c.w2 31 24 + 1
  let delta := sfld c.w3 23 0
  let rows := c.rec_ (fld c.w2 39 36)
  let trec := c.rec_ (fld c.w2 43 40)
  let w := 2 ^ typeSize (fmtType f)
  let table (k : Nat) : Nat := 2 * (delta.natAbs * (hd / 2) + k)
  if rot then
    { dst := rows, first := b * hd, n := hd, w := w, reads := ropeReads rows trec f (fun k => a * hd + k) table,
      src := fun s e => s.roped c core rows trec f f (fun k => a * hd + k) table (delta < 0) e }
  else
    { dst := rows, first := b * hd, n := hd, w := w, reads := fun e => elemRanges rows (a * hd + e) 1 w,
      src := fun s e => (s.recRead c core rows (elemBytes rows (a * hd + e) w)).map fun bs => { bytes := bs } }

/-- The address of the first line of a row of a record, which a fault names as not written (R292). -/
def rowAddr (r : BufRec) (first w : Nat) : Nat :=
  if r.stash then 0 else
  let a := r.base + (r.elemOff first w).1
  max r.base (a / 128 * 128)

/-! ### CEREQ (R307) -/

/-- The exact product of two values. -/
def Val.times (a b : Val) : Val :=
  match a, b with
  | .nan g, _ => .nan g
  | _, .nan g => .nan g
  | .inf n, v => if v.isZero then .nan false else .inf (n != v.neg)
  | v, .inf n => if v.isZero then .nan false else .inf (n != v.neg)
  | .fin n1 m1 e1, .fin n2 m2 e2 => .fin (n1 != n2) (m1 * m2) (e1 + e2)

/-- Code n of a record of packed or whole elements. -/
def State.recCode (s : State) (c : Cmd) (core : Nat) (r : BufRec) (ty n : Nat) : Except (TrapCode × Nat) Nat :=
  let b := typeBits ty
  if b < 8 then (s.recElem c core r (n * b / 8) 1).map fun x => x / 2 ^ (n * b % 8) % 2 ^ b
  else s.recElem c core r n (b / 8)

/-- The real value of source element (r, e) (R74), with what reading it counts: code 10 of a T element
and a NaN made by its scale. -/
def State.reqValue (s : State) (c : Cmd) (core : Nat) (f : Fmt) (r e len : Nat) :
    Except (TrapCode × Nat) (Val × List Nat) :=
  let ty := fmtType f
  let scale := c.rec_ (fmtBuf f)
  match s.recCode c core (c.rec_ (fld c.w2 35 32)) ty (r * len + e),
        (if fmtScale f = 1 then s.recElem c core scale (r * ceilDiv len 16 + e / 16) 1
         else if fmtScale f = 2 then s.recElem c core scale r 4 else .ok 0) with
  | .error x, _ => .error x
  | _, .error x => .error x
  | .ok code, .ok sc =>
    let v := (decElem ty code).scale (fmtAdj f)
    let badt := if ty = 7 && code = 2 then 1 else 0
    if fmtScale f = 1 then .ok (v.scale (sintOf 8 sc), [badt])
    else if fmtScale f = 2 then
      let f := dec32 (BitVec.ofNat 32 sc)
      let y := v.times f
      .ok (y, [badt, 0, 0, 0, 0, if y.isNan && !v.isNan && !f.isNan then 1 else 0])
    else .ok (v, [badt])

/-- The real values of elements of a row. -/
def State.reqValues (s : State) (c : Cmd) (core : Nat) (f : Fmt) (r len : Nat) : List Nat →
    Except (TrapCode × Nat) (List (Val × List Nat))
  | [] => .ok []
  | e :: t =>
    match s.reqValue c core f r e len, s.reqValues c core f r len t with
    | .ok v, .ok vs => .ok (v :: vs)
    | .error x, _ => .error x
    | _, .error x => .error x

/-- EMAX of a type (R307). -/
def emaxOf (ty : Nat) : Int := rd 0 [127, 127, 15, 8, 15, 6, 2, 0] ty

/-- floor(log2 a) of the largest magnitude a of a block's finite elements, if there is one above 0. -/
def blockTop (vs : List Val) : Option Int :=
  (vs.filterMap fun v => match v with
    | .fin _ m e => if m = 0 then none else some ((Nat.log2 m : Int) + e)
    | _ => none).foldl (fun r x => some (match r with | some y => max x y | none => x)) none

/-- The exponent of a block (R307). -/
def blockExp (f : Fmt) (vs : List Val) : Int :=
  match blockTop vs with
  | none => 0
  | some t => min 127 (max (-128) (t - emaxOf (fmtType f) - fmtAdj f))

/-- The elements of block g of a row. -/
def blockElems (g len : Nat) : List Nat := (List.range 16).filterMap fun i =>
  if 16 * g + i < len then some (16 * g + i) else none

/-- The exponent of block g of row r, 0 where the destination is not scaled by block. -/
def State.reqExp (s : State) (c : Cmd) (core : Nat) (fs fd : Fmt) (r g len : Nat) : Except (TrapCode × Nat) Int :=
  if fmtScale fd = 1 then
    (s.reqValues c core fs r len (blockElems g len)).map fun vs => blockExp fd (vs.map (·.1))
  else .ok 0

/-- One destination element (r, e): its code and what it counts. -/
def State.reqCode (s : State) (c : Cmd) (core : Nat) (fs fd : Fmt) (r len e : Nat) :
    Except (TrapCode × Nat) (Nat × Piece) :=
  match s.reqValue c core fs r e len, s.reqExp c core fs fd r (e / 16) len with
  | .ok (v, mx), .ok eb =>
    let (code, cvt, late) := toSlot fd (fmtRnd fd) (v.scale (-(eb + fmtAdj fd)))
    .ok (code, { bytes := [], mx := addCounts mx [0, 0, 0, 0, if cvt then 1 else 0, 0], late := late })
  | .error x, _ => .error x
  | _, .error x => .error x

/-- The codes of several elements, packed, with what they count. -/
def State.reqPacked (s : State) (c : Cmd) (core : Nat) (fs fd : Fmt) (r len : Nat) : List Nat →
    Except (TrapCode × Nat) (Nat × Piece)
  | [] => .ok (0, { bytes := [] })
  | e :: t =>
    match s.reqCode c core fs fd r len e, s.reqPacked c core fs fd r len t with
    | .ok (x, p), .ok (y, q) =>
      .ok (x + y * 2 ^ typeBits (fmtType fd), { bytes := [], mx := addCounts p.mx q.mx, late := p.late || q.late })
    | .error x, _ => .error x
    | _, .error x => .error x

/-- What the elements of a row read of their record and of their scales (R307). -/
def reqReads (c : Cmd) (f : Fmt) (r len : Nat) (es : List Nat) : List Range :=
  let src := c.rec_ (fld c.w2 35 32)
  let b := typeBits (fmtType f)
  es.flatMap fun e =>
    (if b < 8 then elemRanges src ((r * len + e) * b / 8) 1 1 else elemRanges src (r * len + e) 1 (b / 8)) ++
    if fmtScale f = 1 then elemRanges (c.rec_ (fmtBuf f)) (r * ceilDiv len 16 + e / 16) 1 1
    else if fmtScale f = 2 then elemRanges (c.rec_ (fmtBuf f)) r 1 4 else []

/-- The rows that CEREQ writes for row r: its codes, and its exponent bytes (R307). -/
def reqSpans (c : Cmd) (core : Nat) (fd fs : Fmt) (r : Nat) : List Span :=
  let len := fld c.w2 15 0
  let bits := typeBits (fmtType fd)
  let w := max 1 (bits / 8)
  let per := max 1 (8 / bits)
  let n := len / per
  let blocks := ceilDiv len 16
  let es (u : Nat) : List Nat := (List.range per).map fun i => u * per + i
  let codes : Span :=
    { dst := c.rec_ (fld c.w2 39 36), first := r * n, n := n, w := w,
      reads := fun u => reqReads c fs r len (if fmtScale fd = 1 then blockElems (u * per / 16) len else es u),
      src := fun s u => (s.reqPacked c core fs fd r len (es u)).map fun (x, p) => { p with bytes := bytesOf w x } }
  let exps : Span :=
    { dst := c.rec_ (fmtBuf fd), first := r * blocks, n := blocks, w := 1,
      reads := fun b => reqReads c fs r len (blockElems b len),
      src := fun s b => (s.reqExp c core fs fd r b len).map fun eb => { bytes := [BitVec.ofInt 8 eb] } }
  if fmtScale fd = 1 then [codes, exps] else [codes]

/-! ### CELIST (R304) -/

/-- The byte of the list at which its entry e starts, and the address that a fault of the entry names. -/
def Cmd.entryAt (c : Cmd) (e : Nat) : Nat × Nat :=
  let r := c.rec_ (fld c.w2 35 32)
  let at_ := fld c.w3 31 0 + 32 * e
  (at_, if r.stash then 0 else r.base + at_)

/-- The rows that an entry of a list moves, from its 32 bytes, or the trap of its checks, which are made when the
engine reaches it (R304). -/
def State.entrySpans (s : State) (core : Nat) (c : Cmd) (bs : List Byte) : Except TrapCode (List Span) :=
  let word (o : Nat) : Nat := leAt bs o 4
  let ctl : Word := BitVec.ofNat 32 (word 0)
  let rp : Word := BitVec.ofNat 32 (word 0x14)
  let t := s.thread c.tid
  let src := c.rec_ (fld ctl 7 4)
  let dst := c.rec_ (fld ctl 11 8)
  if fld ctl 3 0 > 1 || fld ctl 15 15 ≠ 0 || fld ctl 31 19 ≠ 0 || fld rp 31 12 ≠ 0 || leAt bs 0x18 8 ≠ 0 then .error .ill
  else if fld ctl 3 0 = 0 then
    match (if c.line = 0 then s.copyTrap t src dst (word 8) (word 0xC) (word 4) else none) with
    | some code => .error code
    | none => .ok [copySpan c core src dst (word 8) (word 0xC) (word 4)]
  else
    let x : Rope :=
      { hd := fld rp 7 0 + 1, trec := c.rec_ (fld rp 11 8), drec := dst, srec := src,
        d := rd 0 c.fmts (fld ctl 18 16), s := rd 0 c.fmts (fld ctl 14 12), ntok := word 4,
        pos0 := word 0x10, didx := word 0xC, sidx := word 8 }
    match (if c.line = 0 then s.ropeTrap t c.recs x else none) with
    | some code => .error code
    | none => .ok ((List.range x.ntok).map fun t => ropeSpan c core x t)

/-! ### CERED (R288, R289, R308) -/

/-- The channel of the Copy Engine from one die to another (R246). -/
def State.channel (s : State) (asid a b : Nat) : Fifo :=
  rd {} (s.domain asid).channels (Config.dies * (a / Config.coresPerDie) + b / Config.coresPerDie)

/-- The free tags of a unit, in ascending order. -/
def Unit_.freeList (u : Unit_) : List Nat := (List.range 64).filter fun n => !(u.tag n).live

/-- Takes proxy tags on a target core for source tags, and hands them the retained prompt tiles that
they are owed (R289). What saturates there when they retire counts in the CERED's own launch-on-core (R86; DESIGN
CHOICE, notes/assumptions/58). -/
def State.takeProxies (s : State) (asid core target : Nat) (c : Cmd) (pairs : List (Nat × Nat × Nat)) : State :=
  pairs.foldl (fun s (tag, proxy, plane) =>
    let g := (s.unit asid core).tag tag
    let s := s.mapUnit asid target fun u => u.mapTag proxy fun _ =>
      { live := true, lc := c.lc, tid := g.tid, node := g.node, mask := g.mask, ovf := g.ovf,
        src := g.src, proxyOf := some (core, tag), atLast := decide (plane = 0) }
    s.mapUnit asid core fun u =>
      { (u.mapTag tag fun g => { g with proxies := g.proxies ++ [(target, proxy)] }) with
        prompts := u.prompts.map fun p =>
          if p.tag = tag && p.plane < plane then { p with remote := p.remote ++ [(target, proxy)] } else p }) s

/-- The channel that a CERED onto another die uses: its number (R246, R308). -/
def channelOf (core target : Nat) : Option Nat :=
  if core / Config.coresPerDie = target / Config.coresPerDie then none
  else some (Config.dies * (core / Config.coresPerDie) + target / Config.coresPerDie)

/-- Replaces a channel of the Copy Engine. -/
def State.mapChannel (s : State) (asid : Nat) (n : Option Nat) (f : Fifo → Fifo) : State :=
  match n with
  | some n => s.mapDomain asid fun d => { d with channels := upd {} d.channels n f }
  | none => s

/-- The prompt tiles of a unit that a captured tile must take to stand at the planes at which D's links
to the same tags stand (R268): a CERED onto its own core reads D as it lands (R289; DESIGN CHOICE, notes/assumptions/85). -/
def Unit_.catchUp (u : Unit_) (a d : Tile) : Tile :=
  (u.prompts.filter fun p => d.links.any fun k => k.tag = p.tag && k.plane ≤ p.plane).foldl Tile.applyPrompt a

/-- What a CERED has read, at the planes at which D's links stand. -/
def State.redSource (s : State) (asid core : Nat) (c : Cmd) (t : Nat) : Tile :=
  let u := s.unit asid (tcore c.w2)
  let a : Tile := { rows := c.cells, et := c.et, links := c.links }
  if tcore c.w2 = core then u.catchUp a (u.tile t) else a

/-- Starts a CERED: it reads A at one instant, and takes its proxy tags, or a permit of the channel between two dies;
nothing while it waits (R246, R268, R289). The proxy tags are the lowest free ones of the target, in the order of A's
links (DESIGN CHOICE, notes/assumptions/72). -/
def State.startRed (s : State) (asid core : Nat) (c : Cmd) (t : Nat) (op : RedOp) : Option State :=
  let u := s.unit asid core
  let target := tcore c.w2
  let a := u.tile (srcA c.w2)
  let ls := a.linksOn c.mask
  let tags := (ls.map (·.tag)).eraseDups
  let keep (s : State) (links : List Link) : State := s.mapCmd asid core c.id fun c =>
    { c with st := .started, cells := (List.range 32).map a.row, links := links, et := a.et }
  if target = core then
    (u.linear core t (redCoefs op).1 (redCoefs op).2 a (u.tile t) c.mask).map fun _ => keep s ls
  else
    let free := (s.unit asid target).freeList
    let ch := channelOf core target
    let f := s.channel asid core target
    if !onePlane ls || free.length < tags.length then none
    else if ch.isSome && f.frozen then some (s.failCmd asid core c .lostpermit 0)
    else if ch.isSome && f.permits = 0 then none
    else
      let s := s.mapChannel asid ch fun f =>
        { f with permits := f.permits - 1, entries := f.entries ++ [BitVec.ofNat 64 c.id] }
      let plane (t : Nat) : Nat := ((ls.find? fun k => k.tag = t).map (·.plane)).getD 0
      let pairs := (tags.zip free).map fun (t, p) => (t, p, plane t)
      let proxy (t : Nat) : Nat := ((pairs.find? fun x => x.1 = t).map fun x => x.2.1).getD 0
      some (keep (s.takeProxies asid core target c pairs) (ls.map fun k => { k with tag := proxy k.tag }))

/-- Lands a CERED on its target (R289): nothing while a lineage rule holds it. -/
def State.landRed (s : State) (asid core : Nat) (c : Cmd) (t : Nat) (op : RedOp) : Option State :=
  let target := tcore c.w2
  let u := s.unit asid target
  let d := u.tile t
  let other := { u with q2 := u.q2.filter fun x => target ≠ core || x.id ≠ c.id }
  (other.linear target t (redCoefs op).1 (redCoefs op).2 (s.redSource asid core c t) d c.mask).map fun r =>
    let (s, sat) := s.landRows asid target t false c.mask r.1 r.2 d.et
    let s := s.mapUnit asid target fun u =>
      if target = core then u
      else c.links.foldl (fun u k => u.mapTag k.tag fun g => { g with formed := true }) u
    let s := s.mapChannel asid (channelOf core target) fun f =>
      { f with permits := f.permits + 1, entries := f.entries.filter fun x => x ≠ BitVec.ofNat 64 c.id }
    let s := s.count asid core 11 (8 * popMask c.mask)
    let s := s.finishCmd asid core c.id fun c => { c with mx := [0, 0, sat], cells := [], links := [] }
    (s.retireDone asid target).retireDone asid core

/-- CERED_LAND: the first started CERED of a core that can land, in the order in which its running commands come (R302;
DESIGN CHOICE, notes/assumptions/9), writes D's rows and installs its links; one whose channel is frozen stops (R246). -/
def execCeredLand (core asid : Nat) (s : State) : Host.Outcome State Fault Refusal :=
  .next (
    let one (c : Cmd) : Option State :=
      match c.i with
      | .cered _ t op =>
        if c.st ≠ .started then none
        else if (s.channel asid core (tcore c.w2)).frozen then some (s.failCmd asid core c .lostpermit 0)
        else s.landRed asid core c t.toNat op
      | _ => none
    if !(s.domain asid).starts then s else
    ((turned (s.unit asid core).q2 (s.hclk + s.copyTurn)).findSome? one).getD s)

/-- PROXY_ACK: a proxy tag whose last plane has been applied on its target retires there, and the source
tag hears of it (R289). -/
def execProxyAck (core asid : Nat) (s : State) : Host.Outcome State Fault Refusal :=
  .next (
    if !(s.domain asid).starts then s else
    let held := (List.range 64).flatMap fun t => ((s.unit asid core).tag t).proxies.map fun p => (t, p)
    match held.find? fun (_, target, proxy) => (s.unit asid target).tagDone target proxy with
    | none => s
    | some (t, target, proxy) =>
      let s := s.retireTag asid target proxy
      let s := s.mapUnit asid core fun u => u.mapTag t fun g =>
        { g with proxies := g.proxies.filter fun p => p ≠ (target, proxy) }
      s.retireDone asid core)

/-! ### COPY_COMMAND_START (R302) -/

/-- The tile a copy command must find settled (R272, R294). -/
def Cmd.copyTile (c : Cmd) : Option Nat :=
  match c.i with
  | .cecopy _ t true => some t.toNat
  | _ => none

/-- How many entries, tokens or rows a copy command takes one after another (R302 to R309). -/
def Cmd.copyUnits (c : Cmd) : Nat :=
  match c.i with
  | .celist _ => fld c.w2 15 0
  | .cerope _ _ _ => fld c.w2 15 0
  | .cepatch _ _ _ => fld c.w2 63 48
  | .cereq _ _ _ => fld c.w2 31 16
  | _ => 1

/-- What a copy command reads when it reaches a unit, before its first line: a list entry, or the page-list elements
of a token; nothing is what it needs not read. -/
def Cmd.entryReads (c : Cmd) : List Range :=
  match c.i with
  | .celist _ => elemRanges (c.rec_ (fld c.w2 35 32)) (c.entryAt c.unit).1 32 1
  | .cepatch _ _ _ => (c.pageElems c.unit).flatMap fun n => elemRanges (c.rec_ (fld c.w2 35 32)) n 1 4
  | _ => []

/-- The first line that a token does not write, where its row can be told, and else the page-list element that
cannot be read (R292; DESIGN CHOICE, notes/assumptions/66). -/
def State.tokenAddr (s : State) (core : Nat) (c : Cmd) (f : Fmt) (fault : Nat) : Nat :=
  let pl := c.rec_ (fld c.w2 35 32)
  let rows := c.rec_ (fld c.w2 39 36)
  let n := rd 0 (c.pageElems c.unit) 1
  if !(pl.elemOff n 4).2 then fault else
  match s.recElem c core pl n 4 with
  | .ok p => rowAddr rows ((c.tokenRows c.unit [0, p]).2 * (fld c.w2 31 24 + 1)) (2 ^ typeSize (fmtType f))
  | .error _ => fault

/-- What a unit needs before its first line, if it has been read. -/
def Cmd.entryHeld (c : Cmd) : Option (List Nat) :=
  match c.i with
  | .celist _ | .cepatch _ _ _ => c.entry
  | _ => some []

/-- Reads what a unit needs before its first line, or stops the command (R304, R306). -/
def State.readEntry (s : State) (asid core : Nat) (c : Cmd) : State :=
  let got (s : State) (xs : List Nat) : State := s.mapCmd asid core c.id fun c =>
    { c with st := .started, entry := some xs, hold := none, denied := [] }
  match c.i with
  | .celist _ =>
    s.withLines asid core c c.entryReads [] fun s =>
      match s.recElems c core (c.rec_ (fld c.w2 35 32)) 1 (c.entryAt c.unit).1 32 with
      | .ok xs => got s xs
      | .error x => s.stopCopy asid core c x.1 (c.entryAt c.unit).2
  | .cepatch _ slot _ =>
    let pl := c.rec_ (fld c.w2 35 32)
    let elemAt (n : Nat) : Nat := if pl.stash then 0 else pl.base + (pl.elemOff n 4).1
    match (c.pageElems c.unit).findSome? fun n => (s.reachTrap c pl n 1 4).map fun code => (n, code) with
    | some (n, code) => s.stopCopy asid core c code (s.tokenAddr core c (c.fmt slot) (elemAt n))
    | none =>
      s.withLines asid core c c.entryReads [] fun s =>
        match (c.pageElems c.unit).mapM fun n => s.recElem c core pl n 4 with
        | .ok xs => got s xs
        | .error x => s.stopCopy asid core c x.1 (s.tokenAddr core c (c.fmt slot) x.2)
  | _ => s

/-- The rows of the unit that a command is in, or the trap that stops it with the address it names. -/
def State.unitSpans (s : State) (asid core : Nat) (c : Cmd) (entry : List Nat) : Except (TrapCode × Nat) (List Span) :=
  match c.i with
  | .cecopy _ t tile =>
    let dst := c.rec_ (fld c.w2 39 36)
    let n := fld c.w2 31 0
    let sidx := fld c.w3 31 0
    if tile then
      .ok [{ dst := dst, first := fld c.w3 63 32, n := n, w := 1, reads := fun _ => [],
             src := fun s e => .ok { bytes := [((s.unit asid core).tile t.toNat).imageByte (sidx + e)] } }]
    else .ok [copySpan c core (c.rec_ (fld c.w2 35 32)) dst sidx (fld c.w3 63 32) n]
  | .celist _ =>
    match s.entrySpans core c (entry.map (BitVec.ofNat 8)) with
    | .ok xs => .ok xs
    | .error code => .error (code, (c.entryAt c.unit).2)
  | .cerope _ slot src => .ok [ropeSpan c core (c.rope slot src) c.unit]
  | .cepatch _ slot rot =>
    let rows := c.rec_ (fld c.w2 39 36)
    let hd := fld c.w2 31 24 + 1
    let w := 2 ^ typeSize (fmtType (c.fmt slot))
    let (a, b) := c.tokenRows c.unit entry
    match s.reachTrap c rows (a * hd) hd w <|> s.reachTrap c rows (b * hd) hd w with
    | some code => .error (code, rowAddr rows (b * hd) w)
    | none => .ok [patchSpan c core (c.fmt slot) rot a b]
  | .cereq _ slot src => .ok (reqSpans c core (c.fmt slot) (c.fmt src) c.unit)
  | .cefill _ =>
    let pat := bytesOf 8 c.w3.toNat
    .ok [{ dst := c.rec_ (fld c.w2 35 32), first := 0, n := fld c.w2 31 0, w := 1, reads := fun _ => [],
           src := fun _ e => .ok { bytes := [rd 0 pat (e % 8)] } }]
  | _ => .ok []

/-- The next step of a copy command, its checkpoint (R18, R295, R302): what the unit needs before its first line, the
next line of the unit, the next unit, or the end. -/
def State.copyStep (s : State) (asid core : Nat) (c : Cmd) : State :=
  if c.unit ≥ c.copyUnits then s.finishCmd asid core c.id id
  else
    match c.entryHeld with
    | none => s.readEntry asid core c
    | some entry =>
      match s.unitSpans asid core c entry with
      | .error e => s.stopCopy asid core c e.1 e.2
      | .ok xs =>
        match (xs.flatMap fun x => x.lines.map fun l => (x, l))[c.line]? with
        | some (x, l) => s.copyLine asid core c x l
        | none => s.mapCmd asid core c.id fun c => { c with st := .started, unit := c.unit + 1, line := 0, entry := none }

/-- Whether a command of q2 may take a step: it runs, or it is the head, and its count is zero, its tiles are free, and
fewer than four commands run, or none in deterministic mode (R294, R302), or it waits on a predecessor behind it (R251). -/
def State.copyCan (s : State) (asid core : Nat) (c : Cmd) : Bool :=
  let u := s.unit asid core
  match c.i, c.st with
  | .cered _ _ _, .started => false
  | _, .started => true
  | _, .queued =>
    (u.head 2).any (fun h => h.id = c.id) &&
      (headStuck c (u.behind 2 c.id) ||
        c.count = 0 && s.tilesFree asid core c && c.copyTile.all (fun t => u.settled t) &&
          decide ((u.q2.filter fun x => x.st = .started).length < if s.det c.tid then 1 else 4))
  | _, _ => false

/-- The command of q2 that takes the next step: the commands that run come in any order (R302), so it is the first that
may from an entry of the queue on which HCLK and a choice of the agenda tell (DESIGN CHOICE, notes/assumptions/9). -/
def State.copyNext (s : State) (asid core : Nat) : Option Cmd :=
  (turned (s.unit asid core).q2 (s.hclk + s.copyTurn)).find? (s.copyCan asid core)

/-- COPY_COMMAND_START: the command of q2 whose turn it is starts, or takes its next step; a head that waits on a
predecessor behind it is discarded (R251, R302). -/
def execCopyCommandStart (core asid : Nat) (s : State) : Host.Outcome State Fault Refusal :=
  .next (
    match s.copyNext asid core with
    | none => s
    | some c =>
      if !(s.domain asid).starts then s
      else
        match c.i, c.st with
        | _, .started => s.copyStep asid core c
        | i, _ =>
          if headStuck c ((s.unit asid core).behind 2 c.id) then (s.postCmd c .graph).discardCmd asid core c
          else
            match i with
            | .cered _ t op => (s.startRed asid core c t.toNat op).getD s
            | _ => s.copyStep asid core c)

end Sys2Proof.Machine
end

