-- ==== Sys2Proof/Machine/Integer.lean ====
section
/-! DEFINITION. Integer and address words of lanes: majors 0x08 to 0x11 (R172 to R181). The result of
each on 32-bit values is a function of its own; the meaning reads the sources as they stood, writes
the lanes of Active() and pushes the I latch pair. -/

namespace Sys2Proof.Machine

/-! ### Results -/

/-- The low 32 bits of an integer (R172). -/
def wrap32 (x : Int) : Word := BitVec.ofInt 32 x
/-- SHL: 0 for amounts of 32 or more. -/
def ishl (a b : Word) : Word := if b.toNat ≥ 32 then 0 else a <<< b.toNat
/-- SHR. -/
def ishr (a b : Word) : Word := if b.toNat ≥ 32 then 0 else a >>> b.toNat
/-- SAR: amounts above 31 act as 31. -/
def isar (a b : Word) : Word := a.sshiftRight (min b.toNat 31)
/-- Rotation to the left. -/
def irol (a : Word) (n : Nat) : Word := a.rotateLeft (n % 32)
/-- IABSD: the exact distance of the signed values. -/
def iabsd (a b : Word) : Word := wrap32 ((a.toInt - b.toInt).natAbs : Nat)
/-- The signed product, all 64 bits. -/
def iprod (a b : Word) : Dword := BitVec.ofInt 64 (a.toInt * b.toInt)
/-- IMULHU. -/
def imulhu (a b : Word) : Word := BitVec.ofNat 32 (a.toNat * b.toNat / 2 ^ 32)
/-- Leading zero bits of an n-bit value. -/
def clzN (n : Nat) (x : Nat) : Nat := if x = 0 then n else n - 1 - Nat.log2 x
/-- One bits of an n-bit value. -/
def popN (n : Nat) (x : Nat) : Nat := ((List.range n).filter fun i => x.testBit i).length
/-- Bits in reverse order. -/
def brev32 (x : Word) : Word := maskOf fun k => x.getLsbD (31 - k)

/-- IABS: the most negative value stays. -/
def iabs (x : Word) : Word := if x.toInt < 0 then -x else x
/-- AMIN: the smaller of the destination and the exact sum, not below −2^31 (R175). -/
def amin (d a b : Word) : Word := wrap32 (max (-(2 ^ 31 : Int)) (min d.toInt (a.toInt + b.toInt)))
/-- A condition of ICMP on values of any width (R176). -/
def icmpC {n : Nat} (c : ICond) (a b : BitVec n) : Bool :=
  match c with
  | .eq => a = b
  | .ne => a ≠ b
  | .lt => a.toInt < b.toInt
  | .le => a.toInt ≤ b.toInt
  | .ltu => a.toNat < b.toNat
  | .leu => a.toNat ≤ b.toNat
  | .gt => a.toInt > b.toInt
  | .ge => a.toInt ≥ b.toInt
/-- The field width of BFX and BFI: values above 32 act as 32 (R180). -/
def fieldWid (b : Word) : Nat := min (fld b 13 8) 32
/-- BFX. -/
def bfx (a b : Word) : Word :=
  let wid := fieldWid b
  let f := (a.toNat >>> fld b 4 0) % 2 ^ wid
  if b.getLsbD 16 && wid > 0 then wrap32 (sintOf wid f) else BitVec.ofNat 32 f
/-- BFI. -/
def bfi (d a b : Word) : Word :=
  let pos := fld b 4 0
  let m : Word := BitVec.ofNat 32 ((2 ^ fieldWid b - 1) <<< pos)
  (d &&& ~~~ m) ||| (BitVec.ofNat 32 (a.toNat <<< pos) &&& m)
/-- PACK16. -/
def pack16 (a b : Word) : Word := (b.extractLsb' 0 16) ++ (a.extractLsb' 0 16)
/-- One byte of BYTEPERM for a selector nibble (R181). -/
def permByte (d a : Word) (s : Nat) : Byte :=
  if s < 4 then a.extractLsb' (8 * s) 8
  else if s < 8 then d.extractLsb' (8 * (s - 4)) 8
  else if s < 12 then (if a.getLsbD (8 * (s - 8) + 7) then 0xFF else 0)
  else 0
/-- BYTEPERM. -/
def byteperm (d a b : Word) : Word :=
  let p (k : Nat) : Byte := permByte d a (fld b (4 * k + 3) (4 * k))
  p 3 ++ p 2 ++ p 1 ++ p 0

/-! ### Meanings -/

/-- IADD: sum modulo 2^32 (R174). -/
def execIadd (d : Dst) (a b : Src) (s : State) : Host.Outcome State Fault Refusal :=
  .next (s.laneWise none true fun s => s.setLane .i d fun l => (s.src l a) + (s.src l b))
/-- ISUB: difference modulo 2^32 (R174). -/
def execIsub (d : Dst) (a b : Src) (s : State) : Host.Outcome State Fault Refusal :=
  .next (s.laneWise none true fun s => s.setLane .i d fun l => (s.src l a) - (s.src l b))
/-- AND: bitwise (R174). -/
def execAnd (d : Dst) (a b : Src) (s : State) : Host.Outcome State Fault Refusal :=
  .next (s.laneWise none true fun s => s.setLane .i d fun l => (s.src l a) &&& (s.src l b))
/-- OR: bitwise (R174). -/
def execOr (d : Dst) (a b : Src) (s : State) : Host.Outcome State Fault Refusal :=
  .next (s.laneWise none true fun s => s.setLane .i d fun l => (s.src l a) ||| (s.src l b))
/-- XOR: bitwise (R174). -/
def execXor (d : Dst) (a b : Src) (s : State) : Host.Outcome State Fault Refusal :=
  .next (s.laneWise none true fun s => s.setLane .i d fun l => (s.src l a) ^^^ (s.src l b))
/-- ANDN: a and not b (R174). -/
def execAndn (d : Dst) (a b : Src) (s : State) : Host.Outcome State Fault Refusal :=
  .next (s.laneWise none true fun s => s.setLane .i d fun l => (s.src l a) &&& ~~~ (s.src l b))
/-- IMIN: the smaller signed value (R174). -/
def execImin (d : Dst) (a b : Src) (s : State) : Host.Outcome State Fault Refusal :=
  .next (s.laneWise none true fun s => s.setLane .i d fun l => if (s.src l a).toInt ≤ (s.src l b).toInt then (s.src l a) else (s.src l b))
/-- IMAX: the larger signed value (R174). -/
def execImax (d : Dst) (a b : Src) (s : State) : Host.Outcome State Fault Refusal :=
  .next (s.laneWise none true fun s => s.setLane .i d fun l => if (s.src l a).toInt ≤ (s.src l b).toInt then (s.src l b) else (s.src l a))
/-- SHL: shift left (R174). -/
def execShl (d : Dst) (a b : Src) (s : State) : Host.Outcome State Fault Refusal :=
  .next (s.laneWise none true fun s => s.setLane .i d fun l => ishl (s.src l a) (s.src l b))
/-- SHR: logical shift right (R174). -/
def execShr (d : Dst) (a b : Src) (s : State) : Host.Outcome State Fault Refusal :=
  .next (s.laneWise none true fun s => s.setLane .i d fun l => ishr (s.src l a) (s.src l b))
/-- SAR: arithmetic shift right (R174). -/
def execSar (d : Dst) (a b : Src) (s : State) : Host.Outcome State Fault Refusal :=
  .next (s.laneWise none true fun s => s.setLane .i d fun l => isar (s.src l a) (s.src l b))
/-- ROL: rotation by the low five bits (R174). -/
def execRol (d : Dst) (a b : Src) (s : State) : Host.Outcome State Fault Refusal :=
  .next (s.laneWise none true fun s => s.setLane .i d fun l => irol (s.src l a) (fld (s.src l b) 4 0))
/-- IMINU: the smaller unsigned value (R174). -/
def execIminu (d : Dst) (a b : Src) (s : State) : Host.Outcome State Fault Refusal :=
  .next (s.laneWise none true fun s => s.setLane .i d fun l => if (s.src l a).toNat ≤ (s.src l b).toNat then (s.src l a) else (s.src l b))
/-- IMAXU: the larger unsigned value (R174). -/
def execImaxu (d : Dst) (a b : Src) (s : State) : Host.Outcome State Fault Refusal :=
  .next (s.laneWise none true fun s => s.setLane .i d fun l => if (s.src l a).toNat ≤ (s.src l b).toNat then (s.src l b) else (s.src l a))
/-- AMIN: R175. -/
def execAmin (d : LReg) (a b : Src) (s : State) : Host.Outcome State Fault Refusal :=
  .next (s.laneWise none true fun s => s.setLane .i (.reg d) fun l => amin (s.vreg l d.toNat) (s.src l a) (s.src l b))
/-- IABSD: absolute difference (R174). -/
def execIabsd (d : Dst) (a b : Src) (s : State) : Host.Outcome State Fault Refusal :=
  .next (s.laneWise none true fun s => s.setLane .i d fun l => iabsd (s.src l a) (s.src l b))
/-- IMUL: low product (R174). -/
def execImul (d : Dst) (a b : Src) (s : State) : Host.Outcome State Fault Refusal :=
  .next (s.laneWise none true fun s => s.setLane .i d fun l => (iprod (s.src l a) (s.src l b)).extractLsb' 0 32)
/-- IMULH: high signed product (R174). -/
def execImulh (d : Dst) (a b : Src) (s : State) : Host.Outcome State Fault Refusal :=
  .next (s.laneWise none true fun s => s.setLane .i d fun l => (iprod (s.src l a) (s.src l b)).extractLsb' 32 32)
/-- IMULHU: high unsigned product (R174). -/
def execImulhu (d : Dst) (a b : Src) (s : State) : Host.Outcome State Fault Refusal :=
  .next (s.laneWise none true fun s => s.setLane .i d fun l => imulhu (s.src l a) (s.src l b))
/-- IMAD: product plus the destination (R174). -/
def execImad (d : LReg) (a b : Src) (s : State) : Host.Outcome State Fault Refusal :=
  .next (s.laneWise none true fun s => s.setLane .i (.reg d) fun l => wrap32 ((s.src l a).toInt * (s.src l b).toInt + (s.vreg l d.toNat).toNat))
/-- CLZ: leading zero bits (R174). -/
def execClz (d : Dst) (a : Src) (s : State) : Host.Outcome State Fault Refusal :=
  .next (s.laneWise none true fun s => s.setLane .i d fun l => BitVec.ofNat 32 (clzN 32 (s.src l a).toNat))
/-- POPC: one bits (R174). -/
def execPopc (d : Dst) (a : Src) (s : State) : Host.Outcome State Fault Refusal :=
  .next (s.laneWise none true fun s => s.setLane .i d fun l => BitVec.ofNat 32 (popN 32 (s.src l a).toNat))
/-- BREV: bits in reverse order (R174). -/
def execBrev (d : Dst) (a : Src) (s : State) : Host.Outcome State Fault Refusal :=
  .next (s.laneWise none true fun s => s.setLane .i d fun l => brev32 (s.src l a))
/-- IABS: absolute value (R174). -/
def execIabs (d : Dst) (a : Src) (s : State) : Host.Outcome State Fault Refusal :=
  .next (s.laneWise none true fun s => s.setLane .i d fun l => iabs (s.src l a))
/-- ICMP: each lane of Active() writes its own predicate (R176). -/
def execIcmp (cond : ICond) (p : PReg) (a b : Src) (s : State) : Host.Outcome State Fault Refusal :=
  .next (s.laneWise none true fun s => s.setPred p fun l => icmpC cond (s.src l a) (s.src l b))
/-- ICMP.W: one comparison of 64-bit values, written in every lane of Active() (R176). -/
def execIcmpW (cond : ICond) (p : PReg) (a b : UReg) (s : State) : Host.Outcome State Fault Refusal :=
  .next (s.uniform none true fun s => s.setPred p fun _ => icmpC cond (s.ureg a) (s.ureg b))
/-- IADDI (R178). -/
def execIaddi (d : Dst) (a : Src) (imm : BitVec 10) (s : State) : Host.Outcome State Fault Refusal :=
  .next (s.laneWise none true fun s => s.setLane .i d fun l => (s.src l a) + imm.signExtend 32)
/-- SHLI (R178). -/
def execShli (d : Dst) (a : Src) (n : BitVec 5) (s : State) : Host.Outcome State Fault Refusal :=
  .next (s.laneWise none true fun s => s.setLane .i d fun l => (s.src l a) <<< n.toNat)
/-- SHRI (R178). -/
def execShri (d : Dst) (a : Src) (n : BitVec 5) (s : State) : Host.Outcome State Fault Refusal :=
  .next (s.laneWise none true fun s => s.setLane .i d fun l => (s.src l a) >>> n.toNat)
/-- SARI (R178). -/
def execSari (d : Dst) (a : Src) (n : BitVec 5) (s : State) : Host.Outcome State Fault Refusal :=
  .next (s.laneWise none true fun s => s.setLane .i d fun l => (s.src l a).sshiftRight n.toNat)
/-- ROLI (R178). -/
def execRoli (d : Dst) (a : Src) (n : BitVec 5) (s : State) : Host.Outcome State Fault Refusal :=
  .next (s.laneWise none true fun s => s.setLane .i d fun l => irol (s.src l a) n.toNat)
/-- MOVI (R179). -/
def execMovi (d : Dst) (imm : BitVec 17) (s : State) : Host.Outcome State Fault Refusal :=
  .next (s.laneWise none true fun s => s.setLane .i d fun _ => imm.signExtend 32)
/-- MOVHI keeps the low 15 bits of its destination (R179). -/
def execMovhi (d : LReg) (imm : BitVec 17) (s : State) : Host.Outcome State Fault Refusal :=
  .next (s.laneWise none true fun s => s.setLane .i (.reg d) fun l =>
    imm ++ (s.vreg l d.toNat).extractLsb' 0 15)
/-- BFX: bit field extract (R180). -/
def execBfx (d : Dst) (a b : Src) (s : State) : Host.Outcome State Fault Refusal :=
  .next (s.laneWise none true fun s => s.setLane .i d fun l => bfx (s.src l a) (s.src l b))
/-- BFI: bit field insert (R180). -/
def execBfi (d : LReg) (a b : Src) (s : State) : Host.Outcome State Fault Refusal :=
  .next (s.laneWise none true fun s => s.setLane .i (.reg d) fun l => bfi (s.vreg l d.toNat) (s.src l a) (s.src l b))
/-- IADD64: sum of pairs (R180). -/
def execIadd64 (d a b : LReg) (s : State) : Host.Outcome State Fault Refusal :=
  .next (s.laneWise none true fun s => s.setPair d fun l => (s.vpair l a.toNat + s.vpair l b.toNat) % 2 ^ 64)
/-- ISUB64: difference of pairs (R180). -/
def execIsub64 (d a b : LReg) (s : State) : Host.Outcome State Fault Refusal :=
  .next (s.laneWise none true fun s => s.setPair d fun l =>
    (s.vpair l a.toNat + (2 ^ 64 - s.vpair l b.toNat)) % 2 ^ 64)
/-- SHL64: 0 for amounts of 64 or more (R180). -/
def execShl64 (d a : LReg) (b : Src) (s : State) : Host.Outcome State Fault Refusal :=
  .next (s.laneWise none true fun s => s.setPair d fun l =>
    let n := (s.src l b).toNat
    if n ≥ 64 then 0 else (s.vpair l a.toNat <<< n) % 2 ^ 64)
/-- IMULW: the whole signed product (R180). -/
def execImulw (d : LReg) (a b : Src) (s : State) : Host.Outcome State Fault Refusal :=
  .next (s.laneWise none true fun s => s.setPair d fun l => (iprod (s.src l a) (s.src l b)).toNat)
/-- PACK16: the low halves of b and a (R180). -/
def execPack16 (d : Dst) (a b : Src) (s : State) : Host.Outcome State Fault Refusal :=
  .next (s.laneWise none true fun s => s.setLane .i d fun l => pack16 (s.src l a) (s.src l b))
/-- BYTEPERM: R181. -/
def execByteperm (d : LReg) (a b : Src) (s : State) : Host.Outcome State Fault Refusal :=
  .next (s.laneWise none true fun s => s.setLane .i (.reg d) fun l => byteperm (s.vreg l d.toNat) (s.src l a) (s.src l b))
/-- SEL: a where the predicate holds, else b (R177). -/
def execSel (d : Dst) (a b : Src) (p : PReg) (s : State) : Host.Outcome State Fault Refusal :=
  .next (s.laneWise none true fun s => s.setLane .i d fun l => if s.preg l p then (s.src l a) else (s.src l b))

end Sys2Proof.Machine
end

