-- ==== Sys2Proof/Machine/CrossLane.lean ====
section
/-! DEFINITION. Cross-lane words: majors 0x20 to 0x22 (R206 to R212). A lane takes values from lanes
of Active() only, in ascending lane order; in a relaxation body each traps RLXBAD (R209). The wait at
a parked lane (R208) is made before the group issues. -/

namespace Sys2Proof.Machine

/-! ### LSH (R207, R210) -/

/-- The amount of an LSH word. -/
def State.amount (s : State) (b : Amt) : Nat :=
  match b with
  | .imm n => n.toNat
  | .reg n => (s.ureg n).toNat

/-- Each lane of Active() takes the source of the lane that a function names, or its own (R207). -/
def State.shuffle (s : State) (d : Dst) (a : Src) (from_ : Nat → Option Nat) : State :=
  s.setLane .x d fun l =>
    match from_ l with
    | some k => if k < 32 && s.cur.mask.getLsbD k then s.src k a else s.src l a
    | none => s.src l a

/-- LSHUP. -/
def execLshup (d : Dst) (a : Src) (b : Amt) (s : State) : Host.Outcome State Fault Refusal :=
  .next (s.laneWise none false fun s =>
    s.shuffle d a fun l => if s.amount b ≤ l then some (l - s.amount b) else none)
/-- LSHDN. -/
def execLshdn (d : Dst) (a : Src) (b : Amt) (s : State) : Host.Outcome State Fault Refusal :=
  .next (s.laneWise none false fun s => s.shuffle d a fun l => some (l + s.amount b))
/-- LROT. -/
def execLrot (d : Dst) (a : Src) (b : Amt) (s : State) : Host.Outcome State Fault Refusal :=
  .next (s.laneWise none false fun s => s.shuffle d a fun l => some ((l + 32 - s.amount b % 32) % 32))
/-- LPERM. -/
def execLperm (d : Dst) (a b : Src) (s : State) : Host.Outcome State Fault Refusal :=
  .next (s.laneWise none false fun s => s.shuffle d a fun l => some (fld (s.src l b) 4 0))
/-- LBCAST. -/
def execLbcast (d : Dst) (a : Src) (b : Amt) (s : State) : Host.Outcome State Fault Refusal :=
  .next (s.laneWise none false fun s => s.shuffle d a fun _ => some (s.amount b % 32))
/-- LXOR. -/
def execLxor (d : Dst) (a : Src) (b : Amt) (s : State) : Host.Outcome State Fault Refusal :=
  .next (s.laneWise none false fun s => s.shuffle d a fun l => some (l ^^^ (s.amount b % 32)))

/-! ### LSCAN (R211) -/

/-- The running values of a chain over the lanes of Active(), ascending: lane, value, and the flags
of its step. -/
def chain (op : Word → Word → Word × Flags) : Word → List (Nat × Word) → List (Nat × Word × Flags)
  | _, [] => []
  | acc, (l, v) :: t =>
    let (x, f) := op acc v
    (l, x, f) :: chain op x t

/-- The inclusive prefixes of the lanes of Active(); `first` makes the value of the first lane. -/
def State.scan (s : State) (a : Src) (op : Word → Word → Word × Flags) (first : Word → Word × Flags) :
    List (Nat × Word × Flags) :=
  match lanesOf s.cur.mask with
  | [] => []
  | l :: t =>
    let (x, f) := first (s.src l a)
    (l, x, f) :: chain op x (t.map fun k => (k, s.src k a))

/-- Writes the prefixes, or the total, of a scan, and ORs the flags of every step (R84, R211). -/
def State.scanWord (s : State) (d : Dst) (a : Src) (total : Bool) (op : Word → Word → Word × Flags)
    (first : Word → Word × Flags) : State :=
  let xs := s.scan a op first
  let last := ((xs.getLast?).map (·.2.1)).getD 0
  let s' := s.setLane .x d fun l =>
    if total then last else ((xs.find? fun x => x.1 = l).map (·.2.1)).getD 0
  s'.addFlags fun l => ((xs.find? fun x => x.1 = l).map (·.2.2)).getD 0

/-- The integer operations of LSCAN raise no flag. -/
def plainOp (f : Word → Word → Word) (a b : Word) : Word × Flags := (f a b, 0)
/-- The first value of an integer chain. -/
def plainFirst (x : Word) : Word × Flags := (x, 0)
/-- Signed minimum. -/
def smin (a b : Word) : Word := if a.toInt ≤ b.toInt then a else b
/-- Signed maximum. -/
def smax (a b : Word) : Word := if a.toInt ≤ b.toInt then b else a
/-- The first value of a floating-point chain: a NaN is made canonical, and a signalling one raises
NV. -/
def floatFirst (x : Word) : Word × Flags :=
  match dec32 x with
  | .nan sg => (nan32, if sg then fNV else 0)
  | _ => (x, 0)

/-- LSCANADD. -/
def execLscanadd (d : Dst) (a : Src) (s : State) : Host.Outcome State Fault Refusal :=
  .next (s.laneWise none false fun s => s.scanWord d a false (plainOp (· + ·)) plainFirst)
/-- LSCANMIN. -/
def execLscanmin (d : Dst) (a : Src) (s : State) : Host.Outcome State Fault Refusal :=
  .next (s.laneWise none false fun s => s.scanWord d a false (plainOp smin) plainFirst)
/-- LSCANMAX. -/
def execLscanmax (d : Dst) (a : Src) (s : State) : Host.Outcome State Fault Refusal :=
  .next (s.laneWise none false fun s => s.scanWord d a false (plainOp smax) plainFirst)
/-- LSCANFADD (R81). -/
def execLscanfadd (d : Dst) (a : Src) (s : State) : Host.Outcome State Fault Refusal :=
  .next (s.laneWise none false fun s => s.scanWord d a false (fadd32 s.rm) floatFirst)
/-- LREDADD. -/
def execLredadd (d : Dst) (a : Src) (s : State) : Host.Outcome State Fault Refusal :=
  .next (s.laneWise none false fun s => s.scanWord d a true (plainOp (· + ·)) plainFirst)
/-- LREDMIN. -/
def execLredmin (d : Dst) (a : Src) (s : State) : Host.Outcome State Fault Refusal :=
  .next (s.laneWise none false fun s => s.scanWord d a true (plainOp smin) plainFirst)
/-- LREDMAX. -/
def execLredmax (d : Dst) (a : Src) (s : State) : Host.Outcome State Fault Refusal :=
  .next (s.laneWise none false fun s => s.scanWord d a true (plainOp smax) plainFirst)
/-- LREDFADD (R81). -/
def execLredfadd (d : Dst) (a : Src) (s : State) : Host.Outcome State Fault Refusal :=
  .next (s.laneWise none false fun s => s.scanWord d a true (fadd32 s.rm) floatFirst)

/-! ### LMATCH and LFIRST (R212) -/

/-- LMATCH: the lowest lane of Active() with each value. -/
def execLmatch (d : PReg) (a : Src) (s : State) : Host.Outcome State Fault Refusal :=
  .next (s.laneWise none false fun s => s.setPred d fun l =>
    !((lanesOf s.cur.mask).any fun k => k < l && s.src k a = s.src l a))
/-- LFIRST: the lowest lane of Active(). -/
def execLfirst (d : PReg) (s : State) : Host.Outcome State Fault Refusal :=
  .next (s.laneWise none false fun s => s.setPred d fun l =>
    !((lanesOf s.cur.mask).any fun k => k < l))

end Sys2Proof.Machine
end

