-- ==== Sys2Proof/Machine/WorkQueue.lean ====
section
/-! DEFINITION. The entries of the queue registers q3 to q15 (R243 to R247, R58) and the host work
queues behind them (R381 to R383): pushes, pops and their permits, the reading of TAIL, and the
completion records of launch queues. The device reads and writes a work queue's block, ring and
records at once, where the homes let it (notes/assumptions/5); an operation on a queue counts one access to the block's line
and one to each other line that it reads or writes (R13, R221; DESIGN CHOICE, notes/assumptions/71). -/

namespace Sys2Proof.Machine

/-- Replaces the work queue registered under a number. -/
def State.mapWorkq (s : State) (asid n : Nat) (f : WorkQ → WorkQ) : State :=
  s.mapDomain asid fun d => { d with queues := d.queues.map fun w => if w.queue = n then f w else w }

/-- Writes a field of a queue control block. -/
def State.setBlock (s : State) (asid block off n x : Nat) : State :=
  (s.deviceWrite asid (block + off) (bytesOf n x)).getD s

/-- Reads TAIL with an acquire, or once its page is there and its home serves the read (R90, R105, R220, R382): the entries that a host has produced since have
taken its permits (R246). -/
def State.readTail (s : State) (asid n : Nat) : State :=
  match (s.domain asid).workq n with
  | some w =>
    match s.askBytes asid w.block 64 with
    | (s, true) => s.mapWorkq asid n fun x => { x with rung := true }
    | (s, false) =>
      if !s.deviceClear asid w.block 64 then s.mapWorkq asid n fun x => { x with rung := true } else
      let s := (s.countLines asid w.block 64).answered asid w.block 64
      let new := ((s.deviceRead asid (w.block + 0x10) 8).map ofBytes).getD w.tail
      let taken (x : WorkQ) : Nat := if s.workType asid w = 1 then new - x.tail else 0
      s.mapWorkq asid n fun x => { x with rung := false, tail := new, permits := x.permits - taken x }
  | none => s

/-- Reads the CONSUMED of a TYPE 2 queue: the entries that the host has taken since return their permits (R246). -/
def State.readConsumed (s : State) (asid n : Nat) : State :=
  match (s.domain asid).workq n with
  | some w =>
    if s.workType asid w ≠ 2 then s else
    let s := s.countLines asid w.block 64
    let new := s.blockField asid w.block 0x18 8
    s.mapWorkq asid n fun x => { x with cons := new, permits := x.permits + (new - x.cons) }
  | none => s

/-- The addresses of the next n entries of a host work queue to be pushed, or popped. -/
def State.workSlots (s : State) (asid : Nat) (w : WorkQ) (n : Nat) (isPush : Bool) : List Nat :=
  let seq := s.blockField asid w.block (if isPush then 0x10 else 0x18) 8 + 1
  let base := s.blockField asid w.block 0x00 8
  (List.range n).map fun i => base + 8 * ((seq + i) % s.workDepth asid w)

/-- Brings in the pages of addresses that a word of a thread makes the device read or write: from the reserve pool, or
the word waits for the host (R220, R375, R380). -/
def State.awaitPages (s : State) (dom : Nat) (k : Acc) (eff : State → State) : List Nat → State
  | [] => eff s
  | va :: t =>
    let s := s.ensureMapped dom va
    let s := if s.waitOver s.cur.tid (.page dom va) then s else s.missEntry dom va s.cur.old.core k
    s.await (.page dom va) fun s => s.awaitPages dom k eff t

/-- Waits until the block of the host work queue that a queue register is bound to can be read (R90, R105, R220, R380). -/
def State.withBlock (s : State) (q : Nat) (eff : State → State) : State :=
  let lc := s.cur.old.lc
  match s.boundQ lc q with
  | some w =>
    let asid := (s.lc lc).asid
    s.awaitPages asid .load (fun s => s.await (.lines [(asid, lineOf w.block)]) eff) [w.block]
  | none => eff s

/-- Waits until the device may read or write the next n entries of a host work queue and write its counters: their
pages are there and their homes let it (R88, R90, R105, R220). -/
def State.withSlots (s : State) (q n : Nat) (isPush : Bool) (eff : State → State) : State :=
  let lc := s.cur.old.lc
  let asid := (s.lc lc).asid
  match s.boundQ lc q with
  | none => eff s
  | some w =>
    if n = 0 then eff s else
    let slots := s.workSlots asid w n isPush
    s.awaitPages asid (if isPush then .store else .load) (fun s =>
      s.await (.free ((w.block :: if isPush then slots else []).filterMap (s.domain asid).place)) fun s =>
      s.await (.lines (slots.map fun a => (asid, lineOf a))) eff) (w.block :: slots)

/-- Raises CONSUMED, and reads TAIL again once everything read has been consumed (R382). -/
def State.consumed (s : State) (asid n upto : Nat) : State :=
  match (s.domain asid).workq n with
  | some w =>
    let s := s.setBlock asid w.block 0x18 8 upto
    if upto ≥ w.tail then s.readTail asid n else s
  | none => s

/-- Pops one data entry of a TYPE 1 queue; an entry that cannot be read has a free value. -/
def State.popWork (s : State) (asid : Nat) (w : WorkQ) : State × Dword :=
  let seq := s.blockField asid w.block 0x18 8 + 1
  let base := s.blockField asid w.block 0x00 8
  let depth := s.workDepth asid w
  let (s, got) := s.deviceReads asid (base + 8 * (seq % depth)) 8
  let s' := (s.consumed asid w.queue seq).mapWorkq asid w.queue fun x => { x with permits := x.permits + 1 }
  match got with
  | some bs => (s', BitVec.ofNat 64 (ofBytes bs))
  | none => let (s', k) := s'.draw; (s', Config.openValue k)

/-- Pushes one data entry of a TYPE 2 queue: the entry, and then TAIL. It takes a permit, of those that the entries the
host has consumed have returned (R246). -/
def State.pushWork (s : State) (asid : Nat) (w : WorkQ) (x : Dword) : State :=
  let s := s.readConsumed asid w.queue
  let seq := s.blockField asid w.block 0x10 8 + 1
  let base := s.blockField asid w.block 0x00 8
  let s := (s.deviceWrite asid (base + 8 * (seq % s.workDepth asid w)) (bytesOf 8 x.toNat)).getD s
  (s.setBlock asid w.block 0x10 8 seq).mapWorkq asid w.queue fun x => { x with permits := x.permits - 1 }

/-- The place in the LSTASH area of the entry of a stash FIFO that is k entries behind its oldest (R58, R227;
DESIGN CHOICE, notes/assumptions/26). -/
def Fifo.slot (f : Fifo) (k : Nat) : Nat := fld f.spec 27 16 * 256 + 8 * ((f.head + k) % max 1 f.depth)

/-- Pops the oldest entry of a queue register; a permit goes back (R246). -/
def State.popEntry (s : State) (lc q : Nat) : State × Dword :=
  let (s, x) := match s.boundQ lc q with
    | some w => (s.chargeLines lc 2).popWork (s.lc lc).asid w
    | none =>
      let f := (s.lc lc).fifo q
      let x := if q < 5 then rd 0 f.entries 0 else BitVec.ofNat 64 (ofBytes (memGetN (s.lc lc).lstash (f.slot 0) 8))
      (s.mapFifo lc q fun f => { f with entries := f.entries.drop 1, head := f.head + 1 }, x)
  (s.mapFifo lc q fun f => { f with permits := f.permits + 1 }, x)

/-- Pops n entries, the oldest first. -/
def State.popEntries (s : State) (lc q : Nat) : Nat → State × List Dword
  | 0 => (s, [])
  | n + 1 =>
    let (s, x) := s.popEntry lc q
    let (s, xs) := s.popEntries lc q n
    (s, x :: xs)

/-- Pushes an entry; it takes a permit (R246). -/
def State.pushEntry (s : State) (lc q : Nat) (x : Dword) : State :=
  let s := match s.boundQ lc q with
    | some w => (s.chargeLines lc 2).pushWork (s.lc lc).asid w x
    | none =>
      let f := (s.lc lc).fifo q
      let s := if q < 5 then s else s.mapLC lc fun l =>
        { l with lstash := memPutN l.lstash (f.slot f.entries.length) (bytesOf 8 x.toNat) }
      s.mapFifo lc q fun f => { f with entries := f.entries ++ [x] }
  s.mapFifo lc q fun f => { f with permits := f.permits - 1 }

/-! ### Completion records (R383) -/

/-- The largest COMPLETED that the written records allow. -/
def advance (written : List Nat) : Nat → Nat → Nat
  | 0, c => c
  | fuel + 1, c => if written.contains (c + 1) then advance written fuel (c + 1) else c

/-- The address of the completion record of entry seq of a launch queue (R383). -/
def State.recordAddr (s : State) (asid : Nat) (w : WorkQ) (seq : Nat) : Nat :=
  s.blockField asid w.block 0x28 8 + 32 * (seq % s.workDepth asid w)

/-- Whether the device may write the completion record of entry seq of a launch queue, and the queue's block: their pages
are there, or will not come, and their homes let it (R88, R90, R220, R375, R380, R383). -/
def State.recordReady (s : State) (asid queue seq : Nat) : State × Bool :=
  match (s.domain asid).workq queue with
  | none => (s, true)
  | some w =>
    match s.askBytes asid w.block 64 .store with
    | (s, true) => (s, false)
    | (s, false) =>
      match s.askBytes asid (s.recordAddr asid w seq) 32 .store with
      | (s, true) => (s, false)
      | (s, false) => (s, s.deviceFree asid w.block 64 && s.deviceFree asid (s.recordAddr asid w seq) 32)

/-- The bytes of a completion record (R383). -/
def recordBytes (seq status clk : Nat) : List Byte := bytesOf 8 seq ++ bytesOf 8 (status % 256) ++ bytesOf 8 clk ++ bytesOf 8 0

/-- Writes the completion record of entry seq of a launch queue, and then COMPLETED (R383). A record that cannot be
written, for want of a page that allows it, is lost, and COMPLETED is not raised to it. -/
def State.completionRecord (s : State) (asid queue seq status : Nat) : State :=
  match (s.domain asid).workq queue with
  | none => s
  | some w =>
    let at_ := s.recordAddr asid w seq
    let done := s.blockField asid w.block 0x20 8
    let s := ((s.countLines asid w.block 64).answered asid w.block 64).answered asid at_ 32
    match s.deviceWrite asid at_ (recordBytes seq status s.clock64) with
    | none => s
    | some s =>
      let written := w.written ++ [seq]
      let upto := advance written (written.length + 1) done
      let s := s.mapWorkq asid queue fun x => { x with written := written.filter fun n => n > upto }
      s.setBlock asid w.block 0x20 8 upto

/-- The same for a launch that is aborted: the writes go out through the hub, as its context's end does not wait for them
(R88, R90, R383). -/
def State.abortRecord (s : State) (asid queue seq status : Nat) : State :=
  match (s.domain asid).workq queue with
  | none => s
  | some w =>
    match s.deviceSend asid (s.recordAddr asid w seq) (recordBytes seq status s.clock64) with
    | none => s
    | some s =>
      let done := s.blockField asid w.block 0x20 8
      let written := w.written ++ [seq]
      let upto := advance written (written.length + 1) done
      let s := s.mapWorkq asid queue fun x => { x with written := written.filter fun n => n > done }
      if upto > done then (s.deviceSend asid (w.block + 0x20) (bytesOf 8 upto)).getD s else s

end Sys2Proof.Machine
end

