-- ==== Sys2Proof/Machine/Gate.lean ====
section
/-! DEFINITION. Gates: major 0x38, and GATE_RETURN (R338 to R347). -/

namespace Sys2Proof.Machine

/-! ### The gate table and code objects (R338, R145) -/

/-- TEXTPKTS of the code object at an address of a domain: 0 where its header cannot be read or is
wrong (R145, R146). -/
def State.imagePkts (s : State) (asid code : Nat) : Nat :=
  match s.deviceRead asid code 256 with
  | some h => if leAt h 0 4 = 0x49584E44 && (h.drop 0x18).all (· = 0) then leAt h 4 4 else 0
  | none => 0

/-- A gate entry that passes check 1 of R341. -/
structure Gate where
  code : Nat
  entry : Nat
  dom : Nat
  rwin : Nat
  uwin : Nat
  budget : Nat
  rectab : Nat
  grant : BitVec 16
  nest : Nat
  lend14 : Nat
  lend15 : Nat
  nolead : Bool
  pkts : Nat
  deriving DecidableEq, Repr

/-- Gate m of a domain's table, or nothing where it fails check 1 (R338, R341). For a call, the gate of a wing that a DESTROY
has ended stands, though its code object is gone: R375 has every CALLG of it report GBUSY (DEDUCED,
notes/assumptions/89). -/
def State.gateEntry (s : State) (asid m : Nat) (called : Bool := false) : Option Gate :=
  let d := s.domain asid
  if m ≥ d.gtsize then none else
  match s.deviceRead asid (d.gates + 64 * m) 64 with
  | none => none
  | some e =>
    let flags : Byte := rd 0 e 0x23
    let g : Gate :=
      { code := leAt e 0 8, entry := leAt e 8 4, dom := leAt e 0xC 2, rwin := leAt e 0xE 1,
        uwin := leAt e 0xF 1, budget := leAt e 0x10 8, rectab := leAt e 0x18 8,
        grant := BitVec.ofNat 16 (leAt e 0x20 2), nest := leAt e 0x22 1, lend14 := fld flags 2 1,
        lend15 := fld flags 4 3, nolead := flags.getLsbD 5,
        pkts := s.imagePkts (leAt e 0xC 2) (leAt e 0 8) }
    if flags.getLsbD 0 && fld flags 7 6 = 0 && fld g.grant 15 14 = 0 && (e.drop 0x24).all (· = 0)
        && g.lend14 ≠ 3 && g.lend15 ≠ 3 && g.rwin ≤ 7 && 4 ≤ g.uwin && g.uwin ≤ 32 && g.uwin % 4 = 0
        && (g.nest = 1 || g.nest = 2) && g.code % 256 = 0 && g.entry % 3 = 0
        && (g.entry < 3 * g.pkts || (called && (s.domain g.dom).fallen)) then
      some g
    else none

/-- Waits until the device may read n bytes of a domain, at most 64 KiB: their pages are there, and no atomic of the core,
no forwarded store and no migration stands before the read (R88, R90, R95, R105, R220). -/
def State.awaitRead (s : State) (dom va n : Nat) (eff : State → State) : State :=
  s.awaitPages dom .load (fun s =>
    s.await (.lines ((List.range ((va + n + 127) / 128 - va / 128)).map fun k => (dom, (va / 128 + k) * 128))) eff) [va, va + n - 1]

/-- Reads the entry of gate m of the domain of the thread that issues, and its code object's header, for a call: the
device reads them at their homes, where each line counts (R13, R221, R364, R365). -/
def State.withGate (s : State) (m : Nat) (eff : State → Option Gate → State) : State :=
  let asid := s.cur.old.dom
  let d := s.domain asid
  let at_ := d.gates + 64 * m
  if m ≥ d.gtsize then eff s none else
  s.awaitRead asid at_ 64 fun s =>
    match s.deviceRead asid at_ 64 with
    | none => eff ((s.countLines asid at_ 64).chargeLines s.cur.old.lc 1) none
    | some e =>
      let dom := leAt e 0xC 2
      let code := leAt e 0 8
      s.awaitRead dom code 256 fun s =>
        eff (((s.countLines asid at_ 64).countLines dom code 256).chargeLines s.cur.old.lc 3) (s.gateEntry asid m true)

/-- Reads the same for GATEQ, which never waits: what cannot be read now fails check 1 (R347). -/
def State.peekGate (s : State) (m : Nat) : State × Option Gate :=
  let asid := s.cur.old.dom
  let d := s.domain asid
  let at_ := d.gates + 64 * m
  if m ≥ d.gtsize then (s, none) else
  match s.deviceReads asid at_ 64 with
  | (s, none) => (s.chargeLines s.cur.old.lc 1, none)
  | (s, some e) =>
    let s := (s.deviceReads (leAt e 0xC 2) (leAt e 0 8) 256).1
    (s.chargeLines s.cur.old.lc 3, s.gateEntry asid m)

/-- Check 4: the wing is resident (R341). -/
def State.wingResident (s : State) (dom : Nat) : Bool :=
  let d := s.domain dom
  d.alive && d.wing && d.resident

/-! ### CALLG (R341) -/

/-- Lend (R341). -/
def lend (r : BufRec) (mode dom : Nat) : BufRec :=
  if mode = 0 then {} else
  { bits := (if mode = 1 then r.bits &&& ~~~ (1#128 <<< 61) else r.bits) ||| (1#128 <<< 63),
    lender := if r.lent then r.lender else some dom }

/-- The bits of a record that RECTAB may not set: LENT, which CALLG alone sets, and the reserved bits, which read
as zero (R4, R213). -/
def rectabZero : BitVec 128 := (1#128 <<< 63) ||| (1#128 <<< 71) ||| (1#128 <<< 57)

/-- Records b0 to b13 of a callee: nothing where RECTAB cannot be read. A reserved code of ESIZE, SWZ or OOB is
loaded as it stands (DESIGN CHOICE, notes/assumptions/63). -/
def State.grantRecs (s : State) (g : Gate) : Option (List BufRec) :=
  (List.range 14).mapM fun n =>
    if g.grant.getLsbD n then
      (s.deviceRead g.dom (g.rectab + 16 * n) 16).map fun bs =>
        { bits := BitVec.ofNat 128 (ofBytes bs) &&& ~~~ rectabZero : BufRec }
    else some {}

/-- Reads the records of RECTAB that a gate grants, for an effect: each of their lines counts once (R13, R221, R364, R365). -/
def State.withGrants (s : State) (g : Gate) (eff : State → State) : State :=
  let ns := (List.range 14).filter fun n => g.grant.getLsbD n
  let lines := (ns.flatMap fun n => [lineOf (g.rectab + 16 * n), lineOf (g.rectab + 16 * n + 15)]).eraseDups
  s.awaitPages g.dom .load (fun s => s.await (.lines (lines.map fun a => (g.dom, a))) fun s =>
    eff ((lines.foldl (fun s a => s.countLines g.dom a 128) s).chargeLines s.cur.old.lc lines.length)) lines

/-- The first record of RECTAB that cannot be read, and its trap: XLATE without a mapping, ECCUE on a
poisoned line, else PERM. -/
def State.grantTrap (s : State) (g : Gate) : TrapCode × Nat :=
  let n := ((List.range 14).find? fun n =>
    g.grant.getLsbD n && (s.deviceRead g.dom (g.rectab + 16 * n) 16).isNone).getD 0
  let va := g.rectab + 16 * n
  match (s.domain g.dom).page va, (s.domain g.dom).page (va + 15) with
  | some p, some _ => if p.r then (.eccue, va) else (.perm, va)
  | _, _ => (.xlate, va)

/-- The values and load requests that a thread's registers and latches wait for, as it stood. -/
def Thread.pendingReqs (t : Thread) : List Nat :=
  (t.lanes.flatMap fun L => L.pend.map (·.2) ++ L.latch.filterMap (·.pend)) ++ t.wpend.map (·.2)

/-- The caller's state that an activation banks (R341); the lanes of the run outside it take n. -/
def Thread.bank (t : Thread) (act run : Mask) (ret budget : Nat) : Banked :=
  { act := act, ret := BitVec.ofNat 32 ret
    lanes := (List.range 32).map fun l =>
      let L := t.lane l
      if run.getLsbD l && !act.getLsbD l then { L with pc := BitVec.ofNat 32 ret } else L
    w := t.w, b := t.b, fflags := t.fflags, rm := t.rm, seed := t.seed, evp := t.evp, curtag := t.curtag,
    dom := t.dom, code := t.code, textPkts := t.textPkts, regs := t.regs, uregs := t.uregs,
    wstart := t.wtime, budget := budget }

/-- Enters a gate's callee (R341). -/
def Thread.enter (t : Thread) (g : Gate) (act run : Mask) (ret : Nat) (recs : List BufRec) : Thread :=
  { t with
    acts := t.bank act run ret g.budget :: t.acts
    lanes := (List.range 32).map fun l =>
      let L := t.lane l
      if act.getLsbD l then
        { st := L.st, pc := BitVec.ofNat 32 g.entry, npc := BitVec.ofNat 32 g.entry, acq := L.acq,
          v := if t.isLead then [] else (List.range 8).map fun i => rd 0 L.v i }
      else { st := L.st, acq := L.acq, hold := .caller }
    w := (List.range 4).map fun i => rd 0 t.w i
    wpend := []
    b := recs ++ [lend (rd {} t.b 14) g.lend14 t.dom, lend (rd {} t.b 15) g.lend15 t.dom]
    fflags := 0, rm := 0, seed := 0, evp := 0, curtag := 0
    dom := g.dom, code := g.code + 0x100, textPkts := g.pkts
    regs := if t.isLead then 0 else 8 * (g.rwin + 1), uregs := g.uwin }

/-- A call that is refused: w0 is the status and w1 is 0 (R341). -/
def State.gateStatus (s : State) (n : Nat) : State := s.setU2 0 (BitVec.ofNat 64 n) 0

/-- A call that ends with GFAULT as it is entered: v0 to v7 of its lanes and w1 to w3 are 0, and the
record goes to the wing; the call and the trap count (R341, R344, R365). -/
def State.gateFaultAtEntry (s : State) (dom : Nat) (code : TrapCode) (addr : Nat) : State :=
  let s := ((s.countBy s.cur.tid 13 1).countBy s.cur.tid 14 1).charge dom (s.trapRecord { lane := 255, code := code, addr := addr } 3)
  let s := s.mapActive fun _ L => if s.cur.old.isLead then L else L.setVs 0 (List.replicate 8 0)
  s.mapMe fun t => { t with w := [1, 0, 0, 0] ++ t.w.drop 4 }

/-- CALLG (R341): checks 0 to 5, and the entry. -/
def execCallg (m : BitVec 7) (s : State) : Host.Outcome State Fault Refusal :=
  .next (s.uniform none false fun s =>
    let t := s.cur.old
    if t.parkedLanes ≠ 0 then s.block .parked
    else if !t.pendingReqs.isEmpty then s.block (.pending t.pendingReqs)
    else s.withGate m.toNat fun s g =>
      match g with
      | none => s.gateStatus 3
      | some g =>
        if (t.isLead && g.nolead) || t.gdepth + 1 > g.nest then s.gateStatus 3
        else if !s.wingResident g.dom then s.gateStatus 4
        else s.await .gate fun s => s.withGrants g fun s =>
          match s.grantRecs g with
          | none => s.gateFaultAtEntry g.dom (s.grantTrap g).1 (s.grantTrap g).2
          | some recs =>
            let s := s.countBy s.cur.tid 13 1
            let s := s.mapCore t.core fun c => { c with windows := c.windows + 1 }
            s.mapMe fun t => t.enter g s.cur.mask s.cur.run s.fallPc recs)

/-! ### RETG and GATEQ (R342, R347) -/

/-- RETG holds its lanes; outside an activation they trap GATE (R342). -/
def execRetg (s : State) : Host.Outcome State Fault Refusal :=
  .next (s.laneWise none false fun s =>
    if s.cur.old.acts.isEmpty then s.trapLanes s.cur.mask .gate id 4
    else s.mapActive fun _ L => { L with hold := .retg })

/-- The summary of a gate (R347). -/
def State.gateSummary (s : State) (core : Nat) (g : Gate) : Nat :=
  g.dom * 2 ^ 48 + (if s.wingResident g.dom then 2 ^ 27 else 0) + (if g.nolead then 2 ^ 26 else 0)
  + g.lend15 * 2 ^ 24 + g.lend14 * 2 ^ 22 + g.nest * 2 ^ 20 + g.uwin * 2 ^ 14 + 8 * (g.rwin + 1) * 2 ^ 7
  + (Config.gateWindows - s.windowsUsed core)

/-- GATEQ (R347). -/
def execGateq (d : UReg) (m : BitVec 7) (s : State) : Host.Outcome State Fault Refusal :=
  .next (s.uniform none false fun s =>
    match s.peekGate m.toNat with
    | (s, some g) => s.setU d (BitVec.ofNat 64 (s.gateSummary s.cur.old.core g))
    | (s, none) => s.setU d 0)

/-! ### The end of an activation (R342 to R344) -/

/-- The innermost activation of a thread has used up its budget: it ends at this boundary (R343, R344). -/
def Thread.pastBudget (t : Thread) : Bool :=
  match t.acts with
  | b :: _ => b.budget ≠ 0 && t.wtime - b.wstart > b.budget
  | [] => false

/-- An atomic that a thread made at an activation depth has not returned. -/
def State.calleeAtoms (s : State) (tid depth : Nat) : Bool :=
  s.stores.any fun x => x.live && x.tids.contains tid && !x.wctBack && x.isAtomic && x.depth = depth

/-- GATE_RETURN: every lane of the activation is held at RETG and every load and atomic of the callee has
returned; the caller is restored with the results (R342). Where the budget is used up, the timeout comes first (R343). -/
def execGateReturn (tid : Nat) (s : State) : Host.Outcome State Fault Refusal :=
  .next (
    let t := s.thread tid
    match t.acts with
    | [] => s
    | b :: rest =>
      let held := (lanesOf b.act).all fun l => (t.lane l).hold = .retg || (t.lane l).st ≠ .live
      if !t.alive || t.stopped || !held || !s.nonePending tid || s.calleeAtoms tid t.gdepth || t.pastBudget then s else
      let w0 : Dword := rd 0 t.w 0
      (((s.closeAccesses tid t.gdepth).freeWindow t.core).releaseSide tid).mapThread tid fun t =>
        t.unbank b rest (fun l => ((List.range 4).map fun i => rd 0 (t.lane l).v i) ++ List.replicate 4 0)
          [w0 &&& ~~~ 0xFF, rd 0 t.w 1, 0, 0])

end Sys2Proof.Machine
end

