-- ==== Sys2Proof/Machine/Task.lean ====
section
/-! DEFINITION. Task words: major 0x2D (R252 to R257, R50 to R52, R62). -/

namespace Sys2Proof.Machine

/-! ### SPAWN (R254, R51, R62) -/

/-- The locality bin of a first operand address (R51). -/
def localityBin (a : Nat) : Nat := (a / 2 ^ 16 ^^^ a / 2 ^ 22 ^^^ a / 2 ^ 28) % 64

/-- The child that a descriptor in a quad describes, for the thread that issues (R254). -/
def State.childOf (s : State) (q : UReg) : Child :=
  let t := s.cur.old
  let h := s.quadReg q 0
  { lc := t.lc, core := t.core, cls := fld h 38 37, lanes := fld h 36 32 + 1,
    entry := h.extractLsb' 0 32, arg0 := s.quadReg q 1, arg1 := s.quadReg q 2,
    counter := (s.quadReg q 3).toNat, depth := t.depth + 1, curtag := t.curtag,
    bin := localityBin (s.quadReg q 1).toNat }

/-- Hands a child to the dispatcher of its parent's die; in deterministic mode its WAVEID is fixed by
the order of spawning (R37, R51, R62). -/
def State.handChild (s : State) (c : Child) : State :=
  let die := c.core / Config.coresPerDie
  if s.det s.cur.tid then
    let n := (s.lc c.lc).nextWave
    let s := s.mapLC c.lc fun x => { x with nextWave := x.nextWave + 1 }
    s.mapDie die fun d => { d with pend := d.pend ++ [{ c with waveid := some (BitVec.ofNat 32 n) }] }
  else s.mapDie die fun d => { d with pend := d.pend ++ [c] }

/-- SPAWN (R254). -/
def execSpawn (a : UReg) (s : State) : Host.Outcome State Fault Refusal :=
  .next (s.uniform (some 2) false fun s =>
    let c := s.childOf a
    if fld (s.quadReg a 0) 63 39 ≠ 0 || !s.cur.old.codeAddr c.entry.toNat || c.counter % 8 ≠ 0 then
      s.trapWave .ill
    else if s.cur.old.depth = 4 then s.trapWave .nest
    else (s.flushDirty s.cur.tid).await .spawn fun s => s.handChild c)

/-! ### WAITC (R255) -/

/-- WAITC: its attempts are those of POLL_ATTEMPT. -/
def execWaitc (rec : BReg) (_a : UReg) (s : State) : Host.Outcome State Fault Refusal :=
  .next (s.uniform (some 2) false fun s => s.pollUni (s.breg rec) 8)

/-! ### WITHDRAW (R256) -/

/-- Whether a launch-on-core belongs to the launch of another. -/
def State.sameLaunch (s : State) (a b : Nat) : Bool :=
  (s.lc a).launch = (s.lc b).launch && (s.lc a).asid = (s.lc b).asid

/-- Removes the commands of a launch on a core that carry a tag and have not started. -/
def State.withdrawCore (s : State) (lc tag core : Nat) : State × Nat :=
  let asid := (s.lc lc).asid
  let hit := (s.unit asid core).cmdsAll.filter fun c =>
    c.st = .queued && c.tag.toNat = tag && s.sameLaunch c.lc lc
  (hit.foldl (fun s c => match (s.unit asid core).cmd c.id with
    | some c => s.discardCmd asid core c
    | none => s) s, hit.length)

/-- Removes the pending children of a launch on a die that carry a tag; each counter receives its add
(R53, R256). One that cannot be written takes none, and there is no record of it (DESIGN CHOICE, notes/assumptions/29). -/
def State.withdrawDie (s : State) (lc tag die : Nat) : State × Nat :=
  let hitBy (c : Child) : Bool := c.curtag.toNat = tag && s.sameLaunch c.lc lc
  let d := s.die die
  let gone := (d.turn ++ d.pend).filter hitBy
  let s := s.mapDie die fun d =>
    { d with pend := d.pend.filter fun c => !hitBy c, turn := d.turn.filter fun c => !hitBy c }
  (gone.foldl (fun s c =>
    if c.counter = 0 then s else (s.deviceAdd (s.lc c.lc).asid c.core c.counter 1).1) s, gone.length)

/-- The record of entry seq of a launch queue carries a request tag (R55, R381). -/
def State.entryTagged (s : State) (asid : Nat) (w : WorkQ) (seq tag : Nat) : Bool :=
  let base := s.blockField asid w.block 0x00 8
  let rec_ := s.blockField asid (base + 16 * (seq % s.workDepth asid w)) 8 8
  s.blockField asid rec_ 0x38 4 = tag

/-- The entries of a launch queue that have not been taken and carry a tag (R256). -/
def State.tagged (s : State) (asid tag : Nat) (w : WorkQ) : List Nat :=
  if s.workType asid w ≠ 0 then [] else
  let first := s.blockField asid w.block 0x18 8 + 1
  ((List.range (w.tail + 1 - first)).map (first + ·)).filter fun q =>
    !w.written.contains q && q > s.blockField asid w.block 0x20 8 && s.entryTagged asid w q tag

/-- The reading of an entry of a launch queue and of its record's tag counts at their homes (R13, R221). -/
def State.countEntry (s : State) (asid : Nat) (w : WorkQ) (seq : Nat) : State :=
  let at_ := s.blockField asid w.block 0x00 8 + 16 * (seq % s.workDepth asid w)
  (s.countLines asid at_ 16).countLines asid (s.blockField asid at_ 8 8 + 0x38) 4

/-- Waits until the device may write the completion records of the entries that a withdrawal of a scope finds, and their
queues' blocks (R88, R90, R220, R256, R383). -/
def State.withRecords (s : State) (asid scope tag : Nat) (eff : State → State) : State :=
  if scope ≠ 3 then eff s else
  let vas := (s.domain asid).queues.flatMap fun w =>
    match s.tagged asid tag w with
    | [] => []
    | qs => w.block :: qs.map (s.recordAddr asid w)
  s.awaitPages asid .store (fun s => s.await (.free (vas.filterMap (s.domain asid).place)) eff) vas

/-- Withdraws the entries of a launch queue that have not been taken and carry a tag (R256, R383). -/
def State.withdrawQueue (s : State) (asid tag : Nat) (w : WorkQ) : State × Nat :=
  if s.workType asid w ≠ 0 then (s, 0) else
  let first := s.blockField asid w.block 0x18 8 + 1
  let hit := s.tagged asid tag w
  let s := ((List.range (w.tail + 1 - first)).map (first + ·)).foldl (fun s q => s.countEntry asid w q) s
  (hit.foldl (fun s q => s.completionRecord asid w.queue q 0x08) s, hit.length)

/-- Folds removals, adding what each removed. -/
def State.withdrawEach {α : Type} (s : State) (f : State → α → State × Nat) (xs : List α) : State × Nat :=
  xs.foldl (fun (s, n) x => let (s, k) := f s x; (s, n + k)) (s, 0)

/-- The holders of a scope, one after another (R256). -/
def State.withdrawAll (s : State) (lc core scope tag : Nat) : State × Nat :=
  let die := core / Config.coresPerDie
  let dies := if scope = 0 then [] else if scope = 1 then [die] else List.range Config.dies
  let cores := if scope = 0 then [core]
    else dies.flatMap fun d => (List.range Config.coresPerDie).map fun i => d * Config.coresPerDie + i
  let (s, a) := s.withdrawEach (fun s c => s.withdrawCore lc tag c) cores
  let (s, b) := s.withdrawEach (fun s d => s.withdrawDie lc tag d) dies
  let asid := (s.lc lc).asid
  let (s, c) := if scope = 3 then
      s.withdrawEach (fun s w => s.withdrawQueue asid tag w) (s.domain asid).queues
    else (s, 0)
  (s, a + b + c)

/-- WITHDRAW (R256). -/
def execWithdraw (d a : UReg) (s : State) : Host.Outcome State Fault Refusal :=
  .next (s.uniform (some 2) false fun s =>
    let x := s.ureg a
    if fld x 63 34 ≠ 0 || fld x 31 0 = 0 then s.trapWave .ill
    else if s.det s.cur.tid then s.trapWave .atomdet
    else
      s.withRecords (s.ctxOf s.cur.tid) (fld x 33 32) (fld x 31 0) fun s =>
      let (s, n) := s.withdrawAll s.cur.old.lc s.cur.old.core (fld x 33 32) (fld x 31 0)
      s.setU d (BitVec.ofNat 64 n))

/-! ### TASKTAG and SIGLEAD (R257) -/

/-- TASKTAG. -/
def execTasktag (a : UReg) (s : State) : Host.Outcome State Fault Refusal :=
  .next (s.uniform (some 2) false fun s =>
    let x := s.ureg a
    if fld x 63 32 ≠ 0 then s.trapWave .ill
    else s.mapMe fun t => { t with curtag := x.extractLsb' 0 32 })

/-- SIGLEAD posts events to the lead thread, until it has exited. -/
def execSiglead (a : UReg) (s : State) : Host.Outcome State Fault Refusal :=
  .next (s.uniform (some 2) false fun s =>
    let x := s.ureg a
    let lc := s.cur.old.lc
    if fld x 63 16 ≠ 0 then s.trapWave .ill
    else match (s.lc lc).lead with
      | some i => if s.leadGone lc then s
          else s.mapThread i fun t => t.postEvents (x.extractLsb' 0 16)
      | none => s)

end Sys2Proof.Machine
end

