-- ==== Sys2Proof/Machine/Relax.lean ====
section
/-! DEFINITION. Relaxation regions: majors 0x36 and 0x37 and the steps of the Relaxation Scan Unit
(R106, R310 to R335). Verification and scan are one step (R319). -/

namespace Sys2Proof.Machine

/-! ### The descriptor (R313) -/

/-- N. -/
def descN (d : List Dword) : Nat := fld (rd 0 d 0) 10 0 + 1
/-- S. -/
def descS (d : List Dword) : Nat := 2 ^ fld (rd 0 d 0) 13 12
/-- SIDX. -/
def descSidx (d : List Dword) : Nat := fld (rd 0 d 2) 31 0
/-- TOLK. -/
def descTolk (d : List Dword) : Nat := fld (rd 0 d 0) 17 16
/-- TOL. -/
def descTol (d : List Dword) : Word := (rd 0 d 1).extractLsb' 0 32
/-- The pass limit: N where PASSLIM is 0. -/
def descLimit (d : List Dword) : Nat := if fld (rd 0 d 0) 23 20 = 0 then descN d else fld (rd 0 d 0) 23 20
/-- W, the number of region waves (R310). -/
def descW (d : List Dword) : Nat := ceilDiv (descN d) 32

/-- Whether an FP32 pattern is finite. -/
def finite32 (x : Word) : Bool := match dec32 x with | .fin _ _ _ => true | _ => false

/-- Whether a descriptor breaks the Meaning column of R313. -/
def descBad (d : List Dword) : Bool :=
  let w := rd 0 d 0
  let tol := descTol d
  fld w 63 36 ≠ 0 || fld w 31 30 ≠ 0 || fld w 27 26 ≠ 0 || fld w 19 18 ≠ 0 || fld w 15 14 ≠ 0
  || w.getLsbD 11 || descTolk d = 3 || fld w 13 12 = 3
  || fld (rd 0 d 1) 63 32 ≠ 0 || fld (rd 0 d 2) 63 32 ≠ 0 || rd 0 d 3 ≠ 0
  || (descTolk d = 0 && tol ≠ 0)
  || (descTolk d = 2 && (!finite32 tol || ((dec32 tol).neg && !(dec32 tol).isZero)))

/-! ### RLXBEG (R312, R314, R331) -/

/-- The conditions of R312 that are checked at issue. -/
def State.begBad (s : State) (d : List Dword) : Bool :=
  let t := s.cur.old
  match t.cast, s.castRank s.cur.tid with
  | some m, some rank =>
    let mine := maskOf fun l => 32 * rank + l < descN d
    (s.castMembers t.lc m).length < descW d || rank ≥ descW d
    || t.lanesWith (fun L => L.st = .live) ≠ s.cur.mask || t.parkedLanes ≠ 0
    || t.lanesWith (fun L => L.st = .exited || L.st = .killed) &&& mine ≠ 0
  | _, _ => true

/-- Whether the descriptor or record of a thread differs from the rank-0 wave's, when both have issued. -/
def State.begDiffers (s : State) (d : List Dword) (r : BufRec) : Bool :=
  let t := s.cur.old
  match t.cast with
  | none => false
  | some m =>
    match (s.castMembers t.lc m).head? with
    | none => false
    | some z => match (s.thread z).rlx with
      | some (d', r', _) => d ≠ d' || r ≠ r'
      | none => false

/-- Traps a wave at its RLXBEG, which it no longer waits at. -/
def State.begTrap (s : State) (code : TrapCode) : State :=
  (s.mapMe fun t => { t with rlx := none }).trapWave code

/-- RLXBEG: it joins the waves that wait for the region to open, and completes once x0 has come. -/
def execRlxbeg (a : UReg) (s : State) : Host.Outcome State Fault Refusal :=
  .next (
    let opened : Bool := match (s.unitOf s.cur.tid).region with
      | some r => s.me.rlx.isSome && r.waves.contains s.cur.tid && r.st ≠ .opening
      | none => false
    if opened then s.mapMe fun t => { t with rlx := none }
    else s.uniform (some 2) false fun s =>
      let d := (List.range 4).map fun k => s.quadReg a k
      let r : BufRec := rd {} s.cur.old.b (fld (rd 0 d 0) 35 32)
      if descBad d || r.esize ≠ 2 || r.stride ≠ 1 then s.begTrap .ill
      else if !r.r || !r.w then s.begTrap .perm
      else if r.extent < descSidx d + descS d * (descN d + 1) then s.begTrap .bounds
      else if s.cur.old.rlx.isNone && s.otherRegion s.cur.tid then s.block .region
      else if s.begBad d || s.begDiffers d r then s.begTrap .rlxbad
      else (s.mapMe fun t => { t with rlx := some (d, r, s.fallPc) }).block .region)

/-! ### Words of the body (R332 to R334) -/

/-- The region of the thread that issues. -/
def State.region? (s : State) : Option Region := (s.unitOf s.cur.tid).region
/-- Replaces the region of a context on a core. -/
def State.mapRegion (s : State) (asid core : Nat) (f : Region → Region) : State :=
  s.mapUnit asid core fun u => { u with region := u.region.map f }
/-- The lanes of Active() that hold no step of the current pass. -/
def State.stepless (s : State) : Mask :=
  maskOf fun l => s.cur.mask.getLsbD l && (s.bodyStep s.cur.tid l).isNone

/-- RLXEND holds each step lane; a lane with no step, with no RLXOUT, or at another word than the
region's RLXEND traps RLXBAD (R319, R324, R332). -/
def execRlxend (s : State) : Host.Outcome State Fault Refusal :=
  .next (s.laneWise (some 2) true fun s =>
    let bad := maskOf fun l => s.cur.mask.getLsbD l &&
      ((s.bodyStep s.cur.tid l).isNone || !(s.stepOf s.cur.tid l).out
        || (match s.region?.bind (·.rlxend) with | some pc => pc ≠ s.cur.pc | none => false))
    s.trapLanes bad .rlxbad fun s =>
      if s.cur.mask = 0 then s else
      (s.mapUnitOf s.cur.tid fun u =>
        { u with region := u.region.map fun r => { r with rlxend := some s.cur.pc } }).mapActive
          fun _ L => { L with hold := .region })

/-- A word whose lane group of n registers breaks its limits traps ILL in the issuing lanes (R330). -/
def State.groupOk (s : State) (a : Src) (n : Nat) (eff : State → State) : State :=
  let ok : Bool := match a with
    | .reg r => r.toNat + n ≤ s.cur.old.regs
    | .latch _ => n = 1
  if ok then eff s else s.trapLanes s.cur.mask .ill id

/-- The words of a lane group in a lane. -/
def State.groupOf (s : State) (l : Nat) (a : Src) (n : Nat) : List Word :=
  match a with
  | .reg r => (List.range n).map fun i => s.vreg l (r.toNat + i)
  | .latch _ => [s.src l a]

/-- Writes a lane group: one register pushes the M latch pair (R120, R333, R335). -/
def State.setStateGroup (s : State) (d : LReg) (n : Nat) (f : Nat → List Word) : State :=
  if n = 1 then s.setLane .m (.reg d) fun l => rd 0 (f l) 0 else s.setGroup d.toNat f

/-- RLXIN. -/
def execRlxin (d : LReg) (s : State) : Host.Outcome State Fault Refusal :=
  .next (s.laneWise (some 2) true fun s =>
    let n := s.rlxS s.cur.tid
    s.groupOk (.reg d) n fun s =>
      s.trapLanes s.stepless .rlxbad fun s =>
        s.setStateGroup d n fun l => (List.range n).map fun i => rd 0 (s.stepOf s.cur.tid l).g i)

/-- RLXOUT. -/
def execRlxout (a : Src) (s : State) : Host.Outcome State Fault Refusal :=
  .next (s.laneWise (some 2) true fun s =>
    let n := s.rlxS s.cur.tid
    s.groupOk a n fun s =>
      s.trapLanes s.stepless .rlxbad fun s =>
        (lanesOf s.cur.mask).foldl (fun s l =>
          s.mapStep s.cur.tid l fun st => { st with f := s.groupOf l a n, out := true }) s)

/-- RLXJAC. -/
def execRlxjac (a : Src) (s : State) : Host.Outcome State Fault Refusal :=
  .next (s.laneWise (some 2) true fun s =>
    let n := s.rlxS s.cur.tid
    s.groupOk a (n * n) fun s =>
      s.trapLanes s.stepless .rlxbad fun s =>
        (lanesOf s.cur.mask).foldl (fun s l =>
          s.mapStep s.cur.tid l fun st => { st with j := s.groupOf l a (n * n) }) s)

/-- RLXSTEP: the lane's cast rank (R44). -/
def execRlxstep (d : Dst) (s : State) : Host.Outcome State Fault Refusal :=
  .next (s.laneWise (some 2) true fun s =>
    match s.castRank s.cur.tid with
    | none => s.trapLanes s.cur.mask .rlxbad fun s => s.pushAll .m fun _ => 0
    | some r => s.setLane .m d fun l => BitVec.ofNat 32 (32 * r + l))

/-- RLXST (R327, R334). -/
def execRlxst (d : UReg) (s : State) : Host.Outcome State Fault Refusal :=
  .next (s.uniform (some 2) false fun s => s.setU d (s.lcOf s.cur.tid).rlxst)

/-- RLXABT (R334). -/
def execRlxabt (s : State) : Host.Outcome State Fault Refusal :=
  .next (s.uniform (some 2) true fun s =>
    if s.bodyLanes s.cur.mask = 0 then s.trapWave .rlxbad
    else s.mapUnitOf s.cur.tid fun u =>
      { u with region := u.region.map fun r => { r with abort := true } })

/-! ### The guess store (R315, R335) -/

/-- RLXPEEK. -/
def execRlxpeek (d : LReg) (s : State) : Host.Outcome State Fault Refusal :=
  .next (s.laneWise (some 2) false fun s =>
    let gs := (s.unitOf s.cur.tid).gs
    s.groupOk (.reg d) gs.ws fun s =>
      if s.region?.isSome then
        s.trapLanes s.cur.mask .rlxbad fun s => if gs.ws = 1 then s.pushAll .m fun _ => 0 else s
      else s.setStateGroup d gs.ws fun l =>
        match s.castRank s.cur.tid with
        | some r => if 32 * r + l < gs.ns then (List.range gs.ws).map fun i => rd 0 (rd [] gs.e (32 * r + l)) i
            else List.replicate gs.ws 0
        | none => List.replicate gs.ws 0)

/-- RLXGUESS. -/
def execRlxguess (a : Src) (s : State) : Host.Outcome State Fault Refusal :=
  .next (s.laneWise (some 2) false fun s =>
    let n := (s.unitOf s.cur.tid).gs.ws
    s.groupOk a n fun s =>
      match s.region?, s.castRank s.cur.tid with
      | none, some r =>
        (lanesOf s.cur.mask).foldl (fun s l => s.mapUnitOf s.cur.tid fun u =>
          { u with gs :=
              { u.gs with
                e := upd [] u.gs.e (32 * r + l) fun x => s.groupOf l a n ++ x.drop n
                supplied := wr false u.gs.supplied (32 * r + l) true } }) s
      | _, _ => s.trapLanes s.cur.mask .rlxbad id)

/-! ### REGION_OPEN (R311, R312) -/

/-- The context with an open region on a core, among those that run (R311). -/
def State.regionCtx (s : State) (core : Nat) : Option Nat :=
  (indices (fun d => d.goes) s.domains).find? fun a => (s.unit a core).region.isSome

/-- The same where no pre-emption holds the unit: it would repeat the work after the restore (R328). -/
def State.regionGoes (s : State) (core : Nat) : Option Nat :=
  (s.regionCtx core).filter fun a => (s.domain a).starts

/-- The region waves of a cast whose RLXBEGs all agree and wait, by its rank-0 wave. -/
def State.readyWaves (s : State) (z : Nat) : Option (List Nat × List Dword × BufRec) :=
  let t := s.thread z
  match t.cast, t.rlx with
  | some m, some (d, r, _) =>
    let ws := (s.castMembers t.lc m).take (descW d)
    let same (i : Nat) : Bool :=
      let x := s.thread i
      x.wait = some .region && match x.rlx with | some (d', r', _) => d = d' && r = r' | none => false
    if ws.head? = some z && ws.length = descW d && ws.all same then some (ws, d, r) else none
  | _, _ => none

/-- Traps each wave of a list at its RLXBEG. -/
def State.trapWaves (s : State) (ws : List Nat) (x : Taken) : State :=
  ws.foldl (fun s i =>
    let t := s.thread i
    match t.run with
    | some r =>
      let s : State := { s with cur := issueOf i t r.mask r.ip }
      ((s.mapMe fun t => { t with rlx := none }).trapWave x.code 0 x.addr x.dom).afterGroup i r.ip false
    | none => s) s

/-- Opens a region: its x0 is asked for, as one plain load, with the checks of one (R312, R218, R275). -/
def State.openRegion (s : State) (z : Nat) (ws : List Nat) (d : List Dword) (r : BufRec) : State :=
  let t := s.thread z
  let n := descN d
  let old := s.cur
  let at_ (s : State) : State := { s with cur := issueOf z t 0 0 }
  let ps : Lanes := (List.range (descS d)).map fun i =>
    (i, s.checkAccess t r (descSidx d + i) 4 .load r.stash)
  let s := (at_ s).reserve ps
  let before (s : State) (x : Nat × Nat) := s.loadsBefore z (BitVec.allOnes 32) x.1 x.2
  let flawed : List Taken := if ps.any fun p => s.stashFlawed z p.2 4 then [{ lane := 0, code := .eccue }] else []
  match s.judge t.lc ps .load ++ flawed with
  | x :: _ => { s.trapWaves ws x with cur := old }
  | [] =>
    let ask (acc : State × List ((Nat × Nat) × Option Nat × List Byte)) (x : Nat × Nat) :=
      let (s, got) := acc
      let early := before s x
      let (s, sv) := s.serve z t.lc t.core x.1 x.2 .plain early.isEmpty
      let id := s.reqs.length
      let s := s.request z x.1 x.2 sv (leaseTicks r.lease) true false [] false early
      (s, got ++ [(x, match sv with | .now data => (none, data) | _ => (some id, []))])
    let (s, got) := (linesOf ps).foldl ask (s, [])
    let wants := ps.map fun (_, p) =>
      match p with
      | .mem dom va =>
        match got.find? fun g => g.1 = (dom, lineOf va) with
        | some (_, some id, _) => (some id, va % 128)
        | some (_, none, data) => (none, leAt data (va % 128) 4)
        | none => (none, 0)
      | .lstash _ | .own _ => (none, ofBytes (s.readStash t p 4))
      | _ => (none, 0)
    let starts := ws.map fun i => match (s.thread i).rlx with | some (_, _, b) => b | none => 0
    let q : Region :=
      { lc := t.lc, cast := t.cast.getD 0, desc := d, record := r, waves := ws, starts := starts,
        wants := wants, steps := List.replicate n {} }
    { s.mapUnitOf z fun u => { u with region := some q } with cur := old }

/-- REGION_OPEN: a region whose waves have all issued opens on a core that holds none. -/
def execRegionOpen (core : Nat) (s : State) : Host.Outcome State Fault Refusal :=
  .next (
    if (s.regionCtx core).isSome then s else
    let zs := indices (fun t => t.alive && t.core = core && t.rlx.isSome) s.threads
    match zs.findSome? fun z => if (s.domain (s.ctxOf z)).starts then (s.readyWaves z).map fun w => (z, w) else none with
    | some (z, ws, d, r) => s.openRegion z ws d r
    | none => s)

/-! ### Passes (R318, R319) -/

/-- Starts a pass: every step lane at or above SC enters at its wave's body start with an empty step
(R319). A kill or a trap of a step lane since the region opened ends the first pass by test 1 (R311, R321). -/
def State.startPass (s : State) (asid core : Nat) : State :=
  match (s.unit asid core).region with
  | none => s
  | some r =>
    let first := r.pc = 0
    let s := s.mapRegion asid core fun r =>
      { r with st := .pass, pc := r.pc + 1, abort := false
               steps := (List.range r.steps.length).map fun t =>
                 let x := rd {} r.steps t
                 if t ≥ r.sc then { g := x.g } else x }
    let s := s.count asid core 12 1
    ((r.waves.zip r.starts).zip (List.range r.waves.length)).foldl (fun s ((i, start), k) =>
      s.mapThread i fun t => t.mapLanes fun l L =>
        let step := 32 * k + l
        if step ≥ r.steps.length then (if L.st = .live then { L with hold := .region } else L)
        else if step ≥ r.sc then
          if first then { L with hold := .no }
          else if L.st = .live then
            { L with hold := .no, pc := BitVec.ofNat 32 start, npc := BitVec.ofNat 32 start, kept := none }
          else L
        else L) s

/-- The guesses at opening (R313, R315). -/
def openGuess (gs : Guess) (d : List Dword) (x0 : List Word) (t : Nat) : List Word :=
  let s := descS d
  let entry := (List.range s).map fun i => rd 0 (rd [] gs.e t) i
  if t = 0 then x0 else
  match fld (rd 0 d 0) 25 24 with
  | 1 => List.replicate s 0
  | 2 => if rd false gs.supplied t then entry else x0
  | 3 => if t < gs.ns && gs.ws = s then entry else x0
  | _ => x0

/-- The trap of a load of x0 that could not be served after the region opened. -/
def State.x0Trap (s : State) (r : Region) : Option Taken :=
  r.wants.findSome? fun w => w.1.bind fun n => (s.reqs[n]?).bind fun q =>
    q.failed.map fun c => { lane := 0, code := c, addr := lineOf q.va + w.2, dom := some q.dom }

/-- REGION_START: once x0 has come, the guesses are set and the first pass begins. Where it could not be read,
every region wave traps at its RLXBEG (R312). -/
def execRegionStart (core : Nat) (s : State) : Host.Outcome State Fault Refusal :=
  .next (
    match s.regionGoes core with
    | none => s
    | some asid =>
      match (s.unit asid core).region with
      | none => s
      | some r =>
        let back (w : Option Nat × Nat) : Bool := match w.1 with
          | some n => ((s.reqs[n]?).map fun q => decide (q.st = .done)).getD true
          | none => true
        if r.st ≠ .opening || !r.wants.all back then s else
        match s.x0Trap r with
        | some x => (s.mapUnit asid core fun u => { u with region := none }).trapWaves r.waves x
        | none =>
        let x0 := r.wants.map fun w => match w.1 with
          | some n => BitVec.ofNat 32 (leAt ((s.reqs[n]?).map (fun q => overlay q.own q.data) |>.getD []) w.2 4)
          | none => BitVec.ofNat 32 w.2
        let gs := (s.unit asid core).gs
        let s := s.mapRegion asid core fun r =>
          { r with x0 := x0, wants := []
                   steps := (List.range r.steps.length).map fun t => { g := openGuess gs r.desc x0 t } }
        let s := if fld (rd 0 r.desc 0) 25 24 = 2 then
            s.mapUnit asid core fun u => { u with gs := { u.gs with supplied := [] } }
          else s
        s.startPass asid core)

/-! ### Verification (R319, R320) -/

/-- Ord (R320). -/
def ordOf (x : Word) : Int := if x.getLsbD 31 then -(x.toNat % 2 ^ 31 : Int) else (x.toNat : Int)

/-- The exact difference of two finite values, without its sign. -/
def absDiff (a b : Word) : Val :=
  match dec32 a, dec32 b with
  | .fin n1 m1 e1, .fin n2 m2 e2 =>
    let (x, e) := addFin n1 m1 e1 (!n2) m2 e2
    .fin false x.natAbs e
  | _, _ => .nan false

/-- Match of two FP32 values (R320). -/
def match32 (tolk : Nat) (tol a b : Word) : Bool :=
  a = b || (finite32 a && finite32 b &&
    ((tolk = 1 && (ordOf a - ordOf b).natAbs ≤ tol.toNat) ||
     (tolk = 2 && (absDiff a b).cmp (dec32 tol) ≠ .gt)))

/-- Match of two states of S components. -/
def matchState (d : List Dword) (a b : List Word) : Bool :=
  (List.range (descS d)).all fun i => match32 (descTolk d) (descTol d) (rd 0 a i) (rd 0 b i)

/-- The residual of two values: Round(abs(a − b), FP32, 11), 0 for equal patterns, a NaN where either
is one. -/
def resid32 (a b : Word) : Word :=
  if isNan a || isNan b then nan32
  else if a = b then 0
  else (if (dec32 a).cmp (dec32 b) = .lt then (fadd32 .rup b (fneg32 a)).1 else (fadd32 .rup a (fneg32 b)).1) &&& 0x7FFFFFFF
where
  /-- Whether a pattern is a NaN. -/
  isNan (x : Word) : Bool := (dec32 x).isNan

/-- The larger of two residuals; a NaN wins. -/
def maxResid (a b : Word) : Word :=
  if (dec32 a).isNan || (dec32 b).isNan then nan32 else if a.toNat < b.toNat then b else a

/-- A largest residual did not fall (R321). -/
def notFallen (new old : Word) : Bool :=
  (dec32 new).isNan || (!(dec32 old).isNan && old.toNat ≤ new.toNat)

/-- Whether two buffered accesses share a byte. -/
def State.meets (s : State) (a b : StepMem) : Bool :=
  let x := s.stepKey a.space a.area a.dom a.addr
  let y := s.stepKey b.space b.area b.dom b.addr
  x.1 = y.1 && x.2.1 = y.2.1 && x.2.2 < y.2.2 + b.bytes.length && y.2.2 < x.2.2 + a.bytes.length

/-- Whether step t loaded a byte that a lower step holds in its buffer (R319). -/
def State.conflicts (s : State) (steps : List Step) (t : Nat) : Bool :=
  let x := rd {} steps t
  (steps.take t).any fun u => u.stores.any fun st => x.loads.any fun ld => s.meets ld st

/-- The settled count: the steps from t on that may settle (R320). -/
def settledFrom (d : List Dword) (steps : List Step) (bad : Nat → Bool) (sc : Nat) : Nat → Nat → Nat
  | 0, t => t
  | fuel + 1, t =>
    if bad t then t
    else if t = sc || matchState d (rd {} steps t).g (rd {} steps (t - 1)).f then
      settledFrom d steps bad sc fuel (t + 1)
    else t

/-- The pass's largest residual (R320). -/
def largestResid (d : List Dword) (steps : List Step) (bad : Nat → Bool) (sc : Nat) : Word :=
  let n := descN d
  ((List.range (n - 1)).filter fun t => t ≥ sc && !bad t && (rd {} steps t).out).foldl (fun r t =>
    (List.range (descS d)).foldl (fun r i =>
      maxResid r (resid32 (rd 0 (rd {} steps (t + 1)).g i) (rd 0 (rd {} steps t).f i))) r) 0

/-! ### The scan (R322) -/

/-- A value of the scan and the non-finite mark. -/
abbrev Marked := Word × Bool

/-- Round(a + b, FP32, 00), marking a value that is not finite. -/
def scanAdd (a b : Word) : Marked :=
  let r := (fadd32 .rne a b).1
  (r, !finite32 r)
/-- Round(a − b, FP32, 00), marking a value that is not finite. -/
def scanSub (a b : Word) : Marked := scanAdd a (fneg32 b)

/-- acc + m × z as a fused rounding, omitted where z is a zero. -/
def scanMadd (acc : Marked) (m z : Word) : Marked :=
  if (dec32 z).isZero then acc
  else
    let r := (ffma32 .rne m z acc.1).1
    (r, acc.2 || !finite32 m || !finite32 z || !finite32 r)

/-- Adds the products of two rows to a value, in ascending order. -/
def scanDot (acc : Marked) : List (Word × Word) → Marked
  | [] => acc
  | (m, z) :: t => scanDot (scanMadd acc m z) t

/-- Row i of an S × S matrix. -/
def jrow (j : List Word) (s i : Nat) : List Word := (List.range s).map fun k => rd 0 j (s * i + k)
/-- Column i of an S × S matrix. -/
def jcol (j : List Word) (s i : Nat) : List Word := (List.range s).map fun k => rd 0 j (s * k + i)

/-- MulAdd(M, z, e), and the mark. -/
def mulAdd (s : Nat) (m z e : List Word) : List Word × Bool :=
  let ys := (List.range s).map fun i => scanDot (rd 0 e i, false) ((jrow m s i).zip z)
  (ys.map (·.1), ys.any (·.2))
/-- Mul(M, X), and the mark. -/
def mulMat (s : Nat) (m x : List Word) : List Word × Bool :=
  let ys := (List.range s).flatMap fun i => (List.range s).map fun j =>
    scanDot (0, false) ((jrow m s i).zip (jcol x s j))
  (ys.map (·.1), ys.any (·.2))
/-- A componentwise operation, and the mark. -/
def scanMap (s : Nat) (f : Word → Word → Marked) (a b : List Word) : List Word × Bool :=
  let ys := (List.range s).map fun i => f (rd 0 a i) (rd 0 b i)
  (ys.map (·.1), ys.any (·.2))

/-- Apply(t, x) (R322). -/
def scanApply (s : Nat) (st : Step) (x : List Word) : List Word × Bool :=
  let u := scanMap s scanSub x st.g
  let y := mulAdd s st.j u.1 st.f
  (y.1, u.2 || y.2)

/-- Within a block: the guesses that follow xn(p), n of them, and the mark. -/
def withinBlock (s : Nat) (steps : List Step) : Nat → Nat → List Word → List (List Word) × Bool
  | 0, _, _ => ([], false)
  | n + 1, t, x =>
    let y := scanApply s (rd {} steps t) x
    let r := withinBlock s steps n (t + 1) y.1
    (y.1 :: r.1, y.2 || r.2)

/-- Across a block: A, c and the mark after the steps from t on. -/
def acrossBlock (s : Nat) (steps : List Step) : Nat → Nat → List Word → List Word → List Word × List Word × Bool
  | 0, _, a, c => (a, c, false)
  | n + 1, t, a, c =>
    let st := rd {} steps t
    let e := scanMap s scanSub st.f (rd {} steps (t + 1)).g
    let a' := mulMat s st.j a
    let c' := mulAdd s st.j c e.1
    let r := acrossBlock s steps n (t + 1) a'.1 c'.1
    (r.1, r.2.1, e.2 || a'.2 || c'.2 || r.2.2)

/-- The identity matrix. -/
def scanId (s : Nat) : List Word :=
  (List.range (s * s)).map fun i => if i / s = i % s then 0x3F800000 else 0

/-- The guesses from step p on, where x is xn(p), and the mark; one block at a time. -/
def scanFrom (s n : Nat) (steps : List Step) : Nat → Nat → List Word → List (List Word) × Bool
  | 0, _, _ => ([], false)
  | fuel + 1, p, x =>
    if p ≥ n then ([], false) else
    let q := min (p / 32 * 32 + 31) (n - 1)
    let inner := withinBlock s steps (q - p) p x
    let next := q + 1
    if next ≥ n then (x :: inner.1, inner.2)
    else
      let d := scanMap s scanSub x (rd {} steps p).g
      let (a, c, m) := acrossBlock s steps (q + 1 - p) p (scanId s) (List.replicate s 0)
      let v := mulAdd s a d.1 c
      let xs := scanMap s scanAdd (rd {} steps next).g v.1
      let rest := scanFrom s n steps fuel next xs.1
      ((x :: inner.1) ++ rest.1, inner.2 || d.2 || m || v.2 || xs.2 || rest.2)

/-- The scan of R322: xn(k) to xn(N − 1), and the non-finite mark. -/
def relaxScan (d : List Dword) (x0 : List Word) (steps : List Step) (bad : Nat → Bool) (k : Nat) :
    List (List Word) × Bool :=
  let s := descS d
  let n := descN d
  let steps := (List.range n).map fun t =>
    let x := rd {} steps t
    if bad t || !x.out then { x with f := (rd {} steps (t + 1)).g, j := [] } else x
  scanFrom s n steps (n + 1) k (if k = 0 then x0 else (rd {} steps (k - 1)).f)

/-! ### RELAX_VERIFY (R319 to R324) -/

/-- Whether every step lane at or above SC is held or parked, no region wave is in a run, every load of the body
has come back, and every spill of a call has its page (R319, R222, R326). -/
def State.passOver (s : State) (r : Region) : Bool :=
  !(s.reqs.any fun q => r.waves.contains q.tid && q.st ≠ .done && q.parts.any fun p => p.body.isSome) &&
  !(s.stores.any fun x => x.live && x.st = .walk && x.tids.any r.waves.contains && x.late.body ≠ 0) &&
  ((r.waves.zip (List.range r.waves.length)).all fun (i, k) =>
    let t := s.thread i
    (match t.run with | some q => !q.started | none => true) &&
    (List.range 32).all fun l =>
      let step := 32 * k + l
      step < r.sc || step ≥ r.steps.length || (t.lane l).st ≠ .live || (t.lane l).hold = .region)

/-- The thread and lane of a step. -/
def Region.owner (r : Region) (t : Nat) : Nat × Nat := (rd 0 r.waves (t / 32), t % 32)

/-- The state write of step t (R314): each component as a store, or the trap of one that cannot be
written. -/
def State.stateWrites (s : State) (r : Region) (t : Nat) : List (Nat × Except (TrapCode × Nat) StepMem) :=
  let z := rd 0 r.waves 0
  (List.range (descS r.desc)).filterMap fun i =>
    let at_ := descSidx r.desc + descS r.desc * (t + 1) + i
    let bs := bytesOf 4 (rd 0 (rd {} r.steps t).f i).toNat
    match s.checkAccess (s.thread z) r.record at_ 4 .store r.record.stash with
    | .trap c a => some (t, .error (c, a))
    | .none => none
    | p =>
      let (sp, ar, dom, addr) := p.key z
      some (t, .ok ⟨sp, ar, dom, addr, bs⟩)

/-- Commits steps 0 to F − 1: flags and counts now, stores to be sent in order (R106, R324). -/
def State.commitSteps (s : State) (asid core : Nat) (r : Region) (f : Nat) : State :=
  (List.range f).foldl (fun s t =>
    let (tid, l) := r.owner t
    let st := rd {} r.steps t
    let s := s.mapThread tid fun x => { x with fflags := x.fflags ||| st.flags }
    let s := s.addMxs r.lc st.mx
    let body := st.stores.map fun e => (t, e)
    let (s, writes) := (s.stateWrites r t).foldl (fun (s, ws) (w : Nat × Except (TrapCode × Nat) StepMem) =>
      match w.2 with
      | .ok e => (s, ws ++ [(t, e)])
      | .error (code, addr) =>
        (s.post tid { code := code, addr := addr, mask := laneBit l }, ws)) (s, ([] : List (Nat × StepMem)))
    s.mapRegion asid core fun r => { r with toSend := r.toSend ++ body ++ writes }) s

/-- The code of the first end test that holds (R321). -/
def endCode (r : Region) (k : Nat) (conf : Nat → Bool) (mark : Bool) (res : Word) : Option Nat :=
  let d := r.desc
  let adv := k - r.sc
  if r.trap || r.abort then some 5
  else if k = descN d then some 0
  else if k = r.sc && (rd {} r.steps r.sc).faulted then some 4
  else if k = r.sc && conf r.sc then some 3
  else if mark then some 6
  else if r.pc = descLimit d then some 1
  else if (rd 0 d 0).getLsbD 29 && r.pc ≥ 3 && adv = 1 && r.adv = 1 && r.stalled && notFallen res r.resid then some 2
  else none

/-- RELAX_VERIFY: the pass is verified; it ends the region or the next pass begins. -/
def execRelaxVerify (core : Nat) (s : State) : Host.Outcome State Fault Refusal :=
  .next (
    match s.regionGoes core with
    | none => s
    | some asid =>
      match (s.unit asid core).region with
      | none => s
      | some r =>
        if r.st ≠ .pass || !s.passOver r then s else
        let d := r.desc
        let n := descN d
        let confl := (List.range n).map fun t => t ≥ r.sc && s.conflicts r.steps t
        let conf (t : Nat) : Bool := rd false confl t
        let bad (t : Nat) : Bool := (rd {} r.steps t).faulted || conf t
        let k := settledFrom d r.steps bad r.sc (n - r.sc) r.sc
        let res := largestResid d r.steps bad r.sc
        let scan := if r.trap then ([], false) else relaxScan d r.x0 r.steps bad k
        let code := endCode r k conf scan.2 res
        let guesses := (List.range n).map fun t =>
          if r.trap || t < k then (rd {} r.steps t).g else rd [] scan.1 (t - k)
        let s := s.mapRegion asid core fun r =>
          { r with resid := res, stalled := r.pc ≥ 2 && notFallen res r.resid, adv := k - r.sc
                   steps := (List.range n).map fun t => { rd {} r.steps t with g := rd [] guesses t } }
        match code with
        | none => (s.mapRegion asid core fun r => { r with sc := k }).startPass asid core
        | some c =>
          let f := if c = 0 then n else if (rd 0 d 0).getLsbD 28 || r.trap then 0 else k
          let s := s.mapUnit asid core fun u =>
            { u with gs := { u.gs with e := guesses ++ u.gs.e.drop n, ws := descS d, ns := n } }
          let s := s.mapRegion asid core fun r =>
            { r with st := .commit, code := c, first := f, k := if r.trap then r.sc else k }
          s.commitSteps asid core r f)

/-! ### Commit and close (R106, R324, R327) -/

/-- The home of a place: a die's L2, or the hub for system memory (R88). -/
def homeOf (p : Nat) : Nat := if isDevice p then dieOf p else Config.dies

/-- The stores of the commit sent so far that are on their way. -/
def State.commitOut (s : State) (r : Region) : List Store :=
  (r.sent.filterMap fun n => s.stores[n]?).filter fun x => !x.wctBack

/-- Sends the next store of a commit: nothing while it waits for the WCT of an earlier store to another line, so that
performance times never decrease in step order, or for its page (R106, R220, R324, R375). A window that holds its line
gives the line up first, so that the store has a performance time and a WCT (R103, R106; DEDUCED,
notes/assumptions/70). -/
def State.sendCommit (s : State) (asid core : Nat) (r : Region) : Option State :=
  match r.toSend with
  | [] => none
  | (t, e) :: rest =>
    let (tid, l) := r.owner t
    let drop (s : State) : State := s.mapRegion asid core fun r => { r with toSend := rest }
    if e.space = 1 then some (drop (s.writeStash tid (.lstash e.addr) e.bytes))
    else if e.space = 2 then some (drop (s.writeStash e.area (.own e.addr) e.bytes))
    else
      match s.awaitPage r.lc e.dom core e.addr .store with
      | (s, true) => some s
      | (s, false) =>
        match s.translate r.lc e.dom e.addr .store with
        | .trap c => some (drop (s.post tid { code := c, addr := e.addr, mask := laneBit l, dom := some e.dom }))
        | .walk => some s
        | .ok p =>
          if (s.commitOut r).any fun x => x.line ≠ lineOf p then none else
          let back := (r.sent.filterMap fun n => s.stores[n]?).filter (·.wctBack)
          let top := (back.map (·.perf)).foldl max 0
          let s := match s.windowAt r.lc e.dom (lineOf e.addr) with
            | some (k, n) =>
              let off := s.windowOff k n e.dom (lineOf e.addr)
              s.writeBack k n (fun x => x.off = off) false []
            | none => s
          let id := s.stores.length
          let cells := (List.range e.bytes.length).map fun i => (e.addr % 128 + i, rd 0 e.bytes i)
          let s := s.accept { core := core, tids := [tid], lanes := laneBit l, dom := e.dom, va := lineOf e.addr,
                              line := lineOf p, bytes := cells, notBefore := top,
                              after := s.loadsBefore tid (laneBit l) e.dom (lineOf e.addr) }
          some (s.mapRegion asid core fun r => { r with toSend := rest, sent := r.sent ++ [id] })

/-- Ends the wait of a commit for a page that the host has unmapped: the store is dropped with XLATE (R324, R380). -/
def State.denyCommit (s : State) (asid core dom va : Nat) : State :=
  match (s.unit asid core).region with
  | some r =>
    match r.st, r.toSend with
    | .commit, (t, e) :: rest =>
      if e.space = 0 && e.dom = dom && e.addr / 2 ^ 16 = va / 2 ^ 16 && s.translate r.lc e.dom e.addr .store = .walk then
        (s.post (r.owner t).1 { code := .xlate, addr := e.addr, mask := laneBit (r.owner t).2, dom := some e.dom }).mapRegion
          asid core fun r => { r with toSend := rest }
      else s
    | _, _ => s
  | none => s

/-- The status word of a region (R327). -/
def Region.status (r : Region) : Dword :=
  BitVec.ofNat 64 (r.resid.toNat * 2 ^ 32 + r.first % 4096 * 2 ^ 20 + min r.pc 15 * 2 ^ 16 + r.k % 4096 * 2 ^ 4 + r.code)

/-- The record of a lane that parks with RLXBAD at the first word of a body that has no RLXEND. -/
def State.parkClosed (s : State) (tid start : Nat) : State :=
  let t := s.thread tid
  let m := t.lanesWith fun L => L.hold = .region && L.st = .live
  let s := { s with cur := issueOf tid t 0 start }
  let s := (lanesOf m).foldl (fun s l =>
    (s.countBy tid 14 1).charge t.dom (s.trapRecord { lane := l, code := .rlxbad } 0)) s
  { (s.mapThread tid fun t => t.mapLanes fun l L =>
      if m.getLsbD l then
        { L with st := .parked, hold := .no, pc := BitVec.ofNat 32 start, kept := none, latch := [] }
      else if L.hold = .region then { L with hold := .no } else L) with cur := {} }

/-- Closes a region: held lanes enter at the word after its RLXEND, and the status is recorded. -/
def State.closeRegion (s : State) (asid core : Nat) (r : Region) : State :=
  let s := (r.waves.zip r.starts).foldl (fun s (tid, start) =>
    match r.rlxend with
    | some pc => s.mapThread tid fun t => t.mapLanes fun _ L =>
        if L.hold = .region then { L with hold := .no, pc := BitVec.ofNat 32 (nextPacket pc),
                                          npc := BitVec.ofNat 32 (nextPacket pc), kept := none } else L
    | none => s.parkClosed tid start) s
  (s.mapLC r.lc fun x => { x with rlxst := r.status }).mapUnit asid core fun u => { u with region := none }

/-- REGION_CLOSE: the commit sends its next store; when every store's WCT has returned the region
closes. -/
def execRegionClose (core : Nat) (s : State) : Host.Outcome State Fault Refusal :=
  .next (
    match s.regionGoes core with
    | none => s
    | some asid =>
      match (s.unit asid core).region with
      | none => s
      | some r =>
        if r.st ≠ .commit then s
        else if !r.toSend.isEmpty then (s.sendCommit asid core r).getD s
        else if !(s.commitOut r).isEmpty then s
        else s.closeRegion asid core r)

end Sys2Proof.Machine
end

