-- ==== Sys2Proof/Machine/Queue.lean ====
section
/-! DEFINITION. Queue words: major 0x2C (R243 to R248, R48, R49). -/

namespace Sys2Proof.Machine

/-- A push or pop of n entries: its traps fall on the wave, it waits for its turn and for room or
entries, and it counts as one access (R245, R247). Where other words of the group have trapped every lane, it moves no
entry, but it waits for its turn and counts all the same (DESIGN CHOICE, notes/assumptions/23). -/
def State.queueAccess (s : State) (q n : Nat) (isPush lanes : Bool) (eff : State → State) : State :=
  s.withBlock q fun s =>
  match s.queueTrap s.cur.tid q n isPush with
  | some c => if lanes then s.trapRun c else s.trapWave c
  | none =>
    s.await (if isPush then .push q n else .pop q n) fun s =>
    s.withSlots q n isPush fun s =>
      let s := if s.cur.old.isLead then s
        else s.mapFifo s.cur.old.lc q fun f =>
          if isPush then { f with pushes := f.pushes + 1 } else { f with pops := f.pops + 1 }
      eff s

/-- Gives entries to the lanes of Active() in ascending order: each lane's value. -/
def dealt (lanes : List Nat) (xs : List Dword) (l : Nat) : Word :=
  (((lanes.zip xs).find? fun p => p.1 = l).map fun p => p.2.extractLsb' 0 32).getD 0

/-- QPUSH (R247). -/
def execQpush (d : QReg) (a : Src) (s : State) : Host.Outcome State Fault Refusal :=
  .next (s.laneWise (some 2) false fun s =>
    let lanes := lanesOf s.cur.mask
    s.queueAccess d.toNat lanes.length true true fun s =>
      lanes.foldl (fun s l => s.pushEntry s.cur.old.lc d.toNat ((s.src l a).setWidth 64)) s)

/-- QPUSHW (R247). -/
def execQpushw (d : QReg) (a : UReg) (s : State) : Host.Outcome State Fault Refusal :=
  .next (s.uniform (some 2) false fun s =>
    s.queueAccess d.toNat 1 true false fun s => s.pushEntry s.cur.old.lc d.toNat (s.ureg a))

/-- QPOP (R247). -/
def execQpop (d : Dst) (q : QReg) (s : State) : Host.Outcome State Fault Refusal :=
  .next (s.laneWise (some 2) false fun s =>
    let lanes := lanesOf s.cur.mask
    s.queueAccess q.toNat lanes.length false true fun s =>
      let (s, xs) := s.popEntries s.cur.old.lc q.toNat lanes.length
      s.setLane .m d (dealt lanes xs))

/-- QPOPW (R247). -/
def execQpopw (d : UReg) (q : QReg) (s : State) : Host.Outcome State Fault Refusal :=
  .next (s.uniform (some 2) false fun s =>
    s.queueAccess q.toNat 1 false false fun s =>
      let (s, x) := s.popEntry s.cur.old.lc q.toNat
      s.setU d x)

/-- QTRY: takes what the queue holds, up to the lanes of Active() (R247, R49). -/
def execQtry (d : LReg) (q : QReg) (b : PReg) (s : State) : Host.Outcome State Fault Refusal :=
  .next (s.laneWise (some 2) false fun s =>
    if s.det s.cur.tid then s.trapLanes s.cur.mask .atomdet id else
    if s.cur.mask = 0 then s else
    s.withBlock q.toNat fun s =>
    match s.queueTrap s.cur.tid q.toNat 0 false with
    | some c => s.trapRun c
    | none =>
      let lc := s.cur.old.lc
      let lanes := (lanesOf s.cur.mask).take (s.queueHeld lc q.toNat)
      s.withSlots q.toNat lanes.length false fun s =>
      let (s, xs) := s.popEntries lc q.toNat lanes.length
      let s := s.mapActive fun l L => if lanes.contains l then L.setV d.toNat (dealt lanes xs l) else L
      s.setPred b fun l => lanes.contains l)

/-- QTRYW (R247, R49). -/
def execQtryw (d : UReg) (q : QReg) (b : PReg) (s : State) : Host.Outcome State Fault Refusal :=
  .next (s.uniform (some 2) false fun s =>
    if s.det s.cur.tid then s.trapWave .atomdet else
    s.withBlock q.toNat fun s =>
    match s.queueTrap s.cur.tid q.toNat 0 false with
    | some c => s.trapWave c
    | none =>
      if s.queueHeld s.cur.old.lc q.toNat = 0 then s.setPred b fun _ => false
      else
        s.withSlots q.toNat 1 false fun s =>
        let (s, x) := s.popEntry s.cur.old.lc q.toNat
        (s.setU d x).setPred b fun _ => true)

/-- QLEN (R247). -/
def execQlen (d : UReg) (q : QReg) (s : State) : Host.Outcome State Fault Refusal :=
  .next (s.uniform (some 2) false fun s =>
    let lc := s.cur.old.lc
    let f := (s.lc lc).fifo q.toNat
    if s.det s.cur.tid then s.trapWave .atomdet
    else if q.toNat < 3 then s.setU d (BitVec.ofNat 64 ((s.unitOf s.cur.tid).waiting q.toNat))
    else if f.frozen then s.trapWave .lostpermit
    else if f.kind = 0 || (f.kind = 2 && (s.boundQ lc q.toNat).isNone) then s.trapWave .qmis
    else s.withBlock q.toNat fun s => s.setU d (BitVec.ofNat 64 (s.queueHeld lc q.toNat)))

/-! ### QBIND (R248, R58) -/

/-- Whether a QBIND entry has an invalid KIND or a nonzero reserved bit (R58). -/
def bindReserved (x : Word) : Bool :=
  fld x 29 28 ≠ 0 ||
  match fld x 31 30 with
  | 0 => fld x 27 0 ≠ 0
  | 1 => fld x 15 8 ≠ 0
  | 2 => fld x 27 17 ≠ 0
  | _ => true

/-- Whether a queue may be bound as KIND 2 by a context (R59, R248, R381). -/
def State.bindable (s : State) (asid n : Nat) : Bool :=
  match (s.domain asid).workq n with
  | some w => s.blockField asid w.block 0x0C 2 = asid && [1, 2].contains (s.workType asid w)
  | none => false

/-- A queue register as a binding leaves it: empty, with all its permits. -/
def bindFifo (f : Fifo) (x : Word) : Fifo :=
  let kind := fld x 31 30
  let depth := if kind = 1 then fld x 7 0 + 1 else 0
  { f with kind := kind, spec := x.extractLsb' 0 28, entries := [], depth := depth, permits := depth, head := 0 }

/-- Whether a thread waits on a queue register. -/
def Thread.waitsOn (t : Thread) (q : Nat) : Bool :=
  match t.wait with
  | some (.push k _) | some (.pop k _) | some (.turn k _) => k = q
  | _ => false

/-- The placement rule of a stash FIFO (R58, R248). -/
def State.fifoPlaceBad (s : State) (lc q : Nat) (x : Word) : Bool :=
  let off := fld x 27 16 * 256
  let len := (fld x 7 0 + 1) * 8
  let l := s.lc lc
  let others := (List.range 11).filterMap fun k =>
    let f := l.fifo (k + 5)
    if k + 5 ≠ q && f.kind = 1 then some (fld f.spec 27 16 * 256, (fld f.spec 7 0 + 1) * 8) else none
  off + len > s.lstashSize lc
  || (l.mapped.any fun w => overlaps off len w.backing w.span)
  || (others.any fun o => overlaps off len o.1 o.2)

/-- Binds a queue register of a launch-on-core. -/
def State.bind (s : State) (lc q : Nat) (x : Word) : State :=
  let s := s.mapFifo lc q fun f => bindFifo f x
  match s.boundQ lc q with
  | some w => s.readTail (s.lc lc).asid w.queue
  | none => s

/-- Waits until the block of the host work queue that a binding names can be read (R90, R105, R220, R380). -/
def State.withNewBlock (s : State) (x : Word) (eff : State → State) : State :=
  let asid := (s.lc s.cur.old.lc).asid
  match if fld x 31 30 = 2 then (s.domain asid).workq (fld x 16 0) else none with
  | some w => s.awaitPages asid .load (fun s => s.await (.lines [(asid, lineOf w.block)]) eff) [w.block]
  | none => eff s

/-- QBIND (R248). -/
def execQbind (d : QReg) (a : UReg) (s : State) : Host.Outcome State Fault Refusal :=
  .next (s.uniform (some 2) false fun s =>
    let lc := s.cur.old.lc
    let q := d.toNat
    let x : Word := (s.ureg a).extractLsb' 0 32
    if fld (s.ureg a) 63 32 ≠ 0 || bindReserved x then s.trapWave .ill
    else if q < 5 then s.trapWave .qmis
    else if ((s.lc lc).fifo q).frozen then s.trapWave .lostpermit
    else s.withBlock q fun s => s.withNewBlock x fun s =>
    if s.queueHeld lc q > 0 || (s.threads.any fun t => t.alive && t.lc = lc && t.waitsOn q) then
      s.trapWave .qmis
    else if fld x 31 30 = 2 && !s.bindable (s.lc lc).asid (fld x 16 0) then s.trapWave .qmis
    else if fld x 31 30 = 1 && s.fifoPlaceBad lc q x then s.trapWave .stashmap
    else s.bind lc q x)

end Sys2Proof.Machine
end

