-- ==== Sys2Proof/Machine/Uniform.lean ====
section
/-! DEFINITION. Uniform words: majors 0x12 to 0x16 (R182, R183), and the random state: major 0x17
(R184 to R186). -/

namespace Sys2Proof.Machine

/-! ### Uniform words -/

/-- WADD: sum modulo 2^64 (R182). -/
def execWadd (d a b : UReg) (s : State) : Host.Outcome State Fault Refusal :=
  .next (s.uniform none true fun s => s.setU d ((s.ureg a) + (s.ureg b)))
/-- WSUB: difference modulo 2^64 (R182). -/
def execWsub (d a b : UReg) (s : State) : Host.Outcome State Fault Refusal :=
  .next (s.uniform none true fun s => s.setU d ((s.ureg a) - (s.ureg b)))
/-- WAND: bitwise (R182). -/
def execWand (d a b : UReg) (s : State) : Host.Outcome State Fault Refusal :=
  .next (s.uniform none true fun s => s.setU d ((s.ureg a) &&& (s.ureg b)))
/-- WOR: bitwise (R182). -/
def execWor (d a b : UReg) (s : State) : Host.Outcome State Fault Refusal :=
  .next (s.uniform none true fun s => s.setU d ((s.ureg a) ||| (s.ureg b)))
/-- WXOR: bitwise (R182). -/
def execWxor (d a b : UReg) (s : State) : Host.Outcome State Fault Refusal :=
  .next (s.uniform none true fun s => s.setU d ((s.ureg a) ^^^ (s.ureg b)))
/-- WSHL: shift left (R182). -/
def execWshl (d a b : UReg) (s : State) : Host.Outcome State Fault Refusal :=
  .next (s.uniform none true fun s => s.setU d (if (s.ureg b).toNat ≥ 64 then 0 else (s.ureg a) <<< (s.ureg b).toNat))
/-- WSHR: logical shift right (R182). -/
def execWshr (d a b : UReg) (s : State) : Host.Outcome State Fault Refusal :=
  .next (s.uniform none true fun s => s.setU d (if (s.ureg b).toNat ≥ 64 then 0 else (s.ureg a) >>> (s.ureg b).toNat))
/-- WMUL: the low 64 bits of the product (R182). -/
def execWmul (d a b : UReg) (s : State) : Host.Outcome State Fault Refusal :=
  .next (s.uniform none true fun s => s.setU d ((s.ureg a) * (s.ureg b)))
/-- WMIN: the smaller signed value (R182). -/
def execWmin (d a b : UReg) (s : State) : Host.Outcome State Fault Refusal :=
  .next (s.uniform none true fun s => s.setU d (if (s.ureg a).toInt ≤ (s.ureg b).toInt then (s.ureg a) else (s.ureg b)))
/-- WMAX: the larger signed value (R182). -/
def execWmax (d a b : UReg) (s : State) : Host.Outcome State Fault Refusal :=
  .next (s.uniform none true fun s => s.setU d (if (s.ureg a).toInt ≤ (s.ureg b).toInt then (s.ureg b) else (s.ureg a)))
/-- WSAR: arithmetic shift right (R182). -/
def execWsar (d a b : UReg) (s : State) : Host.Outcome State Fault Refusal :=
  .next (s.uniform none true fun s => s.setU d ((s.ureg a).sshiftRight (min (s.ureg b).toNat 63)))
/-- VTOW: the value of the lowest lane of Active() (R182). Where a GUARD leaves no lane, w[d] stays as it was (DESIGN CHOICE,
notes/assumptions/76). -/
def execVtow (d : UReg) (a : Src) (s : State) : Host.Outcome State Fault Refusal :=
  .next (s.uniform none true fun s =>
    match lanesOf s.cur.mask with
    | l :: _ => s.setU d ((s.src l a).setWidth 64)
    | [] => s)
/-- WTOV: the low word of a uniform register in each lane of Active() (R182). -/
def execWtov (d : Dst) (a : UReg) (s : State) : Host.Outcome State Fault Refusal :=
  .next (s.laneWise none true fun s => s.setLane .i d fun _ => (s.ureg a).setWidth 32)
/-- WSEL: a where the destination is not 0, else b (R182). -/
def execWsel (d a b : UReg) (s : State) : Host.Outcome State Fault Refusal :=
  .next (s.uniform none true fun s => s.setU d (if (s.ureg d) ≠ 0 then (s.ureg a) else (s.ureg b)))
/-- WCLZ: leading zero bits (R182). -/
def execWclz (d a : UReg) (s : State) : Host.Outcome State Fault Refusal :=
  .next (s.uniform none true fun s => s.setU d (BitVec.ofNat 64 (clzN 64 (s.ureg a).toNat)))
/-- WPOPC: one bits (R182). -/
def execWpopc (d a : UReg) (s : State) : Host.Outcome State Fault Refusal :=
  .next (s.uniform none true fun s => s.setU d (BitVec.ofNat 64 (popN 64 (s.ureg a).toNat)))
/-- WADDI (R183). -/
def execWaddi (d a : UReg) (imm : BitVec 10) (s : State) : Host.Outcome State Fault Refusal :=
  .next (s.uniform none true fun s => s.setU d ((s.ureg a) + imm.signExtend 64))
/-- WMOVI (R183). -/
def execWmovi (d : UReg) (imm : BitVec 17) (s : State) : Host.Outcome State Fault Refusal :=
  .next (s.uniform none true fun s => s.setU d (imm.signExtend 64))
/-- Replaces the 16 bits of a value at a position (R125, R183). -/
def wmovk (x : Dword) (pos : Nat) (imm : BitVec 16) : Dword :=
  (x &&& ~~~ (0xFFFF#64 <<< (16 * pos))) ||| (imm.setWidth 64 <<< (16 * pos))
/-- WMOVK (R183). -/
def execWmovk (d : UReg) (pos : BitVec 2) (imm : BitVec 16) (s : State) : Host.Outcome State Fault Refusal :=
  .next (s.uniform none true fun s => s.setU d (wmovk (s.ureg d) pos.toNat imm))

/-! ### Random numbers (R184 to R186) -/

/-- A draw (R184). -/
def randDraw (seed : Dword) (key ctr : Nat) : Word :=
  let mix (x : Nat) : Nat := (x ^^^ (x / 2 ^ 32)) * 0xD6E8FEB86659FD93 % 2 ^ 64
  let x := (seed.toNat + key * 0x9E3779B97F4A7C15 + ctr * 0xD1B54A32D192ED03) % 2 ^ 64
  let x := mix (mix x)
  BitVec.ofNat 32 (x ^^^ (x / 2 ^ 32))

/-- LOGCORE (R57): the logical core, or the core in normal mode. -/
def State.logcore (s : State) (tid : Nat) : Nat :=
  if s.det tid then (s.lcOf tid).logcore else (s.thread tid).core

/-- The key of a lane (R184). -/
def State.randKey (s : State) (l : Nat) : Nat :=
  s.logcore s.cur.tid * 2 ^ 37 + s.cur.old.waveid.toNat * 2 ^ 5 + l

/-- The draw of a lane. -/
def State.drawOf (s : State) (l : Nat) : Word :=
  randDraw s.cur.old.seed (s.randKey l) (s.cur.old.lane l).ctr.toNat

/-- UInt(x[31:8]) × 2^−24 as FP32, exact (R185). -/
def randFloat (x : Word) : Word := (fp32.arith .rne false (fld x 31 8) (-24)).1 |> w32

/-- RAND32 (R185). -/
def execRand32 (d : Dst) (s : State) : Host.Outcome State Fault Refusal :=
  .next (s.laneWise none false fun s =>
    (s.setLane .i d s.drawOf).mapActive fun _ L => { L with ctr := L.ctr + 1 })
/-- RANDF (R185). -/
def execRandf (d : Dst) (s : State) : Host.Outcome State Fault Refusal :=
  .next (s.laneWise none false fun s =>
    (s.setLane .i d fun l => randFloat (s.drawOf l)).mapActive fun _ L => { L with ctr := L.ctr + 1 })
/-- RSEED: the seed, and every lane's counter 0, whatever its state (R185). -/
def execRseed (a : UReg) (s : State) : Host.Outcome State Fault Refusal :=
  .next (s.uniform none false fun s =>
    s.zeroCtr.mapMe fun t => { t with seed := s.ureg a })
/-- RCTR: reads the counter and moves it (R185). -/
def execRctr (d : Dst) (a : Src) (s : State) : Host.Outcome State Fault Refusal :=
  .next (s.laneWise none false fun s =>
    (s.setLane .i d fun l => (s.cur.old.lane l).ctr).mapActive fun l L => { L with ctr := s.src l a })

end Sys2Proof.Machine
end

