-- ==== Sys2Proof/Machine/System.lean ====
section
/-! DEFINITION. System words and steps: special registers, major 0x39 (R355, R356); SLEEP and SIGNAL,
major 0x3B (R357); the host's writes to RESUME and KILL (R351); the trap of a word that is no
instruction (R127); and the writing of fault records (R348). -/

namespace Sys2Proof.Machine

/-! ### The special registers (R355, R356) -/

/-- Whether a special register's number may be read or written (R356). -/
def sregOk (n : Nat) (write : Bool) : Bool :=
  if write then n = 0x00C || n = 0x00D || n = 0x010 || n = 0x011 || (0x040 ≤ n && n ≤ 0x045)
  else n ≤ 0x00E || n = 0x010 || n = 0x011 || n = 0x020 || n = 0x030 || (0x040 ≤ n && n ≤ 0x045)

/-- The special register of an SRD or SWR, and whether it writes. -/
def Instr.sreg : Instr → Option (Nat × Bool)
  | .srd _ n => some (n.toNat, false)
  | .swr _ n => some (n.toNat, true)
  | _ => none

/-- The trap of a special register's number: PRIV from 0x800 on, ILL where it is unassigned or does not
allow the access (R355). -/
def sregTrap (n : Nat) (write : Bool) : Option TrapCode :=
  if n ≥ 0x800 then some .priv else if sregOk n write then none else some .ill

/-- The value that SRD reads (R356), as it stood at the start of the group's cycle (R114); a write-only
register reads as zero (R5). -/
def State.sregValue (s : State) (n : Nat) : Dword :=
  let t := s.cur.old
  let num (x : Nat) : Dword := BitVec.ofNat 64 x
  match n with
  | 0x000 => num (if t.isLead then 0 else (lanesOf s.cur.mask).headD 0)
  | 0x001 => if t.isLead then 0xFFFFFFFF else t.waveid.setWidth 64
  | 0x002 => num (if t.isLead then 64 else t.slot)
  | 0x003 => num t.core
  | 0x004 => num (s.logcore s.cur.tid)
  | 0x005 => num (t.core / Config.coresPerDie)
  | 0x006 => ((s.launchOf s.cur.tid).map launchReg).getD 0
  | 0x007 => num t.depth
  | 0x008 => t.arg0
  | 0x009 => t.arg1
  | 0x00A => t.curtag.setWidth 64
  | 0x00B => num t.gdepth
  | 0x00E => t.evp.setWidth 64
  | 0x010 => t.fflags.setWidth 64
  | 0x011 => t.rm.setWidth 64
  | 0x020 => num t.dom
  | 0x030 => if s.det s.cur.tid then 1 else 0
  | _ => if 0x040 ≤ n ∧ n ≤ 0x045 then (rd 0 s.cur.mx (n - 0x040)).setWidth 64 else 0

/-- SRD (R355). -/
def execSrd (d : UReg) (reg : BitVec 12) (s : State) : Host.Outcome State Fault Refusal :=
  .next (s.uniform none true fun s =>
    match sregTrap reg.toNat false with
    | some c => s.trapWave c
    | none => s.setU d (s.sregValue reg.toNat))

/-- The effect of SWR on a register that may be written (R351, R355, R356). -/
def State.writeSreg (s : State) (n : Nat) (x : Dword) : State :=
  match n with
  | 0x00C | 0x00D =>
    if fld x 31 9 ≠ 0 || x.getLsbD 6 || (n = 0x00D && x.getLsbD 8) then s.trapWave .ill
    else s.fenceThen .core fun s => s.laneOp s.cur.old.lc x (n = 0x00D)
  | 0x010 => if fld x 63 6 ≠ 0 then s.trapWave .ill
    else s.mapMe fun t => { t with fflags := x.extractLsb' 0 6 }
  | 0x011 => if fld x 63 2 ≠ 0 then s.trapWave .ill
    else s.mapMe fun t => { t with rm := x.extractLsb' 0 2 }
  | _ => if fld x 63 32 ≠ 0 then s.trapWave .ill
    else s.mapLC s.cur.old.lc fun y => { y with mx := wr 0 y.mx (n - 0x040) (x.extractLsb' 0 32) }

/-- SWR (R355). -/
def execSwr (d : UReg) (reg : BitVec 12) (s : State) : Host.Outcome State Fault Refusal :=
  .next (s.uniform none false fun s =>
    match sregTrap reg.toNat true with
    | some c => s.trapWave c
    | none => s.writeSreg reg.toNat (s.ureg d))

/-! ### SLEEP and SIGNAL (R357) -/

/-- SLEEP: the wave is not ready until its WTIME has advanced by the operand. -/
def execSleep (a : UReg) (s : State) : Host.Outcome State Fault Refusal :=
  .next (s.uniform none false fun s =>
    match s.cur.old.wait with
    | some (.sleep n) => s.await (.sleep n) id
    | _ => if s.ureg a = 0 then s else s.block (.sleep (s.cur.old.wtime + (s.ureg a).toNat)))

/-- The thread that SIGNAL names: a wave of the launch on the core, or its lead thread (R357). -/
def State.signalTarget (s : State) (lc : Nat) (id : Nat) : Option Nat :=
  if id = 0xFFFFFFFF then (s.lc lc).lead.filter fun i => (s.thread i).alive
  else findIdx? (fun t => t.alive && t.lc = lc && !t.isLead && t.waveid.toNat = id) s.threads

/-- SIGNAL: posts events to its target, if it exists and has not retired. -/
def execSignal (a : UReg) (s : State) : Host.Outcome State Fault Refusal :=
  .next (s.uniform (some 2) false fun s =>
    let x := s.ureg a
    if fld x 63 48 ≠ 0 then s.trapWave .ill
    else match s.signalTarget s.cur.old.lc (fld x 47 16) with
      | some i => s.mapThread i fun t => t.postEvents (x.extractLsb' 0 16)
      | none => s)

/-! ### The host's writes to RESUME and KILL (R351) -/

/-- The launch-on-core of a launch that runs on a core. -/
def State.lcAt (s : State) (launch core : Nat) : Option Nat :=
  findIdx? (fun x => x.live && x.launch = launch && x.core = core) s.lcs

/-- A host's write of a value laid out as R351 has it; reserved bits leave it without effect. -/
def State.hostLaneOp (s : State) (launch core : Nat) (v : Dword) (kill : Bool) : State :=
  if fld v 31 9 ≠ 0 || v.getLsbD 6 || (kill && v.getLsbD 8) then s else
  match s.lcAt launch core with
  | some lc => s.laneOp lc v kill
  | none => s

/-- RESUME_WRITE. -/
def execResumeWrite (launch core : Nat) (value : Dword) (s : State) : Host.Outcome State Fault Refusal :=
  .next (s.hostLaneOp launch core value false)

/-- KILL_WRITE. -/
def execKillWrite (launch core : Nat) (value : Dword) (s : State) : Host.Outcome State Fault Refusal :=
  .next (s.hostLaneOp launch core value true)

/-! ### Traps of the issue checks (R127, R128) -/

/-- ILLEGAL_INSTRUCTION: the group traps for the wave with the code that checks 1 to 3 found. -/
def execIllegalInstruction (code : TrapCode) (s : State) : Host.Outcome State Fault Refusal :=
  .next (if s.cur.run = 0 then s else if s.cur.uniform then s.trapWave code else s.trapRun code)

/-! ### Fault records (R348, R349, R378) -/

/-- The number of a trap (R349). -/
def trapNumber : TrapCode → Nat
  | .ill => 0x01 | .latchv => 0x02 | .runlen => 0x03 | .swtrap => 0x04 | .bkpt => 0x05 | .timer => 0x06
  | .bounds => 0x10 | .xlate => 0x11 | .perm => 0x12 | .lockmiss => 0x13 | .align => 0x14
  | .atomdet => 0x15 | .stashmap => 0x16 | .cvtovf => 0x20 | .accovf => 0x21 | .nest => 0x30
  | .qmis => 0x31 | .lostpermit => 0x32 | .graph => 0x33 | .gate => 0x40 | .priv => 0x41
  | .eccue => 0x50 | .rlxbad => 0x60

/-- The 64 bytes of a fault record (R348). -/
def FaultRec.bytes (r : FaultRec) (seq : Nat) : List Byte :=
  bytesOf 8 r.hclk ++ bytesOf 1 (trapNumber r.code) ++ bytesOf 1 r.detail ++ bytesOf 1 r.kind ++ bytesOf 1 r.lane
  ++ bytesOf 2 r.domain ++ bytesOf 2 r.core ++ bytesOf 4 r.pc.toNat ++ bytesOf 4 r.word.toNat
  ++ bytesOf 4 r.waveid.toNat ++ bytesOf 1 r.slot ++ bytesOf 3 0 ++ bytesOf 8 r.addr ++ bytesOf 4 r.node
  ++ bytesOf 4 r.tag.toNat ++ bytesOf 8 r.launch.toNat ++ bytesOf 4 seq ++ bytesOf 4 0

/-- A HEAD or TAIL in a domain's control block, in system memory (R377). -/
def State.ctlField (s : State) (asid off n : Nat) : Nat :=
  ofBytes (s.readPlace (hostPlace ((s.domain asid).block + off)) n)
/-- Where a field of 8 bytes of a domain's control block lies. -/
def State.ctlPlace (s : State) (asid off : Nat) : Nat := hostPlace ((s.domain asid).block + off)
/-- Writes a field of a domain's control block at once. -/
def State.setCtl (s : State) (asid off x : Nat) : State := s.writePlace (s.ctlPlace asid off) (bytesOf 8 x)
/-- The device writes a field of a domain's control block through the hub (R88, R90). -/
def State.sendCtl (s : State) (asid off x : Nat) : State := s.sendOut (s.ctlPlace asid off) (bytesOf 8 x)

/-- The launch-on-core whose handler a record in a domain's queue goes to (R350, R384). -/
def State.handledBy (s : State) (asid : Nat) (r : FaultRec) : Option Nat :=
  r.lc.filter fun n => r.kind ≤ 2 && !(s.domain asid).ctxmode.getLsbD 4 &&
    (s.launch? (s.lc n).launch).any fun l => l.control.getLsbD 28

/-- FAULT_RECORD_WRITE: the oldest record of a domain enters its queue, unless the queue is full
(R348, R378), once the hub can perform the writes (R88, R90); it raises CAUSE bit 1 under TRAPH, and goes to the
launch's handler when there is one (R350, R384). -/
def execFaultRecordWrite (asid : Nat) (s : State) : Host.Outcome State Fault Refusal :=
  .next (
    let d := s.domain asid
    match d.records with
    | [] => s
    | r :: rest =>
      let seq := d.fqTail + 1
      let a := d.fqBase + 64 * (seq % d.fqDepth)
      if !d.alive || d.fqDepth ≤ d.fqTail - s.ctlField asid 0x38 8
          || !s.outClear [(hostPlace a, 64), (s.ctlPlace asid 0x30, 8)] then s else
      let s := s.writePlace (hostPlace a) (r.bytes seq)
      let s := s.mapDomain asid fun d => { d with records := rest, fqTail := seq }
      let s := s.setCtl asid 0x30 seq
      let s := if d.ctxmode.getLsbD 4 then s.raise d.fn 2 else s
      match s.handledBy asid r with
      | some n => s.mapLC n fun x => { x with toHandle := x.toHandle ++ [(a, seq)] }
      | none => s)

end Sys2Proof.Machine
end

