-- ==== Sys2Proof/Machine/Observe.lean ====
section
/-! DEFINITION. Observation: major 0x3A (R360 to R365), the writing of settle stamps (R362), and PC
samples (R366). -/

namespace Sys2Proof.Machine

/-! ### Clocks, the timer, energy and counters (R360, R361, R364, R365) -/

/-- HCLK: the core's house clock (R19, R360). -/
def execHclk (d : UReg) (s : State) : Host.Outcome State Fault Refusal :=
  .next (s.uniform none true fun s => s.setU d (BitVec.ofNat 64 (s.coreClock s.cur.old.core)))

/-- WTIME (R352). -/
def execWtime (d : UReg) (s : State) : Host.Outcome State Fault Refusal :=
  .next (s.uniform none true fun s => s.setU d (BitVec.ofNat 64 s.cur.old.wtime))

/-- TIMER sets or clears the deadline (R361). -/
def execTimer (a : UReg) (s : State) : Host.Outcome State Fault Refusal :=
  .next (s.uniform none false fun s =>
    let x := s.ureg a
    s.mapMe fun t =>
      { t with deadline := if x = 0 then none else some (t.wtime + x.toNat) })

/-- ENRD: the sum of the launch's class sums on the core (R364). -/
def execEnrd (d : UReg) (s : State) : Host.Outcome State Fault Refusal :=
  .next (s.uniform none true fun s =>
    s.setU d (BitVec.ofNat 64 ((List.range 8).map fun k => rd 0 (s.lcOf s.cur.tid).energy k).sum))

/-- PMRD: an event counter of the core (R365). -/
def execPmrd (d : UReg) (m : BitVec 2) (s : State) : Host.Outcome State Fault Refusal :=
  .next (s.uniform none true fun s =>
    s.setU d (BitVec.ofNat 64 (rd 0 (s.unitOf s.cur.tid).pm m.toNat)))

/-! ### Rings (R378) -/

/-- Writes a record into the trace ring or the sample ring of a domain, or drops and counts it: its
fields are at TRBASE or SMBASE of the control block (R377, R378). The writes go out through the hub (R88, R90). -/
def State.ringWrite (s : State) (asid : Nat) (trace : Bool) (bs : List Byte) : State :=
  let d := s.domain asid
  let depth := if trace then d.trDepth else d.smDepth
  let tail := if trace then d.trTail else d.smTail
  let base := if trace then d.trBase else d.smBase
  let off := if trace then 0x50 else 0x78
  if depth ≤ tail - s.ctlField asid (off + 8) 8 then
    let n := (if trace then d.trDrop else d.smDrop) + 1
    let s := s.mapDomain asid fun d => if trace then { d with trDrop := n } else { d with smDrop := n }
    (s.sendCtl asid (off + 16) n).raise d.fn 8
  else
    let seq := tail + 1
    let s := s.sendOut (hostPlace (base + bs.length * (seq % depth))) bs
    let s := s.mapDomain asid fun d => if trace then { d with trTail := seq } else { d with smTail := seq }
    s.sendCtl asid off seq

/-- SLOT as records give it (R348, R363, R366). -/
def Thread.slotByte (t : Thread) : Nat := if t.isLead then 64 else t.slot

/-- TMARK, which never waits: a trace record, where tracing is on and neither the context's nor the running domain's debug
is locked (R363, R389). -/
def execTmark (m : BitVec 7) (s : State) : Host.Outcome State Fault Refusal :=
  .next (s.uniform none false fun s =>
    let t := s.cur.old
    let asid := s.ctxOf s.cur.tid
    let d := s.domain asid
    if !d.tracing || !d.debug || !(s.domain t.dom).debug then s else
    s.ringWrite asid true
      (bytesOf 8 (s.coreClock t.core) ++ bytesOf 1 m.toNat ++ bytesOf 1 t.slotByte ++ bytesOf 2 t.core
        ++ bytesOf 4 t.waveid.toNat))

/-! ### Stamps (R362) -/

/-- The 32 bytes of a stamp record. -/
def stampBytes (clk kind tile core : Nat) (id : BitVec 16) (waveid curtag : Word) : List Byte :=
  bytesOf 8 clk ++ bytesOf 2 id.toNat ++ bytesOf 1 kind ++ bytesOf 1 tile ++ bytesOf 2 core ++ bytesOf 2 0
  ++ bytesOf 4 waveid.toNat ++ bytesOf 4 curtag.toNat ++ bytesOf 8 0

/-- Sends the add to NEXT of a stamp record, whose place it gives (R362, R97); a page that is missing is waited for
(R220, R375). A fault of the add's checks is posted to the wave (R77, R218). -/
def State.sendStamp (s : State) (lc tid clk kind tile : Nat) (id : BitVec 16) (curtag : Word) : State :=
  let x := s.lc lc
  let buf := ((s.launch? x.launch).map fun l => l.stampbuf).getD 0
  let (s, _) := s.awaitPage lc x.asid x.core buf .atomic
  let add : Store := { core := x.core, tids := [tid], dom := x.asid, va := buf, kind := .add (buf % 128) 1 }
  let sent (s : State) (add : Store) : State :=
    (s.accept add).mapLC lc fun x =>
      { x with adds := x.adds ++
          [{ add := s.stores.length, tid := tid, bytes := stampBytes clk kind tile x.core id (s.thread tid).waveid curtag }] }
  let fault (c : TrapCode) : State := s.post tid { code := c, addr := buf }
  if buf % 8 ≠ 0 then fault .align else
  match s.translate lc x.asid buf .atomic with
  | .trap c => fault c
  | .walk => sent s { add with st := .walk }
  | .ok p => if s.poisoned p then fault .eccue else sent s { add with line := lineOf p }

/-- Stores the record of a stamp whose add has found n, if n is below CAP, which the core reads once nothing stands before
the read (R90, R95, R105, R362). -/
def State.storeStamp (s : State) (lc : Nat) (y : StampAdd) (n : Nat) : State :=
  let x := s.lc lc
  let buf := ((s.launch? x.launch).map fun l => l.stampbuf).getD 0
  let done (s : State) : State := s.mapLC lc fun x => { x with adds := x.adds.erase y }
  let fault (s : State) (c : TrapCode) (a : Nat) : State := (done s).post y.tid { code := c, addr := a }
  match s.awaitPage lc x.asid x.core (buf + 8) .load with
  | (s, true) => s
  | (s, false) =>
    if !s.lineClear lc x.core x.asid (buf + 8) then s else
    let read (s : State) : State := s.engineLine lc x.asid (lineOf (buf + 8))
    match s.engineRead lc x.asid x.core (buf + 8) 8 with
    | .error (c, a) => fault (read s) c a
    | .ok bs =>
      if ofBytes bs ≤ n then done (read s)
      else
        let a := buf + 0x40 + 32 * n
        match s.awaitPage lc x.asid x.core a .store with
        | (s, true) => s
        | (s, false) =>
          match (read s).engineWrite lc x.asid x.core a y.bytes [y.tid] with
          | (s, _, none) => done s
          | (s, _, some (c, a)) => fault s c a

/-- STAMP: a record now, or a settle stamp to be written when its tile settles; the sixteenth pending
one makes the next wait (R362). Of a record at issue the spec gives no TILE: it is free. -/
def execStamp (a : UReg) (s : State) : Host.Outcome State Fault Refusal :=
  .next (s.uniform none false fun s =>
    let x := s.ureg a
    let t := s.cur.old
    if fld x 63 21 ≠ 0 then s.trapWave .ill
    else if ((s.launchOf s.cur.tid).map fun l => l.stampbuf).getD 0 = 0 then s
    else if x.getLsbD 20 then
      s.await .stamps fun s => s.mapLC t.lc fun y =>
        { y with stamps := y.stamps ++
            [{ tid := s.cur.tid, tile := fld x 19 16, grant := (s.unitOf s.cur.tid).grants,
               id := x.extractLsb' 0 16, curtag := t.curtag }] }
    else
      let (s, k) := s.draw
      s.sendStamp t.lc s.cur.tid (s.coreClock t.core) 0 (fld (Config.openValue k) 7 0) (x.extractLsb' 0 16) t.curtag)

/-- Whether the conditions of SETTLE hold for a settle stamp of a launch-on-core (R283, R362). -/
def State.stampReady (s : State) (x : LC) (p : Stamp) : Bool :=
  let u := s.unit x.asid x.core
  !u.writesOwed x.core p.tile p.grant && u.settled p.tile

/-- The settle stamps whose tiles have settled take HCLK (R362). -/
def State.latchStamps (s : State) : State :=
  { s with lcs := s.lcs.map fun x =>
      { x with stamps := x.stamps.map fun p =>
          if p.at_.isNone && s.stampReady x p then { p with at_ := some (s.coreClock x.core) } else p } }

/-- STAMP_SETTLE_WRITE: the record of the first stamp of a launch-on-core whose add has been performed is stored; with
none, the add of the first settle stamp whose tile has settled is sent (R362, R283). -/
def execStampSettleWrite (lc : Nat) (s : State) : Host.Outcome State Fault Refusal :=
  .next (
    let x := s.lc lc
    if !(s.domain x.asid).goes then s else
    let doneAdd (y : StampAdd) : Bool := (s.stores[y.add]?).all fun a => a.st = .performed || !a.live
    match x.adds.find? doneAdd with
    | some y =>
      match s.stores[y.add]? with
      | some a => if a.st = .performed then s.storeStamp lc y a.old
          else s.mapLC lc fun x => { x with adds := x.adds.erase y }
      | none => s.mapLC lc fun x => { x with adds := x.adds.erase y }
    | none =>
      match x.stamps.find? (s.stampReady x) with
      | some p =>
        let s := s.mapLC lc fun x => { x with stamps := x.stamps.erase p }
        s.sendStamp lc p.tid (p.at_.getD (s.coreClock x.core)) 1 p.tile p.id p.curtag
      | none => s)

/-! ### PC samples (R366) -/

/-- The lanes of the lowest entry of a thread's PC table, and its PC (R31). -/
def Thread.lowest (t : Thread) : Option (Nat × Mask) :=
  let open_ (L : Lane) : Bool := L.st = .live && L.hold = .no
  match (lanesOf (t.lanesWith open_)).map fun l => (t.lane l).pc.toNat with
  | [] => none
  | p :: ps =>
    let low := ps.foldl min p
    some (low, t.lanesWith fun L => open_ L && L.pc.toNat = low)

/-- The lowest word of the lanes that RLXEND or RETG holds, and those lanes. -/
def Thread.lowestHeld (t : Thread) : Option (Nat × Mask) :=
  let held := t.lanesWith fun L => L.st = .live && L.hold ≠ .caller
  match (lanesOf held).map fun l => (t.lane l).pc.toNat with
  | [] => none
  | p :: ps => some (ps.foldl min p, held)

/-- WAIT of a sample; nothing where the table names no kind (R366). -/
def waitKind (w : Wait) (i : Instr) : Option Nat :=
  match w with
  | .push _ _ | .pop _ _ | .turn _ _ | .engine _ => some 1
  | .phase _ _ | .joined _ => some 2
  | .poll => match i with | .waitc _ _ => some 3 | .bbwait _ _ => some 4 | _ => some 5
  | .settled _ _ | .settle _ _ | .prov _ _ | .tileFree _ _ | .stamps => some 6
  | .gate => some 7
  | .fence _ => some 8
  | .spawn => some 9
  | .sleep _ | .event _ => some 10
  | .parked => some 11
  | .pending _ | .retg => some 12
  | .region => some 13
  | .held _ | .walk _ | .page _ _ | .lines _ | .free _ | .room => none

/-- PC, ACTIVE, STATUS and WAIT of a thread's sample; WAIT is nothing where the spec names no kind. -/
def State.sampleOf (s : State) (tid : Nat) : Nat × Mask × Nat × Option Nat :=
  let t := (s.thread tid).runEnded
  let parked : Nat × Mask := (((lanesOf t.parkedLanes).map fun l => (t.lane l).pc.toNat).foldl min (2 ^ 32 - 1), 0)
  let next : Nat × Mask := match t.run with
    | some r => (r.ip, r.mask)
    | none => (t.lowest.orElse fun _ => t.lowestHeld).getD parked
  if !(s.domain t.dom).debug then (0, next.2, 7, some 0)
  else if t.participating = 0 then (t.exitPc.toNat, 0, 5, some 0)
  else if t.stopped then (next.1, next.2, 6, some 0)
  else if t.lanesWith (fun L => L.st = .live) = 0 then (parked.1, 0, 4, some 0)
  else
    match t.run, t.wait with
    | some r, some w =>
      if s.waitOver tid w then (r.ip, r.mask, 1, some 0)
      else
        (t.waitAt, r.mask, 2, waitKind w (((decodeWord (t.wordAt t.waitAt)).map (·.i)).getD .nop))
    | some r, none =>
      let c := s.core t.core
      let issuing := r.started && (t.isLead || c.side0.cur = some tid || c.side1.cur = some tid)
      (r.ip, r.mask, if issuing then 0 else 1, some 0)
    | none, _ =>
      match t.lowest with
      | some (pc, m) => (pc, m, 3, some 0)
      | none =>
        let (pc, held) := t.lowestHeld.getD parked
        (pc, held, 2, some (if t.acts.isEmpty then 13 else 12))

/-- Writes the sample of a thread. -/
def State.sample (s : State) (asid tick tid : Nat) : State :=
  let t := s.thread tid
  let (pc, active, status, wait) := s.sampleOf tid
  let (s, w) := match wait with
    | some w => (s, w)
    | none => let (s, k) := s.draw; (s, fld (Config.openValue k) 7 0)
  s.ringWrite asid false
    (bytesOf 8 tick ++ bytesOf 4 pc ++ bytesOf 4 t.waveid.toNat ++ bytesOf 4 active.toNat ++ bytesOf 2 t.core
      ++ bytesOf 1 t.slotByte ++ bytesOf 1 status ++ bytesOf 1 w ++ bytesOf 1 t.gdepth ++ bytesOf 6 0)

/-- PC_SAMPLE: the clock of a core has crossed a multiple of the period, the first after the last sampled; one record
for each occupied slot and each lead thread of the context (R366). -/
def execPcSample (asid core : Nat) (s : State) : Host.Outcome State Fault Refusal :=
  .next (
    let d := s.domain asid
    let tick := (max d.sampleFrom (s.unit asid core).sampled / max 1 d.period + 1) * max 1 d.period
    if !d.alive || !d.sampling || !d.debug || !d.running || s.coreClock core < tick then s else
    let s := s.mapUnit asid core fun u => { u with sampled := tick }
    let on := indices (fun t => t.alive && t.core = core && (s.lc t.lc).asid = asid) s.threads
    on.foldl (fun s tid => s.sample asid tick tid) s)

end Sys2Proof.Machine
end

