-- ==== Sys2Proof/Machine/Sched.lean ====
section
/-! DEFINITION. Runs, sides and waits: the fetch of a run (R31, R33, R110 to R113), the choice of a
side (R39 to R41, R155), the end of a run (R151), the ends of waits (R93, R94, R357), the attempts of
polls (R234, R235, R255), what is taken at a run boundary: TIMER traps (R352) and posted faults
(R77), and GATE_TIMEOUT (R343). -/

namespace Sys2Proof.Machine

/-! ### Fetching a run (R31, R33, R110, R113, R354) -/

/-- The three words of a code packet of a thread, or the trap of its fetch; nothing where it waits for
the host to install its page (R220, R354, R380). -/
def State.fetchPacket (s : State) (t : Thread) (n : Nat) : Option (Except (TrapCode × Nat) (List Word)) :=
  let va := t.code + 12 * n
  let byte (a : Nat) : Option (Except (TrapCode × Nat) Byte) :=
    match s.translate t.lc t.dom a .load with
    | .ok p => some (if s.poisoned p then .error (.eccue, a) else .ok (memGet s.mem p))
    | .trap c => some (.error (c, a))
    | .walk => if t.deniedAt t.dom a then some (.error (.xlate, a)) else none
  ((List.range 12).mapM fun i => byte (va + i)).map fun bs =>
    (bs.mapM id).map fun bs =>
      (List.range 3).map fun k => BitVec.ofNat 32 (leAt bs (4 * k) 4)

/-- How the fetch of a run ends: the state it leaves, with the pages that it mapped, and its words with the trap that stopped it; no words where it waits for a page. -/
abbrev Fetched := State × Option (List Word × Option (TrapCode × Nat))

/-- The miss queue entry of a code fetch (R380). -/
def State.missCode (s : State) (dom va core : Nat) : State := s.missOf dom va core 8

/-- The words of a run from its first packet: to the first E word at or after ip, to the end of the text,
to the eighth packet, or to a packet that cannot be fetched. A page that the fetch reaches is mapped from the
reserve pool, or asked for, where it is missing (R375, R380). -/
def State.fetchRun (s : State) (t : Thread) (ip base : Nat) : Nat → List Word → Fetched
  | 0, ws => (s, some (ws, none))
  | fuel + 1, ws =>
    let at_ := base + ws.length
    let va := t.code + 4 * at_
    if at_ ≥ 3 * t.textPkts then (s, some (ws, none)) else
    let s := (s.ensureMapped t.dom va).ensureMapped t.dom (va + 11)
    match s.fetchPacket t (at_ / 3) with
    | none =>
      let first := if s.translate t.lc t.dom va .load = .walk then va else va + 11
      (s.missCode t.dom first t.core, none)
    | some (.error e) => (s, some (ws, some e))
    | some (.ok new) =>
      if (List.range 3).any fun k => at_ + k ≥ ip && (rd 0 new k).getLsbD 30 then (s, some (ws ++ new, none))
      else s.fetchRun t ip base fuel (ws ++ new)

/-- What the fetch of n words from a word index on counts: each of their lines once, as an access of its page, as a line
sent to a home, and as the lines that carry it (R13, R221, R364, R365). -/
def State.fetchCounts (s : State) (tid base n : Nat) : State :=
  let t := s.thread tid
  let va := t.code + 4 * base
  let lines := (va + 4 * n + 127) / 128 - va / 128
  (List.range lines).foldl (fun s _ => s.spendFree t.lc [3, 4, 5, 6])
    ((s.countLines t.dom va (4 * n)).countBy tid 5 lines)

/-- What keeps a thread from starting a new run: it must first take a posted fault, outside any
activation, or its TIMER trap (R77, R352). -/
def Thread.mustTake (t : Thread) : Bool :=
  (t.acts.isEmpty && !t.posted.isEmpty) || t.deadline.any fun d => d ≤ t.wtime

/-- Whether a thread stands at a run boundary: no run, or one that has not begun. -/
def Thread.atBoundary (t : Thread) : Bool :=
  match t.run with
  | some r => !r.started
  | none => true

/-- The lanes of a run take their latches as it begins: those kept with a lane parked by its own trap, and
no others (R122, R123). -/
def Thread.beginRun (t : Thread) : Thread :=
  match t.run with
  | some r =>
    { (t.mapLanes fun l L =>
        if r.mask.getLsbD l then { L with latch := L.kept.getD [], kept := none } else L) with
      run := some { r with started := true } }
  | none => t

/-- Begins a run (R365 code 2). -/
def State.startRun (s : State) (tid : Nat) : State :=
  (s.countBy tid 2 1).mapThread tid Thread.beginRun

/-- CODE_FETCH: the words of a thread's next run, at its lowest PC, have been fetched. The lead thread's
front-end begins the run at once (R47). -/
def execCodeFetch (tid : Nat) (s : State) : Host.Outcome State Fault Refusal :=
  .next (
    let t := s.thread tid
    if !t.alive || t.stopped || s.stopDue tid || !(s.domain (s.ctxOf tid)).running || !t.atBoundary then s else
    match t.lowest with
    | none => s
    | some (pc, m) =>
      let base := 3 * (pc / 3)
      match s.fetchRun t pc base 8 [] with
      | (s, none) => s
      | (s, some (ws, stop)) =>
        let s := (s.fetchCounts tid base ws.length).mapThread tid fun t =>
          { t with run := some { mask := m, ip := pc, base := base, code := ws, stop := stop }, denied := [] }
        if t.isLead && !t.mustTake then s.startRun tid else s)

/-! ### The choice of a side (R39 to R41, R155) -/

/-- Whether a wave is ready (R39). -/
def State.ready (s : State) (tid : Nat) : Bool :=
  let t := s.thread tid
  let c := s.core t.core
  t.alive && !t.isLead && !t.stopped && !s.stopDue tid && (s.domain (s.ctxOf tid)).running
  && c.side0.cur ≠ some tid && c.side1.cur ≠ some tid
  && match t.run with
    | none => false
    | some r =>
      if r.started then
        !r.ended && r.mask ≠ 0 && (match t.wait with | some w => s.waitOver tid w | none => true)
      else !t.mustTake && t.lowest = some (r.ip, r.mask)

/-- The ready waves of a core; one that has yielded counts only where no other is ready (R155). Where every
one of them has yielded, all count (DESIGN CHOICE, notes/assumptions/59). -/
def State.candidates (s : State) (core : Nat) : List Nat :=
  let all := (indices (fun t => t.core = core) s.threads).filter s.ready
  let eager := all.filter fun i => !(s.thread i).yielded
  if eager.isEmpty then all else eager

/-- The rank of a wave at a choice: aged waves above class 3 (R41). -/
def Thread.rank (t : Thread) : Nat := if t.loss ≥ 256 then 4 else t.cls

/-- The wave a side takes: the highest rank, round-robin by slot after the last chosen (R40, R41). -/
def State.choose (s : State) (core last : Nat) : Option Nat :=
  let cs := s.candidates core
  let top := (cs.map fun i => (s.thread i).rank).foldl max 0
  let key (i : Nat) : Nat := ((s.thread i).slot + 2 * Config.slots - last - 1) % Config.slots
  (sortBy key (cs.filter fun i => (s.thread i).rank = top)).head?

/-- Whether side 0 of a core is at a run boundary and has a wave to choose: it then chooses before side 1
(R40). -/
def State.side0First (s : State) (core : Nat) : Bool :=
  (s.core core).side0.cur.isNone && (s.choose core (s.core core).side0.last).isSome

/-- SIDE_ARBITRATION: a side at a run boundary chooses a ready wave, which begins or continues a run; a ready
wave that it did not choose gains a loss, unless it has yielded (R41, R155). The side takes the clock step of its die
(R23). -/
def execSideArbitration (core side : Nat) (s : State) : Host.Outcome State Fault Refusal :=
  .next (
    let c := s.core core
    let S := if side = 0 then c.side0 else c.side1
    if S.cur.isSome || side > 1 || (side = 1 && s.side0First core) then s else
    match s.choose core S.last with
    | none => s
    | some tid =>
      let cs := s.candidates core
      let t := s.thread tid
      let S' : Side := { cur := some tid, last := t.slot, clk := s.clkOf core }
      let s := { s with threads := (List.range s.threads.length).map fun i =>
        let x := s.thread i
        if x.core ≠ core ∨ x.isLead then x
        else if i = tid then { x with loss := 0, yielded := false }
        else if cs.contains i && !x.yielded then { x with loss := x.loss + 1 }
        else { x with yielded := false } }
      let s := s.mapCore core fun c => if side = 0 then { c with side0 := S' } else { c with side1 := S' }
      if t.atBoundary then s.startRun tid else s)

/-- RUN_END: the lanes of the run that are still live take their new PCs, and the run is over (R32,
R151). -/
def execRunEnd (tid : Nat) (s : State) : Host.Outcome State Fault Refusal :=
  .next (
    match (s.thread tid).run with
    | some r => if r.isOver then (s.mapThread tid Thread.runEnded).releaseSide tid else s
    | none => s)

/-! ### The ends of waits -/

/-- Ends a wait whose condition has come about. -/
def State.endWait (s : State) (tid : Nat) (is : Wait → Bool) (w' : Option Wait) : State :=
  match (s.thread tid).wait with
  | some w => if is w && s.waitOver tid w then s.mapThread tid fun t => { t with wait := w' } else s
  | none => s

/-- FENCE_COMPLETE: the conditions of a waiting fence or release hold (R93). -/
def execFenceComplete (tid : Nat) (s : State) : Host.Outcome State Fault Refusal :=
  .next (s.endWait tid (fun w => match w with | .fence _ => true | _ => false) none)

/-- ACQUIRE_HOLD_END: HCLK has reached the home times of the lanes' acquires plus 4 (R94). -/
def execAcquireHoldEnd (tid : Nat) (s : State) : Host.Outcome State Fault Refusal :=
  .next (s.endWait tid (fun w => match w with | .held _ => true | _ => false) none)

/-- SLEEP_EXPIRE: WTIME has advanced by the count of a SLEEP (R357). -/
def execSleepExpire (tid : Nat) (s : State) : Host.Outcome State Fault Refusal :=
  .next (s.endWait tid (fun w => match w with | .sleep _ => true | _ => false) (some (.sleep 0)))

/-! ### Polls (R234, R235, R255) -/

/-- The polling word of a group, and the GUARD that stands before it. -/
def pollingWord (g : Option (PReg × Bool)) : List Word → Option (Instr × Option (PReg × Bool))
  | [] => none
  | w :: t =>
    let more := w.getLsbD 31 && !w.getLsbD 30
    match (decodeWord w).map (·.i) with
    | some (Instr.guard p sense) => if more then pollingWord (some (p, sense)) t else none
    | some i =>
      match i with
      | .waitv _ _ _ _ | .waitc _ _ | .bbwait _ _ => some (i, g)
      | _ => if more then pollingWord none t else none
    | none => none

/-- Reads the lines of an attempt at their homes, each once (R220). -/
def State.pollLines (s : State) (tid : Nat) (ls : List (Nat × Nat)) : State × List ((Nat × Nat) × List Byte) :=
  let t := s.thread tid
  ls.foldl (fun (s, got) x =>
    match s.serve tid t.lc t.core x.1 x.2 .acq with
    | (s, .home q) => (s.homeCounts tid x.1 x.2 q, got ++ [(x, s.coreLine t.core q)])
    | (s, _) => (s, got)) (s, [])

/-- Whether a line of an attempt can be read now: it waits for no walk, no atomic of the core, no forwarded store, no
migration and no load of the lanes that is on its way (R90, R95, R105, R220). -/
def State.pollReady (s : State) (tid : Nat) (m : Mask) (x : Nat × Nat) : Bool :=
  let t := s.thread tid
  s.translate t.lc x.1 x.2 .load ≠ .walk && s.lineClear t.lc t.core x.1 x.2 && (s.loadsBefore tid m x.1 x.2).isEmpty

/-- Reads the lines of an attempt that it has not read and that can be read now, each at its home: one that waits holds
back no other (R220). The latest of their home times is kept (R234). -/
def State.pollRead (s : State) (tid : Nat) (ps : Lanes) : State :=
  let t := s.thread tid
  let m := maskOf fun l => ps.any fun p => p.1 = l
  let ls := (linesOf ps).filter fun x => !(t.poll.any fun p => p.got.any fun g => g.1 = x)
  let s := s.missLines t.lc t.core ls .load
  let (s, got) := s.pollLines tid (ls.filter (s.pollReady tid m))
  s.mapThread tid fun t => { t with poll := t.poll.map fun p =>
    { p with got := p.got ++ got, home := if got.isEmpty then p.home else s.hclk } }

/-- The test of WAITV (R234). -/
def pollTest (c : PollCond) (x y : Word) : Bool :=
  match c with
  | .eq => x = y
  | .ne => x ≠ y
  | .ge => y.toInt ≤ x.toInt
  | .lt => x.toInt < y.toInt

/-- The place, width and test of a polling word in each lane of its Active(). -/
def State.pollPlan (s : State) (i : Instr) : Lanes × Nat × (Nat → Nat → Bool) :=
  match i with
  | .waitv rec_ c idx cmp =>
    (s.places (s.breg rec_) (fun l => s.srcOrW l idx) 4 .load false, 4,
      fun l x => pollTest c (BitVec.ofNat 32 x) (BitVec.ofNat 32 (s.srcOrW l cmp)))
  | .waitc rec_ a =>
    ([(0, s.checkAccess s.cur.old (s.breg rec_) 0 8 .load false)], 8, fun _ x => (s.ureg a).toNat ≤ x)
  | .bbwait rec_ a =>
    ([(0, s.checkAccess s.cur.old (s.breg rec_) 0 16 .load false)], 16, fun _ x =>
      (if s.ureg a = 0 then x / 2 ^ 64 else (s.ureg a).toNat) ≤ x % 2 ^ 64)
  | _ => ([], 0, fun _ _ => true)

/-- An attempt on the places that pass their checks: once each of its lines has been read, it ends the poll where every
lane's test holds, and the next one is sent 16 ticks later at the earliest; a lane whose access is dropped reads 0. -/
def State.pollOnce (s : State) (tid : Nat) (ps : Lanes) (w : Nat) (test : Nat → Nat → Bool) : State :=
  let s := s.pollRead tid ps
  let clk := s.coreClock (s.thread tid).core
  let judge (p : Poll) : Poll :=
    if (linesOf ps).all fun x => p.got.any fun g => g.1 = x then
      { p with got := [], done := ps.all fun q => test q.1 (q.2.inLines p.got w), next := clk + 16 }
    else p
  s.mapThread tid fun t => { t with poll := t.poll.map judge }

/-- POLL_ATTEMPT: a further acquiring load of a waiting WAITV, WAITC or BBWAIT. A lane that fails a check
of R218 parks; the traps of WAITC and BBWAIT fall on the wave. -/
def execPollAttempt (tid : Nat) (s : State) : Host.Outcome State Fault Refusal :=
  .next (
    let t := s.thread tid
    match t.poll, t.run, t.wait with
    | some p, some r, some .poll =>
      if p.done || s.coreClock t.core < p.next || t.stopped || !(s.domain (s.ctxOf tid)).running then s else
      match pollingWord none (r.code.drop (r.ip - r.base)) with
      | none => s
      | some (i, g) =>
        let gm := (g.map fun (q, sense) => t.lanesWith fun L => L.p.getLsbD q.toNat = !sense).getD (BitVec.allOnes 32)
        let s := { s with cur := { issueOf tid t r.mask r.ip with mask := r.mask &&& gm } }
        let (ps, w, test) := s.pollPlan i
        let s := s.reserve ps
        let xs := s.judge t.lc ps .load
        let wave := match i with | .waitv _ _ _ _ => false | _ => true
        let s := match xs with
          | x :: _ =>
            if wave then { (s.trapWave x.code 0 x.addr x.dom) with cur := {} }
            else
              let ok := ps.filter fun p => !(xs.any fun x => x.lane = p.1)
              { (s.trapping xs fun s => if ok.isEmpty then
                    s.mapThread tid fun t => { t with poll := t.poll.map fun p => { p with done := true } }
                  else s.pollOnce tid ok w test) with cur := {} }
          | [] => { (s.pollOnce tid ps w test) with cur := {} }
        if wave && !xs.isEmpty then s.mapThread tid fun t => { t with poll := none, wait := none } else s
    | _, _, _ => s)

/-! ### What a thread takes at a run boundary (R77, R352) -/

/-- Parks the lanes of a mask at their own PCs, the ones at which they would next run; no latch is kept (R77,
R123, R352). -/
def Thread.parkAtBoundary (t : Thread) (m : Mask) : Thread :=
  { (t.mapLanes fun l L =>
      if m.getLsbD l then { L with st := .parked, hold := .no, latch := [], kept := none } else L) with
    run := if t.atBoundary then none else t.run }

/-- The lanes of a mask that a region holds at its RLXEND would next run at the word after it (R327). -/
def State.pastRegion (s : State) (tid : Nat) (m : Mask) : State :=
  match (s.unitOf tid).region.bind (·.rlxend) with
  | some pc => s.mapThread tid fun t => t.mapLanes fun l L =>
      if m.getLsbD l && L.hold = .region then { L with pc := BitVec.ofNat 32 (nextPacket pc) } else L
  | none => s

/-- The word at a word index of a thread's code, 0 where it cannot be read. -/
def State.wordOf (s : State) (t : Thread) (pc : Nat) : Word :=
  match s.fetchPacket t (pc / 3) with
  | some (.ok ws) => rd 0 ws (pc % 3)
  | _ => 0

/-- A record of a lane that parks at a run boundary (R348). -/
def State.boundaryRecord (s : State) (tid l : Nat) (code : TrapCode) (kind : Nat) : FaultRec :=
  let t := s.thread tid
  let pc := (t.lane l).pc
  { hclk := s.coreClock t.core, code := code, kind := kind, lane := if t.isLead then 255 else l,
    core := t.core, pc := pc, word := if kind = 2 then 0 else s.wordOf t pc.toNat, waveid := t.waveid,
    slot := t.slotByte, tag := t.curtag, launch := ((s.launchOf tid).map launchReg).getD 0,
    lc := if t.kind = .handler || kind = 3 then none else some t.lc }

/-- TIMER_EXPIRE: WTIME has reached the deadline; at the run boundary the lanes of the next run's active
mask park, or the activation ends with GFAULT, and the deadline is cleared (R352, R344, R361). -/
def execTimerExpire (tid : Nat) (s : State) : Host.Outcome State Fault Refusal :=
  .next (
    let t := s.thread tid
    if !t.alive || t.stopped || !(s.domain (s.ctxOf tid)).running || !t.atBoundary
        || !(t.deadline.any fun d => d ≤ t.wtime) then s else
    match t.lowest with
    | none => s
    | some (_, m) =>
      let kind := if t.acts.isEmpty then 1 else 3
      let s := (lanesOf m).foldl (fun s l =>
        (s.countBy tid 14 1).charge t.dom (s.boundaryRecord tid l .timer kind)) s
      let s := s.mapThread tid fun t => { t with deadline := none }
      if t.acts.isEmpty then (s.markParked tid m).mapThread tid fun t => t.parkAtBoundary m
      else s.endActivation tid 1)

/-- POSTED_FAULT_DELIVER: the oldest posted fault of a thread is taken at its run boundary, outside any
activation: the lanes that its command named and that are live park; when none is live, one record goes to the
fault queue (R77), with a PC of 0, for which no rule gives a value (DESIGN CHOICE, notes/assumptions/83). A lane that a
relaxation region holds parks too, and ends the region's pass (R321). -/
def execPostedFaultDeliver (tid : Nat) (s : State) : Host.Outcome State Fault Refusal :=
  .next (
    let t := s.thread tid
    match t.posted with
    | [] => s
    | p :: rest =>
      if !t.alive || t.stopped || !(s.domain (s.ctxOf tid)).running || !t.atBoundary || !t.acts.isEmpty then s
      else
        let live := p.mask &&& t.lanesWith fun L => L.st = .live
        let fill (r : FaultRec) : FaultRec := { r with addr := p.addr, node := p.node }
        let asid := s.ctxOf tid
        let dom := p.dom.getD asid
        if live = 0 then
          let r := { s.boundaryRecord tid 0 p.code 2 with lane := 255, pc := 0 }
          (s.mapThread tid fun t => { t with posted := rest }).charge dom (fill r)
        else
          let s := (s.markParked tid live).pastRegion tid live
          let s := (lanesOf live).foldl (fun s l =>
            let s := s.countBy tid 14 1
            let s := if p.code = .xlate then s.countBy tid 15 1 else s
            s.charge dom (fill (s.boundaryRecord tid l p.code 2))) s
          s.mapThread tid fun t => { t.parkAtBoundary live with posted := rest })

/-! ### The budget of an activation (R343, R344) -/

/-- Where a thread that is in an activation stands: the group of its run, else, where it has none or has ended it, the lowest
word of the lanes that would run next, else of those that RETG holds. -/
def Thread.standsAt (t : Thread) : Nat :=
  let t := t.runEnded
  match t.run, t.lowest with
  | some r, _ => r.ip
  | none, some (pc, _) => pc
  | none, none =>
    match (t.lanes.filter fun L => L.st = .live && L.hold = .retg).map (·.pc.toNat) with
    | p :: ps => ps.foldl min p
    | [] => 0

/-- GATE_TIMEOUT: the innermost activation has used up its budget and stands between groups: it ends with
GTIMEOUT and one record, of the word there (R343, R344, R348). -/
def execGateTimeout (tid : Nat) (s : State) : Host.Outcome State Fault Refusal :=
  .next (
    let t := s.thread tid
    if !t.alive || t.stopped || !t.pastBudget then s else
      let pc := t.standsAt
      let s : State := { s with cur := issueOf tid t 0 pc }
      let r := s.trapRecord { lane := 255, code := .gate, detail := 3 } 3
      let fetched := t.runEnded.run.any fun r => r.base ≤ pc && pc < r.base + r.code.length
      let s := (s.countBy tid 14 1).charge t.dom { r with word := if fetched then t.wordAt pc else s.wordOf t pc }
      { (s.endActivation tid 2) with cur := {} })

end Sys2Proof.Machine
end

