-- ==== Sys2Proof/Machine/Traffic.lean ====
section
/-! DEFINITION. Memory traffic: reads at their homes and their returns (R88, R89, R94, R222), stores and
atomics at their homes and their completion times (R90 to R92, R97), leases and windows (R89, R103),
migration (R105), translation walks (R220, R380), and errors of evicted lines (R354). -/

namespace Sys2Proof.Machine

/-! ### Reads at their homes (R88, R89) -/

/-- Whether every one of some stores has been performed, or is none any more: the atomics that a read follows
(R95), the last stores of a launch (R54). -/
def State.storesDone (s : State) (ns : List Nat) : Bool :=
  ns.all fun n => ((s.stores[n]?).map fun x => x.st = .performed || !x.live).getD true

/-- Whether every one of the requests that a read comes behind has been served (R95). -/
def State.reqsServed (s : State) (ns : List Nat) : Bool :=
  ns.all fun n => ((s.reqs[n]?).map fun r => r.st ≠ .sent && r.st ≠ .walk).getD true

/-- Replaces a request. -/
def State.mapReq (s : State) (n : Nat) (f : Req → Req) : State :=
  { s with reqs := s.reqs.modify n f }

/-- The lanes of a request's parts; a uniform part stands for every lane. -/
def Req.lanes (r : Req) : Mask := maskOf fun l => r.ofLanes (laneBit l)

/-- The old values of an atomic that has been performed, as bytes of its line (R226). -/
def atomBytes (ps : List AtomPart) : List Byte :=
  let cells := ps.flatMap fun a => (List.range 8).filterMap fun i =>
    if i < (if a.w64 then 8 else 4) then some (a.off + i, rd 0 (bytesOf 8 a.data.toNat) i) else none
  (List.range 128).map fun i => (cellAt cells i).getD 0

/-- The old value that one lane's part of an atomic received (R97): lanes that name one address have
their own. -/
def atomValue (ps : List AtomPart) (p : Part) : List Byte :=
  match p.dest with
  | .lane l _ _ =>
    match ps.find? fun a => a.lane = l with
    | some a => List.replicate p.off 0 ++ bytesOf 8 a.data.toNat
    | none => atomBytes ps
  | .uni _ => atomBytes ps

/-- The bytes of its line that a request brings one of its parts: a load's, or the old value of an atomic (R91, R222,
R226). -/
def State.brings (s : State) (r : Req) (p : Part) : List Byte :=
  match r.store.bind fun n => s.stores[n]? with
  | some x => match x.kind with | .atom ps => atomValue ps p | _ => []
  | none => overlay r.own r.data

/-! ### Faults that are found after the issue (R8, R123, R218, R344, R354)

The lanes of an access that fails after it has issued stand again as its group found them, parked at the group
(notes/assumptions/10). -/

/-- A lane waits no more for a request. -/
def Lane.forgo (L : Lane) (n : Nat) : Lane :=
  let drop (x : Latch) : Latch := if x.pend = some n then { x with pend := none } else x
  { L with pend := L.pend.filter fun q => q.2 ≠ n, latch := L.latch.map drop, kept := L.kept.map fun ks => ks.map drop }

/-- The lane takes what a request with a number has brought since, or waits for it no more where it has failed. -/
def State.landSince (s : State) (l : Nat) (L : Lane) (n : Nat) : Lane :=
  match s.reqs[n]? with
  | none => L
  | some r =>
    if r.st ≠ .done then L
    else if r.failed.isSome then L.forgo n
    else r.parts.foldl (fun L p =>
      match p.dest with
      | .lane k reg c =>
        if k ≠ l then L else
        let bs := match p.body with
          | some (_, i) => ((s.stepOf r.tid l).loads[i]?.map (·.bytes)).getD []
          | none => ((s.brings r p).drop p.off).take p.width
        L.land n reg (extend bs p.width c p.signed)
      | .uni _ => L) L

/-- A lane as it stood, with what the requests that it then waited for have brought since. -/
def State.asOf (s : State) (l : Nat) (L : Lane) : Lane :=
  ((L.pend.map (·.2) ++ L.latch.filterMap (·.pend)).eraseDups).foldl (s.landSince l) L

/-- Takes a lane out of the run of its thread. -/
def Thread.withoutLane (t : Thread) (l : Nat) : Thread :=
  { t with run := t.run.bind fun r => if r.started then some { r with mask := r.mask &&& ~~~ laneBit l } else none }

/-- The record of a fault that is found after the issue (R348). -/
def State.lateRecord (s : State) (tid l : Nat) (x : Late) (code : TrapCode) (kind addr : Nat) : FaultRec :=
  let t := s.thread tid
  { hclk := s.coreClock t.core, code := code, kind := kind, lane := if t.isLead then 255 else l, core := t.core,
    pc := x.pc, word := x.word, waveid := t.waveid, slot := t.slotByte, addr := addr + x.off l, tag := t.curtag,
    launch := ((s.launchOf tid).map launchReg).getD 0, lc := if t.kind = .handler || kind = 3 then none else some t.lc }

/-- Charges such a record, to the domain whose address space the access used where it met an uncorrectable error (R354),
else to the one where it ran; a trap is counted (R365). -/
def State.chargeLate (s : State) (tid l : Nat) (x : Late) (code : TrapCode) (kind dom addr : Nat) : State :=
  let s := s.countBy tid 14 1
  let s := if code = .xlate && kind ≠ 3 then s.countBy tid 15 1 else s
  s.charge (if code = .eccue then dom else x.dom) (s.lateRecord tid l x code kind addr)

/-- An access of a later group than one whose lane is put back: the lane makes it anew. -/
def Late.undo (x : Late) (from_ l : Nat) : Late := if from_ ≤ x.made then { x with undone := x.undone ||| laneBit l } else x

/-- A lane of a thread is put back to a group: the accesses it has made in it and since are made anew. -/
def State.undo (s : State) (tid from_ l : Nat) : State :=
  { s with
    reqs := s.reqs.map fun r => if r.tid = tid then { r with late := r.late.undo from_ l } else r
    stores := s.stores.map fun x => if x.tids.contains tid then { x with late := x.late.undo from_ l } else x }

/-- A lane of an access that fails after its issue parks at the access's group, with the registers and latches that it
had there (R8, R123), be it parked at a later word since; in a relaxation body its step is faulted, or its region ends
(R326). A lane that an earlier access's fault has put back makes the access anew; one that has exited or been killed takes
the record alone (DEDUCED, notes/assumptions/10). -/
def State.parkLate (s : State) (tid l : Nat) (x : Late) (L0 : Lane) (code : TrapCode) (dom addr : Nat) (stack : Bool) : State :=
  let L := (s.thread tid).lane l
  if x.undone.getLsbD l then s
  else if x.body.getLsbD l && suppressed code && !stack then
    (s.mapStep tid l fun st => { st with faulted := true }).mapThread tid fun t =>
      (t.mapLane l fun L => { L with hold := .region }).withoutLane l
  else
    let s := if L.st = .live || L.st = .parked then
        let s := (s.markParked tid (laneBit l)).undo tid x.made l
        let L1 := s.asOf l L0
        s.mapThread tid fun t => (t.mapLane l fun L =>
          { L1 with st := .parked, pc := x.pc, kept := some L1.latch, acq := max L.acq L1.acq, arrived := L.arrived, hold := .no,
                    parkNext := false }).withoutLane l
      else s
    s.chargeLate tid l x code (if x.uniform then 1 else 0) dom addr

/-- Ends the activations of a thread with GFAULT, from the innermost to the one at a depth (R344). -/
def State.faultTo (s : State) (tid depth : Nat) : Nat → State
  | 0 => s
  | n + 1 => if (s.thread tid).gdepth < depth then s else (s.endActivation tid 1).faultTo tid depth n

/-- THE TRAP OF AN ACCESS FOUND AFTER ITS ISSUE: its lanes park at its group; that of a callee ends the activation, unless
it has ended, with a record of each lane in the wing's queue (R344). A fault of a thread that has called since, or has
retired, is posted (R77; notes/assumptions/10). `stack`: the access is of the call stack (R326). -/
def State.lateTrap (s : State) (tid : Nat) (x : Late) (code : TrapCode) (dom addr : Nat) (stack : Bool) : State :=
  let t := s.thread tid
  if x.depth ≠ 0 then
    let s := x.lanes.foldl (fun s q => s.chargeLate tid q.1 x code 3 dom addr) s
    if x.closed then s else s.faultTo tid x.depth (t.gdepth + 1)
  else if t.alive && t.acts.isEmpty then
    x.lanes.foldl (fun s q => s.parkLate tid q.1 x q.2 code dom addr stack) s
  else
    s.post tid { code := code, addr := addr + x.off (x.lanes.headD (0, {})).1, mask := maskOf fun l => x.lanes.any fun q => q.1 = l,
                 dom := if code = .eccue then some dom else none }

/-- A thread waits no more for a request. -/
def Thread.forget (t : Thread) (r : Req) (n : Nat) : Thread :=
  let t := r.parts.foldl (fun t p => match p.dest with
    | .lane l _ _ => t.mapLaneAt r.depth l fun L => L.forgo n
    | .uni _ => t) t
  if t.gdepth ≤ r.depth then { t with wpend := t.wpend.filter fun q => q.2 ≠ n } else t

/-- A request that cannot be served after its word has issued is over, and its fault is taken; a prefetch is dropped
silently (R233). -/
def State.failReq (s : State) (n : Nat) (code : TrapCode) : State :=
  match s.reqs[n]? with
  | none => s
  | some r =>
    let s := s.mapReq n fun r => { r with st := .done, failed := some code, late := {} }
    if r.pref || r.parts.isEmpty then s
    else (s.lateTrap r.tid r.late code r.dom r.va false).mapThread r.tid fun t => t.forget r n

/-- The ticks of the lease that a read asks for: the class of the window that covers its line, else that of its record;
class 0 of a load that keeps no copy (R89, R231). -/
def State.leaseOf (s : State) (r : Req) : Nat :=
  if !r.keeps then 0 else
  match s.windowAt (s.thread r.tid).lc r.dom r.va with
  | some (k, n) => leaseTicks (s.window k n).record.lease
  | none => r.lease

/-- HOME_READ: a read is served at its home; it grants a lease of its class and takes the line's bytes,
over which the core's own unperformed stores lie (R89, R91). Its home time is the master's HCLK (DESIGN CHOICE,
notes/assumptions/7). It comes after the atomics of its core and the loads of its lanes on the line (R95), and
waits for a forwarded store and a migration (R90, R105). -/
def execHomeRead (req : Nat) (s : State) : Host.Outcome State Fault Refusal :=
  .next (
    match s.reqs[req]? with
    | none => s
    | some r =>
      if r.st ≠ .sent || r.store.isSome || !s.storesDone r.after || !s.reqsServed r.behind || s.forwardedOn r.line
          || s.isMoving r.line then s else
      let s := (s.countAccess r.dom r.va r.line).spendFree (s.thread r.tid).lc [4, 5, 6]
      if s.poisoned r.line then s.failReq req .eccue else
      let ticks := s.leaseOf r
      let (s, e) := if ticks = 0 then (s, 0) else s.grantLease r.line ticks
      s.mapReq req fun r =>
        { r with st := .home, data := s.homeLine r.line, own := s.queuedBefore r.core r.line r.seen,
                 expiry := e, homeTime := s.hclk })

/-- The acquire of a request's lanes at a home time (R94). -/
def State.acquireAt (s : State) (tid : Nat) (m : Mask) (home : Nat) : State :=
  s.mapThread tid fun t => t.mapLanes fun l L =>
    if m.getLsbD l then { L with acq := max L.acq (home + 4) } else L

/-- A line that comes back with a lease enters the window that serves it, where no entry does and no atomic of the core
has come between, else the L1 (R89, R95, R103). -/
def State.keepLine (s : State) (r : Req) : State :=
  let lc := (s.thread r.tid).lc
  if r.expiry = 0 then s else
  match s.windowAt lc r.dom r.va with
  | none =>
    { s with copies := { core := r.core, line := r.line, expiry := r.expiry, data := r.data, dom := r.dom } ::
        s.copies.filter fun c => c.core ≠ r.core || c.line ≠ r.line }
  | some (k, n) =>
    let off := s.windowOff k n r.dom (lineOf r.va)
    if (s.winEntry k n off).isSome || !(s.atomsOn r.core r.line).isEmpty || r.expiry ≤ s.coreClock r.core + 4 then s else
    let s := s.writeBack k n (fun e => e.off = off) false []
    let data := overlay (s.queued r.core r.line) r.data
    s.mapWindow k n fun w => { w with entries := { off := off, expiry := r.expiry, data := data } :: w.entries }

/-- LOAD_RETURN: the value of a read, or of a returning atomic, arrives; a leased line enters the L1 or its window
(R222, R89, R94, R103). -/
def execLoadReturn (req : Nat) (s : State) : Host.Outcome State Fault Refusal :=
  .next (
    match s.reqs[req]? with
    | none => s
    | some r =>
      if r.st ≠ .home then s else
      let home : Option Nat := match r.store with
        | none => some r.homeTime
        | some n => (s.stores[n]?).bind fun x => if x.st = .performed then some x.perf else none
      match home with
      | none => s
      | some home =>
        let s := r.parts.foldl (fun s p => s.deliver req r.tid r.depth p (s.brings r p)) s
        let s := if r.acq then s.acquireAt r.tid r.lanes home else s
        (s.keepLine r).mapReq req fun r => { r with st := .done, late := {} })

/-! ### Stores at their homes (R90, R97) -/

/-- Replaces a store. -/
def State.mapStore (s : State) (n : Nat) (f : Store → Store) : State :=
  { s with stores := s.stores.modify n f }

/-- Whether an earlier store of the same core to the same line has not arrived yet. -/
def State.earlierOut (s : State) (n : Nat) (x : Store) : Bool :=
  (s.stores.take n).any fun y => y.live && y.core = x.core
    && (y.st = .accepted || y.st = .walk) && s.goesTo y x.line

/-- HOME_STORE_ARRIVAL: a store reaches its home after the reads and stores that come before it, and takes
its performance time: its arrival, the latest lease, the store before it, and its not-before time (R90,
R95, R106); one whose time has come is performed at once. A store to a page that is being migrated waits (R105). The
home's clock is the master's HCLK (DESIGN CHOICE, notes/assumptions/7). -/
def execHomeStoreArrival (st : Nat) (s : State) : Host.Outcome State Fault Refusal :=
  .next (
    match s.stores[st]? with
    | none => s
    | some x =>
      if !x.live || x.st ≠ .accepted || !s.reqsServed x.after || s.earlierOut st x || s.isMoving x.line then s else
      let l := s.line x.line
      let perf := max (max s.hclk l.lease) (max l.last x.notBefore)
      let s := (s.mapLine x.line fun l => { l with last := perf }).countAccess x.dom x.va x.line
      let s := { s.mapStore st fun x => { x with st := .arrived, perf := perf, arr := s.arrivals } with
                 arrivals := s.arrivals + 1 }
      let s := if perf > s.hclk && x.core < Config.cores then
          match x.tids with
          | tid :: _ => s.countBy tid 6 1
          | [] => s.count x.dom x.core 6 1
        else s
      (match x.tids with
       | tid :: _ => s.spendFree (s.thread tid).lc [4, 5, 6]
       | [] => s).settle)

/-- Performs a store at a device home when its time has come, after those of its line before it; a store
to system memory is forwarded to the line's owner once the conditions hold (R90). -/
def State.performDue (s : State) (st : Nat) : State :=
  match s.stores[st]? with
  | none => s
  | some x =>
    if isDevice x.line then
      if s.due.contains st then
        let before := (s.due.takeWhile fun n => n ≠ st).filter fun n => ((s.stores[n]?).map (·.line)) = some x.line
        (before ++ [st]).foldl State.performStore s
      else s
    else
      let first := s.stores.all fun y =>
        !(y.live && y.line = x.line && (y.st = .forwarded || (y.st = .arrived && y.arr < x.arr)))
      if x.live && x.st = .arrived && first && x.perf ≤ s.hclk && (s.line x.line).lease ≤ s.hclk then
        s.mapStore st fun x => { x with st := .forwarded }
      else s

/-- HOME_STORE_PERFORM: a store's bytes become the line's value at its performance time (R90). -/
def execHomeStorePerform (st : Nat) (s : State) : Host.Outcome State Fault Refusal :=
  .next (if (s.stores[st]?).any fun x => !x.isAtomic then s.performDue st else s)

/-- HOME_ATOMIC_PERFORM: an atomic reads and writes at its one performance time (R97). -/
def execHomeAtomicPerform (st : Nat) (s : State) : Host.Outcome State Fault Refusal :=
  .next (if (s.stores[st]?).any Store.isAtomic then s.performDue st else s)

/-- HUB_STORE_ACK: the owner of a system line acknowledges a forwarded store, which is performed at this
home time (R90). -/
def execHubStoreAck (st : Nat) (s : State) : Host.Outcome State Fault Refusal :=
  .next (
    match s.stores[st]? with
    | none => s
    | some x =>
      if !x.live || x.st ≠ .forwarded then s else
      let s := s.mapStore st fun x => { x with perf := s.hclk }
      (s.mapLine x.line fun l => { l with last := max l.last s.hclk }).performStore st)

/-- WCT_RETURN: a store's completion time comes back and raises the held times of the threads it belongs
to; an acquiring atomic's lanes are held to it (R90, R92, R94). -/
def execWctReturn (st : Nat) (s : State) : Host.Outcome State Fault Refusal :=
  .next (
    match s.stores[st]? with
    | none => s
    | some x =>
      let known := x.st = .performed || (x.st = .arrived && isDevice x.line)
      if !x.live || x.wctBack || !known then s else
      let s := x.tids.foldl (fun s tid =>
        let s := s.mapThread tid fun t => { t with wctd := max t.wctd x.perf, wcts := max t.wcts x.perf }
        if x.acq then s.acquireAt tid x.lanes x.perf else s) s
      s.mapStore st fun x => { x with wctBack := true, live := x.st ≠ .performed })

/-! ### Leases and windows (R89, R103) -/

/-- L1_LEASE_EXPIRE: a copy stops serving loads when the core's HCLK reaches its expiry minus 4 (R89). -/
def execL1LeaseExpire (core line : Nat) (s : State) : Host.Outcome State Fault Refusal :=
  .next { s with copies := s.copies.filter fun c =>
            !(c.core = core && c.line = line && c.expiry ≤ s.coreClock core + 4) }

/-- WINDOW_LEASE_WRITEBACK: a dirty entry of a window writes itself back when its lease reaches its expiry
minus 4 (R103). -/
def execWindowLeaseWriteback (lc win line : Nat) (s : State) : Host.Outcome State Fault Refusal :=
  .next (
    let x := s.lc lc
    let w := rd ({} : Window) x.windows win
    let due := w.entries.any fun e => e.off = line && e.dirty ≠ 0 && e.expiry ≤ s.coreClock x.core + 4
    if w.mapped && due then s.writeBack lc win (fun e => e.off = line) false [] else s)

/-! ### Migration (R105) -/

/-- Moves the cells of n bytes from one place to another. -/
def moveCells (m : List Host.Cell) (a b n : Nat) : List Host.Cell :=
  let rest := m.filter fun c => !(b ≤ c.1 && c.1 < b + n)
  (m.filter fun c => a ≤ c.1 && c.1 < a + n).foldl (fun m c => memPut m (c.1 - a + b) c.2) rest

/-- Whether a page may move to a place: both lie in device memory and apart, and no page of a domain lies across
the end of the page. -/
def State.movable (s : State) (p : Page) (pa : Nat) : Bool :=
  let n := 2 ^ p.log
  isDevice p.pa && pa + n ≤ Config.deviceBytes && pa % n = 0 && (pa + n ≤ p.pa || p.pa + n ≤ pa) &&
  s.domains.all fun d => d.pages.all fun q =>
    q.pa + 2 ^ q.log ≤ p.pa || p.pa + n ≤ q.pa || (p.pa ≤ q.pa && q.pa + 2 ^ q.log ≤ p.pa + n)

/-- Whether the old home of a page has finished with it: no lease on it runs and no store waits there (R105). -/
def State.drained (s : State) (p : Page) : Bool :=
  let inside (a : Nat) : Bool := p.pa ≤ a && a < p.pa + 2 ^ p.log
  !(s.stores.any fun x => x.live && inside x.line && (x.st = .arrived || x.st = .forwarded)) &&
  !(s.lines.any fun l => inside l.addr && l.lease > s.hclk)

/-- Moves a page: its bytes, what its home keeps of its lines, the accesses on their way to it, and every
translation of any domain that names it, installed or in its tables (R105). -/
def State.movePage (s : State) (p : Page) (pa : Nat) : State :=
  let n := 2 ^ p.log
  let inside (a : Nat) : Bool := p.pa ≤ a && a < p.pa + n
  let move (a : Nat) : Nat := if inside a then a - p.pa + pa else a
  let target (a : Nat) : Bool := pa ≤ a && a < pa + n
  { s with
    mem := moveCells s.mem p.pa pa n
    lines := (s.lines.filter fun l => !target l.addr).map fun l => { l with addr := move l.addr }
    flawed := (s.flawed.filter fun a => !target a).map move
    copies := s.copies.filter fun c => !inside c.line
    reqs := s.reqs.map fun r => if r.st = .sent then { r with line := move r.line } else r
    stores := s.stores.map fun x => if x.live && x.st = .accepted then { x with line := move x.line } else x
    domains := s.domains.map fun d => { d with
      pages := d.pages.map (fun q => { q with pa := move q.pa }), past := d.past.map (fun q => { q with pa := move q.pa })
      found := d.found.map (fun q => { q with pa := move q.pa }), moves := d.moves ++ [(p.pa, n, pa)] } }

/-- PAGE_MIGRATION: the migration of a page to a new place begins: from then on its home grants no lease, and the
accesses that arrive for it are queued. Once its leases have run out and its waiting stores have been performed,
the page is copied and the queued accesses are served at the new home (R105). -/
def execPageMigration (asid va pa : Nat) (s : State) : Host.Outcome State Fault Refusal :=
  .next (
    let others := s.moving.filter fun m => m ≠ (asid, va, pa)
    match (s.domain asid).page va with
    | none => { s with moving := others }
    | some p =>
      if !s.movable p pa then { s with moving := others }
      else if !s.moving.contains (asid, va, pa) && s.isMoving p.pa then s
      else if s.drained p then
        { s.movePage p pa with moving := others }
      else { s with moving := others ++ [(asid, va, pa)] })

/-- A record that no wave raises: its wave's fields are free, where the spec states none, and so is LAUNCH where it is of no
launch (R348). -/
def State.strayRecord (s : State) (asid kind core : Nat) (code : TrapCode) (addr : Nat) (launch : Option Dword := none) : State :=
  let (s, a) := s.draw
  let (s, b) := s.draw
  let (s, c) := s.draw
  let x := Config.openValue a
  s.charge asid
    { hclk := s.clock64, code := code, kind := kind, core := core, waveid := x.extractLsb' 0 32,
      slot := fld x 39 32, addr := addr, tag := (Config.openValue b).extractLsb' 0 32,
      launch := launch.getD (Config.openValue c) }

/-- A store, atomic or add that will not be performed ends: its fault is taken as an access's that fails after its issue,
in a relaxation body as one of the call stack, whose spills alone go out before the commit (R317, R326), and so it is for the request that waits for the old values of an atomic (R8, R226). That of a store which no word made
alone is posted to the threads it belongs to; an add of the device that no thread made gives a record (R77, R380,
notes/assumptions/29). -/
def State.failStore (s : State) (n : Nat) (code : TrapCode) : State :=
  match s.stores[n]? with
  | none => s
  | some x =>
    let s := s.mapStore n fun x => { x with live := false, failed := none, late := {} }
    if x.late.lanes.isEmpty then
      let s := x.tids.foldl (fun s tid => s.post tid
        { code := code, addr := x.va, mask := if x.lanes = 0 then BitVec.allOnes 32 else x.lanes, dom := some x.dom }) s
      match x.tids, x.kind with
      | [], .add _ _ => s.strayRecord x.dom 2 x.core code x.va
      | _, _ => s
    else
      let reqs := indices (fun r => r.store = some n && r.st ≠ .done) s.reqs
      let stack := x.kind = .plain
      let s := reqs.foldl (fun s k => s.mapReq k fun r => { r with st := .done, failed := some code }) s
      let s := x.tids.foldl (fun s tid => s.lateTrap tid x.late code x.dom x.va stack) s
      reqs.foldl (fun s k =>
        match s.reqs[k]? with
        | some r => s.mapThread r.tid fun t => t.forget r k
        | none => s) s

/-- Takes the faults of the atomics and adds that met an uncorrectable error at their homes (R354). -/
def State.takeFaults (s : State) : State :=
  (indices (fun x => x.failed.isSome) s.stores).foldl (fun s n =>
    s.failStore n (((s.stores[n]?).bind (·.failed)).getD .eccue)) s

/-! ### Translation walks (R220, R380, R384) -/

/-- Sends on the stores and requests of a page that wait for its translation, the stores first, since the loads of a lane
come after its atomics (R95): a page that does not allow the access ends them with PERM. A load that is sent on is a line
sent to a home (R365); what asked only for the translation of a body's buffered store has it (R317). -/
def State.sendWaiting (s : State) (asid : Nat) (p : Page) : State :=
  let hits (dom va : Nat) : Bool := dom = asid && va / 2 ^ p.log = p.va / 2 ^ p.log
  let place (va : Nat) : Nat := lineOf (p.pa + va % 2 ^ p.log)
  let wrong := indices (fun x => x.live && x.st = .walk && hits x.dom x.va && !(p.w && (p.r || !x.isAtomic))) s.stores
  let s := wrong.foldl (fun s n => s.failStore n .perm) s
  let s : State := { s with stores := s.stores.map fun x =>
      if x.live && x.st = .walk && hits x.dom x.va && !x.fills then
        { x with st := .accepted, line := place x.va, late := if x.isAtomic then x.late else {} } else x }
  (indices (fun r => r.st = .walk && hits r.dom r.va) s.reqs).foldl (fun s n =>
    match s.reqs[n]? with
    | none => s
    | some r =>
      if r.probe then if p.w then s.mapReq n fun r => { r with st := .done, late := {} } else s.failReq n .perm
      else if !p.r then s.failReq n .perm
      else (s.countBy r.tid 5 1).mapReq n fun r =>
        { r with st := .sent, line := place r.va, after := (s.atomsOn r.core (place r.va)).filter fun k => k < r.seen }) s

/-- A store whose page is there goes into the window that covers its line, after the stores of its core that wait there too
and the loads of its lanes, once the window can fetch the line (R90, R95, R103, R105, R218); where no window covers it any
more, to its home. -/
def State.fillStore (s : State) (n : Nat) : State :=
  match s.stores[n]? with
  | none => s
  | some x =>
    let tid := x.tids.headD 0
    let lc := (s.thread tid).lc
    let first (p : Nat) : Bool :=
      !((s.stores.take n).any fun y => y.live && y.core = x.core && y.st = .walk && s.goesTo y (lineOf p))
    match s.translate lc x.dom x.va .store, s.windowAt lc x.dom x.va with
    | .ok p, some (k, w) =>
      let off := s.windowOff k w x.dom x.va
      let fills := (s.winEntry k w off).isNone
      let atoms := (s.atomsOn x.core (lineOf p)).filter fun k => k < n
      if !first p || !s.reqsServed x.after || (fills && (!atoms.isEmpty || s.forwardedOn (lineOf p) || s.isMoving p)) then s
      else if fills && s.poisoned p then s.failStore n .eccue
      else
        (((s.countBy tid (if fills then 5 else 4) 1).fillWindow k w off p).writeWindow k w off x.bytes tid).mapStore n fun x =>
          { x with st := .performed, live := false, wctBack := true, late := {} }
    | .ok p, none => s.mapStore n fun x => { x with st := .accepted, line := lineOf p, fills := false, late := {} }
    | .trap c, _ => s.failStore n c
    | .walk, _ => s

/-- Stores that wait for a page which is there by now are sent on; one whose page will not come ends with XLATE (R220,
R375, R384). -/
def State.sendMapped (s : State) : State :=
  (indices (fun x => x.live && x.st = .walk) s.stores).foldl (fun s n =>
    match s.stores[n]? with
    | none => s
    | some x =>
      if !x.live || x.st ≠ .walk then s else
      match (s.domain x.dom).page x.va with
      | some p => if x.fills && p.w then s.fillStore n else s.sendWaiting x.dom p
      | none =>
        if (s.domain x.dom).ctxmode.getLsbD 0 && (s.domain x.dom).alive then s else s.failStore n .xlate) s

/-- Whether a thread waits for a walk: at a word, a poll, or the fetch of its next run. -/
def Thread.mayWalk (t : Thread) : Bool :=
  t.alive && match t.wait with
    | some (.walk _) | some (.page _ _) | some .poll => true
    | some _ => false
    | none => t.run.isNone

/-- A command that waits for one of some pages will not get it (R380). -/
def Cmd.deny (c : Cmd) (gone : List (Nat × Nat)) : Cmd :=
  match c.hold with
  | some (d, va) => if gone.contains (d, va / 2 ^ 16 * 2 ^ 16) then { c with denied := c.denied ++ [(d, va)] } else c
  | none => c

/-- Replaces every command of a unit. -/
def Unit_.mapCmds (u : Unit_) (f : Cmd → Cmd) : Unit_ := { u with q0 := u.q0.map f, q1 := u.q1.map f, q2 := u.q2.map f }

/-- The pages of a range that the host was asked for will not come: what waits for them meets XLATE (R380). -/
def State.denyPages (s : State) (asid va log : Nat) : State :=
  let gone := ((s.domain asid).misses.filter fun m => m.va / 2 ^ log = va / 2 ^ log).map fun m => (asid, m.va)
  let s : State := { s with threads := s.threads.map fun t =>
    if t.mayWalk then { t with denied := t.denied ++ gone } else t }
  let s := s.mapDomain asid fun d => { d with asks := d.asks.map fun a => (a.1, a.2 || gone.contains (asid, a.1)) }
  (indices (fun d => d.alive) s.domains).foldl (fun s a =>
    (List.range (s.domain a).units.length).foldl (fun s c =>
      (gone.foldl (fun s g => s.denyCommit a c g.1 g.2) s).mapUnit a c fun u => u.mapCmds fun x => x.deny gone) s) s

/-- Ends the wait of the requests and stores of a range with XLATE: an UNMAP of the page, or a destroyed
context (R380). -/
def State.endWaiting (s : State) (asid va log : Nat) : State :=
  let s := s.denyPages asid va log
  let hits (dom a : Nat) : Bool := dom = asid && a / 2 ^ log = va / 2 ^ log
  let s := (indices (fun r => r.st = .walk && hits r.dom r.va) s.reqs).foldl (fun s n => s.failReq n .xlate) s
  (indices (fun x => x.live && x.st = .walk && hits x.dom x.va) s.stores).foldl (fun s n => s.failStore n .xlate) s

/-- TLB_WALK_COMPLETE: the page of a waiting line is mapped, and the lines that wait for it are sent on; a line whose page
will not come ends its wait with the fault (R220, R384). -/
def execTlbWalkComplete (req : Nat) (s : State) : Host.Outcome State Fault Refusal :=
  .next (
    match s.reqs[req]? with
    | none => s
    | some r =>
      if r.st ≠ .walk then s else
      let s := s.ensureMapped r.dom r.va
      match (s.domain r.dom).page r.va with
      | some p => s.sendWaiting r.dom p
      | none =>
        match s.translate (s.thread r.tid).lc r.dom r.va .load with
        | .trap c => s.failReq req c
        | _ => s)

/-! ### Miss queue entries (R380, R378) -/

/-- The 32 bytes of a miss queue entry. -/
def Miss.bytes (m : Miss) (seq : Nat) : List Byte :=
  bytesOf 8 m.va ++ bytesOf 1 m.access ++ bytesOf 1 0 ++ bytesOf 2 m.core ++ bytesOf 4 0 ++ bytesOf 8 m.hclk
  ++ bytesOf 8 seq

/-- Writes the miss queue entries of a domain that its ring has room for (R378), once the hub can perform the writes
(R88, R90). -/
def State.writeMisses (s : State) (asid : Nat) : State :=
  (List.range (s.domain asid).misses.length).foldl (fun s i =>
    let d := s.domain asid
    match d.misses[i]? with
    | none => s
    | some m =>
      let seq := d.mqTail + 1
      let a := hostPlace (d.mqBase + 32 * (seq % d.mqDepth))
      if m.written || d.mqDepth ≤ d.mqTail - s.ctlField asid 0xA8 8 || !s.outClear [(a, 32), (s.ctlPlace asid 0xA0, 8)] then s else
      let s := s.writePlace a (m.bytes seq)
      let s := s.mapDomain asid fun d =>
        { d with mqTail := seq, misses := d.misses.modify i fun m => { m with written := true } }
      (s.setCtl asid 0xA0 seq).raise d.fn 4) s

/-- Writes the entries of every domain that has new misses. -/
def State.flushMisses (s : State) : State :=
  (indices (fun d => d.alive && d.misses.any fun m => !m.written) s.domains).foldl State.writeMisses s

/-! ### Errors of evicted lines (R354) -/

/-- L2_EVICTION_ERROR: a dirty line with an uncorrectable error is evicted: it is poisoned at its home, and
a KIND 4 record goes to the domain that the line belongs to (R354). Reads and atomics of the line that are on
their way are served before it (DESIGN CHOICE, notes/assumptions/54). -/
def execL2EvictionError (asid core line : Nat) (s : State) : Host.Outcome State Fault Refusal :=
  .next (
    match (s.domain asid).place line with
    | none => s
    | some p =>
      let line' := lineOf p
      let out := (s.reqs.any fun r => r.st = .sent && r.line = line') || !(s.stores.all fun x =>
        !(x.live && x.line = line' && x.st ≠ .performed && x.isAtomic))
      if !isDevice p || out then s else
      (s.mapLine p fun l => { l with poisoned := true }).strayRecord asid 4 core .eccue (lineOf line))

end Sys2Proof.Machine
end

