-- ==== Sys2Proof/Machine/Launch.lean ====
section
/-! DEFINITION. Launches: doorbells (R374, R382), the acceptance of launch records (R55 to R59, R145,
R146), dependences and the start on cores (R60, R61), the placement of waves (R36 to R38, R51, R52,
R350), retirement (R53, R54), the finish of launches (R54, R364, R383), and the permit audit (R246). -/

namespace Sys2Proof.Machine

/-! ### Work queues and doorbells (R374, R381, R382) -/

/-- Whether a function is the physical function of its link: each of the two links has one, with up to
1,024 virtual functions after it (R372). -/
def isPhysical (fn : Nat) : Bool := fn = 0 || fn = 1025

/-- The context that a work queue is registered to, and the queue. -/
def State.findQueue (s : State) (queue : Nat) : Option (Nat × WorkQ) :=
  (indices (fun d => d.alive && (d.workq queue).isSome) s.domains).head?.bind fun a =>
    ((s.domain a).workq queue).map fun w => (a, w)

/-- Whether a function reaches a domain: a physical function reaches every one (R374). -/
def Domain.reachedBy (d : Domain) (fn : Nat) : Bool := d.alive && (isPhysical fn || d.fn = fn)

/-- The status of the completion record of a launch, by its queue and sequence number. -/
def State.complete (s : State) (l : Launch) (status : Nat) : State :=
  s.completionRecord l.asid l.queue l.seq status

/-! ### Dependences (R60) -/

/-- One arbiter read of a launch's DEPADDR, once its page is there (R220, R380). -/
def State.readDep (s : State) (n : Nat) : State :=
  match s.launch? n with
  | none => s
  | some l =>
    if l.st ≠ .depends || !s.deviceClear l.asid l.depaddr 8 then s else
    match s.askBytes l.asid l.depaddr 8 with
    | (s, true) => s
    | (s, false) =>
      let (s, got) := s.deviceReads l.asid l.depaddr 8
      match got with
      | some bs =>
        if ofBytes bs ≥ l.depthresh then (s.mapLaunch n fun l => { l with st := .eligible }).answered l.asid l.depaddr 8
        else s
      | none =>
        match s.recordReady l.asid l.queue l.seq with
        | (s, true) => ((s.mapLaunch n fun l => { l with st := .finished }).complete l 0x0B).answered l.asid l.depaddr 8
        | (s, false) => s

/-- The arbiter reads every dependence of a context (R60). -/
def State.readDeps (s : State) (asid : Nat) : State :=
  (indices (fun l => l.asid = asid && l.st = .depends) s.launches).foldl State.readDep s

/-- DEPENDENCE_READ (R60). -/
def execDependenceRead (launch : Nat) (s : State) : Host.Outcome State Fault Refusal :=
  .next (s.readDep launch)

/-- A write to the DOORBELL register of a function: the device reads the TAIL of a queue of the function,
and the context's dependences are read again (R374, R382, R60). -/
def State.doorbell (s : State) (fn : Nat) (value : Dword) : State :=
  if fld value 63 17 ≠ 0 || s.bringUp ≠ 8 then s else
  let q := fld value 16 0
  match s.findQueue q with
  | some (a, _) =>
    if (s.domain a).reachedBy fn && (s.domain a).tdiRun then (s.readTail a q).readDeps a else s
  | none => s

/-- DOORBELL (R382). -/
def execDoorbell (fn : Nat) (value : Dword) (s : State) : Host.Outcome State Fault Refusal :=
  .next (s.doorbell fn value)

/-! ### The launch record (R55 to R59) -/

/-- The field of a launch record. -/
def recField (r : List Byte) (off n : Nat) : Nat := leAt r off n

/-- A launch as its record describes it, without its code. -/
def launchOfRecord (asid queue seq : Nat) (r : List Byte) : Launch :=
  { asid := asid, queue := queue, seq := seq, code := recField r 0 8,
    leadEntry := BitVec.ofNat 32 (recField r 8 4), waveEntry := BitVec.ofNat 32 (recField r 12 4),
    control := BitVec.ofNat 64 (recField r 0x10 8), place := BitVec.ofNat 256 (recField r 0x18 32),
    reqtag := BitVec.ofNat 32 (recField r 0x38 4),
    fmt := (List.range 8).map fun n => BitVec.ofNat 64 (recField r (0x40 + 8 * n) 8),
    bufrec := (List.range 16).map fun n => BitVec.ofNat 128 (recField r (0x80 + 16 * n) 16),
    qbind := (List.range 11).map fun n => BitVec.ofNat 32 (recField r (0x180 + 4 * n) 4),
    compctr := recField r 0x1B0 8, energy := recField r 0x1B8 8, stampbuf := recField r 0x1C0 8,
    handler := BitVec.ofNat 32 (recField r 0x1C8 4), depaddr := recField r 0x1D0 8,
    depthresh := recField r 0x1D8 8, text := recField r 0 8 + 0x100, textPkts := 0 }

/-- CONTROL's fields (R56). -/
def Launch.lstash (l : Launch) : Nat := fld l.control 40 32
/-- LEADLESS. -/
def Launch.leadless (l : Launch) : Bool := l.control.getLsbD 29
/-- HV. -/
def Launch.hv (l : Launch) : Bool := l.control.getLsbD 28
/-- EXSCOPE. -/
def Launch.exscope (l : Launch) : Nat := fld l.control 27 26
/-- WPRI. -/
def Launch.wpri (l : Launch) : Nat := fld l.control 25 24
/-- PRIO. -/
def Launch.prio (l : Launch) : Nat := fld l.control 23 21
/-- DET. -/
def Launch.det (l : Launch) : Bool := l.control.getLsbD 20
/-- WAVES. -/
def Launch.waves (l : Launch) : Nat := fld l.control 19 13
/-- STASH. -/
def Launch.stash (l : Launch) : Nat := fld l.control 12 4
/-- Lane registers of a wave. -/
def Launch.regs (l : Launch) : Nat := 8 * (fld l.control 2 0 + 1)
/-- GX and GY of the GRID word (R57). -/
def Launch.gx (l : Launch) : Nat := fld l.place 7 0
/-- GY. -/
def Launch.gy (l : Launch) : Nat := fld l.place 15 8

/-- The enabled cores in ascending order. -/
def State.enabledCores (s : State) : List Nat := (List.range Config.cores).filter fun c => s.enabled.getLsbD c

/-- Cores of the set of a normal launch that are enabled. -/
def State.coreSet (s : State) (l : Launch) : List Nat := s.enabledCores.filter fun c => l.place.getLsbD c

/-- Whether a reserved field of a launch record is nonzero, LENT of a preset among them (R59, R78,
R213). -/
def reservedBad (l : Launch) (r : List Byte) : Bool :=
  fld l.control 63 41 ≠ 0 || fld l.control 31 30 ≠ 0 || l.control.getLsbD 3
  || (if l.det then fld l.place 255 16 ≠ 0 else fld l.place 255 192 ≠ 0)
  || recField r 0x3C 4 ≠ 0 || recField r 0x1AC 4 ≠ 0 || recField r 0x1CC 4 ≠ 0 || recField r 0x1E0 32 ≠ 0
  || l.fmt.any (fun f => fld f 63 24 ≠ 0)
  || l.bufrec.any (fun b => badRecord b || b.getLsbD 63)
  || l.qbind.any (fun x => fld x 31 30 ≠ 3 && bindReserved x) || l.qbind.any (fun x => fld x 29 28 ≠ 0)

/-- The first failing check of a launch record (R59), or nothing. -/
def State.rejection (s : State) (l : Launch) (r : List Byte) (addr : Nat) : Option Nat :=
  let entryBad (e : Word) : Bool := e.toNat % 3 ≠ 0 || e.toNat ≥ 3 * l.textPkts
  let fifoBad (x : Word) : Bool :=
    (fld x 31 30 = 1 && fld x 27 16 * 256 + (fld x 7 0 + 1) * 8 > l.lstash * 4096)
    || (fld x 31 30 = 2 && !s.bindable l.asid (fld x 16 0))
  if reservedBad l r then some 1
  else if (!l.leadless && entryBad l.leadEntry) || (l.waves ≠ 0 && entryBad l.waveEntry)
      || (l.hv && entryBad l.handler) then some 2
  else if l.exscope = 0 || l.waves > 64 || l.qbind.any (fun x => fld x 31 30 = 3)
      || (l.leadless && l.waves = 0) then some 3
  else if l.stash > 256 || l.lstash > 256 || l.lstash + l.stash > 256 then some 4
  else if if l.det then l.gx = 0 || l.gy = 0 || l.gx * l.gy > Config.cores else (s.coreSet l).isEmpty then some 5
  else if l.qbind.any fifoBad then some 6
  else if l.code % 256 ≠ 0 || l.compctr % 8 ≠ 0 || l.depaddr % 8 ≠ 0 || addr % 512 ≠ 0 then some 7
  else none

/-- Accepts a launch: its record is read once and checked (R55, R59, R145). A record that cannot be read is
rejected; the spec gives that no status, which is free. -/
def State.acceptRecord (s : State) (asid queue seq addr : Nat) : State :=
  match s.deviceRead asid addr 512 with
  | none =>
    let (s, k) := s.draw
    s.completionRecord asid queue seq (fld (Config.openValue k) 7 0)
  | some r =>
    let l := launchOfRecord asid queue seq r
    let l := { l with textPkts := s.imagePkts asid l.code }
    match s.rejection l r addr with
    | some st => s.completionRecord asid queue seq st
    | none =>
      let l := { l with st := if l.depaddr = 0 then .eligible else .depends,
                        todo := if l.det then List.range (l.gx * l.gy) else s.coreSet l }
      ({ s with launches := s.launches ++ [l] }).readDep s.launches.length

/-- Brings in the pages of n bytes that the arbiter reads; whether it waits: for one of them, or at the homes (R60, R90,
R105, R146, R375, R380). -/
def State.askRead (s : State) (asid va n : Nat) : State × Bool :=
  match s.askBytes asid va n with
  | (s, true) => (s, true)
  | (s, false) => (s, !s.deviceClear asid va n)

/-- The same for what the acceptance of a launch reads: its record and its code object's header. -/
def State.askRecord (s : State) (asid addr : Nat) : State × Bool :=
  match s.askRead asid addr 512 with
  | (s, true) => (s, true)
  | (s, false) =>
    match s.deviceRead asid addr 512 with
    | some r => s.askRead asid (recField r 0 8) 256
    | none => (s, false)

/-- The arbiter has read a launch's record and header: their lines count, and its waits for their pages are over (R13,
R221). -/
def State.answerRecord (s : State) (asid addr : Nat) : State :=
  let s := (s.countLines asid addr 512).answered asid addr 512
  match s.deviceRead asid addr 512 with
  | some r => (s.countLines asid (recField r 0 8) 256).answered asid (recField r 0 8) 256
  | none => s

/-- The arbiter takes the entry seq of a launch queue, once it can be read (R55, R382). -/
def State.takeEntry (s : State) (asid : Nat) (w : WorkQ) (seq : Nat) : State :=
  let at_ := s.blockField asid w.block 0x00 8 + 16 * (seq % s.workDepth asid w)
  match s.askRead asid at_ 16 with
  | (s, true) => s
  | (s, false) =>
    let addr := s.blockField asid at_ 8 8
    if s.blockField asid at_ 0 8 ≠ seq then
      ((((s.countLines asid at_ 16).answered asid at_ 16).completionRecord asid w.queue seq 9).mapWorkq asid w.queue fun w =>
        { w with stopped := true })
    else
      match s.askRecord asid addr with
      | (s, true) => s
      | (s, false) =>
        ((((s.countLines asid at_ 16).answered asid at_ 16).consumed asid w.queue seq).acceptRecord asid w.queue seq addr).answerRecord asid addr

/-- LAUNCH_ACCEPT: the arbiter takes the next entry of a launch queue, once the pages that it reads are there and
the homes let it write the queue's records; entries that WITHDRAW has removed are passed over, and a wrong SEQ stops
the queue (R55, R88, R382, R383, R256). A TAIL whose page was awaited is read first (R220, R382). -/
def execLaunchAccept (queue : Nat) (s : State) : Host.Outcome State Fault Refusal :=
  .next (
    match s.findQueue queue with
    | none => s
    | some (asid, w) =>
      let seq := s.blockField asid w.block 0x18 8 + 1
      let depth := s.workDepth asid w
      let done := s.blockField asid w.block 0x20 8
      if s.bringUp ≠ 8 then s
      else if w.rung then s.readTail asid queue
      else if w.stopped || s.workType asid w ≠ 0 || seq > w.tail || done + depth < seq
          || s.blockField asid w.block 0x0C 2 ≠ asid then s
      else
        match s.recordReady asid queue seq with
        | (s, false) => s
        | (s, true) =>
          if w.written.contains seq || seq ≤ done then s.consumed asid queue seq else s.takeEntry asid w seq)

/-! ### Room on a core (R17, R36, R49) -/

/-- The threads that occupy a core: those of contexts that are switched in. -/
def State.onCore (s : State) (core : Nat) : List Thread :=
  s.threads.filter fun t => t.alive && t.core = core && (s.domain (s.lc t.lc).asid).running

/-- The launches on a core, of contexts that are switched in. -/
def State.lcsOn (s : State) (core : Nat) : List LC :=
  s.lcs.filter fun x => x.live && x.core = core && (s.domain x.asid).running

/-- The free slots of a core, ascending (R36). -/
def State.freeSlots (s : State) (core : Nat) : List Nat :=
  (List.range Config.slots).filter fun n => !((s.onCore core).any fun t => !t.isLead && t.slot = n)

/-- LSTASH of a launch-on-core in bytes. -/
def State.lstashOf (s : State) (x : LC) : Nat := ((s.launch? x.launch).map fun l => l.lstash * 4096).getD 0

/-- Stash bytes of a core that nothing holds. -/
def State.freeStash (s : State) (core : Nat) : Nat :=
  Config.stashBytes - ((s.lcsOn core).map s.lstashOf).sum - ((s.onCore core).map (·.stashSize)).sum

/-! ### Starting a launch on a core (R60, R61) -/

/-- The physical core of a logical core (R61). -/
def State.physical (s : State) (l : Nat) : Nat :=
  let e := s.enabledCores
  rd 0 e (l % max 1 e.length)

/-- The units of a launch's plan on a core that have not started: the core itself, or its logical cores. -/
def State.planned (s : State) (l : Launch) (core : Nat) : List Nat :=
  if l.det then l.todo.filter fun k => s.physical k = core else l.todo.filter (· = core)

/-- Whether a deterministic launch has begun on a core and not finished there (R61). -/
def State.detHolds (s : State) (n core : Nat) : Bool :=
  match s.launch? n with
  | none => false
  | some l =>
    l.det && l.st = .eligible &&
    let mine := (List.range (l.gx * l.gy)).filter fun k => s.physical k = core
    (mine.any fun k => !l.todo.contains k) &&
      (mine.any fun k => l.todo.contains k || l.running.contains k)

/-- Whether a deterministic launch other than n holds a core. -/
def State.heldByOther (s : State) (n core : Nat) : Bool :=
  (List.range s.launches.length).any fun m => m ≠ n && s.detHolds m core

/-- Whether launch n can start on a core now (R28, R49, R60, R61). -/
def State.canStart (s : State) (n core : Nat) : Bool :=
  match s.launch? n with
  | none => false
  | some l =>
    let d := s.domain l.asid
    let here := s.lcsOn core
    l.st = .eligible && d.starts && s.enabled.getLsbD core
    && !(s.planned l core).isEmpty && !s.heldByOther n core
    && (l.leadless || (here.filter fun x => x.lead.isSome).length < Config.leadThreads)
    && (if l.det then
          if s.detHolds n core then !(here.any fun x => x.launch = n) else here.isEmpty
        else true)
    && l.lstash * 4096 ≤ s.freeStash core

/-- Whether an eligible launch of the same context that comes first by PRIO and arrival can start there
too (R60). -/
def State.comesFirst (s : State) (n core : Nat) : Bool :=
  match s.launch? n with
  | none => false
  | some l => (List.range s.launches.length).any fun m =>
      match s.launch? m with
      | some k => m ≠ n && k.asid = l.asid && (k.prio > l.prio || (k.prio = l.prio && m < n)) && s.canStart m core
      | none => false

/-- The lanes of a new thread (R38). -/
def newLanes (n : Nat) (entry : Word) : List Lane :=
  (List.range 32).map fun l => if l < n then { st := .live, pc := entry, npc := entry } else {}

/-- A new thread of a launch-on-core (R38). -/
def newThread (l : Launch) (lc core : Nat) (kind : ThreadKind) (n : Nat) (entry : Word) : Thread :=
  { alive := true, kind := kind, lc := lc, core := core, dom := l.asid, code := l.text, textPkts := l.textPkts,
    regs := if kind = .lead then 0 else l.regs, lanes := newLanes n entry,
    b := l.bufrec.map fun b => { bits := b }, curtag := l.reqtag }

/-- Adds a thread. -/
def State.addThread (s : State) (t : Thread) : State := { s with threads := s.threads ++ [t] }

/-- The queues of a new launch-on-core: q3 and q4 of 64 entries, and the bindings of q5 to q15 (R48,
R58). -/
def newQueues (l : Launch) : List Fifo :=
  let q : Fifo := { kind := 1, depth := 64, permits := 64 }
  [q, q] ++ l.qbind.map fun x => bindFifo {} x

/-- Adds an empty launch-on-core of a launch; the guess store is cleared where no launch of the context is resident
(R315). -/
def State.addLC (s : State) (n : Nat) (l : Launch) (core logcore wave0 : Nat) : State :=
  let s := if (s.lcsOn core).any fun x => x.asid = l.asid then s else
    s.mapUnit l.asid core fun u => { u with gs := {} }
  let s : State := { s with lcs := s.lcs ++
    [{ launch := n, core := core, logcore := logcore, asid := l.asid, live := true, nextWave := wave0,
       queues := newQueues l }] }
  (l.qbind.filter fun x => fld x 31 30 = 2).foldl (fun s x => s.readTail l.asid (fld x 16 0)) s

/-- Starts a launch on a core, or on a logical core: its stash area, its lead thread, and its initial waves
to be placed (R47, R60, R61). -/
def State.startOn (s : State) (n : Nat) (l : Launch) (core key : Nat) : State :=
  let lc := s.lcs.length
  let s := (s.addLC n l core key l.waves).mapLC lc fun x => { x with toPlace := l.waves }
  let s := s.mapLaunch n fun l => { l with todo := l.todo.filter (· ≠ key), running := l.running ++ [key] }
  if l.leadless then s else
  let tid := s.threads.length
  let t : Thread := { newThread l lc core .lead 1 l.leadEntry with waveid := 0xFFFFFFFF, slot := 64, counter := l.compctr }
  (s.addThread t).mapLC lc fun x => { x with lead := some tid }

/-- LAUNCH_START_CORE: a launch of normal mode starts on a core (R60). -/
def execLaunchStartCore (launch core : Nat) (s : State) : Host.Outcome State Fault Refusal :=
  .next (
    match s.launch? launch with
    | none => s
    | some l =>
      if l.det || !s.canStart launch core || s.comesFirst launch core then s else
      s.startOn launch l core core)

/-- The units of a core as a logical core finds them (R61). -/
def Unit_.fresh (u : Unit_) : Unit_ :=
  { u with bank0 := {}, bank1 := {}, active := false, tiles := [], tags := [], prompts := [], pair := {},
           gs := {}, held := [], region := none }

/-- LOGICAL_CORE_START: a core starts the next logical core of a deterministic launch with fresh state
(R61). -/
def execLogicalCoreStart (launch core : Nat) (s : State) : Host.Outcome State Fault Refusal :=
  .next (
    match s.launch? launch with
    | none => s
    | some l =>
      if !l.det || !s.canStart launch core || s.comesFirst launch core then s else
      match sortBy (fun k => k) (s.planned l core) with
      | [] => s
      | key :: _ => (s.mapUnit l.asid core Unit_.fresh).startOn launch l core key)

/-! ### Placing waves (R36 to R38, R51, R52, R62, R350) -/

/-- WAVE_PLACE: an initial wave takes the lowest free slot of its core (R36 to R38). -/
def execWavePlace (lc : Nat) (s : State) : Host.Outcome State Fault Refusal :=
  .next (
    let x := s.lc lc
    match s.launch? x.launch, (s.freeSlots x.core).head? with
    | some l, some slot =>
      let bytes := l.stash * 4096
      if !x.live || x.toPlace = 0 || !(s.domain x.asid).starts || bytes > s.freeStash x.core then s else
      let t := newThread l lc x.core .initial 32 l.waveEntry
      let t := { t with waveid := BitVec.ofNat 32 (l.waves - x.toPlace), slot := slot, cls := l.wpri,
                        counter := l.compctr, stashSize := bytes }
      (s.addThread t).mapLC lc fun x => { x with toPlace := x.toPlace - 1 }
    | _, _ => s)

/-- Whether a core has room for a child: a slot, its footprint, and the launch's stash area where the
launch is not there yet (R36, R52). -/
def State.roomFor (s : State) (n : Nat) (l : Launch) (core : Nat) : Bool :=
  let here := (s.lcsOn core).any fun x => x.launch = n
  s.enabled.getLsbD core && !(s.freeSlots core).isEmpty && !s.heldByOther n core
  && (l.stash + if here then 0 else l.lstash) * 4096 ≤ s.freeStash core

/-- Whether a launch has started on a core: its lead thread comes before any other of its threads there (R47), so a
child goes to no core of the die that the launch has not reached (DEDUCED, notes/assumptions/37). -/
def State.reached (s : State) (n core : Nat) : Bool := s.lcs.any fun x => x.launch = n && x.core = core

/-- The core a child is placed on: its parent's, or the one of the die with the most free slots, the lowest
on a tie; of a deterministic launch its parent's alone (R52, R62). Cores that lack the stash for it do not count
(DESIGN CHOICE, notes/assumptions/55). -/
def State.childCore (s : State) (c : Child) (n : Nat) (l : Launch) : Option Nat :=
  if s.roomFor n l c.core then some c.core
  else if l.det then none
  else
    let die := c.core / Config.coresPerDie
    let cores := ((List.range Config.coresPerDie).map fun i => die * Config.coresPerDie + i).filter fun k =>
      s.reached n k && s.roomFor n l k
    (sortBy (fun k => Config.slots - (s.freeSlots k).length) cores).head?

/-- The WAVEID that comes next on a core for a launch that has been there before (R37). -/
def State.nextWaveOn (s : State) (n core : Nat) : Nat :=
  ((s.lcs.filter fun x => x.launch = n && x.core = core).map (·.nextWave)).foldl max 0

/-- Whether a launch's initial waves still wait for room, which come before a child: of a deterministic launch those
of the child's logical core (R51, R62; DEDUCED, notes/assumptions/68). -/
def State.wavesWait (s : State) (c : Child) (n : Nat) (l : Launch) : Bool :=
  if l.det then (s.lc c.lc).toPlace > 0 else s.lcs.any fun x => x.live && x.launch = n && x.toPlace > 0

/-- Places a child, if its launch's initial waves are placed and a core has room; nothing where it must
wait (R51, R52). -/
def State.placeChild (s : State) (c : Child) : Option State :=
  let p := s.lc c.lc
  match s.launch? p.launch with
  | none => none
  | some l =>
    if !(s.domain p.asid).starts || s.wavesWait c p.launch l then none else
    match s.childCore c p.launch l with
    | none => none
    | some core =>
      let old := findIdx? (fun x => x.live && x.launch = p.launch && x.core = core) s.lcs
      let lc := old.getD s.lcs.length
      let s := if old.isSome then s else s.addLC p.launch l core core (s.nextWaveOn p.launch core)
      let x := s.lc lc
      let t := newThread l lc core .child c.lanes c.entry
      let t := { t with waveid := c.waveid.getD (BitVec.ofNat 32 x.nextWave), slot := (s.freeSlots core).headD 0,
                        cls := c.cls, counter := c.counter, stashSize := l.stash * 4096, depth := c.depth,
                        arg0 := c.arg0, arg1 := c.arg1, curtag := c.curtag }
      let s := s.addThread t
      some (if c.waveid.isSome then s else s.mapLC lc fun x => { x with nextWave := x.nextWave + 1 })

/-- The dispatcher's next bin with children, in ascending order after the current one (R51). -/
def Die.nextBin (d : Die) : Option Nat :=
  ((List.range 64).map fun i => (d.bin + 1 + i) % 64).find? fun b =>
    d.pend.any fun c => c.waveid.isNone && c.bin = b

/-- Makes the next bin current when the current one has been emptied: its children of that moment are the
bin's turn (R51). -/
def Die.turnOver (d : Die) : Die :=
  if !d.turn.isEmpty then d else
  match d.nextBin with
  | none => d
  | some b =>
    { d with bin := b, turn := d.pend.filter fun c => c.waveid.isNone && c.bin = b,
             pend := d.pend.filter fun c => !(c.waveid.isNone && c.bin = b) }

/-- The first child of each deterministic logical core, in spawn order (R62). -/
def Die.detHeads (d : Die) : List Child :=
  let det := d.pend.filter fun c => c.waveid.isSome
  (indices (fun _ => true) det).filterMap fun i =>
    (det[i]?).filter fun c => !((det.take i).any fun e => e.lc = c.lc)

/-- CHILD_PLACE: a die's dispatcher places the next child of its bin's turn, or the next child of a
deterministic logical core (R51, R52, R62). The children of a context that is switched out stay where they are, and the
others of their bin are placed past them (DESIGN CHOICE, notes/assumptions/82). -/
def execChildPlace (die : Nat) (s : State) : Host.Outcome State Fault Refusal :=
  .next (
    let s' := s.mapDie die Die.turnOver
    let d := s'.die die
    let runs (c : Child) : Bool := (s.domain (s.lc c.lc).asid).starts
    match (d.turn.find? runs).bind fun c => (s'.placeChild c).map fun t => (c, t) with
    | some (c, t) => t.mapDie die fun d => { d with turn := d.turn.erase c }
    | none =>
      match d.detHeads.findSome? fun c => (s'.placeChild c).map fun t => (c, t) with
      | some (c, t) => t.mapDie die fun d => { d with pend := d.pend.erase c }
      | none => s')

/-- HANDLER_WAVE_START: the launch's handler wave for its next record is placed in a free slot (R350). Its WAVEID is the
next of the launch's series on the core as it is placed. In deterministic mode, whose series R37 gives to the waves in the
order of their spawning and R63 keeps from timing, it takes none of it: the WAVEID is free (DESIGN CHOICE,
notes/assumptions/73). -/
def execHandlerWaveStart (lc : Nat) (s : State) : Host.Outcome State Fault Refusal :=
  .next (
    let x := s.lc lc
    let busy := x.handler.any fun i => (s.thread i).alive
    match s.launch? x.launch, (s.freeSlots x.core).head?, x.toHandle with
    | some l, some slot, (addr, seq) :: rest =>
      if !x.live || busy || !(s.domain x.asid).starts then s else
      let tid := s.threads.length
      let (s, id) := if l.det then let (s, k) := s.draw; (s, (Config.openValue k).extractLsb' 0 32)
        else (s.mapLC lc fun x => { x with nextWave := x.nextWave + 1 }, BitVec.ofNat 32 x.nextWave)
      let t := newThread l lc x.core .handler 1 l.handler
      let t := { t with waveid := id, slot := slot, cls := 3,
                        arg0 := BitVec.ofNat 64 addr, arg1 := BitVec.ofNat 64 seq }
      (s.addThread t).mapLC lc fun x => { x with toHandle := rest, handler := some tid }
    | _, _, _ => s)

/-! ### Retirement (R53, R54) -/

/-- Whether a window of a core holds bytes that a thread wrote and that are not written back (R92, R103). -/
def State.dirtyOf (s : State) (tid : Nat) : Bool :=
  s.lcs.any fun x => x.live && x.core = (s.thread tid).core &&
    x.windows.any fun w => w.entries.any fun e => e.dirty ≠ 0 && e.writers.contains tid

/-- Whether every store of a thread has been performed at its launch's exit scope: the core's HCLK is at or above the
held time for the scope plus 4, and what raises that held time has come about (R53, R92). -/
def State.exitDone (s : State) (tid : Nat) : Bool :=
  let t := s.thread tid
  let clk := s.coreClock t.core
  let scope := ((s.launchOf tid).map Launch.exscope).getD 1
  !s.stampsOut tid &&
  if scope ≤ 1 then t.wctc + 4 ≤ clk
  else !s.dirtyOf tid && !s.wctOut tid && (if scope = 2 then t.wctd else t.wcts) + 4 ≤ clk

/-- The LAUNCH register of a launch-on-core's launch (R356). -/
def State.launchWord (s : State) (lc : Nat) : Option Dword := (s.launch? (s.lc lc).launch).map launchReg

/-- Adds 1 with release to a completion counter, for a launch-on-core, which is charged for the line (R364); a counter that
cannot be written gives a record (notes/assumptions/29). -/
def State.bump (s : State) (lc counter : Nat) : State :=
  let x := s.lc lc
  if counter = 0 then s else
  match s.deviceAdd x.asid x.core counter 1 with
  | (s, .ok _) => s.spendFree lc [4, 5, 6]
  | (s, .error code) => s.strayRecord x.asid 2 x.core code counter (s.launchWord lc)

/-- Whether a thread may retire: no live or parked lane, no run, its stores performed (R53). -/
def State.mayRetire (s : State) (tid : Nat) : Bool :=
  let t := s.thread tid
  t.alive && t.participating = 0 && t.run.isNone && (s.domain (s.ctxOf tid)).goes && s.exitDone tid

/-- Takes a thread out of its slot: it leaves its cast, and faults posted to it give records (R53, R166,
R77). -/
def State.dropThread (s : State) (tid : Nat) : State :=
  let posted := (s.thread tid).posted
  let s := s.leaveCast tid
  let s := s.mapThread tid fun t => { t with alive := false, posted := [], stashSize := 0, stash := [] }
  posted.foldl (fun s p => s.post tid p) s

/-- WAVE_RETIRE (R53). -/
def execWaveRetire (tid : Nat) (s : State) : Host.Outcome State Fault Refusal :=
  .next (
    let t := s.thread tid
    if t.isLead || !s.mayRetire tid then s
    else (s.dropThread tid).bump t.lc t.counter)

/-- LEAD_THREAD_RETIRE: the add to the launch's counter follows the energy adds of the core where the launch
names an energy record (R54, R364). -/
def execLeadThreadRetire (tid : Nat) (s : State) : Host.Outcome State Fault Refusal :=
  .next (
    let t := s.thread tid
    if !t.isLead || !s.mayRetire tid then s
    else
      let s' := s.dropThread tid
      if ((s.launchOf tid).map (·.energy)).getD 0 ≠ 0 then s' else s'.bump t.lc t.counter)

/-! ### The finish (R54, R231, R251, R266, R362, R364, R383) -/

/-- Whether nothing but commands and tags of a launch-on-core remains: no thread, no child, no record to
handle or that its handler will be given (R350), no stamp. R54 names the threads and the commands: that a child which waits for its place, and a record which waits
for its handler wave, hold the finish on the core is the model's choice (DESIGN CHOICE, notes/assumptions/74). -/
def State.onlyCommands (s : State) (lc : Nat) : Bool :=
  let x := s.lc lc
  let childIn (c : Child) : Bool := c.lc = lc
  x.toPlace = 0 && x.stamps.isEmpty && x.adds.isEmpty && x.toHandle.isEmpty
  && !((indices (fun d => d.alive) s.domains).any fun a => (s.domain a).records.any fun r => s.handledBy a r = some lc)
  && !(s.threads.any fun t => t.alive && t.lc = lc)
  && !(s.dies.any fun d => d.pend.any childIn || d.turn.any childIn)

/-- The nodes that can never start are discarded, each with a record (R54, R251). -/
def State.orphans (s : State) (asid core : Nat) (cs : List Cmd) : State :=
  cs.foldl (fun s c =>
    let t := s.thread c.tid
    (s.mapUnit asid core fun u => u.dropCmd c.id).charge asid
      { hclk := s.coreClock core, code := .graph, kind := 2, core := core, waveid := t.waveid,
        slot := t.slotByte, node := c.node, tag := c.tag,
        launch := ((s.launchOf c.tid).map launchReg).getD 0, lc := if t.kind = .handler then none else some c.lc }) s

/-- The energy adds of a core (R364): their store numbers. -/
def State.energyAdds (s : State) (lc : Nat) (addr : Nat) : State × List Nat :=
  let x := s.lc lc
  (List.range 8).foldl (fun (s, ns) k =>
    match s.deviceAdd x.asid x.core (addr + 8 * k) (rd 0 x.energy k) with
    | (s, .ok n) => (s, ns ++ [n])
    | (s, .error code) => (s.strayRecord x.asid 2 x.core code (addr + 8 * k) (s.launchWord lc), ns)) (s, [])

/-- Frees what a launch-on-core held (R227, R238, R244). Decrements that are held for nodes of the launch stay in the
table of R250 (DESIGN CHOICE, notes/assumptions/77). -/
def State.freeLC (s : State) (lc : Nat) : State :=
  let x := s.lc lc
  let s := s.mapLaunch x.launch fun l =>
    let key := if l.det then x.logcore else x.core
    { l with running := l.running.filter (· ≠ key) }
  s.mapLC lc fun x =>
    { x with live := false, lstash := [], windows := [], queues := [], casts := [], locks := [], lockPages := [] }

/-- A launch is gone from a core: its lead thread is counted, where the energy adds came before (R54, R364). -/
def State.leaveCore (s : State) (lc : Nat) (l : Launch) : State :=
  let x := s.lc lc
  (if x.lead.isSome && l.energy ≠ 0 then s.bump lc l.compctr else s).freeLC lc

/-- LAUNCH_FINISH_CORE: a launch finishes on a core: its windows are written back and its energy is added, and
once those stores have been performed its lead thread is counted and it is gone; nodes that cannot start are discarded
(R54, R231, R364). -/
def execLaunchFinishCore (lc : Nat) (s : State) : Host.Outcome State Fault Refusal :=
  .next (
    let x := s.lc lc
    let u := s.unit x.asid x.core
    let cs := u.cmdsAll.filter fun c => c.lc = lc
    let tags := u.tags.any fun g => g.live && g.lc = lc && g.proxyOf.isNone
    match s.launch? x.launch with
    | none => s
    | some l =>
      if !x.live || !(s.domain x.asid).goes || !s.onlyCommands lc || tags
          || cs.any (fun c => c.st ≠ .queued || c.count = 0) then s
      else if !cs.isEmpty then s.orphans x.asid x.core cs
      else
        match x.finishing with
        | some ns => if s.storesDone ns then s.leaveCore lc l else s
        | none =>
          let before := s.stores.length
          let s := (List.range 16).foldl (fun s n => s.unmapWindow lc n []) s
          let s := if l.energy = 0 then s else (s.energyAdds lc l.energy).1
          let owed := (List.range s.stores.length).drop before
          if owed.isEmpty then s.leaveCore lc l else s.mapLC lc fun x => { x with finishing := some owed })

/-- LAUNCH_FINISH: a launch that has finished on every core it used completes; its record is written, and the
context's dependences are read again (R54, R60, R383). -/
def execLaunchFinish (launch : Nat) (s : State) : Host.Outcome State Fault Refusal :=
  .next (
    match s.launch? launch with
    | none => s
    | some l =>
      if l.st ≠ .eligible || !l.todo.isEmpty || !l.running.isEmpty || s.lcs.any (fun x => x.live && x.launch = launch) then s
      else
        match s.recordReady l.asid l.queue l.seq with
        | (s, false) => s
        | (s, true) => ((s.mapLaunch launch fun l => { l with st := .finished }).complete l 0).readDeps l.asid)

/-! ### The permit audit (R246) -/

/-- Whether a link's permits and entries do not add up to its depth. -/
def Fifo.mismatch (f : Fifo) : Bool := (f.kind = 1 || f.kind = 3) && !f.frozen && f.permits + f.entries.length ≠ f.depth

/-- Whether the permits of a host work queue and the entries that the device knows of do not add up to its
depth. -/
def State.workMismatch (s : State) (asid : Nat) (w : WorkQ) : Bool :=
  let held := if s.workType asid w = 1 then w.tail - s.blockField asid w.block 0x18 8
    else s.blockField asid w.block 0x10 8 - w.cons
  w.permits + held ≠ s.workDepth asid w

/-- Whether the link of a queue register does not add up. -/
def State.linkBad (s : State) (lc q : Nat) : Bool :=
  let f := (s.lc lc).fifo q
  f.mismatch || (!f.frozen && (s.boundQ lc q).any (s.workMismatch (s.lc lc).asid))

/-- Whether the auditor can read the block of the host work queue that a queue register is bound to: its page is there,
or is asked for, and its home serves the read (R90, R105, R220). -/
def State.auditReads (s : State) (lc q : Nat) : State × Bool :=
  let asid := (s.lc lc).asid
  match s.boundQ lc q with
  | none => (s, true)
  | some w =>
    match s.askBytes asid w.block 64 with
    | (s, true) => (s, false)
    | (s, false) =>
      if s.deviceClear asid w.block 64 && (s.deviceRead asid w.block 64).isSome then
        ((s.answered asid w.block 64).readConsumed asid w.queue, true)
      else (s, false)

/-- Freezes the links of a launch-on-core that do not add up, with a record of each; one whose block cannot be read now
waits for the next audit. -/
def State.auditLC (s : State) (lc : Nat) : State :=
  (List.range 13).foldl (fun s k =>
    let x := s.lc lc
    match s.auditReads lc (k + 3) with
    | (s, false) => s
    | (s, true) =>
      if s.linkBad lc (k + 3) then
        (s.mapFifo lc (k + 3) fun f => { f with frozen := true }).strayRecord x.asid 5 x.core .lostpermit 0 (s.launchWord lc)
      else s) s

/-- Freezes the Copy Engine channels of a context with an end on a die that do not add up. -/
def State.auditChannels (s : State) (asid die : Nat) : State :=
  (List.range (Config.dies * Config.dies)).foldl (fun s k =>
    let f : Fifo := rd {} (s.domain asid).channels k
    if (k / Config.dies = die || k % Config.dies = die) && f.mismatch then
      (s.mapDomain asid fun d =>
        { d with channels := upd {} d.channels k fun f => { f with frozen := true } }).strayRecord asid 5
          (die * Config.coresPerDie) .lostpermit 0
    else s) s

/-- PERMIT_AUDIT: every 4,096 ticks a die's auditor checks the links with an end on the die (R246). -/
def execPermitAudit (die : Nat) (s : State) : Host.Outcome State Fault Refusal :=
  .next (
    if s.hclk < (s.die die).audit + 4096 then s else
    let s := s.mapDie die fun d => { d with audit := s.hclk / 4096 * 4096 }
    let on := indices (fun x => x.live && x.core / Config.coresPerDie = die && (s.domain x.asid).running) s.lcs
    let s := on.foldl State.auditLC s
    (indices (fun d => d.alive && d.running) s.domains).foldl (fun s a => s.auditChannels a die) s)

end Sys2Proof.Machine
end

