-- ==== Sys2Proof/Machine/Power.lean ====
section
/-! DEFINITION. Pre-emption and restore of contexts (R353), gang switches (R385), debug stops (R367,
R379), clock steps (R23), the house clock's slew (R21), the destruction of domains (R375, R388) and
the resets (R390). -/

namespace Sys2Proof.Machine

/-- A list of bytes cut or padded to a length. -/
def sized (n : Nat) (bs : List Byte) : List Byte := (List.range n).map fun i => rd 0 bs i

/-- A tick of HCLK that the host names in 64 bits, as the state counts ticks: that of the present round of HCLK (R19,
R22; DEDUCED, notes/assumptions/7). -/
def State.longClock (s : State) (t : Nat) : Nat := t + s.hclk / 2 ^ 64 * 2 ^ 64

/-! ### Stopping a context (R35, R353, R367) -/

/-- The live threads of a context. -/
def State.ctxThreads (s : State) (asid : Nat) : List Nat :=
  indices (fun t => t.alive && (s.lc t.lc).asid = asid) s.threads

/-- Whether every thread of a context is stopped. -/
def State.allStopped (s : State) (asid : Nat) : Bool := (s.ctxThreads asid).all fun i => (s.thread i).stopped

/-- Threads stop where they stand, mid-run included (R35). -/
def State.stopEach (s : State) (ts : List Nat) : State :=
  ts.foldl (fun s i => (s.releaseSide i).mapThread i fun t => { t with stopped := true }) s

/-- Every wave and lead thread of a context stops. -/
def State.stopThreads (s : State) (asid : Nat) : State := s.stopEach (s.ctxThreads asid)

/-- The threads of a context go on from where they were stopped. -/
def State.goThreads (s : State) (asid : Nat) : State :=
  (s.ctxThreads asid).foldl (fun s i => s.mapThread i fun t => { t with stopped := false }) s

/-- Whether a load or an atomic of a context's threads has not come back (R223). -/
def State.returnsOut (s : State) (asid : Nat) : Bool :=
  (s.ctxThreads asid).any fun i => s.loadsOut i || s.atomsOut i

/-- A waiting poll is saved as waiting and begins its test afresh (R223). -/
def Thread.afresh (t : Thread) : Thread :=
  if t.wait = some .poll then { t with poll := none, wait := none } else { t with poll := none }

/-- The windows of a launch-on-core are written back and emptied (R353, R231). -/
def State.emptyWindows (s : State) (lc : Nat) : State :=
  (List.range 16).foldl (fun s n =>
    if (s.window lc n).mapped then s.writeBack lc n (fun _ => true) false [] else s) s

/-- The L1 copies that a domain loaded, and those of the lines of its pages, are dropped. -/
def State.dropCopies (s : State) (asid : Nat) : State :=
  let inside (a : Nat) : Bool := (s.domain asid).pages.any fun p => p.pa ≤ a && a < p.pa + 2 ^ p.log
  { s with copies := s.copies.filter fun c => c.dom ≠ asid && !inside c.line }

/-- An image of the device's own layout for a domain's context storage: free bytes (notes/assumptions/15). The lines that
it takes there are counted (R13). -/
def State.storageImage (s : State) (asid : Nat) : State × List Byte :=
  let d := s.domain asid
  let (s, k) := s.draw
  let image := (Config.storageImage k).take d.storsize
  (s.countSpan d.storage image.length, image)

/-- The device writes the image of a context into a domain's context storage. -/
def State.writeStorage (s : State) (asid : Nat) : State :=
  let (s, image) := s.storageImage asid
  s.sendOut (s.domain asid).storage image

/-- The device reads it back: the lines are counted. -/
def State.readStorage (s : State) (asid : Nat) : State := (s.storageImage asid).1

/-- The wings in whose address spaces threads of a context have activations. -/
def State.wingsOf (s : State) (asid : Nat) : List Nat :=
  ((s.ctxThreads asid).flatMap fun i =>
    let t := s.thread i
    (t.dom :: t.acts.map (·.dom)).filter fun a => a ≠ asid).eraseDups

/-- Steps 1 to 5 of R353, once every load and atomic has come back: polls are saved as waiting, windows are
written back and emptied, and the state is written into context storage. -/
def State.saveContext (s : State) (asid : Nat) : State :=
  let s := (s.ctxThreads asid).foldl (fun s i => s.mapThread i Thread.afresh) s
  let s := (indices (fun x => x.live && x.asid = asid) s.lcs).foldl State.emptyWindows s
  (asid :: s.wingsOf asid).foldl (fun s a => (s.dropCopies a).writeStorage a) s

/-- The gate windows of a context's threads are taken from, or given back to, the cores (R339, R353). -/
def State.takeWindows (s : State) (asid : Nat) (back : Bool) : State :=
  (s.ctxThreads asid).foldl (fun s i =>
    let t := s.thread i
    if t.gdepth = 0 then s else
    s.mapCore t.core fun c =>
      { c with windows := if back then c.windows - t.gdepth else c.windows + t.gdepth }) s

/-! ### Pre-emption and restore (R353) -/

/-- Whether a debug stop of a context comes before its pre-emption: T has passed, or it has stopped (R367). -/
def State.stopFirst (s : State) (asid : Nat) : Bool :=
  let d := s.domain asid
  d.stop = .stopped || (d.stop = .armed && d.stopAt ≤ s.hclk)

/-- Whether the Pair and the tile unit of every core have ended the commands that they had started; the other engines
stop between two planes, lines, prompt tiles or passes (R18, R287, R295, R302, R328). -/
def State.atCheckpoints (s : State) (asid : Nat) : Bool :=
  (s.domain asid).units.all fun u =>
    !(u.q1.any fun c => c.st = .started) && !(u.q0.any fun c => c.st = .started && c.endsHere && c.unitOf = 2)

/-- One step of the pre-emption of a context: its threads stop, and its engines start nothing more; when its loads and
atomics have come back and the engines stand at their checkpoints, it is saved and switched out. -/
def State.preempt (s : State) (asid : Nat) : State :=
  let d := s.domain asid
  if !d.alive || d.wing || !d.running || s.stopFirst asid then s
  else if !d.halting || !s.allStopped asid then (s.stopThreads asid).mapDomain asid fun d => { d with halting := true }
  else if s.returnsOut asid || !s.atCheckpoints asid then s
  else ((s.saveContext asid).takeWindows asid true).mapDomain asid fun d => { d with running := false, halting := false }

/-- CONTEXT_PREEMPT (R353). -/
def execContextPreempt (asid : Nat) (s : State) : Host.Outcome State Fault Refusal := .next (s.preempt asid)

/-- Whether the slots, stash bytes and gate windows that a context's threads return to are free (R353). -/
def State.mayReturn (s : State) (asid : Nat) : Bool :=
  let mine := (s.ctxThreads asid).map s.thread
  let lcs := s.lcs.filter fun x => x.live && x.asid = asid
  (mine.all fun t => t.isLead || (s.freeSlots t.core).contains t.slot)
  && ((mine.map (·.core) ++ lcs.map (·.core)).eraseDups.all fun core =>
    let on := mine.filter fun t => t.core = core
    ((lcs.filter fun x => x.core = core).map s.lstashOf).sum + (on.map (·.stashSize)).sum ≤ s.freeStash core
    && s.windowsUsed core + (on.map Thread.gdepth).sum ≤ Config.gateWindows)

/-- A switched-out context of the running gang is restored; where T of an armed stop has passed, the stop is
taken before any wave issues (R353, R367). It held no slot at the sampling ticks that have passed meanwhile (R366). -/
def State.restore (s : State) (asid : Nat) : State :=
  let d := s.domain asid
  if !d.alive || d.wing || d.running || d.gang ≠ s.gang || !s.mayReturn asid then s else
  let s := (asid :: s.wingsOf asid).foldl State.readStorage s
  let s := (s.takeWindows asid false).mapDomain asid fun d => { d with running := true, sampleFrom := s.hclk }
  if s.stopFirst asid then s else s.goThreads asid

/-- CONTEXT_RESTORE (R353). -/
def execContextRestore (asid : Nat) (s : State) : Host.Outcome State Fault Refusal :=
  .next (if s.switching.isSome then s else s.restore asid)

/-! ### Gang switches (R385) -/

/-- The contexts that are switched in. -/
def State.switchedIn (s : State) : List Nat := indices (fun d => d.alive && !d.wing && d.running) s.domains

/-- One step of the switch under way: the running gang is pre-empted, and when all of its contexts are out,
the other is restored (R385). -/
def State.switchStep (s : State) : State :=
  match s.switching with
  | none => s
  | some g =>
    let s := s.switchedIn.foldl State.preempt s
    if !s.switchedIn.isEmpty then s else
    let s : State := { s with gang := g, switching := none }
    (indices (fun d => d.alive && !d.wing && d.gang = g) s.domains).foldl State.restore s

/-- Whether the host triggers every switch of a gang: GANGH of one of its contexts (R384). -/
def State.hostSwitches (s : State) (g : Nat) : Bool :=
  s.domains.any fun d => d.alive && !d.wing && d.gang = g && d.ctxmode.getLsbD 3

/-- GANG_SWITCH: HCLK has reached the T of the schedule's first entry, or a switch goes on; an entry whose T
falls during a switch is taken after it (R385). An entry that names a gang which the host alone switches to is passed over
(R384; DEDUCED, notes/assumptions/90). -/
def execGangSwitch (s : State) : Host.Outcome State Fault Refusal :=
  .next (
    match s.switching, s.schedule with
    | some _, _ => s.switchStep
    | none, (t, g) :: rest =>
      if s.hclk < t || s.hostSwitches s.gang then s
      else if s.hostSwitches g then { s with schedule := rest }
      else ({ s with schedule := rest, switching := some g }).switchStep
    | none, [] => s)

/-! ### Debug stops (R367, R379) -/

/-- The cores on which an engine of a context is at work. -/
def State.busyCores (s : State) (asid : Nat) : List Nat :=
  (List.range (s.domain asid).units.length).filter fun c => (s.unit asid c).cmdsAll.any fun x => x.st = .started

/-- The cores on which a context has threads or launches. -/
def State.ctxCores (s : State) (asid : Nat) : List Nat :=
  ((s.ctxThreads asid).map (fun i => (s.thread i).core)
    ++ (s.lcs.filter fun x => x.live && x.asid = asid).map (·.core)).eraseDups

/-- The largest HCLK of some cores. -/
def State.lastClock (s : State) (cores : List Nat) : Nat := (cores.map s.coreClock).foldl max 0

/-- The header of a debug area (R379). -/
def debugHeader (clk t state used : Nat) : List Byte :=
  bytesOf 8 clk ++ bytesOf 8 t ++ bytesOf 8 state ++ bytesOf 8 used ++ List.replicate 32 0

/-- The state is saved as by a pre-emption, the context stays resident, and the image and the header go to
the host's debug area (R367, R379). -/
def State.scanOut (s : State) (asid clk : Nat) : State :=
  let s := s.saveContext asid
  let d := s.domain asid
  let (s, k) := s.draw
  let image := (Config.debugImage k).take d.storsize
  let s := s.writePlace (hostPlace (d.stopArea + 64)) image
  let s := s.writePlace (hostPlace d.stopArea) (debugHeader clk d.stopAt 1 image.length)
  (s.mapDomain asid fun d => { d with stop := .stopped, halting := false }).raise d.fn 16

/-- DEBUG_STOP: the threads of a context that is switched in stop as the HCLK of their core reaches the armed
tick. When all have stopped and their loads and atomics have come back, the engines stop at their checkpoints and the
context is scanned out, with the largest HCLK at which a part of it stopped (R367). -/
def execDebugStop (asid : Nat) (s : State) : Host.Outcome State Fault Refusal :=
  .next (
    let d := s.domain asid
    if !d.alive || d.stop ≠ .armed || !d.running then s else
    let due := (s.ctxThreads asid).filter fun i => !(s.thread i).stopped && d.stopAt ≤ s.coreClock (s.thread i).core
    if !due.isEmpty then
      let clk := s.lastClock (due.map fun i => (s.thread i).core)
      (s.stopEach due).mapDomain asid fun d => { d with stopClk := some (max (d.stopClk.getD 0) clk) }
    else if s.hclk < d.stopAt || !(s.ctxCores asid).all (fun c => d.stopAt ≤ s.coreClock c) || s.returnsOut asid then s
    else if !d.halting then s.mapDomain asid fun d => { d with halting := true }
    else if !s.atCheckpoints asid || !s.outClear [(hostPlace d.stopArea, d.storsize + 64)] then s
    else
      let first := d.stopClk.getD (s.lastClock (s.ctxCores asid))
      s.scanOut asid (max first (s.lastClock (s.busyCores asid))))

/-- The host releases a stopped context (R367): its header's STATE becomes 2 (R379). -/
def State.releaseStop (s : State) (asid : Nat) : State :=
  let d := s.domain asid
  let s := s.writePlace (hostPlace (d.stopArea + 0x10)) (bytesOf 8 2)
  (s.mapDomain asid fun d => { d with stop := .none, stopClk := none }).goThreads asid

/-! ### Clocks (R21, R23) -/

/-- CLOCK_RATE_CHANGE: the governor sets a die's clock step, 0 for 3.6 GHz to 24 for 1.2 GHz (R23). -/
def execClockRateChange (die clk : Nat) (s : State) : Host.Outcome State Fault Refusal :=
  .next (if die < Config.dies && clk ≤ 24 then s.mapDie die fun d => { d with clk := clk } else s)

/-- IEEE_1588_SLEW: HCLK's rate is slewed by at most 100 parts per million, or runs free (R21). -/
def execIeee1588Slew (ppm : Option Int) (s : State) : Host.Outcome State Fault Refusal :=
  .next (
    match ppm with
    | none => { s with slew := 0 }
    | some p => if -100 ≤ p && p ≤ 100 then { s with slew := p } else s)

/-! ### The end of a domain (R375, R383, R388) -/

/-- Whether a thread has an activation in a wing. -/
def Thread.hasActIn (t : Thread) (dom : Nat) : Bool := ((t.dom :: t.acts.map (·.dom)).dropLast).contains dom

/-- Ends the activations of a thread from the innermost on with GFAULT, until none is in the wing (R375). -/
def State.leaveWing (s : State) (dom tid : Nat) : Nat → State
  | 0 => s
  | n + 1 => if (s.thread tid).hasActIn dom then (s.endActivation tid 1).leaveWing dom tid n else s

/-- Stops a thread for good: it gives up its side and its gate windows, and what it waits for is dropped. -/
def State.abortThread (s : State) (tid : Nat) : State :=
  let t := s.thread tid
  let s := s.releaseSide tid
  let s := if t.gdepth ≠ 0 && (s.domain (s.ctxOf tid)).running then
      s.mapCore t.core fun c => { c with windows := c.windows - t.gdepth }
    else s
  let s : State := { s with reqs := s.reqs.map fun r => if r.tid = tid then { r with parts := [], st := .done } else r }
  s.mapThread tid fun _ => {}

/-- ABORTED records of a context's launches, performed where the homes let them (R88, R90, R383). -/
def State.abortLaunches (s : State) (asid : Nat) : State :=
  (indices (fun l => l.asid = asid && l.st ≠ .finished) s.launches).foldl (fun s n =>
    match s.launch? n with
    | some l =>
      (s.abortRecord asid l.queue l.seq 0x0A).flushOut.mapLaunch n fun l =>
        { l with st := .finished, todo := [], running := [] }
    | none => s) s

/-- The device pages that hold lines under a domain's key: those it maps, those of its tables that it has used, and those
it had mapped and no other domain maps now (R388). -/
def State.keyedPages (s : State) (asid : Nat) : List Page :=
  let others := (indices (fun d => d.alive) s.domains).filter fun a => a ≠ asid
  let taken (p : Page) : Bool := others.any fun a => ((s.domain a).pages ++ (s.domain a).found).any fun q =>
    q.pa < p.pa + 2 ^ p.log && p.pa < q.pa + 2 ^ q.log
  let d := s.domain asid
  (d.pages ++ d.found ++ d.past.filter fun p => !taken p).filter fun p => isDevice p.pa

/-- Lines of a destroyed domain read back as undecryptable data (R388): the bytes under its key are free. -/
def State.scramble (s : State) (asid : Nat) : State :=
  (s.keyedPages asid).foldl (fun s p =>
    let (s, k) := s.draw
    let n := 2 ^ p.log
    let new : List Host.Cell := ((List.range n).map fun i => (p.pa + i, Config.undecryptable k (p.pa + i))).filter
      fun c => c.2 ≠ unlisted
    { s with mem := (s.mem.filter fun c => c.1 < p.pa) ++ new ++ s.mem.filter fun c => p.pa + n ≤ c.1 }) s

/-- Destroys a domain: its activations end, its work stops, its launches are ABORTED, its key and everything
the device holds for it go, the stores on their way to its device lines among them (R375, R383, R380, R388). -/
def State.destroyDomain (s : State) (asid : Nat) : State :=
  let s := s.mapDomain asid fun d => { d with resident := false }
  let s := (indices (fun t => t.alive && t.hasActIn asid) s.threads).foldl (fun s i =>
    s.leaveWing asid i ((s.thread i).gdepth + 1)) s
  let gone (n : Nat) : Bool := (s.lc n).asid = asid
  let s : State := { s with dies := s.dies.map fun d =>
    { d with pend := d.pend.filter fun c => !gone c.lc, turn := d.turn.filter fun c => !gone c.lc } }
  let s := (s.ctxThreads asid).foldl State.abortThread s
  let s := s.abortLaunches asid
  let s : State := { s with lcs := s.lcs.map fun x => if x.live && x.asid = asid then { asid := asid } else x }
  let s := s.endWaiting asid 0 57
  let s : State := { s with stores := s.stores.map fun x =>
    if x.dom = asid && isDevice x.line then { x with live := false } else x }
  let s := (s.dropCopies asid).scramble asid
  s.mapDomain asid fun d => { fallen := d.wing }

/-! ### Resets (R390) -/

/-- POWER_ON_RESET: the device leaves reset through the steps of R390; a step that fails leaves it there. Of
memory, only what lies outside the device stays: every stack is key-erased in step 3. HCLK is set in
step 6 from network time, if there is any (R21). -/
def execPowerOnReset (fail : Nat) (time : Option Nat) (cores : BitVec 192) (s : State) : Host.Outcome State Fault Refusal :=
  .next (
    let stuck := 1 ≤ fail && fail ≤ 7
    let upto := if stuck then fail else 8
    { State.reset with
      bringUp := upto, failed := if stuck then fail else 0,
      hclk := if upto > 6 then time.getD 0 % 2 ^ 64 else 0,
      enabled := if upto > 4 then cores else State.reset.enabled,
      fwmeas := if upto > 2 then Config.fwMeas else List.replicate 32 0,
      mem := s.mem.filter fun c => !isDevice c.1,
      agenda := s.agenda, copyTurn := s.copyTurn, draws := s.draws })

/-- FUNCTION_LEVEL_RESET: every context is destroyed, launches in flight are ABORTED, all tiles, stash and
banks are cleared, and the device is at step 8 again (R390). -/
def execFunctionLevelReset (fn : Nat) (s : State) : Host.Outcome State Fault Refusal :=
  .next (
    if s.bringUp ≠ 8 then s else
    let s := (indices (fun d => d.alive) s.domains).foldl State.destroyDomain s
    ({ s with gang := 0, switching := none, schedule := [] }).mapFn fn fun _ => {})

end Sys2Proof.Machine
end

