-- ==== Sys2Proof/Machine/Host.lean ====
section
/-! DEFINITION. The host: its register window (R374), its commands (R375 to R389), TDISP (R388), its
accesses to a context's memory (R388), and what it raises in rings and queues (R378, R382). -/

namespace Sys2Proof.Machine

/-! ### The register window (R374) -/

/-- Whether a function exists: two links, each with one physical function and 1,024 virtual ones (R372). -/
def isFunction (fn : Nat) : Bool := fn < 2050

/-- Whether the host has registered n bytes of system memory for the device (R376, R377). -/
def State.sysOk (s : State) (a n : Nat) : Bool := !s.unreached.any fun r => r.1 < a + n && a < r.1 + r.2

/-- A read of n bytes of system memory by the device. -/
def State.sysRead (s : State) (a n : Nat) : List Byte := s.readPlace (hostPlace a) n
/-- A write of bytes of system memory by the device, made at once: the command that makes it has waited until the hub can
perform it (R88, R90). -/
def State.sysWrite (s : State) (a : Nat) (bs : List Byte) : State := s.writePlace (hostPlace a) bs
/-- Whether the hub can perform such a write now. -/
def State.sysFree (s : State) (a n : Nat) : Bool := s.outClear [(hostPlace a, n)]

/-- A command ends: CMDSTAT takes its status, BUSY is cleared, CMDDONE counts it, and CAUSE bit 0 is set
(R374, R375). -/
def State.finish (s : State) (fn status : Nat) : State :=
  (s.mapFn fn fun f =>
    { f with status := BitVec.ofNat 8 status, busy := false, pending := none, phase := 0, done := f.done + 1 }).raise fn 1

/-- CTX of a command block. -/
def cmdCtx (b : List Byte) : Nat := leAt b 4 2
/-- ARGn of a command block. -/
def cmdArg (b : List Byte) (n : Nat) : Nat := leAt b (8 + 8 * n) 8

/-- Whether the reserved bytes and the arguments from number n on are 0. -/
def cmdClean (b : List Byte) (n : Nat) : Bool :=
  leAt b 6 2 = 0 && ((List.range 7).filter fun k => n ≤ k).all fun k => cmdArg b k = 0

/-- The opcodes of the commands (R375): 1 to 17. -/
def lastOp : Nat := 17

/-- A write to CMDGO: the block at CMDADDR is read once; an unknown OP, a CMDADDR that is not aligned, or a block that
the device cannot read ends the command at once (R374 to R376). A DESTROY begins with it: the wing is resident no more
(R341, R375). -/
def State.cmdGo (s : State) (fn : Nat) : State :=
  let f := s.fn fn
  let block := s.sysRead f.cmdaddr.toNat 64
  let op := leAt block 0 4
  let s := s.mapFn fn fun f => { f with busy := true, pending := some block, phase := 0 }
  if f.cmdaddr.toNat % 64 ≠ 0 then s.finish fn 1
  else if !s.sysOk f.cmdaddr.toNat 64 then s.finish fn 6
  else if op = 0 || op > lastOp then s.finish fn 1
  else if op = 2 && cmdClean block 0 && (s.domain (cmdCtx block)).reachedBy fn then
    s.mapDomain (cmdCtx block) fun d => { d with resident := false }
  else s

/-- A write of ones to CAUSE clears its bits (R374). -/
def State.clearCause (s : State) (fn : Nat) (mask : Dword) : State :=
  s.mapFn fn fun f => { f with cause := f.cause &&& ~~~ mask }

/-- CAUSE_CLEAR. -/
def execCauseClear (fn : Nat) (mask : Dword) (s : State) : Host.Outcome State Fault Refusal :=
  .next (if s.bringUp = 8 && isFunction fn then s.clearCause fn mask else s)

/-- HOST_REGISTER_WRITE: an 8-byte write to a function's window; reserved and read-only registers, and
unaligned offsets, take nothing (R374). -/
def execHostRegisterWrite (fn off : Nat) (value : Dword) (s : State) : Host.Outcome State Fault Refusal :=
  .next (
    if s.bringUp ≠ 8 || !isFunction fn then s else
    match off with
    | 0x00 => s.doorbell fn value
    | 0x08 => s.mapFn fn fun f => { f with cmdaddr := value }
    | 0x10 => if value = 1 && !(s.fn fn).busy then s.cmdGo fn else s
    | 0x28 => s.clearCause fn value
    | 0x30 => s.mapFn fn fun f => { f with causeMask := value }
    | _ => s)

/-- What an 8-byte read of a function's window returns (R374, R5): write-only and reserved registers read 0, and so
does a read of another width or alignment. -/
def State.hostRegister (s : State) (fn off width : Nat) : Dword :=
  let f := s.fn fn
  if s.bringUp ≠ 8 || !isFunction fn || width ≠ 8 then 0 else
  match off with
  | 0x08 => f.cmdaddr
  | 0x18 => BitVec.ofNat 64 ((if f.busy then 2 ^ 63 else 0) + f.result.toNat * 2 ^ 32 + f.status.toNat)
  | 0x20 => f.done
  | 0x28 => f.cause
  | 0x30 => f.causeMask
  | _ => 0

/-! ### Commands (R375, R376) -/

/-- The block of the function's pending command, if it is the command op. -/
def State.pendingOp (s : State) (fn op : Nat) : Option (List Byte) :=
  (s.fn fn).pending.filter fun b => leAt b 0 4 = op && s.bringUp = 8

/-- The checks of a command that names a domain, and its effect, which answers the status; nothing where
the command goes on in a later step. `bad` is the command's own test of its arguments (R376). -/
def State.hostCommand (s : State) (fn op args : Nat) (bad : List Byte → Bool) (ends : Bool)
    (eff : State → List Byte → Nat → State × Option Nat) : State :=
  match s.pendingOp fn op with
  | none => s
  | some b =>
    let asid := cmdCtx b
    let d := s.domain asid
    if !cmdClean b args || bad b then s.finish fn 1
    else if !d.reachedBy fn then s.finish fn 2
    else if !isPhysical d.fn && !d.tdiRun && !ends then s.finish fn 5
    else
      match eff s b asid with
      | (s, some status) => s.finish fn status
      | (s, none) => s

/-- Whether two ranges of bytes meet. -/
def rangesMeet (a n b m : Nat) : Bool := a < b + m && b < a + n

/-! ### CREATE and DESTROY (R375, R377, R27) -/

/-- A ring's depth is a power of two in its range, or 0 where no ring is allowed (R377). -/
def depthOk (n lo hi : Nat) (none_ : Bool) : Bool :=
  (none_ && n = 0) || ((List.range 25).any fun k => n = 2 ^ k && lo ≤ n && n ≤ hi)

/-- Whether the reserved fields of a context control block are 0 and its other fields in range (R377). -/
def blockOk (c : List Byte) : Bool :=
  leAt c 0x19 7 = 0 && leAt c 0x2C 4 = 0 && leAt c 0x4C 4 = 0 && leAt c 0x74 4 = 0 && leAt c 0x9C 4 = 0
  && (c.drop 0xB8).all (· = 0) && leAt c 0x18 1 < 16 && leAt c 0 8 % 2 ^ 16 = 0
  && depthOk (leAt c 0x28 4) 16 65536 false && depthOk (leAt c 0x98 4) 16 65536 false
  && depthOk (leAt c 0x48 4) 64 (2 ^ 24) true && depthOk (leAt c 0x70 4) 64 (2 ^ 24) true

/-- Storage that a domain must reserve: 912 MiB, or 18 MiB for a wing (R27, R377). -/
def storageNeeded (wing : Bool) : Nat := if wing then 18 * 2 ^ 20 else 912 * 2 ^ 20

/-- The lowest free ASID. -/
def State.freeAsid (s : State) : Option Nat :=
  let n := ((List.range s.domains.length).map (· + 1)).find? fun a => !(s.domain a).alive
  let n := n.getD (max 1 s.domains.length)
  if n < 2 ^ 16 then some n else none

/-- A new domain as its control block and the flags of CREATE describe it. -/
def newDomain (s : State) (fn addr flags : Nat) (c : List Byte) : Domain :=
  let wing := flags / 2 % 2 = 1
  { alive := true, wing := wing, resident := wing, debug := flags % 2 = 1, fn := fn, block := addr,
    storage := leAt c 0x00 8, storsize := leAt c 0x08 8, ptroot := leAt c 0x10 8, gang := leAt c 0x18 1,
    fqBase := leAt c 0x20 8, fqDepth := leAt c 0x28 4, trBase := leAt c 0x40 8, trDepth := leAt c 0x48 4,
    smBase := leAt c 0x68 8, smDepth := leAt c 0x70 4, mqBase := leAt c 0x90 8, mqDepth := leAt c 0x98 4,
    running := wing || leAt c 0x18 1 = s.gang, key := true
    channels := List.replicate (Config.dies * Config.dies)
      { kind := 3, depth := max 1 Config.channelDepth, permits := max 1 Config.channelDepth } }

/-- CREATE: a domain with the lowest free ASID, which CMDSTAT reports (R375). -/
def execCreate (fn : Nat) (s : State) : Host.Outcome State Fault Refusal :=
  .next (
    match s.pendingOp fn 1 with
    | none => s
    | some b =>
      let addr := cmdArg b 0
      let c := s.sysRead addr 256
      let wing := cmdArg b 1 / 2 % 2 = 1
      if !cmdClean b 2 || cmdCtx b ≠ 0 || cmdArg b 1 > 3 || addr % 64 ≠ 0 then s.finish fn 1
      else if !s.sysOk addr 256 then s.finish fn 6
      else if !blockOk c then s.finish fn 1
      else
        let room := storageNeeded wing ≤ leAt c 8 8 && leAt c 0 8 + leAt c 8 8 ≤ Config.deviceBytes
        match s.freeAsid, room with
        | some a, true =>
          let s := s.mapDomain a fun _ => newDomain s fn addr (cmdArg b 1) c
          (s.mapFn fn fun f => { f with result := BitVec.ofNat 16 a }).finish fn 0
        | _, _ => s.finish fn 4)

/-- DESTROY (R375). -/
def execDestroy (fn : Nat) (s : State) : Host.Outcome State Fault Refusal :=
  .next (s.hostCommand fn 2 0 (fun _ => false) true fun s _ asid => (s.destroyDomain asid, some 0))

/-! ### The movable split, gates and measurements (R384, R338, R386) -/

/-- SETMODE: CTXMODE changes only while the context is switched out (R384). -/
def execSetmode (fn : Nat) (s : State) : Host.Outcome State Fault Refusal :=
  .next (s.hostCommand fn 3 1 (fun b => cmdArg b 0 / 32 ≠ 0) false fun s b asid =>
    let d := s.domain asid
    if d.running && !d.wing then (s, some 3)
    else (s.mapDomain asid fun d => { d with ctxmode := BitVec.ofNat 64 (cmdArg b 0) }, some 0))

/-- CTXMEAS is extended with the digest of an object (R386). -/
def State.measure (s : State) (asid : Nat) (object : List Byte) : State :=
  s.mapDomain asid fun d => { d with ctxmeas := Config.extendMeas d.ctxmeas (sized 32 (Config.sha256 object)) }

/-- SETGATES: the gate table of a domain and its size; CTXMEAS is extended with the table (R338, R386). -/
def execSetgates (fn : Nat) (s : State) : Host.Outcome State Fault Refusal :=
  .next (s.hostCommand fn 4 2 (fun b => cmdArg b 0 % 64 ≠ 0 || cmdArg b 1 > 128) false fun s b asid =>
    if !s.deviceClear asid (cmdArg b 0) (64 * cmdArg b 1) then (s, none) else
    let (s, got) := s.deviceReads asid (cmdArg b 0) (64 * cmdArg b 1)
    match got with
    | none => (s, some 6)
    | some table =>
      ((s.mapDomain asid fun d => { d with gates := cmdArg b 0, gtsize := cmdArg b 1 }).measure asid table, some 0))

/-- REGCODE: CTXMEAS is extended with a code object (R386). -/
def execRegcode (fn : Nat) (s : State) : Host.Outcome State Fault Refusal :=
  .next (s.hostCommand fn 5 2 (fun _ => false) false fun s b asid =>
    if !s.deviceClear asid (cmdArg b 0) (cmdArg b 1) then (s, none) else
    let (s, got) := s.deviceReads asid (cmdArg b 0) (cmdArg b 1)
    match got with
    | none => (s, some 6)
    | some object => (s.measure asid object, some 0))

/-! ### OBSERVE (R363, R365, R366, R389) -/

/-- Whether the arguments of OBSERVE are out of range: the period counts where sampling is on. -/
def observeBad (b : List Byte) : Bool :=
  let period := cmdArg b 1
  cmdArg b 0 > 3 || cmdArg b 2 ≥ 2 ^ 32 || period > 30 || (period < 10 && (period ≠ 0 || cmdArg b 0 / 2 = 1))

/-- OBSERVE: tracing, sampling and the event codes of the counters. A domain whose debug is locked accepts
only what disables everything (R389); a ring of depth 0 allows none (R377). -/
def execObserve (fn : Nat) (s : State) : Host.Outcome State Fault Refusal :=
  .next (s.hostCommand fn 6 3 observeBad false fun s b asid =>
    let d := s.domain asid
    let tracing := cmdArg b 0 % 2 = 1
    let sampling := cmdArg b 0 / 2 = 1
    if !d.debug && (tracing || sampling || cmdArg b 2 ≠ 0) then (s, some 5)
    else if (tracing && d.trDepth = 0) || (sampling && d.smDepth = 0) then (s, some 3)
    else
      (s.mapDomain asid fun d =>
        { d with tracing := tracing, sampling := sampling, period := 2 ^ cmdArg b 1, sampleFrom := s.hclk,
                 codes := (List.range 4).map fun k => cmdArg b 2 / 2 ^ (8 * k) % 256 }, some 0))

/-! ### Pages (R375, R380, R221) -/

/-- The place that INSTALL names: device memory, system memory, or a peer's (R373, R375). -/
def installPlace (b : List Byte) : Nat :=
  let pa := cmdArg b 1
  if cmdArg b 2 / 16 % 2 = 1 then peerPlace (pa / 2 ^ 44) (pa % 2 ^ 44)
  else physPlace pa

/-- Removes the translations of a domain that a range meets; lines of its device pages stay under its key (R388). -/
def State.dropPages (s : State) (asid va n : Nat) : State :=
  s.mapDomain asid fun d =>
    let hit (q : Page) : Bool := rangesMeet q.va (2 ^ q.log) va n
    { d with pages := d.pages.filter fun q => !hit q
             found := d.found.filter fun q => !hit q
             past := (d.past ++ (d.pages ++ d.found).filter fun q => hit q && isDevice q.pa).eraseDups }

/-- INSTALL: a translation, in place of those that it meets; the lines that wait for it are sent (R220,
R380). -/
def execInstall (fn : Nat) (s : State) : Host.Outcome State Fault Refusal :=
  .next (
    let bad (b : List Byte) : Bool :=
      let size := 2 ^ pageLog (cmdArg b 2 % 4)
      cmdArg b 2 ≥ 32 || cmdArg b 2 % 4 = 3 || cmdArg b 0 % size ≠ 0 || cmdArg b 0 ≥ 2 ^ 57 || cmdArg b 1 % size ≠ 0
    s.hostCommand fn 7 3 bad false fun s b asid =>
      let log := pageLog (cmdArg b 2 % 4)
      let va := cmdArg b 0
      let p : Page := ⟨va, log, installPlace b, (cmdArg b 2 / 4) % 2 = 1, (cmdArg b 2 / 8) % 2 = 1⟩
      let s := (s.dropPages asid va (2 ^ log)).mapDomain asid fun d =>
        { d with pages := d.pages ++ [p],
                 misses := d.misses.filter fun m => m.va / 2 ^ log ≠ va / 2 ^ log
                 asks := d.asks.filter fun a => a.1 / 2 ^ log ≠ va / 2 ^ log }
      (s.sendWaiting asid p, some 0))

/-- The window entries of a range of a context are written back and invalidated (R221). -/
def State.flushRange (s : State) (asid va n : Nat) : State :=
  (indices (fun x => x.live && x.asid = asid) s.lcs).foldl (fun s lc =>
    (List.range 16).foldl (fun s w =>
      let x := s.window lc w
      if x.mapped then s.writeBack lc w (fun e => rangesMeet (x.base + e.off) 128 va n) false [] else s) s) s

/-- UNMAP: the page's window entries are written back and invalidated, its translation and its locked
entries are removed, and the lines that wait for it end with XLATE; the command ends when the
written-back bytes have been performed (R221, R238, R380). -/
def execUnmap (fn : Nat) (s : State) : Host.Outcome State Fault Refusal :=
  .next (
    let bad (b : List Byte) : Bool :=
      cmdArg b 1 > 2 || cmdArg b 0 % 2 ^ pageLog (cmdArg b 1) ≠ 0 || cmdArg b 0 ≥ 2 ^ 57
    s.hostCommand fn 8 2 bad false fun s b asid =>
      let log := pageLog (cmdArg b 1)
      let va := cmdArg b 0
      let n := 2 ^ log
      let owed (s : State) : Bool := (s.stores.take ((s.fn fn).phase - 1)).any fun x =>
        x.live && x.dom = asid && x.st ≠ .performed && rangesMeet x.va 1 va n
      let first (s : State) : State :=
        let s := (s.flushRange asid va n).endWaiting asid va log
        let s := (s.dropPages asid va n).mapDomain asid fun d =>
          { d with misses := d.misses.filter fun m => !rangesMeet m.va (2 ^ 16) va n, walks := d.walks + 1, moves := [] }
        let s : State := { s with lcs := s.lcs.map fun x =>
          if x.asid = asid then
            { x with lockPages := x.lockPages.filter fun q => !rangesMeet q.1 (2 ^ q.2) va n }
          else x }
        s.mapFn fn fun f => { f with phase := 1 + s.stores.length }
      let s := if (s.fn fn).phase = 0 then first s else s
      if owed s then (s, none) else (s, some 0))

/-- RESERVE: a pool of pages for a range of addresses; a pool that the device cannot reach ends it with FAULT (R375, R376). -/
def execReserve (fn : Nat) (s : State) : Host.Outcome State Fault Refusal :=
  .next (s.hostCommand fn 9 4 (fun _ => false) false fun s b asid =>
    if !s.sysOk (cmdArg b 0) (8 * cmdArg b 1) then (s, some 6) else
    if !s.outClear [(s.ctlPlace asid 0xB0, 8)] then (s, none) else
    ((s.setCtl asid 0xB0 0).mapDomain asid fun d =>
      { d with pool := cmdArg b 0, poolN := cmdArg b 1, resBase := cmdArg b 2, resSize := cmdArg b 3, rpUsed := 0 },
     some 0))

/-! ### Gangs (R385) -/

/-- SWITCH: with GANGH 1, the running gang is pre-empted and the one named restored; the command ends when
that is done (R375, R385). -/
def execSwitch (fn : Nat) (s : State) : Host.Outcome State Fault Refusal :=
  .next (s.hostCommand fn 10 1 (fun b => cmdArg b 0 > 15) false fun s b asid =>
    if !(s.domain asid).ctxmode.getLsbD 3 then (s, some 3)
    else
      match s.switching, (s.fn fn).phase with
      | some _, 0 => (s.switchStep, none)
      | _, 0 =>
        let s := ({ s with switching := some (cmdArg b 0) }).switchStep
        if s.switching.isNone then (s, some 0) else (s.mapFn fn fun f => { f with phase := 1 }, none)
      | _, _ =>
        let s := s.switchStep
        (s, if s.switching.isNone then some 0 else none))

/-- The entries of a schedule table: T and gang. -/
def State.scheduleTable (s : State) (addr n : Nat) : List (Nat × Nat × Bool) :=
  (List.range n).map fun k =>
    let e := s.sysRead (addr + 16 * k) 16
    (leAt e 0 8, leAt e 8 8 % 16, leAt e 8 8 ≥ 16)

/-- Whether ticks rise by 100 µs, which are 100,000 house ticks, at least (R385, R19). -/
def apart : List Nat → Bool
  | a :: b :: t => a + 100000 ≤ b && apart (b :: t)
  | _ => true

/-- SCHEDULE: the gang schedule, refused as a whole where its entries are not in order and 100 µs apart
(R385, R376). -/
def execSchedule (fn : Nat) (s : State) : Host.Outcome State Fault Refusal :=
  .next (s.hostCommand fn 11 2 (fun b => cmdArg b 1 > 64) false fun s b _ =>
    let es := s.scheduleTable (cmdArg b 0) (cmdArg b 1)
    if !s.sysOk (cmdArg b 0) (16 * cmdArg b 1) then (s, some 6)
    else if es.any fun e => e.2.2 then (s, some 1)
    else if !apart (es.map (·.1)) then (s, some 5)
    else ({ s with schedule := es.map fun e => (s.longClock e.1, e.2.1) }, some 0))

/-! ### Debug stops and lane operations (R367, R379, R351) -/

/-- ARMSTOP (R367, R379). -/
def execArmstop (fn : Nat) (s : State) : Host.Outcome State Fault Refusal :=
  .next (s.hostCommand fn 12 3 (fun _ => false) false fun s b asid =>
    let d := s.domain asid
    if !d.debug then (s, some 5)
    else if d.wing || d.stop ≠ .none then (s, some 3)
    else if cmdArg b 2 < d.storsize + 64 then (s, some 4)
    else if !s.sysOk (cmdArg b 1) (cmdArg b 2) then (s, some 6)
    else if !s.sysFree (cmdArg b 1) 64 then (s, none)
    else
      let s := s.mapDomain asid fun d =>
        { d with stop := .armed, stopAt := s.longClock (cmdArg b 0), stopArea := cmdArg b 1, stopSize := cmdArg b 2, stopClk := none }
      (s.sysWrite (cmdArg b 1) (debugHeader 0 (cmdArg b 0) 0 0), some 0))

/-- RELEASE (R367). -/
def execRelease (fn : Nat) (s : State) : Host.Outcome State Fault Refusal :=
  .next (s.hostCommand fn 13 0 (fun _ => false) false fun s _ asid =>
    let d := s.domain asid
    if d.stop ≠ .stopped then (s, some 3)
    else if !s.sysFree (d.stopArea + 0x10) 8 then (s, none)
    else (s.releaseStop asid, some 0))

/-- LANEOP: RESUME or KILL on the context's launches on a core (R351). -/
def execLaneop (fn : Nat) (s : State) : Host.Outcome State Fault Refusal :=
  .next (
    let bad (b : List Byte) : Bool :=
      let v := BitVec.ofNat 64 (cmdArg b 0)
      fld v 31 9 ≠ 0 || v.getLsbD 6 || cmdArg b 1 ≥ Config.cores || cmdArg b 2 = 0 || cmdArg b 2 > 2
      || (cmdArg b 2 = 2 && v.getLsbD 8)
    s.hostCommand fn 14 3 bad false fun s b asid =>
      let on := indices (fun x => x.live && x.asid = asid && x.core = cmdArg b 1) s.lcs
      (on.foldl (fun s lc => s.laneOp lc (BitVec.ofNat 64 (cmdArg b 0)) (cmdArg b 2 = 2)) s, some 0))

/-! ### Attestation and energy weights (R387, R364) -/

/-- Bytes 0x000 to 0x0B7 of an attestation report (R387). -/
def State.report (s : State) (asid : Nat) (nonce : List Byte) : List Byte :=
  let d := s.domain asid
  bytesOf 4 1 ++ bytesOf 4 Config.deviceId.toNat ++ bytesOf 8 Config.serial.toNat ++ nonce ++ sized 32 s.fwmeas
  ++ sized 32 d.ctxmeas ++ sized 32 (Config.cfgMeas s.enabled) ++ bytesOf 24 s.enabled.toNat ++ bytesOf 2 asid
  ++ bytesOf 1 (if d.debug then 1 else 0) ++ bytesOf 5 0 ++ bytesOf 8 s.clock64

/-- ATTEST: a signed report that answers the nonce (R387). -/
def execAttest (fn : Nat) (s : State) : Host.Outcome State Fault Refusal :=
  .next (s.hostCommand fn 15 2 (fun _ => false) false fun s b asid =>
    let r := s.report asid (s.sysRead (cmdArg b 0) 32)
    if !s.sysOk (cmdArg b 0) 32 || !s.sysOk (cmdArg b 1) (r.length + 384) then (s, some 6) else
    if !s.sysFree (cmdArg b 1) (r.length + 384) then (s, none) else
    let (s, k) := s.draw
    (s.sysWrite (cmdArg b 1) (r ++ sized 384 (Config.signature k r)), some 0))

/-- WEIGHTS: the energy weights, class by class, each for the 25 clock steps from 3.6 GHz down (R364,
R375). -/
def execWeights (fn : Nat) (s : State) : Host.Outcome State Fault Refusal :=
  .next (s.hostCommand fn 16 1 (fun _ => false) false fun s b _ =>
    let bytes := (List.range 8).flatMap fun c => (List.range 25).flatMap fun k => bytesOf 8 (Config.energyWeight c k)
    if !s.sysOk (cmdArg b 0) bytes.length then (s, some 6)
    else if !s.sysFree (cmdArg b 0) bytes.length then (s, none)
    else (s.sysWrite (cmdArg b 0) bytes, some 0))

/-! ### Work queues (R381) -/

/-- Whether a running launch of a context binds a work queue: a register of it on a core is bound to the queue, or will be
where it has still to start, a launch that has begun (R58, R61, R375). -/
def State.boundByLaunch (s : State) (asid queue : Nat) : Bool :=
  (s.lcs.any fun x => x.live && x.asid = asid && x.queues.any fun f => f.kind = 2 && fld f.spec 16 0 = queue)
  || (List.range s.launches.length).any fun n => (s.launch? n).any fun l =>
    l.asid = asid && l.st = .eligible && !l.todo.isEmpty && (s.lcs.any fun x => x.launch = n && x.asid = asid)
      && l.qbind.any fun x => fld x 31 30 = 2 && fld x 16 0 = queue

/-- Whether a queue control block names the context, with TYPE and reserved fields as R381 has them. -/
def queueBlockOk (q : List Byte) (asid : Nat) : Bool :=
  leAt q 0x0C 2 = asid && leAt q 0x0E 1 ≤ 2 && leAt q 0x0F 1 = 0 && leAt q 0x30 16 = 0
  && depthOk (leAt q 8 4) 2 65536 false

/-- A queue as it is registered with its block: the device has read none of a host's entries yet, and the producing
side holds a permit for every free entry (R246, R381). -/
def workQueue (q addr : Nat) (block : List Byte) : WorkQ :=
  let consumed := leAt block 0x18 8
  let held := if leAt block 0x0E 1 = 2 then leAt block 0x10 8 - consumed else 0
  { queue := q, block := addr, tail := consumed, cons := consumed, permits := leAt block 8 4 - held }

/-- REGQUEUE: registers a queue's control block to a context, or unregisters the queue (R375, R381). -/
def execRegqueue (fn : Nat) (s : State) : Host.Outcome State Fault Refusal :=
  .next (s.hostCommand fn 17 2 (fun b => cmdArg b 0 ≥ 131072 || cmdArg b 1 % 64 ≠ 0) false fun s b asid =>
    let q := cmdArg b 0
    let other := (s.findQueue q).any fun r => r.1 ≠ asid
    if other || s.boundByLaunch asid q then (s, some 3)
    else
      let without (d : Domain) : List WorkQ := d.queues.filter fun w => w.queue ≠ q
      if cmdArg b 1 = 0 then (s.mapDomain asid fun d => { d with queues := without d }, some 0)
      else
        if !s.deviceClear asid (cmdArg b 1) 64 then (s, none) else
        let (s, got) := s.deviceReads asid (cmdArg b 1) 64
        match got with
        | none => (s, some 6)
        | some block =>
          if !queueBlockOk block asid then (s, some 1)
          else
            (s.mapDomain asid fun d => { d with queues := without d ++ [workQueue q (cmdArg b 1) block] }, some 0))

/-! ### TDISP and host accesses (R388) -/

/-- TDISP_REQUEST: the TDI of a context of a virtual function enters or leaves state RUN (R388). -/
def execTdispRequest (asid : Nat) (run : Bool) (s : State) : Host.Outcome State Fault Refusal :=
  .next (
    let d := s.domain asid
    if d.alive && !isPhysical d.fn then s.mapDomain asid fun d => { d with tdiRun := run } else s)

/-- Whether the device accepts a host access to a context's queues and memory: one that is bound to a TDI
takes accesses in state RUN, through the TDI's IDE streams, alone (R388). -/
def Domain.accepts (d : Domain) (ide : Bool) : Bool := d.alive && (isPhysical d.fn || (d.tdiRun && ide))

/-- The core number under which the host's stores travel: none of the part's. -/
def hostCore : Nat := Config.cores

/-- A queue that a wrong SEQ has stopped goes on when the host rewrites its control block; a write to TAIL alone, which
only produces entries, is none (R382; DEDUCED, notes/assumptions/68). -/
def WorkQ.rewritten (w : WorkQ) (addr n : Nat) : WorkQ :=
  if rangesMeet w.block 0x10 addr n || rangesMeet (w.block + 0x18) 0x28 addr n then { w with stopped := false } else w

/-- A write of the host at a virtual address of a context: to its system lines at once, and to its device lines as stores
on their way to their homes (R90; notes/assumptions/5). -/
def State.hostWrite (s : State) (asid addr : Nat) (data : List Byte) : State :=
  (splitLines addr data).foldl (fun s (line, cells) =>
    match (s.domain asid).place line with
    | none => s
    | some p =>
      if isDevice p then
        s.accept { core := hostCore, dom := asid, va := line, line := lineOf p, bytes := cells }
      else cells.foldl (fun s c => s.writePlace (lineOf p + c.1) [c.2]) s) s

/-- A read of the host: it changes nothing but the count of the page, where the line lies in a stack (R13). -/
def State.hostRead (s : State) (asid addr : Nat) : State :=
  match (s.domain asid).place addr with
  | some p => if isDevice p then s.countAccess asid addr p else s
  | none => s

/-- A field of memory as the host's own writes leave it, performed or on their way. -/
def State.hostField (s : State) (asid addr n : Nat) : Nat :=
  match (s.domain asid).place addr with
  | some p => ofBytes (((s.coreLine hostCore (lineOf p)).drop (p % 128)).take n)
  | none => 0

/-- HOST_MEMORY_ACCESS: the host writes bytes at a virtual address of a context, or reads there, with no bytes (R388,
R90). -/
def execHostMemoryAccess (asid : Nat) (ide : Bool) (addr : Nat) (data : List Byte) (s : State) :
    Host.Outcome State Fault Refusal :=
  .next (
    let d := s.domain asid
    if s.bringUp ≠ 8 || !d.accepts ide then s
    else if data.isEmpty then s.hostRead asid addr
    else (s.hostWrite asid addr data).mapDomain asid fun d => { d with queues := d.queues.map fun w => w.rewritten addr data.length })

/-! ### HEADs and CONSUMED (R378, R382) -/

/-- Where a ring's TAIL and HEAD lie in the control block, and its TAIL (R377). -/
def State.ringTail (s : State) (asid : Nat) (ring : Ring) : Nat × Nat :=
  let d := s.domain asid
  match ring with
  | .fault => (0x38, d.fqTail)
  | .trace => (0x58, d.trTail)
  | .sample => (0x80, d.smTail)
  | .miss => (0xA8, d.mqTail)

/-- RING_HEAD_RAISE: the host raises a HEAD, no further than TAIL; miss queue entries that waited are written
(R378). -/
def execRingHeadRaise (asid : Nat) (ring : Ring) (value : Nat) (s : State) : Host.Outcome State Fault Refusal :=
  .next (
    let (off, tail) := s.ringTail asid ring
    if !(s.domain asid).alive || value < s.ctlField asid off 8 || value > tail then s
    else (s.setCtl asid off value).writeMisses asid)

/-- QUEUE_CONSUMED_RAISE: the host raises CONSUMED of a TYPE 2 queue, no further than TAIL, by a write of its own (R88,
R382). -/
def execQueueConsumedRaise (queue value : Nat) (s : State) : Host.Outcome State Fault Refusal :=
  .next (
    match s.findQueue queue with
    | none => s
    | some (a, w) =>
      let old := s.hostField a (w.block + 0x18) 8
      let tail := s.blockField a w.block 0x10 8
      let d := s.domain a
      if !(isPhysical d.fn || d.tdiRun) || s.workType a w ≠ 2 || value < old || value > tail then s
      else s.hostWrite a (w.block + 0x18) (bytesOf 8 value))

end Sys2Proof.Machine
end

