-- ==== Sys2Proof/Machine/Memory.lean ====
section
/-! DEFINITION. Loads, stores and atomics: majors 0x24 to 0x27 and 0x2A (R224 to R228, R62). -/

namespace Sys2Proof.Machine

/-- The data of a store in a lane: the low bytes of its registers (R224). -/
def State.storeData (s : State) (l d : Nat) (w : Width) : List Byte :=
  ((List.range (widthRegs w)).flatMap fun i => bytesOf 4 (s.vreg l (d + i)).toNat).take (widthBytes w)

/-- LD (R224). -/
def execLd (d : Dst) (rec : BReg) (idx : Src) (w : Width) (mode : LdMode) (s : State) :
    Host.Outcome State Fault Refusal :=
  .next (s.laneWise none true fun s =>
    s.load (s.breg rec) (fun l => (s.src l idx).toNat) d (widthBytes w) (widthRegs w) (widthSigned w) mode)

/-- ST (R224). -/
def execSt (d : LReg) (rec : BReg) (idx : Src) (w : Width) (mode : StMode) (s : State) :
    Host.Outcome State Fault Refusal :=
  .next (s.laneWise none true fun s =>
    s.store (s.breg rec) (fun l => (s.src l idx).toNat) (fun l => s.storeData l d.toNat w)
      (widthBytes w) false mode)

/-- Bytes of a uniform access (R225). -/
def uniBytes : WidthW → Nat
  | .b32 => 4
  | .b64 => 8

/-- LDW (R225). -/
def execLdw (d : UReg) (rec : BReg) (idx : UReg) (w : WidthW) (mode : LdMode) (s : State) :
    Host.Outcome State Fault Refusal :=
  .next (s.uniform none false fun s =>
    s.loadUni d (s.breg rec) (s.ureg idx).toNat (uniBytes w) mode)

/-- STW (R225). -/
def execStw (d : UReg) (rec : BReg) (idx : UReg) (w : WidthW) (mode : StMode) (s : State) :
    Host.Outcome State Fault Refusal :=
  .next (s.uniform none false fun s =>
    s.storeUni (s.breg rec) (s.ureg idx).toNat (uniBytes w) (bytesOf (uniBytes w) (s.ureg d).toNat) mode)

/-- The atomic of one lane at an offset of its line (R226). -/
def State.atomPart (s : State) (d : Nat) (op : AtomOp) (w64 : Bool) (l off : Nat) : AtomPart :=
  let one (k : Nat) : Dword := if w64 then BitVec.ofNat 64 (s.vpair l k) else (s.vreg l k).setWidth 64
  { lane := l, off := off, op := op, w64 := w64, data := one d, new := one (d + if w64 then 2 else 1) }

/-- ATOM (R226). In deterministic mode a returning one, an exchange and a compare-and-swap trap
ATOMDET (R62). -/
def execAtom (d : LReg) (rec : BReg) (idx : Src) (op : AtomOp) (w64 ret ar : Bool) (s : State) :
    Host.Outcome State Fault Refusal :=
  .next (s.laneWise none false fun s =>
    if s.det s.cur.tid && (ret || op = .xchg || op = .cas) then s.trapLanes s.cur.mask .atomdet fun s => if ret && !w64 then s.pushAll .m fun _ => 0 else s
    else
      let r := s.breg rec
      let n := if w64 then 2 else 1
      s.checked r (s.places r (fun l => (s.src l idx).toNat) (4 * n) .atomic false) .atomic [] fun s ps =>
        s.released ar ps fun s =>
          let s := if ret then s.zeroDropped ps d.toNat n else s
          let s := if ret && n = 1 then s.pushAll .m fun _ => 0 else s
          (linesOf ps).foldl (fun s x =>
            s.atomLine ps x.1 x.2 (s.atomPart d.toNat op w64) ar (if ret then some (d.toNat, n) else none)) s)

/-- LDS (R228). -/
def execLds (d : Dst) (rec : BReg) (idx : Src) (w : Width) (s : State) : Host.Outcome State Fault Refusal :=
  .next (s.laneWise none true fun s =>
    s.loadStash (s.breg rec) (fun l => (s.src l idx).toNat) d (widthBytes w) (widthRegs w) (widthSigned w))

/-- STS (R228). -/
def execSts (d : LReg) (rec : BReg) (idx : Src) (w : Width) (s : State) : Host.Outcome State Fault Refusal :=
  .next (s.laneWise none true fun s =>
    s.store (s.breg rec) (fun l => (s.src l idx).toNat) (fun l => s.storeData l d.toNat w)
      (widthBytes w) true .plain)

end Sys2Proof.Machine
end

