-- ==== Sys2Proof/Machine/Tlb.lean ====
section
/-! DEFINITION. Locked translations: major 0x2B (R238 to R240). -/

namespace Sys2Proof.Machine

/-- The pages that a span touches, as address and log2 of the size; nothing where one is unmapped.
Reserve-backed pages are mapped on the way (R375). Each step uses up one page. -/
def State.spanPages (s : State) (dom : Nat) : Nat → Nat → Nat → State × Option (List (Nat × Nat))
  | 0, _, _ => (s, none)
  | fuel + 1, va, last =>
    let s := s.ensureMapped dom va
    match (s.domain dom).page va with
    | none => (s, none)
    | some p =>
      let a := va / 2 ^ p.log * 2 ^ p.log
      if a + 2 ^ p.log > last then (s, some [(a, p.log)])
      else
        match s.spanPages dom fuel (a + 2 ^ p.log) last with
        | (s, some ps) => (s, some ((a, p.log) :: ps))
        | (s, none) => (s, none)

/-- The locked entries of a core's first-level TLB: context, page and size (R238). -/
def State.lockedOn (s : State) (core : Nat) : List (Nat × Nat × Nat) :=
  ((s.lcs.filter fun x => x.live && x.core = core).flatMap fun x =>
    x.lockPages.map fun (a, l) => (x.asid, a, l)).eraseDups

/-- The first page of a span that no translation maps, reached page by page. -/
def State.firstHole (s : State) (dom : Nat) : Nat → Nat → Nat
  | 0, va => va
  | fuel + 1, va =>
    match (s.domain dom).page va with
    | none => va
    | some p => s.firstHole dom fuel (va / 2 ^ p.log * 2 ^ p.log + 2 ^ p.log)

/-- TLBLK: all or nothing (R239). -/
def execTlblk (a : BReg) (s : State) : Host.Outcome State Fault Refusal :=
  .next (s.uniform (some 2) false fun s =>
    let t := s.cur.old
    let r := s.breg a
    if r.stash then s.trapWave .stashmap
    else if r.span = 0 then s
    else
      let d := s.domain t.dom
      let fuel := if d.ptroot = 0 then d.pages.length + d.poolN + 1 else r.span / 2 ^ 16 + 2
      let (s', pages) := s.spanPages t.dom fuel r.base (r.base + r.span - 1)
      match pages with
      | none =>
        if d.ctxmode.getLsbD 0 then
          -- the host walks the page that is missing (R220, R384)
          let hole := s'.firstHole t.dom fuel r.base
          if t.deniedAt t.dom hole then s.trapWave .xlate 0 r.base else
          (s'.missEntry t.dom hole t.core .load).block (.page t.dom hole)
        else s.trapWave .xlate 0 r.base
      | some ps =>
        let held := s'.lockedOn t.core
        let asid := (s'.lc t.lc).asid
        let new := ps.filter fun (p, l) => !held.contains (asid, p, l)
        if held.length + new.length > Config.lockedEntries then s.trapWave .lockmiss 0 r.base
        else s'.mapLC t.lc fun x =>
          { x with locks := (x.locks ++ [(r.base, r.span)]).eraseDups,
                   lockPages := (x.lockPages ++ ps).eraseDups })

/-- TLBUNLK: removes the region equal to the span, and the entries no other region holds (R239). -/
def execTlbunlk (a : BReg) (s : State) : Host.Outcome State Fault Refusal :=
  .next (s.uniform (some 2) false fun s =>
    let r := s.breg a
    if r.stash then s.trapWave .stashmap
    else s.mapLC s.cur.old.lc fun x =>
      if x.locks.contains (r.base, r.span) then
        let locks := x.locks.filter fun k => k ≠ (r.base, r.span)
        { x with locks := locks,
                 lockPages := x.lockPages.filter fun (p, l) =>
                   locks.any fun (b, n) => b < p + 2 ^ l && p < b + n }
      else x)

/-- The probe of R240 for a virtual address; whether an unlocked entry is present is free. -/
def State.probe (s : State) (lc dom va : Nat) (present : Bool) : Dword :=
  match (s.domain dom).page va with
  | none => 0
  | some p =>
    let pa := p.pa + va % 2 ^ p.log
    let x := s.lc lc
    let locked := (s.lockedOn x.core).any fun (asid, a, l) => asid = x.asid && va / 2 ^ l = a / 2 ^ l
    let home := if isDevice pa then dieOf pa else 15
    let psz := if p.log = 16 then 0 else if p.log = 21 then 1 else 2
    BitVec.ofNat 64 (1 + (if locked || present then 2 ^ 5 else 0) + (if locked then 2 ^ 6 else 0)
      + (if p.r then 2 ^ 7 else 0) + (if p.w then 2 ^ 8 else 0) + psz * 2 ^ 10 + home * 2 ^ 12)

/-- TLBPRB (R240). -/
def execTlbprb (d : UReg) (a : BReg) (b : UReg) (s : State) : Host.Outcome State Fault Refusal :=
  .next (s.uniform (some 2) false fun s =>
    let t := s.cur.old
    let r := s.breg a
    if r.stash then s.trapWave .stashmap
    else
      let (off, inb) := r.elemOff (s.ureg b).toNat (2 ^ r.esize)
      let va := lineOf (r.base + off)
      if !inb || va ≥ 2 ^ 57 then s.setU d 0
      else
        let (s, k) := s.draw
        s.setU d (s.probe t.lc t.dom va (Config.tlbPresent k)))

end Sys2Proof.Machine
end

