-- ==== Sys2Proof/Machine/Dispatch.lean ====
section
/-! DEFINITION. What each instruction and each step of the device does: one arm per constructor of
`Instr`, each a call of its meaning. -/

namespace Sys2Proof.Machine

def exec (i : Instr) (s : State) : Host.Outcome State Fault Refusal :=
  match i with
  | .nop => Sys2Proof.Machine.execNop s
  | .exit => Sys2Proof.Machine.execExit s
  | .yield => Sys2Proof.Machine.execYield s
  | .ret => Sys2Proof.Machine.execRet s
  | .bkpt => Sys2Proof.Machine.execBkpt s
  | .trap => Sys2Proof.Machine.execTrap s
  | .waitev a => Sys2Proof.Machine.execWaitev a s
  | .bra off => Sys2Proof.Machine.execBra off s
  | .brt p off => Sys2Proof.Machine.execBrt p off s
  | .brf p off => Sys2Proof.Machine.execBrf p off s
  | .brany p off => Sys2Proof.Machine.execBrany p off s
  | .brall p off => Sys2Proof.Machine.execBrall p off s
  | .call off => Sys2Proof.Machine.execCall off s
  | .jmpi a => Sys2Proof.Machine.execJmpi a s
  | .calli a => Sys2Proof.Machine.execCalli a s
  | .loop d imm => Sys2Proof.Machine.execLoop d imm s
  | .guard p sense => Sys2Proof.Machine.execGuard p sense s
  | .pand d a b => Sys2Proof.Machine.execPand d a b s
  | .por d a b => Sys2Proof.Machine.execPor d a b s
  | .pxor d a b => Sys2Proof.Machine.execPxor d a b s
  | .pandn d a b => Sys2Proof.Machine.execPandn d a b s
  | .pmov d a => Sys2Proof.Machine.execPmov d a s
  | .ptov d a => Sys2Proof.Machine.execPtov d a s
  | .ballot d a => Sys2Proof.Machine.execBallot d a s
  | .vote d a => Sys2Proof.Machine.execVote d a s
  | .join m => Sys2Proof.Machine.execJoin m s
  | .leave => Sys2Proof.Machine.execLeave s
  | .arrive m => Sys2Proof.Machine.execArrive m s
  | .barw m => Sys2Proof.Machine.execBarw m s
  | .waitb m => Sys2Proof.Machine.execWaitb m s
  | .castq d m => Sys2Proof.Machine.execCastq d m s
  | .iadd d a b => Sys2Proof.Machine.execIadd d a b s
  | .isub d a b => Sys2Proof.Machine.execIsub d a b s
  | .and d a b => Sys2Proof.Machine.execAnd d a b s
  | .or d a b => Sys2Proof.Machine.execOr d a b s
  | .xor d a b => Sys2Proof.Machine.execXor d a b s
  | .andn d a b => Sys2Proof.Machine.execAndn d a b s
  | .imin d a b => Sys2Proof.Machine.execImin d a b s
  | .imax d a b => Sys2Proof.Machine.execImax d a b s
  | .shl d a b => Sys2Proof.Machine.execShl d a b s
  | .shr d a b => Sys2Proof.Machine.execShr d a b s
  | .sar d a b => Sys2Proof.Machine.execSar d a b s
  | .rol d a b => Sys2Proof.Machine.execRol d a b s
  | .iminu d a b => Sys2Proof.Machine.execIminu d a b s
  | .imaxu d a b => Sys2Proof.Machine.execImaxu d a b s
  | .amin d a b => Sys2Proof.Machine.execAmin d a b s
  | .iabsd d a b => Sys2Proof.Machine.execIabsd d a b s
  | .imul d a b => Sys2Proof.Machine.execImul d a b s
  | .imulh d a b => Sys2Proof.Machine.execImulh d a b s
  | .imulhu d a b => Sys2Proof.Machine.execImulhu d a b s
  | .imad d a b => Sys2Proof.Machine.execImad d a b s
  | .clz d a => Sys2Proof.Machine.execClz d a s
  | .popc d a => Sys2Proof.Machine.execPopc d a s
  | .brev d a => Sys2Proof.Machine.execBrev d a s
  | .iabs d a => Sys2Proof.Machine.execIabs d a s
  | .icmp cond p a b => Sys2Proof.Machine.execIcmp cond p a b s
  | .icmpW cond p a b => Sys2Proof.Machine.execIcmpW cond p a b s
  | .iaddi d a imm => Sys2Proof.Machine.execIaddi d a imm s
  | .shli d a n => Sys2Proof.Machine.execShli d a n s
  | .shri d a n => Sys2Proof.Machine.execShri d a n s
  | .sari d a n => Sys2Proof.Machine.execSari d a n s
  | .roli d a n => Sys2Proof.Machine.execRoli d a n s
  | .movi d imm => Sys2Proof.Machine.execMovi d imm s
  | .movhi d imm => Sys2Proof.Machine.execMovhi d imm s
  | .bfx d a b => Sys2Proof.Machine.execBfx d a b s
  | .bfi d a b => Sys2Proof.Machine.execBfi d a b s
  | .iadd64 d a b => Sys2Proof.Machine.execIadd64 d a b s
  | .isub64 d a b => Sys2Proof.Machine.execIsub64 d a b s
  | .shl64 d a b => Sys2Proof.Machine.execShl64 d a b s
  | .imulw d a b => Sys2Proof.Machine.execImulw d a b s
  | .pack16 d a b => Sys2Proof.Machine.execPack16 d a b s
  | .byteperm d a b => Sys2Proof.Machine.execByteperm d a b s
  | .sel d a b p => Sys2Proof.Machine.execSel d a b p s
  | .wadd d a b => Sys2Proof.Machine.execWadd d a b s
  | .wsub d a b => Sys2Proof.Machine.execWsub d a b s
  | .wand d a b => Sys2Proof.Machine.execWand d a b s
  | .wor d a b => Sys2Proof.Machine.execWor d a b s
  | .wxor d a b => Sys2Proof.Machine.execWxor d a b s
  | .wshl d a b => Sys2Proof.Machine.execWshl d a b s
  | .wshr d a b => Sys2Proof.Machine.execWshr d a b s
  | .wmul d a b => Sys2Proof.Machine.execWmul d a b s
  | .wmin d a b => Sys2Proof.Machine.execWmin d a b s
  | .wmax d a b => Sys2Proof.Machine.execWmax d a b s
  | .wsar d a b => Sys2Proof.Machine.execWsar d a b s
  | .vtow d a => Sys2Proof.Machine.execVtow d a s
  | .wtov d a => Sys2Proof.Machine.execWtov d a s
  | .wsel d a b => Sys2Proof.Machine.execWsel d a b s
  | .wclz d a => Sys2Proof.Machine.execWclz d a s
  | .wpopc d a => Sys2Proof.Machine.execWpopc d a s
  | .waddi d a imm => Sys2Proof.Machine.execWaddi d a imm s
  | .wmovi d imm => Sys2Proof.Machine.execWmovi d imm s
  | .wmovk d pos imm => Sys2Proof.Machine.execWmovk d pos imm s
  | .rand32 d => Sys2Proof.Machine.execRand32 d s
  | .randf d => Sys2Proof.Machine.execRandf d s
  | .rseed a => Sys2Proof.Machine.execRseed a s
  | .rctr d a => Sys2Proof.Machine.execRctr d a s
  | .fadd d a b => Sys2Proof.Machine.execFadd d a b s
  | .fsub d a b => Sys2Proof.Machine.execFsub d a b s
  | .fmul d a b => Sys2Proof.Machine.execFmul d a b s
  | .ffma d a b => Sys2Proof.Machine.execFfma d a b s
  | .fmin d a b => Sys2Proof.Machine.execFmin d a b s
  | .fmax d a b => Sys2Proof.Machine.execFmax d a b s
  | .famin d a b => Sys2Proof.Machine.execFamin d a b s
  | .ffms d a b => Sys2Proof.Machine.execFfms d a b s
  | .badd2 d a b => Sys2Proof.Machine.execBadd2 d a b s
  | .bmul2 d a b => Sys2Proof.Machine.execBmul2 d a b s
  | .bfma2 d a b => Sys2Proof.Machine.execBfma2 d a b s
  | .bmax2 d a b => Sys2Proof.Machine.execBmax2 d a b s
  | .hadd2 d a b => Sys2Proof.Machine.execHadd2 d a b s
  | .hmul2 d a b => Sys2Proof.Machine.execHmul2 d a b s
  | .hfma2 d a b => Sys2Proof.Machine.execHfma2 d a b s
  | .hmax2 d a b => Sys2Proof.Machine.execHmax2 d a b s
  | .frcp d a => Sys2Proof.Machine.execFrcp d a s
  | .frsq d a => Sys2Proof.Machine.execFrsq d a s
  | .fsqrt d a => Sys2Proof.Machine.execFsqrt d a s
  | .fexp2 d a => Sys2Proof.Machine.execFexp2 d a s
  | .flog2 d a => Sys2Proof.Machine.execFlog2 d a s
  | .ftanh d a => Sys2Proof.Machine.execFtanh d a s
  | .fsin2pi d a => Sys2Proof.Machine.execFsin2pi d a s
  | .frnd d a rnd => Sys2Proof.Machine.execFrnd d a rnd s
  | .fdiv d a b => Sys2Proof.Machine.execFdiv d a b s
  | .fabs d a => Sys2Proof.Machine.execFabs d a s
  | .fneg d a => Sys2Proof.Machine.execFneg d a s
  | .fcpys d a b => Sys2Proof.Machine.execFcpys d a b s
  | .fclass d a => Sys2Proof.Machine.execFclass d a s
  | .fscale d a b => Sys2Proof.Machine.execFscale d a b s
  | .fexpt d a => Sys2Proof.Machine.execFexpt d a s
  | .fcmp cond p a b => Sys2Proof.Machine.execFcmp cond p a b s
  | .fcvt d a ty pol rnd => Sys2Proof.Machine.execFcvt d a ty pol rnd s
  | .fupcvt d a ty => Sys2Proof.Machine.execFupcvt d a ty s
  | .icvtf d a ty pol rnd => Sys2Proof.Machine.execIcvtf d a ty pol rnd s
  | .fcvti d a ty pol rnd => Sys2Proof.Machine.execFcvti d a ty pol rnd s
  | .qpack d a slot pol rnd => Sys2Proof.Machine.execQpack d a slot pol rnd s
  | .qunpack d a slot => Sys2Proof.Machine.execQunpack d a slot s
  | .i8pack d a pol => Sys2Proof.Machine.execI8pack d a pol s
  | .fflrd d => Sys2Proof.Machine.execFflrd d s
  | .fflclr a => Sys2Proof.Machine.execFflclr a s
  | .fmode a => Sys2Proof.Machine.execFmode a s
  | .lshup d a b => Sys2Proof.Machine.execLshup d a b s
  | .lshdn d a b => Sys2Proof.Machine.execLshdn d a b s
  | .lrot d a b => Sys2Proof.Machine.execLrot d a b s
  | .lperm d a b => Sys2Proof.Machine.execLperm d a b s
  | .lbcast d a b => Sys2Proof.Machine.execLbcast d a b s
  | .lxor d a b => Sys2Proof.Machine.execLxor d a b s
  | .lscanadd d a => Sys2Proof.Machine.execLscanadd d a s
  | .lscanmin d a => Sys2Proof.Machine.execLscanmin d a s
  | .lscanmax d a => Sys2Proof.Machine.execLscanmax d a s
  | .lscanfadd d a => Sys2Proof.Machine.execLscanfadd d a s
  | .lredadd d a => Sys2Proof.Machine.execLredadd d a s
  | .lredmin d a => Sys2Proof.Machine.execLredmin d a s
  | .lredmax d a => Sys2Proof.Machine.execLredmax d a s
  | .lredfadd d a => Sys2Proof.Machine.execLredfadd d a s
  | .lmatch d a => Sys2Proof.Machine.execLmatch d a s
  | .lfirst d => Sys2Proof.Machine.execLfirst d s
  | .ld d rec idx w mode => Sys2Proof.Machine.execLd d rec idx w mode s
  | .st d rec idx w mode => Sys2Proof.Machine.execSt d rec idx w mode s
  | .ldw d rec idx w mode => Sys2Proof.Machine.execLdw d rec idx w mode s
  | .stw d rec idx w mode => Sys2Proof.Machine.execStw d rec idx w mode s
  | .atom d rec idx op w64 ret ar => Sys2Proof.Machine.execAtom d rec idx op w64 ret ar s
  | .fence scope => Sys2Proof.Machine.execFence scope s
  | .stflush rec => Sys2Proof.Machine.execStflush rec s
  | .stdrop rec => Sys2Proof.Machine.execStdrop rec s
  | .stmap rec a => Sys2Proof.Machine.execStmap rec a s
  | .pref rec idx => Sys2Proof.Machine.execPref rec idx s
  | .waitv rec cond idx cmp => Sys2Proof.Machine.execWaitv rec cond idx cmp s
  | .bbarm rec a => Sys2Proof.Machine.execBbarm rec a s
  | .bbwait rec a => Sys2Proof.Machine.execBbwait rec a s
  | .bufset d a => Sys2Proof.Machine.execBufset d a s
  | .bufget d a => Sys2Proof.Machine.execBufget d a s
  | .bufnar d a b => Sys2Proof.Machine.execBufnar d a b s
  | .lds d rec idx w => Sys2Proof.Machine.execLds d rec idx w s
  | .sts d rec idx w => Sys2Proof.Machine.execSts d rec idx w s
  | .tlblk a => Sys2Proof.Machine.execTlblk a s
  | .tlbunlk a => Sys2Proof.Machine.execTlbunlk a s
  | .tlbprb d a b => Sys2Proof.Machine.execTlbprb d a b s
  | .qpush d a => Sys2Proof.Machine.execQpush d a s
  | .qpushw d a => Sys2Proof.Machine.execQpushw d a s
  | .qpop d q => Sys2Proof.Machine.execQpop d q s
  | .qpopw d q => Sys2Proof.Machine.execQpopw d q s
  | .qtry d q b => Sys2Proof.Machine.execQtry d q b s
  | .qtryw d q b => Sys2Proof.Machine.execQtryw d q b s
  | .qlen d q => Sys2Proof.Machine.execQlen d q s
  | .qbind d a => Sys2Proof.Machine.execQbind d a s
  | .spawn a => Sys2Proof.Machine.execSpawn a s
  | .waitc rec a => Sys2Proof.Machine.execWaitc rec a s
  | .withdraw d a => Sys2Proof.Machine.execWithdraw d a s
  | .tasktag a => Sys2Proof.Machine.execTasktag a s
  | .siglead a => Sys2Proof.Machine.execSiglead a s
  | .wbmac q t slot => Sys2Proof.Machine.execWbmac q t slot s
  | .wbmacp q t slot plane => Sys2Proof.Machine.execWbmacp q t slot plane s
  | .wbload q slot => Sys2Proof.Machine.execWbload q slot s
  | .wbswap q => Sys2Proof.Machine.execWbswap q s
  | .wbzero q t => Sys2Proof.Machine.execWbzero q t s
  | .tadd q t => Sys2Proof.Machine.execTadd q t s
  | .tsub q t => Sys2Proof.Machine.execTsub q t s
  | .tshl q t => Sys2Proof.Machine.execTshl q t s
  | .tmov q t => Sys2Proof.Machine.execTmov q t s
  | .tneg q t => Sys2Proof.Machine.execTneg q t s
  | .tslice q t => Sys2Proof.Machine.execTslice q t s
  | .tcvt q t slot => Sys2Proof.Machine.execTcvt q t slot s
  | .settle t => Sys2Proof.Machine.execSettle t s
  | .tlin q t => Sys2Proof.Machine.execTlin q t s
  | .trd q t prov => Sys2Proof.Machine.execTrd q t prov s
  | .twr q t => Sys2Proof.Machine.execTwr q t s
  | .apqk q slot => Sys2Proof.Machine.execApqk q slot s
  | .appv q t slot acc hi => Sys2Proof.Machine.execAppv q t slot acc hi s
  | .apresc q t => Sys2Proof.Machine.execApresc q t s
  | .apnorm q t exp => Sys2Proof.Machine.execApnorm q t exp s
  | .apcfg q => Sys2Proof.Machine.execApcfg q s
  | .cecopy q t tile => Sys2Proof.Machine.execCecopy q t tile s
  | .celist q => Sys2Proof.Machine.execCelist q s
  | .cerope q slot src => Sys2Proof.Machine.execCerope q slot src s
  | .cepatch q slot rot => Sys2Proof.Machine.execCepatch q slot rot s
  | .cereq q slot src => Sys2Proof.Machine.execCereq q slot src s
  | .cered q t op => Sys2Proof.Machine.execCered q t op s
  | .cefill q => Sys2Proof.Machine.execCefill q s
  | .rlxbeg a => Sys2Proof.Machine.execRlxbeg a s
  | .rlxend => Sys2Proof.Machine.execRlxend s
  | .rlxin d => Sys2Proof.Machine.execRlxin d s
  | .rlxout a => Sys2Proof.Machine.execRlxout a s
  | .rlxjac a => Sys2Proof.Machine.execRlxjac a s
  | .rlxstep d => Sys2Proof.Machine.execRlxstep d s
  | .rlxst d => Sys2Proof.Machine.execRlxst d s
  | .rlxabt => Sys2Proof.Machine.execRlxabt s
  | .rlxpeek d => Sys2Proof.Machine.execRlxpeek d s
  | .rlxguess a => Sys2Proof.Machine.execRlxguess a s
  | .callg m => Sys2Proof.Machine.execCallg m s
  | .retg => Sys2Proof.Machine.execRetg s
  | .gateq d m => Sys2Proof.Machine.execGateq d m s
  | .srd d reg => Sys2Proof.Machine.execSrd d reg s
  | .swr d reg => Sys2Proof.Machine.execSwr d reg s
  | .resumeWrite launch core value => Sys2Proof.Machine.execResumeWrite launch core value s
  | .killWrite launch core value => Sys2Proof.Machine.execKillWrite launch core value s
  | .hclk d => Sys2Proof.Machine.execHclk d s
  | .wtime d => Sys2Proof.Machine.execWtime d s
  | .timer a => Sys2Proof.Machine.execTimer a s
  | .stamp a => Sys2Proof.Machine.execStamp a s
  | .enrd d => Sys2Proof.Machine.execEnrd d s
  | .pmrd d m => Sys2Proof.Machine.execPmrd d m s
  | .tmark m => Sys2Proof.Machine.execTmark m s
  | .sleep a => Sys2Proof.Machine.execSleep a s
  | .signal a => Sys2Proof.Machine.execSignal a s
  | .illegalInstruction code => Sys2Proof.Machine.execIllegalInstruction code s
  | .faultRecordWrite asid => Sys2Proof.Machine.execFaultRecordWrite asid s
  | .sideArbitration core side => Sys2Proof.Machine.execSideArbitration core side s
  | .runEnd tid => Sys2Proof.Machine.execRunEnd tid s
  | .codeFetch tid => Sys2Proof.Machine.execCodeFetch tid s
  | .loadReturn req => Sys2Proof.Machine.execLoadReturn req s
  | .wctReturn st => Sys2Proof.Machine.execWctReturn st s
  | .fenceComplete tid => Sys2Proof.Machine.execFenceComplete tid s
  | .acquireHoldEnd tid => Sys2Proof.Machine.execAcquireHoldEnd tid s
  | .pollAttempt tid => Sys2Proof.Machine.execPollAttempt tid s
  | .sleepExpire tid => Sys2Proof.Machine.execSleepExpire tid s
  | .timerExpire tid => Sys2Proof.Machine.execTimerExpire tid s
  | .postedFaultDeliver tid => Sys2Proof.Machine.execPostedFaultDeliver tid s
  | .homeRead req => Sys2Proof.Machine.execHomeRead req s
  | .homeStoreArrival st => Sys2Proof.Machine.execHomeStoreArrival st s
  | .homeStorePerform st => Sys2Proof.Machine.execHomeStorePerform st s
  | .homeAtomicPerform st => Sys2Proof.Machine.execHomeAtomicPerform st s
  | .hubStoreAck st => Sys2Proof.Machine.execHubStoreAck st s
  | .l1LeaseExpire core line => Sys2Proof.Machine.execL1LeaseExpire core line s
  | .windowLeaseWriteback lc win line => Sys2Proof.Machine.execWindowLeaseWriteback lc win line s
  | .pageMigration asid va pa => Sys2Proof.Machine.execPageMigration asid va pa s
  | .tlbWalkComplete req => Sys2Proof.Machine.execTlbWalkComplete req s
  | .l2EvictionError asid core line => Sys2Proof.Machine.execL2EvictionError asid core line s
  | .waveRetire tid => Sys2Proof.Machine.execWaveRetire tid s
  | .leadThreadRetire tid => Sys2Proof.Machine.execLeadThreadRetire tid s
  | .doorbell fn value => Sys2Proof.Machine.execDoorbell fn value s
  | .launchAccept queue => Sys2Proof.Machine.execLaunchAccept queue s
  | .dependenceRead launch => Sys2Proof.Machine.execDependenceRead launch s
  | .launchStartCore launch core => Sys2Proof.Machine.execLaunchStartCore launch core s
  | .wavePlace lc => Sys2Proof.Machine.execWavePlace lc s
  | .childPlace die => Sys2Proof.Machine.execChildPlace die s
  | .logicalCoreStart launch core => Sys2Proof.Machine.execLogicalCoreStart launch core s
  | .handlerWaveStart lc => Sys2Proof.Machine.execHandlerWaveStart lc s
  | .launchFinishCore lc => Sys2Proof.Machine.execLaunchFinishCore lc s
  | .launchFinish launch => Sys2Proof.Machine.execLaunchFinish launch s
  | .permitAudit die => Sys2Proof.Machine.execPermitAudit die s
  | .q0CommandStart core asid => Sys2Proof.Machine.execQ0CommandStart core asid s
  | .benchPlane core asid => Sys2Proof.Machine.execBenchPlane core asid s
  | .promptApply core asid => Sys2Proof.Machine.execPromptApply core asid s
  | .proxyAck core asid => Sys2Proof.Machine.execProxyAck core asid s
  | .ceredLand core asid => Sys2Proof.Machine.execCeredLand core asid s
  | .pairCommandStart core asid => Sys2Proof.Machine.execPairCommandStart core asid s
  | .copyCommandStart core asid => Sys2Proof.Machine.execCopyCommandStart core asid s
  | .nodeComplete core asid cmd => Sys2Proof.Machine.execNodeComplete core asid cmd s
  | .stampSettleWrite lc => Sys2Proof.Machine.execStampSettleWrite lc s
  | .regionOpen core => Sys2Proof.Machine.execRegionOpen core s
  | .regionStart core => Sys2Proof.Machine.execRegionStart core s
  | .relaxVerify core => Sys2Proof.Machine.execRelaxVerify core s
  | .regionClose core => Sys2Proof.Machine.execRegionClose core s
  | .gateReturn tid => Sys2Proof.Machine.execGateReturn tid s
  | .gateTimeout tid => Sys2Proof.Machine.execGateTimeout tid s
  | .contextPreempt asid => Sys2Proof.Machine.execContextPreempt asid s
  | .contextRestore asid => Sys2Proof.Machine.execContextRestore asid s
  | .gangSwitch => Sys2Proof.Machine.execGangSwitch s
  | .debugStop asid => Sys2Proof.Machine.execDebugStop asid s
  | .pcSample asid core => Sys2Proof.Machine.execPcSample asid core s
  | .clockRateChange die clk => Sys2Proof.Machine.execClockRateChange die clk s
  | .powerOnReset fail time cores => Sys2Proof.Machine.execPowerOnReset fail time cores s
  | .functionLevelReset fn => Sys2Proof.Machine.execFunctionLevelReset fn s
  | .create fn => Sys2Proof.Machine.execCreate fn s
  | .destroy fn => Sys2Proof.Machine.execDestroy fn s
  | .setmode fn => Sys2Proof.Machine.execSetmode fn s
  | .setgates fn => Sys2Proof.Machine.execSetgates fn s
  | .regcode fn => Sys2Proof.Machine.execRegcode fn s
  | .observe fn => Sys2Proof.Machine.execObserve fn s
  | .install fn => Sys2Proof.Machine.execInstall fn s
  | .unmap fn => Sys2Proof.Machine.execUnmap fn s
  | .reserve fn => Sys2Proof.Machine.execReserve fn s
  | .switch fn => Sys2Proof.Machine.execSwitch fn s
  | .schedule fn => Sys2Proof.Machine.execSchedule fn s
  | .armstop fn => Sys2Proof.Machine.execArmstop fn s
  | .release fn => Sys2Proof.Machine.execRelease fn s
  | .laneop fn => Sys2Proof.Machine.execLaneop fn s
  | .attest fn => Sys2Proof.Machine.execAttest fn s
  | .weights fn => Sys2Proof.Machine.execWeights fn s
  | .regqueue fn => Sys2Proof.Machine.execRegqueue fn s
  | .causeClear fn mask => Sys2Proof.Machine.execCauseClear fn mask s
  | .hostRegisterWrite fn off value => Sys2Proof.Machine.execHostRegisterWrite fn off value s
  | .ieee1588Slew ppm => Sys2Proof.Machine.execIeee1588Slew ppm s
  | .tdispRequest asid run => Sys2Proof.Machine.execTdispRequest asid run s
  | .hostMemoryAccess asid ide addr data => Sys2Proof.Machine.execHostMemoryAccess asid ide addr data s
  | .ringHeadRaise asid ring value => Sys2Proof.Machine.execRingHeadRaise asid ring value s
  | .queueConsumedRaise queue value => Sys2Proof.Machine.execQueueConsumedRaise queue value s

end Sys2Proof.Machine
end

