-- ==== Sys2Proof/Machine/Issue.lean ====
section
/-! DEFINITION. The issue of a chain group (R33, R35, R114 to R118, R127, R128): the words of the
group, the checks made before any of them takes effect, the waits, and the words themselves, whose
meanings read the thread as it stood at the start of the group's cycle. -/

namespace Sys2Proof.Machine

/-! ### The words of a group -/

/-- A word of a group: its index, its bits, and the instruction it decodes to. -/
structure GroupWord where
  pc : Nat
  raw : Word
  d : Option Decoded := decodeWord raw
  deriving DecidableEq, Repr

/-- Bit C of a word (R108). -/
def chained (w : Word) : Bool := w.getLsbD 31
/-- Bit E of a word. -/
def ends (w : Word) : Bool := w.getLsbD 30

/-- The words of a run that are fetched from a word index on, to the end of the chain group there: a
group ends at a word without C, at the run's E word and at the end of its packet (R33, R114). -/
def groupFrom (pc : Nat) : List Word → List GroupWord
  | [] => []
  | w :: t =>
    let g : GroupWord := { pc := pc, raw := w }
    if chained w && !ends w && pc % 3 < 2 then g :: groupFrom (pc + 1) t else [g]

/-- The chain group at which a run stands. -/
def Run.group (r : Run) : List GroupWord := groupFrom r.ip (r.code.drop (r.ip - r.base))

/-! ### Checks 1 to 3 of R128 -/

/-- The static target of a BR or LOOP word lies in the text section (R111). -/
def targetOk (t : Thread) (pc : Nat) (i : Instr) : Bool :=
  let inside (off : Int) : Bool := 0 ≤ packetTarget pc off && packetTarget pc off < (t.textPkts : Int)
  match i with
  | .bra o | .brt _ o | .brf _ o | .brany _ o | .brall _ o | .call o => inside o.toInt
  | .loop _ n => inside (-(n.toNat : Int))
  | _ => true

/-- Whether a word is an instruction that this thread may issue here (R119, R126, R127, R356). -/
def State.wordOk (s : State) (tid pc : Nat) (i : Instr) : Bool :=
  let t := s.thread tid
  pc < 3 * t.textPkts && targetOk t pc i && usesOk t i (s.uses tid t.isLead i)
  && (!t.isLead || Instr.leadOk i) && s.cvtOk i
  && match Instr.sreg i with
    | some (n, w) => n ≥ 0x800 || sregOk n w
    | none => true

/-- No two words need the same pipe (R115). -/
def portsOk : List Instr → Bool
  | [] => true
  | i :: t => (Instr.port i = .none || t.all fun j => Instr.port j ≠ Instr.port i) && portsOk t

/-- A use conflicts with what another word of the group names (R116). -/
def conflict : Use → Use → Bool
  | .vw a, .vw b | .vw a, .vr b | .vr a, .vw b => a = b
  | .uw a, .uw b | .uw a, .ur b | .ur a, .uw b => a = b
  | .pw a, .pw b | .pw a, .pr b | .pr a, .pw b => a = b
  | _, _ => false

/-- No word reads or writes what another word of the group writes (R116). -/
def hazardFree : List (List Use) → Bool
  | [] => true
  | u :: t => (t.all fun w => u.all fun x => w.all fun y => !conflict x y) && hazardFree t

/-- A GUARD is chained to a word that is no GUARD, RLXBEG or RLXEND (R116, R331, R332). -/
def guardsOk : List Instr → Bool
  | [] => true
  | [.guard _ _] => false
  | .guard _ _ :: j :: t =>
    !(match j with | .guard _ _ => true | _ => false) && !Instr.noGuard j && guardsOk (j :: t)
  | _ :: t => guardsOk t

/-- The first of the words of a group that fails a test of its own (R119, R126, R127). -/
def State.badWord (s : State) (tid : Nat) (g : List GroupWord) : Option GroupWord :=
  g.find? fun w => match w.d with | some d => !s.wordOk tid w.pc d.i | none => true

/-- The trap of checks 1 to 3 (R128) or of a packet that could not be fetched (R354), with its
address; nothing where the group passes. -/
def State.groupTrap (s : State) (tid : Nat) (r : Run) (g : List GroupWord) : Option (TrapCode × Nat) :=
  let t := s.thread tid
  let is := g.filterMap fun w => w.d.map (·.i)
  if r.ip - r.base ≥ 24 || g.any (fun w => chained w.raw && w.pc % 3 = 2) then some (.runlen, 0)
  else if r.ip ≥ 3 * t.textPkts then some (.ill, 0)
  else if g.isEmpty then some (r.stop.getD (.ill, 0))
  else if (s.badWord tid g).isSome || !portsOk is || !hazardFree (is.map (s.uses tid t.isLead)) || !guardsOk is then
    some (.ill, 0)
  else if is.any (fun i => match Instr.sreg i with | some (n, _) => n ≥ 0x800 | none => false) then
    some (.priv, 0)
  else none

/-- Whether the word that fails checks 1 to 3 is a uniform one, for KIND of the records (R348): SRD or SWR
where the trap is PRIV (R355). -/
def State.trapUniform (s : State) (tid : Nat) (g : List GroupWord) (code : TrapCode) : Bool :=
  code = .priv || (code = .ill && ((s.badWord tid g).bind fun w =>
    decodeBody (w.raw.extractLsb' 24 6) (w.raw.extractLsb' 0 24)).any Instr.isUniform)

/-! ### Check 4 and the waits -/

/-- The lanes whose predicate meets a GUARD, as it stood (R162). -/
def Thread.guardMask (t : Thread) (p : PReg) (sense : Bool) : Mask :=
  t.lanesWith fun L => L.p.getLsbD p.toNat = !sense

/-- The words of a group with the lanes a GUARD leaves each of them: what issues, in units of a word
and its GUARD. -/
def State.units (s : State) (t : Thread) : List GroupWord → List (List GroupWord × Instr × Mask)
  | [] => []
  | g :: r =>
    match g.d.map (·.i) with
    | some (Instr.guard p sense) =>
      match r with
      | h :: r =>
        ([g, h], ((h.d.map (·.i)).getD .nop), t.guardMask p sense) :: s.units t r
      | [] => []
    | some i => ([g], i, BitVec.allOnes 32) :: s.units t r
    | none => s.units t r

/-- The lanes of a mask that read a latch that is not valid for them (R122). -/
def State.latchBad (s : State) (tid : Nat) (t : Thread) (i : Instr) (m : Mask) : Mask :=
  let ks := (s.uses tid t.isLead i).filterMap fun u => match u with | .lat k => some k | _ => none
  maskOf fun l => m.getLsbD l && ks.any fun k => !(rd {} (t.lane l).latch k).valid

/-- The load requests that a word's registers and latches wait for in the lanes of a mask (R222). -/
def State.pendingOn (s : State) (tid : Nat) (t : Thread) (i : Instr) (m : Mask) : List Nat :=
  let lanes := lanesOf m
  (s.uses tid t.isLead i).flatMap fun u =>
    match u with
    | .vr n | .vw n => lanes.flatMap fun l => ((t.lane l).pend.filter fun p => p.1 = n).map (·.2)
    | .ur n | .uw n => (t.wpend.filter fun p => p.1 = n).map (·.2)
    | .lat k => lanes.filterMap fun l => (rd {} (t.lane l).latch k).pend
    | _ => []

/-- CALLG, which banks and replaces the registers. -/
def isCallg : Instr → Bool
  | .callg _ => true
  | _ => false

/-- Whether a group holds a cross-lane word that waits while a lane is parked (R208): in a relaxation
body it traps at once (R209). -/
def State.crossing (s : State) (tid : Nat) (run : Mask) (us : List (List GroupWord × Instr × Mask)) : Bool :=
  (us.any fun (_, i, _) => Instr.crossLane i) && (lanesOf run).any fun l => (s.bodyStep tid l).isNone

/-- The lanes that a CALLG of the group calls with: none in a relaxation body, where it traps (R316, R341). -/
def State.calling (s : State) (tid : Nat) (run : Mask) (us : List (List GroupWord × Instr × Mask)) : Bool :=
  us.any fun (_, i, m) =>
    isCallg i && run &&& m ≠ 0 && (lanesOf (run &&& m)).all fun l => (s.bodyStep tid l).isNone

/-- What a group waits for before any of its words is judged (R94, R208, R222, R235, R341). -/
def State.groupWait (s : State) (tid : Nat) (t : Thread) (run : Mask)
    (us : List (List GroupWord × Instr × Mask)) : Option Wait :=
  let calling := s.calling tid run us
  let crossing := s.crossing tid run us || calling
  let pend := (us.flatMap fun (_, i, m) => s.pendingOn tid t i (run &&& m)) ++ if calling then t.pendingReqs else []
  let holds := us.filter fun (_, i, _) => Instr.held i
  if crossing && t.parkedLanes ≠ 0 then some .parked
  else if !pend.isEmpty then some (.pending pend)
  else if (us.any fun (_, i, m) => t.needsRoom i (run &&& m)) && s.memFull t.core then some .room
  else
    match holds.find? fun (_, _, m) => !s.heldOver tid (run &&& m) with
    | some (_, _, m) => some (.held (run &&& m))
    | none => none

/-! ### Issue -/

/-- Runs one word in the issue context. -/
def State.runWord (s : State) (w : GroupWord) : Host.Outcome State Fault Refusal :=
  let m := s.cur.run &&& s.cur.guard.getD (BitVec.allOnes 32)
  let s := { s with cur := { s.cur with mask := m, pc := w.pc, guard := none } }
  exec ((w.d.map (·.i)).getD .nop) s

/-- Runs words one after another, until one waits, ends its activation or does not answer a next
state. -/
def State.runWords (s : State) : List GroupWord → Host.Outcome State Fault Refusal
  | [] => .next s
  | w :: t =>
    match s.runWord w with
    | .next s' =>
      if s'.cur.blocked.isSome || (!s'.cur.traps.isEmpty && !s'.cur.old.acts.isEmpty) then .next s'
      else s'.runWords t
    | o => o

/-- A word that clears flags, whose group may raise others (R205). -/
def Instr.clearsFlags : Instr → Bool
  | .fflclr _ | .swr _ _ => true
  | _ => false

/-- The units of a group in the order the model runs them: a word that clears flags first, so that a
flag raised in the group is kept (R205); a word of the M pipe after the others, so that it counts only
lanes that no other word of the group has trapped (R247); EXIT beside a word of a cast after it, so that the cast sees
the lanes as they stood (R45, R114); CALLG last, so that what the other words write is banked (R341). Where two words of
a group trap one lane by check 5, its record names the first in this order (R128); where two write FMODE, FMODE's value
stands over SWR's, and where two write FFLAGS, that of the later in the text (R205): DESIGN CHOICE,
notes/assumptions/23. The order changes no other result (R116). -/
def ordered (us : List (List GroupWord × Instr × Mask)) : List (List GroupWord × Instr × Mask) :=
  let cast := us.any fun u => Instr.major u.2.1 = 0x06
  let rank (i : Instr) : Nat :=
    if Instr.clearsFlags i then 0 else if isCallg i || (i = .exit && cast) then 3
    else if Instr.port i = .pipe .m then 2 else 1
  sortBy (fun u => rank u.2.1) us

/-- The traps of a group in a callee, each unit run from the start of the cycle without the lanes that another
has trapped; nothing where one of them waits (R344). -/
def State.calleeTraps (s : State) (us : List (List GroupWord × Instr × Mask)) : Option (List Taken) :=
  us.foldl (fun acc u => acc.bind fun xs =>
    match (s.excluding xs).runWords u.1 with
    | .next s' => if s'.cur.blocked.isSome then none else some s'.cur.traps
    | _ => some xs) (some [])

/-- Runs a group from the start of its cycle without the lanes that trap in it: lanes found to trap
take no effect from any word (R8, R123), so the group is run again without them, and they are parked
last. In a callee the traps of every unit end the activation, and none has an effect (R344). -/
def State.runGroup (s : State) (us : List (List GroupWord × Instr × Mask)) :
    Nat → List Taken → Host.Outcome State Fault Refusal
  | 0, _ => .next s
  | fuel + 1, xs =>
    match (s.excluding xs).runWords (us.flatMap (·.1)) with
    | .next s' =>
      if s'.cur.blocked.isSome then .next s'
      else if s'.cur.traps.length = xs.length then
        .next (if xs.isEmpty then s' else s'.takeAll xs)
      else if !s'.cur.old.acts.isEmpty then
        match s.calleeTraps us with
        | some ys => .next ((s.excluding ys).gateFault ys)
        | none => .next { s with cur := { s.cur with blocked := some .parked } }
      else if us.length ≤ 1 then .next s'
      else s.runGroup us fuel s'.cur.traps
    | o => o

/-- The state that the waiting word of a group leaves, run alone from the start of the cycle: only its
own preparation stands (R35). -/
def State.runBlocked (s : State) (w : Wait) :
    List (List GroupWord × Instr × Mask) → State × Wait
  | [] => (s, w)
  | u :: t =>
    match s.runWords u.1 with
    | .next b => match b.cur.blocked with | some w => (b, w) | none => s.runBlocked w t
    | _ => s.runBlocked w t

/-- The lanes of the run take n before the E group's words give them another PC (R151). -/
def State.fallThrough (s : State) (tid : Nat) (run : Mask) (pc : Nat) : State :=
  s.mapThread tid fun t => t.mapLanes fun l L =>
    if run.getLsbD l then { L with npc := BitVec.ofNat 32 (nextPacket pc) } else L

/-- The wave is suspended at the group (R35), of which a word waits: it gives up its side. Its lanes have passed the
checks made before the wait, which are not made again (R128). -/
def State.suspend (s : State) (tid : Nat) (w : Wait) (pc : Nat) : State :=
  { ((s.mapThread tid fun t =>
      { t with wait := some w, waitAt := pc, run := t.run.map fun r => { r with passed := some (r.ip, r.mask) } }).releaseSide tid) with
    cur := {} }

/-- The lanes of a run that have passed checks 1 to 4 at the group at which it stands: those that waited at it; nothing
where the group has not been judged (R128). -/
def Run.judged (r : Run) : Option Mask := r.passed.bind fun p => if p.1 = r.ip then some p.2 else none

/-- The state in which a wave is suspended by a word of its group: what the waiting word has prepared stands. Once BARW has
arrived, the traps that other words of its group take are taken at once: their lanes are no part of the arrival (R128,
R167). -/
def State.suspended (s : State) (w : Wait) (xs : List Taken) (us : List (List GroupWord × Instr × Mask)) : State × Wait :=
  let (b, w) := (s.excluding xs).runBlocked w us
  match w with
  | .phase _ _ => (b.takeAll xs, w)
  | _ => (b, w)

/-- The word of a group that waits before any is judged (R366). -/
def State.waitWord (s : State) (tid : Nat) (t : Thread) (run : Mask) (us : List (List GroupWord × Instr × Mask))
    (w : Wait) (grp : Nat) : Nat :=
  let on (u : List GroupWord × Instr × Mask) : Bool :=
    match w with
    | .parked => Instr.crossLane u.2.1 || isCallg u.2.1
    | .pending _ => !(s.pendingOn tid t u.2.1 (run &&& u.2.2)).isEmpty || isCallg u.2.1
    | .room => t.needsRoom u.2.1 (run &&& u.2.2)
    | .held _ => Instr.held u.2.1 && !s.heldOver tid (run &&& u.2.2)
    | _ => false
  (((us.find? on).bind fun u => u.1.getLast?).map (·.pc)).getD grp

/-- What the issue of a group counts: event code 1 (R365), and the energy of its pipes and of the L1, the stash and the
register file, at the clock step of the run (R23, R364). -/
def State.groupCounts (s : State) (tid : Nat) (us : List (List GroupWord × Instr × Mask)) : State :=
  let lc := (s.thread tid).lc
  let s := s.countBy tid 1 1
  let clk := s.clkOfThread tid
  let vector := us.any fun u => match Instr.port u.2.1 with | .pipe .m => false | .pipe _ => true | _ => false
  let (s, k) := s.draw
  (if vector then s.spendAt clk lc 2 1 else s).spendAt clk lc 3 (Config.energyEvents k)

/-- Whether a thread may issue now: its run has begun and not ended, nothing holds it, and its wait
is over (R39). Which of the threads whose next group asks for the M pipe has it next is the agenda's choice: the grants of
R47 are one of its orders (R115; DESIGN CHOICE, notes/assumptions/78). -/
def State.mayIssue (s : State) (tid : Nat) : Bool :=
  let t := s.thread tid
  t.alive && !t.stopped && (s.domain (s.ctxOf tid)).running
  && (match t.run with | some r => r.started && !r.ended | none => false)
  && (t.isLead || (s.core t.core).side0.cur = some tid || (s.core t.core).side1.cur = some tid)
  && (match t.wait with | some w => s.waitOver tid w | none => true)
  && !t.pastBudget && !s.stopDue tid

/-- A word at which other lanes may be held while a lane is parked: a cross-lane word or CALLG (R208, R341). -/
def holding (i : Instr) : Bool := Instr.crossLane i || isCallg i

/-- The lanes that a run finds held at the group it has reached: their PCs merge with it (R208). A lane that a trap of its
own parked there, and that was resumed before another run began, stands there with its latches kept as a held one does, and
joins with them (R123, R208; DEDUCED, notes/assumptions/80). -/
def Thread.heldAt (t : Thread) (r : Run) : Mask :=
  if r.group.any fun w => w.d.any fun d => holding d.i then
    t.lanesWith (fun L => L.st = .live && L.hold = .no && L.kept.isSome && L.pc.toNat = r.ip) &&& ~~~ r.mask
  else 0

/-- The lanes of a mask join the run with the latches they kept (R208, R123). -/
def Thread.joinRun (t : Thread) (m : Mask) : Thread :=
  { (t.mapLanes fun l L => if m.getLsbD l then { L with latch := L.kept.getD [], kept := none } else L) with
    run := t.run.map fun r => { r with mask := r.mask ||| m } }

/-- Lanes held at the group that a thread's run has reached join the run. -/
def State.joinHeld (s : State) (tid : Nat) : State :=
  let t := s.thread tid
  match t.run with
  | some r => if r.started && t.heldAt r ≠ 0 then s.mapThread tid fun t => t.joinRun (t.heldAt r) else s
  | none => s

/-- The issue context of a group at the start of its cycle, with the counters as they stand (R114). -/
def State.issueAt (s : State) (tid : Nat) (t : Thread) (run : Mask) (grp : Nat) : State :=
  { s with cur := { issueOf tid t run grp with mx := (s.lc t.lc).mx, made := s.reqs.length + s.stores.length } }

/-- Whether a run must end at the group that it has reached: a lane of the wave was resumed since it began,
and the group may only issue with that lane (R208, R359). In a relaxation body the word traps at once (R209, R316). -/
def State.endsHere (s : State) (tid : Nat) (r : Run) : Bool :=
  r.resumed && (r.group.any fun w => w.d.any fun d => holding d.i) &&
    (lanesOf r.mask).any fun l => (s.bodyStep tid l).isNone

/-- The issue of a thread's next chain group. -/
def State.issueGroup (s : State) (tid : Nat) : Host.Outcome State Fault Refusal :=
  if !s.mayIssue tid then .next s else
  let s := s.joinHeld tid
  let t := s.thread tid
  match t.run with
  | some r =>
    let g := r.group
    if s.endsHere tid r then .next ((s.releaseSide tid).mapThread tid fun t => t.endRunAt r) else
    let s := s.issueAt tid t r.mask r.ip
    match (if r.judged.isSome then none else s.groupTrap tid r g) with
    | some (code, addr) =>
      let uni := s.trapUniform tid g code
      let s : State := { s with cur := { s.cur with uniform := uni } }
      match (if addr = 0 then exec (.illegalInstruction code) s
             else .next (s.trapping ((lanesOf s.cur.run).map fun l => { lane := l, code := code, addr := addr, stack := true }) id)) with
      | .next s' => .next (s'.afterGroup tid r.ip false)
      | o => o
    | none =>
      let us := s.units t g
      -- check 4: the lanes that read a latch that is not valid for them park (R122)
      let bad := us.foldl (fun b (_, i, m) => b ||| s.latchBad tid t i (r.mask &&& m &&& ~~~ r.judged.getD 0)) 0
      let s := s.trapLanes bad .latchv id
      if (!t.acts.isEmpty && bad ≠ 0) || bad = r.mask then .next (s.afterGroup tid r.ip false)
      else
      let run := r.mask &&& ~~~ bad
      let t := s.thread tid
      let s := s.issueAt tid t run r.ip
      match s.groupWait tid t run us with
      | some w => .next (s.suspend tid w (s.waitWord tid t run us w r.ip))
      | none =>
        let e := g.any fun w => ends w.raw
        let s := if e then s.fallThrough tid run r.ip else s
        match s.runGroup (ordered us) 4 [] with
        | .next s' =>
          match s'.cur.blocked with
          | none => .next ((s'.afterGroup tid (r.ip + g.length) e).groupCounts tid us)
          | some w =>
            let (b, w) := s.suspended w s'.cur.traps (ordered us)
            .next (b.suspend tid w b.cur.pc)
        | o => o
  | none => .next s

end Sys2Proof.Machine
end

