-- ==== Sys2Proof/Machine/Advance.lean ====
section
/-! DEFINITION. What a step of the machine does: the passing of time (R19 to R22, R352, R364), the choice
of what happens next where no outside choice is given (notes/assumptions/1), and the placing of one
word where the next step fetches it. -/

namespace Sys2Proof.Machine

/-! ### Time -/

/-- The new skew of a core's copy of HCLK after dt ticks: at most 2 either way, and such that its readings
never decrease (R20). -/
def newSkew (old : Int) (dt : Nat) (free : Int) : Int := max (old - dt) (max (-2) (min 2 free))

/-- Whether a thread's slot stands in FETCHWAIT: it has lanes to run, and its next run is not fetched (R366). -/
def State.fetching (s : State) (t : Thread) : Bool :=
  t.alive && !t.isLead && !t.stopped && t.run.isNone && t.wait.isNone && t.lowest.isSome
  && (s.domain (s.lc t.lc).asid).goes

/-- The slot-cycles that dt ticks bring in FETCHWAIT (R365). -/
def State.fetchCycles (s : State) (dt : Nat) : State :=
  (indices s.fetching s.threads).foldl (fun s i => s.countBy i 3 (Config.cycles (s.clkOf (s.thread i).core) dt)) s

/-- HCLK advances by dt ticks: with it WTIME of the threads of contexts that are switched in and not stopped,
the resident ticks of launches, and the stores whose time has come (R22, R90, R352, R364, R365). -/
def State.tick (s : State) (dt : Nat) : State :=
  if dt = 0 then s else
  let (s, k) := s.draw
  let goes (lc : Nat) : Bool := (s.domain (s.lc lc).asid).goes
  let live := indices (fun x => x.live && (s.domain x.asid).alive && (s.domain x.asid).running) s.lcs
  let s := s.fetchCycles dt
  let s : State :=
    { s with
      hclk := s.hclk + dt
      threads := s.threads.map fun t => if t.alive && goes t.lc then { t with wtime := t.wtime + dt } else t
      cores := (List.range Config.cores).map fun c =>
        let x := s.core c
        { x with skew := newSkew x.skew dt (Config.skew k c) } }
  (live.foldl (fun s lc => s.spend lc 7 dt) s).settle

/-! ### What may happen (notes/assumptions/1) -/

/-- A step of the device, or an issue, as a function of the state. -/
abbrev Move := State → Host.Outcome State Fault Refusal

/-- The steps of a thread. -/
def threadSteps (tid : Nat) : List Move :=
  [execCodeFetch tid, execRunEnd tid, execFenceComplete tid, execAcquireHoldEnd tid, execPollAttempt tid, execSleepExpire tid,
   execTimerExpire tid, execPostedFaultDeliver tid, execGateReturn tid, execGateTimeout tid, execWaveRetire tid, execLeadThreadRetire tid]

/-- The steps of a core that belong to no context. -/
def coreSteps (core : Nat) : List Move :=
  [execSideArbitration core 0, execSideArbitration core 1, execRegionOpen core, execRegionStart core, execRelaxVerify core, execRegionClose core]

/-- The steps of a context on a core. -/
def State.unitSteps (s : State) (asid core : Nat) : List Move :=
  [execQ0CommandStart core asid, execBenchPlane core asid, execPromptApply core asid, execProxyAck core asid, execCeredLand core asid,
   execPairCommandStart core asid, execCopyCommandStart core asid, execPcSample asid core]
  ++ (s.unit asid core).cmdsAll.map fun c => execNodeComplete core asid c.id

/-- The steps of a launch-on-core. -/
def State.lcSteps (s : State) (lc : Nat) : List Move :=
  [execWavePlace lc, execHandlerWaveStart lc, execLaunchFinishCore lc, execStampSettleWrite lc]
  ++ (List.range 16).flatMap fun w => (rd ({} : Window) (s.lc lc).windows w).entries.map fun e => execWindowLeaseWriteback lc w e.off

/-- The steps of a launch. -/
def State.launchSteps (s : State) (n : Nat) : List Move :=
  [execDependenceRead n, execLaunchFinish n] ++
  (match s.launch? n with
   | some l => l.todo.flatMap fun k => [execLaunchStartCore n k, execLogicalCoreStart n (s.physical k)]
   | none => [])

/-- The step that a pending command of a function makes (R375). -/
def State.commandSteps (s : State) (fn : Nat) : List Move :=
  match (s.fn fn).pending with
  | none => []
  | some b =>
    match leAt b 0 4 with
    | 1 => [execCreate fn] | 2 => [execDestroy fn] | 3 => [execSetmode fn] | 4 => [execSetgates fn] | 5 => [execRegcode fn]
    | 6 => [execObserve fn] | 7 => [execInstall fn] | 8 => [execUnmap fn] | 9 => [execReserve fn] | 10 => [execSwitch fn]
    | 11 => [execSchedule fn] | 12 => [execArmstop fn] | 13 => [execRelease fn] | 14 => [execLaneop fn] | 15 => [execAttest fn]
    | 16 => [execWeights fn] | 17 => [execRegqueue fn] | _ => []

/-- The steps of a domain. -/
def State.domainSteps (s : State) (asid : Nat) : List Move :=
  [execFaultRecordWrite asid, execDebugStop asid] ++ (if (s.domain asid).halting then [execContextPreempt asid] else []) ++ (s.domain asid).queues.map (fun w => execLaunchAccept w.queue)
  ++ (List.range (s.domain asid).units.length).flatMap (s.unitSteps asid)

/-- Every step of the device, of whatever condition, that its state names; outside inputs are not among
them. -/
def State.steps (s : State) : List Move :=
  let nums {α : Type} (l : List α) : List Nat := List.range l.length
  let cores := ((s.threads.map (·.core)) ++ s.lcs.map (·.core)).eraseDups
  (nums s.threads).flatMap threadSteps ++ cores.flatMap coreSteps
  ++ (nums s.reqs).flatMap (fun n => [execHomeRead n, execLoadReturn n, execTlbWalkComplete n])
  ++ (nums s.stores).flatMap (fun n =>
      [execHomeStoreArrival n, execHomeStorePerform n, execHomeAtomicPerform n, execHubStoreAck n, execWctReturn n])
  ++ s.copies.map (fun c => execL1LeaseExpire c.core c.line)
  ++ (nums s.lcs).flatMap s.lcSteps ++ (nums s.launches).flatMap s.launchSteps
  ++ (nums s.domains).flatMap s.domainSteps
  ++ (List.range Config.dies).flatMap (fun d => [execChildPlace d, execPermitAudit d])
  ++ s.moving.map (fun m => execPageMigration m.1 m.2.1 m.2.2)
  ++ (nums s.fns).flatMap s.commandSteps ++ [execGangSwitch]

/-- What a choice of the agenda does: a step of the device, the issue of a thread's next group, an error that arises,
the host's registering of memory, or the turn of the copy commands. A word is no step of its own: it issues in its thread's group. -/
def State.take (s : State) : Choice → Host.Outcome State Fault Refusal
  | .perform _ ev => if ev.isEvent then exec ev { s with cur := {} } else .next s
  | .issue _ tid => s.issueGroup tid
  | .flaw _ lines stash => .next { s with flawed := s.flawed ++ lines, flawedStash := s.flawedStash ++ stash }
  | .register _ unreached => .next { s with unreached := unreached }
  | .copyTurn _ n => .next { s with copyTurn := n }

/-- The ticks that pass before a choice. -/
def Choice.ticks : Choice → Nat
  | .perform dt _ => dt
  | .issue dt _ => dt
  | .flaw dt _ _ => dt
  | .register dt _ => dt
  | .copyTurn dt _ => dt

/-- Whether a move changes the state. -/
def State.movedBy (s : State) (f : Move) : Bool :=
  match f s with
  | .next t => t ≠ s
  | _ => true

/-- What happens where the agenda is empty: a step of the device or the issue of a thread's group that
changes the state, in turn by HCLK; with none of those, nothing. -/
def State.onItsOwn (s : State) : Host.Outcome State Fault Refusal :=
  let issues : List Move := (List.range s.threads.length).map fun i s => s.issueGroup i
  let moves := s.steps ++ issues
  match (turned moves s.hclk).find? s.movedBy with
  | some f => f s
  | none => .next s

/-- What follows every step at once: faults that were found after the issue of their words are taken, waiting stores
whose pages are there go on, the hub performs what it can, and tiles that have settled give their stamps their time. -/
def State.endStep (s : State) : State := s.takeFaults.sendMapped.flushMisses.flushOut.latchStamps

/-- One step of a device that has come up, or that a power-on reset brings up: the first choice of the
agenda after its ticks, or with none what the machine does on its own after a tick. -/
def State.advance (s : State) : Host.Outcome State Fault Refusal :=
  let out := match s.agenda with
    | c :: rest => (({ s with agenda := rest }).tick c.ticks).take c
    | [] => (s.tick 1).onItsOwn
  match out with
  | .next t => .next t.endStep
  | o => o

/-- Whether the first choice of the agenda is a power-on reset (R390). -/
def State.resets (s : State) : Bool :=
  match s.agenda with
  | .perform _ (.powerOnReset _ _ _) :: _ => true
  | _ => false

/-! ### One word where the next step fetches it -/

/-- The code address of the word that `placeWord` places, and the address of its text section (R145). -/
def wordCode : Nat := 0

/-- A launch whose text is one packet: the word, and two NOPs. -/
def wordLaunch : Launch :=
  { asid := 1, queue := 0, seq := 1, code := wordCode, leadEntry := 0, waveEntry := 0, control := BitVec.ofNat 64 (1 <<< 13 + 7),
    place := 1, reqtag := 0, fmt := List.replicate 8 0, bufrec := List.replicate 16 0, qbind := List.replicate 11 0,
    compctr := 0, energy := 0, stampbuf := 0, handler := 0, depaddr := 0, depthresh := 0, text := wordCode + 0x100,
    textPkts := 1, running := [0] }

/-- A wave of that launch in slot 0 of core 0, whose run has fetched the packet. -/
def wordThread (w : Word) : Thread :=
  { newThread wordLaunch 0 0 .initial 32 0 with
    run := some { mask := BitVec.allOnes 32, ip := 0, base := 0, code := [w, 0, 0], started := true } }

/-- A word in device memory as the first of a packet of NOPs, in the text of a launch of a context that is
switched in, and a wave of it on side 0 of core 0 whose next group begins with the word: the next step
issues it. It stands for the loading of a program from outside the machine (notes/assumptions/2). -/
def State.placeWord (s : State) (w : Word) : State :=
  { s with
    bringUp := 8, failed := 0, gang := 0,
    mem := memPutN s.mem (wordCode + 0x100) (bytesOf 12 w.toNat)
    domains := wr {} s.domains 1 { alive := true, debug := true, pages := [⟨0, 16, 0, true, true⟩] }
    launches := wr wordLaunch s.launches 0 wordLaunch
    lcs := wr {} s.lcs 0 { launch := 0, asid := 1, live := true, queues := newQueues wordLaunch }
    threads := wr {} s.threads 0 (wordThread w)
    cores := upd {} s.cores 0 fun c => { c with side0 := { cur := some 0, last := 0 } }
    agenda := [.issue 0 0] }

end Sys2Proof.Machine
end

