-- ==== Sys2Proof/Machine/Step.lean ====
section
/-! DEFINITION. One step of the machine, and the placing of a word where it fetches next. -/

namespace Sys2Proof.Machine

/-- One step: a device that stands at a failed step of its bring-up does nothing but reset (R390). -/
def step (s : State) : Host.Outcome State Fault Refusal :=
  if s.bringUp ≠ 8 && !s.resets then .fault (.bringUpFailed s.failed) else s.advance

/-- The state with an instruction of a table row where `step` fetches its next one. -/
def State.withFetchWord (s : State) (nbits w : Nat) : State :=
  s.placeWord (BitVec.ofNat 32 (if nbits = 0 then 0 else w))

end Sys2Proof.Machine
end

