-- ==== Sys2Proof/Safety.lean ====
section
/-! DEFINITION. The terms in which claims are stated: runs and safe runs, what a word may change (its
frame), and what the results of each shape of word are, said of the states before and after it. -/

namespace Sys2Proof.Machine

/-! ### Runs -/

/-- A state that steps lead to from another. -/
inductive Reaches : State → State → Prop where
  | refl (s : State) : Reaches s s
  | step {s t u : State} : Reaches s t → step t = .next u → Reaches s u

/-- A run is safe when none of its steps ends in a fault or a refusal. -/
def State.Safe (s : State) : Prop := ∀ t, Reaches s t → ∃ u, step t = .next u

/-! ### Completion -/

/-- An instruction answers a next state, and what that state is to the one before. -/
def Answers (i : Instr) (s : State) (p : State → Prop) : Prop := ∃ t, exec i s = .next t ∧ p t

/-! ### Frames -/

/-- Nothing but one thread differs. -/
def OnlyThread (tid : Nat) (s t : State) : Prop :=
  t = { s with threads := t.threads } ∧ ∀ i, i ≠ tid → t.thread i = s.thread i

/-- Nothing but the lanes of the issuing thread differs. -/
def OnlyLanes (s t : State) : Prop :=
  OnlyThread s.cur.tid s t ∧ t.me = { s.me with lanes := t.me.lanes }

/-- The issuing thread stands outside a callee (R345) and none of its lanes of Active() is in a relaxation
body (R316). -/
def State.Top (s : State) : Prop := s.cur.old.acts = [] ∧ s.bodyLanes s.cur.mask = 0

/-! ### Results -/

/-- Whether a lane destination is register n: N keeps the value in the latch (R121). -/
def dstIs (d : Dst) (n : Nat) : Bool :=
  match d with
  | .reg r => r.toNat = n
  | .latch => false

/-- A word wrote one 32-bit register of each lane of Active(), unless N kept the value in the latch, and
pushed the latch pair of its pipe in every lane of the run (R120, R121). Nothing else changed. -/
def LaneResult (s t : State) (p : Pipe) (d : Dst) (f : Nat → Word) : Prop :=
  OnlyLanes s t ∧ ∀ l, l < 32 →
    let L := s.me.lane l
    let L' := t.me.lane l
    L' = { L with v := L'.v, latch := L'.latch } ∧
    (∀ n, rd 0 L'.v n =
      if s.cur.mask.getLsbD l ∧ dstIs d n then f l
      else rd 0 L.v n) ∧
    (∀ k, rd {} L'.latch k =
      if s.cur.run.getLsbD l ∧ k = p.latch then
        { val := if s.cur.mask.getLsbD l then f l else 0, valid := true }
      else if s.cur.run.getLsbD l ∧ k = p.latch + 1 then rd {} L.latch p.latch
      else rd {} L.latch k)

/-- A word wrote a group of registers of each lane of Active() and pushed no latch (R120). -/
def GroupResult (s t : State) (d : Nat) (f : Nat → List Word) : Prop :=
  OnlyLanes s t ∧ ∀ l, l < 32 →
    let L := s.me.lane l
    let L' := t.me.lane l
    L' = { L with v := L'.v } ∧
    ∀ n, rd 0 L'.v n =
      if s.cur.mask.getLsbD l ∧ d ≤ n ∧ n < d + (f l).length then rd 0 (f l) (n - d) else rd 0 L.v n

/-- A word that loads n registers from a first one, or the latch alone, has begun: the registers of the lanes whose access
returns 0 are 0, the others stay as they are until their value comes back, and one register's value pushes the M latch
pair (R8, R120, R219, R222). Nothing else changed. -/
def LoadBegins (s t : State) (d : Option Nat) (n : Nat) (zero : Nat → Bool) : Prop :=
  OnlyLanes s t ∧ ∀ l, l < 32 →
    let L := s.me.lane l
    let L' := t.me.lane l
    L' = { L with v := L'.v, latch := L'.latch } ∧
    (∀ k, rd 0 L'.v k =
      if s.cur.mask.getLsbD l ∧ zero l ∧ d.any (fun r => r ≤ k && k < r + n) then 0 else rd 0 L.v k) ∧
    (∀ k, rd {} L'.latch k =
      if s.cur.run.getLsbD l ∧ n = 1 ∧ k = Pipe.m.latch then { val := 0, valid := true }
      else if s.cur.run.getLsbD l ∧ n = 1 ∧ k = Pipe.m.latch + 1 then rd {} L.latch Pipe.m.latch
      else rd {} L.latch k)

/-- A word wrote one predicate of each lane of Active(). -/
def PredResult (s t : State) (p : PReg) (f : Nat → Bool) : Prop :=
  OnlyLanes s t ∧ ∀ l, l < 32 →
    let L := s.me.lane l
    let L' := t.me.lane l
    L' = { L with p := L'.p } ∧
    ∀ q : PReg, L'.p.getLsbD q.toNat =
      if s.cur.mask.getLsbD l ∧ q = p then f l else L.p.getLsbD q.toNat

/-- A word gave each lane of Active() the PC it takes at the end of the run (R151). -/
def BranchResult (s t : State) (f : Nat → Nat) : Prop :=
  OnlyLanes s t ∧ ∀ l, l < 32 →
    t.me.lane l =
      { s.me.lane l with
        npc := if s.cur.mask.getLsbD l then BitVec.ofNat 32 (f l) else (s.me.lane l).npc }

/-- A word wrote one uniform register. -/
def UniResult (s t : State) (d : UReg) (x : Dword) : Prop :=
  OnlyThread s.cur.tid s t ∧ t.me = { s.me with w := t.me.w } ∧
  ∀ n, rd 0 t.me.w n = if n = d.toNat then x else rd 0 s.me.w n

/-- A floating-point word: the result of LaneResult, and the flags of the lanes of Active() ORed into FFLAGS
(R84). -/
def FloatResult (s t : State) (p : Pipe) (d : Dst) (f : Nat → Word × Flags) : Prop :=
  ∃ u, LaneResult s u p d (fun l => (f l).1) ∧
    OnlyThread s.cur.tid u t ∧
    t.me = { u.me with
      fflags := (lanesOf s.cur.mask).foldl (fun x l => x ||| (f l).2) u.me.fflags }

/-- Memory, every LSTASH area and every thread's stash are in canonical form (notes/assumptions/3). -/
def State.MemOk (s : State) : Prop :=
  Memory.wf s.mem = true ∧ (∀ x ∈ s.lcs, Memory.wf x.lstash = true) ∧ ∀ t ∈ s.threads, Memory.wf t.stash = true

/-! ### Rounding

A positive number is given by its cut: `le q` says that q is at most it, `lt q` that q is less. -/

/-- 2^e. -/
def pow2 (e : Int) : Rat := if 0 ≤ e then ((2 ^ e.toNat : Nat) : Rat) else 1 / ((2 ^ (-e).toNat : Nat) : Rat)

/-- R71's choice of the multiple k of a spacing u for a number of the sign `neg`. -/
def NearestMultiple (r : Rnd) (neg : Bool) (le lt : Rat → Prop) (u : Rat) (k : Nat) : Prop :=
  let down : Prop := le ((k : Rat) * u) ∧ ¬ le (((k : Rat) + 1) * u)
  let up : Prop := ¬ lt ((k : Rat) * u) ∧ lt (((k : Rat) - 1) * u)
  let low : Rat := ((k : Rat) - 1 / 2) * u
  let high : Rat := ((k : Rat) + 1 / 2) * u
  (r = .rtz → down) ∧ (r = .rdn → (neg = true → up) ∧ (neg = false → down)) ∧
  (r = .rup → (neg = true → down) ∧ (neg = false → up)) ∧
  (r = .rne → le low ∧ ¬ lt high ∧ (¬ lt low ∨ le high → k % 2 = 0))

/-- R71 and R73: `out` is the number rounded at the type's spacing, with NX where it is inexact and UF by tininess
after rounding; `ofl` where the rounded number passes the type's largest. -/
def RoundedAt (t : FSpec) (r : Rnd) (neg : Bool) (le lt : Rat → Prop) (out ofl : Option (Nat × Flags)) : Prop :=
  ∀ x : Int, le (pow2 x) → ¬ le (pow2 (x + 1)) → ∀ M E, t.dec (t.maxCode false) = .fin false M E →
    let u := pow2 (max (x - t.fb) (t.emin - t.fb))
    ∃ k : Nat, NearestMultiple r neg le lt u k ∧
      (((M : Rat) * pow2 E < (k : Rat) * u → out = ofl) ∧
       ((k : Rat) * u ≤ (M : Rat) * pow2 E → ∃ c f m e, out = some (c, f) ∧ c < 2 ^ t.width ∧
          t.dec c = .fin neg m e ∧ (m : Rat) * pow2 e = (k : Rat) * u ∧
          ∃ j : Nat, NearestMultiple r neg le lt (pow2 (x - t.fb)) j ∧
            (le ((k : Rat) * u) ∧ ¬ lt ((k : Rat) * u) → f = 0) ∧
            (¬ le ((k : Rat) * u) ∨ lt ((k : Rat) * u) →
              f = if (j : Rat) * pow2 (x - t.fb) < pow2 t.emin then fNX ||| fUF else fNX)))

/-- R73's result of an overflow: an infinity, or the type's largest number where the mode rounds away from it. -/
def overflowResult (t : FSpec) (r : Rnd) (neg : Bool) : Option (Nat × Flags) :=
  some (if r = .rne ∨ (r = .rdn ∧ neg = true) ∨ (r = .rup ∧ neg = false) then t.infCode neg else t.maxCode neg, fOF ||| fNX)

/-- An FP32 result as a code and its flags. -/
def asCode (x : Word × Flags) : Nat × Flags := (x.1.toNat, x.2)

/-- A function's FP32 result is the real number y, not 0, rounded under RNE (R80). -/
def RealRounded (y : ℝ) (out : Word × Flags) : Prop :=
  RoundedAt fp32 .rne (y < 0) (fun q => (q : ℝ) ≤ |y|) (fun q => (q : ℝ) < |y|) (some (asCode out))
    (overflowResult fp32 .rne (y < 0))

end Sys2Proof.Machine
end

