-- ==== Sys2Proof/Certificates/Slice0/Obligations.lean ====
section
/-! DEFINITION. The statements for the provers: what each instruction and each step of the device does, with
its frame, that it completes, and what holds of the machine as a whole. `Answers i s p` says that `exec i s` is
a next state of which p holds; `LaneResult`, `GroupResult`, `PredResult`, `UniResult`, `BranchResult` and
`FloatResult` say what a word wrote and that nothing else changed (Sys2Proof/Safety.lean). -/

section

open Sys2Proof Sys2Proof.Machine

/-! ### Lane-wise integer words -/

/-- R174, the binary words of integer and address arithmetic: each lane of Active() writes the result of its
two sources, and nothing but its destination and the I latch pair changes. -/
def Obligations.IntegerBinaryResults : Prop :=
  ∀ (s : State) (d : Dst) (a b : Src),
    let gives (i : Instr) (f : Word → Word → Word) : Prop :=
      Answers i s fun t => LaneResult s t .i d fun l => f (s.src l a) (s.src l b)
    gives (.iadd d a b) (fun x y => BitVec.ofNat 32 (x.toNat + y.toNat)) ∧
    gives (.isub d a b) (fun x y => BitVec.ofInt 32 (x.toInt - y.toInt)) ∧
    gives (.and d a b) (fun x y => x &&& y) ∧
    gives (.or d a b) (fun x y => x ||| y) ∧
    gives (.xor d a b) (fun x y => x ^^^ y) ∧
    gives (.andn d a b) (fun x y => x &&& ~~~ y) ∧
    gives (.imin d a b) (fun x y => BitVec.ofInt 32 (min x.toInt y.toInt)) ∧
    gives (.imax d a b) (fun x y => BitVec.ofInt 32 (max x.toInt y.toInt)) ∧
    gives (.iminu d a b) (fun x y => BitVec.ofNat 32 (min x.toNat y.toNat)) ∧
    gives (.imaxu d a b) (fun x y => BitVec.ofNat 32 (max x.toNat y.toNat)) ∧
    gives (.shl d a b) (fun x y => if y.toNat ≥ 32 then 0 else x <<< y.toNat) ∧
    gives (.shr d a b) (fun x y => if y.toNat ≥ 32 then 0 else x >>> y.toNat) ∧
    gives (.sar d a b) (fun x y => x.sshiftRight (min y.toNat 31)) ∧
    gives (.rol d a b) (fun x y => x.rotateLeft (y.toNat % 32)) ∧
    gives (.iabsd d a b) (fun x y => BitVec.ofInt 32 |x.toInt - y.toInt|) ∧
    gives (.imul d a b) (fun x y => BitVec.ofInt 32 (x.toInt * y.toInt)) ∧
    gives (.imulh d a b) (fun x y => BitVec.ofInt 32 (x.toInt * y.toInt / 2 ^ 32)) ∧
    gives (.imulhu d a b) (fun x y => BitVec.ofNat 32 (x.toNat * y.toNat / 2 ^ 32))

/-- R174, the unary words, and R178 and R179, the words with an immediate. -/
def Obligations.IntegerUnaryAndImmediateResults : Prop :=
  ∀ (s : State) (d : Dst) (a : Src) (imm : BitVec 10) (n : BitVec 5) (long : BitVec 17) (r : LReg),
    let gives (i : Instr) (f : Word → Word) : Prop :=
      Answers i s fun t => LaneResult s t .i d fun l => f (s.src l a)
    gives (.clz d a) (fun x => BitVec.ofNat 32 (if x = 0 then 32 else 31 - Nat.log2 x.toNat)) ∧
    gives (.popc d a) (fun x => BitVec.ofNat 32 ((List.range 32).filter fun k => x.getLsbD k).length) ∧
    (Answers (.brev d a) s fun t => ∃ f : Word → Word, LaneResult s t .i d (fun l => f (s.src l a)) ∧
      ∀ x k, k < 32 → (f x).getLsbD k = x.getLsbD (31 - k)) ∧
    gives (.iabs d a) (fun x => BitVec.ofInt 32 |x.toInt|) ∧
    gives (.iaddi d a imm) (fun x => x + imm.signExtend 32) ∧
    gives (.shli d a n) (fun x => x <<< n.toNat) ∧
    gives (.shri d a n) (fun x => x >>> n.toNat) ∧
    gives (.sari d a n) (fun x => x.sshiftRight n.toNat) ∧
    gives (.roli d a n) (fun x => x.rotateLeft n.toNat) ∧
    gives (.movi d long) (fun _ => long.signExtend 32) ∧
    (Answers (.movhi r long) s fun t => LaneResult s t .i (.reg r) fun l => long ++ (s.vreg l r.toNat).extractLsb' 0 15)

/-- The words whose destination is also a source (R175, R180, R181), the field and packing words (R180) and
SEL (R177), a shift, a field or a permutation stated by the bits it moves; and the words on register pairs (R173, R180):
the pair takes the low and the high half of the 64-bit result, and no latch is pushed. -/
def Obligations.IntegerFieldAndPairResults : Prop :=
  (∀ (s : State) (d : Dst) (r : LReg) (a b : Src) (p : PReg),
      let gives (i : Instr) (d : Dst) (f : Nat → Word) : Prop :=
        Answers i s fun t => LaneResult s t .i d f
      let x (l : Nat) : Word := s.src l a
      let y (l : Nat) : Word := s.src l b
      let old (l : Nat) : Word := s.vreg l r.toNat
      gives (.amin r a b) (.reg r) (fun l =>
        BitVec.ofInt 32 (max (-2 ^ 31) (min (old l).toInt ((x l).toInt + (y l).toInt)))) ∧
      gives (.imad r a b) (.reg r) (fun l => x l * y l + old l) ∧
      gives (.pack16 d a b) d (fun l => (y l).extractLsb' 0 16 ++ (x l).extractLsb' 0 16) ∧
      gives (.sel d a b p) d (fun l => if s.preg l p then x l else y l) ∧
      (Answers (.bfx d a b) s fun t => ∃ f : Word → Word → Word,
        LaneResult s t .i d (fun l => f (x l) (y l)) ∧
        ∀ u v : Word, ∀ k, k < 32 →
          let pos := fld v 4 0
          let wid := min (fld v 13 8) 32
          (f u v).getLsbD k = if k < wid then u.getLsbD (pos + k)
            else v.getLsbD 16 && decide (wid > 0) && u.getLsbD (pos + wid - 1)) ∧
      (Answers (.bfi r a b) s fun t => ∃ f : Word → Word → Word → Word,
        LaneResult s t .i (.reg r) (fun l => f (old l) (x l) (y l)) ∧
        ∀ o u v : Word, ∀ k, k < 32 →
          let pos := fld v 4 0
          let wid := min (fld v 13 8) 32
          (f o u v).getLsbD k = if pos ≤ k ∧ k < pos + wid then u.getLsbD (k - pos) else o.getLsbD k) ∧
      (Answers (.byteperm r a b) s fun t => ∃ f : Word → Word → Word → Word,
        LaneResult s t .i (.reg r) (fun l => f (old l) (x l) (y l)) ∧
        ∀ o u v : Word, ∀ k, k < 4 →
          let q := fld v (4 * k + 3) (4 * k)
          (f o u v).extractLsb' (8 * k) 8 =
            if q < 4 then u.extractLsb' (8 * q) 8
            else if q < 8 then o.extractLsb' (8 * (q - 4)) 8
            else if q < 12 then (if u.getLsbD (8 * (q - 8) + 7) then 0xFF else 0)
            else 0)) ∧
  ∀ (s : State) (d a b : LReg) (x y : Src),
    let gives (i : Instr) (f : Nat → Nat) : Prop :=
      Answers i s fun t => GroupResult s t d.toNat fun l => [BitVec.ofNat 32 (f l), BitVec.ofNat 32 (f l / 2 ^ 32)]
    gives (.iadd64 d a b) (fun l => (s.vpair l a.toNat + s.vpair l b.toNat) % 2 ^ 64) ∧
    gives (.isub64 d a b) (fun l =>
      (((s.vpair l a.toNat : Int) - s.vpair l b.toNat) % 2 ^ 64).toNat) ∧
    gives (.shl64 d a y) (fun l =>
      if (s.src l y).toNat ≥ 64 then 0 else s.vpair l a.toNat * 2 ^ (s.src l y).toNat % 2 ^ 64) ∧
    gives (.imulw d x y) (fun l => (((s.src l x).toInt * (s.src l y).toInt) % 2 ^ 64).toNat)

/-! ### Predicates -/

/-- The words that write a predicate of each lane of Active() outside a callee's or a body's limits: R163,
R176. -/
def Obligations.PredicateResults : Prop :=
  ∀ (s : State) (d a b : PReg) (c : ICond) (x y : Src) (v : LReg),
    let gives (i : Instr) (f : Nat → Bool) : Prop :=
      Answers i s fun t => PredResult s t d f
    gives (.pand d a b) (fun l => s.preg l a && s.preg l b) ∧
    gives (.por d a b) (fun l => s.preg l a || s.preg l b) ∧
    gives (.pxor d a b) (fun l => s.preg l a ^^ s.preg l b) ∧
    gives (.pandn d a b) (fun l => s.preg l a && !s.preg l b) ∧
    gives (.pmov d a) (fun l => s.preg l a) ∧
    gives (.vote d a) (fun _ => (List.range 32).all fun k => !s.cur.mask.getLsbD k || s.preg k a) ∧
    gives (.icmp c d x y) (fun l =>
      match c with
      | .eq => s.src l x = s.src l y
      | .ne => s.src l x ≠ s.src l y
      | .lt => (s.src l x).slt (s.src l y)
      | .le => (s.src l x).sle (s.src l y)
      | .ltu => (s.src l x).ult (s.src l y)
      | .leu => (s.src l x).ule (s.src l y)
      | .gt => (s.src l y).slt (s.src l x)
      | .ge => (s.src l y).sle (s.src l x)) ∧
    (Answers (.ptov v a) s fun t => GroupResult s t v.toNat fun l => [if s.preg l a then 1 else 0])

/-! ### Uniform words -/

/-- R182, R183 and the uniform words of R163 and R176: with a lane of Active() left, one uniform register, or one
predicate, takes the result; with none left nothing changes (R117). For VTOW, which R182 excepts from the uniform words,
that is the model's choice (DESIGN CHOICE, notes/assumptions/76). -/
def Obligations.UniformResults : Prop :=
  ∀ (s : State) (d a b : UReg) (p q : PReg) (c : ICond) (imm : BitVec 10) (long : BitVec 17)
    (pos : BitVec 2) (k16 : BitVec 16) (x : Src) (e : Dst),
    let m := s.cur.mask
    let u := s.ureg a
    let v := s.ureg b
    let gives (i : Instr) (r : Dword) : Prop :=
      Answers i s fun t => if m = 0 then t = s else UniResult s t d r
    gives (.wadd d a b) (u + v) ∧
    gives (.wsub d a b) (u - v) ∧
    gives (.wand d a b) (u &&& v) ∧
    gives (.wor d a b) (u ||| v) ∧
    gives (.wxor d a b) (u ^^^ v) ∧
    gives (.wshl d a b) (if v.toNat ≥ 64 then 0 else u <<< v.toNat) ∧
    gives (.wshr d a b) (if v.toNat ≥ 64 then 0 else u >>> v.toNat) ∧
    gives (.wsar d a b) (u.sshiftRight (min v.toNat 63)) ∧
    gives (.wmul d a b) (u * v) ∧
    gives (.wmin d a b) (if u.sle v then u else v) ∧
    gives (.wmax d a b) (if u.sle v then v else u) ∧
    gives (.wsel d a b) (if s.ureg d ≠ 0 then u else v) ∧
    gives (.wclz d a) (BitVec.ofNat 64 (if u = 0 then 64 else 63 - Nat.log2 u.toNat)) ∧
    gives (.wpopc d a) (BitVec.ofNat 64 ((List.range 64).filter fun k => u.getLsbD k).length) ∧
    gives (.waddi d a imm) (u + imm.signExtend 64) ∧
    gives (.wmovi d long) (long.signExtend 64) ∧
    (Answers (.wmovk d pos k16) s fun t => if m = 0 then t = s else
      ∃ r : Dword, UniResult s t d r ∧ ∀ j, j < 64 → r.getLsbD j =
        if j / 16 = pos.toNat then k16.getLsbD (j % 16) else (s.ureg d).getLsbD j) ∧
    (Answers (.ballot d p) s fun t => if m = 0 then t = s else
      ∃ r : Dword, UniResult s t d r ∧ ∀ j, j < 64 → r.getLsbD j =
        (decide (j < 32) && m.getLsbD j && s.preg j p)) ∧
    (Answers (.vtow d x) s fun t => if m = 0 then t = s else
      ∃ l, l < 32 ∧ m.getLsbD l ∧ (∀ k, k < l → ¬ m.getLsbD k) ∧
        UniResult s t d ((s.src l x).setWidth 64)) ∧
    (Answers (.wtov e a) s fun t => LaneResult s t .i e fun _ => u.setWidth 32) ∧
    (Answers (.icmpW c q a b) s fun t => if m = 0 then t = s else
      PredResult s t q fun _ =>
        match c with
        | .eq => u = v | .ne => u ≠ v | .lt => u.slt v | .le => u.sle v
        | .ltu => u.ult v | .leu => u.ule v | .gt => v.slt u | .ge => v.sle u)

/-! ### Random numbers -/

/-- R184 and R185: a draw is a function of the seed, the lane's key and its counter alone; RAND32 and RANDF write
it and move the counter of the lanes of Active(), RCTR exchanges the counter, and RSEED sets the seed and clears
every lane's counter, also in the copies that the thread's outstanding accesses hold of its lanes: a lane that parks for
one of them later keeps its counter 0 (notes/assumptions/60). Outside a callee and a body, where the words are allowed. -/
def Obligations.RandomWordResults : Prop :=
  ∀ (s : State) (d : Dst) (a : Src) (u : UReg), s.Top →
    let L (l : Nat) : Lane := s.cur.old.lane l
    let step (c : Nat → Word) (f : Nat → Word) (t : State) : Prop :=
      ∃ r, LaneResult s r .i d f ∧ OnlyLanes r t ∧ ∀ l, l < 32 →
        t.me.lane l = { r.me.lane l with ctr := if s.cur.mask.getLsbD l then c l else (r.me.lane l).ctr }
    let x (l : Nat) : Word := randDraw s.cur.old.seed (s.randKey l) (L l).ctr.toNat
    Answers (.rand32 d) s (step (fun l => (s.me.lane l).ctr + 1) x) ∧
    Answers (.randf d) s (step (fun l => (s.me.lane l).ctr + 1) fun l => randFloat (x l)) ∧
    Answers (.rctr d a) s (step (fun l => s.src l a) fun l => (L l).ctr) ∧
    (s.cur.mask ≠ 0 → Answers (.rseed u) s fun t =>
      t = { s with threads := t.threads, reqs := t.reqs, stores := t.stores, cur := { s.cur with seeded := true } } ∧
      (∀ i, i ≠ s.cur.tid → t.thread i = s.thread i) ∧
      (t.reqs.map fun r => { r with late := {} }) = (s.reqs.map fun r => { r with late := {} }) ∧
      (t.stores.map fun y => { y with late := {} }) = (s.stores.map fun y => { y with late := {} }) ∧
      (∀ q ∈ t.reqs, q.tid = s.cur.tid → q.late.depth = s.me.gdepth → ∀ y ∈ q.late.lanes, y.2.ctr = 0) ∧
      (∀ q ∈ t.stores, s.cur.tid ∈ q.tids → q.late.depth = s.me.gdepth → ∀ y ∈ q.late.lanes, y.2.ctr = 0) ∧
      t.me = { s.me with seed := s.ureg u, lanes := t.me.lanes } ∧
      ∀ l, l < 32 → t.me.lane l = { s.me.lane l with ctr := 0 })

/-! ### Floating point -/

/-- R80 and R189 to R197: the words whose result comes with flags. Each lane of Active() writes its result,
the pipe's latch pair is pushed, and the flags of the lanes are ORed into FFLAGS; nothing else changes. Outside a
relaxation body, where flags go to the step. Then what the results are: FMIN, FMAX and FAMIN choose an operand by its
bits (a NaN is a magnitude above infinity's, and −0 is below +0), FRND is an integer nearest by its code, FSCALE the exact
product rounded, FEXPT the floor of the logarithm, FCMP a comparison of signed magnitudes, and a packed word the two
halves' results of the same type. The rounding of the arithmetic words and of R80's functions is RoundingIsCorrect and
RealFunctionsRounded. -/
def Obligations.FloatResults : Prop :=
  (∀ (s : State) (d : Dst) (e : LReg) (a b : Src) (r : Rnd), s.bodyLanes s.cur.mask = 0 →
    let x (l : Nat) : Word := s.src l a
    let y (l : Nat) : Word := s.src l b
    let z (l : Nat) : Word := s.vreg l e.toNat
    let f (i : Instr) (g : Word → Word → Word × Flags) : Prop :=
      Answers i s fun t => FloatResult s t .f d fun l => g (x l) (y l)
    let f3 (i : Instr) (g : Word → Word → Word → Word × Flags) : Prop :=
      Answers i s fun t => FloatResult s t .f (.reg e) fun l => g (x l) (y l) (z l)
    let h (i : Instr) (g : Word → Word × Flags) : Prop :=
      Answers i s fun t => FloatResult s t .x d fun l => g (x l)
    f (.fadd d a b) (fadd32 s.rm) ∧
    f (.fsub d a b) (fun u v => fadd32 s.rm u (v ^^^ 0x80000000)) ∧
    f (.fmul d a b) (fmul32 s.rm) ∧
    f (.fmin d a b) (fun u v => wf32 (fp32.minMax false u.toNat v.toNat)) ∧
    f (.fmax d a b) (fun u v => wf32 (fp32.minMax true u.toNat v.toNat)) ∧
    f (.famin d a b) famin32 ∧
    f3 (.ffma e a b) (ffma32 s.rm) ∧
    f3 (.ffms e a b) (fun u v w => ffma32 s.rm u v (w ^^^ 0x80000000)) ∧
    f (.badd2 d a b) (fun u v => packed2 (fun p q _ => bf16.add s.rm (bf16.dec p) (bf16.dec q)) u v 0) ∧
    f (.bmul2 d a b) (fun u v => packed2 (fun p q _ => bf16.mul s.rm (bf16.dec p) (bf16.dec q)) u v 0) ∧
    f (.bmax2 d a b) (fun u v => packed2 (fun p q _ => bf16.minMax true p q) u v 0) ∧
    f3 (.bfma2 e a b) (packed2 fun p q c => bf16.fma s.rm (bf16.dec p) (bf16.dec q) (bf16.dec c)) ∧
    f (.hadd2 d a b) (fun u v => packed2 (fun p q _ => fp16.add s.rm (fp16.dec p) (fp16.dec q)) u v 0) ∧
    f (.hmul2 d a b) (fun u v => packed2 (fun p q _ => fp16.mul s.rm (fp16.dec p) (fp16.dec q)) u v 0) ∧
    f (.hmax2 d a b) (fun u v => packed2 (fun p q _ => fp16.minMax true p q) u v 0) ∧
    f3 (.hfma2 e a b) (packed2 fun p q c => fp16.fma s.rm (fp16.dec p) (fp16.dec q) (fp16.dec c)) ∧
    h (.frcp d a) frcp32 ∧ h (.frsq d a) frsq32 ∧ h (.fsqrt d a) fsqrt32 ∧ h (.fexp2 d a) fexp232 ∧
    h (.flog2 d a) flog232 ∧ h (.ftanh d a) ftanh32 ∧ h (.fsin2pi d a) fsin2pi32 ∧
    h (.frnd d a r) (frnd32 r) ∧ h (.fexpt d a) fexpt32 ∧
    (Answers (.fdiv d a b) s fun t => FloatResult s t .x d fun l => fdiv32 (x l) (y l)) ∧
    (Answers (.fscale d a b) s fun t => FloatResult s t .x d fun l => fscale32 s.rm (x l) (y l))) ∧
  (∀ (t : FSpec) (big : Bool) (a b : Nat), t ∈ [fp32, bf16, fp16] → a < 2 ^ t.width → b < 2 ^ t.width →
    let mag (c : Nat) : Nat := c % 2 ^ (t.width - 1)
    let nan (c : Nat) : Bool := decide (t.infCode false < mag c)
    let sig (c : Nat) : Bool := nan c && !c.testBit (t.fb - 1)
    let rank (c : Nat) : Int := if c.testBit (t.width - 1) then -(mag c : Int) - 1 else mag c
    t.minMax big a b =
      (if nan a && nan b then t.nan else if nan a then b else if nan b then a
       else if (decide (rank a ≤ rank b) != big) then a else b, if sig a || sig b then fNV else 0)) ∧
  (∀ (r : Rnd) (a b : Word),
    let mag (x : Word) : Int := (x.extractLsb' 0 31).toNat
    let nan (x : Word) : Bool := decide (0x7F800000 < mag x)
    let sig (x : Word) : Flags := if nan x && !x.getLsbD 22 then fNV else 0
    let key (x : Word) : Int := if x.getLsbD 31 then -(mag x) else mag x
    (famin32 a b = if nan a || nan b || mag a = mag b then wf32 (fp32.minMax false a.toNat b.toNat)
      else (if mag a < mag b then a else b, 0)) ∧
    (∀ c, fcmp32 c a b =
      if nan a || nan b then
        (decide (c ∈ [.ne, .un]), if c ∈ [.lt, .le, .gt, .ge] then fNV else sig a ||| sig b)
      else (match c with
        | .eq => decide (key a = key b) | .ne => decide (key a ≠ key b)
        | .lt => decide (key a < key b) | .le => decide (key a ≤ key b)
        | .gt => decide (key b < key a) | .ge => decide (key b ≤ key a)
        | .un => false | .ord => true, 0)) ∧
    (nan a = true → frnd32 r a = (0x7FC00000, sig a) ∧ fscale32 r a b = (0x7FC00000, sig a) ∧
      fexpt32 a = (0x80000000, sig a)) ∧
    (mag a = 0x7F800000 ∨ mag a = 0 → frnd32 r a = (a, 0) ∧ fscale32 r a b = (a, 0) ∧
      fexpt32 a = (if mag a = 0 then 0x80000000 else 0x7FFFFFFF, 0)) ∧
    ∀ (n : Bool) (m : Nat) (e : Int), dec32 a = .fin n m e → 0 < m →
      let v : Rat := (m : Rat) * pow2 e
      (∃ k j i, NearestMultiple r n (fun q => q ≤ v) (fun q => q < v) 1 k ∧
        dec32 (frnd32 r a).1 = .fin n j i ∧ (j : Rat) * pow2 i = k ∧ (frnd32 r a).2 = 0) ∧
      RoundedAt fp32 r n (fun q => q ≤ v * pow2 b.toInt) (fun q => q < v * pow2 b.toInt) (some (asCode (fscale32 r a b)))
        (overflowResult fp32 r n) ∧
      ∃ z : Int, pow2 z ≤ v ∧ v < pow2 (z + 1) ∧ fexpt32 a = (BitVec.ofInt 32 z, 0)) ∧
  (∀ (t : FSpec) (r : Rnd) (a b c : Nat), t ∈ [bf16, fp16] → a < 2 ^ 16 → b < 2 ^ 16 → c < 2 ^ 16 →
    (t.add r (t.dec a) (t.dec b)).1 < 2 ^ 16 ∧ (t.mul r (t.dec a) (t.dec b)).1 < 2 ^ 16 ∧
    (t.fma r (t.dec a) (t.dec b) (t.dec c)).1 < 2 ^ 16 ∧ (t.minMax true a b).1 < 2 ^ 16) ∧
  (∀ (f : Nat → Nat → Nat → Nat × Flags) (a b c : Word),
    let half (w : Word) (k : Nat) : Nat := (w.extractLsb' (16 * k) 16).toNat
    let out (k : Nat) : Nat × Flags := f (half a k) (half b k) (half c k)
    (out 0).1 < 2 ^ 16 → (out 1).1 < 2 ^ 16 →
    half (packed2 f a b c).1 0 = (out 0).1 ∧ half (packed2 f a b c).1 1 = (out 1).1 ∧
    (packed2 f a b c).2 = (out 0).2 ||| (out 1).2)

/-- R194, R195, R197, R204 and R205: FABS, FNEG and FCPYS act on the sign bit alone and raise nothing, for NaNs as well;
FCLASS gives exactly one bit of ten; FCMP writes one predicate and ORs its flags; FFLRD reads FFLAGS; FFLCLR clears the
flags that its operand names, of FFLAGS as the group found it (said outside a relaxation body); FMODE sets the rounding mode. Operands with a reserved bit trap instead (R205). -/
def Obligations.FloatBitAndFlagWords : Prop :=
  (∀ (s : State) (d : Dst) (a b : Src),
      let x (l : Nat) : Word := s.src l a
      (Answers (.fabs d a) s fun t => LaneResult s t .x d fun l => 0#1 ++ (x l).extractLsb' 0 31) ∧
      (Answers (.fneg d a) s fun t => LaneResult s t .x d fun l =>
        (~~~ (x l).extractLsb' 31 1) ++ (x l).extractLsb' 0 31) ∧
      (Answers (.fcpys d a b) s fun t => LaneResult s t .x d fun l =>
        (s.src l b).extractLsb' 31 1 ++ (x l).extractLsb' 0 31) ∧
      (Answers (.fclass d a) s fun t => ∃ f : Word → Nat, LaneResult s t .x d (fun l => BitVec.ofNat 32 (2 ^ f (x l))) ∧
        ∀ v : Word,
          let e := fld v 30 23
          let m := fld v 22 0
          let n := v.getLsbD 31
          f v =
            if e = 255 then (if m = 0 then (if n then 0 else 7) else if m ≥ 2 ^ 22 then 9 else 8)
            else if e = 0 then (if m = 0 then (if n then 3 else 4) else if n then 2 else 5)
            else if n then 1 else 6)) ∧
  ∀ (s : State) (c : FCond) (p : PReg) (a b : Src) (d u : UReg),
    (s.bodyLanes s.cur.mask = 0 → Answers (.fcmp c p a b) s fun t =>
      let out (l : Nat) : Bool × Flags := fcmp32 c (s.src l a) (s.src l b)
      let flags := (lanesOf s.cur.mask).foldl (fun f l => f ||| (out l).2) s.me.fflags
      ∃ r, PredResult s r p (fun l => (out l).1) ∧ OnlyThread s.cur.tid r t ∧
        t.me = { r.me with fflags := flags }) ∧
    (Answers (.fflrd d) s fun t => if s.cur.mask = 0 then t = s else
      UniResult s t d (s.cur.old.fflags.setWidth 64)) ∧
    (s.bodyLanes s.cur.mask = 0 → (s.ureg u).toNat < 2 ^ 6 → Answers (.fflclr u) s fun t => if s.cur.mask = 0 then t = s else
      OnlyThread s.cur.tid s t ∧
      t.me = { s.me with fflags := s.cur.old.fflags &&& ~~~ (s.ureg u).extractLsb' 0 6 }) ∧
    ((s.ureg u).toNat < 2 ^ 2 → Answers (.fmode u) s fun t => if s.cur.mask = 0 then t = s else
      OnlyThread s.cur.tid s t ∧ t.me = { s.me with rm := (s.ureg u).extractLsb' 0 2 })

/-! ### Conversions -/

/-- R199 to R203: the conversions. A lane whose value has a result under the policy writes it, and the flags are
ORed; the statement is of words none of whose lanes traps CVTOVF, outside a relaxation body; a slot or a group that
R198 refuses traps instead. -/
def Obligations.ConversionResults : Prop :=
  ∀ (s : State) (d : Dst) (e : LReg) (a : Src) (ft : FTy) (it : ITy) (pol : Pol) (r : Rnd) (slot : FSlot),
    s.bodyLanes s.cur.mask = 0 →
    let x (l : Nat) : Word := s.src l a
    let fmt := s.fmtOf s.cur.tid slot
    let some_ (i : Instr) (g : Nat → Option (Word × Flags)) : Prop :=
      (∀ l, l < 32 → s.cur.mask.getLsbD l → (g l).isSome) →
      Answers i s fun t => FloatResult s t .x d fun l => (g l).getD (0, 0)
    some_ (.fcvt d a ft pol r) (fun l => fcvt32 (FTy.spec ft) pol r (x l)) ∧
    some_ (.fcvti d a it pol r) (fun l => fcvti32 (ITy.bits it) pol r (x l)) ∧
    (Answers (.fupcvt d a ft) s fun t => FloatResult s t .x d fun l => fupcvt32 (FTy.spec ft) (x l)) ∧
    (Answers (.icvtf d a it pol r) s fun t => FloatResult s t .x d fun l => icvtf32 (ITy.bits it) r (x l)) ∧
    (s.packSlotOk fmt e.toNat → some_ (.qpack d e slot pol r) (fun l =>
      qpackElems (fmtType fmt) (fmtAdj fmt) pol r
        ((List.range (groupSize fmt)).map fun i => s.vreg l (e.toNat + i)))) ∧
    (e.toNat % 4 = 0 → some_ (.i8pack d e pol) (fun l =>
      i8packElems pol ((List.range 4).map fun i => s.vreg l (e.toNat + i)))) ∧
    (s.unpackSlotOk fmt e.toNat → Answers (.qunpack e a slot) s fun t =>
      let out (l : Nat) : List (Word × Flags) := (List.range (groupSize fmt)).map fun i =>
        qunpackElem (fmtType fmt) (fmtAdj fmt) (elemOf (fmtType fmt) (x l) i)
      let flags (l : Nat) : Flags := (out l).foldl (fun f y => f ||| y.2) 0
      let all := (lanesOf s.cur.mask).foldl (fun f l => f ||| flags l) s.me.fflags
      let bad (l : Nat) : Nat := if fmtType fmt = 7 then
        ((List.range (groupSize fmt)).filter fun i => elemOf 7 (x l) i = 2).length else 0
      let n := ((lanesOf s.cur.mask).map bad).sum
      let c := s.lc s.me.lc
      let c' := t.lc s.me.lc
      ∃ u v, GroupResult s u e.toNat (fun l => (out l).map (·.1)) ∧
        OnlyThread s.cur.tid u v ∧ v.me = { u.me with fflags := all } ∧
        t = { v with lcs := t.lcs } ∧ (∀ i, i ≠ s.me.lc → t.lc i = s.lc i) ∧ c' = { c with mx := c'.mx } ∧
        (rd 0 c'.mx 0).toNat = min ((rd 0 c.mx 0).toNat + n) (2 ^ 32 - 1) ∧
        ∀ k, k ≠ 0 → rd 0 c'.mx k = rd 0 c.mx k)

/-! ### Cross-lane words -/

/-- R207, R210 to R212: a lane of Active() takes the source of the lane that the word names, where that lane exists
and is in Active(), and otherwise its own; LMATCH and LFIRST write predicates. A scan gives each lane of Active() the
combination of the values of the lanes of Active() up to it, in ascending order, and a reduction gives every one of them
the whole; the integer ones raise no flag, and the floating-point ones round after each addition and OR the flags of
every step. Outside a body (R209). -/
def Obligations.CrossLaneResults : Prop :=
  (∀ (s : State) (d : Dst) (a b : Src) (n : Amt) (p : PReg), s.bodyLanes s.cur.mask = 0 →
      let m (k : Int) : Bool := decide (0 ≤ k) && decide (k < 32) && s.cur.mask.getLsbD k.toNat
      let k : Nat := match n with | .imm i => i.toNat | .reg r => (s.ureg r).toNat
      let takes (i : Instr) (f : Nat → Int) : Prop :=
        Answers i s fun t => LaneResult s t .x d fun l => if m (f l) then s.src (f l).toNat a else s.src l a
      takes (.lshup d a n) (fun l => l - k) ∧
      takes (.lshdn d a n) (fun l => l + k) ∧
      takes (.lrot d a n) (fun l => ((l : Int) - k) % 32) ∧
      takes (.lperm d a b) (fun l => ((s.src l b).toNat % 32 : Nat)) ∧
      takes (.lbcast d a n) (fun _ => (k % 32 : Nat)) ∧
      takes (.lxor d a n) (fun l => (l ^^^ (k % 32) : Nat)) ∧
      (Answers (.lfirst p) s fun t => PredResult s t p fun l =>
        (List.range l).all fun j => !(decide (j < 32) && s.cur.mask.getLsbD j)) ∧
      (Answers (.lmatch p a) s fun t => PredResult s t p fun l =>
        (List.range l).all fun j => !(decide (j < 32) && s.cur.mask.getLsbD j && s.src j a = s.src l a))) ∧
  ∀ (s : State) (d : Dst) (a : Src), s.bodyLanes s.cur.mask = 0 →
    let upTo (l : Nat) : List Word := ((lanesOf s.cur.mask).filter fun k => k ≤ l).map fun k => s.src k a
    let all : List Word := (lanesOf s.cur.mask).map fun k => s.src k a
    let comb (op : Word → Word → Word) (xs : List Word) : Word :=
      match xs with | [] => 0 | x :: t => t.foldl op x
    let int (i : Instr) (xs : Nat → List Word) (op : Word → Word → Word) : Prop :=
      Answers i s fun t => ∃ f, LaneResult s t .x d f ∧
        ∀ l, l < 32 → s.cur.mask.getLsbD l → f l = comb op (xs l)
    let low (x y : Word) : Word := if x.sle y then x else y
    let high (x y : Word) : Word := if x.sle y then y else x
    let first (x : Word) : Word × Flags :=
      if (dec32 x).isNan then (nan32, if x.getLsbD 22 then 0 else fNV) else (x, 0)
    let sum (xs : List Word) : Word × Flags :=
      match xs with
      | [] => (0, 0)
      | x :: r => r.foldl (fun u v => ((fadd32 s.rm u.1 v).1, u.2 ||| (fadd32 s.rm u.1 v).2)) (first x)
    let float (i : Instr) (xs : Nat → List Word) : Prop :=
      Answers i s fun t => ∃ f u, LaneResult s u .x d f ∧ OnlyThread s.cur.tid u t ∧
        t.me = { u.me with fflags := s.me.fflags ||| (sum all).2 } ∧
        ∀ l, l < 32 → s.cur.mask.getLsbD l → f l = (sum (xs l)).1
    int (.lscanadd d a) upTo (· + ·) ∧ int (.lscanmin d a) upTo low ∧ int (.lscanmax d a) upTo high ∧
    int (.lredadd d a) (fun _ => all) (· + ·) ∧ int (.lredmin d a) (fun _ => all) low ∧
    int (.lredmax d a) (fun _ => all) high ∧
    float (.lscanfadd d a) upTo ∧ float (.lredfadd d a) (fun _ => all)

/-! ### Rounding and exact results -/

/-- R71 to R73, R80, R189 and R192, on exact numbers. A positive number is given by its cut: `le q` says that q is at
most it, `lt q` that q is less (`RoundedAt`, Sys2Proof/Safety.lean). An arithmetic result is the
exact sum, product, fused sum, quotient or root so rounded, at the type's spacing, with UF by tininess after rounding
and R73's result of an overflow; a zero sum has R68's sign; a down-conversion has R72's result under each policy.
The sums, products and fused sums of the packed types BF16 and FP16 (R191) are said on the values of their halves. A rotation of R305 is the exact sum of two products so rounded. Of the functions of R80 that are no root or quotient it
states the special operands and the worked values; their rounding is RealFunctionsRounded. -/
def Obligations.RoundingIsCorrect : Prop :=
  let sgn (n : Bool) : Rat := if n then -1 else 1
  let mag (x : Rat) : Rat := if x < 0 then -x else x
  let exactly (t : FSpec) (r : Rnd) (neg : Bool) (v : Rat) (out : Nat × Flags) : Prop :=
    RoundedAt t r neg (fun q => q ≤ v) (fun q => q < v) (some out) (overflowResult t r neg)
  let zero (n : Bool) : Word := if n then 0x80000000 else 0
  let inf (n : Bool) : Word := if n then 0xFF800000 else 0x7F800000
  (∀ (t : FSpec) (r : Rnd) (neg : Bool) (m : Nat) (e : Int), t ∈ [fp32, bf16, fp16] → 0 < m →
    exactly t r neg ((m : Rat) * pow2 e) (t.arith r neg m e)) ∧
  (∀ (t : FSpec) (r : Rnd) (n1 n2 n3 : Bool) (m1 m2 m3 : Nat) (e1 e2 e3 : Int), t ∈ [bf16, fp16] →
    let x : Rat := sgn n1 * m1 * pow2 e1
    let y : Rat := sgn n2 * m2 * pow2 e2
    let z : Rat := sgn n3 * m3 * pow2 e3
    let p : Val := .fin n1 m1 e1
    let q : Val := .fin n2 m2 e2
    let c : Val := .fin n3 m3 e3
    (x + y ≠ 0 → exactly t r (decide (x + y < 0)) (mag (x + y)) (t.add r p q)) ∧
    (x + y = 0 → t.add r p q = (t.sign (if n1 = n2 then n1 else r = .rdn), 0)) ∧
    (x * y ≠ 0 → exactly t r (n1 != n2) (mag (x * y)) (t.mul r p q)) ∧
    (x * y = 0 → t.mul r p q = (t.sign (n1 != n2), 0)) ∧
    (x * y + z ≠ 0 → exactly t r (decide (x * y + z < 0)) (mag (x * y + z)) (t.fma r p q c)) ∧
    (x * y + z = 0 → t.fma r p q c = (t.sign (if (n1 != n2) = n3 then n3 else r = .rdn), 0))) ∧
  (∀ (r : Rnd) (a b c : Word) (n1 n2 n3 : Bool) (m1 m2 m3 : Nat) (e1 e2 e3 : Int),
    dec32 a = .fin n1 m1 e1 → dec32 b = .fin n2 m2 e2 → dec32 c = .fin n3 m3 e3 →
    let x : Rat := sgn n1 * m1 * pow2 e1
    let y : Rat := sgn n2 * m2 * pow2 e2
    let z : Rat := sgn n3 * m3 * pow2 e3
    (x + y ≠ 0 → exactly fp32 r (decide (x + y < 0)) (mag (x + y)) (asCode (fadd32 r a b))) ∧
    (x + y = 0 → fadd32 r a b = (zero (if n1 = n2 then n1 else r = .rdn), 0)) ∧
    (x * y ≠ 0 → exactly fp32 r (n1 != n2) (mag (x * y)) (asCode (fmul32 r a b))) ∧
    (x * y = 0 → fmul32 r a b = (zero (n1 != n2), 0)) ∧
    (x * y + z ≠ 0 → exactly fp32 r (decide (x * y + z < 0)) (mag (x * y + z)) (asCode (ffma32 r a b c))) ∧
    (x * y + z = 0 → ffma32 r a b c = (zero (if (n1 != n2) = n3 then n3 else r = .rdn), 0)) ∧
    (x ≠ 0 → y ≠ 0 → exactly fp32 .rne (n1 != n2) (mag (x / y)) (asCode (fdiv32 a b))) ∧
    (x ≠ 0 → y = 0 → fdiv32 a b = (inf (n1 != n2), fDZ)) ∧
    (x = 0 → fdiv32 a b = if y = 0 then (0x7FC00000, fNV) else (zero (n1 != n2), 0)) ∧
    frcp32 a = fdiv32 0x3F800000 a ∧
    (0 < x → RoundedAt fp32 .rne false (fun q => q ≤ 0 ∨ q * q ≤ x) (fun q => q ≤ 0 ∨ q * q < x) (some (asCode (fsqrt32 a))) none) ∧
    (0 < x → RoundedAt fp32 .rne false (fun q => q ≤ 0 ∨ q * q * x ≤ 1) (fun q => q ≤ 0 ∨ q * q * x < 1)
      (some (asCode (frsq32 a))) none) ∧
    (x = 0 → fsqrt32 a = (a, 0) ∧ frsq32 a = (inf n1, fDZ) ∧ flog232 a = (inf true, fDZ)) ∧
    (x < 0 → fsqrt32 a = (0x7FC00000, fNV) ∧ frsq32 a = (0x7FC00000, fNV) ∧ flog232 a = (0x7FC00000, fNV))) ∧
  (∀ (a b c d : Word) (n1 n2 n3 n4 : Bool) (m1 m2 m3 m4 : Nat) (e1 e2 e3 e4 : Int),
    dec32 a = .fin n1 m1 e1 → dec32 b = .fin n2 m2 e2 → dec32 c = .fin n3 m3 e3 → dec32 d = .fin n4 m4 e4 →
    let x : Rat := sgn n1 * m1 * pow2 e1 * (sgn n2 * m2 * pow2 e2) + sgn n3 * m3 * pow2 e3 * (sgn n4 * m4 * pow2 e4)
    (rotate a b c d).1 = w32 (rotate.sumProducts a b c d).1 ∧
    (x ≠ 0 → exactly fp32 .rne (decide (x < 0)) (mag x) (rotate.sumProducts a b c d)) ∧
    (x = 0 → (rotate a b c d).1 = zero ((n1 != n2) && (n3 != n4)))) ∧
  (∀ (t : FSpec) (r : Rnd) (v y z : Val), t ∈ [bf16, fp16] → v.isNan = true →
    (t.add r v y).1 = t.nan ∧ (t.add r y v).1 = t.nan ∧ (t.mul r v y).1 = t.nan ∧ (t.mul r y v).1 = t.nan ∧
    (t.fma r v y z).1 = t.nan ∧ (t.fma r y v z).1 = t.nan ∧ (t.fma r y z v).1 = t.nan) ∧
  (∀ (r : Rnd) (a b c : Word), (dec32 a).isNan = true →
    let nan (x : Word × Flags) : Prop := x.1 = 0x7FC00000
    let one (x : Word × Flags) : Prop := x = (0x7FC00000, if a.getLsbD 22 then 0 else fNV)
    nan (fadd32 r a b) ∧ nan (fadd32 r b a) ∧ nan (fmul32 r a b) ∧ nan (fmul32 r b a) ∧ nan (ffma32 r a b c) ∧
    nan (ffma32 r b a c) ∧ nan (ffma32 r b c a) ∧ nan (fdiv32 a b) ∧ nan (fdiv32 b a) ∧ one (frcp32 a) ∧ one (fsqrt32 a) ∧
    one (frsq32 a) ∧ one (fexp232 a) ∧ one (flog232 a) ∧ one (ftanh32 a) ∧ one (fsin2pi32 a)) ∧
  (∀ (r : Rnd) (n k : Bool) (a c : Word), (dec32 a).isZero = true →
    fadd32 r (inf n) (inf k) = (if n = k then (inf n, 0) else (0x7FC00000, fNV)) ∧
    fmul32 r (inf n) a = (0x7FC00000, fNV) ∧ fmul32 r a (inf n) = (0x7FC00000, fNV) ∧
    ffma32 r (inf n) a c = (0x7FC00000, fNV) ∧ ffma32 r a (inf n) c = (0x7FC00000, fNV) ∧
    fdiv32 (inf n) (inf k) = (0x7FC00000, fNV) ∧ frcp32 (inf n) = (zero n, 0) ∧ fdiv32 (inf n) a = (inf (n != a.getLsbD 31), 0) ∧
    fsqrt32 (inf n) = (if n then (0x7FC00000, fNV) else (inf false, 0)) ∧
    flog232 (inf false) = (inf false, 0) ∧ fexp232 (inf n) = (if n then 0 else inf false, 0) ∧
    ftanh32 (inf n) = (if n then 0xBF800000 else 0x3F800000, 0) ∧ fsin2pi32 (inf n) = (0x7FC00000, fNV)) ∧
  (∀ (t : FSpec) (r : Rnd) (p : Pol) (neg : Bool) (m : Nat) (e : Int), t ∈ [fp32, bf16, fp16, e4m3, e5m2] → 0 < m →
    let ofl : Option (Nat × Flags) := match p with
      | .sat => some (t.maxCode neg, fOF ||| fNX ||| fSAT)
      | .inf => if t.inf then some (t.infCode neg, fOF ||| fNX) else some (t.maxCode neg, fOF ||| fNX ||| fSAT)
      | .nan => some (t.nan, fOF ||| fNX ||| fNV)
      | .trap => none
    RoundedAt t r neg (fun q => q ≤ (m : Rat) * pow2 e) (fun q => q < (m : Rat) * pow2 e) (t.convert r p (.fin neg m e)) ofl ∧
    t.convert r p (.inf neg) = (if t.inf then some (t.infCode neg, 0) else ofl) ∧
    t.convert r p (.fin neg 0 e) = some (t.sign neg, 0) ∧
    t.convert r p (.nan neg) = some (t.nan, if neg then fNV else 0)) ∧
  (∀ (r : Rnd) (p : Pol) (neg : Bool) (m : Nat) (e : Int) (ty : Nat), ty ∈ [5, 6, 7, 8, 9] → 0 < m →
    let lo := (intRange ty).1
    let hi := (intRange ty).2
    let ofl : Option (Int × Flags) := match p with
      | .sat | .inf => some (if neg then lo else hi, fOF ||| fNX ||| fSAT)
      | .nan => some (lo, fOF ||| fNX ||| fNV)
      | .trap => none
    let v : Rat := (m : Rat) * pow2 e
    (∃ k : Nat, NearestMultiple r neg (fun q => q ≤ v) (fun q => q < v) 1 k ∧
      let x : Int := if neg then -(k : Int) else k
      intConvert lo hi r p (.fin neg m e) =
        if lo ≤ x ∧ x ≤ hi then some (x, if (k : Rat) = v then 0 else fNX) else ofl) ∧
    intConvert lo hi r p (.inf neg) = ofl ∧
    intConvert lo hi r p (.nan neg) = match p with
      | .sat | .inf => some (0, fNV)
      | .nan => some (lo, fNV)
      | .trap => none) ∧
  frcp32 0x40400000 = (0x3EAAAAAB, fNX) ∧ fexp232 0x40400000 = (0x41000000, 0) ∧ flog232 0x3E800000 = (0xC0000000, 0) ∧
  fsin2pi32 0x3E800000 = (0x3F800000, 0) ∧ fexp232 0x43000000 = (0x7F800000, fOF ||| fNX) ∧
  frcp32 0x00000001 = (0x7F800000, fOF ||| fNX)

/-! ### Control flow -/

/-- R151 and R159 to R161: a branch gives each lane of Active() the first word of the target packet or of the next
packet, and nothing else; JMPI traps an address that is no slot-0 word of the text; LOOP also counts down. -/
def Obligations.BranchResults : Prop :=
  ∀ (s : State) (p : PReg) (off : BitVec 18) (a d : UReg) (imm : BitVec 10),
    let m := s.cur.mask
    let n := 3 * (s.cur.pc / 3 + 1)
    let target := 3 * ((s.cur.pc / 3 : Nat) + off.toInt).toNat
    let holds (l : Nat) : Prop := l < 32 ∧ m.getLsbD l = true ∧ s.preg l p = true
    let uni (i : Instr) (f : Nat → Nat) : Prop :=
      Answers i s fun t => if m = 0 then t = s else BranchResult s t f
    let x := (s.ureg a).toNat
    let c := s.ureg d
    uni (.bra off) (fun _ => target) ∧
    (Answers (.brt p off) s fun t => BranchResult s t fun l => if s.preg l p then target else n) ∧
    (Answers (.brf p off) s fun t => BranchResult s t fun l => if s.preg l p then n else target) ∧
    ((∃ l, holds l) → uni (.brany p off) fun _ => target) ∧
    ((¬ ∃ l, holds l) → uni (.brany p off) fun _ => n) ∧
    ((∀ l, l < 32 → m.getLsbD l = true → s.preg l p = true) → uni (.brall p off) fun _ => target) ∧
    ((¬ ∀ l, l < 32 → m.getLsbD l = true → s.preg l p = true) → uni (.brall p off) fun _ => n) ∧
    (x % 3 = 0 → x < 3 * s.cur.old.textPkts → x < 2 ^ 32 → uni (.jmpi a) fun _ => x) ∧
    (m ≠ 0 → ¬ (x % 3 = 0 ∧ x < 3 * s.cur.old.textPkts ∧ x < 2 ^ 32) →
      exec (.jmpi a) s = .next (s.trapWave .ill)) ∧
    (Answers (.loop d imm) s fun t => if m = 0 then t = s else
      ∃ u, UniResult s u d (if c.toNat ≤ 1 then 0 else c - 1) ∧
        BranchResult u t fun _ =>
          if c.toNat ≤ 1 then n else 3 * ((s.cur.pc / 3 : Nat) - (imm.toNat : Int)).toNat)

/-- R152, R156, R159 and R160: a call pushes the first word of the next packet on the call stack of each lane of
Active() and takes the target; a lane whose on-chip stack holds four entries stores the oldest through b13. RET
takes the newest entry back, from the spill area where the on-chip stack of the lane is empty. -/
def Obligations.CallResults : Prop :=
  ∀ (s : State) (off : BitVec 18) (a : Src),
    let m := s.cur.mask
    let o := s.cur.old
    let active (l : Nat) : Prop := l < 32 ∧ m.getLsbD l = true
    let called (u t : State) (f : Nat → Nat) : Prop :=
      OnlyLanes u t ∧ ∀ l, l < 32 →
        let L := u.me.lane l
        t.me.lane l = if m.getLsbD l then
            { L with
              cstk := (if L.cstk.length ≥ 4 then L.cstk.drop 1 else L.cstk) ++ [BitVec.ofNat 32 (3 * (s.cur.pc / 3 + 1))]
              spill := if L.cstk.length ≥ 4 then L.spill + 1 else L.spill
              npc := BitVec.ofNat 32 (f l) }
          else L
    let target (_ : Nat) : Nat := 3 * ((s.cur.pc / 3 : Nat) + off.toInt).toNat
    let deep := (lanesOf m).filter fun l => (o.lane l).cstk.length ≥ 4
    let ps : Lanes := deep.map fun l => (l, s.checkAccess o (o.brec 13) (spillElem o.isLead l (o.lane l).spill) 4 .store false true)
    let spills : Prop := s.waitOver s.cur.tid (.held m) = true ∧ s.stashGate (o.brec 13) = false ∧
      (∀ l, l ∈ deep → (o.lane l).spill ≠ 65535) ∧ s.reserve ps = s ∧ s.judge o.lc ps .store = []
    let back := s.refillPlaces
    -- nothing holds up the reading of the lines of some places
    let clear (ps : Lanes) : Prop := linesOf ps = [] ∨ (s.missLines o.lc o.core (linesOf ps) .load = s ∧
      s.waitOver s.cur.tid (.walk (linesOf ps)) = true ∧
      s.waitOver s.cur.tid (.pending ((linesOf ps).flatMap fun x => s.loadsBefore s.cur.tid m x.1 x.2)) = true ∧
      s.waitOver s.cur.tid (.lines (linesOf ps)) = true)
    let stored := s.storeAll s.cur.tid ps (fun l => bytesOf 4 (rd 0 (o.lane l).cstk 0).toNat) false
    ((∀ l, active l → (o.lane l).cstk.length < 4) →
      (Answers (.call off) s fun t => called s t target) ∧
      ((∀ l, active l → o.codeAddr (s.src l a).toNat = true) →
        Answers (.calli a) s fun t => called s t fun l => (s.src l a).toNat)) ∧
    (deep ≠ [] → spills →
      (Answers (.call off) s fun t => called stored t target) ∧
      ((∀ l, active l → o.codeAddr (s.src l a).toNat = true) →
        Answers (.calli a) s fun t => called stored t fun l => (s.src l a).toNat)) ∧
    ((∀ l, active l → ∃ x, (o.lane l).cstk.getLast? = some x ∧ o.codeAddr x.toNat = true) →
      (∀ l, l < 32 → (s.me.lane l).cstk = (o.lane l).cstk) →
      Answers .ret s fun t => OnlyLanes s t ∧ ∀ l, l < 32 →
        let L := s.me.lane l
        t.me.lane l = if m.getLsbD l then { L with cstk := L.cstk.dropLast, npc := L.cstk.getLast?.getD 0 } else L) ∧
    (s.waitOver s.cur.tid (.held m) = true → back ≠ [] → s.reserve back = s → clear back →
      (∀ l, active l → ∃ x, (s.refill back).1.popRet back (s.refill back).2 l = .ok x ∧ o.codeAddr x = true) →
      Answers .ret s fun t =>
        let u := (s.refill back).1
        OnlyLanes u t ∧ ∀ l, l < 32 →
          let L := u.me.lane l
          (m.getLsbD l = false → t.me.lane l = L) ∧
          ∀ x, m.getLsbD l = true → u.popRet back (s.refill back).2 l = .ok x →
            t.me.lane l = { L with
              cstk := L.cstk.dropLast
              spill := if L.cstk.isEmpty then L.spill - 1 else L.spill
              npc := BitVec.ofNat 32 x })

/-- R109, R154, R155, R158 and R162: NOP changes nothing; EXIT retires the lanes of Active(), which have left their
cast; YIELD marks the wave; GUARD leaves the next word the lanes of its sense; WAITEV waits for an event of its mask
and clears it. Outside a callee and a body. -/
def Obligations.FlowResults : Prop :=
  ∀ (s : State) (p : PReg) (sense : Bool) (a : UReg),
    let m := s.cur.mask
    let e : BitVec 16 := (s.ureg a).extractLsb' 0 16
    exec .nop s = .next s ∧
    (Answers (.guard p sense) s fun t => ∃ g : Mask,
      t = { s with cur := { s.cur with guard := some g } } ∧
      ∀ l, l < 32 → g.getLsbD l = (s.preg l p == !sense)) ∧
    (s.Top → Answers .exit s fun t =>
      let u := s.castDrop s.cur.tid m
      OnlyThread s.cur.tid u t ∧
      t.me = { u.me with exitPc := BitVec.ofNat 32 s.cur.pc, lanes := t.me.lanes } ∧
      ∀ l, l < 32 → t.me.lane l = if m.getLsbD l then { u.me.lane l with st := .exited } else u.me.lane l) ∧
    (s.Top → m ≠ 0 → Answers .yield s fun t =>
      OnlyThread s.cur.tid s t ∧ t.me = { s.me with yielded := true }) ∧
    (s.Top → m ≠ 0 → (s.ureg a).toNat < 2 ^ 16 → Answers (.waitev a) s fun t =>
      if e = 0 then t = s
      else if s.me.evp &&& e = 0 then t = s.block (.event e)
      else OnlyThread s.cur.tid s t ∧ t.me = { s.me with evp := s.me.evp &&& ~~~ e })

/-! ### Traps -/

/-- R8, R123, R157, R344 and R348: the lanes that BKPT or TRAP names park at the group's first word with the registers and
latches of the start of the group's cycle (CTR as an RSEED of the group leaves it, notes/assumptions/60), to go on at the
next packet; the run loses them, one record for each goes
to the fault queue of the domain, and no memory, no request and no other lane changes.
A trap in a callee ends the innermost activation: its caller is restored with w0 the status 1 and w1 to w3 zero, v0
to v7 of the activation's lanes zero at the caller's next packet, and each trapping lane's record has KIND 3 and goes
to the wing. -/
def Obligations.TrapResults : Prop :=
  (∀ (s : State), s.cur.old.acts = [] → s.bodyLanes s.cur.mask = 0 →
    let m := s.cur.mask
    let dom := s.cur.old.dom
    let parks (i : Instr) (code : TrapCode) : Prop :=
      Answers i s fun t =>
        t.mem = s.mem ∧ t.stores = s.stores ∧ t.reqs = s.reqs ∧
        (∀ k, k ≠ s.cur.tid → t.thread k = s.thread k) ∧
        t.me = { s.me with lanes := t.me.lanes, run := t.me.run } ∧
        (∀ l, l < 32 → t.me.lane l = if m.getLsbD l then
            { s.cur.old.lane l with st := .parked, pc := BitVec.ofNat 32 s.cur.grp,
                                    ctr := (s.me.lane l).ctr, kept := some (s.cur.old.lane l).latch, parkNext := true }
          else s.me.lane l) ∧
        (∀ r, s.me.run = some r → ∃ r', t.me.run = some r' ∧
          ∀ l, l < 32 → r'.mask.getLsbD l = (r.mask.getLsbD l && !m.getLsbD l)) ∧
        (t.domain dom).records = (s.domain dom).records ++ (lanesOf m).map fun l =>
          { s.trapRecord { lane := l, code := code } 0 with domain := dom }
    parks .bkpt .bkpt ∧ parks .trap .swtrap) ∧
  (∀ (s : State) (b : Banked) (rest : List Banked), s.me.acts = b :: rest → s.cur.old.acts ≠ [] →
    s.cur.mask ≠ 0 → s.me.isLead = false →
    let dom := s.cur.old.dom
    Answers .trap s fun t =>
      t.mem = s.mem ∧ (t.stores.map fun y => { y with late := {} }) = (s.stores.map fun y => { y with late := {} }) ∧
      t.me.acts = rest ∧ t.me.dom = b.dom ∧ t.me.code = b.code ∧ t.me.evp = b.evp ∧ t.me.fflags = b.fflags ∧
      t.me.w = [1, 0, 0, 0] ++ b.w.drop 4 ∧ t.me.b = b.b ∧ t.me.run = none ∧
      (∀ l, l < 32 → b.act.getLsbD l = true →
        (t.me.lane l).v = List.replicate 8 0 ++ (rd {} b.lanes l).v.drop 8 ∧ (t.me.lane l).pc = b.ret) ∧
      (t.domain dom).records = (s.domain dom).records ++ (lanesOf s.cur.mask).map fun l =>
        { s.trapRecord { lane := l, code := .swtrap } 3 with domain := dom })

/-! ### Casts -/

/-- R45 and R165 to R169: membership, the phases of a cast, and the waits for them. A phase opens with the lanes of
the members that count in it as its target, and completes when as many have arrived. Outside a callee and a body, with
no region open on the cast. -/
def Obligations.CastResults : Prop :=
  ∀ (s : State) (m : BitVec 4) (d : UReg), s.Top → s.cur.mask ≠ 0 → s.me = s.cur.old →
    s.regionOn m.toNat = false →
    let me := s.me
    let c := s.castOf me.lc m.toNat
    let done (c : Cast) : Cast :=
      if c.open_ = true ∧ c.arrived = c.target then
        { c with phase := c.phase + 1, open_ := false, target := 0, arrived := 0 } else c
    let others (t : State) : Prop := t = { s with threads := t.threads, lcs := t.lcs } ∧
      (∀ k, k ≠ s.cur.tid → t.thread k = s.thread k) ∧ (∀ k, k ≠ me.lc → t.lc k = s.lc k) ∧
      t.lc me.lc = { s.lc me.lc with casts := (t.lc me.lc).casts } ∧
      ∀ k, k ≠ m.toNat → t.castOf me.lc k = s.castOf me.lc k
    let arrived (t : State) : Prop :=
      others t ∧
      t.castOf me.lc m.toNat =
        done { (if c.open_ then c else { c with open_ := true, target := s.castCount me.lc m.toNat, arrived := 0 }) with
          arrived := (if c.open_ then c.arrived else 0) + popMask s.cur.mask } ∧
      t.me = { me with lanes := t.me.lanes, lastph := some c.phase } ∧
      ∀ l, l < 32 → t.me.lane l = { me.lane l with
        arrived := s.cur.mask.getLsbD l || (decide (me.lastph = some c.phase) && (me.lane l).arrived) }
    let free : Prop := me.cast = some m.toNat ∧ ¬ (c.open_ = true ∧ me.joinph > c.phase) ∧
      s.fenceOver s.cur.tid .core = true ∧
      ¬ (c.open_ = true ∧ me.lastph = some c.phase ∧ ∃ l, l < 32 ∧ s.cur.mask.getLsbD l = true ∧ (me.lane l).arrived = true)
    (me.cast = none → Answers (.join m) s fun t =>
      others t ∧ t.castOf me.lc m.toNat = { c with exist := true } ∧
      t.me = { me with cast := some m.toNat, lastph := none, joinph := if c.open_ then c.phase + 1 else c.phase }) ∧
    (me.cast = some m.toNat → Answers .leave s fun t =>
      let gone := popMask me.participating
      let back := if me.lastph = some c.phase then
        popMask (me.participating &&& me.lanesWith fun L => L.arrived) else 0
      let after := done (if c.open_ = true ∧ me.joinph ≤ c.phase then
        { c with target := c.target - gone, arrived := c.arrived - back } else c)
      others t ∧ t.me.cast = none ∧ t.me.lastph = none ∧
      ((∃ k, k ≠ s.cur.tid ∧ (s.thread k).inCast me.lc m.toNat = true) → t.castOf me.lc m.toNat = after) ∧
      ((¬ ∃ k, k ≠ s.cur.tid ∧ (s.thread k).inCast me.lc m.toNat = true) → t.castOf me.lc m.toNat = {})) ∧
    (free → Answers (.arrive m) s arrived) ∧
    (free → me.inBarw = none → Answers (.barw m) s fun t => ∃ u v, arrived u ∧
      v = u.mapMe (fun x => { x with inBarw := some (m.toNat, c.phase) }) ∧
      t = if (u.castOf me.lc m.toNat).phase > c.phase then v else v.block (.phase m.toNat c.phase)) ∧
    (∀ n ph, me.inBarw = some (n, ph) → Answers (.barw m) s fun t =>
      t = if (s.castOf me.lc n).phase > ph then s else s.block (.phase n ph)) ∧
    (me.cast = some m.toNat → Answers (.waitb m) s fun t =>
      match me.lastph with
      | none => t = s
      | some ph => t = if c.phase > ph then s else s.block (.phase m.toNat ph)) ∧
    (Answers (.castq d m) s fun t => UniResult s t d
      (if c.exist then BitVec.ofNat 64 ((s.threads.filter fun x => x.inCast me.lc m.toNat).length +
          (if c.open_ then 2 ^ 7 + 2 ^ 8 * c.target + 2 ^ 20 * c.arrived else 0) + 2 ^ 32 * (c.phase % 2 ^ 32))
       else 0))

/-! ### Loads and stores -/

/-- R227 and R228: LDS gives each lane of Active() the bytes of its stash place, 0 where its access returns 0; STS
leaves in a stash area the bytes of the highest lane that stored there, and every other byte as it was. Of words
none of whose lanes fails a check, outside a callee and a body; the areas are in the canonical form. -/
def Obligations.StashResults : Prop :=
  ∀ (s : State) (d : Dst) (r : LReg) (b : BReg) (x : Src) (w : Width),
    s.cur.old.acts = [] → s.bodyLanes s.cur.mask = 0 →
    let n := widthRegs w
    let place (k : Acc) (l : Nat) : Place := s.checkAccess s.cur.old (s.breg b) (s.src l x).toNat (widthBytes w) k true
    let passes (k : Acc) : Prop := ∀ l, l < 32 → s.cur.mask.getLsbD l = true → ∀ c a, place k l ≠ .trap c a
    let value (l : Nat) : List Word :=
      extend (s.readStash s.cur.old (place .load l) (widthBytes w)) (widthBytes w) n (widthSigned w)
    let low := (s.lc s.cur.old.lc).lstash
    let hits (own : Bool) (l a : Nat) : Prop := l < 32 ∧ s.cur.mask.getLsbD l = true ∧
      ∃ o, place .store l = (if own then .own o else .lstash o) ∧ o ≤ a ∧ a < o + widthBytes w
    let byte (l a : Nat) : Byte := match place .store l with
      | .own o | .lstash o => rd 0 (s.storeData l r.toNat w) (a - o)
      | _ => 0
    let stored (own : Bool) (before after : List Host.Cell) : Prop := ∀ a,
      ((∀ l, ¬ hits own l a) → memGet after a = memGet before a) ∧
      ∀ l, hits own l a → (∀ k, l < k → ¬ hits own k a) → memGet after a = byte l a
    let sound : Prop := ∀ l, l < 32 → s.cur.mask.getLsbD l = true →
      s.stashFlawed s.cur.tid (place .load l) (widthBytes w) = false
    (passes .load → sound → n = 1 → Answers (.lds d b x w) s fun t => LaneResult s t .m d fun l => rd 0 (value l) 0) ∧
    (passes .load → sound → n ≠ 1 → Answers (.lds (.reg r) b x w) s fun t => GroupResult s t r.toNat value) ∧
    (passes .store → s.me.lc = s.cur.old.lc → Memory.wf low = true → Memory.wf s.me.stash = true →
      Answers (.sts r b x w) s fun t =>
        t = { s with threads := t.threads, lcs := t.lcs, flawedStash := t.flawedStash } ∧
        (∀ x, x ∈ t.flawedStash → x ∈ s.flawedStash) ∧
        (∀ k, k ≠ s.cur.tid → t.thread k = s.thread k) ∧ t.me = { s.me with stash := t.me.stash } ∧
        (∀ k, k ≠ s.me.lc → t.lc k = s.lc k) ∧
        t.lc s.me.lc = { s.lc s.me.lc with lstash := (t.lc s.me.lc).lstash } ∧
        stored false low (t.lc s.me.lc).lstash ∧ stored true s.me.stash t.me.stash)

/-- R218 to R220, R222, R224 and R225: a load whose lanes pass every check gives 0 to the lanes whose access returns 0, leaves
the registers of the others as they are, pushes the M pair where it loads one register, and then asks for each line
once, in ascending order; LDW asks for its one line. Outside a callee and a body, of accesses that
map no page from a pool. What asking for a line does is LineTraffic's. -/
def Obligations.LoadResults : Prop :=
  ∀ (s : State) (d : Dst) (b : BReg) (x : Src) (w : Width) (mode : LdMode) (u v : UReg) (ww : WidthW),
    s.Top →
    let r := s.breg b
    let n := widthRegs w
    let ps := s.places r (fun l => (s.src l x).toNat) (widthBytes w) .load false
    let place := s.checkAccess s.cur.old r (s.ureg v).toNat (uniBytes ww) .load false
    (s.reserve ps = s → s.judge s.cur.old.lc ps .load = [] → Answers (.ld d b x w mode) s fun t => ∃ z,
      LoadBegins s z (match d with | .reg g => some g.toNat | .latch => none) n
        (fun l => decide (s.checkAccess s.cur.old r (s.src l x).toNat (widthBytes w) .load false = .none)) ∧
      t = (linesOf ps).foldl (fun s y => s.loadLine ps r d (widthBytes w) n (widthSigned w) mode y.1 y.2) z) ∧
    (s.cur.mask ≠ 0 → place = .none →
      Answers (.ldw u b v ww mode) s fun t => UniResult s t u 0) ∧
    (∀ dom va p, s.cur.mask ≠ 0 → place = .mem dom va → s.reserve [(0, place)] = s →
      s.translate s.cur.old.lc dom va .load = .ok p → s.poisoned p = false →
      s.translate s.cur.old.lc dom (lineOf va) .load = .ok (lineOf p) →
      s.windowAt s.cur.old.lc dom (lineOf va) = none → s.me.acts = [] → s.me.core = s.cur.old.core →
      Answers (.ldw u b v ww mode) s fun t =>
        let early := s.loadsBefore s.cur.tid (BitVec.allOnes 32) dom (lineOf va)
        t.mem = s.mem ∧ t.stores = s.stores ∧
        match (if mode = .plain ∧ early = [] ∧ s.atomsOn s.cur.old.core (lineOf p) = [] then s.l1Copy s.cur.old.core (lineOf p) else none) with
        | some c => t.reqs = s.reqs ∧ rd 0 t.me.w u.toNat =
            BitVec.ofNat 64 (leAt (overlay (s.queued s.cur.old.core (lineOf p)) c.data) (va % 128) (uniBytes ww))
        | none => t.me.wpend = s.me.wpend ++ [(u.toNat, s.reqs.length)] ∧ ∃ q : Req, t.reqs = s.reqs ++ [q] ∧
            q.line = lineOf p ∧ q.st = .sent ∧ q.tid = s.cur.tid ∧ q.acq = decide (mode = .acq) ∧
            q.behind = early ∧ q.after = s.atomsOn s.cur.old.core (lineOf p) ∧ q.seen = s.stores.length ∧
            q.parts = [{ dest := .uni u.toNat, off := va % 128, width := uniBytes ww }])

/-- R91, R94, R96, R224 to R226: a store whose lanes pass every check enters the store queue, one entry for each line,
once the release it may ask for is over; an atomic enters it line by line, after the lanes whose access returns 0 have
taken it, where it returns a value. Outside a callee and a body, of accesses that map no page from a pool. -/
def Obligations.StoreResults : Prop :=
  ∀ (s : State) (d : LReg) (b : BReg) (x : Src) (w : Width) (mode : StMode) (u v : UReg) (ww : WidthW)
    (op : AtomOp) (w64 ret ar : Bool),
    s.Top →
    let r := s.breg b
    let lc := s.cur.old.lc
    let idx (l : Nat) : Nat := (s.src l x).toNat
    let ps := s.places r idx (widthBytes w) .store false
    let n := if w64 then 2 else 1
    let qs := s.places r idx (4 * n) .atomic false
    let place := s.checkAccess s.cur.old r (s.ureg v).toNat (uniBytes ww) .store false
    let released (on : Bool) (ps : Lanes) (eff : State → State) (t : State) : Prop :=
      match (if on then s.releaseScope lc ps else none) with
      | none => t = eff s
      | some sc =>
        let f := s.flushDirty s.cur.tid
        t = if f.waitOver s.cur.tid (.fence sc) then eff f else f.block (.fence sc)
    (s.reserve ps = s → s.judge lc ps .store = [] →
      Answers (.st d b x w mode) s
        (released (decide (mode = .rel)) ps fun z => z.storeAll s.cur.tid ps (fun l => s.storeData l d.toNat w) (decide (mode = .stream)))) ∧
    (∀ dom va p, s.cur.mask ≠ 0 → place = .mem dom va → s.reserve [(0, place)] = s →
      s.translate lc dom va .store = .ok p → s.judge lc [(0, place)] .store = [] →
      Answers (.stw u b v ww mode) s
        (released (decide (mode = .rel)) [(0, place)] fun z =>
          let bs := bytesOf (uniBytes ww) (s.ureg u).toNat
          z.storeLine s.cur.tid s.cur.mask dom (lineOf va) ((List.range bs.length).map fun i => (va % 128 + i, rd 0 bs i))
            (decide (mode = .stream)) true)) ∧
    (s.reserve qs = s → s.judge lc qs .atomic = [] →
      (s.det s.cur.tid = false ∨ (ret = false ∧ op ≠ .xchg ∧ op ≠ .cas)) →
      Answers (.atom d b x op w64 ret ar) s (released ar qs fun z =>
        let y := if ret then z.zeroDropped qs d.toNat n else z
        let y := if ret && decide (n = 1) then y.pushAll .m fun _ => 0 else y
        (linesOf qs).foldl (fun z y =>
          z.atomLine qs y.1 y.2 (z.atomPart d.toNat op w64) ar (if ret then some (d.toNat, n) else none)) y))

/-- R89 to R91, R95, R96, R220, R222 and R226: one line of a load, of a store and of an atomic, where the line is
mapped and no window covers it, outside a body. A load is served at once by a copy whose lease stands, under the core's own stores,
or asks the home for the line, which only a plain load may keep under its record's lease, and leaves its registers waiting; a store is accepted with, at each byte, the byte of
its highest lane; an atomic is accepted with its lanes' operations in ascending order. Memory changes by none. -/
def Obligations.LineTraffic : Prop :=
  ∀ (s : State) (ps : Lanes) (dom line p : Nat),
    let o := s.cur.old
    let tid := s.cur.tid
    let free (k : Acc) : Prop :=
      s.windowAt o.lc dom line = none ∧ s.translate o.lc dom line k = .ok p
    let lanes : Mask := maskOf fun l => (onLine ps dom line).any fun y => y.1 = l
    let early := s.loadsBefore tid lanes dom line
    s.me.lc = o.lc → s.me.core = o.core → s.me.acts = [] → o.acts = [] → (ps.map (·.1)).Nodup →
    s.bodyLanes (BitVec.allOnes 32) = 0 →
    (∀ (r : BufRec) (d : Dst) (w n : Nat) (sg : Bool) (mode : LdMode), free .load →
      let t := s.loadLine ps r d w n sg mode dom line
      t.mem = s.mem ∧ t.stores = s.stores ∧
      match (if mode = .plain ∧ early = [] ∧ s.atomsOn o.core (lineOf p) = [] then s.l1Copy o.core (lineOf p) else none) with
      | some c => t.reqs = s.reqs ∧ ∀ l off x i, (l, off) ∈ onLine ps dom line → d = .reg x → i < n →
          rd 0 (t.me.lane l).v (x.toNat + i) =
            rd 0 (extend ((overlay (s.queued o.core (lineOf p)) c.data).drop off) w n sg) i
      | none =>
        (∀ l off x i, (l, off) ∈ onLine ps dom line → d = .reg x → i < n →
          (x.toNat + i, s.reqs.length) ∈ (t.me.lane l).pend) ∧
        ∃ q : Req, t.reqs = s.reqs ++ [q] ∧ q.line = lineOf p ∧ q.st = .sent ∧ q.tid = tid ∧
          q.acq = decide (mode = .acq) ∧ q.lease = leaseTicks r.lease ∧ q.keeps = decide (mode = .plain) ∧
          q.after = s.atomsOn o.core (lineOf p) ∧ q.behind = early ∧ q.seen = s.stores.length ∧
          q.parts.map (fun y => (y.off, y.width, y.signed)) = (onLine ps dom line).map fun y => (y.2, w, sg)) ∧
    (∀ (data : Nat → List Byte) (stream : Bool), free .store → linesOf ps = [(dom, line)] →
      let t := s.storeAll tid ps data stream
      let on := onLine ps dom line
      t.mem = s.mem ∧ t.reqs = s.reqs ∧ ∃ e : Store, t.stores = s.stores ++ [e] ∧
        e.live = true ∧ e.core = o.core ∧ e.tids = [tid] ∧ e.line = lineOf p ∧ e.kind = .plain ∧ e.st = .accepted ∧
        e.stream = stream ∧ e.after = early ∧
        (∀ l, l < 32 → (e.lanes.getLsbD l = true ↔ ∃ off, (l, off) ∈ on)) ∧
        ∀ i, i < 128 → cellAt e.bytes i =
          on.foldl (fun v y => if y.2 ≤ i ∧ i < y.2 + (data y.1).length then some (rd 0 (data y.1) (i - y.2)) else v) none) ∧
    (∀ (part : Nat → Nat → AtomPart) (acq : Bool) (ret : Option (Nat × Nat)), free .atomic →
      let t := s.atomLine ps dom line part acq ret
      t.mem = s.mem ∧ ∃ e : Store, t.stores = s.stores ++ [e] ∧
        e.live = true ∧ e.core = o.core ∧ e.tids = [tid] ∧ e.line = lineOf p ∧ e.acq = acq ∧ e.after = early ∧
        e.kind = .atom ((onLine ps dom line).map fun y => part y.1 y.2) ∧
        match ret with
        | none => t.reqs = s.reqs
        | some (reg, n) => ∃ q : Req, t.reqs = s.reqs ++ [q] ∧ q.st = .home ∧ q.store = some s.stores.length ∧ q.acq = acq ∧
            q.parts.map (fun y => (y.dest, y.off, y.width)) =
              (onLine ps dom line).map fun y => (Dest.lane y.1 (some reg) n, y.2, 4 * n))

/-! ### Fences, windows, prefetch and polls -/

/-- R93, R103, R104, R230 to R233: FENCE waits until its conditions hold, having written back the thread's dirty
windows at device and system scope; STFLUSH stores the dirty bytes of the window entries of its span and leaves them
clean, STDROP takes the entries away without a store, STMAP maps a window, or stores the dirty bytes of its entries
and unmaps it; PREF drops the lanes that would fail a check and asks for each line of the others once, unless the L1 or
a window holds it. None changes a byte of memory. Outside a callee and a body. That PREF's checks are made for one byte is
the model's choice (notes/assumptions/62), and so are which entries a span takes, those whose whole line lies in it
(notes/assumptions/24), and how far a prefetch goes before it is dropped (notes/assumptions/45). -/
def Obligations.FenceAndWindowResults : Prop :=
  ∀ (s : State) (sc : Scope) (b : BReg) (a : UReg) (x : Src), s.Top → s.cur.mask ≠ 0 →
    let r := s.breg b
    let lc := s.cur.old.lc
    let tid := s.cur.tid
    let win (t : State) (n : Nat) : Window := t.window lc n
    let inSpan (w : Window) (e : WinEntry) : Bool := r.base ≤ w.base + e.off && w.base + e.off + 128 ≤ r.base + r.span
    -- the store of the dirty bytes of an entry of window n
    let back (n : Nat) (e : WinEntry) : Option Store :=
      if e.dirty = 0 then none else
      ((s.domain (s.lc lc).asid).place ((win s n).base + e.off)).map fun p =>
        { live := true, core := (s.lc lc).core, tids := (e.writers ++ [tid]).eraseDups, dom := (s.lc lc).asid,
          va := (win s n).base + e.off, line := lineOf p,
          bytes := ((List.range 128).filter fun i => e.dirty.getLsbD i).map fun i => (i, rd 0 e.data i) }
    -- the backing bytes of window n with what entries of it held
    let kept (n : Nat) (es : List WinEntry) (m : List Host.Cell) : List Host.Cell :=
      es.foldl (fun m e => memPutN m ((win s n).backing + e.off) e.data) m
    let picked (n : Nat) : List WinEntry := if (win s n).mapped then (win s n).entries.filter (inSpan (win s n)) else []
    let each (f : State → Nat → State) : State :=
      (List.range 16).foldl (fun z n => if (win s n).mapped then f z n else z) s
    let flushed := each fun z n => z.writeBack lc n (inSpan (win s n)) true [tid]
    let dropped := each fun z n => z.emptyEntries lc n (inSpan (win s n))
    let v := s.ureg a
    let k := fld v 3 0
    let mapped := s.mapWindow lc k fun _ =>
      { mapped := true, record := r, base := r.base, span := r.span, backing := fld v 19 12 * 4096 }
    let unmapped := s.unmapWindow lc k [tid]
    let f := match sc with | .device | .system => s.flushDirty tid | _ => s
    (f.fenceOver tid sc = true → exec (.fence sc) s = .next f) ∧
    (f.fenceOver tid sc = false → exec (.fence sc) s = .next (f.block (.fence sc))) ∧
    f.mem = s.mem ∧ f.reqs = s.reqs ∧
    (r.stash = false → exec (.stflush b) s = .next flushed ∧
      flushed.mem = s.mem ∧ flushed.reqs = s.reqs ∧ flushed.threads = s.threads ∧
      flushed.stores = s.stores ++ (List.range 16).flatMap (fun n => (picked n).filterMap (back n)) ∧
      ∀ n, n < 16 → win flushed n =
        if (win s n).mapped then
          let clean (e : WinEntry) : WinEntry := if inSpan (win s n) e then { e with dirty := 0, writers := [] } else e
          { win s n with entries := (win s n).entries.map clean }
        else win s n) ∧
    (r.stash = false → exec (.stdrop b) s = .next dropped ∧
      dropped = { s with lcs := dropped.lcs } ∧ (∀ k, k ≠ lc → dropped.lc k = s.lc k) ∧
      dropped.lc lc = { s.lc lc with windows := (dropped.lc lc).windows, lstash := (dropped.lc lc).lstash } ∧
      (dropped.lc lc).lstash = (List.range 16).foldl (fun m n => kept n (picked n) m) (s.lc lc).lstash ∧
      ∀ n, n < 16 → win dropped n =
        if (win s n).mapped then { win s n with entries := (win s n).entries.filter fun e => !inSpan (win s n) e }
        else win s n) ∧
    (r.stash = true → exec (.stflush b) s = .next (s.trapWave .stashmap) ∧ exec (.stdrop b) s = .next (s.trapWave .stashmap)) ∧
    (v.toNat < 2 ^ 20 → fld v 11 5 = 0 → v.getLsbD 4 = false → s.mapBad lc k (fld v 19 12) r = false →
      exec (.stmap b a) s = .next mapped ∧ mapped = { s with lcs := mapped.lcs } ∧
        win mapped k = { mapped := true, record := r, base := r.base, span := r.span, backing := fld v 19 12 * 4096 } ∧
        ∀ n, n ≠ k → win mapped n = win s n) ∧
    (v.toNat < 2 ^ 20 → fld v 11 5 = 0 → v.getLsbD 4 = false → s.mapBad lc k (fld v 19 12) r = true →
      exec (.stmap b a) s = .next (s.trapWave .stashmap)) ∧
    (v.toNat < 2 ^ 20 → fld v 11 5 = 0 → v.getLsbD 4 = true → b = 0 →
      exec (.stmap b a) s = .next unmapped ∧ ((win s k).mapped = false → unmapped = s) ∧
      ((win s k).mapped = true →
        unmapped.mem = s.mem ∧ unmapped.reqs = s.reqs ∧ unmapped.threads = s.threads ∧
        unmapped.stores = s.stores ++ (win s k).entries.filterMap (back k) ∧
        win unmapped k = {} ∧ (∀ n, n ≠ k → win unmapped n = win s n) ∧
        (unmapped.lc lc).lstash = kept k (win s k).entries (s.lc lc).lstash)) ∧
    (¬ (v.toNat < 2 ^ 20 ∧ fld v 11 5 = 0 ∧ (v.getLsbD 4 = true → b = 0)) →
      exec (.stmap b a) s = .next (s.trapWave .ill)) ∧
    (r.lease = 0 → exec (.pref b x) s = .next s) ∧
    (let idx (l : Nat) : Nat := s.srcOrW l x
     let ps := (s.places r idx 1 .load false).filter fun y => (r.elemOff (idx y.1) 1).2
     let good := ps.filter fun y => !((s.judge lc ps .load).any fun z => z.lane = y.1)
     let t := (linesOf good).foldl (fun z y => z.prefLine r y.1 y.2) s
     r.lease ≠ 0 → s.reserve ps = s →
       exec (.pref b x) s = .next t ∧ t.mem = s.mem ∧ t.threads = s.threads) ∧
    ∀ dom line p,
      let t := s.prefLine r dom line
      let q : Req := { tid := tid, depth := s.me.gdepth, core := s.me.core, dom := dom, va := line,
                       lease := leaseTicks r.lease, keeps := true, pref := true, seen := s.stores.length }
      (s.translate lc dom line .load = .ok p → s.windowAt lc dom line = none →
        t.stores = s.stores ∧
        t.reqs = if s.atomsOn s.cur.old.core (lineOf p) = [] ∧ (s.l1Copy s.cur.old.core (lineOf p)).isSome then s.reqs
          else s.reqs ++ [{ q with line := lineOf p, after := s.atomsOn s.me.core (lineOf p) }]) ∧
      (∀ k n, s.translate lc dom line .load = .ok p → s.windowAt lc dom line = some (k, n) →
        let off := s.windowOff k n dom line
        if (s.winEntry k n off).isSome then t.stores = s.stores ∧ t.reqs = s.reqs ∧ t.window k n = s.window k n
        else
          t.reqs = s.reqs ++ [{ q with line := lineOf p, seen := t.stores.length,
                                       after := s.atomsOn s.me.core (lineOf p) }] ∧
          (t.window k n).entries = (s.window k n).entries.filter fun e => e.off ≠ off) ∧
      (s.translate lc dom line .load = .walk →
        t.stores = s.stores ∧ t.reqs = s.reqs ++ [{ q with st := .walk }])

/-- R94, R101, R234, R235 and R255: a polling word starts its poll and waits, and once an attempt has met its test
completes with the acquire of its lanes; BBARM stores COUNT 0 and its target as a release, and later accesses of the
thread wait for that store. Outside a callee and a body. -/
def Obligations.PollResults : Prop :=
  ∀ (s : State) (b : BReg) (c : PollCond) (x y : Src) (a : UReg), s.Top → s.cur.mask ≠ 0 →
    let r := s.breg b
    let lc := s.cur.old.lc
    let ps := s.places r (fun l => s.srcOrW l x) 4 .load false
    let place (n : Nat) (k : Acc) : Place := s.checkAccess s.cur.old r 0 n k false
    let ended (all : Bool) (p : Poll) (t : State) : Prop :=
      OnlyThread s.cur.tid s t ∧ t.me = { s.me with poll := none, lanes := t.me.lanes } ∧
      ∀ l, l < 32 → t.me.lane l = if all = true ∨ s.cur.mask.getLsbD l = true then
          { s.me.lane l with acq := max (s.me.lane l).acq (p.home + 4) } else s.me.lane l
    let begun (t : State) : Prop := ∃ u, OnlyThread s.cur.tid s u ∧
      u.me = { s.me with poll := some { next := s.coreClock s.me.core } } ∧ t = u.block .poll
    (∀ p, s.cur.old.poll = some p → p.done = true →
      Answers (.waitv b c x y) s (ended false p) ∧ Answers (.bbwait b a) s (ended true p) ∧ Answers (.waitc b a) s (ended true p)) ∧
    (∀ p, s.cur.old.poll = some p → p.done = false →
      exec (.waitv b c x y) s = .next (s.block .poll) ∧ exec (.bbwait b a) s = .next (s.block .poll) ∧
      exec (.waitc b a) s = .next (s.block .poll)) ∧
    (s.cur.old.poll = none → s.reserve ps = s → s.judge lc ps .load = [] → Answers (.waitv b c x y) s begun) ∧
    (s.cur.old.poll = none → s.reserve [(0, place 16 .load)] = s →
      s.judge lc [(0, place 16 .load)] .load = [] → Answers (.bbwait b a) s begun) ∧
    (s.cur.old.poll = none → s.reserve [(0, place 8 .load)] = s →
      s.judge lc [(0, place 8 .load)] .load = [] → Answers (.waitc b a) s begun) ∧
    (∀ dom va p sc, place 16 .store = .mem dom va → s.reserve [(0, place 16 .store)] = s →
      s.judge lc [(0, place 16 .store)] .store = [] →
      s.translate lc dom va .store = .ok p → s.releaseScope lc [(0, place 16 .store)] = some sc →
      let f := s.flushDirty s.cur.tid
      f.waitOver s.cur.tid (.fence sc) = true → s.me.lc = lc →
      f.windowAt lc dom (lineOf va) = none → f.translate lc dom (lineOf va) .store = .ok (lineOf p) →
      Answers (.bbarm b a) s fun t =>
        t.mem = s.mem ∧ t.me.bbHold = s.me.bbHold ++ [f.stores.length] ∧
        ∃ e : Store, t.stores = f.stores ++ [e] ∧ e.live = true ∧ e.line = lineOf p ∧ e.va = lineOf va ∧
          ∀ i, i < 16 → cellAt e.bytes (va % 128 + i) =
            some (if i < 8 then 0 else BitVec.ofNat 8 ((s.ureg a).toNat / 2 ^ (8 * (i - 8)))))

/-! ### Buffer records and translations -/

/-- R213, R214, R236 and R237: BUFSET makes a record of two registers, which lends nothing, or traps ILL on a reserved
bit or code and PERM on LENT; BUFGET reads a record's bits; BUFNAR narrows a record, adding no element and no
permission, or traps. Outside a body. -/
def Obligations.BufferRecordResults : Prop :=
  ∀ (s : State) (d a : BReg) (u : UReg), s.cur.mask ≠ 0 → s.bodyLanes s.cur.mask = 0 →
    let wrote (t : State) (x : BufRec → Prop) : Prop :=
      OnlyThread s.cur.tid s t ∧ t.me = { s.me with b := t.me.b } ∧
      x (rd {} t.me.b d.toNat) ∧ ∀ n, n ≠ d.toNat → rd {} t.me.b n = rd {} s.me.b n
    let lo := s.ureg u
    let hi := s.quadReg u 1
    let reserved : Prop := hi.getLsbD 7 = true ∨ lo.getLsbD 57 = true ∨ fld hi 6 4 > 4 ∨ fld hi 3 2 = 3 ∨ fld lo 59 58 = 3
    let r := s.breg a
    let start := fld lo 31 0
    let count := fld lo 63 32
    let off := start * r.stride * 2 ^ r.esize
    (¬ reserved → lo.getLsbD 63 = false → Answers (.bufset d u) s fun t =>
      wrote t fun y => y = { bits := hi ++ lo, lender := none }) ∧
    (reserved → exec (.bufset d u) s = .next (s.trapWave .ill)) ∧
    (¬ reserved → lo.getLsbD 63 = true → exec (.bufset d u) s = .next (s.trapWave .perm)) ∧
    (Answers (.bufget u a) s fun t =>
      OnlyThread s.cur.tid s t ∧ t.me = { s.me with w := t.me.w } ∧
      ∀ n, rd 0 t.me.w n = if n = u.toNat then r.bits.extractLsb' 0 64
        else if n = u.toNat + 1 then r.bits.extractLsb' 64 64 else rd 0 s.me.w n) ∧
    (hi.toNat < 4 → start + count ≤ r.extent → r.base + off < 2 ^ 57 →
      (r.stash = true → r.base % 2 ^ 20 + off < 2 ^ 20) → Answers (.bufnar d a u) s fun t =>
      wrote t fun y => y.base = r.base + off ∧ y.extent = count ∧ y.stride = r.stride ∧ y.esize = r.esize ∧
        y.swz = r.swz ∧ y.lease = r.lease ∧ y.oob = r.oob ∧ y.stash = r.stash ∧ y.lent = r.lent ∧ y.lender = r.lender ∧
        y.r = (r.r && hi.getLsbD 0) ∧ y.w = (r.w && hi.getLsbD 1)) ∧
    (hi.toNat ≥ 4 → exec (.bufnar d a u) s = .next (s.trapWave .ill)) ∧
    (hi.toNat < 4 → start + count > r.extent → exec (.bufnar d a u) s = .next (s.trapWave .bounds))

/-- R238 to R240: TLBLK locks the pages of a span, all or none, and waits
for a page that the host walks; TLBUNLK gives up the region of an equal span and the
entries that no other region holds; TLBPRB reports a translation, of which the presence of an unlocked entry is free.
Outside a callee and a body. -/
def Obligations.TranslationWordResults : Prop :=
  ∀ (s : State) (d : UReg) (a : BReg) (b : UReg), s.Top → s.cur.mask ≠ 0 → (s.breg a).stash = false →
    let o := s.cur.old
    let r := s.breg a
    let x := s.lc o.lc
    let dm := s.domain o.dom
    let fuel := if dm.ptroot = 0 then dm.pages.length + dm.poolN + 1 else r.span / 2 ^ 16 + 2
    let found := s.spanPages o.dom fuel r.base (r.base + r.span - 1)
    let hole := found.1.firstHole o.dom fuel r.base
    let only (t : State) : Prop := t = { s with lcs := t.lcs } ∧ ∀ k, k ≠ o.lc → t.lc k = s.lc k
    let place := r.elemOff (s.ureg b).toNat (2 ^ r.esize)
    let va := lineOf (r.base + place.1)
    (r.span = 0 → exec (.tlblk a) s = .next s) ∧
    (∀ ps, r.span ≠ 0 → found = (s, some ps) →
      let new := ps.filter fun p => !(s.lockedOn o.core).contains (x.asid, p.1, p.2)
      ((s.lockedOn o.core).length + new.length ≤ 32 → Answers (.tlblk a) s fun t => only t ∧
        t.lc o.lc = { x with locks := (x.locks ++ [(r.base, r.span)]).eraseDups, lockPages := (x.lockPages ++ ps).eraseDups }) ∧
      ((s.lockedOn o.core).length + new.length > 32 → exec (.tlblk a) s = .next (s.trapWave .lockmiss 0 r.base))) ∧
    (r.span ≠ 0 → dm.ctxmode.getLsbD 0 = false → found.2 = none →
      exec (.tlblk a) s = .next (s.trapWave .xlate 0 r.base)) ∧
    (r.span ≠ 0 → dm.ctxmode.getLsbD 0 = true → found.2 = none → exec (.tlblk a) s = .next
      (if o.deniedAt o.dom hole then s.trapWave .xlate 0 r.base
       else (found.1.missEntry o.dom hole o.core .load).block (.page o.dom hole))) ∧
    (Answers (.tlbunlk a) s fun t => only t ∧
      t.lc o.lc = if (r.base, r.span) ∈ x.locks then
        { x with
          locks := x.locks.filter fun k => k ≠ (r.base, r.span)
          lockPages := x.lockPages.filter fun p => (x.locks.filter fun k => k ≠ (r.base, r.span)).any fun k =>
            k.1 < p.1 + 2 ^ p.2 && p.1 < k.1 + k.2 }
      else x) ∧
    (place.2 = false ∨ va ≥ 2 ^ 57 → Answers (.tlbprb d a b) s fun t => UniResult s t d 0) ∧
    (place.2 = true → va < 2 ^ 57 → Answers (.tlbprb d a b) s fun t =>
      ∃ free : Bool, UniResult { s with draws := s.draws + 1 } t d
        (match dm.page va with
         | none => 0
         | some p =>
           let locked := (s.lockedOn x.core).any fun k => k.1 = x.asid && va / 2 ^ k.2.2 = k.2.1 / 2 ^ k.2.2
           let pa := p.pa + va % 2 ^ p.log
           BitVec.ofNat 64 (1 + (if locked || free then 2 ^ 5 else 0) + (if locked then 2 ^ 6 else 0) +
             (if p.r then 2 ^ 7 else 0) + (if p.w then 2 ^ 8 else 0) +
             (if p.log = 16 then 0 else if p.log = 21 then 1 else 2) * 2 ^ 10 +
             (if isDevice pa then dieOf pa else 15) * 2 ^ 12)))

/-! ### Queues -/

/-- R48, R58, R243 to R249: words on the queue registers q3 to q15. A push waits for room and appends the values of
the lanes in ascending order; a pop waits for entries and takes the oldest first, one for each lane; QTRY takes what
there is; QLEN reads the number of entries; QBIND binds an empty register. The entries of q5 to q15 lie in the LSTASH
area (the slot of each by notes/assumptions/26); those of a register bound to a host work queue lie in its ring, whose
pages are there and whose homes let the device at them. A push goes to a queue of TYPE 2 and a pop comes from one of TYPE 1,
as R381 gives their roles, against the letter of R243 (notes/assumptions/64). Of words that no check of R247 traps, outside a callee and a
body. -/
def Obligations.QueueResults : Prop :=
  ∀ (s : State) (q : QReg) (a : Src) (u : UReg) (d : Dst) (r : LReg) (p : PReg),
    s.Top → s.cur.mask ≠ 0 → q.toNat ≥ 3 →
    let lc := s.cur.old.lc
    let f := (s.lc lc).fifo q.toNat
    let lanes := lanesOf s.cur.mask
    let rank (l : Nat) : Nat := (lanes.filter fun k => k < l).length
    let one : Nat := if s.cur.old.isLead then 0 else 1
    -- the entry k behind the oldest: that of a stash FIFO lies in the LSTASH area
    let entry (k : Nat) : Dword := if q.toNat < 5 then rd 0 f.entries k else
      BitVec.ofNat 64 (ofBytes (memGetN (s.lc lc).lstash (f.slot k) 8))
    let bytes (xs : List Dword) : List Host.Cell := if q.toNat < 5 then (s.lc lc).lstash else
      (List.range xs.length).foldl (fun m i => memPutN m (f.slot (f.entries.length + i)) (bytesOf 8 (rd 0 xs i).toNat))
        (s.lc lc).lstash
    let q' (t : State) (g : Fifo) (m : List Host.Cell := (s.lc lc).lstash) : Prop :=
      t = { s with lcs := t.lcs } ∧ (∀ k, k ≠ lc → t.lc k = s.lc k) ∧
      t.lc lc = { s.lc lc with queues := (t.lc lc).queues, lstash := m } ∧ (t.lc lc).fifo q.toNat = g ∧
      ∀ k, k ≥ 3 → k ≠ q.toNat → (t.lc lc).fifo k = (s.lc lc).fifo k
    let pushed (xs : List Dword) (t : State) : Prop :=
      if s.waitOver s.cur.tid (.push q.toNat xs.length) then
        q' t { f with entries := f.entries ++ xs, permits := f.permits - xs.length, pushes := f.pushes + one }
          (bytes xs)
      else t = s.block (.push q.toNat xs.length)
    let popped (n : Nat) (done : State → State → Prop) (t : State) : Prop :=
      if s.waitOver s.cur.tid (.pop q.toNat n) then
        ∃ z, q' z { f with entries := f.entries.drop n, permits := f.permits + n, pops := f.pops + one, head := f.head + n } ∧ done z t
      else t = s.block (.pop q.toNat n)
    let took (n : Nat) : Fifo := { f with entries := f.entries.drop n, permits := f.permits + n, head := f.head + n }
    let n := min lanes.length f.entries.length
    (f.kind = 1 → s.queueTrap s.cur.tid q.toNat lanes.length true = none →
      Answers (.qpush q a) s (pushed (lanes.map fun l => (s.src l a).setWidth 64))) ∧
    (f.kind = 1 → s.queueTrap s.cur.tid q.toNat 1 true = none → Answers (.qpushw q u) s (pushed [s.ureg u])) ∧
    (f.kind = 1 → s.queueTrap s.cur.tid q.toNat lanes.length false = none →
      Answers (.qpop d q) s (popped lanes.length fun z t =>
        LaneResult z t .m d fun l => (entry (rank l)).setWidth 32)) ∧
    (f.kind = 1 → s.queueTrap s.cur.tid q.toNat 1 false = none →
      Answers (.qpopw u q) s (popped 1 fun z t => UniResult z t u (entry 0))) ∧
    (f.kind = 1 → s.det s.cur.tid = false → s.queueTrap s.cur.tid q.toNat 0 false = none →
      Answers (.qtry r q p) s fun t => ∃ y z, q' y (took n) ∧ PredResult z t p (fun l => decide (rank l < n)) ∧
        OnlyLanes y z ∧ ∀ l, l < 32 → z.me.lane l = { y.me.lane l with v := (z.me.lane l).v } ∧
          ∀ m, rd 0 (z.me.lane l).v m = if s.cur.mask.getLsbD l = true ∧ rank l < n ∧ m = r.toNat then
              (entry (rank l)).setWidth 32 else rd 0 (y.me.lane l).v m) ∧
    (f.kind = 1 → s.det s.cur.tid = false → s.queueTrap s.cur.tid q.toNat 0 false = none →
      Answers (.qtryw u q p) s fun t =>
        if f.entries = [] then PredResult s t p fun _ => false
        else ∃ y z, q' y (took 1) ∧ UniResult y z u (entry 0) ∧ PredResult z t p fun _ => true) ∧
    (f.kind = 1 → s.det s.cur.tid = false → f.frozen = false →
      Answers (.qlen u q) s fun t => UniResult s t u (BitVec.ofNat 64 f.entries.length)) ∧
    ((s.ureg u).toNat < 2 ^ 32 → q.toNat ≥ 5 → f.kind ≠ 2 → f.frozen = false → f.entries = [] →
      (∀ k, (s.thread k).alive = true → (s.thread k).lc = lc → (s.thread k).waitsOn q.toNat = false) →
      let x : Word := (s.ureg u).setWidth 32
      let n := fld x 7 0 + 1
      (x = 0 → Answers (.qbind q u) s fun t =>
        q' t { f with kind := 0, spec := 0, entries := [], depth := 0, permits := 0, head := 0 }) ∧
      (fld x 31 30 = 1 → fld x 29 28 = 0 → fld x 15 8 = 0 → s.fifoPlaceBad lc q.toNat x = false → Answers (.qbind q u) s fun t =>
        q' t { f with kind := 1, spec := x.setWidth 28, entries := [], depth := n, permits := n, head := 0 })) ∧
    -- a host work queue: the words move its entries one after another
    (∀ w, f.kind = 2 → s.boundQ lc q.toNat = some w →
      let asid := (s.lc lc).asid
      let ready (n : Nat) (isPush : Bool) : Prop :=
        let slots := s.workSlots asid w n isPush
        (∀ va, va ∈ w.block :: slots → ((s.domain asid).page va).isSome = true) ∧
        s.waitOver s.cur.tid (.lines [(asid, lineOf w.block)]) = true ∧
        s.waitOver s.cur.tid (.free ((w.block :: if isPush then slots else []).filterMap (s.domain asid).place)) = true ∧
        s.waitOver s.cur.tid (.lines (slots.map fun va => (asid, lineOf va))) = true
      let turn (isPush : Bool) : State := if s.cur.old.isLead then s else s.mapFifo lc q.toNat fun f =>
        if isPush then { f with pushes := f.pushes + 1 } else { f with pops := f.pops + 1 }
      let put (xs : List Dword) (t : State) : Prop := t = xs.foldl (fun z x => z.pushEntry lc q.toNat x) (turn true)
      let m := min lanes.length (s.queueHeld lc q.toNat)
      (∀ n, ready n true → s.waitOver s.cur.tid (.push q.toNat n) = true → s.queueTrap s.cur.tid q.toNat n true = none →
        (n = lanes.length → Answers (.qpush q a) s (put (lanes.map fun l => (s.src l a).setWidth 64))) ∧
        (n = 1 → Answers (.qpushw q u) s (put [s.ureg u]))) ∧
      (∀ n, ready n false → s.waitOver s.cur.tid (.pop q.toNat n) = true → s.queueTrap s.cur.tid q.toNat n false = none →
        let z := (turn false).popEntries lc q.toNat n
        (n = lanes.length → Answers (.qpop d q) s fun t => LaneResult z.1 t .m d fun l => (rd 0 z.2 (rank l)).setWidth 32) ∧
        (n = 1 → Answers (.qpopw u q) s fun t => UniResult z.1 t u (rd 0 z.2 0))) ∧
      (s.det s.cur.tid = false → s.queueTrap s.cur.tid q.toNat 0 false = none → ready m false →
        let z := s.popEntries lc q.toNat m
        Answers (.qtry r q p) s fun t => ∃ y, PredResult y t p (fun l => decide (rank l < m)) ∧
          OnlyLanes z.1 y ∧ ∀ l, l < 32 → y.me.lane l = { z.1.me.lane l with v := (y.me.lane l).v } ∧
            ∀ k, rd 0 (y.me.lane l).v k = if s.cur.mask.getLsbD l = true ∧ rank l < m ∧ k = r.toNat then
                (rd 0 z.2 (rank l)).setWidth 32 else rd 0 (z.1.me.lane l).v k) ∧
      (s.det s.cur.tid = false → s.queueTrap s.cur.tid q.toNat 0 false = none → ready (min 1 m) false →
        let z := s.popEntries lc q.toNat 1
        Answers (.qtryw u q p) s fun t =>
          if m = 0 then PredResult s t p fun _ => false
          else ∃ y, UniResult z.1 y u (rd 0 z.2 0) ∧ PredResult y t p fun _ => true) ∧
      (s.det s.cur.tid = false → f.frozen = false → ((s.domain asid).page w.block).isSome = true →
        s.waitOver s.cur.tid (.lines [(asid, lineOf w.block)]) = true → Answers (.qlen u q) s fun t => UniResult s t u (BitVec.ofNat 64 (s.queueHeld lc q.toNat)))) ∧
    -- what moves with one entry: its 8 bytes in the ring, then TAIL or CONSUMED; and what a wave may take of the permits
    ∀ (w : WorkQ) (x : Dword) (at_ pe pb : Nat), s.boundQ lc q.toNat = some w → Memory.wf s.mem = true →
      let asid := (s.lc lc).asid
      let field (off n : Nat) : Nat := s.blockField asid w.block off n
      let there (va p n : Nat) : Prop := ∀ i, i < n → ∃ g, (s.domain asid).page (va + i) = some g ∧ g.r = true ∧ g.w = true ∧
        g.pa + (va + i) % 2 ^ g.log = p + i ∧ s.poisoned (p + i) = false
      let bytes (t : State) (off pos : Nat) (entry : Option Dword) : Prop := ∀ k, memGet t.mem k =
        if pb + off ≤ k ∧ k < pb + off + 8 then BitVec.ofNat 8 (pos / 2 ^ (8 * (k - (pb + off))))
        else match entry with
          | some x => if pe ≤ k ∧ k < pe + 8 then BitVec.ofNat 8 (x.toNat / 2 ^ (8 * (k - pe))) else memGet s.mem k
          | none => memGet s.mem k
      there w.block pb 64 → there at_ pe 8 →
      (s.workType asid w = 2 → at_ = field 0 8 + 8 * ((field 0x10 8 + 1) % field 8 4) →
        let t := s.pushEntry lc q.toNat x
        bytes t 0x10 (field 0x10 8 + 1) (some x) ∧
        ((t.domain asid).workq w.queue).map (·.permits) = some (w.permits + (field 0x18 8 - w.cons) - 1)) ∧
      (s.workType asid w = 1 → s.deviceClear asid w.block 64 = true → at_ = field 0 8 + 8 * ((field 0x18 8 + 1) % field 8 4) →
        let z := s.popEntry lc q.toNat
        bytes z.1 0x18 (field 0x18 8 + 1) none ∧ z.2 = BitVec.ofNat 64 (leAt (memGetN s.mem pe 8) 0 8) ∧
        ((z.1.domain asid).workq w.queue).map (·.tail) = some (if field 0x18 8 + 1 ≥ w.tail then field 0x10 8 else w.tail))

/-! ### Tasks -/

/-- R50 to R52, R62 and R254 to R257: SPAWN hands a child to the dispatcher of its die, once the thread's stores stand
performed; WITHDRAW reads how many holders it removed; TASKTAG sets CURTAG; SIGLEAD posts events to the lead thread
until it has exited. Outside a callee and a body, of operands without a reserved bit. -/
def Obligations.TaskResults : Prop :=
  ∀ (s : State) (a d : UReg), s.Top → s.cur.mask ≠ 0 →
    let o := s.cur.old
    let h := s.ureg a
    let arg := s.quadReg a 1
    let child : Child :=
      { lc := o.lc, core := o.core, cls := fld h 38 37, lanes := fld h 36 32 + 1, entry := h.setWidth 32, arg0 := arg,
        arg1 := s.quadReg a 2, counter := (s.quadReg a 3).toNat, depth := o.depth + 1, curtag := o.curtag,
        bin := (arg.toNat / 2 ^ 16 ^^^ arg.toNat / 2 ^ 22 ^^^ arg.toNat / 2 ^ 28) % 64 }
    let die := o.core / 48
    (h.toNat < 2 ^ 39 → o.codeAddr (h.setWidth 32).toNat = true → (s.quadReg a 3).toNat % 8 = 0 → o.depth ≠ 4 →
      Answers (.spawn a) s fun t =>
        let f := s.flushDirty s.cur.tid
        if f.waitOver s.cur.tid .spawn then
          t = { f with dies := t.dies, lcs := t.lcs } ∧ (∀ k, k ≠ die → t.die k = f.die k) ∧
          (f.det s.cur.tid = false → t.lcs = f.lcs ∧ t.die die = { f.die die with pend := (f.die die).pend ++ [child] }) ∧
          (f.det s.cur.tid = true →
            t.die die = { f.die die with pend := (f.die die).pend ++
              [{ child with waveid := some (BitVec.ofNat 32 (f.lc o.lc).nextWave) }] } ∧
            t.lc o.lc = { f.lc o.lc with nextWave := (f.lc o.lc).nextWave + 1 })
        else t = f.block .spawn) ∧
    (h.toNat < 2 ^ 39 → o.codeAddr (h.setWidth 32).toNat = true → (s.quadReg a 3).toNat % 8 = 0 → o.depth = 4 →
      exec (.spawn a) s = .next (s.trapWave .nest)) ∧
    (h.toNat < 2 ^ 34 → fld h 31 0 ≠ 0 → s.det s.cur.tid = false →
      (fld h 33 32 = 3 → ∀ w, w ∈ (s.domain (s.ctxOf s.cur.tid)).queues → ∀ va,
        va ∈ w.block :: (s.tagged (s.ctxOf s.cur.tid) (fld h 31 0) w).map (s.recordAddr (s.ctxOf s.cur.tid) w) →
        ∃ p, (s.domain (s.ctxOf s.cur.tid)).place va = some p ∧ s.lineFree p = true) →
      Answers (.withdraw d a) s fun t =>
      let z := s.withdrawAll o.lc o.core (fld h 33 32) (fld h 31 0)
      t.mem = z.1.mem ∧ t.lcs = z.1.lcs ∧ t.domains = z.1.domains ∧ t.dies = z.1.dies ∧ t.stores = z.1.stores ∧
      rd 0 (t.thread z.1.cur.tid).w d.toNat = BitVec.ofNat 64 z.2) ∧
    (h.toNat < 2 ^ 32 → Answers (.tasktag a) s fun t =>
      OnlyThread s.cur.tid s t ∧ t.me = { s.me with curtag := h.setWidth 32 }) ∧
    (h.toNat < 2 ^ 16 → Answers (.siglead a) s fun t =>
      match (s.lc o.lc).lead with
      | some i => if s.leadGone o.lc then t = s else
          OnlyThread i s t ∧ ((s.thread i).acts = [] →
            t.thread i = { s.thread i with evp := (s.thread i).evp ||| h.setWidth 16 })
      | none => t = s)

/-! ### Engines and tiles -/

/-- R244, R249 to R251, R274, R279 and R291: a command word that no check of its entry and of its header traps enters
its engine queue, once the queue and the walker have room: with the operands as they stand, the lanes of Active(), the
next M grant, and PREDS less the decrements held for its node. Nothing else changes. Outside a callee and a body. -/
def Obligations.EngineCommandsEnter : Prop :=
  ∀ (s : State) (w : UReg) (t : TReg) (slot src : FSlot) (plane : BitVec 3) (f g : Bool) (op : RedOp),
    s.Top → s.cur.mask ≠ 0 →
    let o := s.cur.old
    let u := s.unitOf s.cur.tid
    let h := s.quadReg w 0
    let enters (q : Nat) (i : Instr) (check : Cmd → Option TrapCode) : Prop :=
      check (s.cmdOf i w) = none → s.headerTrap (s.cmdOf i w) = none →
      Answers i s fun t =>
        let v := t.unitOf s.cur.tid
        if (u.queue q).countP (fun c => c.st = .queued) < 32 ∧
            u.cmdsAll.countP (fun c => c.st ≠ .complete && !c.published) < 256 then
          t = { s with domains := t.domains } ∧
          (∀ k, k ≠ q → k < 3 → v.queue k = u.queue k) ∧
          v.tiles = u.tiles ∧ v.tags = u.tags ∧ v.grants = u.grants + 1 ∧
          ∃ c : Cmd, v.queue q = u.queue q ++ [c] ∧ c.i = i ∧ c.st = .queued ∧ c.lc = o.lc ∧ c.tid = s.cur.tid ∧
            c.tag = o.curtag ∧ c.dom = o.dom ∧ c.grant = u.grants ∧
            c.mask = (if o.isLead then BitVec.allOnes 32 else s.cur.mask) ∧
            c.node = fld h 11 0 ∧ c.succ0 = fld h 31 20 ∧ c.succ1 = fld h 43 32 ∧ c.bbcount = fld h 63 44 ∧
            c.bbaddr = (s.quadReg w 1).toNat ∧ c.w3 = s.quadReg w 3 ∧ c.recs = (List.range 16).map (fun n => rd {} o.b n) ∧
            ((∀ q t op, i ≠ .cered q t op) → c.w2 = s.quadReg w 2) ∧
            c.count = fld h 19 12 - (if fld h 11 0 = 0 then 0 else u.heldFor o.lc (fld h 11 0))
        else t = s.block (.engine q)
    let w2 := s.quadReg w 2
    let w3 := s.quadReg w 3
    let plain (b sh col : Bool) : Cmd → Option TrapCode := fun c => tileTrap c b sh col
    enters 0 (.wbmac w t slot) (fun c => s.macTrap c slot 0) ∧
    enters 0 (.wbmacp w t slot plane) (fun c => s.macTrap c slot plane.toNat) ∧
    enters 0 (.wbload w slot) (fun c => s.loadTrap c slot) ∧
    enters 0 (.wbswap w) (fun _ => none) ∧
    enters 0 (.wbzero w t) (fun _ => if w2.toNat < 2 ^ 8 ∧ w3 = 0 then none else some .ill) ∧
    enters 0 (.tadd w t) (plain true false false) ∧ enters 0 (.tsub w t) (plain true false false) ∧
    enters 0 (.tshl w t) (plain false true false) ∧ enters 0 (.tmov w t) (plain false false false) ∧
    enters 0 (.tneg w t) (plain false false false) ∧ enters 0 (.tslice w t) (plain false false true) ∧
    enters 1 (.apcfg w) s.apcfgTrap ∧ enters 1 (.apqk w slot) (fun c => s.apqkTrap c slot) ∧
    enters 1 (.appv w t slot f g) (fun c => s.appvTrap c slot) ∧
    enters 1 (.apresc w t) (fun _ => if w2 = 0 ∧ w3 = 0 then none else some .ill) ∧
    enters 1 (.apnorm w t f) (fun c => s.apnormTrap c t f) ∧
    enters 2 (.cecopy w t f) (fun c => s.cecopyTrap c t f) ∧ enters 2 (.celist w) s.celistTrap ∧
    enters 2 (.cerope w slot src) (fun c => s.ceropeTrap c slot src) ∧
    enters 2 (.cepatch w slot f) (fun c => s.cepatchTrap c slot f) ∧
    enters 2 (.cereq w slot src) (fun c => s.cereqTrap c slot src) ∧
    enters 2 (.cered w t op) (fun c => s.ceredTrap c w) ∧ enters 2 (.cefill w) s.cefillTrap

/-- R282 to R286: SETTLE waits until its tile is settled; TLIN reads its lineage, the links numbered as the model keeps them,
an order that is the model's choice (notes/assumptions/72); TRD gives each lane the cells of its
row in the ACC48 range as 64-bit pairs; TCVT gives it encoded cells and ORs the flags; TWR overwrites the cells of the
lanes' rows of a tile that no link covers. Outside a callee and a body, of descriptors that R282 to R286 allow. -/
def Obligations.TileWordResults : Prop :=
  ∀ (s : State) (q : UReg) (t : TReg) (slot : FSlot) (prov : Bool), s.Top → s.cur.mask ≠ 0 →
    let u := s.unitOf s.cur.tid
    let core := s.cur.old.core
    let x := u.tile t.toNat
    let d := s.tileDesc q
    let n := d.1
    let col := d.2.1
    let vd := d.2.2
    let fmt := s.fmtOf s.cur.tid slot
    let wait : Wait := .settle t.toNat s.grantOf
    let out (l : Nat) : Option (List (Word × Flags)) :=
      tcvtRegs fmt x.et ((List.range (n * groupSize fmt)).map fun j => x.cell l (col + j))
    let flags (l : Nat) : Flags := ((out l).getD []).foldl (fun a r => a ||| r.2) 0
    let whole : Wait := .settled t.toNat s.grantOf
    (s.waitOver s.cur.tid whole = true → exec (.settle t) s = .next s) ∧
    (s.waitOver s.cur.tid whole = false → exec (.settle t) s = .next (s.block whole)) ∧
    (Answers (.tlin q t) s fun r => ∃ y : Dword, UniResult s r q y ∧
      y.getLsbD 1 = decide (x.links ≠ []) ∧
      (y.getLsbD 0 = true ↔ ∃ c, c ∈ u.q0 ∧ c.tileDone = false ∧ t.toNat ∈ c.tilesWritten core core) ∧
      (x.links.length ≤ 4 → (∀ k, k ∈ x.links → k.tag < 64 ∧ k.plane < 8) →
        fld y 4 2 = x.links.length ∧ fld y 23 16 = (x.et % 256).toNat ∧
        (∀ k, k ∈ x.links → k.plane ≤ fld y 11 8) ∧ (fld y 11 8 = 0 ∨ ∃ k, k ∈ x.links ∧ k.plane = fld y 11 8) ∧
        ∀ i k, x.links[i]? = some k → fld y (37 + 6 * i) (32 + 6 * i) = k.tag)) ∧
    (s.descBad q 1 2 true = false → Answers (.trd q t prov) s fun r =>
      let w : Wait := if prov then .prov t.toNat s.grantOf else wait
      if s.waitOver s.cur.tid w then
        GroupResult s r vd fun l => (List.range n).flatMap fun j =>
          let v : Dword := BitVec.ofInt 64 (max (-(2 ^ 47)) (min (2 ^ 47 - 1) (x.cell l (col + j))))
          [v.extractLsb' 0 32, v.extractLsb' 32 32]
      else r = s.block w) ∧
    (s.slotOk fmt [0, 1, 2, 3, 4, 5, 6, 8] [0] = true → s.descBad q (groupSize fmt) 1 false = false →
      s.waitOver s.cur.tid wait = true → (∀ l, l < 32 → s.cur.mask.getLsbD l = true → (out l).isSome = true) →
      Answers (.tcvt q t slot) s fun r => ∃ z,
        (if n = 1 then ∃ y, GroupResult s y vd (fun l => ((out l).getD []).map (·.1)) ∧
            LaneResult y z .m .latch fun l => (((out l).getD []).map (·.1)).headD 0
          else GroupResult s z vd fun l => ((out l).getD []).map (·.1)) ∧
        OnlyThread s.cur.tid z r ∧
        r.me = { z.me with fflags := (lanesOf s.cur.mask).foldl (fun y l => y ||| flags l) z.me.fflags }) ∧
    (s.descBad q 1 2 true = false → x.links = [] → x.covers = [] →
      (∀ k, k < 64 → u.tagDone core k = false) →
      Answers (.twr q t) s fun r =>
        let w : Wait := .tileFree t.toNat s.grantOf
        if s.waitOver s.cur.tid w then
          r = { s with domains := r.domains } ∧
          ∀ i j, i < 32 → j < 128 → ((r.unitOf s.cur.tid).tile t.toNat).cell i j =
            if s.cur.mask.getLsbD i = true ∧ col ≤ j ∧ j < col + n then sintOf 48 (s.vpair i (vd + 2 * (j - col)))
            else x.cell i j
        else r = s.block w)

/-! ### Relaxation regions -/

/-- R312 to R319 and R330 to R335: in a region's body RLXIN gives each lane its step's guess, RLXOUT and RLXJAC take
its result and its Jacobian, RLXEND holds the lane, and RLXABT ends the region; RLXSTEP reads the lane's rank; RLXST
reads the status; RLXBEG completes once the region has opened, and RLXPEEK and RLXGUESS read and write the guess store
outside a region. Outside a callee; a region word in a lane with no step traps instead. -/
def Obligations.RelaxationWordResults : Prop :=
  ∀ (s : State) (d : LReg) (e : Dst) (a : LReg) (w : UReg), s.cur.old.acts = [] → s.cur.mask ≠ 0 →
    let u := s.unitOf s.cur.tid
    let n := s.rlxS s.cur.tid
    let gs := u.gs
    let active (l : Nat) : Prop := l < 32 ∧ s.cur.mask.getLsbD l = true
    let group (m k l : Nat) : List Word := (List.range m).map fun i => s.vreg l (k + i)
    let writes (i : Instr) (m : Nat) (f : Nat → List Word) : Prop :=
      Answers i s fun t => if m = 1 then LaneResult s t .m (.reg d) fun l => rd 0 (f l) 0 else GroupResult s t d.toNat f
    let steps (i : Instr) (f : Nat → Step → Step) : Prop :=
      ∀ r, u.region = some r → Answers i s fun t => t = { s with domains := t.domains } ∧ ∃ r', (t.unitOf s.cur.tid).region = some r' ∧
        r' = { r with steps := r'.steps } ∧
        ∀ l k, active l → s.regionStep s.cur.tid l = some k → rd {} r'.steps k = f l (rd {} r.steps k)
    (∀ r, u.region = some r → s.me.rlx.isSome = true → s.cur.tid ∈ r.waves → r.st ≠ .opening →
      Answers (.rlxbeg w) s fun t => OnlyThread s.cur.tid s t ∧ t.me = { s.me with rlx := none }) ∧
    (s.stepless = 0 →
      (d.toNat + n ≤ s.cur.old.regs → writes (.rlxin d) n fun l => (List.range n).map fun i => rd 0 (s.stepOf s.cur.tid l).g i) ∧
      (a.toNat + n ≤ s.cur.old.regs → steps (.rlxout (.reg a)) fun l st => { st with f := group n a.toNat l, out := true }) ∧
      (a.toNat + n * n ≤ s.cur.old.regs → steps (.rlxjac (.reg a)) fun l st => { st with j := group (n * n) a.toNat l }) ∧
      (∀ r, u.region = some r → (∀ l, active l → (s.stepOf s.cur.tid l).out = true) → r.rlxend = none ∨ r.rlxend = some s.cur.pc →
        Answers .rlxend s fun t =>
          t = { s with threads := t.threads, domains := t.domains } ∧
          (t.unitOf s.cur.tid).region = some { r with rlxend := some s.cur.pc } ∧
          (∀ k, k ≠ s.cur.tid → t.thread k = s.thread k) ∧ t.me = { s.me with lanes := t.me.lanes } ∧
          ∀ l, l < 32 → t.me.lane l = if s.cur.mask.getLsbD l then { s.me.lane l with hold := .region } else s.me.lane l)) ∧
    (∀ r, u.region = some r → s.bodyLanes s.cur.mask ≠ 0 → Answers .rlxabt s fun t =>
      t = { s with domains := t.domains } ∧ (t.unitOf s.cur.tid).region = some { r with abort := true }) ∧
    (∀ k, s.castRank s.cur.tid = some k → Answers (.rlxstep e) s fun t =>
      LaneResult s t .m e fun l => BitVec.ofNat 32 (32 * k + l)) ∧
    (s.bodyLanes s.cur.mask = 0 → Answers (.rlxst w) s fun t => UniResult s t w (s.lcOf s.cur.tid).rlxst) ∧
    (u.region = none → d.toNat + gs.ws ≤ s.cur.old.regs → writes (.rlxpeek d) gs.ws fun l =>
      match s.castRank s.cur.tid with
      | some k => if 32 * k + l < gs.ns then (List.range gs.ws).map fun i => rd 0 (rd [] gs.e (32 * k + l)) i
          else List.replicate gs.ws 0
      | none => List.replicate gs.ws 0) ∧
    (∀ k, u.region = none → s.castRank s.cur.tid = some k → a.toNat + gs.ws ≤ s.cur.old.regs →
      Answers (.rlxguess (.reg a)) s fun t =>
        let g := (t.unitOf s.cur.tid).gs
        t = { s with domains := t.domains } ∧ g.ws = gs.ws ∧ g.ns = gs.ns ∧ ∀ l, l < 32 →
          if s.cur.mask.getLsbD l then
            rd false g.supplied (32 * k + l) = true ∧
            rd [] g.e (32 * k + l) = group gs.ws a.toNat l ++ (rd [] gs.e (32 * k + l)).drop gs.ws
          else rd false g.supplied (32 * k + l) = rd false gs.supplied (32 * k + l) ∧
            rd [] g.e (32 * k + l) = rd [] gs.e (32 * k + l))

/-! ### Gates -/

/-- R338, R339, R341, R342 and R347: CALLG enters the callee of a gate that passes its checks, banking the caller: the
lanes of Active() begin at the gate's entry in the wing's address space with v0 to v7, w0 to w3 and nothing else of
the caller's registers, and one more window of the core is in use; a refused call leaves its status in w0. RETG holds
its lanes, and GATEQ reads a gate, never waiting. Outside a body, at CALLG with no lane parked and nothing pending, where
the pages of the gate's entry, of the header of its code object and of RECTAB are there and nothing holds their reading up; the
lines read count at their homes and as lines sent to them (R13, R221, R364, R365). A gate of a wing that a DESTROY has ended
stands for CALLG, which reports GBUSY of it (notes/assumptions/89). -/
def Obligations.GateWordResults : Prop :=
  ∀ (s : State) (m : BitVec 7) (d : UReg), s.cur.mask ≠ 0 → s.bodyLanes s.cur.mask = 0 → s.me = s.cur.old →
    let o := s.cur.old
    let at_ := (s.domain o.dom).gates + 64 * m.toNat
    let lines (va n : Nat) : List Nat := (List.range ((va + n + 127) / 128 - va / 128)).map fun k => (va / 128 + k) * 128
    let reads (z : State) (dom : Nat) (vas ls : List Nat) : Prop :=
      (∀ va, va ∈ vas → ((z.domain dom).page va).isSome = true) ∧ z.waitOver s.cur.tid (.lines (ls.map fun a => (dom, a))) = true
    -- the state once the entry and the header of the code object have been read
    let u : State := if (s.domain o.dom).gtsize ≤ m.toNat then s else
      match s.deviceRead o.dom at_ 64 with
      | none => (s.countLines o.dom at_ 64).chargeLines o.lc 1
      | some e => ((s.countLines o.dom at_ 64).countLines (leAt e 0xC 2) (leAt e 0 8) 256).chargeLines o.lc 3
    let recLines (g : Gate) : List Nat := (((List.range 14).filter fun n => g.grant.getLsbD n).flatMap fun n =>
      [lineOf (g.rectab + 16 * n), lineOf (g.rectab + 16 * n + 15)]).eraseDups
    -- and once the records of RECTAB have been
    let z (g : Gate) : State :=
      ((recLines g).foldl (fun y a => y.countLines g.dom a 128) u).chargeLines o.lc (recLines g).length
    -- the state in which GATEQ, which waits for nothing, has read them
    let first := s.deviceReads o.dom at_ 64
    let v : State := if (s.domain o.dom).gtsize ≤ m.toNat then s else
      match first.2 with
      | none => first.1.chargeLines o.lc 1
      | some e => (first.1.deviceReads (leAt e 0xC 2) (leAt e 0 8) 256).1.chargeLines o.lc 3
    let status (x : Nat) (t : State) : Prop :=
      OnlyThread s.cur.tid u t ∧ t.me = { s.me with w := t.me.w } ∧
      ∀ n, rd 0 t.me.w n = if n = 0 then BitVec.ofNat 64 x else if n = 1 then 0 else rd 0 s.me.w n
    ((m.toNat < (s.domain o.dom).gtsize → reads s o.dom [at_, at_ + 63] (lines at_ 64) ∧
      ∀ e, s.deviceRead o.dom at_ 64 = some e →
        reads s (leAt e 0xC 2) [leAt e 0 8, leAt e 0 8 + 255] (lines (leAt e 0 8) 256)) →
    (o.parkedLanes = 0 → o.pendingReqs = [] →
      (s.gateEntry o.dom m.toNat true = none → Answers (.callg m) s (status 3)) ∧
      ∀ g, s.gateEntry o.dom m.toNat true = some g →
        ((o.isLead = true ∧ g.nolead = true) ∨ o.acts.length + 1 > g.nest → Answers (.callg m) s (status 3)) ∧
        (¬ ((o.isLead = true ∧ g.nolead = true) ∨ o.acts.length + 1 > g.nest) →
          (u.wingResident g.dom = false → Answers (.callg m) s (status 4)) ∧
          (u.wingResident g.dom = true → u.windowsUsed o.core ≥ 8 → exec (.callg m) s = .next (u.block .gate)) ∧
          (∀ recs, u.wingResident g.dom = true → u.windowsUsed o.core < 8 → reads u g.dom (recLines g) (recLines g) →
              (z g).grantRecs g = some recs →
            Answers (.callg m) s fun t =>
              t.mem = s.mem ∧ t.stores = s.stores ∧ t.reqs = s.reqs ∧ (∀ k, k ≠ s.cur.tid → t.thread k = s.thread k) ∧
              (t.core o.core).windows = (s.core o.core).windows + 1 ∧
              t.me.dom = g.dom ∧ t.me.code = g.code + 0x100 ∧ t.me.regs = (if o.isLead then 0 else 8 * (g.rwin + 1)) ∧
              t.me.uregs = g.uwin ∧ t.me.evp = 0 ∧ t.me.fflags = 0 ∧ t.me.rm = 0 ∧ t.me.seed = 0 ∧ t.me.curtag = 0 ∧
              t.me.w = (List.range 4).map (fun i => rd 0 o.w i) ∧
              t.me.b = recs ++ [lend (rd {} o.b 14) g.lend14 o.dom, lend (rd {} o.b 15) g.lend15 o.dom] ∧
              (∃ b, t.me.acts = b :: o.acts ∧ b.act = s.cur.mask ∧ b.ret = BitVec.ofNat 32 (3 * (s.cur.pc / 3 + 1)) ∧
                b.w = o.w ∧ b.b = o.b ∧ b.evp = o.evp ∧ b.fflags = o.fflags ∧ b.dom = o.dom ∧ b.wstart = o.wtime ∧
                b.budget = g.budget) ∧
              ∀ l, l < 32 → (t.me.lane l).st = (o.lane l).st ∧ (t.me.lane l).p = 0 ∧ (t.me.lane l).latch = [] ∧
                (t.me.lane l).cstk = [] ∧
                if s.cur.mask.getLsbD l then
                  (t.me.lane l).pc = BitVec.ofNat 32 g.entry ∧ (t.me.lane l).hold = .no ∧
                  (o.isLead = false → ∀ i, rd 0 (t.me.lane l).v i = if i < 8 then rd 0 (o.lane l).v i else 0)
                else (t.me.lane l).hold = .caller ∧ (t.me.lane l).v = [])))) ∧
    (o.acts ≠ [] → Answers .retg s fun t => OnlyLanes s t ∧ ∀ l, l < 32 →
      t.me.lane l = if s.cur.mask.getLsbD l then { s.me.lane l with hold := .retg } else s.me.lane l) ∧
    (Answers (.gateq d m) s fun t => UniResult v t d
      (match v.gateEntry o.dom m.toNat with
       | none => 0
       | some g => BitVec.ofNat 64 (g.dom * 2 ^ 48 + (if v.wingResident g.dom then 2 ^ 27 else 0) +
           (if g.nolead then 2 ^ 26 else 0) + g.lend15 * 2 ^ 24 + g.lend14 * 2 ^ 22 + g.nest * 2 ^ 20 + g.uwin * 2 ^ 14 +
           8 * (g.rwin + 1) * 2 ^ 7 + (8 - v.windowsUsed o.core))))

/-! ### Special registers and observation -/

/-- R351, R355 and R356: SRD reads every special register that may be read, 0
from a write-only one, and the counters as they stood at the start of the group's cycle; SWR writes FFLAGS, RM and the matrix
exception counters, or resumes and kills lanes after a release of core scope; a number that is not assigned, or does
not allow the access, traps ILL, one from 0x800 on PRIV, and a reserved bit ILL. SWR is stated outside a body. -/
def Obligations.SpecialRegisterResults : Prop :=
  ∀ (s : State) (d : UReg) (n : BitVec 12), s.cur.mask ≠ 0 →
    let o := s.cur.old
    let k := n.toNat
    let x := s.ureg d
    let num (v : Nat) : Dword := BitVec.ofNat 64 v
    let reads (v : Dword) : Prop := Answers (.srd d n) s fun t => UniResult s t d v
    let readable : Prop := k ≤ 0x00E ∨ k = 0x010 ∨ k = 0x011 ∨ k = 0x020 ∨ k = 0x030 ∨ (0x040 ≤ k ∧ k ≤ 0x045)
    let writable : Prop := k = 0x00C ∨ k = 0x00D ∨ k = 0x010 ∨ k = 0x011 ∨ (0x040 ≤ k ∧ k ≤ 0x045)
    let first (m : Mask) : Nat := (lanesOf m).headD 0
    let fence := if s.fenceOver s.cur.tid .core then s else s.block (.fence .core)
    (k = 0x000 → reads (num (if o.isLead then 0 else first s.cur.mask))) ∧
    (k = 0x001 → reads (if o.isLead then 0xFFFFFFFF else o.waveid.setWidth 64)) ∧
    (k = 0x002 → reads (num (if o.isLead then 64 else o.slot))) ∧ (k = 0x003 → reads (num o.core)) ∧
    (k = 0x004 → reads (num (s.logcore s.cur.tid))) ∧ (k = 0x005 → reads (num (o.core / 48))) ∧
    (k = 0x006 → ∀ l, s.launchOf s.cur.tid = some l → reads (num (l.queue % 2 ^ 17 + (l.seq % 2 ^ 32) * 2 ^ 32))) ∧
    (k = 0x007 → reads (num o.depth)) ∧ (k = 0x008 → reads o.arg0) ∧ (k = 0x009 → reads o.arg1) ∧
    (k = 0x00A → reads (o.curtag.setWidth 64)) ∧ (k = 0x00B → reads (num o.acts.length)) ∧
    (k = 0x00C ∨ k = 0x00D → reads 0) ∧ (k = 0x00E → reads (o.evp.setWidth 64)) ∧ (k = 0x010 → reads (o.fflags.setWidth 64)) ∧
    (k = 0x011 → reads (o.rm.setWidth 64)) ∧ (k = 0x020 → reads (num o.dom)) ∧
    (k = 0x030 → reads (if s.det s.cur.tid then 1 else 0)) ∧
    (0x040 ≤ k → k ≤ 0x045 → reads ((rd 0 s.cur.mx (k - 0x040)).setWidth 64)) ∧
    (k < 0x800 → ¬ readable → exec (.srd d n) s = .next (s.trapWave .ill)) ∧
    (k ≥ 0x800 → exec (.srd d n) s = .next (s.trapWave .priv)) ∧
    (s.bodyLanes s.cur.mask = 0 →
      (k = 0x010 → x.toNat < 2 ^ 6 → Answers (.swr d n) s fun t =>
        OnlyThread s.cur.tid s t ∧ t.me = { s.me with fflags := x.setWidth 6 }) ∧
      (k = 0x011 → x.toNat < 2 ^ 2 → Answers (.swr d n) s fun t =>
        OnlyThread s.cur.tid s t ∧ t.me = { s.me with rm := x.setWidth 2 }) ∧
      (0x040 ≤ k → k ≤ 0x045 → x.toNat < 2 ^ 32 → Answers (.swr d n) s fun t =>
        t = { s with lcs := t.lcs } ∧ (∀ j, j ≠ o.lc → t.lc j = s.lc j) ∧
        t.lc o.lc = { s.lc o.lc with mx := (t.lc o.lc).mx } ∧
        ∀ j, rd 0 (t.lc o.lc).mx j = if j = k - 0x040 then x.setWidth 32 else rd 0 (s.lc o.lc).mx j) ∧
      (k = 0x00C → fld x 31 9 = 0 → x.getLsbD 6 = false → exec (.swr d n) s =
        .next (if s.fenceOver s.cur.tid .core then s.laneOp o.lc x false else fence)) ∧
      (k = 0x00D → fld x 31 8 = 0 → x.getLsbD 6 = false → exec (.swr d n) s =
        .next (if s.fenceOver s.cur.tid .core then s.laneOp o.lc x true else fence)) ∧
      (k = 0x010 → x.toNat ≥ 2 ^ 6 → exec (.swr d n) s = .next (s.trapWave .ill)) ∧
      (k = 0x011 → x.toNat ≥ 2 ^ 2 → exec (.swr d n) s = .next (s.trapWave .ill)) ∧
      (k < 0x800 → ¬ writable → exec (.swr d n) s = .next (s.trapWave .ill)) ∧
      (k ≥ 0x800 → exec (.swr d n) s = .next (s.trapWave .priv)))

/-- R19, R352, R357 and R360 to R365: HCLK, WTIME, ENRD and PMRD read a clock, the wave time, the launch's energy on
the core and an event counter; TIMER sets or clears the deadline; SLEEP waits until the wave time has advanced by its
operand; SIGNAL posts events to the thread it names. TIMER, SLEEP and SIGNAL are stated outside a body. -/
def Obligations.ObservationWordResults : Prop :=
  ∀ (s : State) (d : UReg) (m : BitVec 2), s.cur.mask ≠ 0 →
    let o := s.cur.old
    let x := s.ureg d
    let reads (i : Instr) (v : Nat) : Prop := Answers i s fun t => UniResult s t d (BitVec.ofNat 64 v)
    reads (.hclk d) (s.coreClock o.core) ∧
    reads (.wtime d) o.wtime ∧
    reads (.enrd d) (((List.range 8).map fun k => rd 0 (s.lcOf s.cur.tid).energy k).sum) ∧
    reads (.pmrd d m) (rd 0 (s.unitOf s.cur.tid).pm m.toNat) ∧
    (s.bodyLanes s.cur.mask = 0 →
      (Answers (.timer d) s fun t => OnlyThread s.cur.tid s t ∧
        t.me = { s.me with deadline := if x = 0 then none else some (s.me.wtime + x.toNat) }) ∧
      ((∀ n, o.wait ≠ some (.sleep n)) → exec (.sleep d) s =
        .next (if x = 0 then s else s.block (.sleep (o.wtime + x.toNat)))) ∧
      (∀ n, o.wait = some (.sleep n) → exec (.sleep d) s = .next (if n ≤ s.me.wtime then s else s.block (.sleep n)))) ∧
    (s.Top → x.toNat < 2 ^ 48 → Answers (.signal d) s fun t =>
      match s.signalTarget o.lc (fld x 47 16) with
      | some i => OnlyThread i s t ∧ ((s.thread i).acts = [] →
          t.thread i = { s.thread i with evp := (s.thread i).evp ||| x.setWidth 16 })
      | none => t = s)

/-- R362, R363, R378 and R389: TMARK hands the hub one 16-byte record for the trace ring of a traced context that no debug
lock holds and the ring's new tail, or the number of dropped records where the ring is full. STAMP leaves a settle stamp pending, or waits where the core holds
16, or sends an add to NEXT of its launch's stamp buffer; once an add has found n, CAP is read, and the 32 bytes of its record are stored
at offset 0x40 + 32n where n is below CAP, else it is dropped. An add that fails its checks is posted to the wave. Nothing
else changes. Outside a body. That the reserved bits trap before a STAMPBUF of 0 lets the word do nothing is the model's
reading (notes/assumptions/33). -/
def Obligations.TraceAndStampResults : Prop :=
  ∀ (s : State) (m : BitVec 7) (a : UReg), s.cur.mask ≠ 0 → s.bodyLanes s.cur.mask = 0 →
    let o := s.cur.old
    let asid := s.ctxOf s.cur.tid
    let d := s.domain asid
    let traced : Prop := d.tracing = true ∧ d.debug = true ∧ (s.domain o.dom).debug = true
    let head := s.ctlField asid 0x58 8
    let seq := d.trTail + 1
    let record := bytesOf 8 (s.coreClock o.core) ++ bytesOf 1 m.toNat ++ bytesOf 1 (if o.isLead then 64 else o.slot) ++
      bytesOf 2 o.core ++ bytesOf 4 o.waveid.toNat
    let x := s.ureg a
    let lc := o.lc
    let y := s.lc lc
    let buf := ((s.launch? y.launch).map fun l => l.stampbuf).getD 0
    let owed := ((s.lcs.filter fun z => z.core = s.me.core && (s.domain z.asid).running).map fun z => z.stamps.length).sum
    let stamp (clk kind tile : Nat) : List Byte :=
      bytesOf 8 clk ++ bytesOf 2 (fld x 15 0) ++ bytesOf 1 kind ++ bytesOf 1 tile ++ bytesOf 2 y.core ++ bytesOf 2 0 ++
        bytesOf 4 s.me.waveid.toNat ++ bytesOf 4 o.curtag.toNat ++ bytesOf 8 0
    let settle : Stamp :=
      { tid := s.cur.tid, tile := fld x 19 16, grant := (s.unitOf s.cur.tid).grants, id := x.setWidth 16, curtag := o.curtag }
    let onlyLC (t : State) : Prop := ∀ k, k ≠ lc → t.lc k = s.lc k
    (¬ traced → exec (.tmark m) s = .next s) ∧
    (traced → d.trTail - head < d.trDepth → ∃ t, exec (.tmark m) s = .next t ∧
      t = { s with outbox := t.outbox, domains := t.domains } ∧ (∀ k, k ≠ asid → t.domain k = s.domain k) ∧
      t.domain asid = { d with trTail := seq } ∧
      t.outbox = s.outbox ++ [(hostPlace (d.trBase + 16 * (seq % d.trDepth)), record),
        (hostPlace (d.block + 0x50), bytesOf 8 seq)]) ∧
    (traced → d.trTail - head ≥ d.trDepth → ∃ t, exec (.tmark m) s = .next t ∧
      t = { s with outbox := t.outbox, domains := t.domains, fns := t.fns } ∧ (∀ k, k ≠ asid → t.domain k = s.domain k) ∧
      t.domain asid = { d with trDrop := d.trDrop + 1 } ∧ (∀ k, k ≠ d.fn → t.fn k = s.fn k) ∧
      t.fn d.fn = { s.fn d.fn with
        cause := (s.fn d.fn).cause ||| 8
        msix := if (s.fn d.fn).causeMask.getLsbD 3 then (s.fn d.fn).msix + 1 else (s.fn d.fn).msix } ∧
      t.outbox = s.outbox ++ [(hostPlace (d.block + 0x60), bytesOf 8 (d.trDrop + 1))]) ∧
    (x.toNat ≥ 2 ^ 21 → exec (.stamp a) s = .next (s.trapWave .ill)) ∧
    (s.me.lc = lc → lc < s.lcs.length →
      (x.toNat < 2 ^ 21 → buf = 0 → exec (.stamp a) s = .next s) ∧
      (x.toNat < 2 ^ 21 → buf ≠ 0 → x.getLsbD 20 = true → owed ≥ 16 → exec (.stamp a) s = .next (s.block .stamps)) ∧
      (x.toNat < 2 ^ 21 → buf ≠ 0 → x.getLsbD 20 = true → owed < 16 → ∃ t, exec (.stamp a) s = .next t ∧
        t = { s with lcs := t.lcs } ∧ onlyLC t ∧ t.lc lc = { y with stamps := y.stamps ++ [settle] }) ∧
      (∀ p, x.toNat < 2 ^ 21 → buf ≠ 0 → x.getLsbD 20 = false → s.translate lc y.asid buf .atomic = .ok p →
        buf % 8 ≠ 0 ∨ s.poisoned p = true →
        exec (.stamp a) s = .next ({ s with draws := s.draws + 1 }.post s.cur.tid
          { code := if buf % 8 ≠ 0 then .align else .eccue, addr := buf })) ∧
      (∀ p, x.toNat < 2 ^ 21 → buf ≠ 0 → x.getLsbD 20 = false → s.translate lc y.asid buf .atomic = .ok p →
        buf % 8 = 0 → s.poisoned p = false →
        ∃ t e tile, exec (.stamp a) s = .next t ∧
          t = { s with threads := t.threads, lcs := t.lcs, stores := t.stores, domains := t.domains, draws := t.draws } ∧
          (∀ k, k ≠ s.cur.tid → t.thread k = s.thread k) ∧
          t.me = { s.me with wctc := max s.me.wctc (s.coreClock y.core) } ∧ onlyLC t ∧
          (∀ k, t.domain k = { s.domain k with units := (t.domain k).units }) ∧
          t.stores = s.stores ++ [e] ∧ e.live = true ∧ e.line = lineOf p ∧ e.kind = .add (buf % 128) 1 ∧
          e.tids = [s.cur.tid] ∧ e.core = y.core ∧
          t.lc lc = { y with adds := y.adds ++
            [{ add := s.stores.length, tid := s.cur.tid, bytes := stamp (s.coreClock o.core) 0 tile }] }) ∧
      ∀ z rest b cap, (s.domain y.asid).goes = true → y.adds = z :: rest → s.stores[z.add]? = some b → b.st = .performed →
        s.lineClear lc y.core y.asid (buf + 8) = true → s.windowAt lc y.asid (lineOf (buf + 8)) = none →
        s.engineRead lc y.asid y.core (buf + 8) 8 = .ok cap →
        let va := buf + 0x40 + 32 * b.old
        let counted (t : State) : Prop := ∀ k, t.domain k =
          { s.domain k with units := (t.domain k).units, found := (t.domain k).found }
        (ofBytes cap ≤ b.old → ∃ t, exec (.stampSettleWrite lc) s = .next t ∧
          t = { s with lcs := t.lcs, domains := t.domains, access := t.access } ∧ counted t ∧ onlyLC t ∧
          t.lc lc = { y with adds := rest }) ∧
        (∀ p, b.old < ofBytes cap → s.translate lc y.asid va .store = .ok p →
          s.translate lc y.asid (lineOf va) .store = .ok (lineOf p) → s.windowAt lc y.asid (lineOf va) = none →
          va % 128 + 32 ≤ 128 → z.bytes.length = 32 →
          ∃ t e, exec (.stampSettleWrite lc) s = .next t ∧
            t = { s with threads := t.threads, lcs := t.lcs, stores := t.stores, domains := t.domains, access := t.access } ∧
            counted t ∧ (∀ k, k ≠ z.tid → t.thread k = s.thread k) ∧
            t.thread z.tid = { s.thread z.tid with wctc := max (s.thread z.tid).wctc (s.coreClock y.core) } ∧
            onlyLC t ∧ t.lc lc = { y with adds := rest } ∧
            t.stores = s.stores ++ [e] ∧ e.live = true ∧ e.line = lineOf p ∧ e.kind = .plain ∧ e.tids = [z.tid] ∧
            ∀ i, cellAt e.bytes i =
              if va % 128 ≤ i ∧ i < va % 128 + 32 then some (rd 0 z.bytes (i - va % 128)) else none))

/-! ### Lane operations, illegal words and fault records -/

/-- R128, R348, R350, R351 and R384: RESUME returns parked lanes to their faulting PC, or to the next packet; KILL
kills parked lanes, which leave the run; a value with a reserved bit, or of a launch that is not on the core, does
nothing. A group that fails checks 1 to 3 traps its whole run; a record goes from its domain's list into the fault
queue, once the homes let the device write it. -/
def Obligations.LaneOperationAndRecordSteps : Prop :=
  ∀ (s : State) (launch core lc tid asid : Nat) (v : Dword) (r : FaultRec) (rest : List FaultRec),
    let t0 := s.thread tid
    let named : Prop := s.lcAt launch core = some lc ∧ s.laneOpTarget lc v = some tid
    let m : Mask := if v.getLsbD 7 then 1 else BitVec.ofNat 32 (fld v 63 32)
    let parked (l : Nat) : Bool := m.getLsbD l && decide ((t0.lane l).st = .parked)
    let skips (l : Nat) : Bool := v.getLsbD 8 || (t0.lane l).parkNext
    let d := s.domain asid
    (named → fld v 31 9 = 0 → v.getLsbD 6 = false → t0.wait = none → t0.run = none → (∃ l, l < 32 ∧ parked l = true) →
      Answers (.resumeWrite launch core v) s fun t => OnlyThread tid s t ∧ ∀ l, l < 32 →
        let L := t0.lane l
        (t.thread tid).lane l = if parked l then
            if skips l then { L with st := .live, pc := BitVec.ofNat 32 (3 * (L.pc.toNat / 3 + 1)), kept := none, parkNext := false }
            else { L with st := .live }
          else L) ∧
    (named → fld v 31 8 = 0 → v.getLsbD 6 = false → t0.cast = none → t0.resumedAt ≠ some s.hclk →
      (s.unitOf tid).region = none →
      Answers (.killWrite launch core v) s fun t => OnlyThread tid s t ∧ ∀ l, l < 32 →
        (t.thread tid).lane l = if parked l then { t0.lane l with st := .killed } else t0.lane l) ∧
    (s.lcAt launch core = none →
      exec (.resumeWrite launch core v) s = .next s ∧ exec (.killWrite launch core v) s = .next s) ∧
    (fld v 31 9 ≠ 0 ∨ v.getLsbD 6 = true →
      exec (.resumeWrite launch core v) s = .next s ∧ exec (.killWrite launch core v) s = .next s) ∧
    (∀ code, s.cur.run ≠ 0 → s.cur.old.acts = [] → s.bodyLanes s.cur.run = 0 →
      Answers (.illegalInstruction code) s fun t => t.mem = s.mem ∧ ∀ l, l < 32 →
        t.me.lane l = if s.cur.run.getLsbD l then
            { s.cur.old.lane l with st := .parked, pc := BitVec.ofNat 32 s.cur.grp, ctr := (s.me.lane l).ctr, kept := some (s.cur.old.lane l).latch,
                                    parkNext := decide (code = .bkpt ∨ code = .swtrap) }
          else s.me.lane l) ∧
    (d.alive = true → d.records = r :: rest → d.fqTail - s.ctlField asid 0x38 8 < d.fqDepth →
      s.outClear [(hostPlace (d.fqBase + 64 * ((d.fqTail + 1) % d.fqDepth)), 64), (hostPlace (d.block + 0x30), 8)] = true →
      Answers (.faultRecordWrite asid) s fun t =>
        t.domain asid = { d with records := rest, fqTail := d.fqTail + 1 } ∧
        t.mem = memPutN (memPutN s.mem (hostPlace (d.fqBase + 64 * ((d.fqTail + 1) % d.fqDepth))) (r.bytes (d.fqTail + 1)))
          (hostPlace (d.block + 0x30)) (bytesOf 8 (d.fqTail + 1)) ∧
        t.threads = s.threads ∧ t.stores = s.stores ∧ (d.ctxmode.getLsbD 4 = true → (t.fn d.fn).cause.getLsbD 1 = true))

/-! ### Runs, waits and what a thread takes at a run boundary -/

/-- R31 to R33, R39 to R41, R110 and R151: CODE_FETCH forms the run of the thread's lowest PC from whole packets, up to
the packet of its first E word, or asks for a page that is missing; SIDE_ARBITRATION gives a free side the ready wave of the highest rank, which begins or
continues its run, while each other ready wave of the core that has not yielded counts a loss; RUN_END gives the live lanes of the run their
new PCs. Memory keeps its bytes. -/
def Obligations.RunSteps : Prop :=
  ∀ (s : State) (tid core side : Nat),
    let o := s.thread tid
    let others (t : State) : Prop := t.mem = s.mem ∧ t.stores = s.stores ∧ ∀ k, k ≠ tid → t.thread k = s.thread k
    (∀ pc m, o.alive = true → o.stopped = false → s.stopDue tid = false → (s.domain (s.ctxOf tid)).running = true →
      o.atBoundary = true → o.lowest = some (pc, m) → (s.fetchRun o pc (3 * (pc / 3)) 8 []).2 = none →
      exec (.codeFetch tid) s = .next (s.fetchRun o pc (3 * (pc / 3)) 8 []).1) ∧
    (∀ pc m words stop, o.alive = true → o.stopped = false → s.stopDue tid = false →
      (s.domain (s.ctxOf tid)).running = true → o.atBoundary = true → o.lowest = some (pc, m) →
      (∀ k, k < 8 → s.ensureMapped o.dom (o.code + 4 * (3 * (pc / 3)) + 12 * k) = s ∧
        s.ensureMapped o.dom (o.code + 4 * (3 * (pc / 3)) + 12 * k + 11) = s) →
      (s.fetchRun o pc (3 * (pc / 3)) 8 []).2 = some (words, stop) →
      Answers (.codeFetch tid) s fun t => others t ∧
        (t.thread tid).run = some { mask := m, ip := pc, base := 3 * (pc / 3), code := words, stop := stop,
                                    started := o.isLead && !o.mustTake } ∧
        words.length % 3 = 0 ∧ words.length ≤ 24 ∧
        ∀ k, pc ≤ 3 * (pc / 3) + k → (rd 0 words k).getLsbD 30 = true → words.length ≤ 3 * (k / 3) + 3) ∧
    (let S := if side = 0 then (s.core core).side0 else (s.core core).side1
     side ≤ 1 → S.cur = none → (side = 1 → s.side0First core = false) → s.choose core S.last = some tid →
      Answers (.sideArbitration core side) s fun t =>
        t = { s with threads := t.threads, cores := t.cores, domains := t.domains } ∧
        (if side = 0 then (t.core core).side0 else (t.core core).side1) =
          { cur := some tid, last := o.slot, clk := (s.die (core / 48)).clk } ∧
        s.ready tid = true ∧ o.core = core ∧
        (∀ k, k ∈ s.candidates core → (s.thread k).rank ≤ o.rank) ∧
        (t.thread tid).loss = 0 ∧ (t.thread tid).run = o.run.map (fun r => { r with started := true }) ∧
        ∀ k, k ≠ tid → t.thread k =
          if (s.thread k).core = core ∧ (s.thread k).isLead = false then
            { s.thread k with yielded := false,
                              loss := (s.thread k).loss + if k ∈ s.candidates core ∧ (s.thread k).yielded = false then 1 else 0 }
          else s.thread k) ∧
    (∀ r, o.run = some r → r.started = true → r.ended = true ∨ r.mask = 0 →
      Answers (.runEnd tid) s fun t => t = { s with threads := t.threads, cores := t.cores } ∧ others t ∧
        t.thread tid = { o with run := none, wait := none, poll := none, lanes := (t.thread tid).lanes } ∧
        ∀ l, l < 32 → (t.thread tid).lane l =
          if r.mask.getLsbD l = true ∧ (o.lane l).st = .live then { o.lane l with pc := (o.lane l).npc } else o.lane l)

/-- R93, R94, R234, R255 and R357: a fence, an acquire hold and a sleep end when their condition holds, and not before; a
further attempt of a poll reads the homes of its lines, each once it can be read, and when it has read them all ends the poll
where every lane's test holds, or leaves the next attempt 16 ticks later. -/
def Obligations.WaitSteps : Prop :=
  ∀ (s : State) (tid : Nat),
    let o := s.thread tid
    let ends (i : Instr) (w : Wait) (w' : Option Wait) : Prop :=
      o.wait = some w →
        (s.waitOver tid w = true → Answers i s fun t => OnlyThread tid s t ∧ t.thread tid = { o with wait := w' }) ∧
        (s.waitOver tid w = false → exec i s = .next s)
    (∀ sc, ends (.fenceComplete tid) (.fence sc) none) ∧
    (∀ m, ends (.acquireHoldEnd tid) (.held m) none) ∧
    (∀ n, ends (.sleepExpire tid) (.sleep n) (some (.sleep 0))) ∧
    (∀ p r i g, o.poll = some p → o.run = some r → o.wait = some .poll → p.done = false →
      (∀ k, (s.lc k).windows = []) → p.next ≤ s.coreClock o.core → o.stopped = false → (s.domain (s.ctxOf tid)).running = true →
      pollingWord none (r.code.drop (r.ip - r.base)) = some (i, g) →
      let gm : Mask := match g with
        | some (q, sense) => o.lanesWith fun L => L.p.getLsbD q.toNat = !sense
        | none => BitVec.allOnes 32
      let c : State := { s with cur := { issueOf tid o r.mask r.ip with mask := r.mask &&& gm } }
      let plan := c.pollPlan i
      let ls := linesOf plan.1
      let m : Mask := maskOf fun l => plan.1.any fun q => q.1 = l
      -- the lines that the attempt has still to read, and can
      let now := ls.filter fun x => !(p.got.any fun y => y.1 = x) &&
        (decide (c.translate o.lc x.1 x.2 .load ≠ .walk) && c.lineClear o.lc o.core x.1 x.2 && (c.loadsBefore tid m x.1 x.2).isEmpty)
      c.reserve plan.1 = c → c.judge o.lc plan.1 .load = [] →
      Answers (.pollAttempt tid) s fun t => t.mem = s.mem ∧ t.stores = s.stores ∧
        (∀ k, k ≠ tid → t.thread k = s.thread k) ∧
        ∃ new : List ((Nat × Nat) × List Byte), new.map (·.1) = now ∧
          (∀ x d, (x, d) ∈ new → ∃ q, c.translate o.lc x.1 x.2 .load = .ok q ∧ d = c.coreLine o.core q) ∧
          let got := p.got ++ new
          let home := if new.isEmpty then p.home else s.hclk
          let p' : Poll := if ls.all fun x => got.any fun y => y.1 = x then
              { next := s.coreClock o.core + 16, home := home, got := [],
                done := plan.1.all fun q => plan.2.2 q.1 (q.2.inLines got plan.2.1) }
            else { p with got := got, home := home }
          t.thread tid = { o with poll := some p' })

/-- R77, R344, R348 and R352: at a run boundary a TIMER deadline that WTIME has reached parks the lanes of the next run
with one record each, or ends the innermost activation with status 1, and the deadline is cleared; the oldest posted
fault parks the live lanes that its command named, a lane that a region holds past its RLXEND, or gives one record with LANE 0xFF when none of them
is live; that record's PC is 0, which no rule gives (notes/assumptions/83). A step lane that parks ends its region's pass. -/
def Obligations.BoundaryTrapSteps : Prop :=
  ∀ (s : State) (tid : Nat),
    let o := s.thread tid
    let asid := s.ctxOf tid
    let byte (l : Nat) : Nat := if o.isLead then 255 else l
    let charged (dom : Nat) (t : State) (xs : List (TrapCode × Nat × Nat × Word)) : Prop :=
      ∃ rs, (t.domain dom).records = (s.domain dom).records ++ rs ∧
        rs.map (fun r => (r.code, r.kind, r.lane, r.pc)) = xs ∧ ∀ r, r ∈ rs → r.domain = dom
    -- where a lane would next run: past the RLXEND at which a region holds it
    let at_ (l : Nat) : Word := match (s.unitOf tid).region.bind (·.rlxend) with
      | some pc => if (o.lane l).hold = .region then BitVec.ofNat 32 (3 * (pc / 3 + 1)) else (o.lane l).pc
      | none => (o.lane l).pc
    let parks (t : State) (m : Mask) (pc : Nat → Word) : Prop :=
      (t.thread tid).run = none ∧
      ((∃ l, l < 32 ∧ m.getLsbD l = true ∧ (s.regionStep tid l).isSome = true) →
        (t.unitOf tid).region.map (·.trap) = some true) ∧
      ∀ l, l < 32 → (t.thread tid).lane l =
        if m.getLsbD l then { o.lane l with st := .parked, hold := .no, pc := pc l, latch := [], kept := none } else o.lane l
    let rest (t : State) : Prop := t.mem = s.mem ∧ t.stores = s.stores ∧ ∀ k, k ≠ tid → t.thread k = s.thread k
    -- an activation that ends marks its stores as its own
    let left (t : State) : Prop := t.mem = s.mem ∧ (∀ k, k ≠ tid → t.thread k = s.thread k) ∧
      (t.stores.map fun y => { y with late := {} }) = (s.stores.map fun y => { y with late := {} })
    o.alive = true → o.stopped = false → (s.domain asid).running = true → o.atBoundary = true →
    (∀ n pc m, o.deadline = some n → n ≤ o.wtime → o.lowest = some (pc, m) →
      (o.acts = [] → Answers (.timerExpire tid) s fun t => rest t ∧ (t.thread tid).deadline = none ∧ parks t m (fun l => (o.lane l).pc) ∧
        charged o.dom t ((lanesOf m).map fun l => (TrapCode.timer, 1, byte l, (o.lane l).pc))) ∧
      (∀ b bs, o.acts = b :: bs → Answers (.timerExpire tid) s fun t => left t ∧ (t.thread tid).deadline = none ∧
        (t.thread tid).acts = bs ∧ rd 0 (t.thread tid).w 0 = 1 ∧ (t.thread tid).dom = b.dom ∧
        (t.core o.core).windows = (s.core o.core).windows - 1 ∧
        charged o.dom t ((lanesOf m).map fun l => (TrapCode.timer, 3, byte l, (o.lane l).pc)))) ∧
    (∀ p ps, o.posted = p :: ps → o.acts = [] →
      let live := p.mask &&& o.lanesWith fun L => L.st = .live
      Answers (.postedFaultDeliver tid) s fun t => rest t ∧
        if live = 0 then
          (t.thread tid) = { o with posted := ps } ∧ charged (p.dom.getD asid) t [(p.code, 2, 255, 0)]
        else parks t live at_ ∧ (t.thread tid).posted = ps ∧
          charged (p.dom.getD asid) t ((lanesOf live).map fun l => (p.code, 2, byte l, at_ l)))

/-! ### Memory traffic -/

/-- R89 to R92, R94 and R222: a read served at its home takes the line's bytes there and grants a lease of its record's
class, or of the class of the window that covers the line, cut to the performance time of the first store that waits at the line; a poisoned line ends it, and the lane that loaded it
parks at the load (the lane as it stood there, notes/assumptions/10). The value then returns: the
core's own earlier unperformed stores lie over it, each part's register that still waits for it takes it and is no longer pending, an acquire
holds its lanes to its home time plus 4, and a leased line enters the L1. -/
def Obligations.ReadSteps : Prop :=
  ∀ (s : State) (n : Nat) (r : Req), s.reqs[n]? = some r →
    let data := overlay r.own r.data
    let ticks : Nat := if r.keeps = false then 0 else
      match s.windowAt (s.thread r.tid).lc r.dom r.va with
      | some (k, w) => leaseTicks (s.window k w).record.lease
      | none => r.lease
    (r.st = .sent → r.store = none → s.storesDone r.after = true → s.reqsServed r.behind = true →
      s.forwardedOn r.line = false → s.isMoving r.line = false →
      (s.poisoned r.line = false → Answers (.homeRead n) s fun t => ∃ e,
        t.reqs[n]? = some { r with st := .home, data := memGetN s.mem r.line 128, expiry := e, homeTime := s.hclk,
                                   own := s.queuedBefore r.core r.line r.seen } ∧
        (∀ k, k ≠ n → t.reqs[k]? = s.reqs[k]?) ∧ t.mem = s.mem ∧ t.threads = s.threads ∧ t.stores = s.stores ∧
        (ticks = 0 → e = 0 ∧ t.lines = s.lines) ∧
        (ticks ≠ 0 → e ≤ s.hclk + ticks ∧ (t.line r.line).lease = max (s.line r.line).lease e ∧
          (∀ x, x ∈ s.stores → x.live = true → x.line = lineOf r.line → x.st = .arrived → e ≤ x.perf) ∧
          (e = s.hclk + ticks ∨ ∃ x ∈ s.stores, x.line = lineOf r.line ∧ x.st = .arrived ∧ e = x.perf))) ∧
      (s.poisoned r.line = true → Answers (.homeRead n) s fun t => t.mem = s.mem ∧ t.stores = s.stores ∧
        (∃ r', t.reqs[n]? = some r' ∧ r'.st = .done) ∧
        ∀ l L, l < 32 → r.late.lanes = [(l, L)] → r.late.depth = 0 → r.pref = false → r.parts ≠ [] →
          r.late.body.getLsbD l = false → r.late.undone.getLsbD l = false → (s.thread r.tid).alive = true →
          (s.thread r.tid).acts = [] → ((s.thread r.tid).lane l).st = .live ∨ ((s.thread r.tid).lane l).st = .parked →
          ((t.thread r.tid).lane l).st = .parked ∧ ((t.thread r.tid).lane l).pc = r.late.pc ∧
          ∃ x, (t.domain r.dom).records = (s.domain r.dom).records ++ [x] ∧ x.code = .eccue ∧ x.pc = r.late.pc)) ∧
    (∀ l v w, l < 32 → r.st = .home → r.store = none → r.depth = (s.thread r.tid).gdepth →
      r.parts = [{ dest := .lane l (some v) 1, off := w, width := 4, latch := true }] →
      s.windowAt (s.thread r.tid).lc r.dom r.va = none →
      Answers (.loadReturn n) s fun t => t.mem = s.mem ∧ t.stores = s.stores ∧ t.lines = s.lines ∧
        t.reqs[n]? = some { r with st := .done, late := {} } ∧ (∀ k, k ≠ r.tid → t.thread k = s.thread k) ∧
        (∀ k, k < 32 → k ≠ l → (t.thread r.tid).lane k = (s.thread r.tid).lane k) ∧
        (∀ k, rd 0 ((t.thread r.tid).lane l).v k =
          if k = v ∧ (((s.thread r.tid).lane l).pend.any fun q => q.2 = n) then BitVec.ofNat 32 (leAt data w 4) else rd 0 ((s.thread r.tid).lane l).v k) ∧
        (∀ q, q ∈ ((t.thread r.tid).lane l).pend ↔ q ∈ ((s.thread r.tid).lane l).pend ∧ q.2 ≠ n) ∧
        (r.acq = true → ((t.thread r.tid).lane l).acq = max ((s.thread r.tid).lane l).acq (r.homeTime + 4)) ∧
        (r.expiry = 0 → t.copies = s.copies) ∧
        (r.expiry ≠ 0 → ({ core := r.core, line := r.line, expiry := r.expiry, data := r.data, dom := r.dom } : Copy) ∈ t.copies ∧
          ∀ c, c ∈ t.copies → c.core = r.core → c.line = r.line → c.expiry = r.expiry))

/-- R90, R91, R95, R97, R103, R106 and R226: a store that reaches its home takes the latest of its arrival, the line's
lease, the store before it and its own earliest time as its performance time; at that time, or at once where it has come, a device home takes its
bytes, or performs its atomic, lane by lane in the order it holds them, which is ascending (StoreResults), each on what
the one before left; an atomic that would read a flawed line fails; a store to system memory is forwarded, and performed when its owner acknowledges it; its
completion time raises the held times of the threads it belongs to. No other byte of memory changes. -/
def Obligations.StoreSteps : Prop :=
  ∀ (s : State) (n : Nat) (x : Store), s.stores[n]? = some x → x.live = true →
    let sole : Prop := ∀ k y, k ≠ n → s.stores[k]? = some y → y.live = true → y.line ≠ x.line
    let perf := max (max s.hclk (s.line x.line).lease) (max (s.line x.line).last x.notBefore)
    let outside (t : State) (lo k : Nat) : Prop := ∀ a, a < x.line + lo ∨ x.line + lo + k ≤ a → memGet t.mem a = memGet s.mem a
    let device : Prop := isDevice x.line = true ∧ x.st = .arrived ∧ x.perf ≤ s.hclk ∧ sole ∧ Memory.wf s.mem = true
    let done (t : State) : Prop := ∃ y, t.stores[n]? = some y ∧ y.st = .performed ∧ y.live = !x.wctBack
    let takes (t : State) : Prop := ∀ a, memGet t.mem a =
      if x.line ≤ a then (cellAt x.bytes (a - x.line)).getD (memGet s.mem a) else memGet s.mem a
    (x.st = .accepted → s.earlierOut n x = false → s.isMoving x.line = false → s.due = [] →
      (∀ k r, k ∈ x.after → s.reqs[k]? = some r → r.st ≠ .sent ∧ r.st ≠ .walk) →
      (isDevice x.line = false ∨ s.hclk < perf →
        Answers (.homeStoreArrival n) s fun t => t.mem = s.mem ∧ t.threads = s.threads ∧ t.reqs = s.reqs ∧
          t.stores[n]? = some { x with st := .arrived, perf := perf, arr := s.arrivals } ∧ t.arrivals = s.arrivals + 1 ∧
          (∀ k, k ≠ n → t.stores[k]? = s.stores[k]?) ∧ (t.line x.line).last = perf) ∧
      (isDevice x.line = true → perf ≤ s.hclk → Memory.wf s.mem = true → x.kind = .plain ∨ s.poisoned x.line = false →
        Answers (.homeStoreArrival n) s fun t => done t ∧ t.threads = s.threads ∧ t.reqs = s.reqs ∧
          (∀ k, k ≠ n → t.stores[k]? = s.stores[k]?) ∧ (t.line x.line).last = perf ∧ (x.kind = .plain → takes t))) ∧
    (x.kind = .plain → device → Answers (.homeStorePerform n) s fun t => done t ∧ t.threads = s.threads ∧ t.reqs = s.reqs ∧
      takes t) ∧
    (x.kind ≠ .plain → device → s.poisoned x.line = true → Answers (.homeAtomicPerform n) s fun t =>
      t = { s with stores := t.stores } ∧ t.stores[n]? = some { x with live := false, failed := some .eccue }) ∧
    (∀ ps, x.kind = .atom ps → device → s.poisoned x.line = false → Answers (.homeAtomicPerform n) s fun t =>
      done t ∧ t.threads = s.threads ∧ ∃ y qs, t.stores[n]? = some y ∧ y.kind = .atom qs ∧ qs.length = ps.length ∧
      -- memory after each lane's operation
      ∃ m : Nat → List Host.Cell, m 0 = s.mem ∧ m ps.length = t.mem ∧ ∀ i a, ps[i]? = some a →
        let w := if a.w64 then 8 else 4
        let old := memGetN (m i) (x.line + a.off) w
        (∀ b, b < x.line + a.off ∨ x.line + a.off + w ≤ b → memGet (m (i + 1)) b = memGet (m i) b) ∧
        (qs[i]?).map (·.data) = some (BitVec.ofNat 64 (ofBytes old)) ∧
        memGetN (m (i + 1)) (x.line + a.off) w =
          bytesOf w (atomNew a.op a.w64 (BitVec.ofNat 64 (ofBytes old)) a.data a.new).toNat) ∧
    (∀ a, x.kind = .atom [a] → device → s.poisoned x.line = false → Answers (.homeAtomicPerform n) s fun t =>
      let w := if a.w64 then 8 else 4
      let old := memGetN s.mem (x.line + a.off) w
      done t ∧ t.threads = s.threads ∧ outside t a.off w ∧
      (∃ y b, t.stores[n]? = some y ∧ y.kind = .atom [b] ∧ b.data = BitVec.ofNat 64 (ofBytes old)) ∧
      memGetN t.mem (x.line + a.off) w = bytesOf w (atomNew a.op a.w64 (BitVec.ofNat 64 (ofBytes old)) a.data a.new).toNat) ∧
    (∀ o k, x.kind = .add o k → device → s.poisoned x.line = false → Answers (.homeAtomicPerform n) s fun t => done t ∧ t.threads = s.threads ∧
      outside t o 8 ∧ memGetN t.mem (x.line + o) 8 = bytesOf 8 (ofBytes (memGetN s.mem (x.line + o) 8) + k)) ∧
    (x.kind = .plain → isDevice x.line = false → x.st = .arrived → x.perf ≤ s.hclk → (s.line x.line).lease ≤ s.hclk → sole →
      Answers (.homeStorePerform n) s fun t => t = { s with stores := t.stores } ∧
        t.stores[n]? = some { x with st := .forwarded }) ∧
    (x.kind = .plain → x.st = .forwarded → Memory.wf s.mem = true → Answers (.hubStoreAck n) s fun t => done t ∧
      (∃ y, t.stores[n]? = some y ∧ y.perf = s.hclk) ∧
      takes t) ∧
    (∀ tid, x.tids = [tid] → x.acq = false → x.wctBack = false →
      x.st = .performed ∨ (x.st = .arrived ∧ isDevice x.line = true) →
      Answers (.wctReturn n) s fun t => t.mem = s.mem ∧ t.reqs = s.reqs ∧
        t.stores[n]? = some { x with wctBack := true, live := decide (x.st ≠ .performed) } ∧
        OnlyThread tid s { s with threads := t.threads } ∧
        t.thread tid = { s.thread tid with wctd := max (s.thread tid).wctd x.perf, wcts := max (s.thread tid).wcts x.perf })

/-- R89, R103, R105, R220 and R354: a copy in the L1 goes when its lease ends; a dirty entry of a window is written back
as a byte-masked store when its own lease does; a page whose home
still holds leases or waiting stores is marked, and its accesses wait; then it moves, in every domain that maps it; a request that waits for a
page is sent to its home once the page is there, behind the atomics of its core on the line; an error of an evicted line, with no read or
atomic on its way (notes/assumptions/54), poisons it and gives one record. -/
def Obligations.CacheSteps : Prop :=
  ∀ (s : State) (core line lc win asid va pa n : Nat),
    let w := rd ({} : Window) (s.lc lc).windows win
    (Answers (.l1LeaseExpire core line) s fun t => t = { s with copies := t.copies } ∧
      ∀ c, c ∈ t.copies ↔ c ∈ s.copies ∧ ¬ (c.core = core ∧ c.line = line ∧ c.expiry ≤ s.coreClock core + 4)) ∧
    (∀ e p, w.mapped = true → w.entries = [e] → e.off = line → e.dirty ≠ 0 → e.expiry ≤ s.coreClock (s.lc lc).core + 4 →
      (s.domain (s.lc lc).asid).place (w.base + line) = some p →
      Answers (.windowLeaseWriteback lc win line) s fun t => t.mem = s.mem ∧ t.reqs = s.reqs ∧
        rd {} (t.lc lc).windows win = { w with entries := [] } ∧
        ∃ x : Store, t.stores = s.stores ++ [x] ∧ x.live = true ∧ x.st = .accepted ∧ x.line = lineOf p ∧ x.kind = .plain ∧
          x.tids = e.writers.eraseDups ∧
          ∀ i b, (i, b) ∈ x.bytes ↔ i < 128 ∧ e.dirty.getLsbD i = true ∧ b = rd 0 e.data i) ∧
    (∀ p, (s.domain asid).page va = some p → isDevice p.pa = true → pa + 2 ^ p.log ≤ Config.deviceBytes →
      pa % 2 ^ p.log = 0 → (pa + 2 ^ p.log ≤ p.pa ∨ p.pa + 2 ^ p.log ≤ pa) → s.moving = [] →
      (∀ d q, d ∈ s.domains → q ∈ d.pages → q.pa + 2 ^ q.log ≤ p.pa ∨ p.pa + 2 ^ p.log ≤ q.pa ∨
        (p.pa ≤ q.pa ∧ q.pa + 2 ^ q.log ≤ p.pa + 2 ^ p.log)) →
      let inside (a : Nat) : Bool := p.pa ≤ a && a < p.pa + 2 ^ p.log
      let waits : Prop := (∃ x, x ∈ s.stores ∧ x.live = true ∧ inside x.line = true ∧ (x.st = .arrived ∨ x.st = .forwarded)) ∨
        ∃ x, x ∈ s.lines ∧ inside x.addr = true ∧ s.hclk < x.lease
      (waits → Answers (.pageMigration asid va pa) s fun t => t = { s with moving := [(asid, va, pa)] } ∧
        ∀ a, inside a = true → t.isMoving a = true) ∧
      (¬ waits → Memory.wf s.mem = true → Answers (.pageMigration asid va pa) s fun t => t.threads = s.threads ∧
        t.moving = [] ∧ ((t.domain asid).page va) = some { p with pa := pa } ∧
        (∀ k q, q ∈ (s.domain k).pages → inside q.pa = true → { q with pa := q.pa - p.pa + pa } ∈ (t.domain k).pages) ∧
        (∀ i, i < 2 ^ p.log → memGet t.mem (pa + i) = memGet s.mem (p.pa + i)) ∧
        ∀ a, a < pa ∨ pa + 2 ^ p.log ≤ a → memGet t.mem a = memGet s.mem a)) ∧
    (∀ r p, s.reqs[n]? = some r → r.st = .walk → r.store = none → r.probe = false → (s.domain r.dom).page r.va = some p →
      p.r = true → Answers (.tlbWalkComplete n) s fun t => t.mem = s.mem ∧
        let place := lineOf (p.pa + r.va % 2 ^ p.log)
        let r1 : Req := { r with st := .sent, line := place, after := (t.atomsOn r.core place).filter fun k => k < r.seen }
        (p.w = true → t.reqs[n]? = some r1) ∧
        ∃ r', t.reqs[n]? = some r' ∧ r'.st = r1.st ∧ r'.line = r1.line ∧ r'.after = r1.after) ∧
    (∀ p, (s.domain asid).place line = some p → isDevice p = true →
      (∀ r, r ∈ s.reqs → r.st = .sent → r.line ≠ lineOf p) →
      (∀ x, x ∈ s.stores → x.live = true → x.line = lineOf p → x.kind ≠ .plain → x.st = .performed) →
      Answers (.l2EvictionError asid core line) s fun t =>
      t.mem = s.mem ∧ t.threads = s.threads ∧ t.poisoned p = true ∧
      ∃ x : FaultRec, (t.domain asid).records = (s.domain asid).records ++ [x] ∧ x.code = .eccue ∧ x.kind = 4 ∧
        x.addr = lineOf line ∧ x.core = core ∧ x.domain = asid)

/-! ### Launches -/

/-- R47, R55 to R61, R145, R315, R374, R381 to R383: a DOORBELL reads the TAIL of the queue it names, or has it read once its page is there and its home serves the read; the arbiter takes the
next entry of a launch queue, which becomes a launch, or its completion record carries the status of the first failing
check, and a wrong SEQ stops the queue; an arbiter read makes a launch eligible once its counter has come, and ends one whose counter cannot be read with
status 0x0B; an eligible
launch starts on a core, or on the next logical core, with its lead thread unless it is LEADLESS. -/
def Obligations.LaunchSteps : Prop :=
  ∀ (s : State) (fn queue n core : Nat) (v : Dword),
    (∀ a w, fld v 63 17 = 0 → s.bringUp = 8 → s.findQueue (fld v 16 0) = some (a, w) →
      (s.domain a).reachedBy fn = true → (s.domain a).tdiRun = true →
      (∀ l, l ∈ s.launches → l.asid = a → l.st ≠ .depends) →
      (∀ bs, s.askBytes a w.block 64 = (s, false) → s.deviceClear a w.block 64 = true → s.deviceRead a (w.block + 0x10) 8 = some bs →
        Answers (.doorbell fn v) s fun t => t = { s with domains := t.domains, access := t.access } ∧
          (t.domain a).workq (fld v 16 0) =
            let new := ofBytes bs
            some { w with
              rung := false
              tail := new
              permits := if s.workType a w = 1 then w.permits - (new - w.tail) else w.permits }) ∧
      (s.askBytes a w.block 64 = (s, false) → s.deviceClear a w.block 64 = false → Answers (.doorbell fn v) s fun t =>
        t.mem = s.mem ∧ (t.domain a).workq (fld v 16 0) = some { w with rung := true }) ∧
      ((s.askBytes a w.block 64).2 = true → Answers (.doorbell fn v) s fun t =>
        t.mem = s.mem ∧ ((t.domain a).workq (fld v 16 0)).map (·.rung) = some true)) ∧
    (fld v 63 17 ≠ 0 ∨ s.findQueue (fld v 16 0) = none → exec (.doorbell fn v) s = .next s) ∧
    (∀ a w, s.bringUp = 8 → s.findQueue queue = some (a, w) → w.stopped = false → w.rung = false → s.workType a w = 0 →
      s.blockField a w.block 0x0C 2 = a →
      let seq := s.blockField a w.block 0x18 8 + 1
      let done := s.blockField a w.block 0x20 8
      let entry := s.blockField a w.block 0x00 8 + 16 * (seq % s.workDepth a w)
      let ready : Prop := seq ≤ w.tail ∧ seq ≤ done + s.workDepth a w ∧ done < seq ∧ seq ∉ w.written ∧
        s.recordReady a queue seq = (s, true) ∧ s.askRead a entry 16 = (s, false)
      -- the entry has been read
      let z := (s.countLines a entry 16).answered a entry 16
      let addr := s.blockField a entry 8 8
      let u := z.consumed a w.queue seq
      (ready → s.blockField a entry 0 8 ≠ seq → Answers (.launchAccept queue) s fun t =>
        t.mem = (z.completionRecord a w.queue seq 9).mem ∧ t.launches = s.launches ∧
        ∃ w', (t.domain a).workq queue = some w' ∧ w'.stopped = true) ∧
      (∀ r, ready → s.blockField a entry 0 8 = seq → s.askRecord a addr = (s, false) → u.deviceRead a addr 512 = some r →
        let l0 := launchOfRecord a w.queue seq r
        let l : Launch := { l0 with textPkts := u.imagePkts a l0.code }
        (∀ st, u.rejection l r addr = some st →
          exec (.launchAccept queue) s = .next ((u.completionRecord a w.queue seq st).answerRecord a addr)) ∧
        (u.rejection l r addr = none → l.depaddr = 0 → Answers (.launchAccept queue) s fun t => t.mem = u.mem ∧
          t.threads = s.threads ∧ t.launches = s.launches ++
            [{ l with st := .eligible, todo := if l.det then List.range (l.gx * l.gy) else s.coreSet l }]))) ∧
    (∀ l, s.launch? n = some l → l.st = .depends → s.deviceClear l.asid l.depaddr 8 = true →
      s.askBytes l.asid l.depaddr 8 = (s, false) →
      (∀ z bs, s.deviceReads l.asid l.depaddr 8 = (z, some bs) → ofBytes bs < l.depthresh →
        exec (.dependenceRead n) s = .next z) ∧
      (∀ z bs, s.deviceReads l.asid l.depaddr 8 = (z, some bs) → ofBytes bs ≥ l.depthresh →
        Answers (.dependenceRead n) s fun t => t = { z with launches := t.launches, domains := t.domains } ∧
          t.launch? n = some { l with st := .eligible }) ∧
      (∀ z y, s.deviceReads l.asid l.depaddr 8 = (z, none) → z.recordReady l.asid l.queue l.seq = (y, true) →
        Answers (.dependenceRead n) s fun t => t.launch? n = some { l with st := .finished } ∧
          t.mem = (y.completionRecord l.asid l.queue l.seq 0x0B).mem ∧ t.threads = s.threads) ∧
      (∀ z y, s.deviceReads l.asid l.depaddr 8 = (z, none) → z.recordReady l.asid l.queue l.seq = (y, false) →
        exec (.dependenceRead n) s = .next y)) ∧
    (∀ l, s.launch? n = some l → s.canStart n core = true → s.comesFirst n core = false →
      (∀ x, x ∈ l.qbind → fld x 31 30 ≠ 2) →
      let starts (i : Instr) (key : Nat) (gs : Guess) (units : Unit_ → Unit_) : Prop := Answers i s fun t =>
        t.mem = s.mem ∧ t.stores = s.stores ∧
        t.launch? n = some { l with todo := l.todo.filter (· ≠ key), running := l.running ++ [key] } ∧
        t.unit l.asid core = { units (s.unit l.asid core) with gs := gs } ∧
        ∃ x, t.lcs = s.lcs ++ [x] ∧ x.launch = n ∧ x.core = core ∧ x.logcore = key ∧ x.asid = l.asid ∧ x.live = true ∧
          x.toPlace = l.waves ∧ x.nextWave = l.waves ∧ x.lstash = [] ∧ x.casts = [] ∧ x.mx = [] ∧ x.queues.length = 2 + l.qbind.length ∧
          (l.leadless = true → x.lead = none ∧ t.threads = s.threads) ∧
          (l.leadless = false → x.lead = some s.threads.length ∧ ∃ y, t.threads = s.threads ++ [y] ∧ y.alive = true ∧
            y.isLead = true ∧ y.core = core ∧ y.lc = s.lcs.length ∧ y.dom = l.asid ∧ y.code = l.text ∧
            y.curtag = l.reqtag ∧ y.counter = l.compctr ∧ y.b = l.bufrec.map (fun b => { bits := b }) ∧
            (y.lane 0).st = .live ∧ (y.lane 0).pc = l.leadEntry ∧ ∀ k, 0 < k → (y.lane k).st = .exited)
      (l.det = false → starts (.launchStartCore n core) core
        (if ∃ x ∈ s.lcsOn core, x.asid = l.asid then (s.unit l.asid core).gs else {}) id) ∧
      (l.det = true → ∀ key, key ∈ s.planned l core → (∀ k, k ∈ s.planned l core → key ≤ k) →
        starts (.logicalCoreStart n core) key {} Unit_.fresh))

/-- R36 to R38, R51 to R54, R62 and R350: an initial wave takes the lowest free slot of its core with every lane live at
the wave entry; a child of the turn of its bin, or of a deterministic logical core with the WAVEID of its spawning, takes a
slot of a core, with the next WAVEID there, also where the launch had finished; a handler wave has one lane, its record's
address and SEQ; a thread whose lanes have ended and whose stores are performed retires, and its counter receives an add of
1. The model's choices in it: a child goes to no core that its launch has not reached (notes/assumptions/37), nor to one
without the stash for it (55); a handler wave's WAVEID is the next of the launch's series on its core, and free in
deterministic mode (73); and a lead thread's count waits for the energy adds of its core, as R364 has them come first
(39). -/
def Obligations.WaveSteps : Prop :=
  ∀ (s : State) (lc die tid slot : Nat) (l : Launch),
    let x := s.lc lc
    let o := s.thread tid
    let born (y : Thread) (core lc n : Nat) (entry : Word) : Prop :=
      y.alive = true ∧ y.core = core ∧ y.lc = lc ∧ y.dom = l.asid ∧ y.code = l.text ∧ y.regs = l.regs ∧
      y.b = l.bufrec.map (fun b => { bits := b }) ∧ y.w = [] ∧ y.evp = 0 ∧ y.fflags = 0 ∧ y.acts = [] ∧ y.cast = none ∧
      y.stash = [] ∧ ∀ k, k < 32 → y.lane k = if k < n then { st := .live, pc := entry, npc := entry } else {}
    (s.launch? x.launch = some l → (s.freeSlots x.core).head? = some slot → x.live = true →
      (s.domain x.asid).starts = true →
      (x.toPlace ≠ 0 → l.stash * 4096 ≤ s.freeStash x.core → Answers (.wavePlace lc) s fun t => ∃ y,
        t = { s with threads := s.threads ++ [y], lcs := t.lcs } ∧ t.lc lc = { x with toPlace := x.toPlace - 1 } ∧
        born y x.core lc 32 l.waveEntry ∧ y.kind = .initial ∧ y.slot = slot ∧ y.cls = l.wpri ∧ y.depth = 0 ∧
        y.curtag = l.reqtag ∧ y.counter = l.compctr ∧ y.stashSize = l.stash * 4096 ∧
        y.waveid = BitVec.ofNat 32 (l.waves - x.toPlace)) ∧
      (∀ addr seq rest, x.toHandle = (addr, seq) :: rest → (∀ i, x.handler = some i → (s.thread i).alive = false) →
        Answers (.handlerWaveStart lc) s fun t => ∃ y,
          t = { s with threads := s.threads ++ [y], lcs := t.lcs, draws := if l.det then s.draws + 1 else s.draws } ∧
          t.lc lc = { x with nextWave := if l.det then x.nextWave else x.nextWave + 1, toHandle := rest,
                             handler := some s.threads.length } ∧
          (l.det = false → y.waveid = BitVec.ofNat 32 x.nextWave) ∧ born y x.core lc 1 l.handler ∧ y.kind = .handler ∧ y.slot = slot ∧ y.cls = 3 ∧ y.stashSize = 0 ∧
          y.arg0 = BitVec.ofNat 64 addr ∧ y.arg1 = BitVec.ofNat 64 seq ∧ y.counter = 0)) ∧
    let childOf (t : State) (y : Thread) (c : Child) (core k : Nat) : Prop :=
      t.threads = s.threads ++ [y] ∧ born y core k c.lanes c.entry ∧ y.kind = .child ∧
      y.slot = (s.freeSlots core).headD 0 ∧ y.cls = c.cls ∧ y.arg0 = c.arg0 ∧ y.arg1 = c.arg1 ∧ y.curtag = c.curtag ∧
      y.depth = c.depth ∧ y.counter = c.counter ∧ y.stashSize = l.stash * 4096
    (∀ c id core k, (s.die die).turn = [] → (s.die die).nextBin = none → (s.die die).detHeads.head? = some c →
      (s.domain (s.lc c.lc).asid).starts = true → s.launch? (s.lc c.lc).launch = some l →
      s.wavesWait c (s.lc c.lc).launch l = false → s.childCore c (s.lc c.lc).launch l = some core → c.waveid = some id →
      findIdx? (fun x => x.live && x.launch = (s.lc c.lc).launch && x.core = core) s.lcs = some k →
      Answers (.childPlace die) s fun t => ∃ y, t = { s with threads := t.threads, dies := t.dies } ∧
        t.die die = { s.die die with pend := (s.die die).pend.erase c } ∧ childOf t y c core k ∧ y.waveid = id) ∧
    (∀ c rest core, (s.die die).turn = c :: rest → (s.domain (s.lc c.lc).asid).starts = true →
      s.launch? (s.lc c.lc).launch = some l → s.wavesWait c (s.lc c.lc).launch l = false →
      s.childCore c (s.lc c.lc).launch l = some core → c.waveid = none →
      let here := findIdx? (fun x => x.live && x.launch = (s.lc c.lc).launch && x.core = core) s.lcs
      let placed (t : State) (y : Thread) (k next : Nat) : Prop :=
        t.mem = s.mem ∧ t.stores = s.stores ∧ t.reqs = s.reqs ∧ t.die die = { s.die die with turn := rest } ∧
        childOf t y c core k ∧ y.waveid = BitVec.ofNat 32 next
      (∀ k, here = some k → Answers (.childPlace die) s fun t => ∃ y, placed t y k (s.lc k).nextWave ∧
        t = { s with threads := t.threads, lcs := t.lcs, dies := t.dies } ∧
        t.lc k = { s.lc k with nextWave := (s.lc k).nextWave + 1 } ∧ ∀ j, j ≠ k → t.lc j = s.lc j) ∧
      (here = none → (∀ x, x ∈ l.qbind → fld x 31 30 ≠ 2) →
        let next := s.nextWaveOn (s.lc c.lc).launch core
        Answers (.childPlace die) s fun t => ∃ y x, placed t y s.lcs.length next ∧ t.lcs = s.lcs ++ [x] ∧
          x.launch = (s.lc c.lc).launch ∧ x.core = core ∧ x.live = true ∧ x.lead = none ∧ x.toPlace = 0 ∧
          x.nextWave = next + 1)) ∧
    (∀ b, (s.die die).turn = [] → (s.die die).nextBin = some b → Answers (.childPlace die) s fun t =>
      (t.die die).bin = b ∧ t.mem = s.mem) ∧
    (∀ i, i = Instr.waveRetire tid ∧ o.isLead = false ∨ i = Instr.leadThreadRetire tid ∧ o.isLead = true →
      s.mayRetire tid = true → o.cast = none → o.posted = [] →
      let gone (t : State) : Prop := t.mem = s.mem ∧ (∀ k, k ≠ tid → t.thread k = s.thread k) ∧
        t.thread tid = { o with alive := false, posted := [], stashSize := 0, stash := [] }
      let later : Prop := o.isLead = true ∧ ∃ l, s.launchOf tid = some l ∧ l.energy ≠ 0
      (o.counter = 0 ∨ later → Answers i s fun t => gone t ∧ t.stores = s.stores) ∧
      (∀ p, o.counter ≠ 0 → ¬later → (s.domain (s.ctxOf tid)).page o.counter = some p → p.r = true → p.w = true →
        Answers i s fun t => gone t ∧ ∃ e : Store, t.stores = s.stores ++ [e] ∧ e.live = true ∧ e.st = .accepted ∧
          e.line = lineOf (p.pa + o.counter % 2 ^ p.log) ∧
          e.kind = .add ((p.pa + o.counter % 2 ^ p.log) % 128) 1))

/-- R54, R227, R246, R364 and R383: a launch with nothing left on a core writes back its windows and gives its energy
adds, then its lead thread's
count, and frees what it held there; when it has finished on every core its completion record carries status 0; an audit
freezes each queue of its die whose permits and entries do not add up to its depth, and no other; the block of a host work
queue that cannot be read now is left to the next audit. That a child which waits for its place and a record which waits for
its handler hold the finish on a core is the model's choice (notes/assumptions/74). -/
def Obligations.FinishSteps : Prop :=
  ∀ (s : State) (lc n die : Nat) (l : Launch),
    let x := s.lc lc
    let u := s.unit x.asid x.core
    let freed (t : State) : Prop := (t.lc lc).live = false ∧ (t.lc lc).lstash = [] ∧ (t.lc lc).windows = [] ∧
      (t.lc lc).queues = [] ∧ (t.lc lc).locks = [] ∧ (t.lc lc).lockPages = [] ∧
      ∃ l', t.launch? x.launch = some l' ∧ l'.running = l.running.filter (· ≠ if l.det then x.logcore else x.core)
    let add (e : Store) (p : Page) (va k : Nat) : Prop := e.live = true ∧ e.st = .accepted ∧
      e.line = lineOf (p.pa + va % 2 ^ p.log) ∧ e.kind = .add ((p.pa + va % 2 ^ p.log) % 128) k
    (s.launch? x.launch = some l → x.live = true → (s.domain x.asid).goes = true → s.onlyCommands lc = true →
      (∀ c, c ∈ u.cmdsAll → c.lc ≠ lc) → (∀ g, g ∈ u.tags → g.live = true → g.proxyOf = none → g.lc ≠ lc) →
      (x.finishing = none → l.energy = 0 → x.windows = [] → Answers (.launchFinishCore lc) s fun t =>
        t = { s with lcs := t.lcs, launches := t.launches } ∧ freed t) ∧
      (∀ p, x.finishing = none → l.energy ≠ 0 → x.windows = [] →
        (∀ k, k < 8 → (s.domain x.asid).page (l.energy + 8 * k) = some p) → p.r = true → p.w = true →
        Answers (.launchFinishCore lc) s fun t => t.mem = s.mem ∧ t.threads = s.threads ∧
          (t.lc lc).finishing = some ((List.range 8).map fun k => s.stores.length + k) ∧ (t.lc lc).live = true ∧
          t.stores.length = s.stores.length + 8 ∧
          ∀ k, k < 8 → ∃ e, t.stores[s.stores.length + k]? = some e ∧ add e p (l.energy + 8 * k) (rd 0 x.energy k)) ∧
      (∀ k e, k < 16 → x.finishing = none → (s.window lc k).mapped = true → e ∈ (s.window lc k).entries → e.dirty ≠ 0 →
        ((s.domain x.asid).place ((s.window lc k).base + e.off)).isSome = true → l.energy = 0 →
        Answers (.launchFinishCore lc) s fun t => t.mem = s.mem ∧ (t.lc lc).live = true ∧
          (∀ j, j < 16 → (t.window lc j).mapped = false) ∧ s.stores.length < t.stores.length ∧
          (t.lc lc).finishing = some ((List.range (t.stores.length - s.stores.length)).map fun j => s.stores.length + j)) ∧
      (∀ ns p, x.finishing = some ns → s.storesDone ns = true → x.lead.isSome = true → l.energy ≠ 0 → l.compctr ≠ 0 →
        (s.domain x.asid).page l.compctr = some p → p.r = true → p.w = true →
        Answers (.launchFinishCore lc) s fun t => freed t ∧ ∃ e, t.stores = s.stores ++ [e] ∧ add e p l.compctr 1)) ∧
    (∀ w v, s.launch? n = some l → l.st = .eligible → l.todo = [] → l.running = [] →
      (∀ y, y ∈ s.lcs → y.live = true → y.launch ≠ n) → s.recordReady l.asid l.queue l.seq = (s, true) →
      (∀ k m, s.launch? k = some m → m.asid = l.asid → m.st ≠ .depends) →
      (s.domain l.asid).workq l.queue = some w →
      s.deviceWrite l.asid (s.blockField l.asid w.block 0x28 8 + 32 * (l.seq % s.workDepth l.asid w))
        (bytesOf 8 l.seq ++ bytesOf 8 0 ++ bytesOf 8 s.clock64 ++ bytesOf 8 0) = some v →
      Answers (.launchFinish n) s fun t => t.launch? n = some { l with st := .finished } ∧ t.threads = s.threads ∧
        ∃ upto, t.mem = (v.setBlock l.asid w.block 0x20 8 upto).mem ∧
          (w.written = [] → s.blockField l.asid w.block 0x20 8 + 1 = l.seq → upto = l.seq)) ∧
    (s.hclk < (s.die die).audit + 4096 → exec (.permitAudit die) s = .next s) ∧
    (s.hclk ≥ (s.die die).audit + 4096 → Answers (.permitAudit die) s fun t =>
      t.mem = s.mem ∧ t.threads = s.threads ∧ t.stores = s.stores ∧
      (t.die die).audit = s.hclk / 4096 * 4096 ∧ (∀ k, k ≠ die → t.die k = s.die k) ∧
      (∀ j k, j < s.lcs.length → k < 13 →
        let f := rd ({} : Fifo) (s.lc j).queues k
        let asid := (s.lc j).asid
        let here : Prop := (s.lc j).live = true ∧ (s.lc j).core / 48 = die ∧ (s.domain asid).running = true
        match s.boundQ j (k + 3) with
        | none => rd {} (t.lc j).queues k = if here ∧ s.linkBad j (k + 3) = true then { f with frozen := true } else f
        -- a block that cannot be read waits for the next audit
        | some w => (s.deviceRead asid w.block 64).isSome = true → rd {} (t.lc j).queues k =
            if here ∧ s.deviceClear asid w.block 64 = true ∧ (s.readConsumed asid w.queue).linkBad j (k + 3) = true then
              { f with frozen := true } else f) ∧
      ∀ a k, (s.domain a).alive = true → (s.domain a).running = true → k < 16 →
        rd {} (t.domain a).channels k =
          let f := rd ({} : Fifo) (s.domain a).channels k
          if (k / 4 = die ∨ k % 4 = die) ∧ f.mismatch = true then { f with frozen := true } else f)

/-! ### Engine steps -/

/-- R258, R265, R268, R272 to R281: the head of q0 starts once its count is 0, its tiles are free and its unit is: a
command of the tile unit reads what it will write in its last cycle, WBLOAD makes the shadow bank invalid, and a
contraction reads its operand and takes its top plane, or faults where its bank does not serve it. In its last cycle
a command of the tile unit writes the clamped cells of its rows, or the exact ones of rows with a link, and counts what
it clamped; WBSWAP makes the shadow bank active; WBLOAD reads a piece at a time and then fills the shadow bank, which a
fault leaves as it was. That its pieces are of 128 bytes is the model's choice (notes/assumptions/9). -/
def Obligations.BenchStartSteps : Prop :=
  ∀ (s : State) (core asid : Nat) (c : Cmd),
    let u := s.unit asid core
    let run (t : State) : Prop := t.mem = s.mem ∧ t.reqs = s.reqs
    let isAt (t : State) (p : Cmd → Prop) : Prop := ∃ c', (t.unit asid core).cmd c.id = some c' ∧ p c'
    let starts (p : State → Prop) : Prop := Answers (.q0CommandStart core asid) s p
    let reads (cells : List (List Int)) (ls : List Link) (et : Int) : Prop := starts fun t => run t ∧ t.threads = s.threads ∧
      t.unit asid core = u.mapCmd c.id fun x => { x with st := .started, cells := cells, links := ls, et := et }
    let a := u.tile (srcA c.w2)
    let b := u.tile (srcB c.w2)
    let bare (x : Tile) : Prop := x.links = [] ∧ x.covers = []
    let clamp (x : Int) : Int := max (-(2 ^ 47)) (min (2 ^ 47 - 1) x)
    let out (x : Int) : Bool := decide (x < -(2 ^ 47)) || decide (2 ^ 47 - 1 < x)
    let shadow (t : State) : Bank := if u.active then (t.unit asid core).bank0 else (t.unit asid core).bank1
    let k := fld c.w2 10 0 + 1
    (u.head 0 = some c → (s.domain asid).starts = true → headStuck c (u.behind 0 c.id) = false → c.count = 0 →
      s.tilesFree asid core c = true → u.unitFree c = true →
      (∀ w, c.i = .wbswap w → reads [] [] 0) ∧
      (∀ w d, c.i = .wbzero w d → u.isSource d.toNat = false → reads [] [] 0) ∧
      (∀ w f, c.i = .wbload w f → starts fun t => run t ∧ t.threads = s.threads ∧ (shadow t).valid = false ∧
        (t.unit asid core).active = u.active ∧ isAt t fun c' => c'.st = .started) ∧
      (∀ (d : TReg) (i : Instr) (kA kB : Int) (e : Tile),
        (∃ w, i = .tadd w d ∧ kA = 1 ∧ kB = 1 ∧ e = b ∨ i = .tsub w d ∧ kA = 1 ∧ kB = -1 ∧ e = b ∨
          i = .tshl w d ∧ kA = 2 ^ fld c.w2 11 8 ∧ kB = 0 ∧ e = {} ∨ i = .tmov w d ∧ kA = 1 ∧ kB = 0 ∧ e = {} ∨
          i = .tneg w d ∧ kA = -1 ∧ kB = 0 ∧ e = {}) → c.i = i →
        (bare (u.tile d.toNat) → bare a → bare e → u.isSource d.toNat = false → u.reserved core d.toNat ≤ 4 →
          ∃ cells, reads cells [] a.et ∧
            ∀ i j, c.mask.getLsbD i = true → i < 32 → j < 128 → rd 0 (rd [] cells i) j = kA * a.cell i j + kB * e.cell i j) ∧
        (∀ cells ls, u.linear core d.toNat kA kB a e c.mask = some (cells, ls) → reads cells ls a.et ∧
          (∀ i j, c.mask.getLsbD i = true → i < 32 → j < 128 → rd 0 (rd [] cells i) j = kA * a.cell i j + kB * e.cell i j) ∧
          ∀ n i, c.mask.getLsbD i = true → i < 32 →
            ({ links := ls } : Tile).coefAt n i = kA * a.coefAt n i + kB * e.coefAt n i)) ∧
      (∀ w d, c.i = .tslice w d → u.settled (srcA c.w2) = true → u.isSource d.toNat = false → ∃ cells, reads cells [] 0 ∧
        ∀ i n, i < 32 → n ≤ fld c.w2 23 16 → rd 0 (rd [] cells i) n = a.cell i (fld c.w2 30 24 + n)) ∧
      (∀ w d f p rows exps, c.i = .wbmac w d f ∧ p = 0 ∨ c.i = .wbmacp w d f (BitVec.ofNat 3 p) ∧ p < 8 →
        (u.bank.valid = false ∨ u.bank.kb < k → starts fun t => run t ∧ isAt t fun c' => c'.st = .storing ∧ c'.fault = true) ∧
        (u.bank.valid = true → k ≤ u.bank.kb → bare (u.tile d.toNat) → u.isSource d.toNat = false →
          (∀ n, n < 64 → (u.tag n).live = false) →
          readRows c.mask (fun i => s.readA c core (fmtType (c.fmt f)) i k) (List.range 32) = .ok rows →
          readRows c.mask (fun i => s.readEA c core (c.fmt f) i (ceilDiv k 16)) (List.range 32) = .ok exps →
          starts fun t => run t ∧ t.threads = s.threads ∧ (t.unit asid core).tiles = u.tiles ∧ isAt t fun c' =>
            c'.st = .started ∧ c'.a = rows ∧ c'.ea = exps ∧ c'.next = c'.h ∧ c'.pub = min p c'.h ∧
            (∀ r v, r ∈ rows → v ∈ r → topPlane v ≤ c'.h) ∧
            (c'.h = 0 ∨ ∃ r ∈ rows, ∃ v ∈ r, topPlane v = c'.h) ∧ (c'.ltag = none ∨ c'.ltag = some 0) ∧
            (c'.pub = 0 → c'.ltag = none) ∧
            rd 0 c'.mx 0 = ((u.bank.rowsTo k).map fun r => (r.filter (· = 2)).length).sum))) ∧
    (u.cmd c.id = some c → (s.domain asid).starts = true → c.st = .started → c.succ0 = 0 → c.succ1 = 0 → c.bbcount = 0 →
      c.late = none →
      let ends (p : State → Prop) : Prop := ∃ v : State, exec (.nodeComplete core asid c.id) s = .next (v.retireDone asid core) ∧
        run v ∧ (v.unit asid core).cmd c.id = none ∧ p v
      let sat (v : State) (n : Nat) : Prop := rd 0 (v.lc c.lc).mx 2 = mxAdd (rd 0 (s.lc c.lc).mx 2) n
      let others (v : State) (d : TReg) : Prop := ∀ n, n ≠ d.toNat → (v.unit asid core).tile n = u.tile n
      let idle : Prop := ∀ n, n < 64 → (u.tag n).live = false
      (∀ (w : UReg) (d : TReg), bare (u.tile d.toNat) →
        (∀ i, c.mask.getLsbD i = true → i < 32 → (rd [] c.cells i).length = 128) →
        (c.i = .tadd w d ∨ c.i = .tsub w d ∨
          (c.i = .tshl w d ∨ c.i = .tmov w d ∨ c.i = .tneg w d) ∧ (srcA c.w2 = d.toNat ∨ idle)) →
        let linked (i : Nat) : Bool := c.links.any fun l => l.rows.getLsbD i
        ends fun v => others v d ∧ ((v.unit asid core).tile d.toNat).et = c.et ∧
          ((v.unit asid core).tile d.toNat).links = c.links ∧
          (∀ i j, i < 32 → j < 128 → ((v.unit asid core).tile d.toNat).cell i j =
            if c.mask.getLsbD i then let x := rd 0 (rd [] c.cells i) j; if linked i then x else clamp x
            else (u.tile d.toNat).cell i j) ∧
          sat v (((List.range 32).filter fun i => c.mask.getLsbD i && !linked i).map fun i =>
            ((rd [] c.cells i).filter out).length).sum) ∧
      (∀ w d, c.i = .tslice w d → bare (u.tile d.toNat) → idle → ends fun v => others v d ∧ sat v 0 ∧
        ((v.unit asid core).tile d.toNat).et = (u.tile d.toNat).et ∧ ∀ i j, i < 32 → j < 128 →
          ((v.unit asid core).tile d.toNat).cell i j =
            if c.mask.getLsbD i ∧ fld c.w2 37 31 ≤ j ∧ j ≤ fld c.w2 37 31 + fld c.w2 23 16
            then rd 0 (rd [] c.cells i) (j - fld c.w2 37 31) else (u.tile d.toNat).cell i j) ∧
      (∀ w d, c.i = .wbzero w d → bare (u.tile d.toNat) → idle → ends fun v => others v d ∧ sat v 0 ∧
        ((v.unit asid core).tile d.toNat).et = sintOf 8 c.w2.toNat ∧ ∀ i j, i < 32 → j < 128 →
          ((v.unit asid core).tile d.toNat).cell i j = if c.mask.getLsbD i then 0 else (u.tile d.toNat).cell i j) ∧
      (∀ w, c.i = .wbswap w → ends fun v => (v.unit asid core).tiles = u.tiles ∧ (v.unit asid core).active = !u.active ∧
        (v.unit asid core).bank0 = u.bank0 ∧ (v.unit asid core).bank1 = u.bank1) ∧
      (∀ w f, c.i = .wbload w f →
        let n := ceilDiv k 4
        let m := if fmtScale (c.fmt f) = 1 then ceilDiv k 16 else 0
        let piece (r : BufRec) (first len : Nat) : Prop := ∀ v : State,
          let ls := rangeLines (elemRanges r first len 1)
          s.cmdPages asid core c .load ls = (s, false) → (∀ va, va ∈ ls → s.lineClear c.lc core c.dom va = true) →
          v = ls.foldl (fun s va => s.engineLine c.lc c.dom va) s →
          (∀ xs, v.recElems c core r 1 first len = .ok xs → Answers (.nodeComplete core asid c.id) s fun t => t.mem = s.mem ∧
            t.threads = s.threads ∧ t.unit asid core = (v.unit asid core).mapCmd c.id fun x =>
              { x with got := x.got ++ [xs], hold := none, denied := [] }) ∧
          (∀ e, v.recElems c core r 1 first len = .error e → Answers (.nodeComplete core asid c.id) s fun t => t.mem = s.mem ∧
            shadow t = shadow s ∧ isAt t fun c' => c'.st = .storing ∧ c'.fault = true)
        (c.got.length < n → piece (c.rec_ (fld c.w2 35 32)) (128 * c.got.length) (min 128 (32 * k - 128 * c.got.length))) ∧
        (n ≤ c.got.length → c.got.length < n + m → piece (c.rec_ (fmtBuf (c.fmt f))) (128 * (c.got.length - n)) 128) ∧
        (c.got.length = n + m → Answers (.nodeComplete core asid c.id) s fun t => run t ∧ t.threads = s.threads ∧
          (t.unit asid core).cmd c.id = none ∧ (t.unit asid core).active = u.active ∧ (t.unit asid core).tiles = u.tiles ∧
          (shadow t).valid = true ∧ (shadow t).kb = k ∧ (shadow t).ovf = fld (c.fmt f) 13 12 ∧
          (shadow t).codes = (c.got.take n).flatten.map (BitVec.ofNat 8) ∧
          (shadow t).exps = if fmtScale (c.fmt f) = 1 then (c.got.drop n).flatten.map (fun x => sintOf 8 x + fmtAdj (c.fmt f))
            else List.replicate (128 * ceilDiv k 16) (fmtAdj (c.fmt f)))))

/-- R260, R261, R266, R267, R270, R288 and R289: a step of the contraction that holds the array adds its next plane to the
rows of its mask, block by block: on a row with a link exactly, on another within the ACC48 range, where a sum out of it
and a shift above 15 take the bound of their sign (that of a sum of 0 is the model's choice, notes/assumptions/56), count in
MXSAT and under policy 11 hold an ACCOVF; once it has published it forms the prompt tile of the plane. The Prompter applies the oldest owed
prompt to every holder; a proxy tag that is done retires and its source tag hears of it; a CERED lands its linear
combination on its target; which of several lands first is the model's choice (notes/assumptions/9). Then the tags that are
done retire. A plane with a shift above 15 waits for linked rows of its mask. -/
def Obligations.PlaneAndPromptSteps : Prop :=
  ∀ (s : State) (core asid : Nat),
    let u := s.unit asid core
    let clamp (x : Int) : Int := max (-(2 ^ 47)) (min (2 ^ 47 - 1) x)
    (s.domain asid).starts = true →
    (∀ c d f p, u.q0.find? (fun c => c.st = .started && c.mac.isSome) = some c → c.mac = some (d, f, p) →
      let q := c.next.toNat
      let bs := s.planeBlocks asid core c d q
      let cmdAt (t : State) : Option Cmd := (t.unit asid core).cmd c.id
      let linked (i : Nat) : Bool := (u.tile d).links.any fun l => l.rows.getLsbD i
      -- a cell with the blocks of the plane added, and how often it saturated
      let block (a : Int × Nat) (b : Int × Int) : Int × Nat :=
        let v := a.1 + contribution b.1 b.2
        if 15 < b.2 then if b.1 = 0 then a else (if v < 0 then -(2 ^ 47) else 2 ^ 47 - 1, a.2 + 1)
        else (clamp v, if v = clamp v then a.2 else a.2 + 1)
      let sum (i j : Nat) : Int × Nat :=
        let xs := rd [] (rd [] bs i) j
        let x := (u.tile d).cell i j
        if linked i then (x + (xs.map fun b => contribution b.1 b.2).sum, 0) else xs.foldl block (x, 0)
      let sat := (((List.range 32).filter fun i => c.mask.getLsbD i).map fun i =>
        ((List.range 128).map fun j => (sum i j).2).sum).sum
      (c.ltag = none → ((u.tile d).linked &&& c.mask = 0 ∨ ∀ r ∈ bs, ∀ ps ∈ r, ∀ b ∈ ps, b.2 ≤ 15) → (((u.tile d).addPlane c.mask bs).1.rows.any fun r => r.any fun x => !wideOk x) = false →
        Answers (.benchPlane core asid) s fun t => t.mem = s.mem ∧ t.threads = s.threads ∧
          (∀ i j, i < 32 → j < 128 → ((t.unit asid core).tile d).cell i j =
            if c.mask.getLsbD i then (sum i j).1 else (u.tile d).cell i j) ∧
          ∃ c', cmdAt t = some c' ∧ rd 0 c'.mx 2 = rd 0 c.mx 2 + sat ∧
            c'.late = (if sat ≠ 0 ∧ fld f 13 12 = 3 then some .accovf else c.late) ∧ if q = 0 then c'.st = .storing else c'.st = .started ∧ c'.next = q - 1) ∧
      (∀ g, c.ltag = some g → c.published = true → q ≠ 0 → q ≠ c.pub → u.promptsHeld < 8 →
        Answers (.benchPlane core asid) s fun t => t.mem = s.mem ∧ t.threads = s.threads ∧
          (t.unit asid core).tiles = u.tiles ∧ (∃ c', cmdAt t = some c' ∧ c'.next = q - 1) ∧
          ∃ x : Prompt, (t.unit asid core).prompts = u.prompts ++ [x] ∧ x.tag = g ∧ x.plane = q ∧ x.mask = c.mask ∧
            x.applied = false ∧ ∀ i j, rd 0 (rd [] x.rows i) j =
              ((rd [] (rd [] bs i) j).map fun p => contribution p.1 p.2).sum)) ∧
    (∀ n, findIdx? u.promptOwed u.prompts = some n →
      let p := rd { tag := 0, plane := 0, rows := [], mask := 0 } u.prompts n
      p.remote = [] → ∃ v : State, exec (.promptApply core asid) s = .next (v.retireDone asid core) ∧ v.mem = s.mem ∧
        v.threads = s.threads ∧ (v.unit asid core).tiles = u.tiles.map (fun t => t.applyPrompt p) ∧
        (∀ t i j, i < 32 → j < 128 → (rd [] p.rows i).length = 128 →
          let owed := (u.tile t).links.filter fun k => k.tag = p.tag && k.plane = p.plane + 1 && k.rows.getLsbD i
          ((v.unit asid core).tile t).cell i j = (u.tile t).cell i j + (owed.map (·.coef)).sum * rd 0 (rd [] p.rows i) j) ∧
        ∃ p', (v.unit asid core).prompts[n]? = some p' ∧ p'.applied = true) ∧
    (∀ k target proxy, target ≠ core →
      ((List.range 64).flatMap fun k => (u.tag k).proxies.map fun p => (k, p)).find?
        (fun x => (s.unit asid x.2.1).tagDone x.2.1 x.2.2) = some (k, target, proxy) →
      ∃ v : State, exec (.proxyAck core asid) s = .next (v.retireDone asid core) ∧ v.mem = s.mem ∧
        ((v.unit asid target).tag proxy).live = false ∧
        ((v.unit asid core).tag k).proxies = (u.tag k).proxies.filter (fun p => p ≠ (target, proxy))) ∧
    (∀ c q d op, (turned u.q2 (s.hclk + s.copyTurn)).find? (fun x => decide (x.st = .started) &&
        match x.i with
        | .cered _ _ _ => true
        | _ => false) = some c → c.i = .cered q d op →
      (s.channel asid core (tcore c.w2)).frozen = false →
      let target := tcore c.w2
      let w := s.unit asid target
      let x := w.tile d.toNat
      let f (y z : Int) : Int := match op with
        | .add => y + z
        | .mov => y
        | .sub => z - y
      c.links = [] → x.links = [] → x.covers = [] → w.isSource d.toNat = false →
      ({ w with q2 := w.q2.filter fun y => decide (target ≠ core) || decide (y.id ≠ c.id) } : Unit_).reserved target d.toNat ≤ 4 →
      ∃ v : State, exec (.ceredLand core asid) s = .next ((v.retireDone asid target).retireDone asid core) ∧ v.mem = s.mem ∧
        v.threads = s.threads ∧ (∃ c', (v.unit asid core).cmd c.id = some c' ∧ c'.st = .storing) ∧
        ((v.unit asid target).tile d.toNat).et = x.et ∧
        ∀ i j, i < 32 → j < 128 → ((v.unit asid target).tile d.toNat).cell i j =
          if c.mask.getLsbD i then clamp (f (rd 0 (rd [] c.cells i) j) (x.cell i j)) else x.cell i j)

/-- R100, R298, R299, R300 and R302 to R309: a command of the Pair reads a row of its operands at a step and then has its
effect on the Pair and its tile; a command of the Copy Engine, the one whose turn it is (the model's choice,
notes/assumptions/9), writes a line at a step with the values of its rows; a node whose stores are performed completes: its successor's count falls by one and its byte barrier receives its add,
unless it faulted. A settle stamp of a settled tile sends the add of its record (R362). -/
def Obligations.PairCopyAndNodeSteps : Prop :=
  ∀ (s : State) (core asid : Nat) (c : Cmd),
    let u := s.unit asid core
    let isAt (t : State) (p : Cmd → Prop) : Prop := ∃ c', (t.unit asid core).cmd c.id = some c' ∧ p c'
    let stored (t : State) : Prop := t.mem = s.mem ∧ isAt t fun c' => c'.st = .storing
    let failed (t : State) : Prop := isAt t fun c' => c'.st = .storing ∧ c'.fault = true
    let bits (x : Int) : Word := BitVec.ofInt 32 x
    -- what a step reads and writes is there, and v is the state with its reads counted
    let ready (reads writes : List Range) (v : State) : Prop :=
      let ls := rangeLines reads
      s.cmdPages asid core c .load ls = (s, false) ∧ s.cmdPages asid core c .store (rangeLines writes) = (s, false) ∧
      (∀ va, va ∈ ls → s.lineClear c.lc core c.dom va = true) ∧ 
      v = ls.foldl (fun s va => s.engineLine c.lc c.dom va) s
    -- FP32 operations of the engines, which round to nearest
    let fma (x y z : Word) : Word := (ffma32 .rne x y z).1
    let add (x y : Word) : Word := (fadd32 .rne x y).1
    let mul (x y : Word) : Word := (fmul32 .rne x y).1
    (u.cmd c.id = some c → (s.domain asid).starts = true →
      (u.q1.find? (fun x => x.st = .started) = some c ∨
        u.q1.find? (fun x => x.st = .started) = none ∧ u.head 1 = some c ∧ headStuck c (u.behind 1 c.id) = false ∧
        c.count = 0 ∧ s.tilesFree asid core c = true ∧ ∀ n, c.pairTile = some n → u.settled n = true ∧ u.isSource n = false) →
      let steps (p : State → Prop) : Prop := Answers (.pairCommandStart core asid) s p
      let pair (t : State) : Pair := (t.unit asid core).pair
      let cells (t : State) (d : Nat) (f : Nat → Word → Word) : Prop := ∀ i j, i < 32 → j < 128 →
        ((t.unit asid core).tile d).cell i j = ((f i (bits ((u.tile d).cell i j))).toNat : Int)
      let row (r : BufRec) (first n w : Nat) : Prop := ∀ v, ready (elemRanges r first n w) [] v →
        (∀ xs, v.recElems c core r w first n = .ok xs → steps fun t => t.mem = s.mem ∧ t.threads = s.threads ∧
          t.unit asid core = (v.unit asid core).mapCmd c.id fun x =>
            { x with st := .started, got := x.got ++ [xs], hold := none, denied := [] }) ∧
        (∀ e, v.recElems c core r w first n = .error e → steps fun t => failed t ∧ t.mem = s.mem ∧ pair t = u.pair ∧
          (t.unit asid core).tiles = u.tiles)
      let n := c.got.length
      let d := u.pair.d
      let val (f : FSlot) (r k : Nat) : Word := kvVal (c.fmt f) (rd 0 (rd [] c.got r) k)
      (∀ w, c.i = .apcfg w →
        let limits := decide (fld c.w2 35 34 = 2)
        (limits = true → n = 0 → row (c.rec_ (fld c.w2 39 36)) 0 32 4) ∧
        (n = (if limits then 1 else 0) → steps fun t => stored t ∧
          (pair t).c = c.w2.setWidth 32 ∧ (pair t).mask = fld c.w2 35 34 ∧ (pair t).online = c.w2.getLsbD 33 ∧
          (pair t).d = fld c.w3 39 32 + 1 ∧ (pair t).qpos0 = fld c.w3 31 0 ∧
          (pair t).lim = (if limits then (rd [] c.got 0).map (BitVec.ofNat 32) else u.pair.lim) ∧
          (c.w2.getLsbD 32 = true → ∀ i, i < 32 → rd 0 (pair t).m i = 0xFF800000 ∧ rd 0 (pair t).ls i = 0 ∧
            rd 0 (pair t).rs i = 0x3F800000) ∧
          (c.w2.getLsbD 32 = false → (pair t).m = u.pair.m ∧ (pair t).ls = u.pair.ls ∧ (pair t).rs = u.pair.rs))) ∧
      (∀ w f, c.i = .apqk w f →
        let keys := fld c.w3 37 32
        let kpos := fld c.w3 31 0
        let size := 2 ^ kvSize (c.fmt f)
        (n < 32 → row (c.rec_ (fld c.w2 35 32)) (n * fld c.w2 15 0) d size) ∧
        (32 ≤ n → n < 32 + keys → row (c.rec_ (fld c.w2 39 36)) ((n - 32) * fld c.w2 31 16) d size) ∧
        (n = 32 + keys → (∀ r, r ∈ c.got → r.length = d) → steps fun t => stored t ∧ (pair t).nk = keys ∧
          (t.unit asid core).tiles = u.tiles ∧ (pair t).ls = (if u.pair.online then u.pair.ls else []) ∧ ∀ i, i < 32 →
          let live (j : Nat) : Bool := decide (j < 32) && decide (j < keys) &&
            !(decide (u.pair.mask = 1) && decide (u.pair.qpos0 + i < kpos + j)) &&
            !(decide (u.pair.mask = 2) && decide ((rd 0 u.pair.lim i).toNat ≤ kpos + j))
          let score (j : Nat) : Word :=
            mul ((List.range d).foldl (fun x k => fma (val f i k) (val f (32 + j) k) x) 0) u.pair.c
          let fmax (x y : Word) : Word := w32 (fp32.minMax true x.toNat y.toNat).1
          let old : Word := if u.pair.online then rd 0 u.pair.m i else 0xFF800000
          (∀ j, j < 32 → (rd 0 (pair t).mkeys i).getLsbD j = !live j) ∧
          (((List.range 32).filter live = [] → rd 0 (pair t).m i = old ∧ rd 0 (pair t).rs i = 0x3F800000 ∧
            rd 0 (pair t).bsum i = 0 ∧ ∀ j, j < 32 → rd 0 (rd [] (pair t).p i) j = 0) ∧
          ∀ j0 js, (List.range 32).filter live = j0 :: js →
            let top := js.foldl (fun x j => fmax x (score j)) (score j0)
            let m := fmax old top
            let e (x : Word) : Word := (fexp232 (add x (fneg32 m))).1
            let p (j : Nat) : BitVec 16 := if live j then toBf16 (e (score j)) else 0
            rd 0 (pair t).m i = m ∧ rd 0 (pair t).rs i = e old ∧ (∀ j, j < 32 → rd 0 (rd [] (pair t).p i) j = p j) ∧
            rd 0 (pair t).bsum i = (List.range 32).foldl (fun x j => add x (ofBf16 (p j))) 0))) ∧
      (∀ w d f acc hi, c.i = .appv w d f acc hi →
        (n < u.pair.nk → row (c.rec_ (fld c.w2 39 36)) (n * fld c.w2 15 0) 64 (2 ^ kvSize (c.fmt f))) ∧
        (n = u.pair.nk → (∀ r, r ∈ c.got → r.length = 64) → steps fun t => stored t ∧
          (∀ i, i < 32 → rd 0 (pair t).ls i = if hi then rd 0 u.pair.ls i else add (rd 0 u.pair.ls i) (rd 0 u.pair.bsum i)) ∧
          ∀ i j, i < 32 → j < 128 →
            let base := if hi then 64 else 0
            let keys := (List.range n).filter fun k => !(rd (0 : Mask) u.pair.mkeys i).getLsbD k
            let sum := keys.foldl (fun x k => fma (ofBf16 (rd 0 (rd [] u.pair.p i) k)) (val f k (j - base)) x) 0
            ((t.unit asid core).tile d.toNat).cell i j =
              if base ≤ j ∧ j < base + 64 then
                ((if acc then add (bits ((u.tile d.toNat).cell i j)) sum else sum).toNat : Int)
              else (u.tile d.toNat).cell i j)) ∧
      (∀ w d, c.i = .apresc w d → steps fun t => stored t ∧
        cells t d.toNat (fun i x => mul x (rd 0 u.pair.rs i)) ∧
        ∀ i, i < 32 → rd 0 (pair t).ls i = mul (rd 0 u.pair.ls i) (rd 0 u.pair.rs i) ∧ rd 0 (pair t).rs i = 0x3F800000) ∧
      (∀ w d, c.i = .apnorm w d false → steps fun t => stored t ∧ pair t = u.pair ∧
        cells t d.toNat fun i x => if (dec32 (rd 0 u.pair.ls i)).isZero then 0 else (fdiv32 x (rd 0 u.pair.ls i)).1) ∧
      (∀ w d v v' ids, c.i = .apnorm w d true →
        let r := c.rec_ (fld c.w2 35 32)
        ready [] (elemRanges r 0 64 4) v →
        v.recWrite c core r ((List.range 64).flatMap fun i => (List.range 4).map fun k => ((r.elemOff i 4).1 + k,
          rd 0 (bytesOf 4 (if i < 32 then rd 0 u.pair.m i else rd 0 u.pair.ls (i - 32)).toNat) k)) = (v', ids, none) →
        steps fun t => t.mem = v'.mem ∧ t.stores = v'.stores ∧ (∀ n, (t.lc n).lstash = (v'.lc n).lstash) ∧
          t.threads = v'.threads ∧ t.unit asid core = (v'.unit asid core).mapCmd c.id fun x =>
            { x with st := .storing, stores := ids })) ∧
    (u.cmd c.id = some c → (turned u.q2 (s.hclk + s.copyTurn)).find? (s.copyCan asid core) = some c → (s.domain asid).starts = true →
      (c.st = .started ∨ c.st = .queued ∧ u.head 2 = some c ∧ headStuck c (u.behind 2 c.id) = false ∧ c.count = 0 ∧
        s.tilesFree asid core c = true ∧ (∀ n, c.copyTile = some n → u.settled n = true) ∧
        (u.q2.filter fun x => x.st = .started).length < if s.det c.tid then 1 else 4) →
      let steps (p : State → Prop) : Prop := Answers (.copyCommandStart core asid) s p
      let now (p : Cmd → Cmd) : Prop := steps fun t => t.mem = s.mem ∧ t.threads = s.threads ∧ t.stores = s.stores ∧
        t.unit asid core = u.mapCmd c.id fun x => { p x with st := .started }
      let rowsAre (p : List Nat → List Span → Prop) : Prop := ∀ entry, ∃ xs, s.unitSpans asid core c entry = .ok xs ∧ p entry xs
      let isRow (x : Span) (r : BufRec) (first n w : Nat) : Prop := x.dst = r ∧ x.first = first ∧ x.n = n ∧ x.w = w
      let copies (x : Span) (src : BufRec) (first w : Nat) : Prop := ∀ (v : State) e bs,
        v.recRead c core src (elemBytes src (first + e) w) = .ok bs → x.src v e = .ok { bytes := bs }
      let rotates (x : Span) (src tab : BufRec) (fs fd : Fmt) (first tfirst : Nat) (flip : Bool) : Prop :=
        ∀ (v : State) k a b cs sn, v.recFloat c core src fs (first + 2 * k) = .ok a →
          v.recFloat c core src fs (first + 2 * k + 1) = .ok b →
          v.recElem c core tab (2 * (tfirst + k)) 4 = .ok cs → v.recElem c core tab (2 * (tfirst + k) + 1) 4 = .ok sn →
          let cs := BitVec.ofNat 32 cs
          let sn := if flip then fneg32 (BitVec.ofNat 32 sn) else BitVec.ofNat 32 sn
          let w := 2 ^ typeSize (fmtType fd)
          let out (y : Word) : Nat × Bool × Bool := toSlot fd .rne (dec32 y)
          (∃ p, x.src v (2 * k) = .ok p ∧ p.bytes = bytesOf w (out (rotate a cs (fneg32 b) sn).1).1 ∧
            p.late = (out (rotate a cs (fneg32 b) sn).1).2.2) ∧
          ∃ p, x.src v (2 * k + 1) = .ok p ∧ p.bytes = bytesOf w (out (rotate a sn b cs).1).1 ∧
            p.late = (out (rotate a sn b cs).1).2.2
      -- the end of the command, of a unit, and what a unit reads before its first line
      (∀ w d op, c.i ≠ .cered w d op) →
      (c.copyUnits ≤ c.unit → steps stored) ∧
      (∀ entry, c.unit < c.copyUnits → c.entryHeld = some entry →
        (∀ e, s.unitSpans asid core c entry = .error e → steps failed) ∧
        ∀ xs, s.unitSpans asid core c entry = .ok xs →
          let lines := xs.flatMap fun x => x.lines.map fun l => (x, l)
          (lines.length ≤ c.line → now fun x => { x with unit := x.unit + 1, line := 0, entry := none }) ∧
          ∀ x l v, lines[c.line]? = some (x, l) →
            let on := (List.range x.n).filter fun e =>
              (elemBytes x.dst (x.first + e) x.w).any fun o => decide (lineKey x.dst o = l)
            let offs (e : Nat) : List Nat := (elemBytes x.dst (x.first + e) x.w).filter fun o => lineKey x.dst o = l
            ready (on.flatMap x.reads) (on.flatMap fun e => (offs e).map fun o => (x.dst, o, 1)) v →
            (∀ e a, e ∈ on → x.src v e = .error a → steps failed) ∧
            ∀ (ps : Nat → Piece) v' ids, (∀ e, e ∈ on → x.src v e = .ok (ps e)) →
              v.recWrite c core x.dst (on.flatMap fun e => ((elemBytes x.dst (x.first + e) x.w).zip (ps e).bytes).filter
                fun b => lineKey x.dst b.1 = l) = (v', ids, none) →
              steps fun t => t.mem = v'.mem ∧ t.stores = v'.stores ∧ (∀ n, (t.lc n).lstash = (v'.lc n).lstash) ∧
                t.threads = v'.threads ∧ ∀ c0, (v'.unit asid core).cmd c.id = some c0 → isAt t fun c' =>
                  c'.st = .started ∧ c'.line = c0.line + 1 ∧ c'.stores = c0.stores ++ ids ∧ c'.unit = c0.unit ∧
                  c'.late = if on.any fun e => decide (lineKey x.dst ((elemBytes x.dst (x.first + e) x.w).headD 0) = l) &&
                    (ps e).late then some .cvtovf else c0.late) ∧
      -- the rows of each command
      (∀ w d, c.i = .cecopy w d false → rowsAre fun _ xs => ∃ x, xs = [x] ∧
        isRow x (c.rec_ (fld c.w2 39 36)) (fld c.w3 63 32) (fld c.w2 31 0) 1 ∧
        copies x (c.rec_ (fld c.w2 35 32)) (fld c.w3 31 0) 1) ∧
      (∀ w d, c.i = .cecopy w d true → rowsAre fun _ xs => ∃ x, xs = [x] ∧
        isRow x (c.rec_ (fld c.w2 39 36)) (fld c.w3 63 32) (fld c.w2 31 0) 1 ∧
        ∀ (v : State) e, let o := fld c.w3 31 0 + e
          x.src v e = .ok { bytes := [(BitVec.ofInt 64 (((v.unit asid core).tile d.toNat).cell (o / 8 / 128) (o / 8 % 128))
            ).extractLsb' (8 * (o % 8)) 8] }) ∧
      (∀ w, c.i = .cefill w → rowsAre fun _ xs => ∃ x, xs = [x] ∧ isRow x (c.rec_ (fld c.w2 35 32)) 0 (fld c.w2 31 0) 1 ∧
        ∀ (v : State) e, x.src v e = .ok { bytes := [c.w3.extractLsb' (8 * (e % 8)) 8] }) ∧
      (∀ w fd fs, c.i = .cerope w fd fs → rowsAre fun _ xs => ∃ x, xs = [x] ∧
        let hd := fld c.w2 55 48 + 1
        isRow x (c.rec_ (fld c.w2 43 40)) (c.unit * hd) hd (2 ^ typeSize (fmtType (c.fmt fd))) ∧
        rotates x (c.rec_ (fld c.w2 39 36)) (c.rec_ (fld c.w2 47 44)) (c.fmt fs) (c.fmt fd) (c.unit * hd)
          ((fld c.w3 31 0 + c.unit) * (hd / 2)) false) ∧
      (∀ w f rot, c.i = .cepatch w f rot →
        let r := c.rec_ (fld c.w2 39 36)
        let hd := fld c.w2 31 24 + 1
        let size := 2 ^ typeSize (fmtType (c.fmt f))
        let delta := sfld c.w3 23 0
        let page := 2 ^ fld c.w2 47 44
        let old := fld c.w2 23 0 + if delta > 0 then fld c.w2 63 48 - 1 - c.unit else c.unit
        let new := ((old : Int) + delta).toNat
        let pl := c.rec_ (fld c.w2 35 32)
        (∀ n, n = old / page ∨ n = new / page → c.unit < c.copyUnits → c.entry = none → s.reachTrap c pl n 1 4 ≠ none → steps failed) ∧
        (∀ v ps, c.unit < c.copyUnits → c.entry = none → ready (elemRanges pl (old / page) 1 4 ++ elemRanges pl (new / page) 1 4) [] v →
          s.reachTrap c pl (old / page) 1 4 = none → s.reachTrap c pl (new / page) 1 4 = none →
          [old / page, new / page].mapM (fun n => v.recElem c core pl n 4) = .ok ps → steps fun t => t.mem = s.mem ∧
            t.threads = s.threads ∧ t.unit asid core = (v.unit asid core).mapCmd c.id fun x =>
              { x with st := .started, entry := some ps, hold := none, denied := [] }) ∧
        ∀ p q, let a := p * page + old % page
          let b := q * page + new % page
          s.reachTrap c r (a * hd) hd size = none → s.reachTrap c r (b * hd) hd size = none →
          ∃ x, s.unitSpans asid core c [p, q] = .ok [x] ∧ isRow x r (b * hd) hd size ∧
            if rot then rotates x r (c.rec_ (fld c.w2 43 40)) (c.fmt f) (c.fmt f) (a * hd) (delta.natAbs * (hd / 2)) (delta < 0)
            else copies x r (a * hd) size) ∧
      (∀ w fd fs, c.i = .cereq w fd fs → rowsAre fun _ xs =>
        let fd := c.fmt fd
        let fs := c.fmt fs
        let len := fld c.w2 15 0
        let width := typeBits (fmtType fd)
        let per := max 1 (8 / width)
        let size := max 1 (width / 8)
        let blocks := ceilDiv len 16
        ∃ codes rest, xs = codes :: rest ∧ isRow codes (c.rec_ (fld c.w2 39 36)) (c.unit * (len / per)) (len / per) size ∧
          (fmtScale fd ≠ 1 → rest = []) ∧
          ∀ (v : State) (y : Nat → Val) (mx : Nat → List Nat), (∀ e, e < len → v.reqValue c core fs c.unit e len = .ok (y e, mx e)) →
            let exp (g : Nat) : Int := if fmtScale fd = 1 then blockExp fd ((blockElems g len).map y) else 0
            let code (e : Nat) : Nat × Bool × Bool := toSlot fd (fmtRnd fd) ((y e).scale (-(exp (e / 16) + fmtAdj fd)))
            (∀ k, k < len / per → ∃ p, codes.src v k = .ok p ∧
              p.bytes = bytesOf size (((List.range per).map fun i => (code (k * per + i)).1 * 2 ^ (i * width)).sum) ∧
              (p.late = true ↔ ∃ i, i < per ∧ (code (k * per + i)).2.2 = true)) ∧
            (fmtScale fd = 1 → ∃ ex, rest = [ex] ∧ isRow ex (c.rec_ (fmtBuf fd)) (c.unit * blocks) blocks 1 ∧
              ∀ g, g < blocks → ex.src v g = .ok { bytes := [BitVec.ofInt 8 (exp g)] })) ∧
      (∀ w, c.i = .celist w →
        let list := c.rec_ (fld c.w2 35 32)
        let first := fld c.w3 31 0 + 32 * c.unit
        (∀ v bs, c.unit < c.copyUnits → c.entry = none → ready (elemRanges list first 32 1) [] v →
          v.recElems c core list 1 first 32 = .ok bs → steps fun t => t.mem = s.mem ∧ t.threads = s.threads ∧
            t.unit asid core = (v.unit asid core).mapCmd c.id fun x =>
              { x with st := .started, entry := some bs, hold := none, denied := [] }) ∧
        ∀ entry xs, s.unitSpans asid core c entry = .ok xs →
          let word (o : Nat) : Nat := leAt (entry.map (BitVec.ofNat 8)) o 4
          let ctl : Word := BitVec.ofNat 32 (word 0)
          let rp : Word := BitVec.ofNat 32 (word 0x14)
          let src := c.rec_ (fld ctl 7 4)
          let dst := c.rec_ (fld ctl 11 8)
          let hd := fld rp 7 0 + 1
          fld ctl 15 15 = 0 ∧ fld ctl 31 19 = 0 ∧ fld rp 31 12 = 0 ∧
          (fld ctl 3 0 = 0 ∧ (∃ x, xs = [x] ∧ isRow x dst (word 0xC) (word 4) 1 ∧ copies x src (word 8) 1) ∨
            fld ctl 3 0 = 1 ∧ xs.length = word 4 ∧ ∀ t x, xs[t]? = some x →
              let fd := rd 0 c.fmts (fld ctl 18 16)
              isRow x dst (word 0xC + t * hd) hd (2 ^ typeSize (fmtType fd)) ∧
              rotates x src (c.rec_ (fld rp 11 8)) (rd 0 c.fmts (fld ctl 14 12)) fd (word 8 + t * hd)
                ((word 0x10 + t) * (hd / 2)) false))) ∧
    (∀ w d op, u.cmd c.id = some c → (turned u.q2 (s.hclk + s.copyTurn)).find? (s.copyCan asid core) = some c → (s.domain asid).starts = true → c.st = .queued →
      u.head 2 = some c → headStuck c (u.behind 2 c.id) = false → c.count = 0 → s.tilesFree asid core c = true →
      (u.q2.filter fun x => x.st = .started).length < (if s.det c.tid then 1 else 4) → c.i = .cered w d op →
      (u.tile (srcA c.w2)).links = [] → (tcore c.w2 = core → (u.tile d.toNat).links = [] ∧ u.isSource d.toNat = false ∧
        u.reserved core d.toNat ≤ 4) →
      (channelOf core (tcore c.w2) ≠ none → (s.channel asid core (tcore c.w2)).frozen = false ∧
        (s.channel asid core (tcore c.w2)).permits ≠ 0) →
      Answers (.copyCommandStart core asid) s fun t =>
        t.mem = s.mem ∧ t.threads = s.threads ∧ (t.unit asid core).tiles = u.tiles ∧ isAt t fun c' => c'.st = .started ∧
          c'.links = [] ∧ c'.et = (u.tile (srcA c.w2)).et ∧
          ∀ i j, i < 32 → j < 128 → rd 0 (rd [] c'.cells i) j = (u.tile (srcA c.w2)).cell i j) ∧
    (∀ (r : BufRec) o b,
      -- what writing a byte does: to the launch's stash area, or as a store of the core
      (r.stash = true → r.base % 2 ^ 21 < 2 ^ 20 → Memory.wf (s.lc (s.thread c.tid).lc).lstash = true →
        ∃ v, s.recWrite c core r [(o, b)] = (v, [], none) ∧ v.mem = s.mem ∧ v.stores = s.stores ∧ ∀ a,
          memGet (v.lc (s.thread c.tid).lc).lstash a =
            if a = r.base % 2 ^ 20 + o then b else memGet (s.lc (s.thread c.tid).lc).lstash a) ∧
      (∀ p, let va := r.base + o
        r.stash = false → va < 2 ^ 57 → s.translate c.lc c.dom (lineOf va) .store = .ok p →
        s.windowAt c.lc c.dom (lineOf va) = none → ∃ v e, s.recWrite c core r [(o, b)] = (v, [s.stores.length], none) ∧
          v.mem = s.mem ∧ v.stores = s.stores ++ [e] ∧ e.line = lineOf p ∧ e.core = core ∧ e.kind = .plain ∧ e.live = true ∧
          ∀ i, cellAt e.bytes i = if i = va % 128 then some b else none)) ∧
    (u.cmd c.id = some c → (s.domain asid).goes = true → c.st = .storing →
      (∀ n x, n ∈ c.stores → s.stores[n]? = some x → x.wctBack = true ∧ x.perf + 4 ≤ s.coreClock core) →
      let v := u.dropCmd c.id
      (c.succ0 = 0 → c.succ1 = 0 → c.mx = [] → c.late = none →
        (c.fault = true ∨ c.bbcount = 0 → Answers (.nodeComplete core asid c.id) s fun t =>
          t.threads = s.threads ∧ t.stores = s.stores ∧ t.unit asid core = v) ∧
        (∀ p, c.fault = false → c.bbcount ≠ 0 → s.windowAt c.lc c.dom c.bbaddr = none →
          (s.domain c.dom).page c.bbaddr = some p → p.r = true → p.w = true → s.cmdPage asid core c c.bbaddr .atomic = (s, false) →
          Answers (.nodeComplete core asid c.id) s fun t => t.threads = s.threads ∧
            t.unit asid core = v ∧ ∃ e : Store, t.stores = s.stores ++ [e] ∧ e.live = true ∧
              e.line = lineOf (p.pa + c.bbaddr % 2 ^ p.log) ∧
              e.kind = .add ((p.pa + c.bbaddr % 2 ^ p.log) % 128) c.bbcount)) ∧
      (∀ x, c.succ0 ≠ 0 → c.succ1 = 0 → c.mx = [] → c.late = none → c.bbcount = 0 → v.node c.lc c.succ0 = some x →
        x.count ≠ 0 → Answers (.nodeComplete core asid c.id) s fun t => t.threads = s.threads ∧ t.stores = s.stores ∧
          t.unit asid core = v.mapCmd x.id fun x => { x with count := x.count - 1 })) ∧
    (∀ lc p q l, let y := s.lc lc
      (s.domain y.asid).goes = true → y.adds = [] → y.stamps.find? (s.stampReady y) = some p →
      s.launch? y.launch = some l → l.stampbuf % 8 = 0 → s.poisoned q = false → (s.domain y.asid).page l.stampbuf ≠ none →
      s.translate lc y.asid l.stampbuf .atomic = .ok q →
      Answers (.stampSettleWrite lc) s fun t => t.mem = s.mem ∧
        (t.lc lc).stamps = y.stamps.erase p ∧
        (∃ e : Store, t.stores = s.stores ++ [e] ∧ e.live = true ∧ e.line = lineOf q ∧ e.kind = .add (l.stampbuf % 128) 1 ∧
          e.tids = [p.tid]) ∧
        (t.lc lc).adds = [⟨s.stores.length, p.tid,
          stampBytes (p.at_.getD (s.coreClock y.core)) 1 p.tile y.core p.id (s.thread p.tid).waveid p.curtag⟩])

/-! ### Regions and gates between words -/

/-- R310 to R315, R319 to R324, R327 and R342 to R344: a region opens when its waves have all issued equal RLXBEGs; its
first pass gives each step its guess and starts its lanes; a verified pass settles steps and begins another, or ends the
region with the code of the first end test that holds; a closed region records its status and its held lanes go on behind
RLXEND. A gate return gives the caller v0 to v3, w0 without its low byte and w1; a used-up budget ends the activation
with status 2 and one record, which names the word at which it stands. -/
def Obligations.RegionAndGateSteps : Prop :=
  ∀ (s : State) (core asid z tid : Nat),
    let u := s.unit asid core
    let o := s.thread tid
    let bare (s : State) : List Store := s.stores.map fun y => { y with late := {} }
    (∀ ws d r, s.regionCtx core = none →
      (indices (fun t => t.alive && t.core = core && t.rlx.isSome) s.threads).findSome?
        (fun z => if (s.domain (s.ctxOf z)).starts then (s.readyWaves z).map fun w => (z, w) else none) = some (z, ws, d, r) →
      let t0 := s.thread z
      let c : State := { s with cur := issueOf z t0 0 0 }
      let ps : Lanes := (List.range (descS d)).map fun i => (i, c.checkAccess t0 r (descSidx d + i) 4 .load r.stash)
      c.reserve ps = c → c.judge t0.lc ps .load = [] → (∀ p, p ∈ ps → c.stashFlawed z p.2 4 = false) →
      Answers (.regionOpen core) s fun t =>
        t.mem = s.mem ∧ t.threads = s.threads ∧ t.cur = s.cur ∧ ∃ q : Region, (t.unitOf z).region = some q ∧ q.desc = d ∧
          q.record = r ∧ q.waves = ws ∧ q.lc = t0.lc ∧ q.st = .opening ∧ q.sc = 0 ∧ q.pc = 0 ∧
          q.steps = List.replicate (descN d) {} ∧ q.wants.length = descS d) ∧
    (∀ q, s.regionGoes core = some asid → u.region = some q →
      (q.st = .opening → (∀ w, w ∈ q.wants → w.1 = none) → q.pc = 0 → q.sc = 0 → q.waves.Nodup →
        q.starts.length = q.waves.length → Answers (.regionStart core) s fun t =>
          let x0 := q.wants.map fun w => BitVec.ofNat 32 w.2
          t.mem = s.mem ∧ (∃ q', (t.unit asid core).region = some q' ∧ q'.st = .pass ∧ q'.pc = 1 ∧ q'.x0 = x0 ∧
            q'.steps.length = q.steps.length ∧
            ∀ k, k < q.steps.length → rd {} q'.steps k = { g := openGuess u.gs q.desc x0 k }) ∧
          ∀ i k, q.waves[k]? = some i → ∀ l, l < 32 → (t.thread i).lane l =
            if 32 * k + l < q.steps.length then { (s.thread i).lane l with hold := .no }
            else if ((s.thread i).lane l).st = .live then { (s.thread i).lane l with hold := .region }
            else (s.thread i).lane l) ∧
      (q.st = .pass → s.passOver q = true →
        let confl := (List.range (descN q.desc)).map fun t => t ≥ q.sc && s.conflicts q.steps t
        let bad (t : Nat) : Bool := (rd {} q.steps t).faulted || rd false confl t
        let k := settledFrom q.desc q.steps bad q.sc (descN q.desc - q.sc) q.sc
        let res := largestResid q.desc q.steps bad q.sc
        let mark := if q.trap then false else (relaxScan q.desc q.x0 q.steps bad k).2
        Answers (.relaxVerify core) s fun t => t.mem = s.mem ∧ q.sc ≤ k ∧
          (∀ n, q.sc ≤ n → n < k → bad n = false ∧
            (n = q.sc ∨ matchState q.desc (rd {} q.steps n).g (rd {} q.steps (n - 1)).f = true)) ∧
          ∃ q', (t.unit asid core).region = some q' ∧ q'.resid = res ∧ q'.adv = k - q.sc ∧
            match endCode q k (fun t => rd false confl t) mark res with
            | none => q'.st = .pass ∧ q'.sc = k ∧ q'.pc = q.pc + 1
            | some c => q'.st = .commit ∧ q'.code = c ∧ q'.k = (if q.trap then q.sc else k) ∧
                q'.first = if c = 0 then descN q.desc else if (rd 0 q.desc 0).getLsbD 28 || q.trap then 0 else k) ∧
      (∀ pc, q.st = .commit → q.toSend = [] → s.commitOut q = [] → q.rlxend = some pc → q.starts.length = q.waves.length →
        Answers (.regionClose core) s fun t => t.mem = s.mem ∧ t.stores = s.stores ∧ (t.unit asid core).region = none ∧
          (t.lc q.lc).rlxst = q.status ∧
          (∀ i, i ∉ q.waves → t.thread i = s.thread i) ∧
          ∀ i l, i ∈ q.waves → l < 32 →
            let n := BitVec.ofNat 32 (3 * (pc / 3 + 1))
            (t.thread i).lane l = if ((s.thread i).lane l).hold = .region then
                { (s.thread i).lane l with hold := .no, pc := n, npc := n, kept := none }
              else (s.thread i).lane l)) ∧
    (∀ b bs, o.acts = b :: bs → o.alive = true → o.stopped = false →
      (s.calleeAtoms tid o.gdepth = true → exec (.gateReturn tid) s = .next s) ∧
      (s.nonePending tid = true → s.calleeAtoms tid o.gdepth = false → (b.budget = 0 ∨ o.wtime - b.wstart ≤ b.budget) → (∀ l, l < 32 → b.act.getLsbD l = true → (o.lane l).hold = .retg ∨ (o.lane l).st ≠ .live) →
        Answers (.gateReturn tid) s fun t => t.mem = s.mem ∧ bare t = bare s ∧ (∀ k, k ≠ tid → t.thread k = s.thread k) ∧
          (t.core o.core).windows = (s.core o.core).windows - 1 ∧ (t.thread tid).acts = bs ∧ (t.thread tid).b = b.b ∧
          (t.thread tid).dom = b.dom ∧ (t.thread tid).regs = b.regs ∧ (t.thread tid).fflags = b.fflags ∧
          (t.thread tid).evp = b.evp ∧ (t.thread tid).run = none ∧
          (∀ n, rd 0 (t.thread tid).w n = if n = 0 then rd 0 o.w 0 &&& ~~~0xFF else if n = 1 then rd 0 o.w 1
            else if n < 4 then 0 else rd 0 b.w n) ∧
          ∀ l, l < 32 → if b.act.getLsbD l then
              ((t.thread tid).lane l).pc = b.ret ∧ (o.isLead = false → ∀ n, rd 0 ((t.thread tid).lane l).v n =
                if n < 4 then rd 0 (o.lane l).v n else if n < 8 then 0 else rd 0 (rd {} b.lanes l).v n)
            else (t.thread tid).lane l = { rd {} b.lanes l with acq := (o.lane l).acq, latch := [] }) ∧
      (b.budget ≠ 0 → b.budget < o.wtime - b.wstart → (s.domain (s.ctxOf tid)).running = true → Answers (.gateTimeout tid) s fun t => t.mem = s.mem ∧
        bare t = bare s ∧ (∀ k, k ≠ tid → t.thread k = s.thread k) ∧
        (t.core o.core).windows = (s.core o.core).windows - 1 ∧ (t.thread tid).acts = bs ∧ (t.thread tid).dom = b.dom ∧
        rd 0 (t.thread tid).w 0 = 2 ∧ ∃ x : FaultRec, (t.domain o.dom).records = (s.domain o.dom).records ++ [x] ∧
          x.code = .gate ∧ x.detail = 3 ∧ x.kind = 3 ∧ x.domain = o.dom ∧ x.pc = BitVec.ofNat 32 o.standsAt ∧
          x.word = if o.runEnded.run.any (fun r => r.base ≤ o.standsAt && o.standsAt < r.base + r.code.length) then
            o.wordAt o.standsAt else s.wordOf o o.standsAt))

/-! ### Contexts, clocks and resets -/

/-- R23, R35, R353, R366, R367, R379, R385 and R390: pre-emption stops a context's threads, and switches it out once
nothing of theirs is on its way and its engines stand at their checkpoints; restoring lets them go on; a schedule entry whose time has come names the running gang;
an armed stop halts the context and writes its header; a sample is written for each thread of the core; the governor sets
a die's clock; a power-on reset keeps no domain, launch or thread, and a function-level reset destroys every domain. That
gang 0 runs then, with no schedule and no function's record kept, and that memory reads 0, are the model's choices
(notes/assumptions/40 and 3), and so is that an entry which names a gang that the host alone switches is passed over
(notes/assumptions/90). -/
def Obligations.ContextAndResetSteps : Prop :=
  ∀ (s : State) (asid core die clk fn fail : Nat) (time : Option Nat) (cores : BitVec 192),
    let d := s.domain asid
    let mine := s.ctxThreads asid
    (d.alive = true → d.wing = false → d.running = true → s.stopFirst asid = false →
      (s.allStopped asid = false ∨ d.halting = false → Answers (.contextPreempt asid) s fun t => t.mem = s.mem ∧
        t.stores = s.stores ∧ t.domain asid = { d with halting := true } ∧ (∀ a, a ≠ asid → t.domain a = s.domain a) ∧ ∀ i, t.thread i = if i ∈ mine then { s.thread i with stopped := true } else s.thread i) ∧
      (s.allStopped asid = true → d.halting = true → s.returnsOut asid = true ∨ s.atCheckpoints asid = false → exec (.contextPreempt asid) s = .next s) ∧
      (s.allStopped asid = true → d.halting = true → s.returnsOut asid = false → s.atCheckpoints asid = true →
        Answers (.contextPreempt asid) s fun t => (t.domain asid).running = false ∧ (t.domain asid).halting = false ∧ ∀ i, (t.thread i).lanes = (s.thread i).lanes ∧ (t.thread i).w = (s.thread i).w ∧
          (t.thread i).run = (s.thread i).run ∧ (t.thread i).stopped = (s.thread i).stopped)) ∧
    (s.switching = none → d.alive = true → d.wing = false → d.running = false → d.gang = s.gang → s.mayReturn asid = true →
      s.stopFirst asid = false → Answers (.contextRestore asid) s fun t => t.mem = s.mem ∧ t.stores = s.stores ∧
        t.domain asid = { d with running := true, sampleFrom := s.hclk } ∧
        ∀ i, t.thread i = if i ∈ mine then { s.thread i with stopped := false } else s.thread i) ∧
    (∀ n g rest, s.switching = none → s.schedule = (n, g) :: rest →
      (s.hclk < n → exec .gangSwitch s = .next s) ∧
      (n ≤ s.hclk → s.hostSwitches s.gang = false → s.hostSwitches g = true → exec .gangSwitch s = .next { s with schedule := rest }) ∧
      (n ≤ s.hclk → s.hostSwitches s.gang = false → s.hostSwitches g = false → s.switchedIn = [] → Answers .gangSwitch s fun t =>
        t.gang = g ∧ t.schedule = rest ∧ t.switching = none ∧ t.mem = s.mem)) ∧
    (let due (i : Nat) : Prop := i ∈ mine ∧ (s.thread i).stopped = false ∧ d.stopAt ≤ s.coreClock (s.thread i).core;
      d.alive = true → d.stop = .armed → d.running = true →
      (∀ j, due j → Answers (.debugStop asid) s fun t => t.mem = s.mem ∧ t.stores = s.stores ∧
        (∀ i, due i → t.thread i = { s.thread i with stopped := true }) ∧ (∀ i, ¬ due i → t.thread i = s.thread i) ∧
        (t.domain asid).stop = .armed ∧ ∃ n, (t.domain asid).stopClk = some n ∧ s.coreClock (s.thread j).core ≤ n) ∧
      ((∀ i, ¬ due i) → (s.hclk < d.stopAt ∨ (∃ k, k ∈ s.ctxCores asid ∧ s.coreClock k < d.stopAt) ∨ s.returnsOut asid = true) →
        exec (.debugStop asid) s = .next s) ∧
      ((∀ i, ¬ due i) → d.stopAt ≤ s.hclk → (∀ k, k ∈ s.ctxCores asid → d.stopAt ≤ s.coreClock k) →
        s.returnsOut asid = false → let area := [(hostPlace d.stopArea, d.storsize + 64)]
        (d.halting = false → Answers (.debugStop asid) s fun t => t = { s with domains := t.domains } ∧
          t.domain asid = { d with halting := true } ∧ ∀ a, a ≠ asid → t.domain a = s.domain a) ∧
        (d.halting = true → s.atCheckpoints asid = false ∨ s.outClear area = false → exec (.debugStop asid) s = .next s) ∧
        (d.halting = true → s.atCheckpoints asid = true → s.outClear area = true → Memory.wf s.mem = true → Answers (.debugStop asid) s fun t => (t.domain asid).stop = .stopped ∧ (t.fn d.fn).cause.getLsbD 4 = true ∧ ∃ n,
          memGetN t.mem (hostPlace d.stopArea) 24 = bytesOf 8 n ++ bytesOf 8 d.stopAt ++ bytesOf 8 1 ∧
          (∀ k, k ∈ s.busyCores asid → s.coreClock k ≤ n) ∧
          ∀ m, d.stopClk = some m → m ≤ n ∧ (s.busyCores asid = [] → n = m)))) ∧
    (let tick := (max d.sampleFrom (s.unit asid core).sampled / max 1 d.period + 1) * max 1 d.period;
      d.alive = true → d.sampling = true → d.debug = true → d.running = true →
      (s.coreClock core < tick → exec (.pcSample asid core) s = .next s) ∧
      (tick ≤ s.coreClock core → Answers (.pcSample asid core) s fun t => t.threads = s.threads ∧
        t.stores = s.stores ∧ (t.unit asid core).sampled = tick ∧
        ((∀ o, o ∈ s.threads → o.alive = true → o.core = core → (s.lc o.lc).asid ≠ asid) → t.mem = s.mem) ∧
        (t.domain asid).smTail + (t.domain asid).smDrop = d.smTail + d.smDrop +
          s.threads.countP (fun o => o.alive && o.core = core && (s.lc o.lc).asid = asid))) ∧
    (die < 4 → clk ≤ 24 → Answers (.clockRateChange die clk) s fun t => t = { s with dies := t.dies } ∧
      t.die die = { s.die die with clk := clk } ∧ ∀ k, k ≠ die → t.die k = s.die k) ∧
    (¬(die < 4 ∧ clk ≤ 24) → exec (.clockRateChange die clk) s = .next s) ∧
    (Answers (.powerOnReset fail time cores) s fun t => t.domains = [] ∧ t.launches = [] ∧ t.threads = [] ∧ t.stores = [] ∧
      t.reqs = [] ∧ t.lcs = [] ∧ t.fns = [] ∧ (∀ a, a < 2 ^ 64 → memGet t.mem a = 0) ∧
      (fail = 0 ∨ 7 < fail → t.bringUp = 8 ∧ t.failed = 0 ∧ t.enabled = cores ∧ t.hclk = time.getD 0 % 2 ^ 64 ∧
        t.fwmeas = Config.fwMeas) ∧
      (1 ≤ fail → fail ≤ 7 → t.bringUp = fail ∧ t.failed = fail)) ∧
    (s.bringUp = 8 → Answers (.functionLevelReset fn) s fun t => (∀ a, (t.domain a).alive = false) ∧ t.fn fn = {} ∧
      t.bringUp = 8 ∧ t.gang = 0 ∧ t.schedule = [] ∧ t.switching = none)

/-! ### The host -/

/-- R338, R374 to R377, R380, R384, R386 and R389: a command ends with its status, CMDDONE counts it, BUSY and CAUSE say
so; a block with a reserved byte ends BADCMD (1), one of a domain that the function does not reach BADCTX (2). CREATE
gives the lowest free ASID a domain, DESTROY ends all that is of it, and SETMODE, SETGATES, REGCODE, OBSERVE, INSTALL,
UNMAP and RESERVE set what they name. Which checks end a command with which status where the table does not say is the
model's choice (notes/assumptions/38), RESERVE's FAULT for a pool that the device cannot reach among them. -/
def Obligations.HostDomainCommands : Prop :=
  ∀ (s : State) (fn : Nat) (b : List Byte),
    let asid := leAt b 4 2
    let arg (n : Nat) : Nat := leAt b (8 + 8 * n) 8
    let d := s.domain asid
    let pending (op : Nat) : Prop := s.bringUp = 8 ∧ (s.fn fn).pending = some b ∧ leAt b 0 4 = op
    let clean (n : Nat) : Prop := leAt b 6 2 = 0 ∧ ∀ k, n ≤ k → k < 7 → arg k = 0
    let mayAct : Prop := d.reachedBy fn = true ∧ (isPhysical d.fn = true ∨ d.tdiRun = true)
    let ended (x : Nat) (t : State) : Prop := (t.fn fn).busy = false ∧ (t.fn fn).pending = none ∧
      (t.fn fn).status = BitVec.ofNat 8 x ∧ (t.fn fn).done = (s.fn fn).done + 1 ∧ (t.fn fn).cause = (s.fn fn).cause ||| 1
    let only (t : State) : Prop := t = { s with domains := t.domains, fns := t.fns } ∧
      ∀ k, k ≠ asid → t.domain k = s.domain k
    let extended (xs : List Byte) : List Byte := sized 32 (Config.sha256 (d.ctxmeas ++ sized 32 (Config.sha256 xs)))
    (∀ i op n, (i, op, n) ∈ [(Instr.destroy fn, 2, 0), (.setmode fn, 3, 1), (.setgates fn, 4, 2), (.regcode fn, 5, 2),
        (.observe fn, 6, 3), (.install fn, 7, 3), (.unmap fn, 8, 2), (.reserve fn, 9, 4), (.switch fn, 10, 1),
        (.schedule fn, 11, 2), (.armstop fn, 12, 3), (.release fn, 13, 0), (.laneop fn, 14, 3), (.attest fn, 15, 2),
        (.weights fn, 16, 1), (.regqueue fn, 17, 2)] → pending op →
      (¬clean n → Answers i s fun t => t = { s with fns := t.fns } ∧ ended 1 t) ∧
      (op ∈ [2, 5, 9, 13, 15, 16] → clean n → d.reachedBy fn = false →
        Answers i s fun t => t = { s with fns := t.fns } ∧ ended 2 t)) ∧
    (pending 1 → clean 2 → asid = 0 → arg 1 ≤ 3 → arg 0 % 64 = 0 → s.sysOk (arg 0) 256 = false →
      Answers (.create fn) s fun t => t = { s with fns := t.fns } ∧ ended 6 t) ∧
    (∀ a, pending 1 → clean 2 → asid = 0 → arg 1 ≤ 3 → arg 0 % 64 = 0 → s.sysOk (arg 0) 256 = true →
      let c := memGetN s.mem (hostPlace (arg 0)) 256
      let wing := decide (arg 1 / 2 % 2 = 1)
      (blockOk c = false → Answers (.create fn) s fun t => t = { s with fns := t.fns } ∧ ended 1 t) ∧
      (blockOk c = true → s.freeAsid = some a → storageNeeded wing ≤ leAt c 8 8 →
        leAt c 0 8 + leAt c 8 8 ≤ Config.deviceBytes → Answers (.create fn) s fun t =>
          t = { s with domains := t.domains, fns := t.fns } ∧ ended 0 t ∧ (t.fn fn).result = BitVec.ofNat 16 a ∧
          (s.domain a).alive = false ∧ (∀ k, 0 < k → k < a → (s.domain k).alive = true) ∧
          (∀ k, k ≠ a → t.domain k = s.domain k) ∧
          let e := t.domain a
          e.alive = true ∧ e.wing = wing ∧ e.debug = decide (arg 1 % 2 = 1) ∧ e.fn = fn ∧ e.block = arg 0 ∧
          e.storage = leAt c 0 8 ∧ e.storsize = leAt c 8 8 ∧ e.ptroot = leAt c 16 8 ∧ e.gang = leAt c 24 1 ∧
          e.fqBase = leAt c 32 8 ∧ e.fqDepth = leAt c 40 4 ∧ e.trBase = leAt c 64 8 ∧ e.trDepth = leAt c 72 4 ∧
          e.smBase = leAt c 104 8 ∧ e.smDepth = leAt c 112 4 ∧ e.mqBase = leAt c 144 8 ∧ e.mqDepth = leAt c 152 4 ∧
          e.ctxmode = 0 ∧ e.pages = [] ∧ e.queues = [] ∧ e.units = [] ∧ e.ctxmeas = List.replicate 32 0) ∧
      (blockOk c = true → s.freeAsid = none → Answers (.create fn) s fun t => t = { s with fns := t.fns } ∧ ended 4 t)) ∧
    (pending 2 → clean 0 → d.reachedBy fn = true → Answers (.destroy fn) s fun t => ended 0 t ∧ t.domain asid = { fallen := d.wing } ∧
      (∀ i, (s.lc (s.thread i).lc).asid = asid → (t.thread i).alive = false) ∧
      (∀ i, (t.thread i).alive = true → (t.thread i).hasActIn asid = false) ∧
      ∀ x, x ∈ t.lcs → x.live = true → x.asid ≠ asid) ∧
    (pending 3 → clean 1 → arg 0 < 32 → mayAct →
      (d.running = false ∨ d.wing = true → Answers (.setmode fn) s fun t => ended 0 t ∧ only t ∧
        t.domain asid = { d with ctxmode := BitVec.ofNat 64 (arg 0) }) ∧
      (d.running = true → d.wing = false → Answers (.setmode fn) s fun t => t = { s with fns := t.fns } ∧ ended 3 t)) ∧
    -- v is the state with what the device has read counted
    (let read (n : Nat) (v : State) (xs : List Byte) : Prop :=
        s.deviceClear asid (arg 0) n = true ∧ s.deviceReads asid (arg 0) n = (v, some xs)
      let sets (v t : State) (e : Domain) : Prop := ended 0 t ∧ t = { v with domains := t.domains, fns := t.fns } ∧
        t.domain asid = e ∧ ∀ k, k ≠ asid → t.domain k = v.domain k
      (∀ v xs, pending 4 → clean 2 → arg 0 % 64 = 0 → arg 1 ≤ 128 → mayAct → read (64 * arg 1) v xs →
        Answers (.setgates fn) s fun t =>
          sets v t { v.domain asid with gates := arg 0, gtsize := arg 1, ctxmeas := extended xs }) ∧
      (∀ v xs, pending 5 → clean 2 → mayAct → read (arg 1) v xs → Answers (.regcode fn) s fun t =>
        sets v t { v.domain asid with ctxmeas := extended xs })) ∧
    (pending 6 → clean 3 → arg 0 ≤ 3 → arg 2 < 2 ^ 32 → 10 ≤ arg 1 → arg 1 ≤ 30 → mayAct →
      (d.debug = false → (arg 0 ≠ 0 ∨ arg 2 ≠ 0) → Answers (.observe fn) s fun t => t = { s with fns := t.fns } ∧ ended 5 t) ∧
      (d.debug = true → d.trDepth ≠ 0 → d.smDepth ≠ 0 → Answers (.observe fn) s fun t => ended 0 t ∧ only t ∧
        (t.domain asid).tracing = decide (arg 0 % 2 = 1) ∧ (t.domain asid).sampling = decide (arg 0 / 2 = 1) ∧
        (t.domain asid).period = 2 ^ arg 1 ∧ (t.domain asid).sampleFrom = s.hclk ∧
        (t.domain asid).codes = [arg 2 % 256, arg 2 / 2 ^ 8 % 256, arg 2 / 2 ^ 16 % 256, arg 2 / 2 ^ 24 % 256])) ∧
    (let log := if arg 2 % 4 = 0 then 16 else if arg 2 % 4 = 1 then 21 else 30;
      pending 7 → clean 3 → mayAct → arg 2 < 32 → arg 2 % 4 ≠ 3 → arg 0 % 2 ^ log = 0 → arg 1 % 2 ^ log = 0 → arg 0 < 2 ^ 57 →
      (∀ p, p ∈ d.pages → p.va % 2 ^ p.log = 0) → Answers (.install fn) s fun t => ended 0 t ∧ t.mem = s.mem ∧
        (t.domain asid).page (arg 0) = some ⟨arg 0, log, installPlace b, decide (arg 2 / 4 % 2 = 1), decide (arg 2 / 8 % 2 = 1)⟩) ∧
    (let log := if arg 1 = 0 then 16 else if arg 1 = 1 then 21 else 30;
      pending 8 → clean 2 → mayAct → arg 1 ≤ 2 → arg 0 % 2 ^ log = 0 → arg 0 < 2 ^ 57 → (s.fn fn).phase = 0 →
      (∀ p, p ∈ d.pages → p.va % 2 ^ p.log = 0) → (∀ x, x ∈ s.stores → x.live = false) → (∀ x, x ∈ s.lcs → x.windows = []) →
      Answers (.unmap fn) s fun t => ended 0 t ∧ t.mem = s.mem ∧ ∀ a, a / 2 ^ log = arg 0 / 2 ^ log →
        (∀ p, p ∈ (t.domain asid).pages → p.va / 2 ^ p.log ≠ a / 2 ^ p.log) ∧
        (d.ptroot = 0 ∨ d.ctxmode.getLsbD 0 = true → (t.domain asid).page a = none)) ∧
    (pending 9 → clean 4 → mayAct → s.sysOk (arg 0) (8 * arg 1) = false →
      Answers (.reserve fn) s fun t => t = { s with fns := t.fns } ∧ ended 6 t) ∧
    (pending 9 → clean 4 → mayAct → s.sysOk (arg 0) (8 * arg 1) = true → s.outClear [(hostPlace (d.block + 0xB0), 8)] = true → Answers (.reserve fn) s fun t => ended 0 t ∧
      t = { s with mem := t.mem, domains := t.domains, fns := t.fns } ∧
      t.mem = memPutN s.mem (hostPlace (d.block + 0xB0)) (bytesOf 8 0) ∧
      t.domain asid = { d with pool := arg 0, poolN := arg 1, resBase := arg 2, resSize := arg 3, rpUsed := 0 })

/-- R351, R364, R367, R375, R379, R381, R385 and R387: SWITCH names the gang that runs once the other is out, and needs
GANGH; SCHEDULE takes a table whose ticks lie 100 µs apart; ARMSTOP arms a stop and writes its header, RELEASE lets a
stopped context go on; LANEOP resumes or kills lanes; ATTEST writes a signed report, WEIGHTS the energy weights; REGQUEUE
registers a queue, or unregisters it. A command that writes to the host waits until the hub can perform the write (R90). A
tick that the host names is one of HCLK's present round of 2^64 (DEDUCED, notes/assumptions/7). -/
def Obligations.HostRunCommands : Prop :=
  ∀ (s : State) (fn : Nat) (b : List Byte),
    let asid := leAt b 4 2
    let arg (n : Nat) : Nat := leAt b (8 + 8 * n) 8
    let d := s.domain asid
    let ended (x : Nat) (t : State) : Prop := (t.fn fn).busy = false ∧ (t.fn fn).pending = none ∧
      (t.fn fn).status = BitVec.ofNat 8 x ∧ (t.fn fn).done = (s.fn fn).done + 1 ∧ (t.fn fn).cause = (s.fn fn).cause ||| 1
    let tick (x : Nat) : Nat := x + s.hclk / 2 ^ 64 * 2 ^ 64
    let refuses (i : Instr) (x : Nat) : Prop := Answers i s fun t => t = { s with fns := t.fns } ∧ ended x t
    let asked (op n : Nat) : Prop := s.bringUp = 8 ∧ (s.fn fn).pending = some b ∧ leAt b 0 4 = op ∧ leAt b 6 2 = 0 ∧
      (∀ k, n ≤ k → k < 7 → arg k = 0) ∧ d.reachedBy fn = true ∧ (isPhysical d.fn = true ∨ d.tdiRun = true)
    (asked 10 1 → arg 0 ≤ 15 →
      (d.ctxmode.getLsbD 3 = false → refuses (.switch fn) 3) ∧
      (d.ctxmode.getLsbD 3 = true → s.switching = none → (s.fn fn).phase = 0 → s.switchedIn = [] →
        Answers (.switch fn) s fun t => ended 0 t ∧ t.gang = arg 0 ∧ t.switching = none ∧ t.mem = s.mem ∧
          t.schedule = s.schedule)) ∧
    (let entry (k : Nat) : List Byte := memGetN s.mem (hostPlace (arg 0 + 16 * k)) 16
      let rises (k : Nat) : Prop := leAt (entry k) 0 8 + 100000 ≤ leAt (entry (k + 1)) 0 8
      (asked 11 2 → arg 1 ≤ 64 → s.sysOk (arg 0) (16 * arg 1) = false → refuses (.schedule fn) 6) ∧
      (asked 11 2 → arg 1 ≤ 64 → s.sysOk (arg 0) (16 * arg 1) = true → (∀ k, k < arg 1 → leAt (entry k) 8 8 < 16) →
      ((∀ k, k + 1 < arg 1 → rises k) → Answers (.schedule fn) s fun t => ended 0 t ∧
        t = { s with schedule := t.schedule, fns := t.fns } ∧
        t.schedule = (List.range (arg 1)).map fun k => (tick (leAt (entry k) 0 8), leAt (entry k) 8 8)) ∧
      (∀ k, k + 1 < arg 1 → ¬rises k → refuses (.schedule fn) 5))) ∧
    (asked 12 3 →
      (d.debug = false → refuses (.armstop fn) 5) ∧
      (d.debug = true → (d.wing = true ∨ d.stop ≠ .none) → refuses (.armstop fn) 3) ∧
      (d.debug = true → d.wing = false → d.stop = .none → d.storsize + 64 ≤ arg 2 →
        (s.sysOk (arg 1) (arg 2) = false → refuses (.armstop fn) 6) ∧
        (s.sysOk (arg 1) (arg 2) = true → s.sysFree (arg 1) 64 = false → exec (.armstop fn) s = .next s) ∧
        (s.sysOk (arg 1) (arg 2) = true → s.sysFree (arg 1) 64 = true → Answers (.armstop fn) s fun t =>
        ended 0 t ∧ t = { s with mem := t.mem, domains := t.domains, fns := t.fns } ∧
        t.domain asid = { d with stop := .armed, stopAt := tick (arg 0), stopArea := arg 1, stopSize := arg 2, stopClk := none } ∧
        t.mem = memPutN s.mem (hostPlace (arg 1)) (bytesOf 8 0 ++ bytesOf 8 (arg 0) ++ bytesOf 48 0)))) ∧
    (asked 13 0 →
      (d.stop ≠ .stopped → refuses (.release fn) 3) ∧
      (d.stop = .stopped → s.sysFree (d.stopArea + 0x10) 8 = false → exec (.release fn) s = .next s) ∧
      (d.stop = .stopped → s.sysFree (d.stopArea + 0x10) 8 = true → Answers (.release fn) s fun t => ended 0 t ∧
        t.domain asid = { d with stop := .none, stopClk := none } ∧
        t.mem = memPutN s.mem (hostPlace (d.stopArea + 0x10)) (bytesOf 8 2) ∧
        ∀ i, t.thread i = if i ∈ s.ctxThreads asid then { s.thread i with stopped := false } else s.thread i)) ∧
    (∀ lc, asked 14 3 →
      let v : Dword := BitVec.ofNat 64 (arg 0)
      fld v 31 9 = 0 → v.getLsbD 6 = false → arg 1 < 192 → (arg 2 = 1 ∨ arg 2 = 2 ∧ v.getLsbD 8 = false) →
      indices (fun x => x.live && x.asid = asid && x.core = arg 1) s.lcs = [lc] →
      exec (.laneop fn) s = .next ((s.laneOp lc v (decide (arg 2 = 2))).finish fn 0)) ∧
    (asked 15 2 → s.sysOk (arg 0) 32 = true → s.sysOk (arg 1) (0xB8 + 384) = true → s.sysFree (arg 1) (0xB8 + 384) = true → Answers (.attest fn) s fun t => ended 0 t ∧ t.domains = s.domains ∧ t.threads = s.threads ∧
      ∃ signature, signature.length = 384 ∧ t.mem = memPutN s.mem (hostPlace (arg 1))
        (s.report asid (memGetN s.mem (hostPlace (arg 0)) 32) ++ signature)) ∧
    (asked 16 1 → s.sysOk (arg 0) 1600 = true → s.sysFree (arg 0) 1600 = true → Answers (.weights fn) s fun t => ended 0 t ∧ t = { s with mem := t.mem, fns := t.fns } ∧
      t.mem = memPutN s.mem (hostPlace (arg 0))
        ((List.range 8).flatMap fun c => (List.range 25).flatMap fun k => bytesOf 8 (Config.energyWeight c k))) ∧
    (∀ block, asked 17 2 → arg 0 < 131072 → arg 1 % 64 = 0 → (∀ r, s.findQueue (arg 0) = some r → r.1 = asid) →
      s.boundByLaunch asid (arg 0) = false →
      let kept (v t : State) : Prop := t = { v with domains := t.domains, fns := t.fns } ∧
        ∀ n, n ≠ arg 0 → (t.domain asid).workq n = d.workq n
      (arg 1 = 0 → Answers (.regqueue fn) s fun t => ended 0 t ∧ kept s t ∧ (t.domain asid).workq (arg 0) = none) ∧
      -- v is the state with what the device has read counted
      ∀ v, arg 1 ≠ 0 → s.deviceClear asid (arg 1) 64 = true → s.deviceReads asid (arg 1) 64 = (v, some block) →
        (queueBlockOk block asid = true → Answers (.regqueue fn) s fun t => ended 0 t ∧ kept v t ∧
          ∃ w, (t.domain asid).workq (arg 0) = some w ∧ w.queue = arg 0 ∧ w.block = arg 1 ∧ w.stopped = false ∧
            w.tail = leAt block 0x18 8 ∧ w.cons = leAt block 0x18 8 ∧
            w.permits = leAt block 8 4 - if leAt block 0x0E 1 = 2 then leAt block 0x10 8 - leAt block 0x18 8 else 0) ∧
        (queueBlockOk block asid = false → Answers (.regqueue fn) s fun t => t = { v with fns := t.fns } ∧ ended 1 t))

/-- R21, R90, R373, R374, R378, R382 and R388: ones written to CAUSE clear its bits; the register window takes CMDADDR,
CMDGO, the doorbell and the masks, and nothing else; the house clock is slewed by at most 100 parts per million; a TDI
enters and leaves RUN; a host write to a context's device line becomes a store, and to a system line is made at once
(DESIGN CHOICE, notes/assumptions/5); a host read counts one access to its device page and changes nothing else; a HEAD or
CONSUMED is raised no further than its TAIL, CONSUMED by such a write. The statuses 1 of a CMDADDR that is not aligned and
of an unknown OP, and 6 of a block that the device cannot read, are the model's choice (notes/assumptions/38), that a
TDI outside RUN raises no CONSUMED is read from R388 (DEDUCED, notes/assumptions/67), and which writes of a host restart a
stopped queue is notes/assumptions/68. A DESTROY begins with CMDGO: the wing is resident no more. -/
def Obligations.HostAccessSteps : Prop :=
  ∀ (s : State) (fn off asid queue value : Nat) (v : Dword) (run ide : Bool) (addr : Nat) (data : List Byte) (ring : Ring),
    let f := s.fn fn
    let d := s.domain asid
    let onlyFn (t : State) : Prop := t = { s with fns := t.fns } ∧ ∀ k, k ≠ fn → t.fn k = s.fn k
    let write : Instr := .hostRegisterWrite fn off v
    (s.bringUp = 8 → fn < 2050 →
      (Answers (.causeClear fn v) s fun t => onlyFn t ∧ t.fn fn = { f with cause := f.cause &&& ~~~v }) ∧
      (off = 0x00 → exec write s = exec (.doorbell fn v) s) ∧
      (off = 0x08 → Answers write s fun t => onlyFn t ∧ t.fn fn = { f with cmdaddr := v }) ∧
      (off = 0x10 → v = 1 → f.busy = false →
        let block := memGetN s.mem (hostPlace f.cmdaddr.toNat) 64
        let c := leAt block 4 2
        let bad := f.cmdaddr.toNat % 64 ≠ 0
        let lost := s.sysOk f.cmdaddr.toNat 64 = false
        (bad ∨ lost ∨ leAt block 0 4 = 0 ∨ 17 < leAt block 0 4 → Answers write s fun t => onlyFn t ∧
          (t.fn fn).busy = false ∧ (t.fn fn).status = (if bad ∨ ¬ lost then 1 else 6) ∧ (t.fn fn).done = f.done + 1 ∧
          (t.fn fn).cause = f.cause ||| 1) ∧
        (¬bad → ¬lost → 1 ≤ leAt block 0 4 → leAt block 0 4 ≤ 17 → Answers write s fun t =>
          t.fn fn = { f with busy := true, pending := some block, phase := 0 } ∧
          let destroys := leAt block 0 4 = 2 ∧ leAt block 6 2 = 0 ∧ (∀ k, k < 7 → leAt block (8 + 8 * k) 8 = 0) ∧
            (s.domain c).reachedBy fn = true
          (destroys → t = { s with domains := t.domains, fns := t.fns } ∧ (∀ k, k ≠ fn → t.fn k = s.fn k) ∧
            t.domain c = { s.domain c with resident := false } ∧ ∀ a, a ≠ c → t.domain a = s.domain a) ∧
          (¬destroys → onlyFn t))) ∧
      (off = 0x10 → v ≠ 1 ∨ f.busy = true → exec write s = .next s) ∧
      (off = 0x28 → Answers write s fun t => onlyFn t ∧ t.fn fn = { f with cause := f.cause &&& ~~~v }) ∧
      (off = 0x30 → Answers write s fun t => onlyFn t ∧ t.fn fn = { f with causeMask := v }) ∧
      (off ∉ [0x00, 0x08, 0x10, 0x28, 0x30] → exec write s = .next s) ∧
      s.hostRegister fn 0x08 8 = f.cmdaddr ∧ s.hostRegister fn 0x20 8 = f.done ∧ s.hostRegister fn 0x28 8 = f.cause ∧
      s.hostRegister fn 0x30 8 = f.causeMask ∧ (s.hostRegister fn 0x18 8).getLsbD 63 = f.busy ∧
      (s.hostRegister fn 0x18 8).extractLsb' 32 16 = f.result ∧ (s.hostRegister fn 0x18 8).extractLsb' 0 8 = f.status ∧
      (off ∉ [0x08, 0x18, 0x20, 0x28, 0x30] → s.hostRegister fn off 8 = 0)) ∧
    (∀ p : Int, exec (.ieee1588Slew (some p)) s = .next (if -100 ≤ p ∧ p ≤ 100 then { s with slew := p } else s)) ∧
    (exec (.ieee1588Slew none) s = .next { s with slew := 0 }) ∧
    (d.alive = true → isPhysical d.fn = false → Answers (.tdispRequest asid run) s fun t =>
      t = { s with domains := t.domains } ∧ t.domain asid = { d with tdiRun := run }) ∧
    -- a store of the host to a line, and its bytes at a line of system memory
    (let sent (a : Nat) (x : Nat × List Host.Cell) (p : Nat) : Store :=
        { live := true, core := 192, dom := a, va := x.1, line := lineOf p, bytes := x.2 }
      let made (p : Nat) (cells : List Host.Cell) (t : State) : Prop := ∀ a, memGet t.mem a =
        if lineOf p ≤ a then (cellAt cells (a - lineOf p)).getD (memGet s.mem a) else memGet s.mem a
      (s.bringUp = 8 → d.accepts ide = true → data ≠ [] → Memory.wf s.mem = true →
        let meets (b m : Nat) : Bool := b < addr + data.length && addr < b + m
        let after (t : State) : Prop := (∀ a, a ≠ asid → t.domain a = s.domain a) ∧ t.domain asid =
          { d with queues := d.queues.map fun w =>
            if meets w.block 0x10 || meets (w.block + 0x18) 0x28 then { w with stopped := false } else w }
        ((∀ x, x ∈ splitLines addr data → ∃ p, d.place x.1 = some p ∧ isDevice p = true) →
          Answers (.hostMemoryAccess asid ide addr data) s fun t => t = { s with stores := t.stores, domains := t.domains } ∧
            after t ∧ t.stores = s.stores ++ (splitLines addr data).map fun x => sent asid x ((d.place x.1).getD 0)) ∧
        (∀ p line cells, splitLines addr data = [(line, cells)] → d.place line = some p → isDevice p = false →
          Answers (.hostMemoryAccess asid ide addr data) s fun t => t = { s with mem := t.mem, domains := t.domains } ∧
            after t ∧ made p cells t)) ∧
      (∀ a w, s.findQueue queue = some (a, w) → s.workType a w = 2 → (isPhysical (s.domain a).fn || (s.domain a).tdiRun) = true →
        let old := s.hostField a (w.block + 0x18) 8
        let tail := s.blockField a w.block 0x10 8
        (value < old ∨ tail < value → exec (.queueConsumedRaise queue value) s = .next s) ∧
        (∀ p line cells, old ≤ value → value ≤ tail → splitLines (w.block + 0x18) (bytesOf 8 value) = [(line, cells)] →
          (s.domain a).place line = some p →
          (isDevice p = true → exec (.queueConsumedRaise queue value) s =
            .next { s with stores := s.stores ++ [sent a (line, cells) p] }) ∧
          (isDevice p = false → Memory.wf s.mem = true → Answers (.queueConsumedRaise queue value) s fun t =>
            t = { s with mem := t.mem } ∧ made p cells t)))) ∧
    (s.bringUp = 8 → d.accepts ide = true →
      let page (a : Nat × Nat) (as : List ((Nat × Nat) × Nat)) : Nat := ((as.find? fun x => x.1 = a).map (·.2)).getD 0
      (∀ p, d.place addr = some p → isDevice p = true → Answers (.hostMemoryAccess asid ide addr []) s fun t =>
        t = { s with domains := t.domains, access := t.access } ∧ (∀ a, a ≠ asid → t.domain a = s.domain a) ∧
        t.domain asid = { d with found := (t.domain asid).found } ∧ (t.domain asid).found ⊆ d.found ++ (d.page addr).toList ∧
        ∀ a, page a t.access = if a = (p / 2 ^ 16, stackOf p) then (page a s.access + 1) % 2 ^ 64 else page a s.access) ∧
      ((∀ p, d.place addr = some p → isDevice p = false) → exec (.hostMemoryAccess asid ide addr []) s = .next s)) ∧
    (s.bringUp ≠ 8 ∨ d.accepts ide = false → exec (.hostMemoryAccess asid ide addr data) s = .next s) ∧
    (let place := hostPlace (d.block + (s.ringTail asid ring).1)
      let head := ofBytes (memGetN s.mem place 8)
      d.alive = true →
      (head ≤ value → value ≤ (s.ringTail asid ring).2 → d.misses = [] → Answers (.ringHeadRaise asid ring value) s fun t =>
        t = { s with mem := t.mem } ∧ t.mem = memPutN s.mem place (bytesOf 8 value)) ∧
      (value < head ∨ (s.ringTail asid ring).2 < value → exec (.ringHeadRaise asid ring value) s = .next s)) ∧
    (∀ a w, s.findQueue queue = some (a, w) → isPhysical (s.domain a).fn = false → (s.domain a).tdiRun = false →
      exec (.queueConsumedRaise queue value) s = .next s)

/-! ### The machine as a whole -/

/-- R108, R109, R124 and R126: the words that the spec's chapter on encoding works out bit by bit decode to the
instructions they stand for, the all-zero word to NOP, and a word of the major that is never assigned to none. -/
def Obligations.DecodeSpecWords : Prop :=
  decodeWord 0x88020818 = some ⟨true, false, .iadd .latch (.reg 2) (.reg 3)⟩ ∧
  decodeWord 0x18101432 = some ⟨false, false, .fmul (.reg 4) (.reg 5) (.reg 6)⟩ ∧
  decodeWord 0x4C1D0004 = some ⟨false, true, .iaddi (.reg 7) (.latch 0) 4⟩ ∧
  decodeWord 0x41240006 = some ⟨false, true, .brt 1 6⟩ ∧
  decodeWord 0x01240006 = none ∧ decodeWord 0 = some ⟨false, false, .nop⟩ ∧ decodeWord 0x3F000000 = none ∧
  decodeBytes [0x04, 0x00, 0x1D, 0x4C, 0x99] = some (⟨false, true, .iaddi (.reg 7) (.latch 0) 4⟩, [0x99])

/-- R108, R119 to R127: decoding the word of a well-formed instruction gives it back with its C and E bits, for every
word of the opcode map and every operand the encoding admits; and what decodes is well formed, and encodes to the very
word it came from, so that no bit of a word is read as nothing. -/
def Obligations.DecodeEncode : Prop :=
  (∀ (c e : Bool) (i : Instr), i.isEvent = false → i.wf = true → ceOk c e i = true →
    ∃ w, encode c e i = some w ∧ decodeWord w = some ⟨c, e, i⟩) ∧
  ∀ (w : Word) (d : Decoded), decodeWord w = some d →
    d.i.wf = true ∧ ceOk d.c d.e d.i = true ∧ d.i.isEvent = false ∧ encode d.c d.e d.i = some w

/-- R109: the all-zero word, with C or E set or not, is NOP; it changes no state and occupies no pipe; a word of major
0x00 with fn 0 and any nonzero operand field is no instruction, and a group that holds one, and is not first found too
long, traps ILL: its run's lanes park. -/
def Obligations.NopWord : Prop :=
  (∀ (c e : Bool) (s : State),
    decodeWord (ofBit c ++ ofBit e ++ (0 : BitVec 30)) = some ⟨c, e, .nop⟩ ∧ exec .nop s = .next s ∧
    Instr.port .nop = .none) ∧
  (∀ (c e : Bool) (x : BitVec 24), x ≠ 0 → fFn x = 0 →
    decodeWord (ofBit c ++ ofBit e ++ (0 : BitVec 6) ++ x) = none) ∧
  (∀ (s : State) (tid : Nat) (r : Run) (g : List GroupWord) (w : GroupWord), w ∈ g → w.d = none → r.ip - r.base < 24 →
    (∀ v, v ∈ g → v.raw.getLsbD 31 = false ∨ v.pc % 3 ≠ 2) → s.groupTrap tid r g = some (.ill, 0)) ∧
  ∀ s : State, s.cur.run ≠ 0 → s.cur.old.acts = [] → s.bodyLanes s.cur.run = 0 →
    Answers (.illegalInstruction .ill) s fun t => ∀ l, l < 32 →
      t.me.lane l = if s.cur.run.getLsbD l then
          { s.cur.old.lane l with st := .parked, pc := BitVec.ofNat 32 s.cur.grp, ctr := (s.me.lane l).ctr, kept := some (s.cur.old.lane l).latch,
                                  parkNext := false }
        else s.me.lane l

/-- R50: an initial wave has depth 0; a child that SPAWN hands to the dispatcher carries its parent's depth plus one,
and the wave placed for it has that depth; the DEPTH special register reads the wave's depth; and SPAWN by a wave of
depth 4 parks its lanes with NEST and hands over no child: each lane of the run, as SPAWN is a uniform word, with one record each
(R8, R254; DEDUCED, notes/assumptions/21). -/
def Obligations.ChildDepth : Prop :=
  ∀ (s : State) (a d : UReg) (lc die slot : Nat) (l : Launch) (c : Child) (rest : List Child),
    let o := s.cur.old
    let h := s.ureg a
    let may : Prop := h.toNat < 2 ^ 39 ∧ o.codeAddr (h.setWidth 32).toNat = true ∧ (s.quadReg a 3).toNat % 8 = 0
    (s.launch? (s.lc lc).launch = some l → (s.freeSlots (s.lc lc).core).head? = some slot → (s.lc lc).live = true →
      (s.domain (s.lc lc).asid).starts = true → (s.lc lc).toPlace ≠ 0 → l.stash * 4096 ≤ s.freeStash (s.lc lc).core →
      Answers (.wavePlace lc) s fun t => ∃ y, t.threads = s.threads ++ [y] ∧ y.kind = .initial ∧ y.depth = 0) ∧
    (s.Top → s.cur.mask ≠ 0 → may → o.depth ≠ 4 → (s.flushDirty s.cur.tid).waitOver s.cur.tid .spawn = true →
      Answers (.spawn a) s fun t => ∃ y, (t.die (o.core / 48)).pend = (s.die (o.core / 48)).pend ++ [y] ∧
        y.depth = o.depth + 1) ∧
    (∀ u, s.placeChild c = some u → ∃ y, u.threads = s.threads ++ [y] ∧ y.kind = .child ∧ y.depth = c.depth) ∧
    (∀ u, (s.die die).turn = c :: rest → (s.domain (s.lc c.lc).asid).starts = true →
      (s.mapDie die Die.turnOver).placeChild c = some u →
      Answers (.childPlace die) s fun t => ∃ y, t.threads = s.threads ++ [y] ∧ y.kind = .child ∧ y.depth = c.depth) ∧
    (s.cur.mask ≠ 0 → Answers (.srd d 0x007) s fun t => UniResult s t d (BitVec.ofNat 64 o.depth)) ∧
    (s.Top → s.bodyLanes s.cur.run = 0 → s.cur.mask ≠ 0 → may → o.depth = 4 → Answers (.spawn a) s fun t =>
      t.dies = s.dies ∧ (∀ n, n < 32 → s.cur.run.getLsbD n = true → (t.me.lane n).st = .parked) ∧
      ∃ rs, (t.domain o.dom).records = (s.domain o.dom).records ++ rs ∧ rs.length = (lanesOf s.cur.run).length ∧
        ∀ r, r ∈ rs → r.code = .nest)

/-- R390, R12, R19: after reset the device is ready (step 8), with no domain, launch, wave, request or store, every core
enabled, no gang switch under way and nothing listed in memory, which is in canonical form (notes/assumptions/3). That every core is enabled, and the clock's 0, are the
model's choice (notes/assumptions/4). -/
def Obligations.ResetState : Prop :=
  State.reset.bringUp = 8 ∧ State.reset.failed = 0 ∧ State.reset.hclk = 0 ∧ State.reset.enabled = BitVec.allOnes 192 ∧
  State.reset.mem = [] ∧ State.reset.domains = [] ∧ State.reset.launches = [] ∧ State.reset.lcs = [] ∧
  State.reset.threads = [] ∧ State.reset.reqs = [] ∧ State.reset.stores = [] ∧ State.reset.copies = [] ∧
  State.reset.switching = none ∧ State.reset.schedule = [] ∧ State.reset.slew = 0 ∧ State.reset.agenda = [] ∧
  State.reset.MemOk

/-- R33, R35, R114, R123, R128 and R151: when the thread that the agenda lets issue stands at a group of one word that
passes checks 1 to 4 and nothing holds, a step is the meaning of the word that decodes there, run with the lanes of the
run and the thread as it stood; after it the run stands at the next word, or has ended with its E word, or at a wait the
thread gives up its side. -/
def Obligations.StepRunsDecodedWord : Prop :=
  ∀ (s : State) (tid : Nat) (rest : List Choice) (r : Run) (w : Word) (d : Decoded),
    s.bringUp = 8 → s.agenda = .issue 0 tid :: rest →
    let s0 : State := { s with agenda := rest }
    let o := s.thread tid
    s0.mayIssue tid = true → s0.joinHeld tid = s0 → o.run = some r → r.mask ≠ 0 → s0.endsHere tid r = false →
    (r.code.drop (r.ip - r.base)).head? = some w → decodeWord w = some d →
    r.group = [{ pc := r.ip, raw := w, d := some d }] → (∀ p sense, d.i ≠ .guard p sense) →
    let us : List (List GroupWord × Instr × Mask) := [([{ pc := r.ip, raw := w, d := some d }], d.i, BitVec.allOnes 32)]
    let at_ : State := s0.issueAt tid o r.mask r.ip
    at_.groupTrap tid r r.group = none → at_.latchBad tid o d.i r.mask = 0 → at_.groupWait tid o r.mask us = none →
    let c := if w.getLsbD 30 then at_.fallThrough tid r.mask r.ip else at_
    ∀ t, exec d.i c = .next t →
      (t.cur.blocked = none → (t.cur.traps = [] ∨ t.cur.old.acts = []) →
        step s = .next ((t.afterGroup tid (r.ip + 1) (w.getLsbD 30)).groupCounts tid us).endStep) ∧
      (∀ x, t.cur.blocked = some x → t.cur.traps = [] → step s = .next (t.suspend tid x r.ip).endStep)

/-- R390, and the model's promise that nothing is refused: a device that has come up always takes its next step, whatever
its state; one that stands at a failed step of its bring-up stops with that step's number, unless it is reset. -/
def Obligations.StepAlwaysNext : Prop :=
  (∀ i s, ∃ t, exec i s = .next t) ∧ (∀ s : State, s.bringUp = 8 → ∃ t, step s = .next t) ∧
  ∀ s : State, s.bringUp ≠ 8 →
    (s.resets = false → step s = .fault (.bringUpFailed s.failed)) ∧ (s.resets = true → ∃ t, step s = .next t)

/-- R80 and R192: FEXP2, FLOG2, FTANH and FSIN2PI of a finite operand x give the real value of the function rounded to
FP32 under RNE, with NX where it is inexact, OF and UF by R71 and R73. It is said of every operand whose bracket closes
within the model's precisions (`fexp2Closed` and the others answer a result); that every operand's does is
notes/assumptions/16. FLOG2 of 1 is +0. An operand x of FSIN2PI with 2x an integer gives a zero with the sign of x, and
FTANH of a zero gives it back. -/
def Obligations.RealFunctionsRounded : Prop :=
  ∀ (a : Word) (n : Bool) (m : Nat) (e : Int) (out : Word × Flags), dec32 a = .fin n m e →
    let x : Rat := (if n then -1 else 1) * m * pow2 e
    (fexp2Closed a = some out → fexp232 a = out ∧ RealRounded (2 ^ (x : ℝ)) out) ∧
    (0 < x → x ≠ 1 → flog2Closed a = some out → flog232 a = out ∧ RealRounded (Real.logb 2 x) out) ∧
    (x = 1 → flog232 a = (0, 0)) ∧
    (x ≠ 0 → ftanhClosed a = some out → ftanh32 a = out ∧ RealRounded (Real.tanh x) out) ∧
    (x = 0 → ftanh32 a = (a, 0)) ∧
    ((∀ k : Int, 2 * x ≠ k) → fsin2piClosed a = some out → fsin2pi32 a = out ∧ RealRounded (Real.sin (2 * Real.pi * x)) out) ∧
    ((∃ k : Int, 2 * x = k) → fsin2pi32 a = (if n then 0x80000000 else 0, 0))

/-- Every step keeps memory, every LSTASH area and every thread's stash in canonical form: addresses strictly rise and no
cell holds what an unlisted address reads as (the model's own, notes/assumptions/3). It holds of every state, not only of
those a run reaches. -/
def Obligations.MemoryStaysCanonical : Prop :=
  ∀ s t : State, s.MemOk → step s = .next t → t.MemOk

end
end

