-- ==== Sys2Proof/Laws/Decode.lean ====
section
/-! SUPPORT. Each field of a packed operand layout reads back, and each operand class and selecting field reads back
from its own bits: what a proof about decoding an encoded word cites. -/

namespace Sys2Proof

/-! ### The fields of the packed layouts -/

@[simp] theorem packR3_fD (d : BitVec 6) (n : BitVec 1) (a b : BitVec 7) (fn : BitVec 3) : fD (packR3 d n a b fn) = d := by
  ext i; simp [fD, packR3]; grind
@[simp] theorem packR3_fN (d : BitVec 6) (n : BitVec 1) (a b : BitVec 7) (fn : BitVec 3) : fN (packR3 d n a b fn) = n := by
  ext i; simp [fN, packR3]; grind
@[simp] theorem packR3_fA (d : BitVec 6) (n : BitVec 1) (a b : BitVec 7) (fn : BitVec 3) : fA (packR3 d n a b fn) = a := by
  ext i; simp [fA, packR3]; grind
@[simp] theorem packR3_fB (d : BitVec 6) (n : BitVec 1) (a b : BitVec 7) (fn : BitVec 3) : fB (packR3 d n a b fn) = b := by
  ext i; simp [fB, packR3]; grind
@[simp] theorem packR3_fFn (d : BitVec 6) (n : BitVec 1) (a b : BitVec 7) (fn : BitVec 3) : fFn (packR3 d n a b fn) = fn := by
  ext i; simp [fFn, packR3]; grind
@[simp] theorem packRI_fD (d : BitVec 6) (n : BitVec 1) (a : BitVec 7) (imm : BitVec 10) : fD (packRI d n a imm) = d := by
  ext i; simp [fD, packRI]; grind
@[simp] theorem packRI_fN (d : BitVec 6) (n : BitVec 1) (a : BitVec 7) (imm : BitVec 10) : fN (packRI d n a imm) = n := by
  ext i; simp [fN, packRI]; grind
@[simp] theorem packRI_fA (d : BitVec 6) (n : BitVec 1) (a : BitVec 7) (imm : BitVec 10) : fA (packRI d n a imm) = a := by
  ext i; simp [fA, packRI]; grind
@[simp] theorem packRI_fImm10 (d : BitVec 6) (n : BitVec 1) (a : BitVec 7) (imm : BitVec 10) : fImm10 (packRI d n a imm) = imm := by
  ext i; simp [fImm10, packRI]; grind
@[simp] theorem packI17_fD (d : BitVec 6) (n : BitVec 1) (imm : BitVec 17) : fD (packI17 d n imm) = d := by
  ext i; simp [fD, packI17]; grind
@[simp] theorem packI17_fN (d : BitVec 6) (n : BitVec 1) (imm : BitVec 17) : fN (packI17 d n imm) = n := by
  ext i; simp [fN, packI17]; grind
@[simp] theorem packI17_fImm17 (d : BitVec 6) (n : BitVec 1) (imm : BitVec 17) : fImm17 (packI17 d n imm) = imm := by
  ext i; simp [fImm17, packI17]; grind
@[simp] theorem packK16_fD (d : BitVec 6) (pos : BitVec 2) (imm : BitVec 16) : fD (packK16 d pos imm) = d := by
  ext i; simp [fD, packK16]; grind
@[simp] theorem packK16_fPos (d : BitVec 6) (pos : BitVec 2) (imm : BitVec 16) : fPos (packK16 d pos imm) = pos := by
  ext i; simp [fPos, packK16]; grind
@[simp] theorem packK16_fImm16 (d : BitVec 6) (pos : BitVec 2) (imm : BitVec 16) : fImm16 (packK16 d pos imm) = imm := by
  ext i; simp [fImm16, packK16]; grind
@[simp] theorem packBR_fCond (k p : BitVec 3) (off : BitVec 18) : fCond (packBR k p off) = k := by
  ext i; simp [fCond, packBR]; grind
@[simp] theorem packBR_fP (k p : BitVec 3) (off : BitVec 18) : fP (packBR k p off) = p := by
  ext i; simp [fP, packBR]; grind
@[simp] theorem packBR_fOff18 (k p : BitVec 3) (off : BitVec 18) : fOff18 (packBR k p off) = off := by
  ext i; simp [fOff18, packBR]; grind
@[simp] theorem packGD_fCond (k : BitVec 3) (s : BitVec 1) (z : BitVec 20) : fCond (packGD k s z) = k := by
  ext i; simp [fCond, packGD]; grind
@[simp] theorem packGD_fSense (k : BitVec 3) (s : BitVec 1) (z : BitVec 20) : fSense (packGD k s z) = s := by
  ext i; simp [fSense, packGD]; grind
@[simp] theorem packGD_fZ20 (k : BitVec 3) (s : BitVec 1) (z : BitVec 20) : fZ20 (packGD k s z) = z := by
  ext i; simp [fZ20, packGD]; grind
@[simp] theorem packCMP_fCond (k p : BitVec 3) (n : BitVec 1) (a b : BitVec 7) (fn : BitVec 3) : fCond (packCMP k p n a b fn) = k := by
  ext i; simp [fCond, packCMP]; grind
@[simp] theorem packCMP_fP (k p : BitVec 3) (n : BitVec 1) (a b : BitVec 7) (fn : BitVec 3) : fP (packCMP k p n a b fn) = p := by
  ext i; simp [fP, packCMP]; grind
@[simp] theorem packCMP_fN (k p : BitVec 3) (n : BitVec 1) (a b : BitVec 7) (fn : BitVec 3) : fN (packCMP k p n a b fn) = n := by
  ext i; simp [fN, packCMP]; grind
@[simp] theorem packCMP_fA (k p : BitVec 3) (n : BitVec 1) (a b : BitVec 7) (fn : BitVec 3) : fA (packCMP k p n a b fn) = a := by
  ext i; simp [fA, packCMP]; grind
@[simp] theorem packCMP_fB (k p : BitVec 3) (n : BitVec 1) (a b : BitVec 7) (fn : BitVec 3) : fB (packCMP k p n a b fn) = b := by
  ext i; simp [fB, packCMP]; grind
@[simp] theorem packCMP_fFn (k p : BitVec 3) (n : BitVec 1) (a b : BitVec 7) (fn : BitVec 3) : fFn (packCMP k p n a b fn) = fn := by
  ext i; simp [fFn, packCMP]; grind
@[simp] theorem packMEM_fD (d : BitVec 6) (n : BitVec 1) (r : BitVec 4) (x : BitVec 7) (fn : BitVec 6) : fD (packMEM d n r x fn) = d := by
  ext i; simp [fD, packMEM]; grind
@[simp] theorem packMEM_fN (d : BitVec 6) (n : BitVec 1) (r : BitVec 4) (x : BitVec 7) (fn : BitVec 6) : fN (packMEM d n r x fn) = n := by
  ext i; simp [fN, packMEM]; grind
@[simp] theorem packMEM_fRec (d : BitVec 6) (n : BitVec 1) (r : BitVec 4) (x : BitVec 7) (fn : BitVec 6) : fRec (packMEM d n r x fn) = r := by
  ext i; simp [fRec, packMEM]; grind
@[simp] theorem packMEM_fIdx (d : BitVec 6) (n : BitVec 1) (r : BitVec 4) (x : BitVec 7) (fn : BitVec 6) : fIdx (packMEM d n r x fn) = x := by
  ext i; simp [fIdx, packMEM]; grind
@[simp] theorem packMEM_fFn6 (d : BitVec 6) (n : BitVec 1) (r : BitVec 4) (x : BitVec 7) (fn : BitVec 6) : fFn6 (packMEM d n r x fn) = fn := by
  ext i; simp [fFn6, packMEM]; grind
@[simp] theorem packENG_fQ (q : BitVec 4) (w : BitVec 5) (t : BitVec 4) (s : BitVec 3) (m : BitVec 5) (fn : BitVec 3) : fQ (packENG q w t s m fn) = q := by
  ext i; simp [fQ, packENG]; grind
@[simp] theorem packENG_fWbase (q : BitVec 4) (w : BitVec 5) (t : BitVec 4) (s : BitVec 3) (m : BitVec 5) (fn : BitVec 3) : fWbase (packENG q w t s m fn) = w := by
  ext i; simp [fWbase, packENG]; grind
@[simp] theorem packENG_fTile (q : BitVec 4) (w : BitVec 5) (t : BitVec 4) (s : BitVec 3) (m : BitVec 5) (fn : BitVec 3) : fTile (packENG q w t s m fn) = t := by
  ext i; simp [fTile, packENG]; grind
@[simp] theorem packENG_fSlot (q : BitVec 4) (w : BitVec 5) (t : BitVec 4) (s : BitVec 3) (m : BitVec 5) (fn : BitVec 3) : fSlot (packENG q w t s m fn) = s := by
  ext i; simp [fSlot, packENG]; grind
@[simp] theorem packENG_fMisc (q : BitVec 4) (w : BitVec 5) (t : BitVec 4) (s : BitVec 3) (m : BitVec 5) (fn : BitVec 3) : fMisc (packENG q w t s m fn) = m := by
  ext i; simp [fMisc, packENG]; grind
@[simp] theorem packENG_fFn (q : BitVec 4) (w : BitVec 5) (t : BitVec 4) (s : BitVec 3) (m : BitVec 5) (fn : BitVec 3) : fFn (packENG q w t s m fn) = fn := by
  ext i; simp [fFn, packENG]; grind
@[simp] theorem packSYS_fD (d : BitVec 6) (n : BitVec 1) (z : BitVec 5) (sr : BitVec 12) : fD (packSYS d n z sr) = d := by
  ext i; simp [fD, packSYS]; grind
@[simp] theorem packSYS_fN (d : BitVec 6) (n : BitVec 1) (z : BitVec 5) (sr : BitVec 12) : fN (packSYS d n z sr) = n := by
  ext i; simp [fN, packSYS]; grind
@[simp] theorem packSYS_fZ5 (d : BitVec 6) (n : BitVec 1) (z : BitVec 5) (sr : BitVec 12) : fZ5 (packSYS d n z sr) = z := by
  ext i; simp [fZ5, packSYS]; grind
@[simp] theorem packSYS_fSreg (d : BitVec 6) (n : BitVec 1) (z : BitVec 5) (sr : BitVec 12) : fSreg (packSYS d n z sr) = sr := by
  ext i; simp [fSreg, packSYS]; grind

/-! ### The parts of a field -/

@[simp] theorem parts3_4_a (a : BitVec 3) (b : BitVec 4) : (a ++ b).extractLsb' 4 3 = a := by
  ext i; simp; try grind
@[simp] theorem parts3_4_b (a : BitVec 3) (b : BitVec 4) : (a ++ b).extractLsb' 0 4 = b := by
  ext i; simp; try grind
@[simp] theorem parts5_5_a (a : BitVec 5) (b : BitVec 5) : (a ++ b).extractLsb' 5 5 = a := by
  ext i; simp; try grind
@[simp] theorem parts5_5_b (a : BitVec 5) (b : BitVec 5) : (a ++ b).extractLsb' 0 5 = b := by
  ext i; simp; try grind
@[simp] theorem parts5_2_a (a : BitVec 5) (b : BitVec 2) : (a ++ b).extractLsb' 2 5 = a := by
  ext i; simp; try grind
@[simp] theorem parts5_2_b (a : BitVec 5) (b : BitVec 2) : (a ++ b).extractLsb' 0 2 = b := by
  ext i; simp; try grind
@[simp] theorem parts3_2_2_a (a : BitVec 3) (b : BitVec 2) (c : BitVec 2) : (a ++ b ++ c).extractLsb' 4 3 = a := by
  ext i; simp; try grind
@[simp] theorem parts3_2_2_b (a : BitVec 3) (b : BitVec 2) (c : BitVec 2) : (a ++ b ++ c).extractLsb' 2 2 = b := by
  ext i; simp; try grind
@[simp] theorem parts3_2_2_c (a : BitVec 3) (b : BitVec 2) (c : BitVec 2) : (a ++ b ++ c).extractLsb' 0 2 = c := by
  ext i; simp; try grind
@[simp] theorem parts3_3_a (a : BitVec 3) (b : BitVec 3) : (a ++ b).extractLsb' 3 3 = a := by
  ext i; simp; try grind
@[simp] theorem parts3_3_b (a : BitVec 3) (b : BitVec 3) : (a ++ b).extractLsb' 0 3 = b := by
  ext i; simp; try grind
@[simp] theorem parts1_2_3_a (a : BitVec 1) (b : BitVec 2) (c : BitVec 3) : (a ++ b ++ c).extractLsb' 5 1 = a := by
  ext i; simp; try grind
@[simp] theorem parts1_2_3_b (a : BitVec 1) (b : BitVec 2) (c : BitVec 3) : (a ++ b ++ c).extractLsb' 3 2 = b := by
  ext i; simp; try grind
@[simp] theorem parts1_2_3_c (a : BitVec 1) (b : BitVec 2) (c : BitVec 3) : (a ++ b ++ c).extractLsb' 0 3 = c := by
  ext i; simp; try grind
@[simp] theorem parts3_1_1_1_a (a : BitVec 3) (b : BitVec 1) (c : BitVec 1) (d : BitVec 1) : (a ++ b ++ c ++ d).extractLsb' 3 3 = a := by
  ext i; simp; try grind
@[simp] theorem parts3_1_1_1_b (a : BitVec 3) (b : BitVec 1) (c : BitVec 1) (d : BitVec 1) : (a ++ b ++ c ++ d).extractLsb' 2 1 = b := by
  ext i; simp; try grind
@[simp] theorem parts3_1_1_1_c (a : BitVec 3) (b : BitVec 1) (c : BitVec 1) (d : BitVec 1) : (a ++ b ++ c ++ d).extractLsb' 1 1 = c := by
  ext i; simp; try grind
@[simp] theorem parts3_1_1_1_d (a : BitVec 3) (b : BitVec 1) (c : BitVec 1) (d : BitVec 1) : (a ++ b ++ c ++ d).extractLsb' 0 1 = d := by
  ext i; simp; try grind
@[simp] theorem parts4_2_a (a : BitVec 4) (b : BitVec 2) : (a ++ b).extractLsb' 2 4 = a := by
  ext i; simp; try grind
@[simp] theorem parts4_2_b (a : BitVec 4) (b : BitVec 2) : (a ++ b).extractLsb' 0 2 = b := by
  ext i; simp; try grind
@[simp] theorem parts1_3_2_a (a : BitVec 1) (b : BitVec 3) (c : BitVec 2) : (a ++ b ++ c).extractLsb' 5 1 = a := by
  ext i; simp; try grind
@[simp] theorem parts1_3_2_b (a : BitVec 1) (b : BitVec 3) (c : BitVec 2) : (a ++ b ++ c).extractLsb' 2 3 = b := by
  ext i; simp; try grind
@[simp] theorem parts1_3_2_c (a : BitVec 1) (b : BitVec 3) (c : BitVec 2) : (a ++ b ++ c).extractLsb' 0 2 = c := by
  ext i; simp; try grind
@[simp] theorem parts2_3_a (a : BitVec 2) (b : BitVec 3) : (a ++ b).extractLsb' 3 2 = a := by
  ext i; simp; try grind
@[simp] theorem parts2_3_b (a : BitVec 2) (b : BitVec 3) : (a ++ b).extractLsb' 0 3 = b := by
  ext i; simp; try grind
@[simp] theorem parts4_1_a (a : BitVec 4) (b : BitVec 1) : (a ++ b).extractLsb' 1 4 = a := by
  ext i; simp; try grind
@[simp] theorem parts4_1_b (a : BitVec 4) (b : BitVec 1) : (a ++ b).extractLsb' 0 1 = b := by
  ext i; simp; try grind
@[simp] theorem parts3_1_1_a (a : BitVec 3) (b : BitVec 1) (c : BitVec 1) : (a ++ b ++ c).extractLsb' 2 3 = a := by
  ext i; simp; try grind
@[simp] theorem parts3_1_1_b (a : BitVec 3) (b : BitVec 1) (c : BitVec 1) : (a ++ b ++ c).extractLsb' 1 1 = b := by
  ext i; simp; try grind
@[simp] theorem parts3_1_1_c (a : BitVec 3) (b : BitVec 1) (c : BitVec 1) : (a ++ b ++ c).extractLsb' 0 1 = c := by
  ext i; simp; try grind
@[simp] theorem parts3_2_a (a : BitVec 3) (b : BitVec 2) : (a ++ b).extractLsb' 2 3 = a := by
  ext i; simp; try grind
@[simp] theorem parts3_2_b (a : BitVec 3) (b : BitVec 2) : (a ++ b).extractLsb' 0 2 = b := by
  ext i; simp; try grind

/-! ### Operand classes -/

@[simp] theorem bit_ofBit (b : Bool) : bit (ofBit b) = b := by cases b <;> rfl
@[simp] theorem srcOf_srcBits (a : Src) : srcOf (srcBits a) = some a := by
  cases a with
  | reg n =>
    have h : (0#1 ++ n).extractLsb' 6 1 = 0#1 := by ext i; simp; grind
    have h' : (0#1 ++ n).extractLsb' 0 6 = n := by ext i; simp; grind
    simp [srcOf, srcBits, h, h']
  | latch k => revert k; decide
@[simp] theorem dstOf_dstBits (d : Dst) : dstOf (dstD d) (dstN d) = some d := by
  cases d <;> rfl
@[simp] theorem amtOf_amtBits (a : Amt) : amtOf (amtBits a) = some a := by
  cases a with
  | imm s => revert s; decide
  | reg n => revert n; decide
@[simp] theorem low3_up3 (n : BitVec 3) : low3 (up3 n) = some n := by revert n; decide
@[simp] theorem low4_up4 (n : BitVec 4) : low4 (up4 n) = some n := by revert n; decide
@[simp] theorem low5_up5 (n : BitVec 5) : low5 (up5 n) = some n := by revert n; decide
@[simp] theorem sel3_selUp3 (n : BitVec 3) : sel3 (selUp3 n) = some n := by revert n; decide
@[simp] theorem sel4_selUp4 (n : BitVec 4) : sel4 (selUp4 n) = some n := by revert n; decide
@[simp] theorem sel5_selUp5 (n : BitVec 5) : sel5 (selUp5 n) = some n := by revert n; decide
@[simp] theorem sel6_selUp6 (n : BitVec 6) : sel6 (selUp6 n) = some n := by revert n; decide

/-! ### Selecting fields -/

@[simp] theorem ICond.ofCode_code (x : ICond) : ICond.ofCode x.code = some x := by cases x <;> rfl
@[simp] theorem FCond.ofCode_code (x : FCond) : FCond.ofCode x.code = some x := by cases x <;> rfl
@[simp] theorem Pol.ofCode_code (x : Pol) : Pol.ofCode x.code = some x := by cases x <;> rfl
@[simp] theorem Rnd.ofCode_code (x : Rnd) : Rnd.ofCode x.code = some x := by cases x <;> rfl
@[simp] theorem AtomOp.ofCode_code (x : AtomOp) : AtomOp.ofCode x.code = some x := by cases x <;> rfl
@[simp] theorem Scope.ofCode_code (x : Scope) : Scope.ofCode x.code = some x := by cases x <;> rfl
@[simp] theorem PollCond.ofCode_code (x : PollCond) : PollCond.ofCode x.code = some x := by cases x <;> rfl
@[simp] theorem LdMode.ofCode_code (x : LdMode) : LdMode.ofCode x.code = some x := by cases x <;> rfl
@[simp] theorem StMode.ofCode_code (x : StMode) : StMode.ofCode x.code = some x := by cases x <;> rfl
@[simp] theorem Width.ofCode_code (x : Width) : Width.ofCode x.code = some x := by cases x <;> rfl
@[simp] theorem WidthW.ofCode_code (x : WidthW) : WidthW.ofCode x.code = some x := by cases x <;> rfl
@[simp] theorem FTy.ofCode_code (x : FTy) : FTy.ofCode x.code = some x := by cases x <;> rfl
@[simp] theorem ITy.ofCode_code (x : ITy) : ITy.ofCode x.code = some x := by cases x <;> rfl
@[simp] theorem RedOp.ofCode_code (x : RedOp) : RedOp.ofCode x.code = some x := by cases x <;> rfl

end Sys2Proof
end

