-- ==== Sys2Proof/Laws/Integer.lean ====
section
/-! SUPPORT. The bits that the field and byte words of the integer pipe move: what a proof about their results
cites. -/

namespace Sys2Proof.Machine

/-- The signed value of n bits is the value of the bit vector. -/
theorem sintOf_toInt (n x : Nat) (h : 0 < n) : sintOf n x = (BitVec.ofNat n x).toInt := by
  simp only [sintOf, BitVec.toInt, BitVec.toNat_ofNat]
  obtain ⟨k, rfl⟩ : ∃ k, n = k + 1 := ⟨n - 1, by omega⟩
  simp only [Nat.add_sub_cancel]
  have : (2:Nat) ^ (k + 1) = 2 * 2 ^ k := by rw [pow_succ]; ring
  split <;> split <;> first | (push_cast; rfl) | (exfalso; omega)

/-- The bits of a field extract (R180). -/
theorem bfx_bits (u v : Word) (k : Nat) (hk : k < 32) :
    (bfx u v).getLsbD k = if k < min (fld v 13 8) 32 then u.getLsbD (fld v 4 0 + k)
          else v.getLsbD 16 && decide (min (fld v 13 8) 32 > 0) && u.getLsbD (fld v 4 0 + min (fld v 13 8) 32 - 1) := by
  unfold bfx fieldWid
  dsimp only
  generalize fld v 4 0 = pos
  have hw : min (fld v 13 8) 32 ≤ 32 := Nat.min_le_right _ _
  generalize min (fld v 13 8) 32 = wid at hw ⊢
  by_cases c : v.getLsbD 16 = true ∧ wid > 0
  · obtain ⟨c1, c2⟩ := c
    simp only [c1, c2, decide_true, Bool.and_self, if_true, wrap32, Bool.true_and, sintOf_toInt _ _ c2]
    have : BitVec.ofInt 32 (BitVec.ofNat wid (u.toNat >>> pos % 2 ^ wid)).toInt = (BitVec.ofNat wid (u.toNat >>> pos % 2 ^ wid)).signExtend 32 := by simp only [BitVec.signExtend]
    rw [this, BitVec.getLsbD_signExtend]
    simp only [hk, decide_true, Bool.true_and]
    split
    · rename_i h
      simp [h, BitVec.getLsbD, Nat.testBit_shiftRight]
    · rw [BitVec.msb_eq_getLsbD_last]
      have e : pos + (wid - 1) = pos + wid - 1 := by omega
      have e2 : wid - 1 < wid := by omega
      simp [e2, Nat.testBit_shiftRight, e, BitVec.getLsbD]
  · have c' : (v.getLsbD 16 && decide (wid > 0)) = false := by
      cases h : v.getLsbD 16 <;> simp_all
    rw [c']
    simp only [Bool.false_eq_true, if_false]
    simp only [Bool.false_and]
    rw [BitVec.getLsbD_ofNat]
    simp only [hk, decide_true, Bool.true_and, Nat.testBit_mod_two_pow, Nat.testBit_shiftRight]
    by_cases h : k < wid <;> simp only [h, decide_true, decide_false, if_true, if_false, Bool.true_and, Bool.false_and, BitVec.getLsbD]

/-- The bits of a field insert (R180). -/
theorem bfi_bits (o u v : Word) (k : Nat) (hk : k < 32) :
    (bfi o u v).getLsbD k = if fld v 4 0 ≤ k ∧ k < fld v 4 0 + min (fld v 13 8) 32 then u.getLsbD (k - fld v 4 0) else o.getLsbD k := by
  simp only [bfi, fieldWid]
  generalize fld v 4 0 = pos
  generalize min (fld v 13 8) 32 = wid
  have e : ((2 ^ wid - 1) <<< pos).testBit k = decide (pos ≤ k ∧ k < pos + wid) := by
    rw [Nat.testBit_shiftLeft, Nat.testBit_two_pow_sub_one]
    by_cases h : pos ≤ k <;> simp [h]; omega
  by_cases h : pos ≤ k ∧ k < pos + wid
  · simp only [BitVec.getLsbD_or, BitVec.getLsbD_and, BitVec.getLsbD_not, BitVec.getLsbD_ofNat, hk, e, h, decide_true, Nat.testBit_shiftLeft]
    simp [BitVec.getLsbD]
  · simp only [BitVec.getLsbD_or, BitVec.getLsbD_and, BitVec.getLsbD_not, BitVec.getLsbD_ofNat, hk, e, h, decide_true, decide_false]
    simp

/-- The bytes of a byte permutation (R181). -/
theorem byteperm_bytes (o u v : Word) (k : Nat) (hk : k < 4) :
    (byteperm o u v).extractLsb' (8 * k) 8 = permByte o u (fld v (4 * k + 3) (4 * k)) := by
  unfold byteperm
  dsimp only
  have : k = 0 ∨ k = 1 ∨ k = 2 ∨ k = 3 := by omega
  rcases this with rfl | rfl | rfl | rfl <;>
    generalize permByte o u (fld v (4 * 0 + 3) (4 * 0)) = a <;>
    generalize permByte o u (fld v (4 * 1 + 3) (4 * 1)) = b <;>
    generalize permByte o u (fld v (4 * 2 + 3) (4 * 2)) = c <;>
    generalize permByte o u (fld v (4 * 3 + 3) (4 * 3)) = d <;>
    ext i hi <;> rw [BitVec.getElem_extractLsb'] <;>
    rw [BitVec.getLsbD_append, BitVec.getLsbD_append, BitVec.getLsbD_append] <;> grind

end Sys2Proof.Machine
end

