-- ==== Sys2Proof/Laws/State.lean ====
section
/-! SUPPORT. What each update of the state leaves unchanged, field by field, and what reading a list
after replacing an entry gives. -/

namespace Sys2Proof.Machine

/-! ### Lists with a default -/

@[simp] theorem rd_nil {α : Type} (d : α) (n : Nat) : rd d [] n = d := by cases n <;> rfl
@[simp] theorem rd_cons_zero {α : Type} (d x : α) (l : List α) : rd d (x :: l) 0 = x := rfl
@[simp] theorem rd_cons_succ {α : Type} (d x : α) (l : List α) (n : Nat) :
    rd d (x :: l) (n + 1) = rd d l n := rfl

/-- Reading a replaced entry gives the new one. -/
@[simp] theorem rd_wr_same {α : Type} (d x : α) (l : List α) (n : Nat) : rd d (wr d l n x) n = x := by
  induction n generalizing l with
  | zero => cases l <;> rfl
  | succ n ih => cases l <;> simp [wr, ih]

/-- Replacing one entry leaves the others. -/
theorem rd_wr_other {α : Type} (d x : α) (l : List α) (n m : Nat) (h : m ≠ n) :
    rd d (wr d l n x) m = rd d l m := by
  induction n generalizing l m with
  | zero => cases m with
    | zero => exact absurd rfl h
    | succ m => cases l <;> simp [wr]
  | succ n ih =>
    cases m with
    | zero => cases l <;> simp [wr]
    | succ m =>
      have h' : m ≠ n := fun e => h (by rw [e])
      cases l <;> simp [wr, ih _ _ h']

/-- Reading any entry of a list with one replaced. -/
theorem rd_wr {α : Type} (d x : α) (l : List α) (n m : Nat) :
    rd d (wr d l n x) m = if m = n then x else rd d l m := by
  by_cases h : m = n
  · simp [h]
  · simp [h, rd_wr_other d x l n m h]

/-- Reading any entry of a list with one updated. -/
theorem rd_upd {α : Type} (d : α) (l : List α) (n m : Nat) (f : α → α) :
    rd d (upd d l n f) m = if m = n then f (rd d l n) else rd d l m := rd_wr _ _ _ _ _

/-- Reading a list made entry by entry. -/
theorem rd_range_map {α : Type} (d : α) (n m : Nat) (f : Nat → α) (h : m < n) :
    rd d ((List.range n).map f) m = f m := by
  have gen : ∀ (l : List α) (k : Nat), rd d l k = (l[k]?).getD d := by
    intro l
    induction l with
    | nil => intro k; simp
    | cons x t ih => intro k; cases k <;> simp [ih]
  simp [gen, h]

/-- A mask holds the bits its test accepts. -/
@[simp] theorem getLsbD_maskOf (p : Nat → Bool) (l : Nat) : (maskOf p).getLsbD l = (decide (l < 32) && p l) := by
  have gen : ∀ (n : Nat) (m : Mask), n ≤ 32 →
      ((List.range n).foldl (fun m l => if p l then m ||| (1#32 <<< l) else m) m).getLsbD l
        = (m.getLsbD l || (decide (l < n) && p l)) := by
    intro n
    induction n with
    | zero => intro m _; simp
    | succ n ih =>
      intro m hn
      rw [List.range_succ, List.foldl_append, List.foldl_cons, List.foldl_nil]
      by_cases hp : p n
      · rw [if_pos hp, BitVec.getLsbD_or, ih m (by omega)]
        by_cases e : l = n
        · subst e; simp [hp]; omega
        · have : (1#32 <<< n).getLsbD l = false := by simp; omega
          have e2 : (decide (l ≤ n)) = decide (l < n) := by
            apply decide_eq_decide.mpr; omega
          simp [this, e2]
      · rw [if_neg hp, ih m (by omega)]
        by_cases e : l = n
        · subst e; simp [hp]
        · have e2 : (decide (l ≤ n)) = decide (l < n) := by
            apply decide_eq_decide.mpr; omega
          simp [e2]
  simpa [maskOf] using gen 32 0 (Nat.le_refl _)

/-! ### Reading a record after replacing it -/

theorem State.thread_mapThread (s : State) (i j : Nat) (f : Thread → Thread) :
    (s.mapThread i f).thread j = if j = i then f (s.thread i) else s.thread j := rd_upd _ _ _ _ _
@[simp] theorem State.me_mapMe (s : State) (f : Thread → Thread) : (s.mapMe f).me = f s.me := by
  simp [State.me, State.mapMe, State.thread, State.mapThread, rd_upd]
theorem State.lc_mapLC (s : State) (i j : Nat) (f : LC → LC) :
    (s.mapLC i f).lc j = if j = i then f (s.lc i) else s.lc j := rd_upd _ _ _ _ _
theorem State.domain_mapDomain (s : State) (i j : Nat) (f : Domain → Domain) :
    (s.mapDomain i f).domain j = if j = i then f (s.domain i) else s.domain j := rd_upd _ _ _ _ _
theorem State.core_mapCore (s : State) (i j : Nat) (f : CoreSt → CoreSt) :
    (s.mapCore i f).core j = if j = i then f (s.core i) else s.core j := rd_upd _ _ _ _ _
theorem State.die_mapDie (s : State) (i j : Nat) (f : Die → Die) :
    (s.mapDie i f).die j = if j = i then f (s.die i) else s.die j := rd_upd _ _ _ _ _
theorem State.fn_mapFn (s : State) (i j : Nat) (f : Fn → Fn) :
    (s.mapFn i f).fn j = if j = i then f (s.fn i) else s.fn j := rd_upd _ _ _ _ _
/-- The lanes of a thread whose lanes are replaced. -/
theorem Thread.lane_mapLanes (t : Thread) (f : Nat → Lane → Lane) (l : Nat) (h : l < 32) :
    (t.mapLanes f).lane l = f l (t.lane l) := rd_range_map _ _ _ _ h
theorem Thread.lane_mapLane (t : Thread) (i j : Nat) (f : Lane → Lane) :
    (t.mapLane i f).lane j = if j = i then f (t.lane i) else t.lane j := rd_upd _ _ _ _ _

/-! ### What each update leaves: one lemma for each field -/


@[simp] theorem State.hclk_mapThread (s : State) (tid : Nat) (f : Thread → Thread) : (s.mapThread tid f).hclk = s.hclk := rfl
@[simp] theorem State.enabled_mapThread (s : State) (tid : Nat) (f : Thread → Thread) : (s.mapThread tid f).enabled = s.enabled := rfl
@[simp] theorem State.bringUp_mapThread (s : State) (tid : Nat) (f : Thread → Thread) : (s.mapThread tid f).bringUp = s.bringUp := rfl
@[simp] theorem State.failed_mapThread (s : State) (tid : Nat) (f : Thread → Thread) : (s.mapThread tid f).failed = s.failed := rfl
@[simp] theorem State.slew_mapThread (s : State) (tid : Nat) (f : Thread → Thread) : (s.mapThread tid f).slew = s.slew := rfl
@[simp] theorem State.fwmeas_mapThread (s : State) (tid : Nat) (f : Thread → Thread) : (s.mapThread tid f).fwmeas = s.fwmeas := rfl
@[simp] theorem State.mem_mapThread (s : State) (tid : Nat) (f : Thread → Thread) : (s.mapThread tid f).mem = s.mem := rfl
@[simp] theorem State.lines_mapThread (s : State) (tid : Nat) (f : Thread → Thread) : (s.mapThread tid f).lines = s.lines := rfl
@[simp] theorem State.copies_mapThread (s : State) (tid : Nat) (f : Thread → Thread) : (s.mapThread tid f).copies = s.copies := rfl
@[simp] theorem State.reqs_mapThread (s : State) (tid : Nat) (f : Thread → Thread) : (s.mapThread tid f).reqs = s.reqs := rfl
@[simp] theorem State.stores_mapThread (s : State) (tid : Nat) (f : Thread → Thread) : (s.mapThread tid f).stores = s.stores := rfl
@[simp] theorem State.flawed_mapThread (s : State) (tid : Nat) (f : Thread → Thread) : (s.mapThread tid f).flawed = s.flawed := rfl
@[simp] theorem State.flawedStash_mapThread (s : State) (tid : Nat) (f : Thread → Thread) : (s.mapThread tid f).flawedStash = s.flawedStash := rfl
@[simp] theorem State.arrivals_mapThread (s : State) (tid : Nat) (f : Thread → Thread) : (s.mapThread tid f).arrivals = s.arrivals := rfl
@[simp] theorem State.moving_mapThread (s : State) (tid : Nat) (f : Thread → Thread) : (s.mapThread tid f).moving = s.moving := rfl
@[simp] theorem State.outbox_mapThread (s : State) (tid : Nat) (f : Thread → Thread) : (s.mapThread tid f).outbox = s.outbox := rfl
@[simp] theorem State.access_mapThread (s : State) (tid : Nat) (f : Thread → Thread) : (s.mapThread tid f).access = s.access := rfl
@[simp] theorem State.cores_mapThread (s : State) (tid : Nat) (f : Thread → Thread) : (s.mapThread tid f).cores = s.cores := rfl
@[simp] theorem State.dies_mapThread (s : State) (tid : Nat) (f : Thread → Thread) : (s.mapThread tid f).dies = s.dies := rfl
@[simp] theorem State.launches_mapThread (s : State) (tid : Nat) (f : Thread → Thread) : (s.mapThread tid f).launches = s.launches := rfl
@[simp] theorem State.lcs_mapThread (s : State) (tid : Nat) (f : Thread → Thread) : (s.mapThread tid f).lcs = s.lcs := rfl
@[simp] theorem State.domains_mapThread (s : State) (tid : Nat) (f : Thread → Thread) : (s.mapThread tid f).domains = s.domains := rfl
@[simp] theorem State.fns_mapThread (s : State) (tid : Nat) (f : Thread → Thread) : (s.mapThread tid f).fns = s.fns := rfl
@[simp] theorem State.unreached_mapThread (s : State) (tid : Nat) (f : Thread → Thread) : (s.mapThread tid f).unreached = s.unreached := rfl
@[simp] theorem State.gang_mapThread (s : State) (tid : Nat) (f : Thread → Thread) : (s.mapThread tid f).gang = s.gang := rfl
@[simp] theorem State.switching_mapThread (s : State) (tid : Nat) (f : Thread → Thread) : (s.mapThread tid f).switching = s.switching := rfl
@[simp] theorem State.schedule_mapThread (s : State) (tid : Nat) (f : Thread → Thread) : (s.mapThread tid f).schedule = s.schedule := rfl
@[simp] theorem State.agenda_mapThread (s : State) (tid : Nat) (f : Thread → Thread) : (s.mapThread tid f).agenda = s.agenda := rfl
@[simp] theorem State.copyTurn_mapThread (s : State) (tid : Nat) (f : Thread → Thread) : (s.mapThread tid f).copyTurn = s.copyTurn := rfl
@[simp] theorem State.cur_mapThread (s : State) (tid : Nat) (f : Thread → Thread) : (s.mapThread tid f).cur = s.cur := rfl
@[simp] theorem State.draws_mapThread (s : State) (tid : Nat) (f : Thread → Thread) : (s.mapThread tid f).draws = s.draws := rfl

@[simp] theorem State.hclk_mapMe (s : State) (f : Thread → Thread) : (s.mapMe f).hclk = s.hclk := rfl
@[simp] theorem State.enabled_mapMe (s : State) (f : Thread → Thread) : (s.mapMe f).enabled = s.enabled := rfl
@[simp] theorem State.bringUp_mapMe (s : State) (f : Thread → Thread) : (s.mapMe f).bringUp = s.bringUp := rfl
@[simp] theorem State.failed_mapMe (s : State) (f : Thread → Thread) : (s.mapMe f).failed = s.failed := rfl
@[simp] theorem State.slew_mapMe (s : State) (f : Thread → Thread) : (s.mapMe f).slew = s.slew := rfl
@[simp] theorem State.fwmeas_mapMe (s : State) (f : Thread → Thread) : (s.mapMe f).fwmeas = s.fwmeas := rfl
@[simp] theorem State.mem_mapMe (s : State) (f : Thread → Thread) : (s.mapMe f).mem = s.mem := rfl
@[simp] theorem State.lines_mapMe (s : State) (f : Thread → Thread) : (s.mapMe f).lines = s.lines := rfl
@[simp] theorem State.copies_mapMe (s : State) (f : Thread → Thread) : (s.mapMe f).copies = s.copies := rfl
@[simp] theorem State.reqs_mapMe (s : State) (f : Thread → Thread) : (s.mapMe f).reqs = s.reqs := rfl
@[simp] theorem State.stores_mapMe (s : State) (f : Thread → Thread) : (s.mapMe f).stores = s.stores := rfl
@[simp] theorem State.flawed_mapMe (s : State) (f : Thread → Thread) : (s.mapMe f).flawed = s.flawed := rfl
@[simp] theorem State.flawedStash_mapMe (s : State) (f : Thread → Thread) : (s.mapMe f).flawedStash = s.flawedStash := rfl
@[simp] theorem State.arrivals_mapMe (s : State) (f : Thread → Thread) : (s.mapMe f).arrivals = s.arrivals := rfl
@[simp] theorem State.moving_mapMe (s : State) (f : Thread → Thread) : (s.mapMe f).moving = s.moving := rfl
@[simp] theorem State.outbox_mapMe (s : State) (f : Thread → Thread) : (s.mapMe f).outbox = s.outbox := rfl
@[simp] theorem State.access_mapMe (s : State) (f : Thread → Thread) : (s.mapMe f).access = s.access := rfl
@[simp] theorem State.cores_mapMe (s : State) (f : Thread → Thread) : (s.mapMe f).cores = s.cores := rfl
@[simp] theorem State.dies_mapMe (s : State) (f : Thread → Thread) : (s.mapMe f).dies = s.dies := rfl
@[simp] theorem State.launches_mapMe (s : State) (f : Thread → Thread) : (s.mapMe f).launches = s.launches := rfl
@[simp] theorem State.lcs_mapMe (s : State) (f : Thread → Thread) : (s.mapMe f).lcs = s.lcs := rfl
@[simp] theorem State.domains_mapMe (s : State) (f : Thread → Thread) : (s.mapMe f).domains = s.domains := rfl
@[simp] theorem State.fns_mapMe (s : State) (f : Thread → Thread) : (s.mapMe f).fns = s.fns := rfl
@[simp] theorem State.unreached_mapMe (s : State) (f : Thread → Thread) : (s.mapMe f).unreached = s.unreached := rfl
@[simp] theorem State.gang_mapMe (s : State) (f : Thread → Thread) : (s.mapMe f).gang = s.gang := rfl
@[simp] theorem State.switching_mapMe (s : State) (f : Thread → Thread) : (s.mapMe f).switching = s.switching := rfl
@[simp] theorem State.schedule_mapMe (s : State) (f : Thread → Thread) : (s.mapMe f).schedule = s.schedule := rfl
@[simp] theorem State.agenda_mapMe (s : State) (f : Thread → Thread) : (s.mapMe f).agenda = s.agenda := rfl
@[simp] theorem State.copyTurn_mapMe (s : State) (f : Thread → Thread) : (s.mapMe f).copyTurn = s.copyTurn := rfl
@[simp] theorem State.cur_mapMe (s : State) (f : Thread → Thread) : (s.mapMe f).cur = s.cur := rfl
@[simp] theorem State.draws_mapMe (s : State) (f : Thread → Thread) : (s.mapMe f).draws = s.draws := rfl

@[simp] theorem State.hclk_mapLC (s : State) (n : Nat) (f : LC → LC) : (s.mapLC n f).hclk = s.hclk := rfl
@[simp] theorem State.enabled_mapLC (s : State) (n : Nat) (f : LC → LC) : (s.mapLC n f).enabled = s.enabled := rfl
@[simp] theorem State.bringUp_mapLC (s : State) (n : Nat) (f : LC → LC) : (s.mapLC n f).bringUp = s.bringUp := rfl
@[simp] theorem State.failed_mapLC (s : State) (n : Nat) (f : LC → LC) : (s.mapLC n f).failed = s.failed := rfl
@[simp] theorem State.slew_mapLC (s : State) (n : Nat) (f : LC → LC) : (s.mapLC n f).slew = s.slew := rfl
@[simp] theorem State.fwmeas_mapLC (s : State) (n : Nat) (f : LC → LC) : (s.mapLC n f).fwmeas = s.fwmeas := rfl
@[simp] theorem State.mem_mapLC (s : State) (n : Nat) (f : LC → LC) : (s.mapLC n f).mem = s.mem := rfl
@[simp] theorem State.lines_mapLC (s : State) (n : Nat) (f : LC → LC) : (s.mapLC n f).lines = s.lines := rfl
@[simp] theorem State.copies_mapLC (s : State) (n : Nat) (f : LC → LC) : (s.mapLC n f).copies = s.copies := rfl
@[simp] theorem State.reqs_mapLC (s : State) (n : Nat) (f : LC → LC) : (s.mapLC n f).reqs = s.reqs := rfl
@[simp] theorem State.stores_mapLC (s : State) (n : Nat) (f : LC → LC) : (s.mapLC n f).stores = s.stores := rfl
@[simp] theorem State.flawed_mapLC (s : State) (n : Nat) (f : LC → LC) : (s.mapLC n f).flawed = s.flawed := rfl
@[simp] theorem State.flawedStash_mapLC (s : State) (n : Nat) (f : LC → LC) : (s.mapLC n f).flawedStash = s.flawedStash := rfl
@[simp] theorem State.arrivals_mapLC (s : State) (n : Nat) (f : LC → LC) : (s.mapLC n f).arrivals = s.arrivals := rfl
@[simp] theorem State.moving_mapLC (s : State) (n : Nat) (f : LC → LC) : (s.mapLC n f).moving = s.moving := rfl
@[simp] theorem State.outbox_mapLC (s : State) (n : Nat) (f : LC → LC) : (s.mapLC n f).outbox = s.outbox := rfl
@[simp] theorem State.access_mapLC (s : State) (n : Nat) (f : LC → LC) : (s.mapLC n f).access = s.access := rfl
@[simp] theorem State.threads_mapLC (s : State) (n : Nat) (f : LC → LC) : (s.mapLC n f).threads = s.threads := rfl
@[simp] theorem State.cores_mapLC (s : State) (n : Nat) (f : LC → LC) : (s.mapLC n f).cores = s.cores := rfl
@[simp] theorem State.dies_mapLC (s : State) (n : Nat) (f : LC → LC) : (s.mapLC n f).dies = s.dies := rfl
@[simp] theorem State.launches_mapLC (s : State) (n : Nat) (f : LC → LC) : (s.mapLC n f).launches = s.launches := rfl
@[simp] theorem State.domains_mapLC (s : State) (n : Nat) (f : LC → LC) : (s.mapLC n f).domains = s.domains := rfl
@[simp] theorem State.fns_mapLC (s : State) (n : Nat) (f : LC → LC) : (s.mapLC n f).fns = s.fns := rfl
@[simp] theorem State.unreached_mapLC (s : State) (n : Nat) (f : LC → LC) : (s.mapLC n f).unreached = s.unreached := rfl
@[simp] theorem State.gang_mapLC (s : State) (n : Nat) (f : LC → LC) : (s.mapLC n f).gang = s.gang := rfl
@[simp] theorem State.switching_mapLC (s : State) (n : Nat) (f : LC → LC) : (s.mapLC n f).switching = s.switching := rfl
@[simp] theorem State.schedule_mapLC (s : State) (n : Nat) (f : LC → LC) : (s.mapLC n f).schedule = s.schedule := rfl
@[simp] theorem State.agenda_mapLC (s : State) (n : Nat) (f : LC → LC) : (s.mapLC n f).agenda = s.agenda := rfl
@[simp] theorem State.copyTurn_mapLC (s : State) (n : Nat) (f : LC → LC) : (s.mapLC n f).copyTurn = s.copyTurn := rfl
@[simp] theorem State.cur_mapLC (s : State) (n : Nat) (f : LC → LC) : (s.mapLC n f).cur = s.cur := rfl
@[simp] theorem State.draws_mapLC (s : State) (n : Nat) (f : LC → LC) : (s.mapLC n f).draws = s.draws := rfl

@[simp] theorem State.hclk_mapLaunch (s : State) (n : Nat) (f : Launch → Launch) : (s.mapLaunch n f).hclk = s.hclk := rfl
@[simp] theorem State.enabled_mapLaunch (s : State) (n : Nat) (f : Launch → Launch) : (s.mapLaunch n f).enabled = s.enabled := rfl
@[simp] theorem State.bringUp_mapLaunch (s : State) (n : Nat) (f : Launch → Launch) : (s.mapLaunch n f).bringUp = s.bringUp := rfl
@[simp] theorem State.failed_mapLaunch (s : State) (n : Nat) (f : Launch → Launch) : (s.mapLaunch n f).failed = s.failed := rfl
@[simp] theorem State.slew_mapLaunch (s : State) (n : Nat) (f : Launch → Launch) : (s.mapLaunch n f).slew = s.slew := rfl
@[simp] theorem State.fwmeas_mapLaunch (s : State) (n : Nat) (f : Launch → Launch) : (s.mapLaunch n f).fwmeas = s.fwmeas := rfl
@[simp] theorem State.mem_mapLaunch (s : State) (n : Nat) (f : Launch → Launch) : (s.mapLaunch n f).mem = s.mem := rfl
@[simp] theorem State.lines_mapLaunch (s : State) (n : Nat) (f : Launch → Launch) : (s.mapLaunch n f).lines = s.lines := rfl
@[simp] theorem State.copies_mapLaunch (s : State) (n : Nat) (f : Launch → Launch) : (s.mapLaunch n f).copies = s.copies := rfl
@[simp] theorem State.reqs_mapLaunch (s : State) (n : Nat) (f : Launch → Launch) : (s.mapLaunch n f).reqs = s.reqs := rfl
@[simp] theorem State.stores_mapLaunch (s : State) (n : Nat) (f : Launch → Launch) : (s.mapLaunch n f).stores = s.stores := rfl
@[simp] theorem State.flawed_mapLaunch (s : State) (n : Nat) (f : Launch → Launch) : (s.mapLaunch n f).flawed = s.flawed := rfl
@[simp] theorem State.flawedStash_mapLaunch (s : State) (n : Nat) (f : Launch → Launch) : (s.mapLaunch n f).flawedStash = s.flawedStash := rfl
@[simp] theorem State.arrivals_mapLaunch (s : State) (n : Nat) (f : Launch → Launch) : (s.mapLaunch n f).arrivals = s.arrivals := rfl
@[simp] theorem State.moving_mapLaunch (s : State) (n : Nat) (f : Launch → Launch) : (s.mapLaunch n f).moving = s.moving := rfl
@[simp] theorem State.outbox_mapLaunch (s : State) (n : Nat) (f : Launch → Launch) : (s.mapLaunch n f).outbox = s.outbox := rfl
@[simp] theorem State.access_mapLaunch (s : State) (n : Nat) (f : Launch → Launch) : (s.mapLaunch n f).access = s.access := rfl
@[simp] theorem State.threads_mapLaunch (s : State) (n : Nat) (f : Launch → Launch) : (s.mapLaunch n f).threads = s.threads := rfl
@[simp] theorem State.cores_mapLaunch (s : State) (n : Nat) (f : Launch → Launch) : (s.mapLaunch n f).cores = s.cores := rfl
@[simp] theorem State.dies_mapLaunch (s : State) (n : Nat) (f : Launch → Launch) : (s.mapLaunch n f).dies = s.dies := rfl
@[simp] theorem State.lcs_mapLaunch (s : State) (n : Nat) (f : Launch → Launch) : (s.mapLaunch n f).lcs = s.lcs := rfl
@[simp] theorem State.domains_mapLaunch (s : State) (n : Nat) (f : Launch → Launch) : (s.mapLaunch n f).domains = s.domains := rfl
@[simp] theorem State.fns_mapLaunch (s : State) (n : Nat) (f : Launch → Launch) : (s.mapLaunch n f).fns = s.fns := rfl
@[simp] theorem State.unreached_mapLaunch (s : State) (n : Nat) (f : Launch → Launch) : (s.mapLaunch n f).unreached = s.unreached := rfl
@[simp] theorem State.gang_mapLaunch (s : State) (n : Nat) (f : Launch → Launch) : (s.mapLaunch n f).gang = s.gang := rfl
@[simp] theorem State.switching_mapLaunch (s : State) (n : Nat) (f : Launch → Launch) : (s.mapLaunch n f).switching = s.switching := rfl
@[simp] theorem State.schedule_mapLaunch (s : State) (n : Nat) (f : Launch → Launch) : (s.mapLaunch n f).schedule = s.schedule := rfl
@[simp] theorem State.agenda_mapLaunch (s : State) (n : Nat) (f : Launch → Launch) : (s.mapLaunch n f).agenda = s.agenda := rfl
@[simp] theorem State.copyTurn_mapLaunch (s : State) (n : Nat) (f : Launch → Launch) : (s.mapLaunch n f).copyTurn = s.copyTurn := rfl
@[simp] theorem State.cur_mapLaunch (s : State) (n : Nat) (f : Launch → Launch) : (s.mapLaunch n f).cur = s.cur := rfl
@[simp] theorem State.draws_mapLaunch (s : State) (n : Nat) (f : Launch → Launch) : (s.mapLaunch n f).draws = s.draws := rfl

@[simp] theorem State.hclk_mapDomain (s : State) (n : Nat) (f : Domain → Domain) : (s.mapDomain n f).hclk = s.hclk := rfl
@[simp] theorem State.enabled_mapDomain (s : State) (n : Nat) (f : Domain → Domain) : (s.mapDomain n f).enabled = s.enabled := rfl
@[simp] theorem State.bringUp_mapDomain (s : State) (n : Nat) (f : Domain → Domain) : (s.mapDomain n f).bringUp = s.bringUp := rfl
@[simp] theorem State.failed_mapDomain (s : State) (n : Nat) (f : Domain → Domain) : (s.mapDomain n f).failed = s.failed := rfl
@[simp] theorem State.slew_mapDomain (s : State) (n : Nat) (f : Domain → Domain) : (s.mapDomain n f).slew = s.slew := rfl
@[simp] theorem State.fwmeas_mapDomain (s : State) (n : Nat) (f : Domain → Domain) : (s.mapDomain n f).fwmeas = s.fwmeas := rfl
@[simp] theorem State.mem_mapDomain (s : State) (n : Nat) (f : Domain → Domain) : (s.mapDomain n f).mem = s.mem := rfl
@[simp] theorem State.lines_mapDomain (s : State) (n : Nat) (f : Domain → Domain) : (s.mapDomain n f).lines = s.lines := rfl
@[simp] theorem State.copies_mapDomain (s : State) (n : Nat) (f : Domain → Domain) : (s.mapDomain n f).copies = s.copies := rfl
@[simp] theorem State.reqs_mapDomain (s : State) (n : Nat) (f : Domain → Domain) : (s.mapDomain n f).reqs = s.reqs := rfl
@[simp] theorem State.stores_mapDomain (s : State) (n : Nat) (f : Domain → Domain) : (s.mapDomain n f).stores = s.stores := rfl
@[simp] theorem State.flawed_mapDomain (s : State) (n : Nat) (f : Domain → Domain) : (s.mapDomain n f).flawed = s.flawed := rfl
@[simp] theorem State.flawedStash_mapDomain (s : State) (n : Nat) (f : Domain → Domain) : (s.mapDomain n f).flawedStash = s.flawedStash := rfl
@[simp] theorem State.arrivals_mapDomain (s : State) (n : Nat) (f : Domain → Domain) : (s.mapDomain n f).arrivals = s.arrivals := rfl
@[simp] theorem State.moving_mapDomain (s : State) (n : Nat) (f : Domain → Domain) : (s.mapDomain n f).moving = s.moving := rfl
@[simp] theorem State.outbox_mapDomain (s : State) (n : Nat) (f : Domain → Domain) : (s.mapDomain n f).outbox = s.outbox := rfl
@[simp] theorem State.access_mapDomain (s : State) (n : Nat) (f : Domain → Domain) : (s.mapDomain n f).access = s.access := rfl
@[simp] theorem State.threads_mapDomain (s : State) (n : Nat) (f : Domain → Domain) : (s.mapDomain n f).threads = s.threads := rfl
@[simp] theorem State.cores_mapDomain (s : State) (n : Nat) (f : Domain → Domain) : (s.mapDomain n f).cores = s.cores := rfl
@[simp] theorem State.dies_mapDomain (s : State) (n : Nat) (f : Domain → Domain) : (s.mapDomain n f).dies = s.dies := rfl
@[simp] theorem State.launches_mapDomain (s : State) (n : Nat) (f : Domain → Domain) : (s.mapDomain n f).launches = s.launches := rfl
@[simp] theorem State.lcs_mapDomain (s : State) (n : Nat) (f : Domain → Domain) : (s.mapDomain n f).lcs = s.lcs := rfl
@[simp] theorem State.fns_mapDomain (s : State) (n : Nat) (f : Domain → Domain) : (s.mapDomain n f).fns = s.fns := rfl
@[simp] theorem State.unreached_mapDomain (s : State) (n : Nat) (f : Domain → Domain) : (s.mapDomain n f).unreached = s.unreached := rfl
@[simp] theorem State.gang_mapDomain (s : State) (n : Nat) (f : Domain → Domain) : (s.mapDomain n f).gang = s.gang := rfl
@[simp] theorem State.switching_mapDomain (s : State) (n : Nat) (f : Domain → Domain) : (s.mapDomain n f).switching = s.switching := rfl
@[simp] theorem State.schedule_mapDomain (s : State) (n : Nat) (f : Domain → Domain) : (s.mapDomain n f).schedule = s.schedule := rfl
@[simp] theorem State.agenda_mapDomain (s : State) (n : Nat) (f : Domain → Domain) : (s.mapDomain n f).agenda = s.agenda := rfl
@[simp] theorem State.copyTurn_mapDomain (s : State) (n : Nat) (f : Domain → Domain) : (s.mapDomain n f).copyTurn = s.copyTurn := rfl
@[simp] theorem State.cur_mapDomain (s : State) (n : Nat) (f : Domain → Domain) : (s.mapDomain n f).cur = s.cur := rfl
@[simp] theorem State.draws_mapDomain (s : State) (n : Nat) (f : Domain → Domain) : (s.mapDomain n f).draws = s.draws := rfl

@[simp] theorem State.hclk_mapUnit (s : State) (n c : Nat) (f : Unit_ → Unit_) : (s.mapUnit n c f).hclk = s.hclk := rfl
@[simp] theorem State.enabled_mapUnit (s : State) (n c : Nat) (f : Unit_ → Unit_) : (s.mapUnit n c f).enabled = s.enabled := rfl
@[simp] theorem State.bringUp_mapUnit (s : State) (n c : Nat) (f : Unit_ → Unit_) : (s.mapUnit n c f).bringUp = s.bringUp := rfl
@[simp] theorem State.failed_mapUnit (s : State) (n c : Nat) (f : Unit_ → Unit_) : (s.mapUnit n c f).failed = s.failed := rfl
@[simp] theorem State.slew_mapUnit (s : State) (n c : Nat) (f : Unit_ → Unit_) : (s.mapUnit n c f).slew = s.slew := rfl
@[simp] theorem State.fwmeas_mapUnit (s : State) (n c : Nat) (f : Unit_ → Unit_) : (s.mapUnit n c f).fwmeas = s.fwmeas := rfl
@[simp] theorem State.mem_mapUnit (s : State) (n c : Nat) (f : Unit_ → Unit_) : (s.mapUnit n c f).mem = s.mem := rfl
@[simp] theorem State.lines_mapUnit (s : State) (n c : Nat) (f : Unit_ → Unit_) : (s.mapUnit n c f).lines = s.lines := rfl
@[simp] theorem State.copies_mapUnit (s : State) (n c : Nat) (f : Unit_ → Unit_) : (s.mapUnit n c f).copies = s.copies := rfl
@[simp] theorem State.reqs_mapUnit (s : State) (n c : Nat) (f : Unit_ → Unit_) : (s.mapUnit n c f).reqs = s.reqs := rfl
@[simp] theorem State.stores_mapUnit (s : State) (n c : Nat) (f : Unit_ → Unit_) : (s.mapUnit n c f).stores = s.stores := rfl
@[simp] theorem State.flawed_mapUnit (s : State) (n c : Nat) (f : Unit_ → Unit_) : (s.mapUnit n c f).flawed = s.flawed := rfl
@[simp] theorem State.flawedStash_mapUnit (s : State) (n c : Nat) (f : Unit_ → Unit_) : (s.mapUnit n c f).flawedStash = s.flawedStash := rfl
@[simp] theorem State.arrivals_mapUnit (s : State) (n c : Nat) (f : Unit_ → Unit_) : (s.mapUnit n c f).arrivals = s.arrivals := rfl
@[simp] theorem State.moving_mapUnit (s : State) (n c : Nat) (f : Unit_ → Unit_) : (s.mapUnit n c f).moving = s.moving := rfl
@[simp] theorem State.outbox_mapUnit (s : State) (n c : Nat) (f : Unit_ → Unit_) : (s.mapUnit n c f).outbox = s.outbox := rfl
@[simp] theorem State.access_mapUnit (s : State) (n c : Nat) (f : Unit_ → Unit_) : (s.mapUnit n c f).access = s.access := rfl
@[simp] theorem State.threads_mapUnit (s : State) (n c : Nat) (f : Unit_ → Unit_) : (s.mapUnit n c f).threads = s.threads := rfl
@[simp] theorem State.cores_mapUnit (s : State) (n c : Nat) (f : Unit_ → Unit_) : (s.mapUnit n c f).cores = s.cores := rfl
@[simp] theorem State.dies_mapUnit (s : State) (n c : Nat) (f : Unit_ → Unit_) : (s.mapUnit n c f).dies = s.dies := rfl
@[simp] theorem State.launches_mapUnit (s : State) (n c : Nat) (f : Unit_ → Unit_) : (s.mapUnit n c f).launches = s.launches := rfl
@[simp] theorem State.lcs_mapUnit (s : State) (n c : Nat) (f : Unit_ → Unit_) : (s.mapUnit n c f).lcs = s.lcs := rfl
@[simp] theorem State.fns_mapUnit (s : State) (n c : Nat) (f : Unit_ → Unit_) : (s.mapUnit n c f).fns = s.fns := rfl
@[simp] theorem State.unreached_mapUnit (s : State) (n c : Nat) (f : Unit_ → Unit_) : (s.mapUnit n c f).unreached = s.unreached := rfl
@[simp] theorem State.gang_mapUnit (s : State) (n c : Nat) (f : Unit_ → Unit_) : (s.mapUnit n c f).gang = s.gang := rfl
@[simp] theorem State.switching_mapUnit (s : State) (n c : Nat) (f : Unit_ → Unit_) : (s.mapUnit n c f).switching = s.switching := rfl
@[simp] theorem State.schedule_mapUnit (s : State) (n c : Nat) (f : Unit_ → Unit_) : (s.mapUnit n c f).schedule = s.schedule := rfl
@[simp] theorem State.agenda_mapUnit (s : State) (n c : Nat) (f : Unit_ → Unit_) : (s.mapUnit n c f).agenda = s.agenda := rfl
@[simp] theorem State.copyTurn_mapUnit (s : State) (n c : Nat) (f : Unit_ → Unit_) : (s.mapUnit n c f).copyTurn = s.copyTurn := rfl
@[simp] theorem State.cur_mapUnit (s : State) (n c : Nat) (f : Unit_ → Unit_) : (s.mapUnit n c f).cur = s.cur := rfl
@[simp] theorem State.draws_mapUnit (s : State) (n c : Nat) (f : Unit_ → Unit_) : (s.mapUnit n c f).draws = s.draws := rfl

@[simp] theorem State.hclk_mapUnitOf (s : State) (tid : Nat) (f : Unit_ → Unit_) : (s.mapUnitOf tid f).hclk = s.hclk := rfl
@[simp] theorem State.enabled_mapUnitOf (s : State) (tid : Nat) (f : Unit_ → Unit_) : (s.mapUnitOf tid f).enabled = s.enabled := rfl
@[simp] theorem State.bringUp_mapUnitOf (s : State) (tid : Nat) (f : Unit_ → Unit_) : (s.mapUnitOf tid f).bringUp = s.bringUp := rfl
@[simp] theorem State.failed_mapUnitOf (s : State) (tid : Nat) (f : Unit_ → Unit_) : (s.mapUnitOf tid f).failed = s.failed := rfl
@[simp] theorem State.slew_mapUnitOf (s : State) (tid : Nat) (f : Unit_ → Unit_) : (s.mapUnitOf tid f).slew = s.slew := rfl
@[simp] theorem State.fwmeas_mapUnitOf (s : State) (tid : Nat) (f : Unit_ → Unit_) : (s.mapUnitOf tid f).fwmeas = s.fwmeas := rfl
@[simp] theorem State.mem_mapUnitOf (s : State) (tid : Nat) (f : Unit_ → Unit_) : (s.mapUnitOf tid f).mem = s.mem := rfl
@[simp] theorem State.lines_mapUnitOf (s : State) (tid : Nat) (f : Unit_ → Unit_) : (s.mapUnitOf tid f).lines = s.lines := rfl
@[simp] theorem State.copies_mapUnitOf (s : State) (tid : Nat) (f : Unit_ → Unit_) : (s.mapUnitOf tid f).copies = s.copies := rfl
@[simp] theorem State.reqs_mapUnitOf (s : State) (tid : Nat) (f : Unit_ → Unit_) : (s.mapUnitOf tid f).reqs = s.reqs := rfl
@[simp] theorem State.stores_mapUnitOf (s : State) (tid : Nat) (f : Unit_ → Unit_) : (s.mapUnitOf tid f).stores = s.stores := rfl
@[simp] theorem State.flawed_mapUnitOf (s : State) (tid : Nat) (f : Unit_ → Unit_) : (s.mapUnitOf tid f).flawed = s.flawed := rfl
@[simp] theorem State.flawedStash_mapUnitOf (s : State) (tid : Nat) (f : Unit_ → Unit_) : (s.mapUnitOf tid f).flawedStash = s.flawedStash := rfl
@[simp] theorem State.arrivals_mapUnitOf (s : State) (tid : Nat) (f : Unit_ → Unit_) : (s.mapUnitOf tid f).arrivals = s.arrivals := rfl
@[simp] theorem State.moving_mapUnitOf (s : State) (tid : Nat) (f : Unit_ → Unit_) : (s.mapUnitOf tid f).moving = s.moving := rfl
@[simp] theorem State.outbox_mapUnitOf (s : State) (tid : Nat) (f : Unit_ → Unit_) : (s.mapUnitOf tid f).outbox = s.outbox := rfl
@[simp] theorem State.access_mapUnitOf (s : State) (tid : Nat) (f : Unit_ → Unit_) : (s.mapUnitOf tid f).access = s.access := rfl
@[simp] theorem State.threads_mapUnitOf (s : State) (tid : Nat) (f : Unit_ → Unit_) : (s.mapUnitOf tid f).threads = s.threads := rfl
@[simp] theorem State.cores_mapUnitOf (s : State) (tid : Nat) (f : Unit_ → Unit_) : (s.mapUnitOf tid f).cores = s.cores := rfl
@[simp] theorem State.dies_mapUnitOf (s : State) (tid : Nat) (f : Unit_ → Unit_) : (s.mapUnitOf tid f).dies = s.dies := rfl
@[simp] theorem State.launches_mapUnitOf (s : State) (tid : Nat) (f : Unit_ → Unit_) : (s.mapUnitOf tid f).launches = s.launches := rfl
@[simp] theorem State.lcs_mapUnitOf (s : State) (tid : Nat) (f : Unit_ → Unit_) : (s.mapUnitOf tid f).lcs = s.lcs := rfl
@[simp] theorem State.fns_mapUnitOf (s : State) (tid : Nat) (f : Unit_ → Unit_) : (s.mapUnitOf tid f).fns = s.fns := rfl
@[simp] theorem State.unreached_mapUnitOf (s : State) (tid : Nat) (f : Unit_ → Unit_) : (s.mapUnitOf tid f).unreached = s.unreached := rfl
@[simp] theorem State.gang_mapUnitOf (s : State) (tid : Nat) (f : Unit_ → Unit_) : (s.mapUnitOf tid f).gang = s.gang := rfl
@[simp] theorem State.switching_mapUnitOf (s : State) (tid : Nat) (f : Unit_ → Unit_) : (s.mapUnitOf tid f).switching = s.switching := rfl
@[simp] theorem State.schedule_mapUnitOf (s : State) (tid : Nat) (f : Unit_ → Unit_) : (s.mapUnitOf tid f).schedule = s.schedule := rfl
@[simp] theorem State.agenda_mapUnitOf (s : State) (tid : Nat) (f : Unit_ → Unit_) : (s.mapUnitOf tid f).agenda = s.agenda := rfl
@[simp] theorem State.copyTurn_mapUnitOf (s : State) (tid : Nat) (f : Unit_ → Unit_) : (s.mapUnitOf tid f).copyTurn = s.copyTurn := rfl
@[simp] theorem State.cur_mapUnitOf (s : State) (tid : Nat) (f : Unit_ → Unit_) : (s.mapUnitOf tid f).cur = s.cur := rfl
@[simp] theorem State.draws_mapUnitOf (s : State) (tid : Nat) (f : Unit_ → Unit_) : (s.mapUnitOf tid f).draws = s.draws := rfl

@[simp] theorem State.hclk_mapCore (s : State) (n : Nat) (f : CoreSt → CoreSt) : (s.mapCore n f).hclk = s.hclk := rfl
@[simp] theorem State.enabled_mapCore (s : State) (n : Nat) (f : CoreSt → CoreSt) : (s.mapCore n f).enabled = s.enabled := rfl
@[simp] theorem State.bringUp_mapCore (s : State) (n : Nat) (f : CoreSt → CoreSt) : (s.mapCore n f).bringUp = s.bringUp := rfl
@[simp] theorem State.failed_mapCore (s : State) (n : Nat) (f : CoreSt → CoreSt) : (s.mapCore n f).failed = s.failed := rfl
@[simp] theorem State.slew_mapCore (s : State) (n : Nat) (f : CoreSt → CoreSt) : (s.mapCore n f).slew = s.slew := rfl
@[simp] theorem State.fwmeas_mapCore (s : State) (n : Nat) (f : CoreSt → CoreSt) : (s.mapCore n f).fwmeas = s.fwmeas := rfl
@[simp] theorem State.mem_mapCore (s : State) (n : Nat) (f : CoreSt → CoreSt) : (s.mapCore n f).mem = s.mem := rfl
@[simp] theorem State.lines_mapCore (s : State) (n : Nat) (f : CoreSt → CoreSt) : (s.mapCore n f).lines = s.lines := rfl
@[simp] theorem State.copies_mapCore (s : State) (n : Nat) (f : CoreSt → CoreSt) : (s.mapCore n f).copies = s.copies := rfl
@[simp] theorem State.reqs_mapCore (s : State) (n : Nat) (f : CoreSt → CoreSt) : (s.mapCore n f).reqs = s.reqs := rfl
@[simp] theorem State.stores_mapCore (s : State) (n : Nat) (f : CoreSt → CoreSt) : (s.mapCore n f).stores = s.stores := rfl
@[simp] theorem State.flawed_mapCore (s : State) (n : Nat) (f : CoreSt → CoreSt) : (s.mapCore n f).flawed = s.flawed := rfl
@[simp] theorem State.flawedStash_mapCore (s : State) (n : Nat) (f : CoreSt → CoreSt) : (s.mapCore n f).flawedStash = s.flawedStash := rfl
@[simp] theorem State.arrivals_mapCore (s : State) (n : Nat) (f : CoreSt → CoreSt) : (s.mapCore n f).arrivals = s.arrivals := rfl
@[simp] theorem State.moving_mapCore (s : State) (n : Nat) (f : CoreSt → CoreSt) : (s.mapCore n f).moving = s.moving := rfl
@[simp] theorem State.outbox_mapCore (s : State) (n : Nat) (f : CoreSt → CoreSt) : (s.mapCore n f).outbox = s.outbox := rfl
@[simp] theorem State.access_mapCore (s : State) (n : Nat) (f : CoreSt → CoreSt) : (s.mapCore n f).access = s.access := rfl
@[simp] theorem State.threads_mapCore (s : State) (n : Nat) (f : CoreSt → CoreSt) : (s.mapCore n f).threads = s.threads := rfl
@[simp] theorem State.dies_mapCore (s : State) (n : Nat) (f : CoreSt → CoreSt) : (s.mapCore n f).dies = s.dies := rfl
@[simp] theorem State.launches_mapCore (s : State) (n : Nat) (f : CoreSt → CoreSt) : (s.mapCore n f).launches = s.launches := rfl
@[simp] theorem State.lcs_mapCore (s : State) (n : Nat) (f : CoreSt → CoreSt) : (s.mapCore n f).lcs = s.lcs := rfl
@[simp] theorem State.domains_mapCore (s : State) (n : Nat) (f : CoreSt → CoreSt) : (s.mapCore n f).domains = s.domains := rfl
@[simp] theorem State.fns_mapCore (s : State) (n : Nat) (f : CoreSt → CoreSt) : (s.mapCore n f).fns = s.fns := rfl
@[simp] theorem State.unreached_mapCore (s : State) (n : Nat) (f : CoreSt → CoreSt) : (s.mapCore n f).unreached = s.unreached := rfl
@[simp] theorem State.gang_mapCore (s : State) (n : Nat) (f : CoreSt → CoreSt) : (s.mapCore n f).gang = s.gang := rfl
@[simp] theorem State.switching_mapCore (s : State) (n : Nat) (f : CoreSt → CoreSt) : (s.mapCore n f).switching = s.switching := rfl
@[simp] theorem State.schedule_mapCore (s : State) (n : Nat) (f : CoreSt → CoreSt) : (s.mapCore n f).schedule = s.schedule := rfl
@[simp] theorem State.agenda_mapCore (s : State) (n : Nat) (f : CoreSt → CoreSt) : (s.mapCore n f).agenda = s.agenda := rfl
@[simp] theorem State.copyTurn_mapCore (s : State) (n : Nat) (f : CoreSt → CoreSt) : (s.mapCore n f).copyTurn = s.copyTurn := rfl
@[simp] theorem State.cur_mapCore (s : State) (n : Nat) (f : CoreSt → CoreSt) : (s.mapCore n f).cur = s.cur := rfl
@[simp] theorem State.draws_mapCore (s : State) (n : Nat) (f : CoreSt → CoreSt) : (s.mapCore n f).draws = s.draws := rfl

@[simp] theorem State.hclk_mapDie (s : State) (n : Nat) (f : Die → Die) : (s.mapDie n f).hclk = s.hclk := rfl
@[simp] theorem State.enabled_mapDie (s : State) (n : Nat) (f : Die → Die) : (s.mapDie n f).enabled = s.enabled := rfl
@[simp] theorem State.bringUp_mapDie (s : State) (n : Nat) (f : Die → Die) : (s.mapDie n f).bringUp = s.bringUp := rfl
@[simp] theorem State.failed_mapDie (s : State) (n : Nat) (f : Die → Die) : (s.mapDie n f).failed = s.failed := rfl
@[simp] theorem State.slew_mapDie (s : State) (n : Nat) (f : Die → Die) : (s.mapDie n f).slew = s.slew := rfl
@[simp] theorem State.fwmeas_mapDie (s : State) (n : Nat) (f : Die → Die) : (s.mapDie n f).fwmeas = s.fwmeas := rfl
@[simp] theorem State.mem_mapDie (s : State) (n : Nat) (f : Die → Die) : (s.mapDie n f).mem = s.mem := rfl
@[simp] theorem State.lines_mapDie (s : State) (n : Nat) (f : Die → Die) : (s.mapDie n f).lines = s.lines := rfl
@[simp] theorem State.copies_mapDie (s : State) (n : Nat) (f : Die → Die) : (s.mapDie n f).copies = s.copies := rfl
@[simp] theorem State.reqs_mapDie (s : State) (n : Nat) (f : Die → Die) : (s.mapDie n f).reqs = s.reqs := rfl
@[simp] theorem State.stores_mapDie (s : State) (n : Nat) (f : Die → Die) : (s.mapDie n f).stores = s.stores := rfl
@[simp] theorem State.flawed_mapDie (s : State) (n : Nat) (f : Die → Die) : (s.mapDie n f).flawed = s.flawed := rfl
@[simp] theorem State.flawedStash_mapDie (s : State) (n : Nat) (f : Die → Die) : (s.mapDie n f).flawedStash = s.flawedStash := rfl
@[simp] theorem State.arrivals_mapDie (s : State) (n : Nat) (f : Die → Die) : (s.mapDie n f).arrivals = s.arrivals := rfl
@[simp] theorem State.moving_mapDie (s : State) (n : Nat) (f : Die → Die) : (s.mapDie n f).moving = s.moving := rfl
@[simp] theorem State.outbox_mapDie (s : State) (n : Nat) (f : Die → Die) : (s.mapDie n f).outbox = s.outbox := rfl
@[simp] theorem State.access_mapDie (s : State) (n : Nat) (f : Die → Die) : (s.mapDie n f).access = s.access := rfl
@[simp] theorem State.threads_mapDie (s : State) (n : Nat) (f : Die → Die) : (s.mapDie n f).threads = s.threads := rfl
@[simp] theorem State.cores_mapDie (s : State) (n : Nat) (f : Die → Die) : (s.mapDie n f).cores = s.cores := rfl
@[simp] theorem State.launches_mapDie (s : State) (n : Nat) (f : Die → Die) : (s.mapDie n f).launches = s.launches := rfl
@[simp] theorem State.lcs_mapDie (s : State) (n : Nat) (f : Die → Die) : (s.mapDie n f).lcs = s.lcs := rfl
@[simp] theorem State.domains_mapDie (s : State) (n : Nat) (f : Die → Die) : (s.mapDie n f).domains = s.domains := rfl
@[simp] theorem State.fns_mapDie (s : State) (n : Nat) (f : Die → Die) : (s.mapDie n f).fns = s.fns := rfl
@[simp] theorem State.unreached_mapDie (s : State) (n : Nat) (f : Die → Die) : (s.mapDie n f).unreached = s.unreached := rfl
@[simp] theorem State.gang_mapDie (s : State) (n : Nat) (f : Die → Die) : (s.mapDie n f).gang = s.gang := rfl
@[simp] theorem State.switching_mapDie (s : State) (n : Nat) (f : Die → Die) : (s.mapDie n f).switching = s.switching := rfl
@[simp] theorem State.schedule_mapDie (s : State) (n : Nat) (f : Die → Die) : (s.mapDie n f).schedule = s.schedule := rfl
@[simp] theorem State.agenda_mapDie (s : State) (n : Nat) (f : Die → Die) : (s.mapDie n f).agenda = s.agenda := rfl
@[simp] theorem State.copyTurn_mapDie (s : State) (n : Nat) (f : Die → Die) : (s.mapDie n f).copyTurn = s.copyTurn := rfl
@[simp] theorem State.cur_mapDie (s : State) (n : Nat) (f : Die → Die) : (s.mapDie n f).cur = s.cur := rfl
@[simp] theorem State.draws_mapDie (s : State) (n : Nat) (f : Die → Die) : (s.mapDie n f).draws = s.draws := rfl

@[simp] theorem State.hclk_mapFn (s : State) (n : Nat) (f : Fn → Fn) : (s.mapFn n f).hclk = s.hclk := rfl
@[simp] theorem State.enabled_mapFn (s : State) (n : Nat) (f : Fn → Fn) : (s.mapFn n f).enabled = s.enabled := rfl
@[simp] theorem State.bringUp_mapFn (s : State) (n : Nat) (f : Fn → Fn) : (s.mapFn n f).bringUp = s.bringUp := rfl
@[simp] theorem State.failed_mapFn (s : State) (n : Nat) (f : Fn → Fn) : (s.mapFn n f).failed = s.failed := rfl
@[simp] theorem State.slew_mapFn (s : State) (n : Nat) (f : Fn → Fn) : (s.mapFn n f).slew = s.slew := rfl
@[simp] theorem State.fwmeas_mapFn (s : State) (n : Nat) (f : Fn → Fn) : (s.mapFn n f).fwmeas = s.fwmeas := rfl
@[simp] theorem State.mem_mapFn (s : State) (n : Nat) (f : Fn → Fn) : (s.mapFn n f).mem = s.mem := rfl
@[simp] theorem State.lines_mapFn (s : State) (n : Nat) (f : Fn → Fn) : (s.mapFn n f).lines = s.lines := rfl
@[simp] theorem State.copies_mapFn (s : State) (n : Nat) (f : Fn → Fn) : (s.mapFn n f).copies = s.copies := rfl
@[simp] theorem State.reqs_mapFn (s : State) (n : Nat) (f : Fn → Fn) : (s.mapFn n f).reqs = s.reqs := rfl
@[simp] theorem State.stores_mapFn (s : State) (n : Nat) (f : Fn → Fn) : (s.mapFn n f).stores = s.stores := rfl
@[simp] theorem State.flawed_mapFn (s : State) (n : Nat) (f : Fn → Fn) : (s.mapFn n f).flawed = s.flawed := rfl
@[simp] theorem State.flawedStash_mapFn (s : State) (n : Nat) (f : Fn → Fn) : (s.mapFn n f).flawedStash = s.flawedStash := rfl
@[simp] theorem State.arrivals_mapFn (s : State) (n : Nat) (f : Fn → Fn) : (s.mapFn n f).arrivals = s.arrivals := rfl
@[simp] theorem State.moving_mapFn (s : State) (n : Nat) (f : Fn → Fn) : (s.mapFn n f).moving = s.moving := rfl
@[simp] theorem State.outbox_mapFn (s : State) (n : Nat) (f : Fn → Fn) : (s.mapFn n f).outbox = s.outbox := rfl
@[simp] theorem State.access_mapFn (s : State) (n : Nat) (f : Fn → Fn) : (s.mapFn n f).access = s.access := rfl
@[simp] theorem State.threads_mapFn (s : State) (n : Nat) (f : Fn → Fn) : (s.mapFn n f).threads = s.threads := rfl
@[simp] theorem State.cores_mapFn (s : State) (n : Nat) (f : Fn → Fn) : (s.mapFn n f).cores = s.cores := rfl
@[simp] theorem State.dies_mapFn (s : State) (n : Nat) (f : Fn → Fn) : (s.mapFn n f).dies = s.dies := rfl
@[simp] theorem State.launches_mapFn (s : State) (n : Nat) (f : Fn → Fn) : (s.mapFn n f).launches = s.launches := rfl
@[simp] theorem State.lcs_mapFn (s : State) (n : Nat) (f : Fn → Fn) : (s.mapFn n f).lcs = s.lcs := rfl
@[simp] theorem State.domains_mapFn (s : State) (n : Nat) (f : Fn → Fn) : (s.mapFn n f).domains = s.domains := rfl
@[simp] theorem State.unreached_mapFn (s : State) (n : Nat) (f : Fn → Fn) : (s.mapFn n f).unreached = s.unreached := rfl
@[simp] theorem State.gang_mapFn (s : State) (n : Nat) (f : Fn → Fn) : (s.mapFn n f).gang = s.gang := rfl
@[simp] theorem State.switching_mapFn (s : State) (n : Nat) (f : Fn → Fn) : (s.mapFn n f).switching = s.switching := rfl
@[simp] theorem State.schedule_mapFn (s : State) (n : Nat) (f : Fn → Fn) : (s.mapFn n f).schedule = s.schedule := rfl
@[simp] theorem State.agenda_mapFn (s : State) (n : Nat) (f : Fn → Fn) : (s.mapFn n f).agenda = s.agenda := rfl
@[simp] theorem State.copyTurn_mapFn (s : State) (n : Nat) (f : Fn → Fn) : (s.mapFn n f).copyTurn = s.copyTurn := rfl
@[simp] theorem State.cur_mapFn (s : State) (n : Nat) (f : Fn → Fn) : (s.mapFn n f).cur = s.cur := rfl
@[simp] theorem State.draws_mapFn (s : State) (n : Nat) (f : Fn → Fn) : (s.mapFn n f).draws = s.draws := rfl

@[simp] theorem State.hclk_mapCast (s : State) (n m : Nat) (f : Cast → Cast) : (s.mapCast n m f).hclk = s.hclk := rfl
@[simp] theorem State.enabled_mapCast (s : State) (n m : Nat) (f : Cast → Cast) : (s.mapCast n m f).enabled = s.enabled := rfl
@[simp] theorem State.bringUp_mapCast (s : State) (n m : Nat) (f : Cast → Cast) : (s.mapCast n m f).bringUp = s.bringUp := rfl
@[simp] theorem State.failed_mapCast (s : State) (n m : Nat) (f : Cast → Cast) : (s.mapCast n m f).failed = s.failed := rfl
@[simp] theorem State.slew_mapCast (s : State) (n m : Nat) (f : Cast → Cast) : (s.mapCast n m f).slew = s.slew := rfl
@[simp] theorem State.fwmeas_mapCast (s : State) (n m : Nat) (f : Cast → Cast) : (s.mapCast n m f).fwmeas = s.fwmeas := rfl
@[simp] theorem State.mem_mapCast (s : State) (n m : Nat) (f : Cast → Cast) : (s.mapCast n m f).mem = s.mem := rfl
@[simp] theorem State.lines_mapCast (s : State) (n m : Nat) (f : Cast → Cast) : (s.mapCast n m f).lines = s.lines := rfl
@[simp] theorem State.copies_mapCast (s : State) (n m : Nat) (f : Cast → Cast) : (s.mapCast n m f).copies = s.copies := rfl
@[simp] theorem State.reqs_mapCast (s : State) (n m : Nat) (f : Cast → Cast) : (s.mapCast n m f).reqs = s.reqs := rfl
@[simp] theorem State.stores_mapCast (s : State) (n m : Nat) (f : Cast → Cast) : (s.mapCast n m f).stores = s.stores := rfl
@[simp] theorem State.flawed_mapCast (s : State) (n m : Nat) (f : Cast → Cast) : (s.mapCast n m f).flawed = s.flawed := rfl
@[simp] theorem State.flawedStash_mapCast (s : State) (n m : Nat) (f : Cast → Cast) : (s.mapCast n m f).flawedStash = s.flawedStash := rfl
@[simp] theorem State.arrivals_mapCast (s : State) (n m : Nat) (f : Cast → Cast) : (s.mapCast n m f).arrivals = s.arrivals := rfl
@[simp] theorem State.moving_mapCast (s : State) (n m : Nat) (f : Cast → Cast) : (s.mapCast n m f).moving = s.moving := rfl
@[simp] theorem State.outbox_mapCast (s : State) (n m : Nat) (f : Cast → Cast) : (s.mapCast n m f).outbox = s.outbox := rfl
@[simp] theorem State.access_mapCast (s : State) (n m : Nat) (f : Cast → Cast) : (s.mapCast n m f).access = s.access := rfl
@[simp] theorem State.threads_mapCast (s : State) (n m : Nat) (f : Cast → Cast) : (s.mapCast n m f).threads = s.threads := rfl
@[simp] theorem State.cores_mapCast (s : State) (n m : Nat) (f : Cast → Cast) : (s.mapCast n m f).cores = s.cores := rfl
@[simp] theorem State.dies_mapCast (s : State) (n m : Nat) (f : Cast → Cast) : (s.mapCast n m f).dies = s.dies := rfl
@[simp] theorem State.launches_mapCast (s : State) (n m : Nat) (f : Cast → Cast) : (s.mapCast n m f).launches = s.launches := rfl
@[simp] theorem State.domains_mapCast (s : State) (n m : Nat) (f : Cast → Cast) : (s.mapCast n m f).domains = s.domains := rfl
@[simp] theorem State.fns_mapCast (s : State) (n m : Nat) (f : Cast → Cast) : (s.mapCast n m f).fns = s.fns := rfl
@[simp] theorem State.unreached_mapCast (s : State) (n m : Nat) (f : Cast → Cast) : (s.mapCast n m f).unreached = s.unreached := rfl
@[simp] theorem State.gang_mapCast (s : State) (n m : Nat) (f : Cast → Cast) : (s.mapCast n m f).gang = s.gang := rfl
@[simp] theorem State.switching_mapCast (s : State) (n m : Nat) (f : Cast → Cast) : (s.mapCast n m f).switching = s.switching := rfl
@[simp] theorem State.schedule_mapCast (s : State) (n m : Nat) (f : Cast → Cast) : (s.mapCast n m f).schedule = s.schedule := rfl
@[simp] theorem State.agenda_mapCast (s : State) (n m : Nat) (f : Cast → Cast) : (s.mapCast n m f).agenda = s.agenda := rfl
@[simp] theorem State.copyTurn_mapCast (s : State) (n m : Nat) (f : Cast → Cast) : (s.mapCast n m f).copyTurn = s.copyTurn := rfl
@[simp] theorem State.cur_mapCast (s : State) (n m : Nat) (f : Cast → Cast) : (s.mapCast n m f).cur = s.cur := rfl
@[simp] theorem State.draws_mapCast (s : State) (n m : Nat) (f : Cast → Cast) : (s.mapCast n m f).draws = s.draws := rfl

@[simp] theorem State.hclk_charge (s : State) (n : Nat) (r : FaultRec) : (s.charge n r).hclk = s.hclk := rfl
@[simp] theorem State.enabled_charge (s : State) (n : Nat) (r : FaultRec) : (s.charge n r).enabled = s.enabled := rfl
@[simp] theorem State.bringUp_charge (s : State) (n : Nat) (r : FaultRec) : (s.charge n r).bringUp = s.bringUp := rfl
@[simp] theorem State.failed_charge (s : State) (n : Nat) (r : FaultRec) : (s.charge n r).failed = s.failed := rfl
@[simp] theorem State.slew_charge (s : State) (n : Nat) (r : FaultRec) : (s.charge n r).slew = s.slew := rfl
@[simp] theorem State.fwmeas_charge (s : State) (n : Nat) (r : FaultRec) : (s.charge n r).fwmeas = s.fwmeas := rfl
@[simp] theorem State.mem_charge (s : State) (n : Nat) (r : FaultRec) : (s.charge n r).mem = s.mem := rfl
@[simp] theorem State.lines_charge (s : State) (n : Nat) (r : FaultRec) : (s.charge n r).lines = s.lines := rfl
@[simp] theorem State.copies_charge (s : State) (n : Nat) (r : FaultRec) : (s.charge n r).copies = s.copies := rfl
@[simp] theorem State.reqs_charge (s : State) (n : Nat) (r : FaultRec) : (s.charge n r).reqs = s.reqs := rfl
@[simp] theorem State.stores_charge (s : State) (n : Nat) (r : FaultRec) : (s.charge n r).stores = s.stores := rfl
@[simp] theorem State.flawed_charge (s : State) (n : Nat) (r : FaultRec) : (s.charge n r).flawed = s.flawed := rfl
@[simp] theorem State.flawedStash_charge (s : State) (n : Nat) (r : FaultRec) : (s.charge n r).flawedStash = s.flawedStash := rfl
@[simp] theorem State.arrivals_charge (s : State) (n : Nat) (r : FaultRec) : (s.charge n r).arrivals = s.arrivals := rfl
@[simp] theorem State.moving_charge (s : State) (n : Nat) (r : FaultRec) : (s.charge n r).moving = s.moving := rfl
@[simp] theorem State.outbox_charge (s : State) (n : Nat) (r : FaultRec) : (s.charge n r).outbox = s.outbox := rfl
@[simp] theorem State.access_charge (s : State) (n : Nat) (r : FaultRec) : (s.charge n r).access = s.access := rfl
@[simp] theorem State.threads_charge (s : State) (n : Nat) (r : FaultRec) : (s.charge n r).threads = s.threads := rfl
@[simp] theorem State.cores_charge (s : State) (n : Nat) (r : FaultRec) : (s.charge n r).cores = s.cores := rfl
@[simp] theorem State.dies_charge (s : State) (n : Nat) (r : FaultRec) : (s.charge n r).dies = s.dies := rfl
@[simp] theorem State.launches_charge (s : State) (n : Nat) (r : FaultRec) : (s.charge n r).launches = s.launches := rfl
@[simp] theorem State.lcs_charge (s : State) (n : Nat) (r : FaultRec) : (s.charge n r).lcs = s.lcs := rfl
@[simp] theorem State.fns_charge (s : State) (n : Nat) (r : FaultRec) : (s.charge n r).fns = s.fns := rfl
@[simp] theorem State.unreached_charge (s : State) (n : Nat) (r : FaultRec) : (s.charge n r).unreached = s.unreached := rfl
@[simp] theorem State.gang_charge (s : State) (n : Nat) (r : FaultRec) : (s.charge n r).gang = s.gang := rfl
@[simp] theorem State.switching_charge (s : State) (n : Nat) (r : FaultRec) : (s.charge n r).switching = s.switching := rfl
@[simp] theorem State.schedule_charge (s : State) (n : Nat) (r : FaultRec) : (s.charge n r).schedule = s.schedule := rfl
@[simp] theorem State.agenda_charge (s : State) (n : Nat) (r : FaultRec) : (s.charge n r).agenda = s.agenda := rfl
@[simp] theorem State.copyTurn_charge (s : State) (n : Nat) (r : FaultRec) : (s.charge n r).copyTurn = s.copyTurn := rfl
@[simp] theorem State.cur_charge (s : State) (n : Nat) (r : FaultRec) : (s.charge n r).cur = s.cur := rfl
@[simp] theorem State.draws_charge (s : State) (n : Nat) (r : FaultRec) : (s.charge n r).draws = s.draws := rfl

@[simp] theorem State.hclk_block (s : State) (w : Wait) : (s.block w).hclk = s.hclk := rfl
@[simp] theorem State.enabled_block (s : State) (w : Wait) : (s.block w).enabled = s.enabled := rfl
@[simp] theorem State.bringUp_block (s : State) (w : Wait) : (s.block w).bringUp = s.bringUp := rfl
@[simp] theorem State.failed_block (s : State) (w : Wait) : (s.block w).failed = s.failed := rfl
@[simp] theorem State.slew_block (s : State) (w : Wait) : (s.block w).slew = s.slew := rfl
@[simp] theorem State.fwmeas_block (s : State) (w : Wait) : (s.block w).fwmeas = s.fwmeas := rfl
@[simp] theorem State.mem_block (s : State) (w : Wait) : (s.block w).mem = s.mem := rfl
@[simp] theorem State.lines_block (s : State) (w : Wait) : (s.block w).lines = s.lines := rfl
@[simp] theorem State.copies_block (s : State) (w : Wait) : (s.block w).copies = s.copies := rfl
@[simp] theorem State.reqs_block (s : State) (w : Wait) : (s.block w).reqs = s.reqs := rfl
@[simp] theorem State.stores_block (s : State) (w : Wait) : (s.block w).stores = s.stores := rfl
@[simp] theorem State.flawed_block (s : State) (w : Wait) : (s.block w).flawed = s.flawed := rfl
@[simp] theorem State.flawedStash_block (s : State) (w : Wait) : (s.block w).flawedStash = s.flawedStash := rfl
@[simp] theorem State.arrivals_block (s : State) (w : Wait) : (s.block w).arrivals = s.arrivals := rfl
@[simp] theorem State.moving_block (s : State) (w : Wait) : (s.block w).moving = s.moving := rfl
@[simp] theorem State.outbox_block (s : State) (w : Wait) : (s.block w).outbox = s.outbox := rfl
@[simp] theorem State.access_block (s : State) (w : Wait) : (s.block w).access = s.access := rfl
@[simp] theorem State.cores_block (s : State) (w : Wait) : (s.block w).cores = s.cores := rfl
@[simp] theorem State.dies_block (s : State) (w : Wait) : (s.block w).dies = s.dies := rfl
@[simp] theorem State.launches_block (s : State) (w : Wait) : (s.block w).launches = s.launches := rfl
@[simp] theorem State.lcs_block (s : State) (w : Wait) : (s.block w).lcs = s.lcs := rfl
@[simp] theorem State.domains_block (s : State) (w : Wait) : (s.block w).domains = s.domains := rfl
@[simp] theorem State.fns_block (s : State) (w : Wait) : (s.block w).fns = s.fns := rfl
@[simp] theorem State.unreached_block (s : State) (w : Wait) : (s.block w).unreached = s.unreached := rfl
@[simp] theorem State.gang_block (s : State) (w : Wait) : (s.block w).gang = s.gang := rfl
@[simp] theorem State.switching_block (s : State) (w : Wait) : (s.block w).switching = s.switching := rfl
@[simp] theorem State.schedule_block (s : State) (w : Wait) : (s.block w).schedule = s.schedule := rfl
@[simp] theorem State.agenda_block (s : State) (w : Wait) : (s.block w).agenda = s.agenda := rfl
@[simp] theorem State.copyTurn_block (s : State) (w : Wait) : (s.block w).copyTurn = s.copyTurn := rfl
@[simp] theorem State.draws_block (s : State) (w : Wait) : (s.block w).draws = s.draws := rfl

@[simp] theorem State.hclk_mapActive (s : State) (f : Nat → Lane → Lane) : (s.mapActive f).hclk = s.hclk := rfl
@[simp] theorem State.enabled_mapActive (s : State) (f : Nat → Lane → Lane) : (s.mapActive f).enabled = s.enabled := rfl
@[simp] theorem State.bringUp_mapActive (s : State) (f : Nat → Lane → Lane) : (s.mapActive f).bringUp = s.bringUp := rfl
@[simp] theorem State.failed_mapActive (s : State) (f : Nat → Lane → Lane) : (s.mapActive f).failed = s.failed := rfl
@[simp] theorem State.slew_mapActive (s : State) (f : Nat → Lane → Lane) : (s.mapActive f).slew = s.slew := rfl
@[simp] theorem State.fwmeas_mapActive (s : State) (f : Nat → Lane → Lane) : (s.mapActive f).fwmeas = s.fwmeas := rfl
@[simp] theorem State.mem_mapActive (s : State) (f : Nat → Lane → Lane) : (s.mapActive f).mem = s.mem := rfl
@[simp] theorem State.lines_mapActive (s : State) (f : Nat → Lane → Lane) : (s.mapActive f).lines = s.lines := rfl
@[simp] theorem State.copies_mapActive (s : State) (f : Nat → Lane → Lane) : (s.mapActive f).copies = s.copies := rfl
@[simp] theorem State.reqs_mapActive (s : State) (f : Nat → Lane → Lane) : (s.mapActive f).reqs = s.reqs := rfl
@[simp] theorem State.stores_mapActive (s : State) (f : Nat → Lane → Lane) : (s.mapActive f).stores = s.stores := rfl
@[simp] theorem State.flawed_mapActive (s : State) (f : Nat → Lane → Lane) : (s.mapActive f).flawed = s.flawed := rfl
@[simp] theorem State.flawedStash_mapActive (s : State) (f : Nat → Lane → Lane) : (s.mapActive f).flawedStash = s.flawedStash := rfl
@[simp] theorem State.arrivals_mapActive (s : State) (f : Nat → Lane → Lane) : (s.mapActive f).arrivals = s.arrivals := rfl
@[simp] theorem State.moving_mapActive (s : State) (f : Nat → Lane → Lane) : (s.mapActive f).moving = s.moving := rfl
@[simp] theorem State.outbox_mapActive (s : State) (f : Nat → Lane → Lane) : (s.mapActive f).outbox = s.outbox := rfl
@[simp] theorem State.access_mapActive (s : State) (f : Nat → Lane → Lane) : (s.mapActive f).access = s.access := rfl
@[simp] theorem State.cores_mapActive (s : State) (f : Nat → Lane → Lane) : (s.mapActive f).cores = s.cores := rfl
@[simp] theorem State.dies_mapActive (s : State) (f : Nat → Lane → Lane) : (s.mapActive f).dies = s.dies := rfl
@[simp] theorem State.launches_mapActive (s : State) (f : Nat → Lane → Lane) : (s.mapActive f).launches = s.launches := rfl
@[simp] theorem State.lcs_mapActive (s : State) (f : Nat → Lane → Lane) : (s.mapActive f).lcs = s.lcs := rfl
@[simp] theorem State.domains_mapActive (s : State) (f : Nat → Lane → Lane) : (s.mapActive f).domains = s.domains := rfl
@[simp] theorem State.fns_mapActive (s : State) (f : Nat → Lane → Lane) : (s.mapActive f).fns = s.fns := rfl
@[simp] theorem State.unreached_mapActive (s : State) (f : Nat → Lane → Lane) : (s.mapActive f).unreached = s.unreached := rfl
@[simp] theorem State.gang_mapActive (s : State) (f : Nat → Lane → Lane) : (s.mapActive f).gang = s.gang := rfl
@[simp] theorem State.switching_mapActive (s : State) (f : Nat → Lane → Lane) : (s.mapActive f).switching = s.switching := rfl
@[simp] theorem State.schedule_mapActive (s : State) (f : Nat → Lane → Lane) : (s.mapActive f).schedule = s.schedule := rfl
@[simp] theorem State.agenda_mapActive (s : State) (f : Nat → Lane → Lane) : (s.mapActive f).agenda = s.agenda := rfl
@[simp] theorem State.copyTurn_mapActive (s : State) (f : Nat → Lane → Lane) : (s.mapActive f).copyTurn = s.copyTurn := rfl
@[simp] theorem State.cur_mapActive (s : State) (f : Nat → Lane → Lane) : (s.mapActive f).cur = s.cur := rfl
@[simp] theorem State.draws_mapActive (s : State) (f : Nat → Lane → Lane) : (s.mapActive f).draws = s.draws := rfl

@[simp] theorem State.hclk_pushAll (s : State) (p : Pipe) (f : Nat → Word) : (s.pushAll p f).hclk = s.hclk := rfl
@[simp] theorem State.enabled_pushAll (s : State) (p : Pipe) (f : Nat → Word) : (s.pushAll p f).enabled = s.enabled := rfl
@[simp] theorem State.bringUp_pushAll (s : State) (p : Pipe) (f : Nat → Word) : (s.pushAll p f).bringUp = s.bringUp := rfl
@[simp] theorem State.failed_pushAll (s : State) (p : Pipe) (f : Nat → Word) : (s.pushAll p f).failed = s.failed := rfl
@[simp] theorem State.slew_pushAll (s : State) (p : Pipe) (f : Nat → Word) : (s.pushAll p f).slew = s.slew := rfl
@[simp] theorem State.fwmeas_pushAll (s : State) (p : Pipe) (f : Nat → Word) : (s.pushAll p f).fwmeas = s.fwmeas := rfl
@[simp] theorem State.mem_pushAll (s : State) (p : Pipe) (f : Nat → Word) : (s.pushAll p f).mem = s.mem := rfl
@[simp] theorem State.lines_pushAll (s : State) (p : Pipe) (f : Nat → Word) : (s.pushAll p f).lines = s.lines := rfl
@[simp] theorem State.copies_pushAll (s : State) (p : Pipe) (f : Nat → Word) : (s.pushAll p f).copies = s.copies := rfl
@[simp] theorem State.reqs_pushAll (s : State) (p : Pipe) (f : Nat → Word) : (s.pushAll p f).reqs = s.reqs := rfl
@[simp] theorem State.stores_pushAll (s : State) (p : Pipe) (f : Nat → Word) : (s.pushAll p f).stores = s.stores := rfl
@[simp] theorem State.flawed_pushAll (s : State) (p : Pipe) (f : Nat → Word) : (s.pushAll p f).flawed = s.flawed := rfl
@[simp] theorem State.flawedStash_pushAll (s : State) (p : Pipe) (f : Nat → Word) : (s.pushAll p f).flawedStash = s.flawedStash := rfl
@[simp] theorem State.arrivals_pushAll (s : State) (p : Pipe) (f : Nat → Word) : (s.pushAll p f).arrivals = s.arrivals := rfl
@[simp] theorem State.moving_pushAll (s : State) (p : Pipe) (f : Nat → Word) : (s.pushAll p f).moving = s.moving := rfl
@[simp] theorem State.outbox_pushAll (s : State) (p : Pipe) (f : Nat → Word) : (s.pushAll p f).outbox = s.outbox := rfl
@[simp] theorem State.access_pushAll (s : State) (p : Pipe) (f : Nat → Word) : (s.pushAll p f).access = s.access := rfl
@[simp] theorem State.cores_pushAll (s : State) (p : Pipe) (f : Nat → Word) : (s.pushAll p f).cores = s.cores := rfl
@[simp] theorem State.dies_pushAll (s : State) (p : Pipe) (f : Nat → Word) : (s.pushAll p f).dies = s.dies := rfl
@[simp] theorem State.launches_pushAll (s : State) (p : Pipe) (f : Nat → Word) : (s.pushAll p f).launches = s.launches := rfl
@[simp] theorem State.lcs_pushAll (s : State) (p : Pipe) (f : Nat → Word) : (s.pushAll p f).lcs = s.lcs := rfl
@[simp] theorem State.domains_pushAll (s : State) (p : Pipe) (f : Nat → Word) : (s.pushAll p f).domains = s.domains := rfl
@[simp] theorem State.fns_pushAll (s : State) (p : Pipe) (f : Nat → Word) : (s.pushAll p f).fns = s.fns := rfl
@[simp] theorem State.unreached_pushAll (s : State) (p : Pipe) (f : Nat → Word) : (s.pushAll p f).unreached = s.unreached := rfl
@[simp] theorem State.gang_pushAll (s : State) (p : Pipe) (f : Nat → Word) : (s.pushAll p f).gang = s.gang := rfl
@[simp] theorem State.switching_pushAll (s : State) (p : Pipe) (f : Nat → Word) : (s.pushAll p f).switching = s.switching := rfl
@[simp] theorem State.schedule_pushAll (s : State) (p : Pipe) (f : Nat → Word) : (s.pushAll p f).schedule = s.schedule := rfl
@[simp] theorem State.agenda_pushAll (s : State) (p : Pipe) (f : Nat → Word) : (s.pushAll p f).agenda = s.agenda := rfl
@[simp] theorem State.copyTurn_pushAll (s : State) (p : Pipe) (f : Nat → Word) : (s.pushAll p f).copyTurn = s.copyTurn := rfl
@[simp] theorem State.cur_pushAll (s : State) (p : Pipe) (f : Nat → Word) : (s.pushAll p f).cur = s.cur := rfl
@[simp] theorem State.draws_pushAll (s : State) (p : Pipe) (f : Nat → Word) : (s.pushAll p f).draws = s.draws := rfl

@[simp] theorem State.hclk_setGroup (s : State) (d : Nat) (f : Nat → List Word) : (s.setGroup d f).hclk = s.hclk := rfl
@[simp] theorem State.enabled_setGroup (s : State) (d : Nat) (f : Nat → List Word) : (s.setGroup d f).enabled = s.enabled := rfl
@[simp] theorem State.bringUp_setGroup (s : State) (d : Nat) (f : Nat → List Word) : (s.setGroup d f).bringUp = s.bringUp := rfl
@[simp] theorem State.failed_setGroup (s : State) (d : Nat) (f : Nat → List Word) : (s.setGroup d f).failed = s.failed := rfl
@[simp] theorem State.slew_setGroup (s : State) (d : Nat) (f : Nat → List Word) : (s.setGroup d f).slew = s.slew := rfl
@[simp] theorem State.fwmeas_setGroup (s : State) (d : Nat) (f : Nat → List Word) : (s.setGroup d f).fwmeas = s.fwmeas := rfl
@[simp] theorem State.mem_setGroup (s : State) (d : Nat) (f : Nat → List Word) : (s.setGroup d f).mem = s.mem := rfl
@[simp] theorem State.lines_setGroup (s : State) (d : Nat) (f : Nat → List Word) : (s.setGroup d f).lines = s.lines := rfl
@[simp] theorem State.copies_setGroup (s : State) (d : Nat) (f : Nat → List Word) : (s.setGroup d f).copies = s.copies := rfl
@[simp] theorem State.reqs_setGroup (s : State) (d : Nat) (f : Nat → List Word) : (s.setGroup d f).reqs = s.reqs := rfl
@[simp] theorem State.stores_setGroup (s : State) (d : Nat) (f : Nat → List Word) : (s.setGroup d f).stores = s.stores := rfl
@[simp] theorem State.flawed_setGroup (s : State) (d : Nat) (f : Nat → List Word) : (s.setGroup d f).flawed = s.flawed := rfl
@[simp] theorem State.flawedStash_setGroup (s : State) (d : Nat) (f : Nat → List Word) : (s.setGroup d f).flawedStash = s.flawedStash := rfl
@[simp] theorem State.arrivals_setGroup (s : State) (d : Nat) (f : Nat → List Word) : (s.setGroup d f).arrivals = s.arrivals := rfl
@[simp] theorem State.moving_setGroup (s : State) (d : Nat) (f : Nat → List Word) : (s.setGroup d f).moving = s.moving := rfl
@[simp] theorem State.outbox_setGroup (s : State) (d : Nat) (f : Nat → List Word) : (s.setGroup d f).outbox = s.outbox := rfl
@[simp] theorem State.access_setGroup (s : State) (d : Nat) (f : Nat → List Word) : (s.setGroup d f).access = s.access := rfl
@[simp] theorem State.cores_setGroup (s : State) (d : Nat) (f : Nat → List Word) : (s.setGroup d f).cores = s.cores := rfl
@[simp] theorem State.dies_setGroup (s : State) (d : Nat) (f : Nat → List Word) : (s.setGroup d f).dies = s.dies := rfl
@[simp] theorem State.launches_setGroup (s : State) (d : Nat) (f : Nat → List Word) : (s.setGroup d f).launches = s.launches := rfl
@[simp] theorem State.lcs_setGroup (s : State) (d : Nat) (f : Nat → List Word) : (s.setGroup d f).lcs = s.lcs := rfl
@[simp] theorem State.domains_setGroup (s : State) (d : Nat) (f : Nat → List Word) : (s.setGroup d f).domains = s.domains := rfl
@[simp] theorem State.fns_setGroup (s : State) (d : Nat) (f : Nat → List Word) : (s.setGroup d f).fns = s.fns := rfl
@[simp] theorem State.unreached_setGroup (s : State) (d : Nat) (f : Nat → List Word) : (s.setGroup d f).unreached = s.unreached := rfl
@[simp] theorem State.gang_setGroup (s : State) (d : Nat) (f : Nat → List Word) : (s.setGroup d f).gang = s.gang := rfl
@[simp] theorem State.switching_setGroup (s : State) (d : Nat) (f : Nat → List Word) : (s.setGroup d f).switching = s.switching := rfl
@[simp] theorem State.schedule_setGroup (s : State) (d : Nat) (f : Nat → List Word) : (s.setGroup d f).schedule = s.schedule := rfl
@[simp] theorem State.agenda_setGroup (s : State) (d : Nat) (f : Nat → List Word) : (s.setGroup d f).agenda = s.agenda := rfl
@[simp] theorem State.copyTurn_setGroup (s : State) (d : Nat) (f : Nat → List Word) : (s.setGroup d f).copyTurn = s.copyTurn := rfl
@[simp] theorem State.cur_setGroup (s : State) (d : Nat) (f : Nat → List Word) : (s.setGroup d f).cur = s.cur := rfl
@[simp] theorem State.draws_setGroup (s : State) (d : Nat) (f : Nat → List Word) : (s.setGroup d f).draws = s.draws := rfl

@[simp] theorem State.hclk_setPair (s : State) (d : LReg) (f : Nat → Nat) : (s.setPair d f).hclk = s.hclk := rfl
@[simp] theorem State.enabled_setPair (s : State) (d : LReg) (f : Nat → Nat) : (s.setPair d f).enabled = s.enabled := rfl
@[simp] theorem State.bringUp_setPair (s : State) (d : LReg) (f : Nat → Nat) : (s.setPair d f).bringUp = s.bringUp := rfl
@[simp] theorem State.failed_setPair (s : State) (d : LReg) (f : Nat → Nat) : (s.setPair d f).failed = s.failed := rfl
@[simp] theorem State.slew_setPair (s : State) (d : LReg) (f : Nat → Nat) : (s.setPair d f).slew = s.slew := rfl
@[simp] theorem State.fwmeas_setPair (s : State) (d : LReg) (f : Nat → Nat) : (s.setPair d f).fwmeas = s.fwmeas := rfl
@[simp] theorem State.mem_setPair (s : State) (d : LReg) (f : Nat → Nat) : (s.setPair d f).mem = s.mem := rfl
@[simp] theorem State.lines_setPair (s : State) (d : LReg) (f : Nat → Nat) : (s.setPair d f).lines = s.lines := rfl
@[simp] theorem State.copies_setPair (s : State) (d : LReg) (f : Nat → Nat) : (s.setPair d f).copies = s.copies := rfl
@[simp] theorem State.reqs_setPair (s : State) (d : LReg) (f : Nat → Nat) : (s.setPair d f).reqs = s.reqs := rfl
@[simp] theorem State.stores_setPair (s : State) (d : LReg) (f : Nat → Nat) : (s.setPair d f).stores = s.stores := rfl
@[simp] theorem State.flawed_setPair (s : State) (d : LReg) (f : Nat → Nat) : (s.setPair d f).flawed = s.flawed := rfl
@[simp] theorem State.flawedStash_setPair (s : State) (d : LReg) (f : Nat → Nat) : (s.setPair d f).flawedStash = s.flawedStash := rfl
@[simp] theorem State.arrivals_setPair (s : State) (d : LReg) (f : Nat → Nat) : (s.setPair d f).arrivals = s.arrivals := rfl
@[simp] theorem State.moving_setPair (s : State) (d : LReg) (f : Nat → Nat) : (s.setPair d f).moving = s.moving := rfl
@[simp] theorem State.outbox_setPair (s : State) (d : LReg) (f : Nat → Nat) : (s.setPair d f).outbox = s.outbox := rfl
@[simp] theorem State.access_setPair (s : State) (d : LReg) (f : Nat → Nat) : (s.setPair d f).access = s.access := rfl
@[simp] theorem State.cores_setPair (s : State) (d : LReg) (f : Nat → Nat) : (s.setPair d f).cores = s.cores := rfl
@[simp] theorem State.dies_setPair (s : State) (d : LReg) (f : Nat → Nat) : (s.setPair d f).dies = s.dies := rfl
@[simp] theorem State.launches_setPair (s : State) (d : LReg) (f : Nat → Nat) : (s.setPair d f).launches = s.launches := rfl
@[simp] theorem State.lcs_setPair (s : State) (d : LReg) (f : Nat → Nat) : (s.setPair d f).lcs = s.lcs := rfl
@[simp] theorem State.domains_setPair (s : State) (d : LReg) (f : Nat → Nat) : (s.setPair d f).domains = s.domains := rfl
@[simp] theorem State.fns_setPair (s : State) (d : LReg) (f : Nat → Nat) : (s.setPair d f).fns = s.fns := rfl
@[simp] theorem State.unreached_setPair (s : State) (d : LReg) (f : Nat → Nat) : (s.setPair d f).unreached = s.unreached := rfl
@[simp] theorem State.gang_setPair (s : State) (d : LReg) (f : Nat → Nat) : (s.setPair d f).gang = s.gang := rfl
@[simp] theorem State.switching_setPair (s : State) (d : LReg) (f : Nat → Nat) : (s.setPair d f).switching = s.switching := rfl
@[simp] theorem State.schedule_setPair (s : State) (d : LReg) (f : Nat → Nat) : (s.setPair d f).schedule = s.schedule := rfl
@[simp] theorem State.agenda_setPair (s : State) (d : LReg) (f : Nat → Nat) : (s.setPair d f).agenda = s.agenda := rfl
@[simp] theorem State.copyTurn_setPair (s : State) (d : LReg) (f : Nat → Nat) : (s.setPair d f).copyTurn = s.copyTurn := rfl
@[simp] theorem State.cur_setPair (s : State) (d : LReg) (f : Nat → Nat) : (s.setPair d f).cur = s.cur := rfl
@[simp] theorem State.draws_setPair (s : State) (d : LReg) (f : Nat → Nat) : (s.setPair d f).draws = s.draws := rfl

@[simp] theorem State.hclk_setPred (s : State) (p : PReg) (f : Nat → Bool) : (s.setPred p f).hclk = s.hclk := rfl
@[simp] theorem State.enabled_setPred (s : State) (p : PReg) (f : Nat → Bool) : (s.setPred p f).enabled = s.enabled := rfl
@[simp] theorem State.bringUp_setPred (s : State) (p : PReg) (f : Nat → Bool) : (s.setPred p f).bringUp = s.bringUp := rfl
@[simp] theorem State.failed_setPred (s : State) (p : PReg) (f : Nat → Bool) : (s.setPred p f).failed = s.failed := rfl
@[simp] theorem State.slew_setPred (s : State) (p : PReg) (f : Nat → Bool) : (s.setPred p f).slew = s.slew := rfl
@[simp] theorem State.fwmeas_setPred (s : State) (p : PReg) (f : Nat → Bool) : (s.setPred p f).fwmeas = s.fwmeas := rfl
@[simp] theorem State.mem_setPred (s : State) (p : PReg) (f : Nat → Bool) : (s.setPred p f).mem = s.mem := rfl
@[simp] theorem State.lines_setPred (s : State) (p : PReg) (f : Nat → Bool) : (s.setPred p f).lines = s.lines := rfl
@[simp] theorem State.copies_setPred (s : State) (p : PReg) (f : Nat → Bool) : (s.setPred p f).copies = s.copies := rfl
@[simp] theorem State.reqs_setPred (s : State) (p : PReg) (f : Nat → Bool) : (s.setPred p f).reqs = s.reqs := rfl
@[simp] theorem State.stores_setPred (s : State) (p : PReg) (f : Nat → Bool) : (s.setPred p f).stores = s.stores := rfl
@[simp] theorem State.flawed_setPred (s : State) (p : PReg) (f : Nat → Bool) : (s.setPred p f).flawed = s.flawed := rfl
@[simp] theorem State.flawedStash_setPred (s : State) (p : PReg) (f : Nat → Bool) : (s.setPred p f).flawedStash = s.flawedStash := rfl
@[simp] theorem State.arrivals_setPred (s : State) (p : PReg) (f : Nat → Bool) : (s.setPred p f).arrivals = s.arrivals := rfl
@[simp] theorem State.moving_setPred (s : State) (p : PReg) (f : Nat → Bool) : (s.setPred p f).moving = s.moving := rfl
@[simp] theorem State.outbox_setPred (s : State) (p : PReg) (f : Nat → Bool) : (s.setPred p f).outbox = s.outbox := rfl
@[simp] theorem State.access_setPred (s : State) (p : PReg) (f : Nat → Bool) : (s.setPred p f).access = s.access := rfl
@[simp] theorem State.cores_setPred (s : State) (p : PReg) (f : Nat → Bool) : (s.setPred p f).cores = s.cores := rfl
@[simp] theorem State.dies_setPred (s : State) (p : PReg) (f : Nat → Bool) : (s.setPred p f).dies = s.dies := rfl
@[simp] theorem State.launches_setPred (s : State) (p : PReg) (f : Nat → Bool) : (s.setPred p f).launches = s.launches := rfl
@[simp] theorem State.lcs_setPred (s : State) (p : PReg) (f : Nat → Bool) : (s.setPred p f).lcs = s.lcs := rfl
@[simp] theorem State.domains_setPred (s : State) (p : PReg) (f : Nat → Bool) : (s.setPred p f).domains = s.domains := rfl
@[simp] theorem State.fns_setPred (s : State) (p : PReg) (f : Nat → Bool) : (s.setPred p f).fns = s.fns := rfl
@[simp] theorem State.unreached_setPred (s : State) (p : PReg) (f : Nat → Bool) : (s.setPred p f).unreached = s.unreached := rfl
@[simp] theorem State.gang_setPred (s : State) (p : PReg) (f : Nat → Bool) : (s.setPred p f).gang = s.gang := rfl
@[simp] theorem State.switching_setPred (s : State) (p : PReg) (f : Nat → Bool) : (s.setPred p f).switching = s.switching := rfl
@[simp] theorem State.schedule_setPred (s : State) (p : PReg) (f : Nat → Bool) : (s.setPred p f).schedule = s.schedule := rfl
@[simp] theorem State.agenda_setPred (s : State) (p : PReg) (f : Nat → Bool) : (s.setPred p f).agenda = s.agenda := rfl
@[simp] theorem State.copyTurn_setPred (s : State) (p : PReg) (f : Nat → Bool) : (s.setPred p f).copyTurn = s.copyTurn := rfl
@[simp] theorem State.cur_setPred (s : State) (p : PReg) (f : Nat → Bool) : (s.setPred p f).cur = s.cur := rfl
@[simp] theorem State.draws_setPred (s : State) (p : PReg) (f : Nat → Bool) : (s.setPred p f).draws = s.draws := rfl

@[simp] theorem State.hclk_setU (s : State) (d : UReg) (x : Dword) : (s.setU d x).hclk = s.hclk := rfl
@[simp] theorem State.enabled_setU (s : State) (d : UReg) (x : Dword) : (s.setU d x).enabled = s.enabled := rfl
@[simp] theorem State.bringUp_setU (s : State) (d : UReg) (x : Dword) : (s.setU d x).bringUp = s.bringUp := rfl
@[simp] theorem State.failed_setU (s : State) (d : UReg) (x : Dword) : (s.setU d x).failed = s.failed := rfl
@[simp] theorem State.slew_setU (s : State) (d : UReg) (x : Dword) : (s.setU d x).slew = s.slew := rfl
@[simp] theorem State.fwmeas_setU (s : State) (d : UReg) (x : Dword) : (s.setU d x).fwmeas = s.fwmeas := rfl
@[simp] theorem State.mem_setU (s : State) (d : UReg) (x : Dword) : (s.setU d x).mem = s.mem := rfl
@[simp] theorem State.lines_setU (s : State) (d : UReg) (x : Dword) : (s.setU d x).lines = s.lines := rfl
@[simp] theorem State.copies_setU (s : State) (d : UReg) (x : Dword) : (s.setU d x).copies = s.copies := rfl
@[simp] theorem State.reqs_setU (s : State) (d : UReg) (x : Dword) : (s.setU d x).reqs = s.reqs := rfl
@[simp] theorem State.stores_setU (s : State) (d : UReg) (x : Dword) : (s.setU d x).stores = s.stores := rfl
@[simp] theorem State.flawed_setU (s : State) (d : UReg) (x : Dword) : (s.setU d x).flawed = s.flawed := rfl
@[simp] theorem State.flawedStash_setU (s : State) (d : UReg) (x : Dword) : (s.setU d x).flawedStash = s.flawedStash := rfl
@[simp] theorem State.arrivals_setU (s : State) (d : UReg) (x : Dword) : (s.setU d x).arrivals = s.arrivals := rfl
@[simp] theorem State.moving_setU (s : State) (d : UReg) (x : Dword) : (s.setU d x).moving = s.moving := rfl
@[simp] theorem State.outbox_setU (s : State) (d : UReg) (x : Dword) : (s.setU d x).outbox = s.outbox := rfl
@[simp] theorem State.access_setU (s : State) (d : UReg) (x : Dword) : (s.setU d x).access = s.access := rfl
@[simp] theorem State.cores_setU (s : State) (d : UReg) (x : Dword) : (s.setU d x).cores = s.cores := rfl
@[simp] theorem State.dies_setU (s : State) (d : UReg) (x : Dword) : (s.setU d x).dies = s.dies := rfl
@[simp] theorem State.launches_setU (s : State) (d : UReg) (x : Dword) : (s.setU d x).launches = s.launches := rfl
@[simp] theorem State.lcs_setU (s : State) (d : UReg) (x : Dword) : (s.setU d x).lcs = s.lcs := rfl
@[simp] theorem State.domains_setU (s : State) (d : UReg) (x : Dword) : (s.setU d x).domains = s.domains := rfl
@[simp] theorem State.fns_setU (s : State) (d : UReg) (x : Dword) : (s.setU d x).fns = s.fns := rfl
@[simp] theorem State.unreached_setU (s : State) (d : UReg) (x : Dword) : (s.setU d x).unreached = s.unreached := rfl
@[simp] theorem State.gang_setU (s : State) (d : UReg) (x : Dword) : (s.setU d x).gang = s.gang := rfl
@[simp] theorem State.switching_setU (s : State) (d : UReg) (x : Dword) : (s.setU d x).switching = s.switching := rfl
@[simp] theorem State.schedule_setU (s : State) (d : UReg) (x : Dword) : (s.setU d x).schedule = s.schedule := rfl
@[simp] theorem State.agenda_setU (s : State) (d : UReg) (x : Dword) : (s.setU d x).agenda = s.agenda := rfl
@[simp] theorem State.copyTurn_setU (s : State) (d : UReg) (x : Dword) : (s.setU d x).copyTurn = s.copyTurn := rfl
@[simp] theorem State.cur_setU (s : State) (d : UReg) (x : Dword) : (s.setU d x).cur = s.cur := rfl
@[simp] theorem State.draws_setU (s : State) (d : UReg) (x : Dword) : (s.setU d x).draws = s.draws := rfl

@[simp] theorem State.hclk_setU2 (s : State) (d : UReg) (x y : Dword) : (s.setU2 d x y).hclk = s.hclk := rfl
@[simp] theorem State.enabled_setU2 (s : State) (d : UReg) (x y : Dword) : (s.setU2 d x y).enabled = s.enabled := rfl
@[simp] theorem State.bringUp_setU2 (s : State) (d : UReg) (x y : Dword) : (s.setU2 d x y).bringUp = s.bringUp := rfl
@[simp] theorem State.failed_setU2 (s : State) (d : UReg) (x y : Dword) : (s.setU2 d x y).failed = s.failed := rfl
@[simp] theorem State.slew_setU2 (s : State) (d : UReg) (x y : Dword) : (s.setU2 d x y).slew = s.slew := rfl
@[simp] theorem State.fwmeas_setU2 (s : State) (d : UReg) (x y : Dword) : (s.setU2 d x y).fwmeas = s.fwmeas := rfl
@[simp] theorem State.mem_setU2 (s : State) (d : UReg) (x y : Dword) : (s.setU2 d x y).mem = s.mem := rfl
@[simp] theorem State.lines_setU2 (s : State) (d : UReg) (x y : Dword) : (s.setU2 d x y).lines = s.lines := rfl
@[simp] theorem State.copies_setU2 (s : State) (d : UReg) (x y : Dword) : (s.setU2 d x y).copies = s.copies := rfl
@[simp] theorem State.reqs_setU2 (s : State) (d : UReg) (x y : Dword) : (s.setU2 d x y).reqs = s.reqs := rfl
@[simp] theorem State.stores_setU2 (s : State) (d : UReg) (x y : Dword) : (s.setU2 d x y).stores = s.stores := rfl
@[simp] theorem State.flawed_setU2 (s : State) (d : UReg) (x y : Dword) : (s.setU2 d x y).flawed = s.flawed := rfl
@[simp] theorem State.flawedStash_setU2 (s : State) (d : UReg) (x y : Dword) : (s.setU2 d x y).flawedStash = s.flawedStash := rfl
@[simp] theorem State.arrivals_setU2 (s : State) (d : UReg) (x y : Dword) : (s.setU2 d x y).arrivals = s.arrivals := rfl
@[simp] theorem State.moving_setU2 (s : State) (d : UReg) (x y : Dword) : (s.setU2 d x y).moving = s.moving := rfl
@[simp] theorem State.outbox_setU2 (s : State) (d : UReg) (x y : Dword) : (s.setU2 d x y).outbox = s.outbox := rfl
@[simp] theorem State.access_setU2 (s : State) (d : UReg) (x y : Dword) : (s.setU2 d x y).access = s.access := rfl
@[simp] theorem State.cores_setU2 (s : State) (d : UReg) (x y : Dword) : (s.setU2 d x y).cores = s.cores := rfl
@[simp] theorem State.dies_setU2 (s : State) (d : UReg) (x y : Dword) : (s.setU2 d x y).dies = s.dies := rfl
@[simp] theorem State.launches_setU2 (s : State) (d : UReg) (x y : Dword) : (s.setU2 d x y).launches = s.launches := rfl
@[simp] theorem State.lcs_setU2 (s : State) (d : UReg) (x y : Dword) : (s.setU2 d x y).lcs = s.lcs := rfl
@[simp] theorem State.domains_setU2 (s : State) (d : UReg) (x y : Dword) : (s.setU2 d x y).domains = s.domains := rfl
@[simp] theorem State.fns_setU2 (s : State) (d : UReg) (x y : Dword) : (s.setU2 d x y).fns = s.fns := rfl
@[simp] theorem State.unreached_setU2 (s : State) (d : UReg) (x y : Dword) : (s.setU2 d x y).unreached = s.unreached := rfl
@[simp] theorem State.gang_setU2 (s : State) (d : UReg) (x y : Dword) : (s.setU2 d x y).gang = s.gang := rfl
@[simp] theorem State.switching_setU2 (s : State) (d : UReg) (x y : Dword) : (s.setU2 d x y).switching = s.switching := rfl
@[simp] theorem State.schedule_setU2 (s : State) (d : UReg) (x y : Dword) : (s.setU2 d x y).schedule = s.schedule := rfl
@[simp] theorem State.agenda_setU2 (s : State) (d : UReg) (x y : Dword) : (s.setU2 d x y).agenda = s.agenda := rfl
@[simp] theorem State.copyTurn_setU2 (s : State) (d : UReg) (x y : Dword) : (s.setU2 d x y).copyTurn = s.copyTurn := rfl
@[simp] theorem State.cur_setU2 (s : State) (d : UReg) (x y : Dword) : (s.setU2 d x y).cur = s.cur := rfl
@[simp] theorem State.draws_setU2 (s : State) (d : UReg) (x y : Dword) : (s.setU2 d x y).draws = s.draws := rfl

@[simp] theorem State.hclk_setB (s : State) (d : BReg) (x : BufRec) : (s.setB d x).hclk = s.hclk := rfl
@[simp] theorem State.enabled_setB (s : State) (d : BReg) (x : BufRec) : (s.setB d x).enabled = s.enabled := rfl
@[simp] theorem State.bringUp_setB (s : State) (d : BReg) (x : BufRec) : (s.setB d x).bringUp = s.bringUp := rfl
@[simp] theorem State.failed_setB (s : State) (d : BReg) (x : BufRec) : (s.setB d x).failed = s.failed := rfl
@[simp] theorem State.slew_setB (s : State) (d : BReg) (x : BufRec) : (s.setB d x).slew = s.slew := rfl
@[simp] theorem State.fwmeas_setB (s : State) (d : BReg) (x : BufRec) : (s.setB d x).fwmeas = s.fwmeas := rfl
@[simp] theorem State.mem_setB (s : State) (d : BReg) (x : BufRec) : (s.setB d x).mem = s.mem := rfl
@[simp] theorem State.lines_setB (s : State) (d : BReg) (x : BufRec) : (s.setB d x).lines = s.lines := rfl
@[simp] theorem State.copies_setB (s : State) (d : BReg) (x : BufRec) : (s.setB d x).copies = s.copies := rfl
@[simp] theorem State.reqs_setB (s : State) (d : BReg) (x : BufRec) : (s.setB d x).reqs = s.reqs := rfl
@[simp] theorem State.stores_setB (s : State) (d : BReg) (x : BufRec) : (s.setB d x).stores = s.stores := rfl
@[simp] theorem State.flawed_setB (s : State) (d : BReg) (x : BufRec) : (s.setB d x).flawed = s.flawed := rfl
@[simp] theorem State.flawedStash_setB (s : State) (d : BReg) (x : BufRec) : (s.setB d x).flawedStash = s.flawedStash := rfl
@[simp] theorem State.arrivals_setB (s : State) (d : BReg) (x : BufRec) : (s.setB d x).arrivals = s.arrivals := rfl
@[simp] theorem State.moving_setB (s : State) (d : BReg) (x : BufRec) : (s.setB d x).moving = s.moving := rfl
@[simp] theorem State.outbox_setB (s : State) (d : BReg) (x : BufRec) : (s.setB d x).outbox = s.outbox := rfl
@[simp] theorem State.access_setB (s : State) (d : BReg) (x : BufRec) : (s.setB d x).access = s.access := rfl
@[simp] theorem State.cores_setB (s : State) (d : BReg) (x : BufRec) : (s.setB d x).cores = s.cores := rfl
@[simp] theorem State.dies_setB (s : State) (d : BReg) (x : BufRec) : (s.setB d x).dies = s.dies := rfl
@[simp] theorem State.launches_setB (s : State) (d : BReg) (x : BufRec) : (s.setB d x).launches = s.launches := rfl
@[simp] theorem State.lcs_setB (s : State) (d : BReg) (x : BufRec) : (s.setB d x).lcs = s.lcs := rfl
@[simp] theorem State.domains_setB (s : State) (d : BReg) (x : BufRec) : (s.setB d x).domains = s.domains := rfl
@[simp] theorem State.fns_setB (s : State) (d : BReg) (x : BufRec) : (s.setB d x).fns = s.fns := rfl
@[simp] theorem State.unreached_setB (s : State) (d : BReg) (x : BufRec) : (s.setB d x).unreached = s.unreached := rfl
@[simp] theorem State.gang_setB (s : State) (d : BReg) (x : BufRec) : (s.setB d x).gang = s.gang := rfl
@[simp] theorem State.switching_setB (s : State) (d : BReg) (x : BufRec) : (s.setB d x).switching = s.switching := rfl
@[simp] theorem State.schedule_setB (s : State) (d : BReg) (x : BufRec) : (s.setB d x).schedule = s.schedule := rfl
@[simp] theorem State.agenda_setB (s : State) (d : BReg) (x : BufRec) : (s.setB d x).agenda = s.agenda := rfl
@[simp] theorem State.copyTurn_setB (s : State) (d : BReg) (x : BufRec) : (s.setB d x).copyTurn = s.copyTurn := rfl
@[simp] theorem State.cur_setB (s : State) (d : BReg) (x : BufRec) : (s.setB d x).cur = s.cur := rfl
@[simp] theorem State.draws_setB (s : State) (d : BReg) (x : BufRec) : (s.setB d x).draws = s.draws := rfl

@[simp] theorem State.hclk_branch (s : State) (f : Nat → Nat) : (s.branch f).hclk = s.hclk := rfl
@[simp] theorem State.enabled_branch (s : State) (f : Nat → Nat) : (s.branch f).enabled = s.enabled := rfl
@[simp] theorem State.bringUp_branch (s : State) (f : Nat → Nat) : (s.branch f).bringUp = s.bringUp := rfl
@[simp] theorem State.failed_branch (s : State) (f : Nat → Nat) : (s.branch f).failed = s.failed := rfl
@[simp] theorem State.slew_branch (s : State) (f : Nat → Nat) : (s.branch f).slew = s.slew := rfl
@[simp] theorem State.fwmeas_branch (s : State) (f : Nat → Nat) : (s.branch f).fwmeas = s.fwmeas := rfl
@[simp] theorem State.mem_branch (s : State) (f : Nat → Nat) : (s.branch f).mem = s.mem := rfl
@[simp] theorem State.lines_branch (s : State) (f : Nat → Nat) : (s.branch f).lines = s.lines := rfl
@[simp] theorem State.copies_branch (s : State) (f : Nat → Nat) : (s.branch f).copies = s.copies := rfl
@[simp] theorem State.reqs_branch (s : State) (f : Nat → Nat) : (s.branch f).reqs = s.reqs := rfl
@[simp] theorem State.stores_branch (s : State) (f : Nat → Nat) : (s.branch f).stores = s.stores := rfl
@[simp] theorem State.flawed_branch (s : State) (f : Nat → Nat) : (s.branch f).flawed = s.flawed := rfl
@[simp] theorem State.flawedStash_branch (s : State) (f : Nat → Nat) : (s.branch f).flawedStash = s.flawedStash := rfl
@[simp] theorem State.arrivals_branch (s : State) (f : Nat → Nat) : (s.branch f).arrivals = s.arrivals := rfl
@[simp] theorem State.moving_branch (s : State) (f : Nat → Nat) : (s.branch f).moving = s.moving := rfl
@[simp] theorem State.outbox_branch (s : State) (f : Nat → Nat) : (s.branch f).outbox = s.outbox := rfl
@[simp] theorem State.access_branch (s : State) (f : Nat → Nat) : (s.branch f).access = s.access := rfl
@[simp] theorem State.cores_branch (s : State) (f : Nat → Nat) : (s.branch f).cores = s.cores := rfl
@[simp] theorem State.dies_branch (s : State) (f : Nat → Nat) : (s.branch f).dies = s.dies := rfl
@[simp] theorem State.launches_branch (s : State) (f : Nat → Nat) : (s.branch f).launches = s.launches := rfl
@[simp] theorem State.lcs_branch (s : State) (f : Nat → Nat) : (s.branch f).lcs = s.lcs := rfl
@[simp] theorem State.domains_branch (s : State) (f : Nat → Nat) : (s.branch f).domains = s.domains := rfl
@[simp] theorem State.fns_branch (s : State) (f : Nat → Nat) : (s.branch f).fns = s.fns := rfl
@[simp] theorem State.unreached_branch (s : State) (f : Nat → Nat) : (s.branch f).unreached = s.unreached := rfl
@[simp] theorem State.gang_branch (s : State) (f : Nat → Nat) : (s.branch f).gang = s.gang := rfl
@[simp] theorem State.switching_branch (s : State) (f : Nat → Nat) : (s.branch f).switching = s.switching := rfl
@[simp] theorem State.schedule_branch (s : State) (f : Nat → Nat) : (s.branch f).schedule = s.schedule := rfl
@[simp] theorem State.agenda_branch (s : State) (f : Nat → Nat) : (s.branch f).agenda = s.agenda := rfl
@[simp] theorem State.copyTurn_branch (s : State) (f : Nat → Nat) : (s.branch f).copyTurn = s.copyTurn := rfl
@[simp] theorem State.cur_branch (s : State) (f : Nat → Nat) : (s.branch f).cur = s.cur := rfl
@[simp] theorem State.draws_branch (s : State) (f : Nat → Nat) : (s.branch f).draws = s.draws := rfl

@[simp] theorem State.hclk_mapFifo (s : State) (n q : Nat) (f : Fifo → Fifo) : (s.mapFifo n q f).hclk = s.hclk := rfl
@[simp] theorem State.enabled_mapFifo (s : State) (n q : Nat) (f : Fifo → Fifo) : (s.mapFifo n q f).enabled = s.enabled := rfl
@[simp] theorem State.bringUp_mapFifo (s : State) (n q : Nat) (f : Fifo → Fifo) : (s.mapFifo n q f).bringUp = s.bringUp := rfl
@[simp] theorem State.failed_mapFifo (s : State) (n q : Nat) (f : Fifo → Fifo) : (s.mapFifo n q f).failed = s.failed := rfl
@[simp] theorem State.slew_mapFifo (s : State) (n q : Nat) (f : Fifo → Fifo) : (s.mapFifo n q f).slew = s.slew := rfl
@[simp] theorem State.fwmeas_mapFifo (s : State) (n q : Nat) (f : Fifo → Fifo) : (s.mapFifo n q f).fwmeas = s.fwmeas := rfl
@[simp] theorem State.mem_mapFifo (s : State) (n q : Nat) (f : Fifo → Fifo) : (s.mapFifo n q f).mem = s.mem := rfl
@[simp] theorem State.lines_mapFifo (s : State) (n q : Nat) (f : Fifo → Fifo) : (s.mapFifo n q f).lines = s.lines := rfl
@[simp] theorem State.copies_mapFifo (s : State) (n q : Nat) (f : Fifo → Fifo) : (s.mapFifo n q f).copies = s.copies := rfl
@[simp] theorem State.reqs_mapFifo (s : State) (n q : Nat) (f : Fifo → Fifo) : (s.mapFifo n q f).reqs = s.reqs := rfl
@[simp] theorem State.stores_mapFifo (s : State) (n q : Nat) (f : Fifo → Fifo) : (s.mapFifo n q f).stores = s.stores := rfl
@[simp] theorem State.flawed_mapFifo (s : State) (n q : Nat) (f : Fifo → Fifo) : (s.mapFifo n q f).flawed = s.flawed := rfl
@[simp] theorem State.flawedStash_mapFifo (s : State) (n q : Nat) (f : Fifo → Fifo) : (s.mapFifo n q f).flawedStash = s.flawedStash := rfl
@[simp] theorem State.arrivals_mapFifo (s : State) (n q : Nat) (f : Fifo → Fifo) : (s.mapFifo n q f).arrivals = s.arrivals := rfl
@[simp] theorem State.moving_mapFifo (s : State) (n q : Nat) (f : Fifo → Fifo) : (s.mapFifo n q f).moving = s.moving := rfl
@[simp] theorem State.outbox_mapFifo (s : State) (n q : Nat) (f : Fifo → Fifo) : (s.mapFifo n q f).outbox = s.outbox := rfl
@[simp] theorem State.access_mapFifo (s : State) (n q : Nat) (f : Fifo → Fifo) : (s.mapFifo n q f).access = s.access := rfl
@[simp] theorem State.threads_mapFifo (s : State) (n q : Nat) (f : Fifo → Fifo) : (s.mapFifo n q f).threads = s.threads := rfl
@[simp] theorem State.cores_mapFifo (s : State) (n q : Nat) (f : Fifo → Fifo) : (s.mapFifo n q f).cores = s.cores := rfl
@[simp] theorem State.dies_mapFifo (s : State) (n q : Nat) (f : Fifo → Fifo) : (s.mapFifo n q f).dies = s.dies := rfl
@[simp] theorem State.launches_mapFifo (s : State) (n q : Nat) (f : Fifo → Fifo) : (s.mapFifo n q f).launches = s.launches := rfl
@[simp] theorem State.domains_mapFifo (s : State) (n q : Nat) (f : Fifo → Fifo) : (s.mapFifo n q f).domains = s.domains := rfl
@[simp] theorem State.fns_mapFifo (s : State) (n q : Nat) (f : Fifo → Fifo) : (s.mapFifo n q f).fns = s.fns := rfl
@[simp] theorem State.unreached_mapFifo (s : State) (n q : Nat) (f : Fifo → Fifo) : (s.mapFifo n q f).unreached = s.unreached := rfl
@[simp] theorem State.gang_mapFifo (s : State) (n q : Nat) (f : Fifo → Fifo) : (s.mapFifo n q f).gang = s.gang := rfl
@[simp] theorem State.switching_mapFifo (s : State) (n q : Nat) (f : Fifo → Fifo) : (s.mapFifo n q f).switching = s.switching := rfl
@[simp] theorem State.schedule_mapFifo (s : State) (n q : Nat) (f : Fifo → Fifo) : (s.mapFifo n q f).schedule = s.schedule := rfl
@[simp] theorem State.agenda_mapFifo (s : State) (n q : Nat) (f : Fifo → Fifo) : (s.mapFifo n q f).agenda = s.agenda := rfl
@[simp] theorem State.copyTurn_mapFifo (s : State) (n q : Nat) (f : Fifo → Fifo) : (s.mapFifo n q f).copyTurn = s.copyTurn := rfl
@[simp] theorem State.cur_mapFifo (s : State) (n q : Nat) (f : Fifo → Fifo) : (s.mapFifo n q f).cur = s.cur := rfl
@[simp] theorem State.draws_mapFifo (s : State) (n q : Nat) (f : Fifo → Fifo) : (s.mapFifo n q f).draws = s.draws := rfl

@[simp] theorem State.hclk_mapWindow (s : State) (n w : Nat) (f : Window → Window) : (s.mapWindow n w f).hclk = s.hclk := rfl
@[simp] theorem State.enabled_mapWindow (s : State) (n w : Nat) (f : Window → Window) : (s.mapWindow n w f).enabled = s.enabled := rfl
@[simp] theorem State.bringUp_mapWindow (s : State) (n w : Nat) (f : Window → Window) : (s.mapWindow n w f).bringUp = s.bringUp := rfl
@[simp] theorem State.failed_mapWindow (s : State) (n w : Nat) (f : Window → Window) : (s.mapWindow n w f).failed = s.failed := rfl
@[simp] theorem State.slew_mapWindow (s : State) (n w : Nat) (f : Window → Window) : (s.mapWindow n w f).slew = s.slew := rfl
@[simp] theorem State.fwmeas_mapWindow (s : State) (n w : Nat) (f : Window → Window) : (s.mapWindow n w f).fwmeas = s.fwmeas := rfl
@[simp] theorem State.mem_mapWindow (s : State) (n w : Nat) (f : Window → Window) : (s.mapWindow n w f).mem = s.mem := rfl
@[simp] theorem State.lines_mapWindow (s : State) (n w : Nat) (f : Window → Window) : (s.mapWindow n w f).lines = s.lines := rfl
@[simp] theorem State.copies_mapWindow (s : State) (n w : Nat) (f : Window → Window) : (s.mapWindow n w f).copies = s.copies := rfl
@[simp] theorem State.reqs_mapWindow (s : State) (n w : Nat) (f : Window → Window) : (s.mapWindow n w f).reqs = s.reqs := rfl
@[simp] theorem State.stores_mapWindow (s : State) (n w : Nat) (f : Window → Window) : (s.mapWindow n w f).stores = s.stores := rfl
@[simp] theorem State.flawed_mapWindow (s : State) (n w : Nat) (f : Window → Window) : (s.mapWindow n w f).flawed = s.flawed := rfl
@[simp] theorem State.flawedStash_mapWindow (s : State) (n w : Nat) (f : Window → Window) : (s.mapWindow n w f).flawedStash = s.flawedStash := rfl
@[simp] theorem State.arrivals_mapWindow (s : State) (n w : Nat) (f : Window → Window) : (s.mapWindow n w f).arrivals = s.arrivals := rfl
@[simp] theorem State.moving_mapWindow (s : State) (n w : Nat) (f : Window → Window) : (s.mapWindow n w f).moving = s.moving := rfl
@[simp] theorem State.outbox_mapWindow (s : State) (n w : Nat) (f : Window → Window) : (s.mapWindow n w f).outbox = s.outbox := rfl
@[simp] theorem State.access_mapWindow (s : State) (n w : Nat) (f : Window → Window) : (s.mapWindow n w f).access = s.access := rfl
@[simp] theorem State.threads_mapWindow (s : State) (n w : Nat) (f : Window → Window) : (s.mapWindow n w f).threads = s.threads := rfl
@[simp] theorem State.cores_mapWindow (s : State) (n w : Nat) (f : Window → Window) : (s.mapWindow n w f).cores = s.cores := rfl
@[simp] theorem State.dies_mapWindow (s : State) (n w : Nat) (f : Window → Window) : (s.mapWindow n w f).dies = s.dies := rfl
@[simp] theorem State.launches_mapWindow (s : State) (n w : Nat) (f : Window → Window) : (s.mapWindow n w f).launches = s.launches := rfl
@[simp] theorem State.domains_mapWindow (s : State) (n w : Nat) (f : Window → Window) : (s.mapWindow n w f).domains = s.domains := rfl
@[simp] theorem State.fns_mapWindow (s : State) (n w : Nat) (f : Window → Window) : (s.mapWindow n w f).fns = s.fns := rfl
@[simp] theorem State.unreached_mapWindow (s : State) (n w : Nat) (f : Window → Window) : (s.mapWindow n w f).unreached = s.unreached := rfl
@[simp] theorem State.gang_mapWindow (s : State) (n w : Nat) (f : Window → Window) : (s.mapWindow n w f).gang = s.gang := rfl
@[simp] theorem State.switching_mapWindow (s : State) (n w : Nat) (f : Window → Window) : (s.mapWindow n w f).switching = s.switching := rfl
@[simp] theorem State.schedule_mapWindow (s : State) (n w : Nat) (f : Window → Window) : (s.mapWindow n w f).schedule = s.schedule := rfl
@[simp] theorem State.agenda_mapWindow (s : State) (n w : Nat) (f : Window → Window) : (s.mapWindow n w f).agenda = s.agenda := rfl
@[simp] theorem State.copyTurn_mapWindow (s : State) (n w : Nat) (f : Window → Window) : (s.mapWindow n w f).copyTurn = s.copyTurn := rfl
@[simp] theorem State.cur_mapWindow (s : State) (n w : Nat) (f : Window → Window) : (s.mapWindow n w f).cur = s.cur := rfl
@[simp] theorem State.draws_mapWindow (s : State) (n w : Nat) (f : Window → Window) : (s.mapWindow n w f).draws = s.draws := rfl

@[simp] theorem State.hclk_mapReq (s : State) (n : Nat) (f : Req → Req) : (s.mapReq n f).hclk = s.hclk := rfl
@[simp] theorem State.enabled_mapReq (s : State) (n : Nat) (f : Req → Req) : (s.mapReq n f).enabled = s.enabled := rfl
@[simp] theorem State.bringUp_mapReq (s : State) (n : Nat) (f : Req → Req) : (s.mapReq n f).bringUp = s.bringUp := rfl
@[simp] theorem State.failed_mapReq (s : State) (n : Nat) (f : Req → Req) : (s.mapReq n f).failed = s.failed := rfl
@[simp] theorem State.slew_mapReq (s : State) (n : Nat) (f : Req → Req) : (s.mapReq n f).slew = s.slew := rfl
@[simp] theorem State.fwmeas_mapReq (s : State) (n : Nat) (f : Req → Req) : (s.mapReq n f).fwmeas = s.fwmeas := rfl
@[simp] theorem State.mem_mapReq (s : State) (n : Nat) (f : Req → Req) : (s.mapReq n f).mem = s.mem := rfl
@[simp] theorem State.lines_mapReq (s : State) (n : Nat) (f : Req → Req) : (s.mapReq n f).lines = s.lines := rfl
@[simp] theorem State.copies_mapReq (s : State) (n : Nat) (f : Req → Req) : (s.mapReq n f).copies = s.copies := rfl
@[simp] theorem State.stores_mapReq (s : State) (n : Nat) (f : Req → Req) : (s.mapReq n f).stores = s.stores := rfl
@[simp] theorem State.flawed_mapReq (s : State) (n : Nat) (f : Req → Req) : (s.mapReq n f).flawed = s.flawed := rfl
@[simp] theorem State.flawedStash_mapReq (s : State) (n : Nat) (f : Req → Req) : (s.mapReq n f).flawedStash = s.flawedStash := rfl
@[simp] theorem State.arrivals_mapReq (s : State) (n : Nat) (f : Req → Req) : (s.mapReq n f).arrivals = s.arrivals := rfl
@[simp] theorem State.moving_mapReq (s : State) (n : Nat) (f : Req → Req) : (s.mapReq n f).moving = s.moving := rfl
@[simp] theorem State.outbox_mapReq (s : State) (n : Nat) (f : Req → Req) : (s.mapReq n f).outbox = s.outbox := rfl
@[simp] theorem State.access_mapReq (s : State) (n : Nat) (f : Req → Req) : (s.mapReq n f).access = s.access := rfl
@[simp] theorem State.threads_mapReq (s : State) (n : Nat) (f : Req → Req) : (s.mapReq n f).threads = s.threads := rfl
@[simp] theorem State.cores_mapReq (s : State) (n : Nat) (f : Req → Req) : (s.mapReq n f).cores = s.cores := rfl
@[simp] theorem State.dies_mapReq (s : State) (n : Nat) (f : Req → Req) : (s.mapReq n f).dies = s.dies := rfl
@[simp] theorem State.launches_mapReq (s : State) (n : Nat) (f : Req → Req) : (s.mapReq n f).launches = s.launches := rfl
@[simp] theorem State.lcs_mapReq (s : State) (n : Nat) (f : Req → Req) : (s.mapReq n f).lcs = s.lcs := rfl
@[simp] theorem State.domains_mapReq (s : State) (n : Nat) (f : Req → Req) : (s.mapReq n f).domains = s.domains := rfl
@[simp] theorem State.fns_mapReq (s : State) (n : Nat) (f : Req → Req) : (s.mapReq n f).fns = s.fns := rfl
@[simp] theorem State.unreached_mapReq (s : State) (n : Nat) (f : Req → Req) : (s.mapReq n f).unreached = s.unreached := rfl
@[simp] theorem State.gang_mapReq (s : State) (n : Nat) (f : Req → Req) : (s.mapReq n f).gang = s.gang := rfl
@[simp] theorem State.switching_mapReq (s : State) (n : Nat) (f : Req → Req) : (s.mapReq n f).switching = s.switching := rfl
@[simp] theorem State.schedule_mapReq (s : State) (n : Nat) (f : Req → Req) : (s.mapReq n f).schedule = s.schedule := rfl
@[simp] theorem State.agenda_mapReq (s : State) (n : Nat) (f : Req → Req) : (s.mapReq n f).agenda = s.agenda := rfl
@[simp] theorem State.copyTurn_mapReq (s : State) (n : Nat) (f : Req → Req) : (s.mapReq n f).copyTurn = s.copyTurn := rfl
@[simp] theorem State.cur_mapReq (s : State) (n : Nat) (f : Req → Req) : (s.mapReq n f).cur = s.cur := rfl
@[simp] theorem State.draws_mapReq (s : State) (n : Nat) (f : Req → Req) : (s.mapReq n f).draws = s.draws := rfl

@[simp] theorem State.hclk_sendOut (s : State) (p : Nat) (bs : List Byte) : (s.sendOut p bs).hclk = s.hclk := rfl
@[simp] theorem State.enabled_sendOut (s : State) (p : Nat) (bs : List Byte) : (s.sendOut p bs).enabled = s.enabled := rfl
@[simp] theorem State.bringUp_sendOut (s : State) (p : Nat) (bs : List Byte) : (s.sendOut p bs).bringUp = s.bringUp := rfl
@[simp] theorem State.failed_sendOut (s : State) (p : Nat) (bs : List Byte) : (s.sendOut p bs).failed = s.failed := rfl
@[simp] theorem State.slew_sendOut (s : State) (p : Nat) (bs : List Byte) : (s.sendOut p bs).slew = s.slew := rfl
@[simp] theorem State.fwmeas_sendOut (s : State) (p : Nat) (bs : List Byte) : (s.sendOut p bs).fwmeas = s.fwmeas := rfl
@[simp] theorem State.mem_sendOut (s : State) (p : Nat) (bs : List Byte) : (s.sendOut p bs).mem = s.mem := rfl
@[simp] theorem State.lines_sendOut (s : State) (p : Nat) (bs : List Byte) : (s.sendOut p bs).lines = s.lines := rfl
@[simp] theorem State.copies_sendOut (s : State) (p : Nat) (bs : List Byte) : (s.sendOut p bs).copies = s.copies := rfl
@[simp] theorem State.reqs_sendOut (s : State) (p : Nat) (bs : List Byte) : (s.sendOut p bs).reqs = s.reqs := rfl
@[simp] theorem State.stores_sendOut (s : State) (p : Nat) (bs : List Byte) : (s.sendOut p bs).stores = s.stores := rfl
@[simp] theorem State.flawed_sendOut (s : State) (p : Nat) (bs : List Byte) : (s.sendOut p bs).flawed = s.flawed := rfl
@[simp] theorem State.flawedStash_sendOut (s : State) (p : Nat) (bs : List Byte) : (s.sendOut p bs).flawedStash = s.flawedStash := rfl
@[simp] theorem State.arrivals_sendOut (s : State) (p : Nat) (bs : List Byte) : (s.sendOut p bs).arrivals = s.arrivals := rfl
@[simp] theorem State.moving_sendOut (s : State) (p : Nat) (bs : List Byte) : (s.sendOut p bs).moving = s.moving := rfl
@[simp] theorem State.access_sendOut (s : State) (p : Nat) (bs : List Byte) : (s.sendOut p bs).access = s.access := rfl
@[simp] theorem State.threads_sendOut (s : State) (p : Nat) (bs : List Byte) : (s.sendOut p bs).threads = s.threads := rfl
@[simp] theorem State.cores_sendOut (s : State) (p : Nat) (bs : List Byte) : (s.sendOut p bs).cores = s.cores := rfl
@[simp] theorem State.dies_sendOut (s : State) (p : Nat) (bs : List Byte) : (s.sendOut p bs).dies = s.dies := rfl
@[simp] theorem State.launches_sendOut (s : State) (p : Nat) (bs : List Byte) : (s.sendOut p bs).launches = s.launches := rfl
@[simp] theorem State.lcs_sendOut (s : State) (p : Nat) (bs : List Byte) : (s.sendOut p bs).lcs = s.lcs := rfl
@[simp] theorem State.domains_sendOut (s : State) (p : Nat) (bs : List Byte) : (s.sendOut p bs).domains = s.domains := rfl
@[simp] theorem State.fns_sendOut (s : State) (p : Nat) (bs : List Byte) : (s.sendOut p bs).fns = s.fns := rfl
@[simp] theorem State.unreached_sendOut (s : State) (p : Nat) (bs : List Byte) : (s.sendOut p bs).unreached = s.unreached := rfl
@[simp] theorem State.gang_sendOut (s : State) (p : Nat) (bs : List Byte) : (s.sendOut p bs).gang = s.gang := rfl
@[simp] theorem State.switching_sendOut (s : State) (p : Nat) (bs : List Byte) : (s.sendOut p bs).switching = s.switching := rfl
@[simp] theorem State.schedule_sendOut (s : State) (p : Nat) (bs : List Byte) : (s.sendOut p bs).schedule = s.schedule := rfl
@[simp] theorem State.agenda_sendOut (s : State) (p : Nat) (bs : List Byte) : (s.sendOut p bs).agenda = s.agenda := rfl
@[simp] theorem State.copyTurn_sendOut (s : State) (p : Nat) (bs : List Byte) : (s.sendOut p bs).copyTurn = s.copyTurn := rfl
@[simp] theorem State.cur_sendOut (s : State) (p : Nat) (bs : List Byte) : (s.sendOut p bs).cur = s.cur := rfl
@[simp] theorem State.draws_sendOut (s : State) (p : Nat) (bs : List Byte) : (s.sendOut p bs).draws = s.draws := rfl

@[simp] theorem State.hclk_mapStore (s : State) (n : Nat) (f : Store → Store) : (s.mapStore n f).hclk = s.hclk := rfl
@[simp] theorem State.enabled_mapStore (s : State) (n : Nat) (f : Store → Store) : (s.mapStore n f).enabled = s.enabled := rfl
@[simp] theorem State.bringUp_mapStore (s : State) (n : Nat) (f : Store → Store) : (s.mapStore n f).bringUp = s.bringUp := rfl
@[simp] theorem State.failed_mapStore (s : State) (n : Nat) (f : Store → Store) : (s.mapStore n f).failed = s.failed := rfl
@[simp] theorem State.slew_mapStore (s : State) (n : Nat) (f : Store → Store) : (s.mapStore n f).slew = s.slew := rfl
@[simp] theorem State.fwmeas_mapStore (s : State) (n : Nat) (f : Store → Store) : (s.mapStore n f).fwmeas = s.fwmeas := rfl
@[simp] theorem State.mem_mapStore (s : State) (n : Nat) (f : Store → Store) : (s.mapStore n f).mem = s.mem := rfl
@[simp] theorem State.lines_mapStore (s : State) (n : Nat) (f : Store → Store) : (s.mapStore n f).lines = s.lines := rfl
@[simp] theorem State.copies_mapStore (s : State) (n : Nat) (f : Store → Store) : (s.mapStore n f).copies = s.copies := rfl
@[simp] theorem State.reqs_mapStore (s : State) (n : Nat) (f : Store → Store) : (s.mapStore n f).reqs = s.reqs := rfl
@[simp] theorem State.flawed_mapStore (s : State) (n : Nat) (f : Store → Store) : (s.mapStore n f).flawed = s.flawed := rfl
@[simp] theorem State.flawedStash_mapStore (s : State) (n : Nat) (f : Store → Store) : (s.mapStore n f).flawedStash = s.flawedStash := rfl
@[simp] theorem State.arrivals_mapStore (s : State) (n : Nat) (f : Store → Store) : (s.mapStore n f).arrivals = s.arrivals := rfl
@[simp] theorem State.moving_mapStore (s : State) (n : Nat) (f : Store → Store) : (s.mapStore n f).moving = s.moving := rfl
@[simp] theorem State.outbox_mapStore (s : State) (n : Nat) (f : Store → Store) : (s.mapStore n f).outbox = s.outbox := rfl
@[simp] theorem State.access_mapStore (s : State) (n : Nat) (f : Store → Store) : (s.mapStore n f).access = s.access := rfl
@[simp] theorem State.threads_mapStore (s : State) (n : Nat) (f : Store → Store) : (s.mapStore n f).threads = s.threads := rfl
@[simp] theorem State.cores_mapStore (s : State) (n : Nat) (f : Store → Store) : (s.mapStore n f).cores = s.cores := rfl
@[simp] theorem State.dies_mapStore (s : State) (n : Nat) (f : Store → Store) : (s.mapStore n f).dies = s.dies := rfl
@[simp] theorem State.launches_mapStore (s : State) (n : Nat) (f : Store → Store) : (s.mapStore n f).launches = s.launches := rfl
@[simp] theorem State.lcs_mapStore (s : State) (n : Nat) (f : Store → Store) : (s.mapStore n f).lcs = s.lcs := rfl
@[simp] theorem State.domains_mapStore (s : State) (n : Nat) (f : Store → Store) : (s.mapStore n f).domains = s.domains := rfl
@[simp] theorem State.fns_mapStore (s : State) (n : Nat) (f : Store → Store) : (s.mapStore n f).fns = s.fns := rfl
@[simp] theorem State.unreached_mapStore (s : State) (n : Nat) (f : Store → Store) : (s.mapStore n f).unreached = s.unreached := rfl
@[simp] theorem State.gang_mapStore (s : State) (n : Nat) (f : Store → Store) : (s.mapStore n f).gang = s.gang := rfl
@[simp] theorem State.switching_mapStore (s : State) (n : Nat) (f : Store → Store) : (s.mapStore n f).switching = s.switching := rfl
@[simp] theorem State.schedule_mapStore (s : State) (n : Nat) (f : Store → Store) : (s.mapStore n f).schedule = s.schedule := rfl
@[simp] theorem State.agenda_mapStore (s : State) (n : Nat) (f : Store → Store) : (s.mapStore n f).agenda = s.agenda := rfl
@[simp] theorem State.copyTurn_mapStore (s : State) (n : Nat) (f : Store → Store) : (s.mapStore n f).copyTurn = s.copyTurn := rfl
@[simp] theorem State.cur_mapStore (s : State) (n : Nat) (f : Store → Store) : (s.mapStore n f).cur = s.cur := rfl
@[simp] theorem State.draws_mapStore (s : State) (n : Nat) (f : Store → Store) : (s.mapStore n f).draws = s.draws := rfl

@[simp] theorem State.hclk_setLane (s : State) (p : Pipe) (d : Dst) (f : Nat → Word) :
    (s.setLane p d f).hclk = s.hclk := by cases d <;> rfl
@[simp] theorem State.enabled_setLane (s : State) (p : Pipe) (d : Dst) (f : Nat → Word) :
    (s.setLane p d f).enabled = s.enabled := by cases d <;> rfl
@[simp] theorem State.bringUp_setLane (s : State) (p : Pipe) (d : Dst) (f : Nat → Word) :
    (s.setLane p d f).bringUp = s.bringUp := by cases d <;> rfl
@[simp] theorem State.failed_setLane (s : State) (p : Pipe) (d : Dst) (f : Nat → Word) :
    (s.setLane p d f).failed = s.failed := by cases d <;> rfl
@[simp] theorem State.slew_setLane (s : State) (p : Pipe) (d : Dst) (f : Nat → Word) :
    (s.setLane p d f).slew = s.slew := by cases d <;> rfl
@[simp] theorem State.fwmeas_setLane (s : State) (p : Pipe) (d : Dst) (f : Nat → Word) :
    (s.setLane p d f).fwmeas = s.fwmeas := by cases d <;> rfl
@[simp] theorem State.mem_setLane (s : State) (p : Pipe) (d : Dst) (f : Nat → Word) :
    (s.setLane p d f).mem = s.mem := by cases d <;> rfl
@[simp] theorem State.lines_setLane (s : State) (p : Pipe) (d : Dst) (f : Nat → Word) :
    (s.setLane p d f).lines = s.lines := by cases d <;> rfl
@[simp] theorem State.copies_setLane (s : State) (p : Pipe) (d : Dst) (f : Nat → Word) :
    (s.setLane p d f).copies = s.copies := by cases d <;> rfl
@[simp] theorem State.reqs_setLane (s : State) (p : Pipe) (d : Dst) (f : Nat → Word) :
    (s.setLane p d f).reqs = s.reqs := by cases d <;> rfl
@[simp] theorem State.stores_setLane (s : State) (p : Pipe) (d : Dst) (f : Nat → Word) :
    (s.setLane p d f).stores = s.stores := by cases d <;> rfl
@[simp] theorem State.flawed_setLane (s : State) (p : Pipe) (d : Dst) (f : Nat → Word) :
    (s.setLane p d f).flawed = s.flawed := by cases d <;> rfl
@[simp] theorem State.flawedStash_setLane (s : State) (p : Pipe) (d : Dst) (f : Nat → Word) :
    (s.setLane p d f).flawedStash = s.flawedStash := by cases d <;> rfl
@[simp] theorem State.arrivals_setLane (s : State) (p : Pipe) (d : Dst) (f : Nat → Word) :
    (s.setLane p d f).arrivals = s.arrivals := by cases d <;> rfl
@[simp] theorem State.moving_setLane (s : State) (p : Pipe) (d : Dst) (f : Nat → Word) :
    (s.setLane p d f).moving = s.moving := by cases d <;> rfl
@[simp] theorem State.outbox_setLane (s : State) (p : Pipe) (d : Dst) (f : Nat → Word) :
    (s.setLane p d f).outbox = s.outbox := by cases d <;> rfl
@[simp] theorem State.access_setLane (s : State) (p : Pipe) (d : Dst) (f : Nat → Word) :
    (s.setLane p d f).access = s.access := by cases d <;> rfl
@[simp] theorem State.cores_setLane (s : State) (p : Pipe) (d : Dst) (f : Nat → Word) :
    (s.setLane p d f).cores = s.cores := by cases d <;> rfl
@[simp] theorem State.dies_setLane (s : State) (p : Pipe) (d : Dst) (f : Nat → Word) :
    (s.setLane p d f).dies = s.dies := by cases d <;> rfl
@[simp] theorem State.launches_setLane (s : State) (p : Pipe) (d : Dst) (f : Nat → Word) :
    (s.setLane p d f).launches = s.launches := by cases d <;> rfl
@[simp] theorem State.lcs_setLane (s : State) (p : Pipe) (d : Dst) (f : Nat → Word) :
    (s.setLane p d f).lcs = s.lcs := by cases d <;> rfl
@[simp] theorem State.domains_setLane (s : State) (p : Pipe) (d : Dst) (f : Nat → Word) :
    (s.setLane p d f).domains = s.domains := by cases d <;> rfl
@[simp] theorem State.fns_setLane (s : State) (p : Pipe) (d : Dst) (f : Nat → Word) :
    (s.setLane p d f).fns = s.fns := by cases d <;> rfl
@[simp] theorem State.unreached_setLane (s : State) (p : Pipe) (d : Dst) (f : Nat → Word) :
    (s.setLane p d f).unreached = s.unreached := by cases d <;> rfl
@[simp] theorem State.gang_setLane (s : State) (p : Pipe) (d : Dst) (f : Nat → Word) :
    (s.setLane p d f).gang = s.gang := by cases d <;> rfl
@[simp] theorem State.switching_setLane (s : State) (p : Pipe) (d : Dst) (f : Nat → Word) :
    (s.setLane p d f).switching = s.switching := by cases d <;> rfl
@[simp] theorem State.schedule_setLane (s : State) (p : Pipe) (d : Dst) (f : Nat → Word) :
    (s.setLane p d f).schedule = s.schedule := by cases d <;> rfl
@[simp] theorem State.agenda_setLane (s : State) (p : Pipe) (d : Dst) (f : Nat → Word) :
    (s.setLane p d f).agenda = s.agenda := by cases d <;> rfl
@[simp] theorem State.copyTurn_setLane (s : State) (p : Pipe) (d : Dst) (f : Nat → Word) :
    (s.setLane p d f).copyTurn = s.copyTurn := by cases d <;> rfl
@[simp] theorem State.cur_setLane (s : State) (p : Pipe) (d : Dst) (f : Nat → Word) :
    (s.setLane p d f).cur = s.cur := by cases d <;> rfl
@[simp] theorem State.draws_setLane (s : State) (p : Pipe) (d : Dst) (f : Nat → Word) :
    (s.setLane p d f).draws = s.draws := by cases d <;> rfl

end Sys2Proof.Machine
end

