-- ==== Sys2Proof/Laws/Memory.lean ====
section
/-! SUPPORT. What the operations over sparse memory do: a read after a write, the bytes a write leaves alone,
and that every operation keeps the canonical form. -/

namespace Sys2Proof.Machine

/-- Every cell lies above an address and holds a byte that an unlisted address does not read as. -/
theorem Memory.wf_cons (c : Host.Cell) (m : List Host.Cell) :
    Memory.wf (c :: m) = true ↔ c.2 ≠ unlisted ∧ (∀ x ∈ m, c.1 < x.1) ∧ Memory.wf m = true := by
  induction m generalizing c with
  | nil => obtain ⟨a, b⟩ := c; simp [Memory.wf]
  | cons y t ih =>
    obtain ⟨a, b⟩ := c
    obtain ⟨a', b'⟩ := y
    have e : Memory.wf ((a, b) :: (a', b') :: t) = (b != unlisted && decide (a < a') && Memory.wf ((a', b') :: t)) := rfl
    rw [e]
    simp only [Bool.and_eq_true, bne_iff_ne, decide_eq_true_eq, List.mem_cons, forall_eq_or_imp]
    constructor
    · rintro ⟨⟨hb, ha⟩, h⟩
      exact ⟨hb, ⟨ha, fun x hx => lt_trans ha (((ih _).mp h).2.1 x hx)⟩, h⟩
    · rintro ⟨hb, ⟨ha, -⟩, h⟩
      exact ⟨⟨hb, ha⟩, h⟩

/-- An address below every cell reads as an unlisted one. -/
theorem memGet_below (m : List Host.Cell) (n : Nat) (h : ∀ x ∈ m, n < x.1) : memGet m n = unlisted := by
  cases m with
  | nil => rfl
  | cons c t => obtain ⟨a, b⟩ := c; simp [memGet, h (a, b) (by simp)]

/-- A cell that a write leaves is one that was there, or the byte written. -/
theorem mem_memPut (m : List Host.Cell) (n : Nat) (x : Byte) (c : Host.Cell) (h : c ∈ memPut m n x) :
    c ∈ m ∨ c = (n, x) := by
  induction m with
  | nil => unfold memPut at h; split at h <;> simp_all
  | cons y t ih =>
    obtain ⟨a, b⟩ := y
    unfold memPut at h
    split at h
    · split at h <;> simp at h ⊢ <;> tauto
    · split at h
      · split at h <;> simp at h ⊢ <;> tauto
      · simp only [List.mem_cons] at h ⊢
        tauto

/-- A write of one byte keeps the canonical form. -/
theorem Memory.wf_memPut (m : List Host.Cell) (n : Nat) (x : Byte) (h : Memory.wf m = true) :
    Memory.wf (memPut m n x) = true := by
  induction m with
  | nil => unfold memPut; split <;> simp_all [Memory.wf]
  | cons y t ih =>
    obtain ⟨a, b⟩ := y
    have h' := (Memory.wf_cons _ _).mp h
    unfold memPut
    split
    · rename_i hn
      split
      · exact h
      · rename_i hx
        refine (Memory.wf_cons _ _).mpr ⟨hx, ?_, h⟩
        intro c hc
        rcases List.mem_cons.mp hc with rfl | hc
        · exact hn
        · exact lt_trans hn (h'.2.1 c hc)
    · split
      · rename_i hn
        subst hn
        split
        · exact h'.2.2
        · rename_i hx
          exact (Memory.wf_cons _ _).mpr ⟨hx, h'.2.1, h'.2.2⟩
      · refine (Memory.wf_cons _ _).mpr ⟨h'.1, ?_, ih h'.2.2⟩
        intro c hc
        rcases mem_memPut _ _ _ _ hc with hc | rfl
        · exact h'.2.1 c hc
        · show a < n; omega

/-- A byte read after a write of one byte. -/
theorem memGet_memPut (m : List Host.Cell) (n k : Nat) (x : Byte) (h : Memory.wf m = true) :
    memGet (memPut m n x) k = if k = n then x else memGet m k := by
  induction m with
  | nil =>
    simp only [memPut]
    split
    · subst_vars; simp [memGet]
    · simp only [memGet]; split <;> simp_all; intro; omega
  | cons y t ih =>
    obtain ⟨a, b⟩ := y
    have h' := (Memory.wf_cons _ _).mp h
    simp only [memPut]
    split
    · rename_i hn
      split
      · rename_i hx
        split
        · subst_vars; simp [memGet, hn]
        · rfl
      · simp only [memGet]
        by_cases e : k = n
        · subst e; simp
        · by_cases l : k < n
          · have : k < a := by omega
            simp [l, e, this]
          · simp [l, e]
    · split
      · rename_i h1 h2
        subst h2
        split
        · rename_i hx
          by_cases e : k = n
          · subst e; rw [if_pos rfl, hx, memGet_below _ _ h'.2.1]
          · by_cases l : k < n
            · rw [if_neg e, memGet_below _ _ (fun c hc => lt_trans l (h'.2.1 c hc))]
              simp [memGet, l]
            · simp [memGet, l, e]
        · simp only [memGet]
          by_cases e : k = n <;> by_cases l : k < n <;> simp [e, l]
      · simp only [memGet, ih h'.2.2]
        by_cases e : k = n
        · subst e; simp_all
        · simp [e]

/-- A write of several bytes keeps the canonical form. -/
theorem Memory.wf_memPutN (bs : List Byte) (m : List Host.Cell) (n : Nat) (h : Memory.wf m = true) :
    Memory.wf (memPutN m n bs) = true := by
  induction bs generalizing m n with
  | nil => exact h
  | cons b t ih => exact ih _ _ (Memory.wf_memPut _ _ _ h)

/-- A byte read after a write of several bytes. -/
theorem memGet_memPutN (bs : List Byte) (m : List Host.Cell) (n k : Nat) (h : Memory.wf m = true) :
    memGet (memPutN m n bs) k = if n ≤ k then (bs[k - n]?).getD (memGet m k) else memGet m k := by
  induction bs generalizing m n with
  | nil => simp [memPutN]
  | cons b t ih =>
    rw [memPutN, ih _ _ (Memory.wf_memPut _ _ _ h), memGet_memPut _ _ _ _ h]
    by_cases e : k = n
    · subst e; simp
    · by_cases l : n ≤ k
      · have e1 : n + 1 ≤ k := by omega
        have e2 : k - n = (k - (n + 1)) + 1 := by omega
        simp [e, l, e1, e2]
      · have e1 : ¬ n + 1 ≤ k := by omega
        simp [e, l, e1]

/-- A write leaves every byte outside its own alone. -/
theorem memGet_memPutN_other (bs : List Byte) (m : List Host.Cell) (n k : Nat) (h : Memory.wf m = true)
    (hk : k < n ∨ n + bs.length ≤ k) : memGet (memPutN m n bs) k = memGet m k := by
  rw [memGet_memPutN _ _ _ _ h]
  split
  · have : bs[k - n]? = none := by simp; omega
    simp [this]
  · rfl

/-- The bytes written read back. -/
theorem memGetN_memPutN (bs : List Byte) (m : List Host.Cell) (n : Nat) (h : Memory.wf m = true) :
    memGetN (memPutN m n bs) n bs.length = bs := by
  apply List.ext_getElem
  · simp [memGetN]
  · intro i h1 h2
    simp [memGetN, memGet_memPutN _ _ _ _ h, h2]

/-- Writes of single bytes keep the canonical form. -/
theorem Memory.wf_foldl_memPut {α : Type} (f : α → Nat) (g : α → Byte) (l : List α) (m : List Host.Cell)
    (h : Memory.wf m = true) : Memory.wf (l.foldl (fun m c => memPut m (f c) (g c)) m) = true := by
  induction l generalizing m with
  | nil => exact h
  | cons c t ih => exact ih _ (Memory.wf_memPut _ _ _ h)

/-- Writes of several bytes each keep the canonical form. -/
theorem Memory.wf_foldl_memPutN {α : Type} (f : α → Nat) (g : α → List Byte) (l : List α) (m : List Host.Cell)
    (h : Memory.wf m = true) : Memory.wf (l.foldl (fun m c => memPutN m (f c) (g c)) m) = true := by
  induction l generalizing m with
  | nil => exact h
  | cons c t ih => exact ih _ (Memory.wf_memPutN _ _ _ h)

/-- Dropping cells keeps the canonical form. -/
theorem Memory.wf_filter (p : Host.Cell → Bool) (m : List Host.Cell) (h : Memory.wf m = true) :
    Memory.wf (m.filter p) = true := by
  induction m with
  | nil => rfl
  | cons c t ih =>
    have h' := (Memory.wf_cons _ _).mp h
    rw [List.filter_cons]
    split
    · exact (Memory.wf_cons _ _).mpr ⟨h'.1, fun x hx => h'.2.1 x (List.mem_of_mem_filter hx), ih h'.2.2⟩
    · exact ih h'.2.2

/-- The move of a page keeps the canonical form. -/
theorem Memory.wf_moveCells (m : List Host.Cell) (a b n : Nat) (h : Memory.wf m = true) :
    Memory.wf (moveCells m a b n) = true :=
  Memory.wf_foldl_memPut (fun c : Host.Cell => c.1 - a + b) (fun c => c.2) _ _ (Memory.wf_filter _ _ h)

/-- Memory after reset is in canonical form. -/
theorem Memory.wf_reset : Memory.wf State.reset.mem = true := rfl

end Sys2Proof.Machine
end

