-- ==== Sys2Proof/Laws/PerInstr.lean ====
section
/-! SUPPORT. Per instruction: the word of an instruction carries in bits 31, 30 and 29:24 the C bit, the E bit
and the major opcode that its issue class is read from (R106), and a step of the device has no word. -/

namespace Sys2Proof.Laws.WordHeader

open Sys2Proof.Machine

/-- The header of every word of the instruction. -/
def Statement (i : Instr) : Prop :=
  ∀ (c e : Bool) (w : Word), encode c e i = some w →
    w.getLsbD 31 = c ∧ w.getLsbD 30 = e ∧ (w.extractLsb' 24 6).toNat = Instr.major i

/-- An instruction with a body has the header of its major opcode. -/
theorem of_body {i : Instr} {m : BitVec 6} {x : BitVec 24} (h : encodeBody i = some (m, x)) : Statement i := by
  intro c e w hw
  have hw' : ofBit c ++ ofBit e ++ m ++ x = w := by simpa [encode, h] using hw
  subst hw'
  have hm : Instr.major i = m.toNat := by simp [Instr.major, h]
  rw [hm]
  refine ⟨?_, ?_, ?_⟩
  · rw [BitVec.getLsbD_append, BitVec.getLsbD_append, BitVec.getLsbD_append]
    cases c <;> cases e <;> rfl
  · rw [BitVec.getLsbD_append, BitVec.getLsbD_append, BitVec.getLsbD_append]
    cases c <;> cases e <;> rfl
  · congr 1
    ext k hk
    simp
    grind

/-- A step of the device has no word. -/
theorem of_none {i : Instr} (h : encodeBody i = none) : Statement i := by
  intro c e w hw
  simp [encode, h] at hw

theorem nop : Statement .nop := of_body rfl
theorem exit : Statement .exit := of_body rfl
theorem yield : Statement .yield := of_body rfl
theorem ret : Statement .ret := of_body rfl
theorem bkpt : Statement .bkpt := of_body rfl
theorem trap : Statement .trap := of_body rfl
theorem waitev : ∀ x1, Statement (.waitev x1) := fun _ => of_body rfl
theorem bra : ∀ x1, Statement (.bra x1) := fun _ => of_body rfl
theorem brt : ∀ x1 x2, Statement (.brt x1 x2) := fun _ _ => of_body rfl
theorem brf : ∀ x1 x2, Statement (.brf x1 x2) := fun _ _ => of_body rfl
theorem brany : ∀ x1 x2, Statement (.brany x1 x2) := fun _ _ => of_body rfl
theorem brall : ∀ x1 x2, Statement (.brall x1 x2) := fun _ _ => of_body rfl
theorem call : ∀ x1, Statement (.call x1) := fun _ => of_body rfl
theorem jmpi : ∀ x1, Statement (.jmpi x1) := fun _ => of_body rfl
theorem calli : ∀ x1, Statement (.calli x1) := fun _ => of_body rfl
theorem loop : ∀ x1 x2, Statement (.loop x1 x2) := fun _ _ => of_body rfl
theorem guard : ∀ x1 x2, Statement (.guard x1 x2) := fun _ _ => of_body rfl
theorem pand : ∀ x1 x2 x3, Statement (.pand x1 x2 x3) := fun _ _ _ => of_body rfl
theorem por : ∀ x1 x2 x3, Statement (.por x1 x2 x3) := fun _ _ _ => of_body rfl
theorem pxor : ∀ x1 x2 x3, Statement (.pxor x1 x2 x3) := fun _ _ _ => of_body rfl
theorem pandn : ∀ x1 x2 x3, Statement (.pandn x1 x2 x3) := fun _ _ _ => of_body rfl
theorem pmov : ∀ x1 x2, Statement (.pmov x1 x2) := fun _ _ => of_body rfl
theorem ptov : ∀ x1 x2, Statement (.ptov x1 x2) := fun _ _ => of_body rfl
theorem ballot : ∀ x1 x2, Statement (.ballot x1 x2) := fun _ _ => of_body rfl
theorem vote : ∀ x1 x2, Statement (.vote x1 x2) := fun _ _ => of_body rfl
theorem join : ∀ x1, Statement (.join x1) := fun _ => of_body rfl
theorem leave : Statement .leave := of_body rfl
theorem arrive : ∀ x1, Statement (.arrive x1) := fun _ => of_body rfl
theorem barw : ∀ x1, Statement (.barw x1) := fun _ => of_body rfl
theorem waitb : ∀ x1, Statement (.waitb x1) := fun _ => of_body rfl
theorem castq : ∀ x1 x2, Statement (.castq x1 x2) := fun _ _ => of_body rfl
theorem iadd : ∀ x1 x2 x3, Statement (.iadd x1 x2 x3) := fun _ _ _ => of_body rfl
theorem isub : ∀ x1 x2 x3, Statement (.isub x1 x2 x3) := fun _ _ _ => of_body rfl
theorem and : ∀ x1 x2 x3, Statement (.and x1 x2 x3) := fun _ _ _ => of_body rfl
theorem or : ∀ x1 x2 x3, Statement (.or x1 x2 x3) := fun _ _ _ => of_body rfl
theorem xor : ∀ x1 x2 x3, Statement (.xor x1 x2 x3) := fun _ _ _ => of_body rfl
theorem andn : ∀ x1 x2 x3, Statement (.andn x1 x2 x3) := fun _ _ _ => of_body rfl
theorem imin : ∀ x1 x2 x3, Statement (.imin x1 x2 x3) := fun _ _ _ => of_body rfl
theorem imax : ∀ x1 x2 x3, Statement (.imax x1 x2 x3) := fun _ _ _ => of_body rfl
theorem shl : ∀ x1 x2 x3, Statement (.shl x1 x2 x3) := fun _ _ _ => of_body rfl
theorem shr : ∀ x1 x2 x3, Statement (.shr x1 x2 x3) := fun _ _ _ => of_body rfl
theorem sar : ∀ x1 x2 x3, Statement (.sar x1 x2 x3) := fun _ _ _ => of_body rfl
theorem rol : ∀ x1 x2 x3, Statement (.rol x1 x2 x3) := fun _ _ _ => of_body rfl
theorem iminu : ∀ x1 x2 x3, Statement (.iminu x1 x2 x3) := fun _ _ _ => of_body rfl
theorem imaxu : ∀ x1 x2 x3, Statement (.imaxu x1 x2 x3) := fun _ _ _ => of_body rfl
theorem amin : ∀ x1 x2 x3, Statement (.amin x1 x2 x3) := fun _ _ _ => of_body rfl
theorem iabsd : ∀ x1 x2 x3, Statement (.iabsd x1 x2 x3) := fun _ _ _ => of_body rfl
theorem imul : ∀ x1 x2 x3, Statement (.imul x1 x2 x3) := fun _ _ _ => of_body rfl
theorem imulh : ∀ x1 x2 x3, Statement (.imulh x1 x2 x3) := fun _ _ _ => of_body rfl
theorem imulhu : ∀ x1 x2 x3, Statement (.imulhu x1 x2 x3) := fun _ _ _ => of_body rfl
theorem imad : ∀ x1 x2 x3, Statement (.imad x1 x2 x3) := fun _ _ _ => of_body rfl
theorem clz : ∀ x1 x2, Statement (.clz x1 x2) := fun _ _ => of_body rfl
theorem popc : ∀ x1 x2, Statement (.popc x1 x2) := fun _ _ => of_body rfl
theorem brev : ∀ x1 x2, Statement (.brev x1 x2) := fun _ _ => of_body rfl
theorem iabs : ∀ x1 x2, Statement (.iabs x1 x2) := fun _ _ => of_body rfl
theorem icmp : ∀ x1 x2 x3 x4, Statement (.icmp x1 x2 x3 x4) := fun _ _ _ _ => of_body rfl
theorem icmpW : ∀ x1 x2 x3 x4, Statement (.icmpW x1 x2 x3 x4) := fun _ _ _ _ => of_body rfl
theorem iaddi : ∀ x1 x2 x3, Statement (.iaddi x1 x2 x3) := fun _ _ _ => of_body rfl
theorem shli : ∀ x1 x2 x3, Statement (.shli x1 x2 x3) := fun _ _ _ => of_body rfl
theorem shri : ∀ x1 x2 x3, Statement (.shri x1 x2 x3) := fun _ _ _ => of_body rfl
theorem sari : ∀ x1 x2 x3, Statement (.sari x1 x2 x3) := fun _ _ _ => of_body rfl
theorem roli : ∀ x1 x2 x3, Statement (.roli x1 x2 x3) := fun _ _ _ => of_body rfl
theorem movi : ∀ x1 x2, Statement (.movi x1 x2) := fun _ _ => of_body rfl
theorem movhi : ∀ x1 x2, Statement (.movhi x1 x2) := fun _ _ => of_body rfl
theorem bfx : ∀ x1 x2 x3, Statement (.bfx x1 x2 x3) := fun _ _ _ => of_body rfl
theorem bfi : ∀ x1 x2 x3, Statement (.bfi x1 x2 x3) := fun _ _ _ => of_body rfl
theorem iadd64 : ∀ x1 x2 x3, Statement (.iadd64 x1 x2 x3) := fun _ _ _ => of_body rfl
theorem isub64 : ∀ x1 x2 x3, Statement (.isub64 x1 x2 x3) := fun _ _ _ => of_body rfl
theorem shl64 : ∀ x1 x2 x3, Statement (.shl64 x1 x2 x3) := fun _ _ _ => of_body rfl
theorem imulw : ∀ x1 x2 x3, Statement (.imulw x1 x2 x3) := fun _ _ _ => of_body rfl
theorem pack16 : ∀ x1 x2 x3, Statement (.pack16 x1 x2 x3) := fun _ _ _ => of_body rfl
theorem byteperm : ∀ x1 x2 x3, Statement (.byteperm x1 x2 x3) := fun _ _ _ => of_body rfl
theorem sel : ∀ x1 x2 x3 x4, Statement (.sel x1 x2 x3 x4) := fun _ _ _ _ => of_body rfl
theorem wadd : ∀ x1 x2 x3, Statement (.wadd x1 x2 x3) := fun _ _ _ => of_body rfl
theorem wsub : ∀ x1 x2 x3, Statement (.wsub x1 x2 x3) := fun _ _ _ => of_body rfl
theorem wand : ∀ x1 x2 x3, Statement (.wand x1 x2 x3) := fun _ _ _ => of_body rfl
theorem wor : ∀ x1 x2 x3, Statement (.wor x1 x2 x3) := fun _ _ _ => of_body rfl
theorem wxor : ∀ x1 x2 x3, Statement (.wxor x1 x2 x3) := fun _ _ _ => of_body rfl
theorem wshl : ∀ x1 x2 x3, Statement (.wshl x1 x2 x3) := fun _ _ _ => of_body rfl
theorem wshr : ∀ x1 x2 x3, Statement (.wshr x1 x2 x3) := fun _ _ _ => of_body rfl
theorem wmul : ∀ x1 x2 x3, Statement (.wmul x1 x2 x3) := fun _ _ _ => of_body rfl
theorem wmin : ∀ x1 x2 x3, Statement (.wmin x1 x2 x3) := fun _ _ _ => of_body rfl
theorem wmax : ∀ x1 x2 x3, Statement (.wmax x1 x2 x3) := fun _ _ _ => of_body rfl
theorem wsar : ∀ x1 x2 x3, Statement (.wsar x1 x2 x3) := fun _ _ _ => of_body rfl
theorem vtow : ∀ x1 x2, Statement (.vtow x1 x2) := fun _ _ => of_body rfl
theorem wtov : ∀ x1 x2, Statement (.wtov x1 x2) := fun _ _ => of_body rfl
theorem wsel : ∀ x1 x2 x3, Statement (.wsel x1 x2 x3) := fun _ _ _ => of_body rfl
theorem wclz : ∀ x1 x2, Statement (.wclz x1 x2) := fun _ _ => of_body rfl
theorem wpopc : ∀ x1 x2, Statement (.wpopc x1 x2) := fun _ _ => of_body rfl
theorem waddi : ∀ x1 x2 x3, Statement (.waddi x1 x2 x3) := fun _ _ _ => of_body rfl
theorem wmovi : ∀ x1 x2, Statement (.wmovi x1 x2) := fun _ _ => of_body rfl
theorem wmovk : ∀ x1 x2 x3, Statement (.wmovk x1 x2 x3) := fun _ _ _ => of_body rfl
theorem rand32 : ∀ x1, Statement (.rand32 x1) := fun _ => of_body rfl
theorem randf : ∀ x1, Statement (.randf x1) := fun _ => of_body rfl
theorem rseed : ∀ x1, Statement (.rseed x1) := fun _ => of_body rfl
theorem rctr : ∀ x1 x2, Statement (.rctr x1 x2) := fun _ _ => of_body rfl
theorem fadd : ∀ x1 x2 x3, Statement (.fadd x1 x2 x3) := fun _ _ _ => of_body rfl
theorem fsub : ∀ x1 x2 x3, Statement (.fsub x1 x2 x3) := fun _ _ _ => of_body rfl
theorem fmul : ∀ x1 x2 x3, Statement (.fmul x1 x2 x3) := fun _ _ _ => of_body rfl
theorem ffma : ∀ x1 x2 x3, Statement (.ffma x1 x2 x3) := fun _ _ _ => of_body rfl
theorem fmin : ∀ x1 x2 x3, Statement (.fmin x1 x2 x3) := fun _ _ _ => of_body rfl
theorem fmax : ∀ x1 x2 x3, Statement (.fmax x1 x2 x3) := fun _ _ _ => of_body rfl
theorem famin : ∀ x1 x2 x3, Statement (.famin x1 x2 x3) := fun _ _ _ => of_body rfl
theorem ffms : ∀ x1 x2 x3, Statement (.ffms x1 x2 x3) := fun _ _ _ => of_body rfl
theorem badd2 : ∀ x1 x2 x3, Statement (.badd2 x1 x2 x3) := fun _ _ _ => of_body rfl
theorem bmul2 : ∀ x1 x2 x3, Statement (.bmul2 x1 x2 x3) := fun _ _ _ => of_body rfl
theorem bfma2 : ∀ x1 x2 x3, Statement (.bfma2 x1 x2 x3) := fun _ _ _ => of_body rfl
theorem bmax2 : ∀ x1 x2 x3, Statement (.bmax2 x1 x2 x3) := fun _ _ _ => of_body rfl
theorem hadd2 : ∀ x1 x2 x3, Statement (.hadd2 x1 x2 x3) := fun _ _ _ => of_body rfl
theorem hmul2 : ∀ x1 x2 x3, Statement (.hmul2 x1 x2 x3) := fun _ _ _ => of_body rfl
theorem hfma2 : ∀ x1 x2 x3, Statement (.hfma2 x1 x2 x3) := fun _ _ _ => of_body rfl
theorem hmax2 : ∀ x1 x2 x3, Statement (.hmax2 x1 x2 x3) := fun _ _ _ => of_body rfl
theorem frcp : ∀ x1 x2, Statement (.frcp x1 x2) := fun _ _ => of_body rfl
theorem frsq : ∀ x1 x2, Statement (.frsq x1 x2) := fun _ _ => of_body rfl
theorem fsqrt : ∀ x1 x2, Statement (.fsqrt x1 x2) := fun _ _ => of_body rfl
theorem fexp2 : ∀ x1 x2, Statement (.fexp2 x1 x2) := fun _ _ => of_body rfl
theorem flog2 : ∀ x1 x2, Statement (.flog2 x1 x2) := fun _ _ => of_body rfl
theorem ftanh : ∀ x1 x2, Statement (.ftanh x1 x2) := fun _ _ => of_body rfl
theorem fsin2pi : ∀ x1 x2, Statement (.fsin2pi x1 x2) := fun _ _ => of_body rfl
theorem frnd : ∀ x1 x2 x3, Statement (.frnd x1 x2 x3) := fun _ _ _ => of_body rfl
theorem fdiv : ∀ x1 x2 x3, Statement (.fdiv x1 x2 x3) := fun _ _ _ => of_body rfl
theorem fabs : ∀ x1 x2, Statement (.fabs x1 x2) := fun _ _ => of_body rfl
theorem fneg : ∀ x1 x2, Statement (.fneg x1 x2) := fun _ _ => of_body rfl
theorem fcpys : ∀ x1 x2 x3, Statement (.fcpys x1 x2 x3) := fun _ _ _ => of_body rfl
theorem fclass : ∀ x1 x2, Statement (.fclass x1 x2) := fun _ _ => of_body rfl
theorem fscale : ∀ x1 x2 x3, Statement (.fscale x1 x2 x3) := fun _ _ _ => of_body rfl
theorem fexpt : ∀ x1 x2, Statement (.fexpt x1 x2) := fun _ _ => of_body rfl
theorem fcmp : ∀ x1 x2 x3 x4, Statement (.fcmp x1 x2 x3 x4) := fun _ _ _ _ => of_body rfl
theorem fcvt : ∀ x1 x2 x3 x4 x5, Statement (.fcvt x1 x2 x3 x4 x5) := fun _ _ _ _ _ => of_body rfl
theorem fupcvt : ∀ x1 x2 x3, Statement (.fupcvt x1 x2 x3) := fun _ _ _ => of_body rfl
theorem icvtf : ∀ x1 x2 x3 x4 x5, Statement (.icvtf x1 x2 x3 x4 x5) := fun _ _ _ _ _ => of_body rfl
theorem fcvti : ∀ x1 x2 x3 x4 x5, Statement (.fcvti x1 x2 x3 x4 x5) := fun _ _ _ _ _ => of_body rfl
theorem qpack : ∀ x1 x2 x3 x4 x5, Statement (.qpack x1 x2 x3 x4 x5) := fun _ _ _ _ _ => of_body rfl
theorem qunpack : ∀ x1 x2 x3, Statement (.qunpack x1 x2 x3) := fun _ _ _ => of_body rfl
theorem i8pack : ∀ x1 x2 x3, Statement (.i8pack x1 x2 x3) := fun _ _ _ => of_body rfl
theorem fflrd : ∀ x1, Statement (.fflrd x1) := fun _ => of_body rfl
theorem fflclr : ∀ x1, Statement (.fflclr x1) := fun _ => of_body rfl
theorem fmode : ∀ x1, Statement (.fmode x1) := fun _ => of_body rfl
theorem lshup : ∀ x1 x2 x3, Statement (.lshup x1 x2 x3) := fun _ _ _ => of_body rfl
theorem lshdn : ∀ x1 x2 x3, Statement (.lshdn x1 x2 x3) := fun _ _ _ => of_body rfl
theorem lrot : ∀ x1 x2 x3, Statement (.lrot x1 x2 x3) := fun _ _ _ => of_body rfl
theorem lperm : ∀ x1 x2 x3, Statement (.lperm x1 x2 x3) := fun _ _ _ => of_body rfl
theorem lbcast : ∀ x1 x2 x3, Statement (.lbcast x1 x2 x3) := fun _ _ _ => of_body rfl
theorem lxor : ∀ x1 x2 x3, Statement (.lxor x1 x2 x3) := fun _ _ _ => of_body rfl
theorem lscanadd : ∀ x1 x2, Statement (.lscanadd x1 x2) := fun _ _ => of_body rfl
theorem lscanmin : ∀ x1 x2, Statement (.lscanmin x1 x2) := fun _ _ => of_body rfl
theorem lscanmax : ∀ x1 x2, Statement (.lscanmax x1 x2) := fun _ _ => of_body rfl
theorem lscanfadd : ∀ x1 x2, Statement (.lscanfadd x1 x2) := fun _ _ => of_body rfl
theorem lredadd : ∀ x1 x2, Statement (.lredadd x1 x2) := fun _ _ => of_body rfl
theorem lredmin : ∀ x1 x2, Statement (.lredmin x1 x2) := fun _ _ => of_body rfl
theorem lredmax : ∀ x1 x2, Statement (.lredmax x1 x2) := fun _ _ => of_body rfl
theorem lredfadd : ∀ x1 x2, Statement (.lredfadd x1 x2) := fun _ _ => of_body rfl
theorem lmatch : ∀ x1 x2, Statement (.lmatch x1 x2) := fun _ _ => of_body rfl
theorem lfirst : ∀ x1, Statement (.lfirst x1) := fun _ => of_body rfl
theorem ld : ∀ x1 x2 x3 x4 x5, Statement (.ld x1 x2 x3 x4 x5) := fun _ _ _ _ _ => of_body rfl
theorem st : ∀ x1 x2 x3 x4 x5, Statement (.st x1 x2 x3 x4 x5) := fun _ _ _ _ _ => of_body rfl
theorem ldw : ∀ x1 x2 x3 x4 x5, Statement (.ldw x1 x2 x3 x4 x5) := fun _ _ _ _ _ => of_body rfl
theorem stw : ∀ x1 x2 x3 x4 x5, Statement (.stw x1 x2 x3 x4 x5) := fun _ _ _ _ _ => of_body rfl
theorem atom : ∀ x1 x2 x3 x4 x5 x6 x7, Statement (.atom x1 x2 x3 x4 x5 x6 x7) := fun _ _ _ _ _ _ _ => of_body rfl
theorem fence : ∀ x1, Statement (.fence x1) := fun _ => of_body rfl
theorem stflush : ∀ x1, Statement (.stflush x1) := fun _ => of_body rfl
theorem stdrop : ∀ x1, Statement (.stdrop x1) := fun _ => of_body rfl
theorem stmap : ∀ x1 x2, Statement (.stmap x1 x2) := fun _ _ => of_body rfl
theorem pref : ∀ x1 x2, Statement (.pref x1 x2) := fun _ _ => of_body rfl
theorem waitv : ∀ x1 x2 x3 x4, Statement (.waitv x1 x2 x3 x4) := fun _ _ _ _ => of_body rfl
theorem bbarm : ∀ x1 x2, Statement (.bbarm x1 x2) := fun _ _ => of_body rfl
theorem bbwait : ∀ x1 x2, Statement (.bbwait x1 x2) := fun _ _ => of_body rfl
theorem bufset : ∀ x1 x2, Statement (.bufset x1 x2) := fun _ _ => of_body rfl
theorem bufget : ∀ x1 x2, Statement (.bufget x1 x2) := fun _ _ => of_body rfl
theorem bufnar : ∀ x1 x2 x3, Statement (.bufnar x1 x2 x3) := fun _ _ _ => of_body rfl
theorem lds : ∀ x1 x2 x3 x4, Statement (.lds x1 x2 x3 x4) := fun _ _ _ _ => of_body rfl
theorem sts : ∀ x1 x2 x3 x4, Statement (.sts x1 x2 x3 x4) := fun _ _ _ _ => of_body rfl
theorem tlblk : ∀ x1, Statement (.tlblk x1) := fun _ => of_body rfl
theorem tlbunlk : ∀ x1, Statement (.tlbunlk x1) := fun _ => of_body rfl
theorem tlbprb : ∀ x1 x2 x3, Statement (.tlbprb x1 x2 x3) := fun _ _ _ => of_body rfl
theorem qpush : ∀ x1 x2, Statement (.qpush x1 x2) := fun _ _ => of_body rfl
theorem qpushw : ∀ x1 x2, Statement (.qpushw x1 x2) := fun _ _ => of_body rfl
theorem qpop : ∀ x1 x2, Statement (.qpop x1 x2) := fun _ _ => of_body rfl
theorem qpopw : ∀ x1 x2, Statement (.qpopw x1 x2) := fun _ _ => of_body rfl
theorem qtry : ∀ x1 x2 x3, Statement (.qtry x1 x2 x3) := fun _ _ _ => of_body rfl
theorem qtryw : ∀ x1 x2 x3, Statement (.qtryw x1 x2 x3) := fun _ _ _ => of_body rfl
theorem qlen : ∀ x1 x2, Statement (.qlen x1 x2) := fun _ _ => of_body rfl
theorem qbind : ∀ x1 x2, Statement (.qbind x1 x2) := fun _ _ => of_body rfl
theorem spawn : ∀ x1, Statement (.spawn x1) := fun _ => of_body rfl
theorem waitc : ∀ x1 x2, Statement (.waitc x1 x2) := fun _ _ => of_body rfl
theorem withdraw : ∀ x1 x2, Statement (.withdraw x1 x2) := fun _ _ => of_body rfl
theorem tasktag : ∀ x1, Statement (.tasktag x1) := fun _ => of_body rfl
theorem siglead : ∀ x1, Statement (.siglead x1) := fun _ => of_body rfl
theorem wbmac : ∀ x1 x2 x3, Statement (.wbmac x1 x2 x3) := fun _ _ _ => of_body rfl
theorem wbmacp : ∀ x1 x2 x3 x4, Statement (.wbmacp x1 x2 x3 x4) := fun _ _ _ _ => of_body rfl
theorem wbload : ∀ x1 x2, Statement (.wbload x1 x2) := fun _ _ => of_body rfl
theorem wbswap : ∀ x1, Statement (.wbswap x1) := fun _ => of_body rfl
theorem wbzero : ∀ x1 x2, Statement (.wbzero x1 x2) := fun _ _ => of_body rfl
theorem tadd : ∀ x1 x2, Statement (.tadd x1 x2) := fun _ _ => of_body rfl
theorem tsub : ∀ x1 x2, Statement (.tsub x1 x2) := fun _ _ => of_body rfl
theorem tshl : ∀ x1 x2, Statement (.tshl x1 x2) := fun _ _ => of_body rfl
theorem tmov : ∀ x1 x2, Statement (.tmov x1 x2) := fun _ _ => of_body rfl
theorem tneg : ∀ x1 x2, Statement (.tneg x1 x2) := fun _ _ => of_body rfl
theorem tslice : ∀ x1 x2, Statement (.tslice x1 x2) := fun _ _ => of_body rfl
theorem tcvt : ∀ x1 x2 x3, Statement (.tcvt x1 x2 x3) := fun _ _ _ => of_body rfl
theorem settle : ∀ x1, Statement (.settle x1) := fun _ => of_body rfl
theorem tlin : ∀ x1 x2, Statement (.tlin x1 x2) := fun _ _ => of_body rfl
theorem trd : ∀ x1 x2 x3, Statement (.trd x1 x2 x3) := fun _ _ _ => of_body rfl
theorem twr : ∀ x1 x2, Statement (.twr x1 x2) := fun _ _ => of_body rfl
theorem apqk : ∀ x1 x2, Statement (.apqk x1 x2) := fun _ _ => of_body rfl
theorem appv : ∀ x1 x2 x3 x4 x5, Statement (.appv x1 x2 x3 x4 x5) := fun _ _ _ _ _ => of_body rfl
theorem apresc : ∀ x1 x2, Statement (.apresc x1 x2) := fun _ _ => of_body rfl
theorem apnorm : ∀ x1 x2 x3, Statement (.apnorm x1 x2 x3) := fun _ _ _ => of_body rfl
theorem apcfg : ∀ x1, Statement (.apcfg x1) := fun _ => of_body rfl
theorem cecopy : ∀ x1 x2 x3, Statement (.cecopy x1 x2 x3) := fun _ _ _ => of_body rfl
theorem celist : ∀ x1, Statement (.celist x1) := fun _ => of_body rfl
theorem cerope : ∀ x1 x2 x3, Statement (.cerope x1 x2 x3) := fun _ _ _ => of_body rfl
theorem cepatch : ∀ x1 x2 x3, Statement (.cepatch x1 x2 x3) := fun _ _ _ => of_body rfl
theorem cereq : ∀ x1 x2 x3, Statement (.cereq x1 x2 x3) := fun _ _ _ => of_body rfl
theorem cered : ∀ x1 x2 x3, Statement (.cered x1 x2 x3) := fun _ _ _ => of_body rfl
theorem cefill : ∀ x1, Statement (.cefill x1) := fun _ => of_body rfl
theorem rlxbeg : ∀ x1, Statement (.rlxbeg x1) := fun _ => of_body rfl
theorem rlxend : Statement .rlxend := of_body rfl
theorem rlxin : ∀ x1, Statement (.rlxin x1) := fun _ => of_body rfl
theorem rlxout : ∀ x1, Statement (.rlxout x1) := fun _ => of_body rfl
theorem rlxjac : ∀ x1, Statement (.rlxjac x1) := fun _ => of_body rfl
theorem rlxstep : ∀ x1, Statement (.rlxstep x1) := fun _ => of_body rfl
theorem rlxst : ∀ x1, Statement (.rlxst x1) := fun _ => of_body rfl
theorem rlxabt : Statement .rlxabt := of_body rfl
theorem rlxpeek : ∀ x1, Statement (.rlxpeek x1) := fun _ => of_body rfl
theorem rlxguess : ∀ x1, Statement (.rlxguess x1) := fun _ => of_body rfl
theorem callg : ∀ x1, Statement (.callg x1) := fun _ => of_body rfl
theorem retg : Statement .retg := of_body rfl
theorem gateq : ∀ x1 x2, Statement (.gateq x1 x2) := fun _ _ => of_body rfl
theorem srd : ∀ x1 x2, Statement (.srd x1 x2) := fun _ _ => of_body rfl
theorem swr : ∀ x1 x2, Statement (.swr x1 x2) := fun _ _ => of_body rfl
theorem resumeWrite : ∀ x1 x2 x3, Statement (.resumeWrite x1 x2 x3) := fun _ _ _ => of_none rfl
theorem killWrite : ∀ x1 x2 x3, Statement (.killWrite x1 x2 x3) := fun _ _ _ => of_none rfl
theorem hclk : ∀ x1, Statement (.hclk x1) := fun _ => of_body rfl
theorem wtime : ∀ x1, Statement (.wtime x1) := fun _ => of_body rfl
theorem timer : ∀ x1, Statement (.timer x1) := fun _ => of_body rfl
theorem stamp : ∀ x1, Statement (.stamp x1) := fun _ => of_body rfl
theorem enrd : ∀ x1, Statement (.enrd x1) := fun _ => of_body rfl
theorem pmrd : ∀ x1 x2, Statement (.pmrd x1 x2) := fun _ _ => of_body rfl
theorem tmark : ∀ x1, Statement (.tmark x1) := fun _ => of_body rfl
theorem sleep : ∀ x1, Statement (.sleep x1) := fun _ => of_body rfl
theorem signal : ∀ x1, Statement (.signal x1) := fun _ => of_body rfl
theorem illegalInstruction : ∀ x1, Statement (.illegalInstruction x1) := fun _ => of_none rfl
theorem faultRecordWrite : ∀ x1, Statement (.faultRecordWrite x1) := fun _ => of_none rfl
theorem sideArbitration : ∀ x1 x2, Statement (.sideArbitration x1 x2) := fun _ _ => of_none rfl
theorem runEnd : ∀ x1, Statement (.runEnd x1) := fun _ => of_none rfl
theorem codeFetch : ∀ x1, Statement (.codeFetch x1) := fun _ => of_none rfl
theorem loadReturn : ∀ x1, Statement (.loadReturn x1) := fun _ => of_none rfl
theorem wctReturn : ∀ x1, Statement (.wctReturn x1) := fun _ => of_none rfl
theorem fenceComplete : ∀ x1, Statement (.fenceComplete x1) := fun _ => of_none rfl
theorem acquireHoldEnd : ∀ x1, Statement (.acquireHoldEnd x1) := fun _ => of_none rfl
theorem pollAttempt : ∀ x1, Statement (.pollAttempt x1) := fun _ => of_none rfl
theorem sleepExpire : ∀ x1, Statement (.sleepExpire x1) := fun _ => of_none rfl
theorem timerExpire : ∀ x1, Statement (.timerExpire x1) := fun _ => of_none rfl
theorem postedFaultDeliver : ∀ x1, Statement (.postedFaultDeliver x1) := fun _ => of_none rfl
theorem homeRead : ∀ x1, Statement (.homeRead x1) := fun _ => of_none rfl
theorem homeStoreArrival : ∀ x1, Statement (.homeStoreArrival x1) := fun _ => of_none rfl
theorem homeStorePerform : ∀ x1, Statement (.homeStorePerform x1) := fun _ => of_none rfl
theorem homeAtomicPerform : ∀ x1, Statement (.homeAtomicPerform x1) := fun _ => of_none rfl
theorem hubStoreAck : ∀ x1, Statement (.hubStoreAck x1) := fun _ => of_none rfl
theorem l1LeaseExpire : ∀ x1 x2, Statement (.l1LeaseExpire x1 x2) := fun _ _ => of_none rfl
theorem windowLeaseWriteback : ∀ x1 x2 x3, Statement (.windowLeaseWriteback x1 x2 x3) := fun _ _ _ => of_none rfl
theorem pageMigration : ∀ x1 x2 x3, Statement (.pageMigration x1 x2 x3) := fun _ _ _ => of_none rfl
theorem tlbWalkComplete : ∀ x1, Statement (.tlbWalkComplete x1) := fun _ => of_none rfl
theorem l2EvictionError : ∀ x1 x2 x3, Statement (.l2EvictionError x1 x2 x3) := fun _ _ _ => of_none rfl
theorem waveRetire : ∀ x1, Statement (.waveRetire x1) := fun _ => of_none rfl
theorem leadThreadRetire : ∀ x1, Statement (.leadThreadRetire x1) := fun _ => of_none rfl
theorem doorbell : ∀ x1 x2, Statement (.doorbell x1 x2) := fun _ _ => of_none rfl
theorem launchAccept : ∀ x1, Statement (.launchAccept x1) := fun _ => of_none rfl
theorem dependenceRead : ∀ x1, Statement (.dependenceRead x1) := fun _ => of_none rfl
theorem launchStartCore : ∀ x1 x2, Statement (.launchStartCore x1 x2) := fun _ _ => of_none rfl
theorem wavePlace : ∀ x1, Statement (.wavePlace x1) := fun _ => of_none rfl
theorem childPlace : ∀ x1, Statement (.childPlace x1) := fun _ => of_none rfl
theorem logicalCoreStart : ∀ x1 x2, Statement (.logicalCoreStart x1 x2) := fun _ _ => of_none rfl
theorem handlerWaveStart : ∀ x1, Statement (.handlerWaveStart x1) := fun _ => of_none rfl
theorem launchFinishCore : ∀ x1, Statement (.launchFinishCore x1) := fun _ => of_none rfl
theorem launchFinish : ∀ x1, Statement (.launchFinish x1) := fun _ => of_none rfl
theorem permitAudit : ∀ x1, Statement (.permitAudit x1) := fun _ => of_none rfl
theorem q0CommandStart : ∀ x1 x2, Statement (.q0CommandStart x1 x2) := fun _ _ => of_none rfl
theorem benchPlane : ∀ x1 x2, Statement (.benchPlane x1 x2) := fun _ _ => of_none rfl
theorem promptApply : ∀ x1 x2, Statement (.promptApply x1 x2) := fun _ _ => of_none rfl
theorem proxyAck : ∀ x1 x2, Statement (.proxyAck x1 x2) := fun _ _ => of_none rfl
theorem ceredLand : ∀ x1 x2, Statement (.ceredLand x1 x2) := fun _ _ => of_none rfl
theorem pairCommandStart : ∀ x1 x2, Statement (.pairCommandStart x1 x2) := fun _ _ => of_none rfl
theorem copyCommandStart : ∀ x1 x2, Statement (.copyCommandStart x1 x2) := fun _ _ => of_none rfl
theorem nodeComplete : ∀ x1 x2 x3, Statement (.nodeComplete x1 x2 x3) := fun _ _ _ => of_none rfl
theorem stampSettleWrite : ∀ x1, Statement (.stampSettleWrite x1) := fun _ => of_none rfl
theorem regionOpen : ∀ x1, Statement (.regionOpen x1) := fun _ => of_none rfl
theorem regionStart : ∀ x1, Statement (.regionStart x1) := fun _ => of_none rfl
theorem relaxVerify : ∀ x1, Statement (.relaxVerify x1) := fun _ => of_none rfl
theorem regionClose : ∀ x1, Statement (.regionClose x1) := fun _ => of_none rfl
theorem gateReturn : ∀ x1, Statement (.gateReturn x1) := fun _ => of_none rfl
theorem gateTimeout : ∀ x1, Statement (.gateTimeout x1) := fun _ => of_none rfl
theorem contextPreempt : ∀ x1, Statement (.contextPreempt x1) := fun _ => of_none rfl
theorem contextRestore : ∀ x1, Statement (.contextRestore x1) := fun _ => of_none rfl
theorem gangSwitch : Statement .gangSwitch := of_none rfl
theorem debugStop : ∀ x1, Statement (.debugStop x1) := fun _ => of_none rfl
theorem pcSample : ∀ x1 x2, Statement (.pcSample x1 x2) := fun _ _ => of_none rfl
theorem clockRateChange : ∀ x1 x2, Statement (.clockRateChange x1 x2) := fun _ _ => of_none rfl
theorem powerOnReset : ∀ x1 x2 x3, Statement (.powerOnReset x1 x2 x3) := fun _ _ _ => of_none rfl
theorem functionLevelReset : ∀ x1, Statement (.functionLevelReset x1) := fun _ => of_none rfl
theorem create : ∀ x1, Statement (.create x1) := fun _ => of_none rfl
theorem destroy : ∀ x1, Statement (.destroy x1) := fun _ => of_none rfl
theorem setmode : ∀ x1, Statement (.setmode x1) := fun _ => of_none rfl
theorem setgates : ∀ x1, Statement (.setgates x1) := fun _ => of_none rfl
theorem regcode : ∀ x1, Statement (.regcode x1) := fun _ => of_none rfl
theorem observe : ∀ x1, Statement (.observe x1) := fun _ => of_none rfl
theorem install : ∀ x1, Statement (.install x1) := fun _ => of_none rfl
theorem unmap : ∀ x1, Statement (.unmap x1) := fun _ => of_none rfl
theorem reserve : ∀ x1, Statement (.reserve x1) := fun _ => of_none rfl
theorem switch : ∀ x1, Statement (.switch x1) := fun _ => of_none rfl
theorem schedule : ∀ x1, Statement (.schedule x1) := fun _ => of_none rfl
theorem armstop : ∀ x1, Statement (.armstop x1) := fun _ => of_none rfl
theorem release : ∀ x1, Statement (.release x1) := fun _ => of_none rfl
theorem laneop : ∀ x1, Statement (.laneop x1) := fun _ => of_none rfl
theorem attest : ∀ x1, Statement (.attest x1) := fun _ => of_none rfl
theorem weights : ∀ x1, Statement (.weights x1) := fun _ => of_none rfl
theorem regqueue : ∀ x1, Statement (.regqueue x1) := fun _ => of_none rfl
theorem causeClear : ∀ x1 x2, Statement (.causeClear x1 x2) := fun _ _ => of_none rfl
theorem hostRegisterWrite : ∀ x1 x2 x3, Statement (.hostRegisterWrite x1 x2 x3) := fun _ _ _ => of_none rfl
theorem ieee1588Slew : ∀ x1, Statement (.ieee1588Slew x1) := fun _ => of_none rfl
theorem tdispRequest : ∀ x1 x2, Statement (.tdispRequest x1 x2) := fun _ _ => of_none rfl
theorem hostMemoryAccess : ∀ x1 x2 x3 x4, Statement (.hostMemoryAccess x1 x2 x3 x4) := fun _ _ _ _ => of_none rfl
theorem ringHeadRaise : ∀ x1 x2 x3, Statement (.ringHeadRaise x1 x2 x3) := fun _ _ _ => of_none rfl
theorem queueConsumedRaise : ∀ x1 x2, Statement (.queueConsumedRaise x1 x2) := fun _ _ => of_none rfl

end Sys2Proof.Laws.WordHeader
end

