-- ==== Sys2Proof/Laws/Results.lean ====
section
/-! SUPPORT. What each shared way of writing a result does, once for all words that use it. -/

namespace Sys2Proof.Machine

/-! ### Gates of a word's kind -/

theorem State.laneWise_free (s : State) (eff : State → State) : s.laneWise none true eff = eff s := rfl

/-- Outside a callee and a body every lane-wise word has its effect. -/
theorem State.laneWise_top (s : State) (g : GateRule) (b : Bool) (eff : State → State) (h : s.Top) :
    s.laneWise g b eff = eff s := by
  obtain ⟨ha, hb⟩ := h
  unfold State.laneWise
  rw [ha]
  cases b
  · cases g <;> simp [hb, State.trapLanes, State.trapping, lanesOf]
  · cases g <;> simp

/-- A uniform word that callees and bodies allow has its effect when a lane remains. -/
theorem State.uniform_free (s : State) (eff : State → State) (h : s.cur.mask ≠ 0) :
    s.uniform none true eff = eff s := by
  unfold State.uniform
  rw [if_neg h]
  simp

/-- Outside a callee and a body every uniform word has its effect when a lane remains. -/
theorem State.uniform_top (s : State) (g : GateRule) (b : Bool) (eff : State → State) (h : s.Top)
    (hm : s.cur.mask ≠ 0) : s.uniform g b eff = eff s := by
  obtain ⟨ha, hb⟩ := h
  unfold State.uniform
  rw [if_neg hm, ha]
  cases b <;> cases g <;> simp [hb]

/-! ### Frames -/

theorem OnlyThread.refl (i : Nat) (s : State) : OnlyThread i s s := ⟨rfl, fun _ _ => rfl⟩

theorem onlyThread_mapThread (s : State) (i : Nat) (f : Thread → Thread) :
    OnlyThread i s (s.mapThread i f) :=
  ⟨rfl, fun j h => by rw [State.thread_mapThread]; simp [h]⟩

theorem OnlyThread.trans {i : Nat} {s t u : State} (h : OnlyThread i s t) (k : OnlyThread i t u) :
    OnlyThread i s u :=
  ⟨by rw [k.1, h.1], fun j hj => (k.2 j hj).trans (h.2 j hj)⟩

theorem onlyLanes_mapMe (s : State) (f : Nat → Lane → Lane) :
    OnlyLanes s (s.mapMe fun t => t.mapLanes f) := by
  refine ⟨onlyThread_mapThread s _ _, ?_⟩
  rw [State.me_mapMe]; rfl

theorem OnlyLanes.trans {s t u : State} (h : OnlyLanes s t) (k : OnlyLanes t u) : OnlyLanes s u := by
  have hc : t.cur = s.cur := by rw [h.1.1]
  refine ⟨h.1.trans (by rw [← hc]; exact k.1), ?_⟩
  rw [k.2, h.2]

/-! ### The lanes of a thread -/

theorem State.lane_mapActive (s : State) (f : Nat → Lane → Lane) (l : Nat) (h : l < 32) :
    (s.mapActive f).me.lane l =
      if s.cur.mask.getLsbD l then f l (s.me.lane l) else s.me.lane l := by
  rw [State.mapActive, State.me_mapMe, Thread.lane_mapLanes _ _ _ h]

theorem State.onlyLanes_mapActive (s : State) (f : Nat → Lane → Lane) : OnlyLanes s (s.mapActive f) :=
  onlyLanes_mapMe s _

theorem State.lane_pushAll (s : State) (p : Pipe) (f : Nat → Word) (l : Nat) (h : l < 32) :
    (s.pushAll p f).me.lane l =
      if s.cur.run.getLsbD l then
        (s.me.lane l).push p { val := if s.cur.mask.getLsbD l then f l else 0, valid := true }
      else s.me.lane l := by
  rw [State.pushAll, State.me_mapMe, Thread.lane_mapLanes _ _ _ h]

theorem State.onlyLanes_pushAll (s : State) (p : Pipe) (f : Nat → Word) : OnlyLanes s (s.pushAll p f) :=
  onlyLanes_mapMe s _

/-- What a push leaves in each latch. -/
theorem Lane.latch_push (L : Lane) (p : Pipe) (x : Latch) (k : Nat) :
    rd {} (L.push p x).latch k =
      if k = p.latch then x else if k = p.latch + 1 then rd {} L.latch p.latch else rd {} L.latch k := by
  simp only [Lane.push, rd_wr]

/-! ### Results -/

/-- Everything that writing one lane register does. -/
theorem State.setLane_result (s : State) (p : Pipe) (d : Dst) (f : Nat → Word) :
    LaneResult s (s.setLane p d f) p d f := by
  cases d with
  | reg r =>
    refine ⟨(s.onlyLanes_mapActive _).trans (State.onlyLanes_pushAll _ _ _), fun l hl => ?_⟩
    have e := (s.mapActive fun l L => L.setV r.toNat (f l)).lane_pushAll p f l hl
    rw [s.lane_mapActive _ _ hl] at e
    simp only [State.cur_mapActive] at e
    simp only [State.setLane, e, dstIs]
    by_cases hm : s.cur.mask.getLsbD l <;> by_cases hr : s.cur.run.getLsbD l <;>
      simp [hm, hr, Lane.push, Lane.setV, rd_wr, eq_comm]
  | latch =>
    refine ⟨State.onlyLanes_pushAll _ _ _, fun l hl => ?_⟩
    simp only [State.setLane, s.lane_pushAll _ _ _ hl, dstIs]
    by_cases hm : s.cur.mask.getLsbD l <;> by_cases hr : s.cur.run.getLsbD l <;>
      simp [hm, hr, Lane.push, rd_wr]

theorem Lane.setVs_fields (L : Lane) (n : Nat) (xs : List Word) :
    L.setVs n xs = { L with v := (L.setVs n xs).v } := by
  induction xs generalizing L n with
  | nil => rfl
  | cons x t ih => simp only [Lane.setVs]; rw [ih]; rfl

/-- What writing consecutive registers leaves in each of them. -/
theorem Lane.rd_setVs (L : Lane) (n m : Nat) (xs : List Word) :
    rd 0 (L.setVs n xs).v m =
      if n ≤ m ∧ m < n + xs.length then rd 0 xs (m - n) else rd 0 L.v m := by
  induction xs generalizing L n with
  | nil => simp [Lane.setVs]
  | cons x t ih =>
    simp only [Lane.setVs, ih, Lane.setV, rd_wr, List.length_cons]
    by_cases h1 : n + 1 ≤ m ∧ m < n + 1 + t.length
    · have h2 : n ≤ m ∧ m < n + (t.length + 1) := by omega
      obtain ⟨k, rfl⟩ : ∃ k, m = n + 1 + k := ⟨m - (n + 1), by omega⟩
      rw [if_pos h1, if_pos h2]
      have e1 : n + 1 + k - (n + 1) = k := by omega
      have e2 : n + 1 + k - n = k + 1 := by omega
      rw [e1, e2]; rfl
    · rw [if_neg h1]
      by_cases h3 : m = n
      · subst h3; simp
      · rw [if_neg h3, if_neg (by omega)]

/-- Everything that writing a group of registers does. -/
theorem State.setGroup_result (s : State) (d : Nat) (f : Nat → List Word) :
    GroupResult s (s.setGroup d f) d f := by
  refine ⟨s.onlyLanes_mapActive _, fun l hl => ?_⟩
  simp only [State.setGroup, s.lane_mapActive _ _ hl]
  by_cases hm : s.cur.mask.getLsbD l
  · simp only [hm, if_true, true_and]
    exact ⟨Lane.setVs_fields _ _ _, fun n => Lane.rd_setVs _ _ _ _⟩
  · simp [hm]

/-- Everything that writing a predicate does. -/
theorem State.setPred_result (s : State) (p : PReg) (f : Nat → Bool) :
    PredResult s (s.setPred p f) p f := by
  refine ⟨s.onlyLanes_mapActive _, fun l hl => ?_⟩
  simp only [State.setPred, s.lane_mapActive _ _ hl]
  have key : ∀ (x : BitVec 8) (p q : PReg) (b : Bool),
      (if b then x ||| (1#8 <<< p.toNat) else x &&& ~~~ (1#8 <<< p.toNat)).getLsbD q.toNat
        = if q = p then b else x.getLsbD q.toNat := by
    intro x p q b
    have hq : q.toNat < 8 := q.isLt
    by_cases e : q = p
    · subst e; cases b <;> simp [hq]
    · have ne : q.toNat ≠ p.toNat := fun h => e (BitVec.eq_of_toNat_eq h)
      cases b <;> simp [e, hq] <;> omega
  by_cases hm : s.cur.mask.getLsbD l
  · simp only [hm, if_true, true_and]
    refine ⟨rfl, fun q => ?_⟩
    exact key (s.me.lane l).p p q (f l)
  · simp [hm]

/-- Everything that giving the lanes a PC does. -/
theorem State.branch_result (s : State) (f : Nat → Nat) : BranchResult s (s.branch f) f := by
  refine ⟨s.onlyLanes_mapActive _, fun l hl => ?_⟩
  simp only [State.branch, s.lane_mapActive _ _ hl]
  by_cases hm : s.cur.mask.getLsbD l <;> simp [hm]

/-- Everything that writing a uniform register does. -/
theorem State.setU_result (s : State) (d : UReg) (x : Dword) : UniResult s (s.setU d x) d x := by
  refine ⟨onlyThread_mapThread s _ _, ?_, fun n => ?_⟩ <;> simp [State.setU, rd_wr]

/-! ### Flags -/

/-- The lanes of a mask. -/
@[simp] theorem mem_lanesOf (m : Mask) (l : Nat) : l ∈ lanesOf m ↔ l < 32 ∧ m.getLsbD l = true := by
  simp [lanesOf]

/-- Whether a lane is in a body depends on these alone. -/
theorem State.bodyStep_congr {s t : State} {i l : Nat} (hd : t.domains = s.domains) (hl : t.lcs = s.lcs)
    (h1 : (t.thread i).lc = (s.thread i).lc) (h2 : (t.thread i).core = (s.thread i).core)
    (h3 : ((t.thread i).lane l).hold = ((s.thread i).lane l).hold) (h4 : (t.thread i).rlx = (s.thread i).rlx)
    (hc : t.cur = s.cur) :
    t.bodyStep i l = s.bodyStep i l := by
  have hu : t.unitOf i = s.unitOf i := by
    simp only [State.unitOf, State.ctxOf, State.lcOf, State.lc, State.unit, State.domain, hd, hl, h1, h2]
  have ha : t.atRlxbeg i = s.atRlxbeg i := by simp only [State.atRlxbeg, h4, hc]
  unfold State.bodyStep State.regionStep
  rw [hu, h3, ha]

theorem State.bodyStep_none {s : State} {m : Mask} (h : s.bodyLanes m = 0) {l : Nat} (hl : l < 32)
    (hm : m.getLsbD l = true) : s.bodyStep s.cur.tid l = none := by
  have e : (s.bodyLanes m).getLsbD l = false := by rw [h]; simp
  simp only [State.bodyLanes, getLsbD_maskOf, hl, hm, decide_true, Bool.true_and] at e
  cases hb : s.bodyStep s.cur.tid l with
  | none => rfl
  | some k => rw [hb] at e; simp at e

/-- Outside a body the flags of the lanes of Active() go to FFLAGS, and nothing else changes. -/
theorem State.addFlags_result (s : State) (f : Nat → Flags) (h : s.bodyLanes s.cur.mask = 0) :
    OnlyThread s.cur.tid s (s.addFlags f) ∧
    (s.addFlags f).me =
      { s.me with fflags := (lanesOf s.cur.mask).foldl (fun x l => x ||| f l) s.me.fflags } := by
  have gen : ∀ (ls : List Nat) (u : State), OnlyThread s.cur.tid s u →
      u.me = { s.me with fflags := u.me.fflags } → (∀ l ∈ ls, s.bodyStep s.cur.tid l = none) →
      let v := ls.foldl (fun s l =>
        if f l = 0 then s
        else if (s.bodyStep s.cur.tid l).isSome then
          s.mapStep s.cur.tid l fun st => { st with flags := st.flags ||| f l }
        else s.mapMe fun t => { t with fflags := t.fflags ||| f l }) u
      OnlyThread s.cur.tid s v ∧
      v.me = { s.me with fflags := ls.foldl (fun x l => x ||| f l) u.me.fflags } := by
    intro ls
    induction ls with
    | nil => intro u h1 h2 _; exact ⟨h1, h2⟩
    | cons l t ih =>
      intro u h1 h2 h3
      have hc : u.cur = s.cur := by rw [h1.1]
      have hb : u.bodyStep u.cur.tid l = none := by
        rw [hc, State.bodyStep_congr (s := s)]
        · exact h3 l (by simp)
        · rw [h1.1]
        · rw [h1.1]
        · have := congrArg Thread.lc h2; simpa [State.me, hc] using this
        · have := congrArg Thread.core h2; simpa [State.me, hc] using this
        · have := congrArg Thread.lanes h2
          simp only [State.me, hc] at this
          simp only [Thread.lane, this]
        · have := congrArg Thread.rlx h2; simpa [State.me, hc] using this
        · exact hc
      simp only [List.foldl_cons]
      by_cases hf : f l = 0
      · have e0 : u.me.fflags ||| f l = u.me.fflags := by
          rw [hf]; exact BitVec.or_zero
        rw [if_pos hf, e0]
        exact ih u h1 h2 fun k hk => h3 k (by simp [hk])
      · simp only [hf, if_false, hb, Option.isSome_none, Bool.false_eq_true]
        have h1' : OnlyThread s.cur.tid s (u.mapMe fun t => { t with fflags := t.fflags ||| f l }) :=
          h1.trans (by rw [← hc]; exact onlyThread_mapThread u _ _)
        have h2' := State.me_mapMe u fun t => { t with fflags := t.fflags ||| f l }
        have := ih _ h1' (by rw [h2', h2]) fun k hk => h3 k (by simp [hk])
        simpa [h2'] using this
  exact gen _ s (OnlyThread.refl _ s) rfl fun l hl =>
    State.bodyStep_none h ((mem_lanesOf _ _).mp hl).1 ((mem_lanesOf _ _).mp hl).2

/-- Whether lanes are in a body after an update that leaves their holds. -/
theorem OnlyLanes.bodyLanes {s t : State} (h : OnlyLanes s t)
    (hh : ∀ l, l < 32 → (t.me.lane l).hold = (s.me.lane l).hold) (m : Mask) :
    t.bodyLanes m = s.bodyLanes m := by
  have hc : t.cur = s.cur := by rw [h.1.1]
  apply BitVec.eq_of_getLsbD_eq
  intro l hl
  simp only [State.bodyLanes, getLsbD_maskOf, hc]
  rw [State.bodyStep_congr (s := s)]
  · rw [h.1.1]
  · rw [h.1.1]
  · have := congrArg Thread.lc h.2; simpa [State.me, hc] using this
  · have := congrArg Thread.core h.2; simpa [State.me, hc] using this
  · have := hh l hl; simpa [State.me, hc] using this
  · have := congrArg Thread.rlx h.2; simpa [State.me, hc] using this
  · exact hc

/-- Everything that a floating-point result does outside a body. -/
theorem State.setFloat_result (s : State) (p : Pipe) (d : Dst) (f : Nat → Word × Flags)
    (h : s.bodyLanes s.cur.mask = 0) : FloatResult s (s.setFloat p d f) p d f := by
  have r := s.setLane_result p d fun l => (f l).1
  have hc : (s.setLane p d fun l => (f l).1).cur = s.cur := by simp
  have hb : (s.setLane p d fun l => (f l).1).bodyLanes
      (s.setLane p d fun l => (f l).1).cur.mask = 0 := by
    rw [hc, r.1.bodyLanes (fun l hl => by rw [(r.2 l hl).1]), h]
  have k := State.addFlags_result _ (fun l => (f l).2) hb
  rw [hc] at k
  exact ⟨_, r, k.1, k.2⟩

/-! ### Completion by each way of writing -/


theorem answers_lane {i : Instr} {s : State} {p : Pipe} {d : Dst} {g f : Nat → Word}
    (h : exec i s = .next (s.setLane p d g)) (e : ∀ l, g l = f l) :
    Answers i s fun t => LaneResult s t p d f :=
  ⟨_, h, by rw [← funext e]; exact s.setLane_result p d g⟩

theorem answers_group {i : Instr} {s : State} {d : Nat} {g f : Nat → List Word}
    (h : exec i s = .next (s.setGroup d g)) (e : ∀ l, g l = f l) :
    Answers i s fun t => GroupResult s t d f :=
  ⟨_, h, by rw [← funext e]; exact s.setGroup_result d g⟩

theorem answers_pred {i : Instr} {s : State} {p : PReg} {g f : Nat → Bool}
    (h : exec i s = .next (s.setPred p g)) (e : ∀ l, g l = f l) :
    Answers i s fun t => PredResult s t p f :=
  ⟨_, h, by rw [← funext e]; exact s.setPred_result p g⟩

theorem answers_branch {i : Instr} {s : State} {g f : Nat → Nat}
    (h : exec i s = .next (s.branch g)) (e : ∀ l, g l = f l) :
    Answers i s fun t => BranchResult s t f :=
  ⟨_, h, by rw [← funext e]; exact s.branch_result g⟩

/-- Any uniform word that callees and bodies allow. -/
theorem answers_uniform {i : Instr} {s : State} {eff : State → State} {p : State → Prop}
    (h : exec i s = .next (s.uniform none true eff)) (e : s.cur.mask ≠ 0 → p (eff s)) :
    Answers i s fun t => if s.cur.mask = 0 then t = s else p t := by
  refine ⟨_, h, ?_⟩
  dsimp only
  by_cases m : s.cur.mask = 0
  · simp [State.uniform, m]
  · rw [if_neg m, s.uniform_free _ m]; exact e m

theorem answers_float {i : Instr} {s : State} {p : Pipe} {d : Dst} {g f : Nat → Word × Flags}
    (h : exec i s = .next (s.setFloat p d g)) (hb : s.bodyLanes s.cur.mask = 0) (e : ∀ l, g l = f l) :
    Answers i s fun t => FloatResult s t p d f :=
  ⟨_, h, by rw [← funext e]; exact s.setFloat_result p d g hb⟩

/-- A uniform word that writes one uniform register. -/
theorem answers_uni {i : Instr} {s : State} {d : UReg} {x : State → Dword} {y : Dword}
    (h : exec i s = .next (s.uniform none true fun r => r.setU d (x r))) (e : x s = y) :
    Answers i s fun t => if s.cur.mask = 0 then t = s else UniResult s t d y :=
  answers_uniform h fun _ => by rw [← e]; exact s.setU_result d (x s)

/-- Any word outside a callee and a body. -/
theorem answers_uniform_top {i : Instr} {s : State} {g : GateRule} {b : Bool} {eff : State → State}
    {p : State → Prop} (h : exec i s = .next (s.uniform g b eff)) (ht : s.Top) (hm : s.cur.mask ≠ 0)
    (e : p (eff s)) : Answers i s p := ⟨_, h, by rw [s.uniform_top g b eff ht hm]; exact e⟩

theorem answers_laneWise_top {i : Instr} {s : State} {g : GateRule} {b : Bool} {eff : State → State}
    {p : State → Prop} (h : exec i s = .next (s.laneWise g b eff)) (ht : s.Top)
    (e : p (eff s)) : Answers i s p := ⟨_, h, by rw [s.laneWise_top g b eff ht]; exact e⟩

theorem lanesOf_ne_nil (m : Mask) (h : m ≠ 0) : lanesOf m ≠ [] := by
  intro e
  apply h
  apply BitVec.eq_of_getLsbD_eq
  intro i hi
  have : i ∉ lanesOf m := by rw [e]; simp
  simp only [mem_lanesOf, not_and, Bool.not_eq_true] at this
  simpa using this hi

/-- The lowest lane of a mask. -/
theorem lanesOf_head (m : Mask) (h : m ≠ 0) : ∃ l t, lanesOf m = l :: t ∧ l < 32 ∧ m.getLsbD l = true ∧
    ∀ k, k < l → m.getLsbD k = false := by
  cases e : lanesOf m with
  | nil => exact absurd e (lanesOf_ne_nil m h)
  | cons l t =>
    have hl : l ∈ lanesOf m := by rw [e]; simp
    have hs : (lanesOf m).Pairwise (· < ·) := List.Pairwise.filter _ List.pairwise_lt_range
    refine ⟨l, t, rfl, ((mem_lanesOf _ _).mp hl).1, ((mem_lanesOf _ _).mp hl).2, fun k hk => ?_⟩
    by_contra hc
    have hm : k ∈ lanesOf m :=
      (mem_lanesOf _ _).mpr ⟨by have := ((mem_lanesOf _ _).mp hl).1; omega, by simpa using hc⟩
    rw [e] at hm hs
    rcases List.mem_cons.mp hm with rfl | h2
    · omega
    · have := (List.pairwise_cons.mp hs).1 k h2; omega

end Sys2Proof.Machine
end

