-- ==== Sys2Proof/Tests/States.lean ====
section
/-! SUPPORT. Small states for the tests and for the witnesses of the statements: one wave of two lanes on core 0
of a context, with what each of them adds. -/

namespace Sys2Proof.Tests

open Sys2Proof.Machine

/-- A live lane. -/
def lane (pc : Nat) (v : List Word) : Lane :=
  { st := .live, pc := BitVec.ofNat 32 pc, npc := BitVec.ofNat 32 pc, v := v }

/-- A buffer record's bits (R213): base, elements, log2 of their size, readable and writable. -/
def record (base extent esize : Nat) (lease : Nat := 0) (stash : Bool := false) : BufRec :=
  { bits := BitVec.ofNat 128 (base + 3 * 2 ^ 60 + (if stash then 2 ^ 62 else 0) + lease * 2 ^ 64 + esize * 2 ^ 68 +
      2 ^ 72 + extent * 2 ^ 96) }

/-- A wave of two lanes: b0 is a record of memory, b1 one of its LSTASH area. -/
def wave : Thread :=
  { alive := true, dom := 1, textPkts := 8, regs := 16, slot := 3
    lanes := [lane 0 [7, 2, 3], lane 0 [9, 0xFFFFFFFF, 1]]
    w := [5, 6, 7, 8], b := [record 0 16 2, record 0 16 2 0 true], waveid := 1 }

/-- A context whose first page is mapped. -/
def context : Domain :=
  { alive := true, resident := true, debug := true, pages := [⟨0, 16, 0, true, true⟩] }

/-- A launch of one core, with 4 KiB of LSTASH. -/
def launch : Launch :=
  { asid := 1, queue := 5, seq := 1, code := 0, leadEntry := 0, waveEntry := 0, control := 2 ^ 32, place := 0,
    reqtag := 0, fmt := [], bufrec := [], qbind := [], compctr := 0, energy := 0, stampbuf := 0, handler := 0,
    depaddr := 0, depthresh := 0, text := 0, textPkts := 8 }

/-- The launch on core 0. -/
def onCore : LC := { asid := 1, live := true }

/-- The machine with a wave. -/
def withWave (t : Thread) : State :=
  { threads := [t], lcs := [onCore], domains := [{}, context], launches := [launch] }

/-- The wave's group issues with the lanes of a mask. -/
def issue (s : State) (m : Mask) : State := { s with cur := issueOf 0 (s.thread 0) m 0 }

/-- The wave at a word, both lanes in Active(). -/
def atWord : State := issue (withWave wave) 3

end Sys2Proof.Tests
end

