-- ==== Sys2Proof/Tests/Slice0.lean ====
section
/-! SUPPORT. Tests: the words of the opcode table read as the spec encodes them, ill-formed instructions are
refused, single steps on small states give what the spec's rules give, and each statement's hypotheses are met by
a state. -/

namespace Sys2Proof.Tests

open Sys2Proof.Machine

/-! ### Words (R108, R119 to R126): each from the match and the field places of its row of spec/opcode_table.json,
with operand codes of R71, R72, R87, R119, R125, R234 and R308 -/

/-- Each word decodes to the instruction beside it, which encodes to it. -/
def reads (xs : List (Word × Decoded)) : Bool :=
  xs.all fun x => decodeWord x.1 = some x.2 && encode x.2.c x.2.e x.2.i = some x.1

theorem test_words_0x00 : reads [
    (0x00000000, ⟨false, false, .nop⟩), (0x40000001, ⟨false, true, .exit⟩), (0x40000002, ⟨false, true, .yield⟩),
     (0x40000003, ⟨false, true, .ret⟩), (0x40000004, ⟨false, true, .bkpt⟩), (0x40000005, ⟨false, true, .trap⟩),
     (0x80003406, ⟨true, false, .waitev 13⟩)] = true := by decide

theorem test_words_0x01 : reads [
    (0x4100E82D, ⟨false, true, .bra 59437⟩), (0x412F769F, ⟨false, true, .brt 3 226975⟩),
     (0x414BCA76, ⟨false, true, .brf 2 248438⟩), (0x41641E4D, ⟨false, true, .brany 1 7757⟩),
     (0x41807224, ⟨false, true, .brall 0 29220⟩), (0x41A28B60, ⟨false, true, .call 166752⟩)] = true := by decide

theorem test_words_0x02 : reads [
    (0x42007800, ⟨false, true, .jmpi 30⟩), (0x42009401, ⟨false, true, .calli (.reg 37)⟩)] = true := by decide

theorem test_words_0x03 : reads [
    (0x43300180, ⟨false, true, .loop 12 384⟩)] = true := by decide

theorem test_words_0x04 : reads [
    (0x84600000, ⟨true, false, .guard 3 false⟩)] = true := by decide

theorem test_words_0x05 : reads [
    (0x05081400, ⟨false, false, .pand 2 5 0⟩), (0x05041039, ⟨false, false, .por 1 4 7⟩),
     (0x05000C32, ⟨false, false, .pxor 0 3 6⟩), (0x051C082B, ⟨false, false, .pandn 7 2 5⟩),
     (0x85180404, ⟨true, false, .pmov 6 1⟩), (0x05740005, ⟨false, false, .ptov 29 0⟩),
     (0x45101C06, ⟨false, true, .ballot 4 7⟩), (0x050C1807, ⟨false, false, .vote 3 6⟩)] = true := by decide

theorem test_words_0x06 : reads [
    (0x06000058, ⟨false, false, .join 11⟩), (0x86000001, ⟨true, false, .leave⟩),
     (0x0600004A, ⟨false, false, .arrive 9⟩), (0x0600000B, ⟨false, false, .barw 1⟩),
     (0x0600003C, ⟨false, false, .waitb 7⟩), (0x4654004D, ⟨false, true, .castq 21 9⟩)] = true := by decide

theorem test_words_0x08 : reads [
    (0x88709D90, ⟨true, false, .iadd (.reg 28) (.reg 39) (.reg 50)⟩),
     (0x088CB9C9, ⟨false, false, .isub (.reg 35) (.reg 46) (.reg 57)⟩),
     (0x0802D602, ⟨false, false, .and .latch (.reg 53) (.latch 0)⟩),
     (0x08C5103B, ⟨false, false, .or (.reg 49) (.latch 4) (.reg 7)⟩),
     (0x08E00C74, ⟨false, false, .xor (.reg 56) (.reg 3) (.reg 14)⟩),
     (0x880228AD, ⟨true, false, .andn .latch (.reg 10) (.reg 21)⟩),
     (0x48184626, ⟨false, true, .imin (.reg 6) (.reg 17) (.latch 4)⟩),
     (0x0835011F, ⟨false, false, .imax (.reg 13) (.latch 0) (.reg 35)⟩)] = true := by decide

theorem test_words_0x09 : reads [
    (0x09027D50, ⟨false, false, .shl .latch (.reg 31) (.reg 42)⟩),
     (0x096C9989, ⟨false, false, .shr (.reg 27) (.reg 38) (.reg 49)⟩),
     (0x8988B602, ⟨true, false, .sar (.reg 34) (.reg 45) (.latch 0)⟩),
     (0x090311FB, ⟨false, false, .rol .latch (.latch 4) (.reg 63)⟩),
     (0x09C0EC34, ⟨false, false, .iminu (.reg 48) (.reg 59) (.reg 6)⟩),
     (0x49DC086D, ⟨false, true, .imaxu (.reg 55) (.reg 2) (.reg 13)⟩),
     (0x09F82626, ⟨false, false, .amin 62 (.reg 9) (.latch 4)⟩),
     (0x891500DF, ⟨true, false, .iabsd (.reg 5) (.latch 0) (.reg 27)⟩)] = true := by decide

theorem test_words_0x0A : reads [
    (0x0A305D10, ⟨false, false, .imul (.reg 12) (.reg 23) (.reg 34)⟩),
     (0x0A027949, ⟨false, false, .imulh .latch (.reg 30) (.reg 41)⟩),
     (0x0A689602, ⟨false, false, .imulhu (.reg 26) (.reg 37) (.latch 0)⟩),
     (0x0A8511BB, ⟨false, false, .imad 33 (.latch 4) (.reg 55)⟩), (0xCA02CC04, ⟨true, true, .clz .latch (.reg 51)⟩),
     (0x0ABCE805, ⟨false, false, .popc (.reg 47) (.reg 58)⟩), (0x0AD80406, ⟨false, false, .brev (.reg 54) (.reg 1)⟩),
     (0x0A030007, ⟨false, false, .iabs .latch (.latch 0)⟩)] = true := by decide

theorem test_words_0x0B : reads [
    (0x0B9C6928, ⟨false, false, .icmp .ltu 7 (.reg 26) (.reg 37)⟩), (0x8B780461, ⟨true, false, .icmpW .le 6 1 12⟩)] = true := by decide

theorem test_words_0x0C : reads [
    (0x0C027561, ⟨false, false, .iaddi .latch (.reg 29) 353⟩)] = true := by decide

theorem test_words_0x0D : reads [
    (0x4D651018, ⟨false, true, .shli (.reg 25) (.latch 4) 24⟩),
     (0x0D80AD0F, ⟨false, false, .shri (.reg 32) (.reg 43) 15⟩),
     (0x0D02CA06, ⟨false, false, .sari .latch (.reg 50) 6⟩),
     (0x8DB8E71D, ⟨true, false, .roli (.reg 46) (.reg 57) 29⟩)] = true := by decide

theorem test_words_0x0E : reads [
    (0x0ED525F9, ⟨false, false, .movi (.reg 53) 75257⟩)] = true := by decide

theorem test_words_0x0F : reads [
    (0x0FF179D0, ⟨false, false, .movhi 60 96720⟩)] = true := by decide

theorem test_words_0x10 : reads [
    (0x100C38C8, ⟨false, false, .bfx (.reg 3) (.reg 14) (.reg 25)⟩),
     (0x50285601, ⟨false, true, .bfi 10 (.reg 21) (.latch 0)⟩), (0x90407132, ⟨true, false, .iadd64 16 28 38⟩),
     (0x10608973, ⟨false, false, .isub64 24 34 46⟩), (0x1078A9AC, ⟨false, false, .shl64 30 42 (.reg 53)⟩),
     (0x1098C625, ⟨false, false, .imulw 38 (.reg 49) (.latch 4)⟩),
     (0x10B5001E, ⟨false, false, .pack16 (.reg 45) (.latch 0) (.reg 3)⟩),
     (0x90D0FC57, ⟨true, false, .byteperm 52 (.reg 63) (.reg 10)⟩)] = true := by decide

theorem test_words_0x11 : reads [
    (0x5102188C, ⟨false, true, .sel .latch (.reg 6) (.reg 17) 4⟩)] = true := by decide

theorem test_words_0x12 : reads [
    (0x120834C0, ⟨false, false, .wadd 2 13 24⟩), (0x122450F9, ⟨false, false, .wsub 9 20 31⟩),
     (0x12406C32, ⟨false, false, .wand 16 27 6⟩), (0x925C086B, ⟨true, false, .wor 23 2 13⟩),
     (0x127824A4, ⟨false, false, .wxor 30 9 20⟩), (0x121440DD, ⟨false, false, .wshl 5 16 27⟩),
     (0x52305C16, ⟨false, true, .wshr 12 23 2⟩), (0x124C784F, ⟨false, false, .wmul 19 30 9⟩)] = true := by decide

theorem test_words_0x13 : reads [
    (0x93681480, ⟨true, false, .wmin 26 5 16⟩), (0x130430B9, ⟨false, false, .wmax 1 12 23⟩),
     (0x13204CF2, ⟨false, false, .wsar 8 19 30⟩), (0x133C6803, ⟨false, false, .vtow 15 (.reg 26)⟩),
     (0x13580404, ⟨false, false, .wtov (.reg 22) 1⟩), (0xD374209D, ⟨true, true, .wsel 29 8 19⟩),
     (0x13103C06, ⟨false, false, .wclz 4 15⟩), (0x132C5807, ⟨false, false, .wpopc 11 22⟩)] = true := by decide

theorem test_words_0x14 : reads [
    (0x14487441, ⟨false, false, .waddi 18 29 65⟩)] = true := by decide

theorem test_words_0x15 : reads [
    (0x1564517D, ⟨false, false, .wmovi 25 20861⟩)] = true := by decide

theorem test_words_0x16 : reads [
    (0x9601DFEF, ⟨true, false, .wmovk 0 1 57327⟩)] = true := by decide

theorem test_words_0x17 : reads [
    (0x171C0000, ⟨false, false, .rand32 (.reg 7)⟩), (0x57020001, ⟨false, true, .randf .latch⟩),
     (0x17005402, ⟨false, false, .rseed 21⟩), (0x17709C03, ⟨false, false, .rctr (.reg 28) (.reg 39)⟩)] = true := by decide

theorem test_words_0x18 : reads [
    (0x9802B9C8, ⟨true, false, .fadd .latch (.reg 46) (.reg 57)⟩),
     (0x18A8D601, ⟨false, false, .fsub (.reg 42) (.reg 53) (.latch 0)⟩),
     (0x18C5103A, ⟨false, false, .fmul (.reg 49) (.latch 4) (.reg 7)⟩),
     (0x18E00C73, ⟨false, false, .ffma 56 (.reg 3) (.reg 14)⟩),
     (0x58FC28AC, ⟨false, true, .fmin (.reg 63) (.reg 10) (.reg 21)⟩),
     (0x98184625, ⟨true, false, .fmax (.reg 6) (.reg 17) (.latch 4)⟩),
     (0x1803011E, ⟨false, false, .famin .latch (.latch 0) (.reg 35)⟩),
     (0x18507D57, ⟨false, false, .ffms 20 (.reg 31) (.reg 42)⟩)] = true := by decide

theorem test_words_0x19 : reads [
    (0x196C9988, ⟨false, false, .badd2 (.reg 27) (.reg 38) (.reg 49)⟩),
     (0x1902B601, ⟨false, false, .bmul2 .latch (.reg 45) (.latch 0)⟩),
     (0x99A511FA, ⟨true, false, .bfma2 41 (.latch 4) (.reg 63)⟩),
     (0x59C0EC33, ⟨false, true, .bmax2 (.reg 48) (.reg 59) (.reg 6)⟩),
     (0x1902086C, ⟨false, false, .hadd2 .latch (.reg 2) (.reg 13)⟩),
     (0x19F82625, ⟨false, false, .hmul2 (.reg 62) (.reg 9) (.latch 4)⟩),
     (0x191500DE, ⟨false, false, .hfma2 5 (.latch 0) (.reg 27)⟩),
     (0x99025D17, ⟨true, false, .hmax2 .latch (.reg 23) (.reg 34)⟩)] = true := by decide

theorem test_words_0x1A : reads [
    (0x1A4C7800, ⟨false, false, .frcp (.reg 19) (.reg 30)⟩), (0x1A689401, ⟨false, false, .frsq (.reg 26) (.reg 37)⟩),
     (0x5A031002, ⟨false, true, .fsqrt .latch (.latch 4)⟩), (0x1AA0CC03, ⟨false, false, .fexp2 (.reg 40) (.reg 51)⟩),
     (0x9ABCE804, ⟨true, false, .flog2 (.reg 47) (.reg 58)⟩), (0x1A020405, ⟨false, false, .ftanh .latch (.reg 1)⟩),
     (0x1AF50006, ⟨false, false, .fsin2pi (.reg 61) (.latch 0)⟩),
     (0x1A103C17, ⟨false, false, .frnd (.reg 4) (.reg 15) .rdn⟩)] = true := by decide

theorem test_words_0x1B : reads [
    (0x1B025908, ⟨false, false, .fdiv .latch (.reg 22) (.reg 33)⟩),
     (0xDB487401, ⟨true, true, .fabs (.reg 18) (.reg 29)⟩), (0x1B651002, ⟨false, false, .fneg (.reg 25) (.latch 4)⟩),
     (0x1B02ADB3, ⟨false, false, .fcpys .latch (.reg 43) (.reg 54)⟩),
     (0x1B9CC804, ⟨false, false, .fclass (.reg 39) (.reg 50)⟩),
     (0x1BB8E625, ⟨false, false, .fscale (.reg 46) (.reg 57) (.latch 4)⟩),
     (0x9B030006, ⟨true, false, .fexpt .latch (.latch 0)⟩)] = true := by decide

theorem test_words_0x1C : reads [
    (0x1C9C48E8, ⟨false, false, .fcmp .gt 7 (.reg 18) (.reg 29)⟩)] = true := by decide

theorem test_words_0x1D : reads [
    (0x5D0C3918, ⟨false, true, .fcvt (.reg 3) (.reg 14) .fp16 .sat .rup⟩),
     (0x1D025481, ⟨false, false, .fupcvt .latch (.reg 21) .bf16⟩),
     (0x1D45134A, ⟨false, false, .icvtf (.reg 17) (.latch 4) .int4 .nan .rtz⟩),
     (0x9D608C23, ⟨true, false, .fcvti (.reg 24) (.reg 35) .int32 .inf .rne⟩),
     (0x1D02AA9C, ⟨false, false, .qpack .latch 42 5 .sat .rup⟩),
     (0x1D98C605, ⟨false, false, .qunpack 38 (.reg 49) 4⟩), (0x1DB4E066, ⟨false, false, .i8pack (.reg 45) 56 .trap⟩)] = true := by decide

theorem test_words_0x1E : reads [
    (0x5E500000, ⟨false, true, .fflrd 20⟩), (0x9E006C01, ⟨true, false, .fflclr 27⟩),
     (0x1E000802, ⟨false, false, .fmode 2⟩)] = true := by decide

theorem test_words_0x20 : reads [
    (0x200311F8, ⟨false, false, .lshup .latch (.latch 4) (.reg 31)⟩),
     (0x20406C31, ⟨false, false, .lshdn (.reg 16) (.reg 27) (.imm 6)⟩),
     (0x205C896A, ⟨false, false, .lrot (.reg 23) (.reg 34) (.reg 13)⟩),
     (0xA002A623, ⟨true, false, .lperm .latch (.reg 41) (.latch 4)⟩),
     (0x609501DC, ⟨false, true, .lbcast (.reg 37) (.latch 0) (.reg 27)⟩),
     (0x20B0DC15, ⟨false, false, .lxor (.reg 44) (.reg 55) (.imm 2)⟩)] = true := by decide

theorem test_words_0x21 : reads [
    (0x2102F800, ⟨false, false, .lscanadd .latch (.reg 62)⟩),
     (0x21E81401, ⟨false, false, .lscanmin (.reg 58) (.reg 5)⟩),
     (0xA1051002, ⟨true, false, .lscanmax (.reg 1) (.latch 4)⟩),
     (0x21024C03, ⟨false, false, .lscanfadd .latch (.reg 19)⟩),
     (0x213C6804, ⟨false, false, .lredadd (.reg 15) (.reg 26)⟩),
     (0x61588405, ⟨false, true, .lredmin (.reg 22) (.reg 33)⟩),
     (0x21030006, ⟨false, false, .lredmax .latch (.latch 0)⟩),
     (0xA190BC07, ⟨true, false, .lredfadd (.reg 36) (.reg 47)⟩)] = true := by decide

theorem test_words_0x22 : reads [
    (0x220CD800, ⟨false, false, .lmatch 3 (.reg 54)⟩), (0x22080001, ⟨false, false, .lfirst 2⟩)] = true := by decide

theorem test_words_0x24 : reads [
    (0x24E483D0, ⟨false, false, .ld (.reg 57) 4 (.reg 15) .b32 .plain⟩)] = true := by decide

theorem test_words_0x25 : reads [
    (0x25016589, ⟨false, false, .st 0 11 (.reg 22) .b16 .rel⟩)] = true := by decide

theorem test_words_0x26 : reads [
    (0xE61C4742, ⟨true, true, .ldw 7 2 29 .b32 .nolease⟩), (0x26392128, ⟨false, false, .stw 14 9 4 .b64 .plain⟩)] = true := by decide

theorem test_words_0x27 : reads [
    (0x27500AF5, ⟨false, false, .atom 20 0 (.reg 43) .xchg true false true⟩)] = true := by decide

theorem test_words_0x28 : reads [
    (0x28000000, ⟨false, false, .fence .wave⟩), (0x28300001, ⟨false, false, .stflush 3⟩),
     (0xA8A00002, ⟨true, false, .stdrop 10⟩), (0x28107003, ⟨false, false, .stmap 1 28⟩),
     (0x68800C04, ⟨false, true, .pref 8 (.reg 3)⟩), (0x28F85605, ⟨false, false, .waitv 15 .ge (.reg 21) (.latch 0)⟩),
     (0x28604406, ⟨false, false, .bbarm 6 17⟩), (0xA8D06007, ⟨true, false, .bbwait 13 24⟩)] = true := by decide

theorem test_words_0x29 : reads [
    (0x29107800, ⟨false, false, .bufset 4 30⟩), (0x29681801, ⟨false, false, .bufget 26 6⟩),
     (0x290834C2, ⟨false, false, .bufnar 2 13 24⟩)] = true := by decide

theorem test_words_0x2A : reads [
    (0x6AA48FC4, ⟨false, true, .lds (.reg 41) 4 (.reg 63) .b16⟩),
     (0xAAC161AC, ⟨true, false, .sts 48 11 (.reg 6) .b64⟩)] = true := by decide

theorem test_words_0x2B : reads [
    (0x2B001C00, ⟨false, false, .tlblk 7⟩), (0x2B003801, ⟨false, false, .tlbunlk 14⟩),
     (0x2B1400DA, ⟨false, false, .tlbprb 5 0 27⟩)] = true := by decide

theorem test_words_0x2C : reads [
    (0x2C305C00, ⟨false, false, .qpush 12 (.reg 23)⟩), (0xAC0C7801, ⟨true, false, .qpushw 3 30⟩),
     (0x6C021402, ⟨false, true, .qpop .latch 5⟩), (0x2C043003, ⟨false, false, .qpopw 1 12⟩),
     (0x2CA00C34, ⟨false, false, .qtry 40 3 6⟩), (0x2C3C282D, ⟨false, false, .qtryw 15 10 5⟩),
     (0xAC580406, ⟨true, false, .qlen 22 1⟩), (0x2C342007, ⟨false, false, .qbind 13 8⟩)] = true := by decide

theorem test_words_0x2D : reads [
    (0x2D001000, ⟨false, false, .spawn 4⟩), (0x6DB05801, ⟨false, true, .waitc 11 22⟩),
     (0x2D487402, ⟨false, false, .withdraw 18 29⟩), (0xAD006403, ⟨true, false, .tasktag 25⟩),
     (0x2D000004, ⟨false, false, .siglead 0⟩)] = true := by decide

theorem test_words_0x30 : reads [
    (0x30021500, ⟨false, false, .wbmac 4 2 5⟩), (0x30064C09, ⟨false, false, .wbmacp 12 9 4 1⟩),
     (0x300A0002, ⟨false, false, .wbload 20 0⟩), (0xF00E0003, ⟨true, true, .wbswap 28⟩),
     (0x30007004, ⟨false, false, .wbzero 0 14⟩)] = true := by decide

theorem test_words_0x31 : reads [
    (0x31042800, ⟨false, false, .tadd 8 5⟩), (0x31086001, ⟨false, false, .tsub 16 12⟩),
     (0x310C1802, ⟨false, false, .tshl 24 3⟩), (0xB10E5003, ⟨true, false, .tmov 28 10⟩),
     (0x31020804, ⟨false, false, .tneg 4 1⟩), (0x71064005, ⟨false, true, .tslice 12 8⟩),
     (0x310A7A06, ⟨false, false, .tcvt 20 15 2⟩)] = true := by decide

theorem test_words_0x32 : reads [
    (0x32005800, ⟨false, false, .settle 11⟩), (0xB2006801, ⟨true, false, .tlin 0 13⟩),
     (0x3204200A, ⟨false, false, .trd 8 4 true⟩), (0x32085803, ⟨false, false, .twr 16 11⟩)] = true := by decide

theorem test_words_0x33 : reads [
    (0x331A0200, ⟨false, false, .apqk 20 2⟩), (0x731E4C11, ⟨false, true, .appv 28 9 4 true false⟩),
     (0xB3120002, ⟨true, false, .apresc 4 0⟩), (0x33163803, ⟨false, false, .apnorm 12 7 false⟩),
     (0x33180004, ⟨false, false, .apcfg 16⟩)] = true := by decide

theorem test_words_0x34 : reads [
    (0x342C2800, ⟨false, false, .cecopy 24 5 false⟩), (0x34200001, ⟨false, false, .celist 0⟩),
     (0xB4240332, ⟨true, false, .cerope 8 3 6⟩), (0x7426020B, ⟨false, true, .cepatch 12 2 true⟩),
     (0x342A0124, ⟨false, false, .cereq 20 1 4⟩), (0x342E4015, ⟨false, false, .cered 28 8 .sub⟩),
     (0x34220006, ⟨false, false, .cefill 4⟩)] = true := by decide

theorem test_words_0x36 : reads [
    (0x76002000, ⟨false, true, .rlxbeg 8⟩), (0x76000001, ⟨false, true, .rlxend⟩),
     (0x36E40002, ⟨false, false, .rlxin 57⟩), (0x76010003, ⟨false, true, .rlxout (.latch 0)⟩),
     (0x36001C04, ⟨false, false, .rlxjac (.reg 7)⟩), (0xB6380005, ⟨true, false, .rlxstep (.reg 14)⟩),
     (0x36540006, ⟨false, false, .rlxst 21⟩), (0x36000007, ⟨false, false, .rlxabt⟩)] = true := by decide

theorem test_words_0x37 : reads [
    (0x378C0000, ⟨false, false, .rlxpeek 35⟩), (0x3700A801, ⟨false, false, .rlxguess (.reg 42)⟩)] = true := by decide

theorem test_words_0x38 : reads [
    (0x780000D0, ⟨false, true, .callg 26⟩), (0x78000001, ⟨false, true, .retg⟩),
     (0x387C031A, ⟨false, false, .gateq 31 99⟩)] = true := by decide

theorem test_words_0x39 : reads [
    (0x3918073A, ⟨false, false, .srd 6 1850⟩), (0x39360B11, ⟨false, false, .swr 13 2833⟩)] = true := by decide

theorem test_words_0x3A : reads [
    (0x7A080000, ⟨false, true, .hclk 2⟩), (0x3A240001, ⟨false, false, .wtime 9⟩),
     (0x3A004002, ⟨false, false, .timer 16⟩), (0xBA005C03, ⟨true, false, .stamp 23⟩),
     (0x3A780004, ⟨false, false, .enrd 30⟩), (0x3A14000D, ⟨false, false, .pmrd 5 1⟩),
     (0x3A00002E, ⟨false, false, .tmark 5⟩)] = true := by decide

theorem test_words_0x3B : reads [
    (0x7B004C00, ⟨false, true, .sleep 19⟩), (0xBB006801, ⟨true, false, .signal 26⟩)] = true := by decide

/-! Words that the spec's chapters write out beside their assembly (05_encoding.md to 21_observation.md). -/

theorem test_words_of_the_chapters : reads [
    (0x42001C00, ⟨false, true, .jmpi 7⟩), (0x43140001, ⟨false, true, .loop 5 1⟩),
    (0x84200000, ⟨true, false, .guard 1 false⟩), (0x84300000, ⟨true, false, .guard 1 true⟩),
    (0x050C0410, ⟨false, false, .pand 3 1 2⟩), (0x05100406, ⟨false, false, .ballot 4 1⟩),
    (0x42002401, ⟨false, true, .calli (.reg 9)⟩), (0x06000010, ⟨false, false, .join 2⟩),
    (0x06000013, ⟨false, false, .barw 2⟩), (0x06180015, ⟨false, false, .castq 6 2⟩),
    (0x0B440818, ⟨false, false, .icmp .lt 1 (.reg 2) (.reg 3)⟩), (0x0B881029, ⟨false, false, .icmpW .ltu 2 4 5⟩),
    (0x1118081C, ⟨false, false, .sel (.reg 6) (.reg 2) (.reg 3) 4⟩),
    (0x0C1013FF, ⟨false, false, .iaddi (.reg 4) (.reg 4) (-1)⟩),
    (0x0D141A03, ⟨false, false, .sari (.reg 5) (.reg 6) 3⟩), (0x0E0DFFFB, ⟨false, false, .movi (.reg 3) (-5)⟩),
    (0x16267F40, ⟨false, false, .wmovk 9 2 0x7F40⟩), (0x171C0000, ⟨false, false, .rand32 (.reg 7)⟩),
    (0x18101430, ⟨false, false, .fadd (.reg 4) (.reg 5) (.reg 6)⟩),
    (0x18101432, ⟨false, false, .fmul (.reg 4) (.reg 5) (.reg 6)⟩),
    (0x18101433, ⟨false, false, .ffma 4 (.reg 5) (.reg 6)⟩), (0x1A080C00, ⟨false, false, .frcp (.reg 2) (.reg 3)⟩),
    (0x1A080C0F, ⟨false, false, .frnd (.reg 2) (.reg 3) .rtz⟩),
    (0x1C440818, ⟨false, false, .fcmp .lt 1 (.reg 2) (.reg 3)⟩),
    (0x1D0C0980, ⟨false, false, .fcvt (.reg 3) (.reg 2) .e4m3 .sat .rne⟩), (0x1E080000, ⟨false, false, .fflrd 2⟩),
    (0x1E000C01, ⟨false, false, .fflclr 3⟩), (0x1E001402, ⟨false, false, .fmode 5⟩),
    (0x20101408, ⟨false, false, .lshup (.reg 4) (.reg 5) (.imm 1)⟩),
    (0x20101518, ⟨false, false, .lshup (.reg 4) (.reg 5) (.reg 3)⟩),
    (0x201C081B, ⟨false, false, .lperm (.reg 7) (.reg 2) (.reg 3)⟩),
    (0x20180804, ⟨false, false, .lbcast (.reg 6) (.reg 2) (.imm 0)⟩),
    (0x210C0803, ⟨false, false, .lscanfadd (.reg 3) (.reg 2)⟩),
    (0x21100807, ⟨false, false, .lredfadd (.reg 4) (.reg 2)⟩),
    (0x21101000, ⟨false, false, .lscanadd (.reg 4) (.reg 4)⟩), (0x22081800, ⟨false, false, .lmatch 2 (.reg 6)⟩),
    (0x22040001, ⟨false, false, .lfirst 1⟩), (0x24146110, ⟨false, false, .ld (.reg 5) 3 (.reg 4) .b32 .plain⟩),
    (0x24206011, ⟨false, false, .ld (.reg 8) 3 (.reg 0) .b32 .acq⟩),
    (0x25186011, ⟨false, false, .st 6 3 (.reg 0) .b32 .rel⟩), (0x261840C8, ⟨false, false, .ldw 6 2 3 .b64 .plain⟩),
    (0x261840E8, ⟨false, false, .stw 6 2 3 .b64 .plain⟩),
    (0x27188000, ⟨false, false, .atom 6 4 (.reg 0) .add false false false⟩),
    (0x27086033, ⟨false, false, .atom 2 3 (.reg 0) .xchg false true true⟩),
    (0x2708603B, ⟨false, false, .atom 2 3 (.reg 0) .cas false true true⟩),
    (0x2A1D2048, ⟨false, false, .lds (.reg 7) 9 (.reg 1) .b32⟩), (0x2A1D2068, ⟨false, false, .sts 7 9 (.reg 1) .b32⟩),
    (0x28000800, ⟨false, false, .fence .device⟩), (0x28000C00, ⟨false, false, .fence .system⟩),
    (0x28602803, ⟨false, false, .stmap 6 10⟩), (0x28600001, ⟨false, false, .stflush 6⟩),
    (0x28301004, ⟨false, false, .pref 3 (.reg 4)⟩), (0x28340005, ⟨false, false, .waitv 3 .ne (.reg 0) (.reg 0)⟩),
    (0x28503006, ⟨false, false, .bbarm 5 12⟩), (0x28503007, ⟨false, false, .bbwait 5 12⟩),
    (0x290C1000, ⟨false, false, .bufset 3 4⟩), (0x29100C01, ⟨false, false, .bufget 4 3⟩),
    (0x29183842, ⟨false, false, .bufnar 6 14 8⟩), (0x2B001C00, ⟨false, false, .tlblk 7⟩),
    (0x2B141C12, ⟨false, false, .tlbprb 5 7 2⟩), (0x39040003, ⟨false, false, .srd 1 3⟩),
    (0x391A000C, ⟨false, false, .swr 6 0xC⟩), (0x88282409, ⟨true, false, .isub (.reg 10) (.reg 9) (.reg 1)⟩),
    (0xA43082D0, ⟨true, false, .ld (.reg 12) 4 (.reg 11) .b32 .plain⟩),
    (0x093C3416, ⟨false, false, .amin 15 (.reg 13) (.reg 2)⟩), (0x2C141C00, ⟨false, false, .qpush 5 (.reg 7)⟩),
    (0x2C0C1001, ⟨false, false, .qpushw 3 4⟩), (0x2C241402, ⟨false, false, .qpop (.reg 9) 5⟩),
    (0x2C180C03, ⟨false, false, .qpopw 6 3⟩)] = true := by decide

theorem test_words_of_the_later_chapters : reads [
    (0x2C241414, ⟨false, false, .qtry 9 5 2⟩), (0x2C180C0D, ⟨false, false, .qtryw 6 3 1⟩),
    (0x2C080006, ⟨false, false, .qlen 2 0⟩), (0x2C182807, ⟨false, false, .qbind 6 10⟩),
    (0x2D002000, ⟨false, false, .spawn 8⟩), (0x2D603001, ⟨false, false, .waitc 6 12⟩),
    (0x2D141002, ⟨false, false, .withdraw 5 4⟩), (0x2D001003, ⟨false, false, .tasktag 4⟩),
    (0x2D001004, ⟨false, false, .siglead 4⟩), (0x26186029, ⟨false, false, .stw 6 3 0 .b64 .rel⟩),
    (0x121C1837, ⟨false, false, .wmul 7 6 6⟩), (0x30040A00, ⟨false, false, .wbmac 8 1 2⟩),
    (0x30041121, ⟨false, false, .wbmacp 8 2 1 4⟩), (0x30060302, ⟨false, false, .wbload 12 3⟩),
    (0x30080003, ⟨false, false, .wbswap 16⟩), (0x30021004, ⟨false, false, .wbzero 4 2⟩),
    (0x31061800, ⟨false, false, .tadd 12 3⟩), (0x310C2801, ⟨false, false, .tsub 24 5⟩),
    (0x310A2002, ⟨false, false, .tshl 20 4⟩), (0x31082003, ⟨false, false, .tmov 16 4⟩),
    (0x31083004, ⟨false, false, .tneg 16 6⟩), (0x31063805, ⟨false, false, .tslice 12 7⟩),
    (0x31022A06, ⟨false, false, .tcvt 4 5 2⟩), (0x32001800, ⟨false, false, .settle 3⟩),
    (0x32021801, ⟨false, false, .tlin 4 3⟩), (0x32022802, ⟨false, false, .trd 4 5 false⟩),
    (0x32022803, ⟨false, false, .twr 4 5⟩), (0x0B140401, ⟨false, false, .icmpW .eq 5 1 0⟩),
    (0x260D2021, ⟨false, false, .stw 3 9 0 .b32 .rel⟩),
    (0x2428A098, ⟨false, false, .ld (.reg 10) 5 (.reg 2) .b64 .plain⟩),
    (0x6A110168, ⟨false, true, .sts 4 8 (.reg 5) .b32⟩), (0x34222005, ⟨false, false, .cered 4 4 .add⟩),
    (0x34222015, ⟨false, false, .cered 4 4 .sub⟩), (0x33140004, ⟨false, false, .apcfg 8⟩),
    (0x33160100, ⟨false, false, .apqk 12 1⟩), (0x33183211, ⟨false, false, .appv 16 6 2 true false⟩),
    (0x331A3002, ⟨false, false, .apresc 20 6⟩), (0x34240000, ⟨false, false, .cecopy 8 0 false⟩),
    (0x34240001, ⟨false, false, .celist 8⟩), (0x3426020A, ⟨false, false, .cerope 12 2 1⟩),
    (0x3428020B, ⟨false, false, .cepatch 16 2 true⟩), (0x342A0314, ⟨false, false, .cereq 20 3 2⟩),
    (0x342C0006, ⟨false, false, .cefill 24⟩), (0x76004000, ⟨false, true, .rlxbeg 16⟩),
    (0x76000001, ⟨false, true, .rlxend⟩), (0x36040002, ⟨false, false, .rlxin 1⟩),
    (0x36000803, ⟨false, false, .rlxout (.reg 2)⟩), (0x36001C04, ⟨false, false, .rlxjac (.reg 7)⟩),
    (0x360C0005, ⟨false, false, .rlxstep (.reg 3)⟩), (0x36500006, ⟨false, false, .rlxst 20⟩),
    (0x36000007, ⟨false, false, .rlxabt⟩), (0x37100000, ⟨false, false, .rlxpeek 4⟩),
    (0x37001001, ⟨false, false, .rlxguess (.reg 4)⟩), (0x0F207F00, ⟨false, false, .movhi 8 0x7F00⟩),
    (0x18082009, ⟨false, false, .fsub (.reg 2) (.reg 8) (.reg 1)⟩), (0x13305404, ⟨false, false, .wtov (.reg 12) 21⟩),
    (0x78000028, ⟨false, true, .callg 5⟩), (0x78000001, ⟨false, true, .retg⟩),
    (0x3818002A, ⟨false, false, .gateq 6 5⟩), (0x3B001000, ⟨false, false, .sleep 4⟩),
    (0x3B001401, ⟨false, false, .signal 5⟩), (0x18080405, ⟨false, false, .fmax (.reg 2) (.reg 1) (.reg 0)⟩),
    (0x41A3FFFF, ⟨false, true, .call (-1)⟩), (0x3A100000, ⟨false, false, .hclk 4⟩),
    (0x3A140001, ⟨false, false, .wtime 5⟩), (0x3A001802, ⟨false, false, .timer 6⟩),
    (0x3A001C03, ⟨false, false, .stamp 7⟩), (0x41740003, ⟨false, true, .brany 5 3⟩),
    (0x41240003, ⟨false, true, .brt 1 3⟩)] = true := by decide

/-- Words that R119, R121, R125 and R126 refuse: a branch without E, a malformed selector, a predicate and a uniform
register past their classes, a latch where a lane value is not taken, N on a word with no latch, LOOP by 0, a width, a
policy and a CERED form that are not listed, a wrong engine queue, a reserved major and a reserved fn. -/
theorem test_words_refused : [0x01240006, 0x08014800, 0x05000000 + 8 * 2 ^ 18, 0x12000000 + 32 * 2 ^ 18, 0x12000000 + 64 * 2 ^ 10,
    0x0A000003 + 2 ^ 17, 0x43000000, 0x25000000 + 5 * 2 ^ 3, 0x1D000001 + 2 ^ 7 + 2 ^ 5, 0x34200005 + 3 * 2 ^ 3, 0x30100000,
    0x07000000, 0x3F000000, 0x05000000 + 2 ^ 23].all (fun w => decodeWord (BitVec.ofNat 32 w) = none) = true := by decide

/-! ### Ill-formed instructions: one for each check of WellFormed.lean, which also no word encodes -/

theorem test_ill_formed : ([.loop 1 0, .iadd64 1 2 4, .iadd64 2 1 4, .iadd64 2 4 1, .isub64 3 2 4, .shl64 1 2 (.reg 0), .shl64 2 3 (.reg 0),
    .imulw 1 (.reg 0) (.reg 1), .ld (.reg 1) 0 (.reg 0) .b64 .plain, .ld (.reg 2) 0 (.reg 0) .b128 .plain,
    .ld .latch 0 (.reg 0) .b64 .plain, .ld .latch 0 (.reg 0) .b128 .acq, .st 0 0 (.reg 0) .s8 .plain, .st 0 0 (.reg 0) .s16 .rel,
    .st 1 0 (.reg 0) .b64 .plain, .st 6 0 (.reg 0) .b128 .plain, .lds .latch 0 (.reg 0) .b64, .lds (.reg 2) 0 (.reg 0) .b128,
    .sts 0 0 (.reg 0) .s8, .sts 5 0 (.reg 0) .b64, .atom 1 0 (.reg 0) .cas false true false, .atom 2 0 (.reg 0) .cas true true false,
    .atom 1 0 (.reg 0) .add true true false, .i8pack (.reg 0) 2 .sat, .bufset 0 1, .bufget 1 0, .bufnar 0 1 3, .spawn 2, .rlxbeg 1,
    .wbmac 2 0 0, .wbmacp 1 0 0 3, .wbload 3 0, .wbswap 1, .wbzero 2 0, .tadd 1 0, .tsub 1 0, .tshl 1 0, .tmov 1 0, .tneg 1 0,
    .tslice 1 0, .tcvt 1 0 0, .tlin 1 0, .trd 1 0 false, .twr 1 0, .apqk 1 0, .appv 1 0 0 false false, .apresc 1 0,
    .apnorm 1 0 false, .apcfg 1, .cecopy 1 0 false, .celist 1, .cerope 1 0 0, .cepatch 1 0 false, .cereq 1 0 0, .cered 1 0 .add,
    .cefill 1] : List Instr).all (fun i => !i.wf && !((encode false false i).any fun w => (decodeWord w).isSome)
      && !((encode false true i).any fun w => (decodeWord w).isSome)) = true := by decide

/-! ### Single steps; the expected values are the spec's own examples, or worked by hand from the rule that is named -/

/-- One wave of the lanes given, each with its registers, and the lanes of Active(). -/
def lanesAt (vs : List (List Word)) (m : Mask) : State :=
  issue (withWave { wave with lanes := vs.map fun v => lane 0 v }) m

/-- A property of the state that a word answers. -/
def after (i : Instr) (s : State) (p : State → Bool) : Bool :=
  match exec i s with
  | .next t => p t
  | _ => false

/-- Register r of lane l after a word. -/
def gives (i : Instr) (s : State) (l r : Nat) (x : Word) : Bool := after i s fun t => rd 0 (t.me.lane l).v r = x

/-- The same and the FFLAGS of the wave. -/
def givesF (i : Instr) (s : State) (r : Nat) (x : Word) (f : Flags) : Bool :=
  after i s fun t => rd 0 (t.me.lane 0).v r = x && t.me.fflags = f

-- 00_scope.md:89
theorem test_iadd_wraps : gives (.iadd (.reg 1) (.reg 2) (.reg 3)) (lanesAt [[0, 9, 0xFFFFFFFF, 2]] 1) 0 1 1 = true := by decide
-- R117: a lane outside Active() keeps its register
theorem test_iadd_keeps_other_lanes :
    gives (.iadd (.reg 1) (.reg 0) (.reg 0)) (lanesAt [[3, 9], [4, 8]] 1) 1 1 8 = true := by decide
-- 08_integer.md:65
theorem test_sar_by_40 : gives (.sar (.reg 5) (.reg 1) (.reg 2)) (lanesAt [[0, 0xFFFFFFF0, 40]] 1) 0 5 0xFFFFFFFF = true := by decide
-- R174: a shift by 32 gives 0
theorem test_shl_by_32 : gives (.shl (.reg 5) (.reg 1) (.reg 2)) (lanesAt [[0, 7, 32]] 1) 0 5 0 = true := by decide
-- R174: −1 × −1 has high word 0 as signed, and 2^32 − 2 as unsigned numbers
theorem test_imulh : gives (.imulh (.reg 5) (.reg 1) (.reg 1)) (lanesAt [[0, 0xFFFFFFFF]] 1) 0 5 0 &&
    gives (.imulhu (.reg 5) (.reg 1) (.reg 1)) (lanesAt [[0, 0xFFFFFFFF]] 1) 0 5 0xFFFFFFFE = true := by decide
-- R174
theorem test_clz_of_zero : gives (.clz (.reg 5) (.reg 0)) (lanesAt [[0]] 1) 0 5 32 = true := by decide
theorem test_brev : gives (.brev (.reg 5) (.reg 0)) (lanesAt [[1]] 1) 0 5 0x80000000 = true := by decide
-- R175: AMIN's sum saturates before the minimum with the old value
theorem test_amin : gives (.amin 0 (.reg 1) (.reg 2)) (lanesAt [[5, 0x7FFFFFFF, 1]] 1) 0 0 5 &&
    gives (.amin 0 (.reg 1) (.reg 2)) (lanesAt [[5, 0x80000000, 0xFFFFFFFF]] 1) 0 0 0x80000000 = true := by decide
-- 08_integer.md:218 and 219
theorem test_bfx_signed : gives (.bfx (.reg 5) (.reg 6) (.reg 7)) (lanesAt [[0, 0, 0, 0, 0, 0, 0xAB00, 0x10808]] 1) 0 5 0xFFFFFFAB = true := by decide
theorem test_iadd64_carries : after (.iadd64 2 4 6) (lanesAt [[0, 0, 9, 9, 0xFFFFFFFF, 0, 1, 0]] 1) (fun t =>
    rd 0 (t.me.lane 0).v 2 = 0 && rd 0 (t.me.lane 0).v 3 = 1) = true := by decide
-- 08_integer.md:230
theorem test_byteperm : gives (.byteperm 0 (.reg 1) (.reg 2)) (lanesAt [[0xDDCCBBAA, 0x44338211, 0x0C49]] 1) 0 0 0x1100AAFF = true := by decide
-- R179
theorem test_movhi_keeps_low_bits : gives (.movhi 0 1) (lanesAt [[0xFFFFFFFF]] 1) 0 0 0xFFFF = true := by decide
-- 08_integer.md:257 and 258
theorem test_wsub_wraps : after (.wsub 2 2 3) (issue (withWave { wave with w := [0, 0, 0, 1] }) 1)
    (fun t => rd 0 t.me.w 2 = 0xFFFFFFFFFFFFFFFF) = true := by decide
theorem test_vtow_takes_the_lowest_lane : after (.vtow 6 (.reg 3)) (lanesAt ((List.range 8).map fun k => [0, 0, 0, BitVec.ofNat 32 (10 + k)]) 0xF0)
    (fun t => rd 0 t.me.w 6 = 14) = true := by decide
-- R183: WMOVK writes 16 bits and keeps the others
theorem test_wmovk : after (.wmovk 0 3 0x7F40) (issue (withWave { wave with w := [0x1111222233334444] }) 1)
    (fun t => rd 0 t.me.w 0 = 0x7F40222233334444) = true := by decide
-- 08_integer.md:314
theorem test_rand32_moves_the_counters_of_active_lanes : after (.rand32 (.reg 1)) (lanesAt [[0, 8], [0, 8], [0, 8], [0, 8]] 5) (fun t =>
    (t.me.lane 2).ctr = 1 && (t.me.lane 3).ctr = 0 && rd 0 (t.me.lane 3).v 1 = 8) = true := by decide
-- 03_numbers.md:88 to 104
theorem test_fcvt_e4m3_overflow : givesF (.fcvt (.reg 1) (.reg 0) .e4m3 .sat .rne) (lanesAt [[0x43EB0000]] 1) 1 0x7E (fOF ||| fNX ||| fSAT) &&
    givesF (.fcvt (.reg 1) (.reg 0) .e4m3 .nan .rne) (lanesAt [[0x43EB0000]] 1) 1 0x7F (fOF ||| fNX ||| fNV) = true := by decide
theorem test_fcvt_e4m3_in_range : givesF (.fcvt (.reg 1) (.reg 0) .e4m3 .sat .rtz) (lanesAt [[0x43EB0000]] 1) 1 0x7E fNX &&
    after (.fcvt (.reg 1) (.reg 0) .e4m3 .trap .rne) (lanesAt [[0x43EB0000]] 1) (fun t =>
      (t.me.lane 0).st = .parked && t.me.fflags = 0) = true := by decide
-- 09_float.md:67, 82, 105, 140, 191, 234 and 287
theorem test_famin : givesF (.famin (.reg 2) (.reg 0) (.reg 1)) (lanesAt [[0xC0000000, 0x3FC00000]] 1) 2 0x3FC00000 0 &&
    givesF (.famin (.reg 2) (.reg 0) (.reg 1)) (lanesAt [[0xC0000000, 0x40000000]] 1) 2 0xC0000000 0 = true := by decide
theorem test_bmul2 : givesF (.bmul2 (.reg 2) (.reg 0) (.reg 1)) (lanesAt [[0x40404000, 0x3FC03F80]] 1) 2 0x40904000 0 = true := by decide
theorem test_frcp_of_3 : givesF (.frcp (.reg 2) (.reg 0)) (lanesAt [[0x40400000]] 1) 2 0x3EAAAAAB fNX = true := by decide
theorem test_fscale_to_a_subnormal : givesF (.fscale (.reg 2) (.reg 0) (.reg 1)) (lanesAt [[0x3FC00000, 0xFFFFFF6B]] 1) 2 2 (fUF ||| fNX) = true := by decide
theorem test_fcmp_of_a_nan : after (.fcmp .lt 1 (.reg 0) (.reg 1)) (lanesAt [[0x3F800000, 0x7FC00000]] 1) (fun t =>
      (t.me.lane 0).p = 0 && t.me.fflags = fNV) &&
    after (.fcmp .un 1 (.reg 0) (.reg 1)) (lanesAt [[0x3F800000, 0x7FC00000]] 1) (fun t => (t.me.lane 0).p = 2 && t.me.fflags = 0) = true := by decide
theorem test_fcvti_int8 : givesF (.fcvti (.reg 1) (.reg 0) .int8 .sat .rne) (lanesAt [[0x42FF0000]] 1) 1 0x7F (fOF ||| fNX ||| fSAT) = true := by decide
theorem test_i8pack : givesF (.i8pack (.reg 8) 4 .sat) (lanesAt [[0, 0, 0, 0, 5, 0xFFFFFED4, 127, 200]] 1) 8 0x7F7F8005 (fOF ||| fNX ||| fSAT) = true := by decide
-- 10_crosslane.md:90 and 92: without and with lane 2 in Active()
theorem test_lshup : after (.lshup (.reg 1) (.reg 0) (.imm 1)) (lanesAt [[10], [20], [30], [40]] 0xF) (fun t =>
    (List.range 4).map (fun l => rd 0 (t.me.lane l).v 1) = [10, 10, 20, 30]) = true := by decide
-- R210: with lane 2 excluded, lane 3 has no source in Active() and keeps its own value
theorem test_lshup_past_an_excluded_lane : after (.lshup (.reg 1) (.reg 0) (.imm 1)) (lanesAt [[10, 7], [20, 7], [30, 7], [40, 7]] 0xB) (fun t =>
    (List.range 4).map (fun l => rd 0 (t.me.lane l).v 1) = [10, 10, 7, 40]) = true := by decide
-- 10_crosslane.md:137 to 140
theorem test_lscanfadd_in_order : after (.lscanfadd (.reg 1) (.reg 0)) (lanesAt [[0x3F800000], [0x4B800000], [0x3F800000], [0x3F800000]] 0xF) (fun t =>
    (List.range 4).map (fun l => rd 0 (t.me.lane l).v 1) = [0x3F800000, 0x4B800000, 0x4B800000, 0x4B800000] && t.me.fflags = fNX) = true := by decide
-- 10_crosslane.md:164 to 166
theorem test_lmatch : after (.lmatch 2 (.reg 0)) (lanesAt [[3], [5], [3], [3], [9], [5], [3], [9]] 0xFF) (fun t =>
    (List.range 8).map (fun l => (t.me.lane l).p.getLsbD 2) = [true, true, false, false, true, false, false, false]) = true := by decide
-- R161: a count of 1 ends the loop at the next packet with 0, a greater one goes back
theorem test_loop : after (.loop 0 1) (issue (withWave { wave with w := [1] }) 1) (fun t => rd 0 t.me.w 0 = 0 && (t.me.lane 0).npc = 3) &&
    after (.loop 0 1) { issue (withWave { wave with w := [8] }) 1 with cur := { issueOf 0 { wave with w := [8] } 1 7 with mask := 1 } }
      (fun t => rd 0 t.me.w 0 = 7 && (t.me.lane 0).npc = 3) = true := by decide
-- R159: lanes whose predicate holds take the target packet, the others the next
theorem test_brt : after (.brt 0 4) (issue (withWave { wave with lanes := [{ lane 0 [] with p := 1 }, lane 0 []] }) 3) (fun t =>
    (t.me.lane 0).npc = 12 && (t.me.lane 1).npc = 3) = true := by decide
-- R152: the first word of the next packet is pushed
theorem test_call : after (.call 4) atWord (fun t => (t.me.lane 0).cstk = [3] && (t.me.lane 0).npc = 12) = true := by decide
-- R157: a lane at BKPT parks and has a record
theorem test_bkpt : after .bkpt atWord (fun t => (t.me.lane 1).st = .parked && (t.domain 1).records.length = 2) = true := by decide
-- R237: two elements of four bytes on, three elements, no write permission
theorem test_bufnar : after (.bufnar 2 0 4) (issue (withWave { wave with w := [0, 0, 0, 0, 0x300000002, 1], b := [record 64 16 2] }) 1) (fun t =>
    let y := rd {} t.me.b 2
    y.base = 72 && y.extent = 3 && y.r && !y.w) = true := by decide
-- R2 and R228: the least significant byte first
theorem test_sts_little_endian : after (.sts 1 1 (.reg 0) .b32) (issue (withWave { wave with lanes := [lane 0 [0, 0x04030201]] }) 1) (fun t =>
    memGetN (t.lc 0).lstash 0 4 = [1, 2, 3, 4]) = true := by decide
-- R224: the line of elements 7 and 9 of b0 is asked for once
theorem test_ld_asks_once : after (.ld (.reg 3) 0 (.reg 0) .b32 .plain) atWord (fun t =>
    t.reqs.map (fun r => (r.line, r.parts.length)) = [(0, 2)] && (t.me.lane 0).pend = [(3, 0)]) = true := by decide
-- R218: an element past the end of a record whose OOB is 0 traps BOUNDS in its lane alone
theorem test_st_out_of_bounds : after (.st 1 0 (.reg 0) .b32 .plain) (lanesAt [[16, 1], [2, 5]] 3) (fun t =>
    (t.me.lane 0).st = .parked && (t.me.lane 1).st = .live && t.stores.map (·.bytes) = [[(8, 5), (9, 0), (10, 0), (11, 0)]]) = true := by decide
-- R165 and R166: the only member's arrival of its two lanes completes the phase
theorem test_arrive : after (.arrive 2) (issue { withWave { wave with cast := some 2 } with
      hclk := 4, lcs := [{ onCore with casts := [{}, {}, { exist := true }] }] } 3) (fun t => (t.castOf 0 2).phase = 1 && !(t.castOf 0 2).open_) = true := by decide
-- R361: the deadline is WTIME plus the operand, and 0 clears it
theorem test_timer : after (.timer 0) (issue (withWave { wave with wtime := 10 }) 1) (fun t => t.me.deadline = some 15) &&
    after (.timer 0) (issue (withWave { wave with w := [0], deadline := some 3 }) 1) (fun t => t.me.deadline = none) = true := by decide
-- R355 and R356: CORE is 3, and an unassigned number traps ILL
theorem test_srd : after (.srd 9 3) (issue (withWave { wave with core := 77 }) 1) (fun t => rd 0 t.me.w 9 = 77) &&
    after (.srd 9 0x7FF) atWord (fun t => (t.me.lane 0).st = .parked) = true := by decide
-- R5, R356: RESUME is write-only and reads as zero
theorem test_srd_of_resume : after (.srd 0 0xC) atWord (fun t => rd 0 t.me.w 0 = 0 && (t.me.lane 0).st = .live) = true := by decide
-- R182: a trap of a uniform word has KIND 1, and VTOW is none
theorem test_uniform_trap_kind : after (.fmode 0) (issue (withWave { wave with w := [4] }) 1) (fun t =>
    (t.domain 1).records.map (·.kind) = [1]) = true := by decide

/-! ### Witnesses: states and operands that meet the hypotheses of the statements -/

theorem atWord_top : atWord.Top := ⟨by decide, by decide⟩

-- RandomWordResults, FloatResults, CrossLaneResults, and the many clauses that ask for no more
theorem witness_outside : atWord.Top ∧ atWord.cur.mask ≠ 0 ∧ atWord.bodyLanes atWord.cur.mask = 0 := ⟨atWord_top, by decide⟩

-- FloatBitAndFlagWords
theorem witness_flag_words : (atWord.ureg 0).toNat < 2 ^ 6 ∧ (lanesAt [[]] 1).bodyLanes 1 = 0 ∧
    ((issue (withWave { wave with w := [3] }) 1).ureg 0).toNat < 2 ^ 2 := by decide

-- ConversionResults: slot 0 of E4M3 with ADJ 0, saturating; 1.0 and 2.0 in the lanes
def formats : State :=
  let s := lanesAt [[0x3F800000, 0x40000000, 0x40000000, 0x3F800000], [0x40000000, 1, 2, 3]] 3
  { s with launches := [{ launch with fmt := [3] }] }

theorem witness_conversions : formats.bodyLanes formats.cur.mask = 0 ∧
    (∀ l, l < 32 → formats.cur.mask.getLsbD l = true → (fcvt32 (FTy.spec .e4m3) .trap .rne (formats.src l (.reg 0))).isSome = true) ∧
    (∀ l, l < 32 → formats.cur.mask.getLsbD l = true → (fcvti32 (ITy.bits .int8) .trap .rne (formats.src l (.reg 0))).isSome = true) ∧
    formats.packSlotOk (formats.fmtOf 0 0) 0 = true ∧ formats.unpackSlotOk (formats.fmtOf 0 0) 0 = true ∧ groupSize (formats.fmtOf 0 0) = 4 ∧
    (∀ l, l < 32 → formats.cur.mask.getLsbD l = true →
      (qpackElems (fmtType (formats.fmtOf 0 0)) (fmtAdj (formats.fmtOf 0 0)) .sat .rne
        ((List.range 4).map fun i => formats.vreg l i)).isSome = true) ∧
    (∀ l, l < 32 → formats.cur.mask.getLsbD l = true → (i8packElems .sat ((List.range 4).map fun i => formats.vreg l i)).isSome = true) := by
  decide

-- RoundingIsCorrect: 1.5, 2.0 and −2.0 are finite, 0 is zero, 0x7FA00000 is a signalling NaN, and the lists are not empty
theorem witness_rounding : dec32 0x3FC00000 = .fin false 0xC00000 (-23) ∧ dec32 0xC0000000 = .fin true 0x800000 (-22) ∧
    (dec32 0x7FA00000).isNan = true ∧ (dec32 0x80000000).isZero = true ∧ bf16 ∈ [fp32, bf16, fp16] ∧ e4m3 ∈ [fp32, bf16, fp16, e4m3, e5m2] ∧
    (0 : Nat) < 3 ∧ 7 ∈ [5, 6, 7, 8, 9] := by decide

-- and of FloatResults: NaNs, infinities, zeros and finite operands, halves of packed words
theorem witness_float_words : ((0x7F800001 : Word).extractLsb' 0 31).toNat > 0x7F800000 ∧ ((0xFF800000 : Word).extractLsb' 0 31).toNat = 0x7F800000 ∧
    ((0x80000000 : Word).extractLsb' 0 31).toNat = 0 ∧ dec32 0x3FC00000 = .fin false 0xC00000 (-23) ∧ (0 : Nat) < 0xC00000 ∧
    (bf16.dec 0x3FC0).isNan = false ∧ (bf16.dec 0x7FC0).isNan = true ∧ (fp16.dec 0x7E00).isNan = true ∧ (fp16.dec 0x3C00).isNan = false ∧
    (fp16.add .rne (fp16.dec 0x3C00) (fp16.dec 0x3C00)).1 < 2 ^ 16 := by decide +kernel

-- the cut of 1.5 at a spacing of 1 lies between 2^0 and 2^1, and the largest finite number is one
theorem witness_rounding_cut : (1 : Rat) ≤ 3 / 2 ∧ ¬ (2 : Rat) ≤ 3 / 2 ∧ fp32.dec (fp32.maxCode false) = .fin false 0xFFFFFF 104 :=
  ⟨by norm_num, by norm_num, by decide⟩

-- BranchResults: p0 of one lane holds, of none, of all; w0 is the word of a packet of the text, past it, or no slot 0
def branching (p0 p1 w : Nat) : State :=
  issue (withWave { wave with lanes := [{ lane 0 [] with p := BitVec.ofNat 8 p0 }, { lane 0 [] with p := BitVec.ofNat 8 p1 }], w := [BitVec.ofNat 64 w] }) 3

theorem witness_branches : (∃ l, l < 32 ∧ (branching 1 0 0).cur.mask.getLsbD l = true ∧ (branching 1 0 0).preg l 0 = true) ∧
    (¬ ∃ l, l < 32 ∧ (branching 0 0 0).cur.mask.getLsbD l = true ∧ (branching 0 0 0).preg l 0 = true) ∧
    (∀ l, l < 32 → (branching 1 1 0).cur.mask.getLsbD l = true → (branching 1 1 0).preg l 0 = true) ∧
    (¬ ∀ l, l < 32 → (branching 1 0 0).cur.mask.getLsbD l = true → (branching 1 0 0).preg l 0 = true) :=
  ⟨⟨0, by decide⟩, fun ⟨l, h, g⟩ => absurd g ((by decide : ∀ l, l < 32 → ¬ ((branching 0 0 0).cur.mask.getLsbD l = true ∧
    (branching 0 0 0).preg l 0 = true)) l h), by decide, fun h => absurd (h 1) (by decide)⟩

theorem witness_jumps : (let x := ((branching 0 0 21).ureg 0).toNat; x % 3 = 0 ∧ x < 3 * (branching 0 0 21).cur.old.textPkts ∧ x < 2 ^ 32) ∧
    (∀ w, w ∈ [24, 22] → (branching 0 0 w).cur.mask ≠ 0 ∧ ¬ (((branching 0 0 w).ureg 0).toNat % 3 = 0 ∧
      ((branching 0 0 w).ureg 0).toNat < 3 * (branching 0 0 w).cur.old.textPkts ∧ ((branching 0 0 w).ureg 0).toNat < 2 ^ 32)) := by decide

-- CallResults: room on the stack, a full stack that spills through b13, a return from the stack, and one from the spill area
def calling (stack : List Word) (spill : Nat) : State :=
  issue { withWave { wave with
      lanes := [{ lane 0 [6] with cstk := stack, spill := spill }]
      b := List.replicate 13 {} ++ [record 0 0x1000 2] } with
    hclk := 4, mem := [(0, 6)] } 1

theorem witness_call_on_chip : (∀ l, l < 32 → (calling [3] 0).cur.mask.getLsbD l = true → ((calling [3] 0).cur.old.lane l).cstk.length < 4 ∧
    (calling [3] 0).cur.old.codeAddr ((calling [3] 0).src l (.reg 0)).toNat = true) ∧
    (calling [3] 0).cur.old.codeAddr 3 = true ∧ ((calling [3] 0).cur.old.lane 0).cstk.getLast? = some 3 := by decide

theorem witness_call_spills : let s := calling [3, 6, 9, 12] 0
    let o := s.cur.old
    let ps : Lanes := [(0, s.checkAccess o (o.brec 13) (spillElem false 0 0) 4 .store false true)]
    s.waitOver 0 (.held 1) = true ∧ s.stashGate (o.brec 13) = false ∧ (o.lane 0).spill ≠ 65535 ∧ s.reserve ps = s ∧
      s.judge o.lc ps .store = [] ∧ ((linesOf ps).filter fun y => (s.windowAt o.lc y.1 y.2).isSome) = [] :=
  ⟨by decide, by decide, by decide, rfl, by decide, by decide⟩

theorem witness_ret_refills : let s := calling [] 1
    let o := s.cur.old
    let ps := s.refillPlaces
    ps ≠ [] ∧ s.waitOver 0 (.held 1) = true ∧ s.reserve ps = s ∧ s.missLines o.lc o.core (linesOf ps) .load = s ∧
      s.waitOver 0 (.walk (linesOf ps)) = true ∧
      s.waitOver 0 (.pending ((linesOf ps).flatMap fun x => s.loadsBefore 0 1 x.1 x.2)) = true ∧
      s.waitOver 0 (.lines (linesOf ps)) = true ∧ o.codeAddr 6 = true ∧ ((s.refill ps).1.popRet ps (s.refill ps).2 0).toOption = some 6 :=
  ⟨by decide, by decide, rfl, rfl, by decide, by decide, by decide, by decide, by decide⟩

-- FlowResults
theorem witness_waitev : atWord.Top ∧ atWord.cur.mask ≠ 0 ∧ (atWord.ureg 0).toNat < 2 ^ 16 := ⟨atWord_top, by decide⟩

-- TrapResults: outside, with a run, and in a callee
def inCallee : State :=
  issue (withWave { wave with acts := [{ act := 3, ret := 9, dom := 1 }], run := some { mask := 3, code := [0] } }) 3

theorem witness_traps : atWord.cur.old.acts = [] ∧ atWord.bodyLanes atWord.cur.mask = 0 ∧
    inCallee.me.acts = [{ act := 3, ret := 9, dom := 1 }] ∧ inCallee.cur.old.acts ≠ [] ∧ inCallee.cur.mask ≠ 0 ∧ inCallee.me.isLead = false ∧
    inCallee.me.run = some { mask := 3, code := [0] } := by decide

-- CastResults: outside a cast, a member, one that has arrived, and one inside BARW
def inCast (t : Thread) : State := issue { withWave t with hclk := 4, lcs := [{ onCore with casts := [{}, {}, { exist := true }] }] } 3

theorem witness_casts : (inCast wave).Top ∧ (inCast wave).cur.mask ≠ 0 ∧ (inCast wave).me = (inCast wave).cur.old ∧
    (inCast wave).regionOn 2 = false ∧ (inCast wave).me.cast = none := ⟨⟨by decide, by decide⟩, by decide⟩

theorem witness_cast_member : let s := inCast { wave with cast := some 2 }
    let c := s.castOf s.me.lc 2
    s.Top ∧ s.me = s.cur.old ∧ s.regionOn 2 = false ∧ s.me.cast = some 2 ∧ ¬ (c.open_ = true ∧ s.me.joinph > c.phase) ∧
      s.fenceOver s.cur.tid .core = true ∧ c.open_ = false ∧ s.me.inBarw = none := by
  refine ⟨⟨by decide, by decide⟩, ?_⟩; decide

theorem witness_cast_waits : (inCast { wave with cast := some 2, inBarw := some (2, 0) }).me.inBarw = some (2, 0) := by decide

-- StashResults: stores and loads of two lanes in the LSTASH area; of one register and of two
def stashing (r : BufRec) : State :=
  let s := withWave { wave with b := [r], lanes := [lane 0 [2, 0x11223344, 3], lane 0 [4, 0x55667788, 4]] }
  issue { s with lcs := [{ onCore with lstash := [(9, 5), (32, 7)] }] } 3

def noTrap : Place → Bool
  | .trap _ _ => false
  | _ => true

theorem noTrap_ne {p : Place} (h : noTrap p = true) (c : TrapCode) (a : Nat) : p ≠ .trap c a := by
  rintro rfl; cases h

theorem witness_stash (k : Acc) (hk : k ∈ [.load, .store]) (w : Width) (hw : w ∈ [.b32, .b64]) :
    let s := stashing (record 0 16 2 0 true)
    s.cur.old.acts = [] ∧ s.bodyLanes s.cur.mask = 0 ∧
    (∀ l, l < 32 → s.cur.mask.getLsbD l = true → ∀ c a, s.checkAccess s.cur.old (s.breg 0) (s.src l (.reg 0)).toNat (widthBytes w) k true ≠ .trap c a) ∧
    (∀ l, l < 32 → s.cur.mask.getLsbD l = true →
      s.stashFlawed s.cur.tid (s.checkAccess s.cur.old (s.breg 0) (s.src l (.reg 0)).toNat (widthBytes w) .load true) (widthBytes w) = false) ∧
    s.me.lc = s.cur.old.lc ∧ Memory.wf (s.lc s.cur.old.lc).lstash = true ∧ Memory.wf s.me.stash = true ∧
    widthRegs .b32 = 1 ∧ widthRegs .b64 ≠ 1 := by
  refine ⟨by decide, by decide, fun l hl hm => noTrap_ne ?_, ?_, by decide, by decide, by decide, by decide, by decide⟩
  · revert l; revert w; revert k; decide
  · revert w; decide

-- LoadResults and StoreResults: lanes that reach elements 7 and 9 of a mapped record, and the uniform words element 5
-- (element 2 of a record of two returns nothing under OOB 1)
theorem witness_loads : let s := atWord
    let r := s.breg 0
    let ps := s.places r (fun l => (s.src l (.reg 0)).toNat) 4 .load false
    let place := s.checkAccess s.cur.old r (s.ureg 0).toNat (uniBytes .b32) .load false
    s.Top ∧ s.cur.mask ≠ 0 ∧ ps ≠ [] ∧ s.reserve ps = s ∧ s.judge s.cur.old.lc ps .load = [] ∧
    ((linesOf ps).filter fun y => (s.windowAt s.cur.old.lc y.1 y.2).isSome) = [] ∧
    place = .mem 1 20 ∧ s.reserve [(0, place)] = s ∧ s.translate s.cur.old.lc 1 20 .load = .ok 20 ∧ s.poisoned 20 = false ∧
    s.translate s.cur.old.lc 1 (lineOf 20) .load = .ok (lineOf 20) ∧ s.windowAt s.cur.old.lc 1 (lineOf 20) = none ∧
    s.me.acts = [] ∧ s.me.core = s.cur.old.core :=
  ⟨atWord_top, by decide, by decide, rfl, by decide, by decide, by decide, rfl, by decide, by decide, by decide, by decide, by decide, by decide⟩

theorem witness_load_of_nothing : let r : BufRec := { bits := (record 0 2 2).bits ||| (1 <<< 58) }
    let s := issue (withWave { wave with b := [r] }) 3
    s.Top ∧ s.cur.mask ≠ 0 ∧ s.checkAccess s.cur.old (s.breg 0) (s.ureg 0).toNat (uniBytes .b32) .load false = .none :=
  ⟨⟨by decide, by decide⟩, by decide⟩

theorem witness_stores : let s := atWord
    let r := s.breg 0
    let ps := s.places r (fun l => (s.src l (.reg 0)).toNat) 4 .store false
    let qs := s.places r (fun l => (s.src l (.reg 0)).toNat) 4 .atomic false
    let place := s.checkAccess s.cur.old r (s.ureg 0).toNat (uniBytes .b32) .store false
    s.Top ∧ s.cur.mask ≠ 0 ∧ ps ≠ [] ∧ s.reserve ps = s ∧ s.judge s.cur.old.lc ps .store = [] ∧
    ((linesOf ps).filter fun y => (s.windowAt s.cur.old.lc y.1 y.2).isSome) = [] ∧
    place = .mem 1 20 ∧ s.reserve [(0, place)] = s ∧ s.translate s.cur.old.lc 1 20 .store = .ok 20 ∧
    s.judge s.cur.old.lc [(0, place)] .store = [] ∧ ((linesOf [(0, place)]).filter fun y => (s.windowAt s.cur.old.lc y.1 y.2).isSome) = [] ∧
    qs ≠ [] ∧ s.reserve qs = s ∧ s.judge s.cur.old.lc qs .atomic = [] ∧ s.det s.cur.tid = false :=
  ⟨atWord_top, by decide, by decide, rfl, by decide, by decide, by decide, rfl, by decide, by decide, by decide, by decide, rfl, by decide, by decide⟩

-- LineTraffic: two lanes of line 0
theorem witness_line_traffic : let s := atWord
    let ps : Lanes := [(0, .mem 1 28), (1, .mem 1 36)]
    s.me.lc = s.cur.old.lc ∧ s.me.core = s.cur.old.core ∧ s.me.acts = [] ∧ s.cur.old.acts = [] ∧ (ps.map (·.1)).Nodup ∧
    s.windowAt s.cur.old.lc 1 0 = none ∧ (∀ k, k ∈ [Acc.load, .store, .atomic] → s.translate s.cur.old.lc 1 0 k = .ok 0) ∧
    linesOf ps = [(1, 0)] := by decide

-- FenceAndWindowResults: a fence that waits and one that is over; windows to flush, to map, to unmap; a prefetch
def fencing (h : Nat) : State := { issue (withWave { wave with wctc := 3 }) 3 with hclk := h }

theorem witness_fence : (fencing 0).Top ∧ (fencing 0).cur.mask ≠ 0 ∧ (fencing 0).fenceOver 0 .core = false ∧ (fencing 7).fenceOver 0 .core = true :=
  ⟨⟨by decide, by decide⟩, by decide⟩

theorem witness_device_fence : (let s := fencing 7; (s.flushDirty 0).fenceOver 0 .device) = true := by decide

def mapping (b : BufRec) (w : Nat) (ws : List Window := []) : State :=
  issue { withWave { wave with b := [b], w := [BitVec.ofNat 64 w] } with lcs := [{ onCore with windows := ws }] } 3

theorem witness_windows : let r := record 0 64 2 1
    let s := mapping r 0
    s.Top ∧ s.cur.mask ≠ 0 ∧ (s.breg 0).stash = false ∧ s.mapBad s.cur.old.lc 0 0 r = false ∧ (s.ureg 0).toNat < 2 ^ 20 ∧
    fld (s.ureg 0) 11 5 = 0 ∧ (s.ureg 0).getLsbD 4 = false ∧ ((mapping (record 0 64 2 0 true) 0).breg 0).stash = true ∧
    (mapping (record 64 64 2 1) 0).mapBad 0 0 0 (record 64 64 2 1) = true ∧ ((mapping r 16).ureg 0).getLsbD 4 = true ∧
    fld ((mapping r 16).ureg 0) 11 5 = 0 ∧ ((mapping r 16).window 0 0).mapped = false ∧
    ((mapping r 16 [{ mapped := true }]).window 0 0).mapped = true ∧ ¬ ((mapping r (2 ^ 20)).ureg 0).toNat < 2 ^ 20 :=
  ⟨⟨by decide, by decide⟩, by decide⟩

theorem witness_prefetch : let s := mapping (record 0 64 2 1) 0
    let r := s.breg 0
    let ps := (s.places r (fun l => s.srcOrW l (.reg 0)) 1 .load false).filter fun y => (r.elemOff (s.srcOrW y.1 (.reg 0)) 1).2
    s.Top ∧ s.cur.mask ≠ 0 ∧ r.lease ≠ 0 ∧ (mapping (record 0 64 2) 0).breg 0 = record 0 64 2 ∧ (record 0 64 2).lease = 0 ∧ ps ≠ [] ∧
    s.reserve ps = s ∧
    s.translate s.cur.old.lc 1 0 .load = .ok 0 ∧ s.windowAt s.cur.old.lc 1 0 = none ∧
    (mapping (record 0 64 2 1) 0 [{ mapped := true, record := record 0 64 2, span := 256 }]).windowAt 0 1 0 = some (0, 0) :=
  ⟨⟨by decide, by decide⟩, by decide, by decide, by decide, by decide, by decide, rfl, by decide, by decide, by decide⟩

theorem witness_prefetch_walks : let s := { mapping (record 0 64 2 1) 0 with domains := [{}, { context with ctxmode := 1, pages := [] }] }
    s.translate s.cur.old.lc 1 0 .load = .walk := by decide

-- PollResults: a poll that has met its test, one that has not, none yet; a barrier that stores
def polling (p : Option Poll) (h : Nat := 0) : State := { issue (withWave { wave with poll := p }) 3 with hclk := h }

theorem witness_polls : (polling none).Top ∧ (polling none).cur.mask ≠ 0 ∧
    (polling (some { next := 0, done := true })).cur.old.poll = some { next := 0, done := true } ∧
    (polling (some { next := 0, done := false })).cur.old.poll = some { next := 0, done := false } := ⟨⟨by decide, by decide⟩, by decide⟩

theorem witness_poll_starts : let s := polling none
    let r := s.breg 0
    let ps := s.places r (fun l => s.srcOrW l (.reg 0)) 4 .load false
    let place (n : Nat) : Place := s.checkAccess s.cur.old r 0 n .load false
    s.cur.old.poll = none ∧ s.reserve ps = s ∧ s.judge s.cur.old.lc ps .load = [] ∧
    s.reserve [(0, place 16)] = s ∧ s.judge s.cur.old.lc [(0, place 16)] .load = [] ∧
    s.reserve [(0, place 8)] = s ∧ s.judge s.cur.old.lc [(0, place 8)] .load = [] ∧
    ∀ n, n ∈ [8, 16] → ((linesOf [(0, place n)]).filter fun y => (s.windowAt s.cur.old.lc y.1 y.2).isSome) = [] :=
  ⟨by decide, rfl, by decide, rfl, by decide, rfl, by decide, by decide⟩

theorem witness_bbarm : let s := polling none 4
    let place := s.checkAccess s.cur.old (s.breg 0) 0 16 .store false
    place = .mem 1 0 ∧ s.reserve [(0, place)] = s ∧ s.judge s.cur.old.lc [(0, place)] .store = [] ∧
    ((linesOf [(0, place)]).filter fun y => (s.windowAt s.cur.old.lc y.1 y.2).isSome) = [] ∧
    s.translate s.cur.old.lc 1 0 .store = .ok 0 ∧ s.releaseScope s.cur.old.lc [(0, place)] = some .device ∧
    ((s.flushDirty s.cur.tid).waitOver s.cur.tid (.fence .device)) = true ∧ s.me.lc = s.cur.old.lc ∧
    (s.flushDirty s.cur.tid).windowAt s.cur.old.lc 1 0 = none ∧ (s.flushDirty s.cur.tid).translate s.cur.old.lc 1 0 .store = .ok 0 :=
  ⟨by decide, rfl, by decide, by decide, by decide, by decide, by decide, by decide, by decide, by decide⟩

-- BufferRecordResults: a plain record, a reserved bit, LENT; a narrowing that fits, one past the extent, and a reserved operand
def records (lo hi : Nat) : State :=
  issue (withWave { wave with w := [BitVec.ofNat 64 lo, BitVec.ofNat 64 hi] }) 3

def reserved (s : State) : Bool :=
  (s.quadReg 0 1).getLsbD 7 = true ∨ (s.ureg 0).getLsbD 57 = true ∨ fld (s.quadReg 0 1) 6 4 > 4 ∨
    fld (s.quadReg 0 1) 3 2 = 3 ∨ fld (s.ureg 0) 59 58 = 3

theorem witness_records : (records 0 0).cur.mask ≠ 0 ∧ (records 0 0).bodyLanes (records 0 0).cur.mask = 0 ∧ reserved (records 0 0) = false ∧
    ((records 0 0).ureg 0).getLsbD 63 = false ∧ reserved (records 0 0x80) = true ∧ reserved (records 0 0x50) = true ∧ reserved (records (2 ^ 63) 0) = false ∧
    ((records (2 ^ 63) 0).ureg 0).getLsbD 63 = true := by decide

theorem witness_narrowing : let s := records (2 + 14 * 2 ^ 32) 3
    let r := s.breg 0
    (s.quadReg 0 1).toNat < 4 ∧ fld (s.ureg 0) 31 0 + fld (s.ureg 0) 63 32 ≤ r.extent ∧
    r.base + fld (s.ureg 0) 31 0 * r.stride * 2 ^ r.esize < 2 ^ 57 ∧
    (r.stash = true → r.base % 2 ^ 20 + fld (s.ureg 0) 31 0 * r.stride * 2 ^ r.esize < 2 ^ 20) ∧
    ((records 0 4).quadReg 0 1).toNat ≥ 4 ∧ fld ((records (3 + 14 * 2 ^ 32) 3).ureg 0) 31 0 + fld ((records (3 + 14 * 2 ^ 32) 3).ureg 0) 63 32 > r.extent := by decide

-- TranslationWordResults: a mapped span, one without elements, a hole, a hole that the host fills, and too many locks
def locking (r : BufRec) (ctxmode : Dword := 0) (locks : List (Nat × Nat) := []) : State :=
  { issue (withWave { wave with b := [r] }) 3 with
    domains := [{}, { context with ctxmode := ctxmode }], lcs := [{ onCore with lockPages := locks }] }

theorem witness_locking : let s := locking (record 0 16 2)
    s.Top ∧ s.cur.mask ≠ 0 ∧ (s.breg 0).stash = false ∧ ((locking (record 0 0 2)).breg 0).span = 0 ∧ (s.breg 0).span ≠ 0 ∧
    s.spanPages s.cur.old.dom 2 0 63 = (s, some [(0, 16)]) ∧ (s.lockedOn s.cur.old.core).length + 1 ≤ 32 :=
  ⟨⟨by decide, by decide⟩, by decide, by decide, by decide, by decide, Prod.ext rfl (by decide), by decide⟩

theorem witness_lock_span : let s := locking (record 0 16 2)
    (if (s.domain s.cur.old.dom).ptroot = 0 then (s.domain s.cur.old.dom).pages.length + (s.domain s.cur.old.dom).poolN + 1 else (s.breg 0).span / 2 ^ 16 + 2) = 2 ∧
    (s.breg 0).base = 0 ∧ (s.breg 0).span = 64 := by decide

theorem witness_locks_full : let s := locking (record 0 16 2) 0 ((List.range 32).map fun k => ((k + 1) * 65536, 16))
    (s.lockedOn s.cur.old.core).length + ([(0, 16)].filter fun p => !(s.lockedOn s.cur.old.core).contains ((s.lc 0).asid, p.1, p.2)).length > 32 := by decide

theorem witness_lock_hole : ∀ x ∈ ([0, 1] : List Nat), let s := locking (record 0xFFC0 32 2) (BitVec.ofNat 64 x)
    (s.breg 0).base = 0xFFC0 ∧ (s.breg 0).span = 128 ∧ (s.domain s.cur.old.dom).ctxmode.getLsbD 0 = decide (x = 1) := by decide

theorem witness_lock_hole_found : ∀ x ∈ ([0, 1] : List Nat), ((locking (record 0xFFC0 32 2) (BitVec.ofNat 64 x)).spanPages 1 2 0 0x1FFFF).2 = none := by decide

theorem witness_probe : let s := locking (record 0 16 2)
    ((s.breg 0).elemOff (s.ureg 0).toNat 4).2 = true ∧ ((s.breg 0).elemOff (s.ureg 9).toNat 4).2 = true ∧
    ((locking (record 0 4 2)).breg 0).elemOff ((locking (record 0 4 2)).ureg 0).toNat 4 = (20, false) ∧
    lineOf ((s.breg 0).base + ((s.breg 0).elemOff (s.ureg 0).toNat 4).1) < 2 ^ 57 := by decide

-- QueueResults: q5 as a FIFO of four entries with two of them taken, and unbound
def queueing (kind : Nat) (entries : List Dword) (w : Nat) : State :=
  issue { withWave { wave with w := [BitVec.ofNat 64 w] } with
    lcs := [{ onCore with queues := List.replicate 2 {} ++ [{ kind := kind, spec := 3, entries := entries, depth := 4, permits := 4 - entries.length }] }] } 3

theorem witness_queues : let s := queueing 1 [1, 2] 0
    let f := (s.lc s.cur.old.lc).fifo 5
    s.Top ∧ s.cur.mask ≠ 0 ∧ f.kind = 1 ∧ f.frozen = false ∧ f.entries ≠ [] ∧ s.det s.cur.tid = false ∧
    s.queueTrap s.cur.tid 5 2 true = none ∧ s.queueTrap s.cur.tid 5 1 true = none ∧ s.queueTrap s.cur.tid 5 2 false = none ∧
    s.queueTrap s.cur.tid 5 1 false = none ∧ s.queueTrap s.cur.tid 5 0 false = none :=
  ⟨⟨by decide, by decide⟩, by decide⟩

theorem witness_bindings (w : Nat) (h : w ∈ [0, 0x40000003]) : let s := queueing 1 [] w
    let f := (s.lc s.cur.old.lc).fifo 5
    (s.ureg 0).toNat < 2 ^ 32 ∧ f.kind ≠ 2 ∧ f.frozen = false ∧ f.entries = [] ∧
    (∀ k, (s.thread k).alive = true → (s.thread k).lc = s.cur.old.lc → (s.thread k).waitsOn 5 = false) ∧
    ((s.ureg 0).setWidth 32 = 0 ∨ fld ((s.ureg 0).setWidth 32) 31 30 = 1 ∧ fld ((s.ureg 0).setWidth 32) 29 28 = 0 ∧
      fld ((s.ureg 0).setWidth 32) 15 8 = 0 ∧ s.fifoPlaceBad s.cur.old.lc 5 ((s.ureg 0).setWidth 32) = false) := by
  refine ⟨?_, ?_, ?_, ?_, fun k => ?_, ?_⟩
  · revert w; decide
  · revert w; decide
  · revert w; decide
  · revert w; decide
  · have : ((queueing 1 [] w).thread k).waitsOn 5 = false := by cases k <;> rfl
    exact fun _ _ => this
  · revert w; decide

-- TaskResults: a child of depth 1, one too deep, tags and events, withdrawing tag 3
def tasking (w : Nat) (depth : Nat) : State :=
  issue (withWave { wave with w := [BitVec.ofNat 64 w, 0, 0, 64], depth := depth }) 3

theorem witness_tasks : let s := tasking 3 0
    s.Top ∧ s.cur.mask ≠ 0 ∧ (s.ureg 0).toNat < 2 ^ 16 ∧ s.cur.old.codeAddr ((s.ureg 0).setWidth 32).toNat = true ∧
    (s.quadReg 0 3).toNat % 8 = 0 ∧ s.cur.old.depth ≠ 4 ∧ (tasking 3 4).cur.old.depth = 4 ∧ fld (s.ureg 0) 31 0 ≠ 0 ∧
    s.det s.cur.tid = false := ⟨⟨by decide, by decide⟩, by decide⟩

-- EngineCommandsEnter: records of bytes, of the LSTASH area, of FP32 and of BF16; slots of INT8, ternary, E4M3, FP32
def commanding (w2 w3 : Nat) (b : Nat := 4096) : State :=
  let t := { wave with
    w := [0, 0, BitVec.ofNat 64 w2, BitVec.ofNat 64 w3]
    b := [record 0 b 0, record 0 2048 0 0 true, record 8192 1024 2, record 4096 4096 0] }
  issue { withWave t with launches := [{ launch with fmt := [5, 7, 3, 0], place := 1 }] } 3

def accepted (i : Instr) (s : State) (check : State → Cmd → Option TrapCode) : Bool :=
  s.cur.mask ≠ 0 && s.cur.old.acts = [] && s.bodyLanes s.cur.mask = 0 && check s (s.cmdOf i 0) = none && s.headerTrap (s.cmdOf i 0) = none

theorem witness_bench_commands : let k (n r : Nat) : Nat := n + r * 2 ^ 32
    accepted (.wbmac 0 0 0) (commanding (k (2 ^ 16) 1) 0) (fun s c => s.macTrap c 0 0) ∧
    accepted (.wbmacp 0 0 0 0) (commanding (k (2 ^ 16) 1) 0) (fun s c => s.macTrap c 0 0) ∧
    accepted (.wbload 0 1) (commanding 0 0) (fun s c => s.loadTrap c 1) ∧
    accepted (.wbswap 0) (commanding 0 0) (fun _ _ => none) ∧
    accepted (.wbzero 0 0) (commanding 5 0) (fun s _ => if (s.quadReg 0 2).toNat < 2 ^ 8 ∧ s.quadReg 0 3 = 0 then none else some .ill) ∧
    accepted (.tadd 0 0) (commanding 0x12 0) (fun _ c => tileTrap c true false false) ∧
    accepted (.tsub 0 0) (commanding 0x12 0) (fun _ c => tileTrap c true false false) ∧
    accepted (.tshl 0 0) (commanding 0x302 0) (fun _ c => tileTrap c false true false) ∧
    accepted (.tmov 0 0) (commanding 2 0) (fun _ c => tileTrap c false false false) ∧
    accepted (.tneg 0 0) (commanding 2 0) (fun _ c => tileTrap c false false false) ∧
    accepted (.tslice 0 0) (commanding 0x050002 0) (fun _ c => tileTrap c false false true) := by decide

theorem witness_pair_commands : let pitch : Nat := 128 * 2 ^ 16 + 128
    accepted (.apcfg 0) (commanding 0 0) (fun s c => s.apcfgTrap c) ∧
    accepted (.apqk 0 2) (commanding pitch (2 ^ 32)) (fun s c => s.apqkTrap c 2) ∧
    accepted (.appv 0 0 2 false false) (commanding 64 0) (fun s c => s.appvTrap c 2) ∧
    accepted (.apresc 0 0) (commanding 0 0) (fun s _ => if s.quadReg 0 2 = 0 ∧ s.quadReg 0 3 = 0 then none else some .ill) ∧
    accepted (.apnorm 0 0 false) (commanding 0 0) (fun s c => s.apnormTrap c 0 false) ∧
    accepted (.apnorm 0 0 true) (commanding (2 * 2 ^ 32) 0) (fun s c => s.apnormTrap c 0 true) := by decide

theorem witness_copy_commands : let hd : Nat := 2 ^ 48 + 2 * 2 ^ 44 + 2 * 2 ^ 40 + 2 * 2 ^ 36
    accepted (.cecopy 0 0 false) (commanding (16 + 3 * 2 ^ 36) 0) (fun s c => s.cecopyTrap c 0 false) ∧
    accepted (.cecopy 0 0 true) (commanding (16 + 3 * 2 ^ 36) 0) (fun s c => s.cecopyTrap c 0 true) ∧
    accepted (.celist 0) (commanding 1 0) (fun s c => s.celistTrap c) ∧
    accepted (.cerope 0 3 3) (commanding (1 + hd) 0) (fun s c => s.ceropeTrap c 3 3) ∧
    accepted (.cepatch 0 3 true) (commanding (2 ^ 24 + 2 * 2 ^ 40 + 2 * 2 ^ 36 + 2 * 2 ^ 32) 0) (fun s c => s.cepatchTrap c 3 true) ∧
    accepted (.cereq 0 0 2) (commanding (2 ^ 16 + 16 + 3 * 2 ^ 36) 0) (fun s c => s.cereqTrap c 0 2) ∧
    accepted (.cered 0 0 .add) (commanding 0 0) (fun s c => s.ceredTrap c 0) ∧
    accepted (.cefill 0) (commanding 16 0) (fun s c => s.cefillTrap c) := by decide

-- TileWordResults: a settled tile, and one that a queued command will write; cells of registers v2 and v3
def tiles (q0 : List Cmd) : State :=
  issue { withWave { wave with w := [0x10002] } with
    launches := [{ launch with fmt := [0] }], domains := [{}, { context with units := [{ q0 := q0, grants := 1 }] }] } 3

theorem witness_settle : let s := tiles []
    s.Top ∧ s.cur.mask ≠ 0 ∧ s.waitOver s.cur.tid (.settled 0 s.grantOf) = true ∧ s.waitOver s.cur.tid (.settle 0 s.grantOf) = true :=
  ⟨⟨by decide, by decide⟩, by decide⟩

theorem witness_settle_waits : let s := tiles [(tiles []).cmdOf (.wbzero 0 0) 0]
    s.waitOver s.cur.tid (.settled 0 s.grantOf) = false := by decide

theorem witness_tile_words : let s := tiles []
    s.descBad 0 1 2 true = false ∧ ((s.unitOf s.cur.tid).tile 0).links = [] ∧ ((s.unitOf s.cur.tid).tile 0).covers = [] ∧
    (∀ k, k < 64 → (s.unitOf s.cur.tid).tagDone 0 k = false) ∧
    s.slotOk (s.fmtOf s.cur.tid 0) [0, 1, 2, 3, 4, 5, 6, 8] [0] = true ∧ s.descBad 0 (groupSize (s.fmtOf s.cur.tid 0)) 1 false = false ∧
    ∀ l, l < 32 → s.cur.mask.getLsbD l = true →
      (tcvtRegs (s.fmtOf s.cur.tid 0) ((s.unitOf s.cur.tid).tile 0).et
        ((List.range 1).map fun j => ((s.unitOf s.cur.tid).tile 0).cell l j)).isSome = true := by decide

-- RelaxationWordResults: a wave of two lanes in the pass of a region of two steps, with results or not; a cast without one
def relaxing (out : Bool) (rlx : Option (List Dword × BufRec × Nat) := none) (more : Unit_ := {}) (on : Bool := true) : State :=
  issue { withWave { wave with cast := some 2, rlx := rlx } with
    domains := [{}, { context with units := [{ more with
      region := if on then some { lc := 0, cast := 2, desc := [0], record := {}, waves := [0], st := .pass,
                                  steps := [{ g := [7], out := out }, { g := [8], out := out }] } else none }] }] } 3

theorem witness_body : let s := relaxing true
    s.cur.old.acts = [] ∧ s.cur.mask ≠ 0 ∧ s.stepless = 0 ∧ s.bodyLanes s.cur.mask ≠ 0 ∧ s.rlxS s.cur.tid = 1 ∧ s.cur.old.regs = 16 ∧
    (s.unitOf s.cur.tid).region.isSome = true ∧ (∀ l, l < 32 → s.cur.mask.getLsbD l = true → (s.stepOf s.cur.tid l).out = true) ∧
    s.castRank s.cur.tid = some 0 := by decide

theorem witness_region_opened : let s := relaxing true (some ([0], {}, 0))
    s.me.rlx.isSome = true ∧ ((s.unitOf s.cur.tid).region.map fun r => (decide (s.cur.tid ∈ r.waves), decide (r.st = .opening))) = some (true, false) := by
  decide

theorem witness_no_region : let s := relaxing true none {} false
    s.cur.old.acts = [] ∧ s.cur.mask ≠ 0 ∧ s.bodyLanes s.cur.mask = 0 ∧ (s.unitOf s.cur.tid).region = none ∧
    3 + (s.unitOf s.cur.tid).gs.ws ≤ s.cur.old.regs ∧ s.castRank s.cur.tid = some 0 := by decide

-- GateWordResults: a gate of context 1 into wing 2, whose image is one page of packets of the same memory
def gating (windows gtsize : Nat) (resident : Bool) (acts : List Banked := []) : State :=
  issue { withWave { wave with acts := acts } with
    mem := [(0x1001, 0x20), (0x100C, 2), (0x100F, 4), (0x1022, 1), (0x1023, 1), (0x2000, 0x44), (0x2001, 0x4E), (0x2002, 0x58),
            (0x2003, 0x49), (0x2004, 4)]
    cores := [{ windows := windows }]
    domains := [{}, { context with gates := 0x1000, gtsize := gtsize }, { context with wing := true, resident := resident }] } 3

def gate0 : Gate :=
  { code := 0x2000, entry := 0, dom := 2, rwin := 0, uwin := 4, budget := 0, rectab := 0, grant := 0, nest := 1,
    lend14 := 0, lend15 := 0, nolead := false, pkts := 4 }

set_option maxRecDepth 20000 in
theorem witness_gate : (gating 0 1 true).gateEntry 1 0 =
    some gate0 := by decide

theorem witness_call : let s := gating 0 1 true
    s.cur.mask ≠ 0 ∧ s.bodyLanes s.cur.mask = 0 ∧ s.me = s.cur.old ∧ s.cur.old.parkedLanes = 0 ∧ s.cur.old.pendingReqs = [] ∧
    (gating 0 0 true).gateEntry 1 0 = none ∧ ¬ ((s.cur.old.isLead = true ∧ false = true) ∨ s.cur.old.acts.length + 1 > 1) ∧
    (gating 0 1 true [{}]).cur.old.acts.length + 1 > 1 ∧ (gating 0 1 true [{}]).cur.old.acts ≠ [] ∧
    (gating 0 1 false).wingResident 2 = false ∧ s.wingResident 2 = true ∧ (gating 8 1 true).windowsUsed 0 ≥ 8 ∧ s.windowsUsed 0 < 8 := by
  decide

-- the entry of the gate and the header of its code object can be read
set_option maxRecDepth 20000 in
theorem witness_gate_reads : let s := gating 0 1 true
    (∀ va, va ∈ [0x1000, 0x103F] → ((s.domain 1).page va).isSome = true) ∧ s.waitOver 0 (.lines [(1, 0x1000)]) = true ∧
    (s.deviceRead 1 0x1000 64).map (fun e => (leAt e 0xC 2, leAt e 0 8)) = some (2, 0x2000) ∧
    (∀ va, va ∈ [0x2000, 0x20FF] → ((s.domain 2).page va).isSome = true) ∧
    s.waitOver 0 (.lines [(2, 0x2000), (2, 0x2080)]) = true := by decide

-- GATEQ, which waits for nothing
theorem witness_gate_summary : let s := gating 0 1 true
    (s.deviceReads 1 0x1000 64).2.isSome = true ∧ ((gating 0 0 true).domain 1).gtsize ≤ 0 := by decide

theorem witness_grant : (gating 0 1 true).grantRecs gate0 = some (List.replicate 14 {}) := by decide

-- SpecialRegisterResults and ObservationWordResults: values with and without a reserved bit
def writing (w : Nat) (x : Thread := wave) : State := issue (withWave { x with w := [BitVec.ofNat 64 w] }) 3

theorem witness_registers : (writing 0).cur.mask ≠ 0 ∧ (writing 0).bodyLanes (writing 0).cur.mask = 0 ∧ ((writing 0).ureg 0).toNat < 2 ^ 2 ∧
    ((writing 0x40).ureg 0).toNat ≥ 2 ^ 6 ∧ ((writing 4).ureg 0).toNat ≥ 2 ^ 2 ∧ ((writing 4).ureg 0).toNat < 2 ^ 6 ∧
    fld ((writing 3).ureg 0) 31 9 = 0 ∧ ((writing 3).ureg 0).getLsbD 6 = false ∧ fld ((writing 3).ureg 0) 31 8 = 0 ∧
    (writing 0).launchOf (writing 0).cur.tid = some launch := by decide

theorem witness_observing : (writing 0).Top ∧ ((writing 0).ureg 0).toNat < 2 ^ 48 ∧ (∀ n, (writing 0).cur.old.wait ≠ some (.sleep n)) ∧
    (writing 9 { wave with wait := some (.sleep 9) }).cur.old.wait = some (.sleep 9) :=
  ⟨⟨by decide, by decide⟩, by decide, fun n => by show (none : Option Wait) ≠ some (.sleep n); exact nofun, by decide⟩

-- TraceAndStampResults: a ring with room and one without; a stamp at once, one at a settle, and 16 of these already
def tracing (tracing : Bool) (depth : Nat) : State :=
  { atWord with domains := [{}, { context with tracing := tracing, trDepth := depth }] }

theorem witness_trace : let d (s : State) : Domain := s.domain (s.ctxOf s.cur.tid)
    (tracing true 4).cur.mask ≠ 0 ∧ (tracing true 4).bodyLanes (tracing true 4).cur.mask = 0 ∧
    (d (tracing false 4)).tracing = false ∧ (d (tracing true 4)).tracing = true ∧ (d (tracing true 4)).debug = true ∧
    ((tracing true 4).domain (tracing true 4).cur.old.dom).debug = true ∧
    (d (tracing true 4)).trTail - (tracing true 4).ctlField 1 0x58 8 < (d (tracing true 4)).trDepth ∧
    (d (tracing true 0)).trTail - (tracing true 0).ctlField 1 0x58 8 ≥ (d (tracing true 0)).trDepth := by decide

def stamping (w : Nat) (stamps : List Stamp) (cap : Byte) (buf : Nat := 256) : State :=
  issue { withWave { wave with w := [BitVec.ofNat 64 w] } with
    launches := [{ launch with stampbuf := buf }]
    stores := [{ live := false, line := 256, kind := .add 0 1, st := .performed }]
    mem := if cap = 0 then [] else [(264, cap)]
    lcs := [{ onCore with stamps := stamps, adds := [{ add := 0, tid := 0, bytes := List.replicate 32 1 }] }] } 3

def owed (s : State) : Nat :=
  ((s.lcs.filter fun z => z.core = s.me.core && (s.domain z.asid).running).map fun z => z.stamps.length).sum

theorem witness_stamps : let s := stamping 5 [] 4
    s.cur.mask ≠ 0 ∧ s.bodyLanes s.cur.mask = 0 ∧ s.me.lc = s.cur.old.lc ∧ s.cur.old.lc < s.lcs.length ∧ (s.ureg 0).toNat < 2 ^ 21 ∧
    (s.ureg 0).getLsbD 20 = false ∧ ((stamping (2 ^ 20) [] 4).ureg 0).getLsbD 20 = true ∧ owed s < 16 ∧
    owed (stamping (2 ^ 20) (List.replicate 16 { tid := 0, tile := 0, grant := 0, id := 0, curtag := 0 }) 4) ≥ 16 ∧
    ((stamping (2 ^ 21) [] 4).ureg 0).toNat ≥ 2 ^ 21 ∧ s.translate 0 1 256 .atomic = .ok 256 ∧ s.poisoned 256 = false ∧
    (stamping 5 [] 4 260).translate 0 1 260 .atomic = .ok 260 ∧
    ((s.launch? (s.lc 0).launch).map fun l => l.stampbuf) = some 256 ∧
    (((stamping 5 [] 4 0).launch? 0).map fun l => l.stampbuf) = some 0 := by decide

theorem witness_stamp_record : let s := stamping 5 [] 4
    (s.domain (s.lc 0).asid).goes = true ∧ (s.lc 0).adds = [{ add := 0, tid := 0, bytes := List.replicate 32 1 }] ∧
    (s.stores[0]?.map fun b => (b.st, b.old)) = some (.performed, 0) ∧ s.lineClear 0 0 1 264 = true ∧ s.windowAt 0 1 (lineOf 264) = none ∧
    (s.engineRead 0 1 0 264 8).toOption.map ofBytes = some 4 ∧ ((stamping 5 [] 0).engineRead 0 1 0 264 8).toOption.map ofBytes = some 0 ∧ s.translate 0 1 320 .store = .ok 320 ∧
    s.translate 0 1 (lineOf 320) .store = .ok (lineOf 320) ∧ s.windowAt 0 1 (lineOf 320) = none ∧ 320 % 128 + 32 ≤ 128 := by decide

-- LaneOperationAndRecordSteps: lane 0 parked, in slot 3; a record for a queue with room
def parked : State :=
  { withWave { wave with lanes := [{ lane 3 [] with st := .parked }, lane 0 []] } with hclk := 4 }

theorem witness_lane_operations : let v : Dword := 0x100000003
    parked.lcAt 0 0 = some 0 ∧ parked.laneOpTarget 0 v = some 0 ∧ fld v 31 9 = 0 ∧ fld v 31 8 = 0 ∧ v.getLsbD 6 = false ∧
    (parked.thread 0).wait = none ∧ (parked.thread 0).run = none ∧ (parked.thread 0).cast = none ∧ (parked.thread 0).resumedAt ≠ some parked.hclk ∧
    (parked.unitOf 0).region = none ∧ (BitVec.ofNat 32 (fld v 63 32)).getLsbD 0 = true ∧ ((parked.thread 0).lane 0).st = .parked ∧
    parked.lcAt 0 1 = none ∧ fld (0x200 : Dword) 31 9 ≠ 0 := by decide

theorem witness_illegal : atWord.cur.run ≠ 0 ∧ atWord.cur.old.acts = [] ∧ atWord.bodyLanes atWord.cur.run = 0 := by decide

def recording : State := { withWave wave with domains := [{}, { context with fqDepth := 4, records := [{ hclk := 3, code := .ill }] }] }

theorem witness_record : (recording.domain 1).alive = true ∧ (recording.domain 1).records = [{ hclk := 3, code := .ill }] ∧
    (recording.domain 1).fqTail - recording.ctlField 1 0x38 8 < (recording.domain 1).fqDepth ∧
    recording.outClear [(hostPlace (0 + 64 * (1 % 4)), 64), (hostPlace (0 + 0x30), 8)] = true := by decide

-- RunSteps: a run to fetch, one that waits for its page, one to begin, one that has ended
def running (t : Thread) (pages : List Page := context.pages) : State :=
  { withWave t with domains := [{}, { context with pages := pages, ctxmode := 1 }] }

theorem witness_fetch : let s := running wave
    (s.thread 0).alive = true ∧ (s.thread 0).stopped = false ∧ s.stopDue 0 = false ∧ (s.domain (s.ctxOf 0)).running = true ∧
    (s.thread 0).atBoundary = true ∧ (s.thread 0).lowest = some (0, 3) ∧
    (s.fetchRun wave 0 0 8 []).2 = some (List.replicate 24 0, none) := by decide

theorem witness_fetch_maps_no_page : ∀ k, k < 8 → (running wave).ensureMapped 1 (0 + 4 * (3 * (0 / 3)) + 12 * k) = running wave ∧
    (running wave).ensureMapped 1 (0 + 4 * (3 * (0 / 3)) + 12 * k + 11) = running wave := by
  intro k h; interval_cases k <;> exact ⟨rfl, rfl⟩

theorem witness_fetch_waits : let s := running wave []
    s.stopDue 0 = false ∧ (s.thread 0).lowest = some (0, 3) ∧ (s.fetchRun wave 0 0 8 []).2 = none := by decide

theorem witness_choice : let s := running { wave with run := some { mask := 3, code := [0, 0, 0] } }
    (s.core 0).side0.cur = none ∧ s.choose 0 (s.core 0).side0.last = some 0 := by decide

theorem witness_choice_of_side_1 : let s := { running { wave with run := some { mask := 3, code := [0, 0, 0] } } with
      cores := [{ side0 := { cur := some 1 } }] }
    (s.core 0).side1.cur = none ∧ s.side0First 0 = false ∧ s.choose 0 (s.core 0).side1.last = some 0 := by decide

theorem witness_run_end : ((running { wave with run := some { mask := 3, started := true, ended := true } }).thread 0).run =
    some { mask := 3, started := true, ended := true } := by decide

-- WaitSteps: waits that are over and that are not; an attempt of WAITV b0, EQ
def waiting (w : Wait) (h : Nat) : State := { withWave { wave with wait := some w, wctc := 3, lanes := [{ lane 0 [] with acq := 9 }] } with hclk := h }

theorem witness_waits : ((waiting (.fence .core) 7).thread 0).wait = some (.fence .core) ∧
    (waiting (.fence .core) 7).waitOver 0 (.fence .core) = true ∧ (waiting (.fence .core) 0).waitOver 0 (.fence .core) = false ∧
    ((waiting (.held 1) 9).thread 0).wait = some (.held 1) ∧ (waiting (.held 1) 9).waitOver 0 (.held 1) = true ∧
    (waiting (.held 1) 0).waitOver 0 (.held 1) = false ∧ ((waiting (.sleep 0) 9).thread 0).wait = some (.sleep 0) ∧
    (waiting (.sleep 0) 9).waitOver 0 (.sleep 0) = true ∧ (waiting (.sleep 1) 9).waitOver 0 (.sleep 1) = false := by decide

def attempting : State :=
  running { wave with b := List.replicate 4 (record 0 16 2), wait := some .poll, poll := some {}, run := some { mask := 3, code := [0x28340005, 0, 0], started := true } }

theorem witness_attempt : (attempting.thread 0).poll = some {} ∧ (attempting.thread 0).wait = some .poll ∧ ({} : Poll).done = false ∧
    ({} : Poll).next ≤ attempting.coreClock 0 ∧ (attempting.thread 0).stopped = false ∧ (attempting.domain (attempting.ctxOf 0)).running = true ∧
    pollingWord none [0x28340005, 0, 0] = some (.waitv 3 .ne (.reg 0) (.reg 0), none) := by decide

theorem witness_attempt_reads : let c := { attempting with cur := { issueOf 0 (attempting.thread 0) 3 0 with mask := 3 } }
    let plan := c.pollPlan (.waitv 3 .ne (.reg 0) (.reg 0))
    plan.1 ≠ [] ∧ c.reserve plan.1 = c ∧ c.judge 0 plan.1 .load = [] ∧ linesOf plan.1 = [(1, 0)] ∧
    (c.translate 0 1 0 .load ≠ .walk ∧ c.lineClear 0 0 1 0 = true ∧ c.loadsBefore 0 3 1 0 = []) :=
  ⟨by decide, rfl, by decide, by decide, by decide⟩

theorem witness_no_windows (k : Nat) : (attempting.lc k).windows = [] := by rcases k with _ | k <;> rfl

-- BoundaryTrapSteps: a deadline that has come, in a callee too; a posted fault of live lanes, and of none
def due (acts : List Banked) (posted : List Posted) : State :=
  withWave { wave with deadline := some 0, acts := acts, posted := posted }

theorem witness_boundary : let s := due [] [{ code := .accovf }]
    (s.thread 0).alive = true ∧ (s.thread 0).stopped = false ∧ (s.domain (s.ctxOf 0)).running = true ∧ (s.thread 0).atBoundary = true ∧
    (s.thread 0).deadline = some 0 ∧ 0 ≤ (s.thread 0).wtime ∧ (s.thread 0).lowest = some (0, 3) ∧ (s.thread 0).acts = [] ∧
    ((due [{}] []).thread 0).acts = [{}] ∧ (s.thread 0).posted = [{ code := .accovf }] ∧
    (0xFFFFFFFF : Mask) &&& (s.thread 0).lanesWith (fun L => L.st = .live) ≠ 0 ∧
    (0xFFFFFFFC : Mask) &&& (s.thread 0).lanesWith (fun L => L.st = .live) = 0 := by decide

-- ReadSteps: a load of line 0 of both kinds on its way, and back
def reading (r : Req) (poisoned : Bool := false) : State :=
  { withWave wave with reqs := [r], lines := if poisoned then [{ addr := 0, poisoned := true }] else [] }

def load0 : Req := { tid := 0, core := 0, dom := 1, va := 0, parts := [{ dest := .lane 0 (some 1) 1, off := 4, width := 4, latch := true }] }

theorem witness_read : let s := reading load0
    s.reqs[0]? = some load0 ∧ load0.st = .sent ∧ load0.store = none ∧ s.storesDone load0.after = true ∧ s.reqsServed load0.behind = true ∧
    s.forwardedOn load0.line = false ∧ s.isMoving load0.line = false ∧ s.poisoned load0.line = false ∧
    (reading load0 true).poisoned load0.line = true ∧ ({ load0 with st := .home } : Req).st = .home ∧ load0.depth = (s.thread 0).gdepth ∧
    load0.keeps = false ∧ s.windowAt 0 1 0 = none ∧ ({ load0 with lease := 64, keeps := true } : Req).lease ≠ 0 ∧
    ({ load0 with expiry := 64 } : Req).expiry ≠ 0 ∧ load0.expiry = 0 := by decide

-- StoreSteps: a store of line 0 accepted, arrived under a lease or not, forwarded, performed; its atomics
def storing (x : Store) (lease : Nat := 0) : State :=
  { withWave wave with stores := [x], lines := if lease = 0 then [] else [{ addr := x.line, lease := lease }] }

def store0 : Store := { live := true, tids := [0], dom := 1, bytes := [(4, 0x55)] }

theorem storing_sole (x : Store) (n : Nat) : ∀ k y, k ≠ 0 → (storing x n).stores[k]? = some y → y.live = true → y.line ≠ x.line := by
  rintro (_ | k) y h g
  · exact absurd rfl h
  · simp [storing] at g

theorem witness_store_arrives : let s := storing store0
    s.stores[0]? = some store0 ∧ store0.live = true ∧ store0.st = .accepted ∧ s.earlierOut 0 store0 = false ∧ s.isMoving 0 = false ∧ s.due = [] ∧
    store0.after = [] ∧ isDevice 0 = true ∧ Memory.wf s.mem = true ∧
    s.hclk < max (max s.hclk ((storing store0 9).line 0).lease) (max ((storing store0 9).line 0).last store0.notBefore) ∧
    max (max s.hclk (s.line 0).lease) (max (s.line 0).last store0.notBefore) ≤ s.hclk ∧ isDevice (2 ^ 64) = false := by decide

theorem witness_store_performs : ∀ k ∈ [StoreKind.plain, .atom [{ lane := 0, off := 0, op := .add, w64 := false, data := 3, new := 0 }], .add 0 1],
    let x := { store0 with kind := k, st := .arrived }
    (storing x).stores[0]? = some x ∧ x.live = true ∧ x.kind = k ∧ isDevice x.line = true ∧ x.st = .arrived ∧ x.perf ≤ (storing x).hclk ∧
    ((storing x).line x.line).lease ≤ (storing x).hclk ∧ Memory.wf (storing x).mem = true := by decide

theorem witness_store_forwards : let x := { store0 with line := 2 ^ 64, st := .arrived }
    isDevice x.line = false ∧ x.st = .arrived ∧ x.perf ≤ (storing x).hclk ∧ ((storing x).line x.line).lease ≤ (storing x).hclk ∧
    ({ x with st := .forwarded } : Store).kind = .plain ∧ ({ x with st := .forwarded } : Store).st = .forwarded ∧
    x.tids = [0] ∧ x.acq = false ∧ x.wctBack = false ∧ ({ x with st := .performed } : Store).st = .performed := by decide

-- CacheSteps: a dirty entry whose lease ends; a page that moves at once and one that waits; a walk; an evicted line
def caching (lease : Nat) : State :=
  { withWave wave with
    lines := if lease = 0 then [] else [{ addr := 0, lease := lease }]
    reqs := [{ load0 with st := .walk }]
    lcs := [{ onCore with windows := [{ mapped := true, record := record 0 64 2 1, span := 256,
                                        entries := [{ off := 128, expiry := 4, data := [], dirty := 3, writers := [0] }] }] }] }

theorem witness_window_entry : let s := caching 0
    let w := s.window 0 0
    w.mapped = true ∧ w.entries = [{ off := 128, expiry := 4, data := [], dirty := 3, writers := [0] }] ∧ 4 ≤ s.coreClock (s.lc 0).core + 4 ∧
    (s.domain (s.lc 0).asid).place (w.base + 128) = some 128 := by decide

theorem witness_page : let s := caching 0
    let p : Page := ⟨0, 16, 0, true, true⟩
    (s.domain 1).page 0 = some p ∧ isDevice p.pa = true ∧ 2 ^ 16 + 2 ^ p.log ≤ Config.deviceBytes ∧ 2 ^ 16 % 2 ^ p.log = 0 ∧ p.pa + 2 ^ p.log ≤ 2 ^ 16 ∧
    s.moving = [] ∧ (∀ d ∈ s.domains, ∀ q ∈ d.pages, p.pa ≤ q.pa ∧ q.pa + 2 ^ q.log ≤ p.pa + 2 ^ p.log) ∧ Memory.wf s.mem = true ∧
    s.stores = [] ∧ s.lines = [] ∧ (∃ x ∈ (caching 9).lines, x.addr = 0 ∧ s.hclk < x.lease) := by decide

theorem witness_walk : let s := caching 0
    s.reqs[0]? = some { load0 with st := .walk } ∧ (s.domain load0.dom).page load0.va = some ⟨0, 16, 0, true, true⟩ := by decide

theorem witness_eviction : let s := caching 0
    (s.domain 1).place 0 = some 0 ∧ isDevice 0 = true ∧ (∀ r ∈ s.reqs, r.st ≠ .sent) ∧ s.stores = [] := by decide

-- LaunchSteps: queue 5 of context 1 with one entry: a record that is accepted, one without a core, a wrong SEQ
def launching (seq core : Byte) (l : List Launch := []) : State :=
  { mem := [(0x801, 9), (0x808, 4), (0x80C, 1), (0x810, 1), (0x829, 0x0A), (0x910, seq), (0x919, 0x40), (0x2000, 0x44), (0x2001, 0x4E),
            (0x2002, 0x58), (0x2003, 0x49), (0x2004, 4), (0x4001, 0x20), (0x4013, 4)] ++ if core = 0 then [] else [(0x4018, core)]
    launches := l
    domains := [{}, { context with queues := [{ queue := 5, block := 0x800, tail := 1 }] }] }

theorem witness_doorbell : let s := launching 1 1
    fld (5 : Dword) 63 17 = 0 ∧ s.bringUp = 8 ∧ s.findQueue (fld (5 : Dword) 16 0) = some (1, { queue := 5, block := 0x800, tail := 1 }) ∧
    (s.domain 1).reachedBy 0 = true ∧ (s.domain 1).tdiRun = true ∧ (∀ l ∈ s.launches, l.asid = 1 → l.st ≠ .depends) ∧ s.findQueue 6 = none := by
  decide

theorem witness_accept : let s := launching 1 1
    let w : WorkQ := { queue := 5, block := 0x800, tail := 1 }
    w.stopped = false ∧ s.workType 1 w = 0 ∧ s.blockField 1 w.block 0x0C 2 = 1 ∧ s.blockField 1 w.block 0x18 8 + 1 = 1 ∧
    s.blockField 1 w.block 0x20 8 = 0 ∧ s.blockField 1 w.block 0x00 8 + 16 * (1 % s.workDepth 1 w) = 0x910 ∧
    (1 ≤ w.tail ∧ 1 ≤ 0 + s.workDepth 1 w ∧ 0 < 1 ∧ 1 ∉ w.written) ∧ w.rung = false ∧
    (s.answered 1 0x910 16).blockField 1 0x910 0 8 = 1 ∧ ((launching 2 1).answered 1 0x910 16).blockField 1 0x910 0 8 ≠ 1 ∧
    (s.answered 1 0x910 16).blockField 1 0x910 8 8 = 0x4000 := by decide +kernel

set_option maxRecDepth 20000 in
theorem witness_accept_asks : (launching 1 1).recordReady 1 5 1 = (launching 1 1, true) ∧
    (launching 1 1).askRead 1 0x910 16 = (launching 1 1, false) ∧ (launching 1 1).askBytes 1 0x800 64 = (launching 1 1, false) ∧
    ((launching 1 1).answered 1 0x910 16).askRecord 1 0x4000 = ((launching 1 1).answered 1 0x910 16, false) := ⟨rfl, rfl, rfl, rfl⟩

-- a doorbell whose block's page the host must install first
theorem witness_doorbell_reads : let s := launching 1 1
    s.deviceClear 1 0x800 64 = true ∧ (s.deviceRead 1 0x810 8).isSome = true ∧
    ({ s with stores := [{ live := true, line := 0x800, st := .forwarded, bytes := [(0, 1)] }] } : State).deviceClear 1 0x800 64 = false := by
  decide +kernel

theorem witness_doorbell_waits : let s := { launching 1 1 with domains := [{}, { (launching 1 1).domain 1 with pages := [], ctxmode := 1 }] }
    (s.askBytes 1 0x800 64).2 = true := by decide +kernel

def readRecord (s : State) : Option Nat :=
  let u := (s.answered 1 0x910 16).consumed 1 5 1
  (u.deviceRead 1 0x4000 512).bind fun r =>
    let l := launchOfRecord 1 5 1 r
    if l.depaddr ≠ 0 then some 99 else u.rejection { l with textPkts := u.imagePkts 1 l.code } r 0x4000

theorem witness_records_read : (((launching 1 1).answered 1 0x910 16).consumed 1 5 1).deviceRead 1 0x4000 512 ≠ none ∧
    readRecord (launching 1 1) = none ∧ readRecord (launching 1 0) = some 5 := by decide +kernel

theorem witness_dependence : let l := { launch with st := .depends, depaddr := 0x810, depthresh := 1 }
    let s := launching 1 1 [l]
    s.launch? 0 = some l ∧ l.st = .depends ∧ s.deviceClear 1 0x810 8 = true ∧ s.askBytes 1 0x810 8 = (s, false) ∧
    (s.deviceReads 1 0x810 8).2 = some [1, 0, 0, 0, 0, 0, 0, 0] ∧ (s.deviceReads 1 0x820 8).2 = some [0, 0, 0, 0, 0, 0, 0, 0] ∧
    (s.deviceReads 1 0x10000 8).2 = none ∧ ((s.deviceReads 1 0x10000 8).1.recordReady 1 5 1).2 = true :=
  ⟨by decide, by decide, by decide, rfl, by decide, by decide, by decide, by decide⟩

theorem witness_start : let l := { launch with todo := [0] }
    (launching 1 1 [l]).launch? 0 = some l ∧ (launching 1 1 [l]).canStart 0 0 = true ∧ (launching 1 1 [l]).comesFirst 0 0 = false ∧
    l.qbind = [] ∧ l.det = false := by decide +kernel

theorem witness_logical_start : let l := { launch with todo := [0], control := 2 ^ 32 + 2 ^ 20 + 2 ^ 4 + 2 ^ 12 }
    l.det = true ∧ (launching 1 1 [l]).canStart 0 0 = true ∧ (launching 1 1 [l]).comesFirst 0 0 = false ∧
    (launching 1 1 [l]).planned l 0 = [0] := by decide +kernel

-- WaveSteps: an initial wave, a handler wave and a child to place; threads that have ended
def placing (x : LC) (d : Die := {}) (t : Thread := wave) : State :=
  { withWave t with launches := [{ launch with running := [0], place := 3 }], lcs := [x], dies := [d] }

theorem witness_initial_wave : let s := placing { onCore with toPlace := 1, toHandle := [(0x100, 1)] }
    let l := { launch with running := [0], place := 3 }
    let x := s.lc 0
    s.launch? x.launch = some l ∧ (s.freeSlots x.core).head? = some 0 ∧ x.live = true ∧ (s.domain x.asid).starts = true ∧ x.toPlace ≠ 0 ∧
    l.stash * 4096 ≤ s.freeStash x.core ∧ x.toHandle = [(0x100, 1)] ∧ x.handler = none := by decide +kernel

def child0 : Child := { lc := 0, core := 0, cls := 1, lanes := 2, entry := 3, arg0 := 0, arg1 := 0, counter := 0, depth := 1, curtag := 0, bin := 4 }

theorem witness_child : ∀ live ∈ [true, false], let s := placing { onCore with live := live } { turn := [child0] }
    let l := { launch with running := [0], place := 3 }
    (s.die 0).turn = [child0] ∧ (s.domain (s.lc child0.lc).asid).starts = true ∧ s.launch? (s.lc child0.lc).launch = some l ∧
    s.wavesWait child0 (s.lc child0.lc).launch l = false ∧ s.childCore child0 (s.lc child0.lc).launch l = some 0 ∧ child0.waveid = none ∧
    findIdx? (fun x => x.live && x.launch = (s.lc child0.lc).launch && x.core = 0) s.lcs = (if live then some 0 else none) ∧
    l.qbind = [] := by decide +kernel

-- a child of a deterministic launch, with the WAVEID of its spawning, and a handler wave of one
theorem witness_deterministic_child : let c : Child := { child0 with waveid := some 9 }
    let l : Launch := { launch with running := [0], place := 3, control := 2 ^ 32 + 2 ^ 20 + 2 ^ 4 }
    let s : State := { placing { onCore with toHandle := [(0x100, 1)] } { pend := [c] } with launches := [l] }
    l.det = true ∧ (s.die 0).turn = [] ∧ (s.die 0).nextBin = none ∧ (s.die 0).detHeads.head? = some c ∧
    (s.domain (s.lc c.lc).asid).starts = true ∧ s.launch? (s.lc c.lc).launch = some l ∧ s.wavesWait c (s.lc c.lc).launch l = false ∧
    s.childCore c (s.lc c.lc).launch l = some 0 ∧ findIdx? (fun x => x.live && x.launch = (s.lc c.lc).launch && x.core = 0) s.lcs = some 0 ∧
    (s.lc 0).handler = none ∧ (s.freeSlots 0).head?.isSome = true := by decide +kernel

theorem witness_turn : ((placing onCore { pend := [child0] }).die 0).turn = [] ∧ ((placing onCore { pend := [child0] }).die 0).nextBin = some 4 := by
  decide +kernel

theorem witness_retirement : ∀ k ∈ [ThreadKind.initial, .lead], ∀ n ∈ [0, 64],
    let s := { placing onCore {} { wave with kind := k, lanes := [{ lane 0 [] with st := .exited }], counter := n } with hclk := 4 }
    let o := s.thread 0
    o.isLead = decide (k = .lead) ∧ s.mayRetire 0 = true ∧ o.cast = none ∧ o.posted = [] ∧ o.counter = n ∧
    (s.launchOf 0).map (·.energy) = some 0 ∧ (s.domain (s.ctxOf 0)).page 64 = some ⟨0, 16, 0, true, true⟩ := by decide +kernel

-- FinishSteps: a launch-on-core with nothing left, one with energy to add, one with a dirty window, one whose adds are performed
def finishing (x : LC) (energy : Nat) : State :=
  { launches := [{ launch with energy := energy, compctr := 64, running := [0] }], domains := [{}, context], lcs := [x] }

def dirty : LC := { onCore with windows := [{ mapped := true, record := record 0 64 2 1, span := 256,
                                              entries := [{ off := 128, expiry := 4, data := [], dirty := 3, writers := [0] }] }] }

theorem witness_finish_core : ∀ x ∈ [onCore, dirty, { onCore with finishing := some [], lead := some 0 }], ∀ e ∈ [0, 128],
    let s := finishing x e
    let l : Launch := { launch with energy := e, compctr := 64, running := [0] }
    s.launch? (s.lc 0).launch = some l ∧ (s.lc 0).live = true ∧ (s.domain (s.lc 0).asid).goes = true ∧ s.onlyCommands 0 = true ∧
    (s.unit 1 0).cmdsAll = [] ∧ (s.unit 1 0).tags = [] := by decide +kernel

theorem witness_finish_forms : let p : Page := ⟨0, 16, 0, true, true⟩
    onCore.finishing = none ∧ onCore.windows = [] ∧ (∀ k, k < 8 → ((finishing onCore 128).domain 1).page (128 + 8 * k) = some p) ∧
    p.r = true ∧ p.w = true ∧ ((finishing dirty 0).window 0 0).mapped = true ∧
    (((finishing dirty 0).window 0 0).entries.map fun e => (e.off, decide (e.dirty ≠ 0))) = [(128, true)] ∧
    (((finishing dirty 0).domain 1).place (((finishing dirty 0).window 0 0).base + 128)).isSome = true ∧
    (finishing { onCore with finishing := some [], lead := some 0 } 128).storesDone [] = true ∧
    ((finishing onCore 128).domain 1).page 64 = some p := by decide +kernel

theorem witness_finish : let l : Launch := { launch with seq := 1 }
    let s := { launching 1 1 [l] with lcs := [{ onCore with live := false }] }
    s.launch? 0 = some l ∧ l.st = .eligible ∧ l.todo = [] ∧ l.running = [] ∧ (∀ y ∈ s.lcs, y.live = false) ∧
    (s.domain 1).workq 5 = some { queue := 5, block := 0x800, tail := 1 } ∧
    (s.deviceWrite 1 (s.blockField 1 0x800 0x28 8 + 32 * (1 % s.workDepth 1 { queue := 5, block := 0x800, tail := 1 }))
      (bytesOf 8 1 ++ bytesOf 8 0 ++ bytesOf 8 s.clock64 ++ bytesOf 8 0)).isSome = true ∧ s.blockField 1 0x800 0x20 8 + 1 = l.seq := by
  decide +kernel

set_option maxRecDepth 20000 in
theorem witness_finish_record : let s := { launching 1 1 [{ launch with seq := 1 }] with lcs := [{ onCore with live := false }] }
    s.recordReady 1 5 1 = (s, true) := rfl

theorem witness_audit_blocks : let s := launching 1 1
    (s.deviceRead 1 0x800 64).isSome = true ∧ s.deviceClear 1 0x800 64 = true := by decide +kernel

theorem witness_audit : (0 : Nat) < (atWord.die 0).audit + 4096 ∧ ({ atWord with hclk := 4096 } : State).hclk ≥ (atWord.die 0).audit + 4096 := by
  decide +kernel

-- BenchStartSteps: each command at the head of q0, and started
def bench (i : Instr) (w2 : Dword) (f : Cmd → Cmd := id) (u : Unit_ := {}) : State :=
  let c := f { id := 1, i := i, dom := 1, mask := 3, w2 := w2, recs := [record 0 4096 0, record 0 2048 0 0 true], fmts := [5, 7] }
  { withWave wave with domains := [{}, { context with units := [{ u with q0 := [c], grants := 1 }] }] }

def headMayStart (s : State) : Bool :=
  match (s.unit 1 0).head 0 with
  | some c => (s.domain 1).starts && !headStuck c ((s.unit 1 0).behind 0 c.id) && c.count = 0 && s.tilesFree 1 0 c && (s.unit 1 0).unitFree c
  | none => false

theorem witness_q0_heads : headMayStart (bench (.wbswap 0) 0) && headMayStart (bench (.wbzero 0 2) 0) && headMayStart (bench (.wbload 0 1) 0) &&
    headMayStart (bench (.tadd 0 2) 0x10) && headMayStart (bench (.tsub 0 2) 0x10) && headMayStart (bench (.tshl 0 2) 0x300) &&
    headMayStart (bench (.tmov 0 2) 0) && headMayStart (bench (.tneg 0 2) 0) && headMayStart (bench (.tslice 0 2) 0) &&
    headMayStart (bench (.wbmac 0 2 0) 0x10000) && headMayStart (bench (.wbmacp 0 2 0 0) 0x10000) = true := by decide +kernel

theorem witness_bare_tiles : let u := (bench (.tadd 0 2) 0x10).unit 1 0
    (∀ n, n < 16 → (u.tile n).links = [] ∧ (u.tile n).covers = [] ∧ u.isSource n = false ∧ u.settled n = true) ∧
    (∀ c ∈ u.q0, c.ltag = none) ∧ (∀ n, n < 64 → (u.tag n).live = false) ∧ (u.linear 0 2 1 1 (u.tile 0) (u.tile 1) 3).isSome = true ∧ u.reserved 0 2 ≤ 4 := by
  decide +kernel

theorem witness_banks : let s := bench (.wbmac 0 2 0) 0x10000 id { bank0 := { valid := true, kb := 1, codes := [1, 2] } }
    (s.unit 1 0).bank.valid = true ∧ 1 ≤ (s.unit 1 0).bank.kb ∧ ((bench (.wbmac 0 2 0) 0x10000).unit 1 0).bank.valid = false ∧
    (∀ c ∈ (s.unit 1 0).q0,
      (readRows c.mask (fun i => s.readA c 0 (fmtType (c.fmt 0)) i 1) (List.range 32)).toOption.isSome = true ∧
      (readRows c.mask (fun i => s.readEA c 0 (c.fmt 0) i (ceilDiv 1 16)) (List.range 32)).toOption.isSome = true) := by decide +kernel

def started (i : Instr) (w2 : Dword) (got : List (List Nat) := []) : State :=
  bench i w2 fun c => { c with st := .started, got := got, cells := List.replicate 32 (List.replicate 128 0) }

theorem witness_q0_ends : ∀ i ∈ [Instr.tadd 0 2, .tsub 0 2, .tshl 0 2, .tmov 0 2, .tneg 0 2, .tslice 0 2, .wbzero 0 2, .wbswap 0, .wbload 0 1],
    let s := started i 0
    (s.domain 1).starts = true ∧ ((s.unit 1 0).cmd 1).isSome = true ∧ (∀ c ∈ (s.unit 1 0).q0, c.i = i ∧ c.st = .started ∧ c.succ0 = 0 ∧ c.succ1 = 0 ∧
      c.bbcount = 0 ∧ c.late = none ∧ ∀ r ∈ c.cells, r.length = 128) ∧ (∀ n, n < 64 → ((s.unit 1 0).tag n).live = false) := by decide +kernel

theorem witness_loader_ready : let s := started (.wbload 0 1) 0
    let c := rd {} (s.unit 1 0).q0 0
    let ls := rangeLines (elemRanges (c.rec_ 0) 0 32 1)
    c.got.length < ceilDiv 1 4 ∧ (∀ va ∈ ls, s.lineClear c.lc 0 c.dom va = true) ∧
    ((ls.foldl (fun s va => s.engineLine c.lc c.dom va) s).recElems c 0 (c.rec_ 0) 1 0 32).toOption.isSome = true ∧
    (rd ({} : Cmd) ((started (.wbload 0 1) 0 [[0]]).unit 1 0).q0 0).got.length = ceilDiv 1 4 + 0 ∧ fmtScale (c.fmt 1) ≠ 1 := by decide +kernel

theorem witness_loader_pages : let s := started (.wbload 0 1) 0
    let c := rd {} (s.unit 1 0).q0 0
    s.cmdPages 1 0 c .load (rangeLines (elemRanges (c.rec_ 0) 0 32 1)) = (s, false) := rfl

-- a loader whose next bytes cannot be read
theorem witness_loader_fails : let s : State := { started (.wbload 0 1) 0 with lines := [{ addr := 0, poisoned := true }] }
    let c := rd {} (s.unit 1 0).q0 0
    let ls := rangeLines (elemRanges (c.rec_ 0) 0 32 1)
    (∀ va ∈ ls, s.lineClear c.lc 0 c.dom va = true) ∧
    ((ls.foldl (fun s va => s.engineLine c.lc c.dom va) s).recElems c 0 (c.rec_ 0) 1 0 32).toOption = none := by decide +kernel

-- PlaneAndPromptSteps: a contraction in its planes, before and after it has published; a prompt that is owed; a proxy that is done
def planes (tag : Option Nat) (next : Int) : State :=
  bench (.wbmac 0 2 0) 0x10000 (fun c => { c with st := .started, next := next, h := 3, pub := 3, ltag := tag, published := tag.isSome,
                                                  a := [[3], [5]], ea := [[0], [0]] })
    { bank0 := { valid := true, kb := 1, codes := [1, 2] }, tags := [{ live := true, cmd := some 1 }] }

theorem witness_planes : ∀ q ∈ [0, 1], let s := planes none q
    let u := s.unit 1 0
    (s.domain 1).starts = true ∧ (u.q0.find? (fun c => c.st = .started && c.mac.isSome)).isSome = true ∧
    (∀ c ∈ u.q0, c.mac = some (2, 5, none) ∧ c.ltag = none ∧ (u.tile 2).linked &&& c.mask = 0 ∧
      (((u.tile 2).addPlane c.mask (s.planeBlocks 1 0 c 2 c.next.toNat)).1.rows.any fun r => r.any fun x => !wideOk x) = false) := by
  decide +kernel

-- a plane that takes a cell out of the ACC48 range under policy 11
def overflowing : State :=
  bench (.wbmac 0 2 0) 0x10000 (fun c => { c with st := .started, h := 3, a := [[3], [5]], ea := [[0], [0]], fmts := [0x3005] })
    { bank0 := { valid := true, kb := 1, codes := [1, 2], exps := [0] }, tiles := [{}, {}, { rows := [[2 ^ 47 - 1]] }] }

theorem witness_plane_overflows : let u := overflowing.unit 1 0
    ∀ c ∈ u.q0, c.mac = some (2, 0x3005, none) ∧ c.ltag = none ∧ fld (0x3005 : Fmt) 13 12 = 3 ∧ c.mask.getLsbD 0 = true ∧
      (let v := (u.tile 2).cell 0 0 + contribution 1 0
       ((overflowing.planeBlocks 1 0 c 2 c.next.toNat).head?.bind (·.head?)) = some [(1, 0)] ∧ v > 2 ^ 47 - 1) ∧
      (((u.tile 2).addPlane c.mask (overflowing.planeBlocks 1 0 c 2 c.next.toNat)).1.rows.any fun r => r.any fun x => !wideOk x) = false := by
  decide +kernel

theorem witness_prompt_formed : let u := (planes (some 0) 2).unit 1 0
    (∀ c ∈ u.q0, c.st = .started ∧ c.ltag = some 0 ∧ c.published = true ∧ c.next.toNat ≠ 0 ∧ c.next.toNat ≠ c.pub) ∧ u.promptsHeld < 8 := by
  decide +kernel

def prompting (u : Unit_) (more : List Unit_ := []) (c : List Cmd := []) : State :=
  { domains := [{}, { context with units := { u with q2 := c } :: more }] }

theorem witness_prompt_owed : let u := (prompting { prompts := [{ tag := 0, plane := 2, rows := [], mask := 3 }] }).unit 1 0
    findIdx? u.promptOwed u.prompts = some 0 ∧ (rd ({ tag := 0, plane := 0, rows := [], mask := 0 } : Prompt) u.prompts 0).remote = [] := by
  decide +kernel

theorem witness_proxy_done : let s := prompting { tags := [{ live := true, proxies := [(1, 0)] }] } [{ tags := [{ live := true, formed := true, atLast := true, proxyOf := some (0, 0) }] }]
    ((List.range 64).flatMap fun k => ((s.unit 1 0).tag k).proxies.map fun p => (k, p)).find?
      (fun x => (s.unit 1 x.2.1).tagDone x.2.1 x.2.2) = some (0, 1, 0) := by decide +kernel

theorem witness_cered_lands : let c : Cmd := { id := 1, i := .cered 0 3 .add, st := .started }
    let s := prompting {} [] [c]
    (s.unit 1 0).q2 = [c] ∧ (turned (s.unit 1 0).q2 (s.hclk + s.copyTurn)).find? (fun x => decide (x.st = .started) &&
      match x.i with
      | .cered _ _ _ => true
      | _ => false) = some c ∧ (s.channel 1 0 (tcore c.w2)).frozen = false ∧ c.links = [] ∧ ((s.unit 1 (tcore c.w2)).tile 3).links = [] ∧
    ((s.unit 1 (tcore c.w2)).tile 3).covers = [] ∧ (s.unit 1 (tcore c.w2)).isSource 3 = false ∧
    ({ s.unit 1 0 with q2 := (s.unit 1 0).q2.filter fun y => decide (tcore c.w2 ≠ 0) || decide (y.id ≠ c.id) } : Unit_).reserved 0 3 ≤ 4 := by
  decide +kernel

-- PairCopyAndNodeSteps: commands of the Pair at their head, with what they have read
def pairing (i : Instr) (w2 w3 : Dword) (got : List (List Nat) := []) (p : Pair := {}) : State :=
  let c : Cmd := { id := 1, i := i, dom := 1, mask := 3, w2 := w2, w3 := w3, got := got, fmts := [5, 7, 3],
                   recs := [record 0 8192 0, record 0 2048 0 0 true, record 8192 1024 2] }
  { withWave wave with domains := [{}, { context with units := [{ q1 := [c], pair := p }] }] }

def pairMayStart (s : State) : Bool :=
  match (s.unit 1 0).head 1 with
  | some c => (s.domain 1).starts && ((s.unit 1 0).q1.find? fun x => x.st = .started) = none && !headStuck c ((s.unit 1 0).behind 1 c.id) && c.count = 0 && s.tilesFree 1 0 c &&
      (s.unit 1 0).cmd c.id = some c && c.pairTile.all fun n => (s.unit 1 0).settled n && !(s.unit 1 0).isSource n
  | none => false

theorem witness_pair_starts : pairMayStart (pairing (.apcfg 0) 0 0) && pairMayStart (pairing (.apqk 0 2) 0x800080 0x100000000) &&
    pairMayStart (pairing (.appv 0 4 2 false false) 64 0) && pairMayStart (pairing (.apresc 0 4) 0 0) &&
    pairMayStart (pairing (.apnorm 0 4 false) 0 0) && pairMayStart (pairing (.apnorm 0 0 true) 0x200000000 0) = true := by decide +kernel

-- a row that can be read, and one that cannot
def pairRow (s : State) (first n : Nat) : Option (List Nat) :=
  let c := rd {} (s.unit 1 0).q1 0
  let ls := rangeLines (elemRanges (c.rec_ 0) first n 1)
  if ls.all fun va => s.lineClear c.lc 0 c.dom va then ((ls.foldl (fun s va => s.engineLine c.lc c.dom va) s).recElems c 0 (c.rec_ 0) 1 first n).toOption else none

theorem witness_pair_rows : pairRow (pairing (.apqk 0 2) 0x800080 0x100000000) 0 4 = some [0, 0, 0, 0] ∧
    pairRow { pairing (.apqk 0 2) 0x800080 0x100000000 with lines := [{ addr := 0, poisoned := true }] } 0 4 = none := by decide +kernel

theorem witness_pair_pages : let s := pairing (.apqk 0 2) 0x800080 0x100000000
    let c := rd {} (s.unit 1 0).q1 0
    s.cmdPages 1 0 c .load (rangeLines (elemRanges (c.rec_ 0) 0 4 1)) = (s, false) ∧ s.cmdPages 1 0 c .store (rangeLines []) = (s, false) := ⟨rfl, rfl⟩

theorem witness_pair_ends : let s := pairing (.apqk 0 2) 0x800080 0x100000000 (List.replicate 33 [1, 2]) { d := 2 }
    let c := rd {} (s.unit 1 0).q1 0
    c.got.length = 32 + fld c.w3 37 32 ∧ (∀ r ∈ c.got, r.length = (s.unit 1 0).pair.d) ∧
    (let c := rd ({} : Cmd) ((pairing (.appv 0 4 2 false false) 64 0 [List.replicate 64 1] { nk := 1 }).unit 1 0).q1 0
     c.got.length = 1 ∧ ∀ r ∈ c.got, r.length = 64) := by decide +kernel

theorem witness_pair_statistics : let s := pairing (.apnorm 0 0 true) 0x200000000 0
    let c := rd {} (s.unit 1 0).q1 0
    let r := c.rec_ (fld c.w2 35 32)
    (s.recWrite c 0 r ((List.range 64).flatMap fun i => (List.range 4).map fun k => ((r.elemOff i 4).1 + k, 0))).2.2 = none := by decide +kernel

-- the commands of the Copy Engine at their head, in a line and between units
def copying (i : Instr) (w2 w3 : Dword) (f : Cmd → Cmd := id) (more : Unit_ := {}) : State :=
  let c := f { id := 1, i := i, dom := 1, mask := 3, w2 := w2, w3 := w3, fmts := [5, 7, 3, 0],
               recs := [record 0 4096 0, record 0 2048 0 0 true, record 8192 1024 2, record 4096 4096 0] }
  { withWave wave with domains := [{}, { context with units := [{ more with q2 := [c] }] }] }

def copyMayStart (s : State) : Bool :=
  match (s.unit 1 0).head 2 with
  | some c => (s.domain 1).starts && !headStuck c ((s.unit 1 0).behind 2 c.id) && c.count = 0 && s.tilesFree 1 0 c && (s.unit 1 0).cmd c.id = some c &&
      decide ((turned (s.unit 1 0).q2 (s.hclk + s.copyTurn)).find? (s.copyCan 1 0) = some c) && (c.copyTile.all fun n => (s.unit 1 0).settled n) && ((s.unit 1 0).q2.filter fun x => x.st = .started).length < if s.det c.tid then 1 else 4
  | none => false

theorem witness_copy_starts : copyMayStart (copying (.cecopy 0 0 false) 0x3000000010 0) && copyMayStart (copying (.cecopy 0 4 true) 0x3000000010 0) &&
    copyMayStart (copying (.celist 0) 1 0) && copyMayStart (copying (.cerope 0 3 3) 0x1222000000001 0) &&
    copyMayStart (copying (.cepatch 0 3 true) 0x1022201000000 0) && copyMayStart (copying (.cereq 0 0 2) 0x3000010010 0) &&
    copyMayStart (copying (.cefill 0) 16 0) && copyMayStart (copying (.cered 0 4 .add) 0 0) = true := by decide +kernel

theorem witness_copy_line : let s := copying (.cefill 0) 16 0
    let c := rd {} (s.unit 1 0).q2 0
    c.unit < c.copyUnits ∧ c.entryHeld = some [] ∧ ((s.unitSpans 1 0 c []).toOption.map fun xs => (xs.flatMap (·.lines)).length) = some 1 ∧
    (∀ x ∈ ((s.unitSpans 1 0 c []).toOption).getD [], ∀ e, e < 16 → (x.src s e).toOption.isSome = true) ∧
    (s.recWrite c 0 (c.rec_ 0) ((List.range 16).map fun o => (o, 0))).2.2 = none ∧
    (let d := rd ({} : Cmd) ((copying (.cefill 0) 16 0 fun c => { c with line := 1 }).unit 1 0).q2 0; d.line = 1 ∧ d.unit < d.copyUnits) ∧
    (let d := rd ({} : Cmd) ((copying (.cefill 0) 16 0 fun c => { c with unit := 1 }).unit 1 0).q2 0; d.copyUnits ≤ d.unit) := by decide +kernel

theorem witness_copy_pages : let s := copying (.cecopy 0 0 false) 0x3000000010 0
    let c := rd {} (s.unit 1 0).q2 0
    s.cmdPages 1 0 c .load [0] = (s, false) ∧ s.cmdPages 1 0 c .store [4096] = (s, false) := ⟨rfl, rfl⟩

theorem witness_copy_fails : let s := copying (.celist 0) 1 0 fun c => { c with entry := some (List.replicate 32 255) }
    let c := rd {} (s.unit 1 0).q2 0
    c.entryHeld = some (List.replicate 32 255) ∧ (s.unitSpans 1 0 c (List.replicate 32 255)).toOption.isSome = false := by decide +kernel

theorem witness_copy_entries : let s := copying (.celist 0) 1 0
    let c := rd {} (s.unit 1 0).q2 0
    c.unit < c.copyUnits ∧ c.entry = none ∧ (∀ va ∈ rangeLines (elemRanges (c.rec_ 0) 0 32 1), s.lineClear c.lc 0 c.dom va = true) ∧
    (s.recElems c 0 (c.rec_ 0) 1 0 32).toOption.isSome = true ∧ (s.unitSpans 1 0 c (List.replicate 32 0)).toOption.isSome = true := by decide +kernel

theorem witness_patch_pages : let s := copying (.cepatch 0 3 true) 0x1022201000000 0
    let c := rd {} (s.unit 1 0).q2 0
    let pl := c.rec_ (fld c.w2 35 32)
    c.unit < c.copyUnits ∧ c.entry = none ∧ s.reachTrap c pl 0 1 4 = none ∧ ([0, 0].mapM fun n => s.recElem c 0 pl n 4).toOption.isSome = true ∧
    s.reachTrap c (c.rec_ (fld c.w2 39 36)) (0 * 2) 2 4 = none := by decide +kernel

-- a token whose page list element lies past the extent
theorem witness_patch_fails : let s := copying (.cepatch 0 3 true) 0x10222010007D0 0
    let c := rd {} (s.unit 1 0).q2 0
    c.unit < c.copyUnits ∧ c.entry = none ∧ fld c.w2 23 0 / 2 ^ fld c.w2 47 44 = 2000 / 2 ^ fld c.w2 47 44 ∧
    s.reachTrap c (c.rec_ (fld c.w2 35 32)) (2000 / 2 ^ fld c.w2 47 44) 1 4 ≠ none := by decide +kernel

theorem witness_cered_starts : let s := copying (.cered 0 4 .add) 0 0
    let u := s.unit 1 0
    (u.tile 0).links = [] ∧ (u.tile 4).links = [] ∧ u.isSource 4 = false ∧ u.reserved 0 4 ≤ 4 ∧ channelOf 0 0 = none ∧ channelOf 0 48 ≠ none ∧
    (let t : State := { s with domains := [{}, { context with units := s.domains.flatMap (·.units), channels := List.replicate 16 { permits := 1 } }] }
     (t.channel 1 0 48).frozen = false ∧ (t.channel 1 0 48).permits ≠ 0) := by decide +kernel

theorem witness_engine_bytes : let s := copying (.cefill 0) 16 0
    (record 0 2048 0 0 true).stash = true ∧ (record 0 2048 0 0 true).base % 2 ^ 21 < 2 ^ 20 ∧ Memory.wf (s.lc (s.thread 0).lc).lstash = true ∧
    (record 0 4096 0).stash = false ∧ s.translate 0 1 (lineOf 5) .store = .ok 0 ∧ s.windowAt 0 1 (lineOf 5) = none := by decide +kernel

-- nodes that complete: no add, a byte barrier, a successor; a settle stamp of a settled tile
def completing (f : Cmd → Cmd) (more : List Cmd := []) : State :=
  { (copying (.cefill 0) 16 0 fun c => f { c with st := .storing }) with
    domains := [{}, { context with units := [{ q2 := [f { id := 1, i := .cefill 0, dom := 1, st := .storing }] ++ more }] }] }

theorem witness_nodes : let plain := completing id
    let bar := completing fun c => { c with bbcount := 2, bbaddr := 16 }
    let pair := completing (fun c => { c with succ0 := 7 }) [{ id := 2, i := .cefill 0, node := 7, count := 1 }]
    ((plain.unit 1 0).cmd 1).isSome = true ∧ (plain.domain 1).goes = true ∧ bar.windowAt 0 1 16 = none ∧
    (bar.domain 1).page 16 = some ⟨0, 16, 0, true, true⟩ ∧ (((pair.unit 1 0).dropCmd 1).node 0 7).map (·.count) = some 1 := by decide +kernel

theorem witness_node_page : let bar := completing fun c => { c with bbcount := 2, bbaddr := 16 }
    bar.cmdPage 1 0 (rd {} (bar.unit 1 0).q2 0) 16 .atomic = (bar, false) := rfl

theorem witness_settle_stamp : let p : Stamp := { tid := 0, tile := 2, grant := 0, id := 5, curtag := 0 }
    let s := { stamping 5 [p] 4 with lcs := [{ onCore with stamps := [p] }] }
    (s.domain (s.lc 0).asid).goes = true ∧ (s.lc 0).adds = [] ∧ (s.lc 0).stamps.find? (s.stampReady (s.lc 0)) = some p ∧
    (s.launch? (s.lc 0).launch).map (·.stampbuf) = some 256 ∧ s.poisoned 256 = false ∧ (s.domain (s.lc 0).asid).page 256 ≠ none ∧ s.translate 0 1 256 .atomic = .ok 256 := by
  decide +kernel

-- RegionAndGateSteps: a region to open, one whose x0 has come, one whose pass is over, one that has committed
def opening : State :=
  withWave { wave with cast := some 2, rlx := some ([1, 0, 0], record 0 16 2, 0), wait := some .region }

theorem witness_region_opens : opening.regionCtx 0 = none ∧
    (indices (fun t => t.alive && t.core = 0 && t.rlx.isSome) opening.threads).findSome?
      (fun z => if (opening.domain (opening.ctxOf z)).starts then (opening.readyWaves z).map fun w => (z, w) else none) =
        some (0, [0], [1, 0, 0], record 0 16 2) := by decide +kernel

theorem witness_region_places : let c : State := { opening with cur := issueOf 0 (opening.thread 0) 0 0 }
    let ps : Lanes := [(0, c.checkAccess (opening.thread 0) (record 0 16 2) 0 4 .load false)]
    c.reserve ps = c ∧ c.judge 0 ps .load = [] ∧ (∀ p ∈ ps, c.stashFlawed 0 p.2 4 = false) ∧
    linesOf ps ≠ [] := ⟨rfl, by decide +kernel⟩

def region (r : Region) : State := { withWave { wave with cast := some 2 } with domains := [{}, { context with units := [{ region := some r }] }] }

def opened : Region := { lc := 0, cast := 2, desc := [1, 0, 0], record := record 0 16 2, waves := [0], starts := [3], wants := [(none, 5)], steps := [{}, {}] }

theorem witness_regions : ∀ st ∈ [RegionSt.opening, .pass, .commit], let s := region { opened with st := st, rlxend := some 5 }
    s.regionGoes 0 = some 1 ∧ (s.unit 1 0).region = some { opened with st := st, rlxend := some 5 } ∧ opened.pc = 0 ∧ opened.sc = 0 ∧
    (∀ w ∈ opened.wants, w.1 = none) ∧ opened.waves.Nodup ∧ opened.starts.length = opened.waves.length ∧ opened.toSend = [] ∧
    s.commitOut opened = [] := by decide +kernel

theorem witness_pass_over : let r := { opened with st := .pass }
    let s : State := { region r with threads := [{ wave with lanes := wave.lanes.map fun L => { L with hold := .region } }] }
    s.passOver r = true := by decide +kernel

def returning (b : Banked) (hold : Hold) : State :=
  withWave { wave with acts := [b], wtime := 9, lanes := [{ lane 0 [] with hold := hold }, { lane 0 [] with hold := hold }] }

theorem witness_return : let s := returning { act := 3 } .retg
    (s.thread 0).acts = [{ act := 3 }] ∧ (s.thread 0).alive = true ∧ (s.thread 0).stopped = false ∧ s.nonePending 0 = true ∧
    s.calleeAtoms 0 (s.thread 0).gdepth = false ∧
    ({ s with stores := [{ live := true, tids := [0], dom := 1, depth := 1, kind := .add 0 1 }] } : State).calleeAtoms 0 (s.thread 0).gdepth = true ∧
    (∀ l, l < 32 → (3 : Mask).getLsbD l = true → ((s.thread 0).lane l).hold = .retg) ∧
    (let s := returning { act := 3, budget := 4 } .no; (4 : Nat) ≠ 0 ∧ 4 < (s.thread 0).wtime - 0 ∧ (s.domain (s.ctxOf 0)).running = true ∧ (s.thread 0).run = none) := by decide +kernel

-- ContextAndResetSteps
def switching (d : Domain) (stopped : Bool) (sched : List (Nat × Nat) := []) : State :=
  { withWave { wave with stopped := stopped } with domains := [{}, d], schedule := sched, hclk := 7 }

theorem witness_preempt : ∀ st ∈ [true, false], ∀ h ∈ [true, false], let s := switching { context with halting := h } st
    (s.domain 1).alive = true ∧ (s.domain 1).wing = false ∧ (s.domain 1).running = true ∧ s.stopFirst 1 = false ∧ s.allStopped 1 = st ∧
    (s.domain 1).halting = h ∧ s.returnsOut 1 = false ∧ ({ s with reqs := [load0] } : State).returnsOut 1 = true ∧ s.atCheckpoints 1 = true ∧
    ({ s with domains := [{}, { context with halting := h, units := [{ q0 := [{ i := .tadd 0 1, st := .started }] }] }] } : State).atCheckpoints 1 = false := by
  decide +kernel

theorem witness_restore : let s := switching { context with running := false } true
    s.switching = none ∧ (s.domain 1).alive = true ∧ (s.domain 1).wing = false ∧ (s.domain 1).running = false ∧ (s.domain 1).gang = s.gang ∧
    s.mayReturn 1 = true ∧ s.stopFirst 1 = false := by decide +kernel

theorem witness_gang : ∀ n ∈ [3, 9], let s := switching { context with running := false } true [(n, 2)]
    s.switching = none ∧ s.schedule = [(n, 2)] ∧ s.hostSwitches s.gang = false ∧ s.hostSwitches 2 = false ∧ s.switchedIn = [] ∧ (s.hclk = 7) ∧
    -- a gang that the host alone switches
    (switching { context with running := false, gang := 2, ctxmode := 8 } true [(n, 2)]).hostSwitches 2 = true ∧
    (switching { context with running := false, gang := 2, ctxmode := 8 } true [(n, 2)]).hostSwitches 0 = false := by decide +kernel

theorem witness_debug_stop : ∀ n ∈ [3, 9], ∀ stopped ∈ [true, false], ∀ h ∈ [true, false],
    let s := switching { context with stop := .armed, stopAt := n, halting := h } stopped
    let d := s.domain 1
    d.alive = true ∧ d.stop = .armed ∧ d.running = true ∧ s.ctxThreads 1 = [0] ∧ (s.thread 0).stopped = stopped ∧
    s.coreClock 0 = 7 ∧ s.ctxCores 1 = [0] ∧ s.returnsOut 1 = false ∧ Memory.wf s.mem = true ∧ d.stopClk = none ∧
    d.halting = h ∧ s.atCheckpoints 1 = true ∧ s.outClear [(hostPlace d.stopArea, d.storsize + 64)] = true ∧
    ({ s with stores := [{ live := true, st := .arrived, line := hostPlace d.stopArea, bytes := [(0, 1)] }] } : State).outClear
      [(hostPlace d.stopArea, d.storsize + 64)] = false := by decide +kernel

theorem witness_sample : ∀ n ∈ [3, 9], let s := switching { context with sampling := true, period := n } true
    (s.domain 1).alive = true ∧ (s.domain 1).sampling = true ∧ (s.domain 1).debug = true ∧ (s.domain 1).running = true ∧
    (decide ((max (s.domain 1).sampleFrom (s.unit 1 0).sampled / max 1 n + 1) * max 1 n ≤ s.coreClock 0) = decide (n = 3)) := by decide +kernel

-- HostDomainCommands and HostRunCommands: a command block of context 1 with arguments
def block (op asid : Nat) (args : List Nat) : List Byte :=
  bytesOf 4 op ++ bytesOf 2 asid ++ bytesOf 2 0 ++ (List.range 7).flatMap fun k => bytesOf 8 (rd 0 args k)

def host (op asid : Nat) (args : List Nat) (d : Domain := context) (s : State := {}) : State :=
  { s with fns := [{ busy := true, pending := some (block op asid args) }], domains := [{}, d] }

def asked (op n : Nat) (s : State) : Bool :=
  match (s.fn 0).pending with
  | some b => s.bringUp = 8 && leAt b 0 4 = op && leAt b 6 2 = 0 && (List.range 7).all (fun k => k < n || leAt b (8 + 8 * k) 8 = 0) &&
      (s.domain (leAt b 4 2)).reachedBy 0
  | none => false

theorem witness_commands : ∀ x ∈ ([(2, 0), (3, 1), (4, 2), (5, 2), (6, 3), (7, 3), (8, 2), (9, 4), (10, 1), (11, 2), (12, 3), (13, 0), (14, 3), (15, 2),
    (16, 1), (17, 2)] : List (Nat × Nat)),
    asked x.1 x.2 (host x.1 1 []) = true ∧ isPhysical (context.fn) = true ∧
    ¬ (∀ k, x.2 ≤ k → k < 7 → leAt (block x.1 1 (List.replicate 7 1)) (8 + 8 * k) 8 = 0) ∧
    ((host x.1 5 []).domain 5).reachedBy 0 = false := by
  decide +kernel

-- a control block in system memory at 0x1000: 912 MiB of storage, fault and miss rings of 16 entries
def creating (storsize : Nat) (args : List Nat) (unreached : List (Nat × Nat) := []) : State :=
  host 1 0 args context { mem := (bytesOf 8 storsize).zipIdx.filterMap (fun x => if x.1 = 0 then none else some (2 ^ 64 + 0x1008 + x.2, x.1)) ++
    [(2 ^ 64 + 0x1028, 16), (2 ^ 64 + 0x1098, 16)], unreached := unreached }

theorem witness_create : let s := creating (912 * 2 ^ 20) [0x1000, 0]
    let c := memGetN s.mem (hostPlace 0x1000) 256
    (s.fn 0).pending = some (block 1 0 [0x1000, 0]) ∧ leAt (block 1 0 [0x1000, 0]) 4 2 = 0 ∧ 0x1000 % 64 = 0 ∧ s.sysOk 0x1000 256 = true ∧
    (creating 0 [0x1000, 0] [(0, 0x2000)]).sysOk 0x1000 256 = false ∧ blockOk c = true ∧ s.freeAsid = some 2 ∧
    storageNeeded false ≤ leAt c 8 8 ∧ leAt c 0 8 + leAt c 8 8 ≤ Config.deviceBytes ∧
    blockOk (memGetN ({} : State).mem (hostPlace 0x1000) 256) = false := by decide +kernel

theorem no_asid_is_free (n : Nat) (h : n = 2 ^ 16) : ({ domains := List.replicate n context } : State).freeAsid = none := by
  have hd : ∀ a, a < n → ({ domains := List.replicate n context } : State).domain a = context := by
    have hrd : ∀ m a, a < m → rd ({} : Domain) (List.replicate m context) a = context := by
      intro m
      induction m with
      | zero => intro a ha; omega
      | succ m ih => intro a ha; cases a with
        | zero => rfl
        | succ a => exact ih a (by omega)
    exact hrd n
  have hnone : ((List.range n).map (· + 1)).find? (fun a => !(({ domains := List.replicate n context } : State).domain a).alive) = none ∨
      ((List.range n).map (· + 1)).find? (fun a => !(({ domains := List.replicate n context } : State).domain a).alive) = some n := by
    cases hf : ((List.range n).map (· + 1)).find? (fun a => !(({ domains := List.replicate n context } : State).domain a).alive) with
    | none => exact .inl rfl
    | some a =>
      have h1 := List.find?_some hf
      have h2 := List.mem_of_find?_eq_some hf
      simp only [List.mem_map, List.mem_range] at h2
      obtain ⟨k, hk, rfl⟩ := h2
      by_cases hlt : k + 1 < n
      · rw [hd _ hlt] at h1; simp [context] at h1
      · right; congr 1; omega
  unfold State.freeAsid
  simp only [List.length_replicate]
  rcases hnone with e | e <;> rw [e] <;> simp [h]

theorem witness_modes : ∀ r ∈ [true, false], let s := host 3 1 [5] { context with running := r }
    leAt (block 3 1 [5]) 8 8 < 32 ∧ (s.domain 1).running = r ∧ asked 3 1 s = true := by decide +kernel

theorem witness_gates_and_code : let s := host 4 1 [64, 1]
    64 % 64 = 0 ∧ s.deviceClear 1 64 (64 * 1) = true ∧ (s.deviceReads 1 64 (64 * 1)).2.isSome = true ∧ (1 : Nat) ≤ 128 ∧
    (host 5 1 [64, 8]).deviceClear 1 64 8 = true ∧ ((host 5 1 [64, 8]).deviceReads 1 64 8).2.isSome = true := by
  decide +kernel

theorem witness_observe : let d : Domain := { context with trDepth := 64, smDepth := 64 }
    asked 6 3 (host 6 1 [3, 10, 5] d) = true ∧ d.debug = true ∧ d.trDepth ≠ 0 ∧ d.smDepth ≠ 0 ∧
    ({ context with debug := false } : Domain).debug = false := by decide +kernel

theorem witness_pages : let s := host 7 1 [0x10000, 0x20000, 12]
    asked 7 3 s = true ∧ (12 : Nat) < 32 ∧ 12 % 4 ≠ 3 ∧ 0x10000 % 2 ^ 16 = 0 ∧ 0x20000 % 2 ^ 16 = 0 ∧ (∀ p ∈ (s.domain 1).pages, p.va % 2 ^ p.log = 0) ∧
    (let r := host 9 1 [0, 0, 0, 0]
     asked 9 4 r = true ∧ r.sysOk 0 (8 * 0) = true ∧
     ({ host 9 1 [0x1000, 2] with unreached := [(0x1008, 1)] } : State).sysOk 0x1000 (8 * 2) = false ∧ asked 9 4 (host 9 1 [0x1000, 2]) = true ∧ r.outClear [(hostPlace ((r.domain 1).block + 0xB0), 8)] = true) ∧ (s.domain 1).ptroot = 0 ∧
    asked 8 2 (host 8 1 [0x10000, 0]) = true ∧ ((host 8 1 [0x10000, 0]).fn 0).phase = 0 ∧ s.stores = [] ∧ s.lcs = [] := by decide +kernel

theorem witness_switch : ∀ m ∈ [0, 8], let s := host 10 1 [2] { context with ctxmode := BitVec.ofNat 64 m, running := false }
    asked 10 1 s = true ∧ (s.domain 1).ctxmode.getLsbD 3 = decide (m = 8) ∧ s.switching = none ∧ (s.fn 0).phase = 0 ∧ s.switchedIn = [] := by
  decide +kernel

-- a table of two entries at 0x100, 100 µs apart or not
def table (t : Byte) (unreached : List (Nat × Nat) := []) : State :=
  host 11 1 [0x100, 2] context { mem := [(2 ^ 64 + 0x108, 1), (2 ^ 64 + 0x112, t), (2 ^ 64 + 0x118, 2)], unreached := unreached }

theorem witness_schedule : asked 11 2 (table 2) = true ∧ (table 2).sysOk 0x100 32 = true ∧ (table 2 [(0x100, 8)]).sysOk 0x100 32 = false ∧
    (∀ k, k < 2 → leAt (memGetN (table 2).mem (hostPlace (0x100 + 16 * k)) 16) 8 8 < 16) ∧
    leAt (memGetN (table 2).mem (hostPlace 0x100) 16) 0 8 + 100000 ≤ leAt (memGetN (table 2).mem (hostPlace 0x110) 16) 0 8 ∧
    ¬ leAt (memGetN (table 1).mem (hostPlace 0x100) 16) 0 8 + 100000 ≤ leAt (memGetN (table 1).mem (hostPlace 0x110) 16) 0 8 := by decide +kernel

-- a forwarded store to system memory whose home has it, unperformed
def sysStore : Store := { live := true, st := .arrived, line := 2 ^ 64 + 0x1000, bytes := [(0, 1)] }

theorem witness_stops : let arm (d : Domain) : State := host 12 1 [9, 0x1000, 64] d
    asked 12 3 (arm context) = true ∧ context.debug = true ∧ context.wing = false ∧ context.stop = .none ∧ context.storsize + 64 ≤ 64 ∧
    (arm context).sysOk 0x1000 64 = true ∧ ({ arm context with unreached := [(0x1000, 1)] } : State).sysOk 0x1000 64 = false ∧
    (arm context).sysFree 0x1000 64 = true ∧ ({ arm context with stores := [sysStore] } : State).sysFree 0x1000 64 = false ∧
    (host 13 1 [] { context with stop := .stopped }).sysFree (context.stopArea + 0x10) 8 = true ∧
    ({ arm context with stores := [{ sysStore with line := 2 ^ 64 }] } : State).sysFree (context.stopArea + 0x10) 8 = false ∧
    ({ context with stop := .stopped } : Domain).stop = .stopped ∧ asked 13 0 (host 13 1 [] { context with stop := .stopped }) = true := by
  decide +kernel

theorem witness_laneop : ∀ k ∈ [1, 2], let s := host 14 1 [0x100000003, 0, k] context parked
    asked 14 3 s = true ∧ fld (BitVec.ofNat 64 0x100000003) 31 9 = 0 ∧ (BitVec.ofNat 64 0x100000003).getLsbD 6 = false ∧
    (BitVec.ofNat 64 0x100000003).getLsbD 8 = false ∧ indices (fun x => x.live && x.asid = 1 && x.core = 0) s.lcs = [0] := by decide +kernel

theorem witness_reports : let s := host 15 1 [0x1000, 0x2000]
    asked 15 2 s = true ∧ s.sysOk 0x1000 32 = true ∧ s.sysOk 0x2000 (0xB8 + 384) = true ∧ asked 16 1 (host 16 1 [0x1000]) = true ∧
    s.sysOk 0x1000 1600 = true ∧ s.sysFree 0x2000 (0xB8 + 384) = true ∧ s.sysFree 0x1000 1600 = true := by decide +kernel

-- a queue control block at 0x800 of context 1
def registering (asid : Byte) (args : List Nat) : State := host 17 1 args context { mem := [(0x808, 4), (0x80C, asid)] }

theorem witness_regqueue : let s := registering 1 [9, 0x800]
    asked 17 2 s = true ∧ s.findQueue 9 = none ∧ s.boundByLaunch 1 9 = false ∧ asked 17 2 (registering 1 [9, 0]) = true ∧
    s.deviceClear 1 0x800 64 = true ∧ (registering 2 [9, 0x800]).deviceClear 1 0x800 64 = true ∧
    ((s.deviceReads 1 0x800 64).2.map fun b => queueBlockOk b 1) = some true ∧
    (((registering 2 [9, 0x800]).deviceReads 1 0x800 64).2.map fun b => queueBlockOk b 1) = some false := by decide +kernel

-- HostAccessSteps
theorem witness_access : let s := host 3 1 [0]
    let v : State := { s with fns := [{}] }
    s.bringUp = 8 ∧ (0 : Nat) < 2050 ∧ (s.fn 0).busy = true ∧ (v.fn 0).busy = false ∧ (s.domain 1).alive = true ∧
    isPhysical ({ context with fn := 3 } : Domain).fn = false ∧ (s.domain 1).accepts true = true ∧ (s.domain 5).accepts true = false ∧
    (splitLines 127 [1, 2]).map (·.1) = [0, 128] ∧ (s.domain 1).place 0 = some 0 ∧ (s.domain 1).place 128 = some 128 ∧
    isDevice 0 = true ∧ isDevice 128 = true ∧ Memory.wf s.mem = true ∧ isDevice (2 ^ 64) = false ∧
    splitLines 8 [1, 2] = [(0, [(8, 1), (9, 2)])] ∧
    ((host 3 1 [0] { context with pages := [⟨0, 16, 2 ^ 64, true, true⟩] }).domain 1).place 0 = some (2 ^ 64) := by decide +kernel

-- a block at 0x40 of system memory that CMDGO reads: a DESTROY of context 1, and another command
def going (op : Byte) : State :=
  { mem := [(2 ^ 64 + 0x40, op), (2 ^ 64 + 0x44, 1)], fns := [{ cmdaddr := 0x40 }], domains := [{}, context] }

theorem witness_going : ∀ op ∈ ([(2 : Byte), 3] : List Byte), let s := going op
    let b := memGetN s.mem (hostPlace (s.fn 0).cmdaddr.toNat) 64
    (s.fn 0).busy = false ∧ (s.fn 0).cmdaddr.toNat % 64 = 0 ∧ s.sysOk (s.fn 0).cmdaddr.toNat 64 = true ∧ leAt b 0 4 = op.toNat ∧
    leAt b 4 2 = 1 ∧ leAt b 6 2 = 0 ∧ (∀ k, k < 7 → leAt b (8 + 8 * k) 8 = 0) ∧ (s.domain 1).reachedBy 0 = true ∧
    ({ s with unreached := [(0x40, 1)] } : State).sysOk 0x40 64 = false := by decide +kernel

theorem witness_rings : let s := host 3 1 [0] { context with fqTail := 3 }
    ofBytes (memGetN s.mem (hostPlace ((s.domain 1).block + (s.ringTail 1 .fault).1)) 8) = 0 ∧ (s.ringTail 1 .fault).2 = 3 ∧ (s.domain 1).misses = [] := by
  decide +kernel

-- queue 5 as a TYPE 2 queue with TAIL 3, and of a TDI that does not run
def consuming (fn : Nat) (run : Bool) : State :=
  { mem := [(0x808, 4), (0x80C, 1), (0x80E, 2), (0x810, 3)],
    domains := [{}, { context with fn := fn, tdiRun := run, queues := [{ queue := 5, block := 0x800 }] }] }

theorem witness_consumed : let s := consuming 0 true
    s.findQueue 5 = some (1, { queue := 5, block := 0x800 }) ∧ s.workType 1 { queue := 5, block := 0x800 } = 2 ∧
    s.hostField 1 0x818 8 = 0 ∧ s.blockField 1 0x800 0x10 8 = 3 ∧ (s.domain 1).place 0x800 = some 0x800 ∧ isDevice 0x800 = true ∧
    (splitLines 0x818 (bytesOf 8 2)).map (·.1) = [0x800] ∧ Memory.wf s.mem = true ∧
    (isPhysical (s.domain 1).fn || (s.domain 1).tdiRun) = true ∧
    (consuming 3 false).findQueue 5 = some (1, { queue := 5, block := 0x800 }) ∧ isPhysical ((consuming 3 false).domain 1).fn = false ∧
    ((consuming 3 false).domain 1).tdiRun = false := by decide +kernel

-- DecodeEncode and NopWord
theorem witness_encoding : let i : Instr := .iadd (.reg 1) (.reg 2) (.reg 3)
    i.isEvent = false ∧ i.wf = true ∧ ceOk false true i = true ∧ decodeWord 0x88020818 = some ⟨true, false, .iadd .latch (.reg 2) (.reg 3)⟩ ∧
    (fFn (0x7F : BitVec 24) = 0 ∨ fFn (0x10 : BitVec 24) = 0 ∨ fFn (0x100000 : BitVec 24) = 0) := by decide

theorem witness_unread_group : let w : GroupWord := { pc := 0, raw := 0x3F000000, d := none }
    let r : Run := { mask := 3, code := [0x3F000000] }
    w ∈ [w] ∧ w.d = none ∧ r.ip - r.base < 24 ∧ ∀ v ∈ [w], v.raw.getLsbD 31 = false ∨ v.pc % 3 ≠ 2 := by decide

-- ChildDepth
theorem witness_child_depth : let s := placing { onCore with toPlace := 1 }
    let u := placing onCore { turn := [child0] }
    (s.lc 0).toPlace ≠ 0 ∧ (tasking 3 0).cur.old.depth ≠ 4 ∧ ({ tasking 3 0 with hclk := 4 }.flushDirty 0).waitOver 0 .spawn = true ∧
    (u.placeChild child0).isSome = true ∧ (u.die 0).turn = [child0] ∧ ((u.mapDie 0 Die.turnOver).placeChild child0).isSome = true ∧
    (tasking 3 4).bodyLanes (tasking 3 4).cur.run = 0 := by decide +kernel

-- StepRunsDecodedWord: an IADD at the head of a run that a side has chosen
def stepping : State :=
  { withWave { wave with run := some { mask := 3, code := [0x08040818, 0, 0], started := true } } with
    agenda := [.issue 0 0], cores := [{ side0 := { cur := some 0 } }] }

theorem witness_step : let s0 : State := { stepping with agenda := [] }
    let r : Run := { mask := 3, code := [0x08040818, 0, 0], started := true }
    let d : Decoded := ⟨false, false, .iadd (.reg 1) (.reg 2) (.reg 3)⟩
    let at_ : State := s0.issueAt 0 (stepping.thread 0) r.mask r.ip
    stepping.bringUp = 8 ∧ s0.mayIssue 0 = true ∧ (stepping.thread 0).run = some r ∧ r.mask ≠ 0 ∧ s0.endsHere 0 r = false ∧
    (r.code.drop (r.ip - r.base)).head? = some 0x08040818 ∧ decodeWord 0x08040818 = some d ∧
    r.group = [{ pc := r.ip, raw := 0x08040818, d := some d }] ∧ at_.groupTrap 0 r r.group = none ∧
    at_.latchBad 0 (stepping.thread 0) d.i r.mask = 0 ∧
    at_.groupWait 0 (stepping.thread 0) r.mask [([{ pc := r.ip, raw := 0x08040818, d := some d }], d.i, BitVec.allOnes 32)] = none := by
  decide +kernel

theorem witness_step_joins : ({ stepping with agenda := [] } : State).joinHeld 0 = { stepping with agenda := [] } := rfl

-- StepAlwaysNext and MemoryStaysCanonical
theorem witness_bring_up : ({ bringUp := 3, failed := 3 } : State).bringUp ≠ 8 ∧ ({ bringUp := 3, failed := 3 } : State).resets = false ∧
    ({ bringUp := 3, failed := 3, agenda := [.perform 0 (.powerOnReset 0 none 0)] } : State).resets = true := by decide +kernel

theorem witness_canonical : (withWave wave).MemOk := by
  refine ⟨rfl, ?_, ?_⟩ <;> decide

-- QueueResults: q5 bound to host work queue 5, of four entries, which the device fills (TYPE 2) or the host did (TYPE 1)
def bound (out : Bool) : State :=
  { issue (withWave wave) 3 with
    mem := [(0x801, 9), (0x808, 4), (0x80C, 1)] ++ if out then [(0x80E, 2)] else [(0x80E, 1), (0x810, 2)]
    domains := [{}, { context with queues := [{ queue := 5, block := 0x800, tail := if out then 0 else 2, permits := 4 }] }]
    lcs := [{ onCore with queues := List.replicate 2 {} ++ [{ kind := 2, spec := 5, depth := 4 }] }] }

theorem witness_bound : ∀ out ∈ [true, false], let s := bound out
    let w : WorkQ := { queue := 5, block := 0x800, tail := if out then 0 else 2, permits := 4 }
    let lc := s.cur.old.lc
    let slots := s.workSlots 1 w 2 out
    s.cur.old.acts = [] ∧ s.bodyLanes s.cur.mask = 0 ∧ s.cur.mask ≠ 0 ∧ ((s.lc lc).fifo 5).kind = 2 ∧
    ((s.lc lc).fifo 5).frozen = false ∧ s.boundQ lc 5 = some w ∧
    (lanesOf s.cur.mask).length = 2 ∧ (∀ va ∈ w.block :: slots, ((s.domain 1).page va).isSome = true) ∧
    s.waitOver s.cur.tid (.free ((w.block :: if out then slots else []).filterMap (s.domain 1).place)) = true ∧
    s.waitOver s.cur.tid (.lines (slots.map fun va => (1, lineOf va))) = true ∧
    s.waitOver s.cur.tid (.lines [(1, lineOf w.block)]) = true ∧ s.deviceClear 1 w.block 64 = true ∧
    s.waitOver s.cur.tid (if out then .push 5 2 else .pop 5 2) = true ∧ s.queueTrap s.cur.tid 5 2 out = none ∧
    s.queueTrap s.cur.tid 5 0 false = (if out then some .qmis else none) ∧ s.det s.cur.tid = false ∧
    min (lanesOf s.cur.mask).length (s.queueHeld lc 5) = if out then 0 else 2 := by decide +kernel

-- an entry of it and its block, in memory that can be read and written
theorem witness_bound_entry : ∀ out ∈ [true, false], let s := bound out
    let p : Page := ⟨0, 16, 0, true, true⟩
    Memory.wf s.mem = true ∧ s.workType 1 { queue := 5, block := 0x800 } = (if out then 2 else 1) ∧ p.r = true ∧ p.w = true ∧
    s.blockField 1 0x800 0 8 + 8 * ((s.blockField 1 0x800 (if out then 0x10 else 0x18) 8 + 1) % s.blockField 1 0x800 8 4) = 0x908 ∧
    (∀ i, i < 64 → (s.domain 1).page (0x800 + i) = some p ∧ s.poisoned (0x800 + i) = false) ∧
    ∀ i, i < 8 → (s.domain 1).page (0x908 + i) = some p ∧ s.poisoned (0x908 + i) = false := by decide +kernel

-- ReadSteps: lane 1 stands at the load that a poisoned line ends
theorem witness_late_trap : let r := { load0 with late := { pc := 4, lanes := [(1, lane 0 [9])] } }
    let s := reading r true
    r.late.lanes = [(1, lane 0 [9])] ∧ r.late.depth = 0 ∧ r.pref = false ∧ r.parts ≠ [] ∧ r.late.body = 0 ∧ r.late.undone = 0 ∧
    (s.thread r.tid).alive = true ∧ (s.thread r.tid).acts = [] ∧ ((s.thread r.tid).lane 1).st = .live ∧ s.reqs[0]? = some r ∧
    s.poisoned r.line = true := by decide +kernel

-- StoreSteps: an atomic of two lanes, and atomics whose line is poisoned
theorem witness_atomics : let a (l : Nat) : AtomPart := { lane := l, off := 4 * l, op := .add, w64 := false, data := 3, new := 0 }
    let x := { store0 with kind := .atom [a 0, a 1], st := .arrived }
    let flawed (k : StoreKind) : State := { storing { x with kind := k } with lines := [{ addr := 0, poisoned := true }] }
    (storing x).stores[0]? = some x ∧ isDevice x.line = true ∧ x.perf ≤ (storing x).hclk ∧ (storing x).poisoned x.line = false ∧
    Memory.wf (storing x).mem = true ∧
    ∀ k ∈ [x.kind, .add 0 1], k ≠ .plain ∧ (flawed k).stores[0]? = some { x with kind := k } ∧ (flawed k).poisoned x.line = true := by
  decide +kernel

-- CacheSteps: a walk that ends at a page that may be written, and at one that may not
theorem witness_walk_ends : ∀ w ∈ [true, false],
    let s : State := { caching 0 with domains := [{}, { context with pages := [⟨0, 16, 0, true, w⟩] }] }
    let r : Req := { load0 with st := .walk }
    s.reqs[0]? = some r ∧ r.store = none ∧ r.probe = false ∧ (s.domain r.dom).page r.va = some ⟨0, 16, 0, true, w⟩ := by decide +kernel

-- RealFunctionsRounded: 1.5 and -1.5, the zeros, 1 and 0.75
theorem witness_real_operands : dec32 0x3FC00000 = .fin false 0xC00000 (-23) ∧ dec32 0x3F400000 = .fin false 0xC00000 (-24) ∧
    dec32 0x3F800000 = .fin false 0x800000 (-23) ∧ dec32 0x80000000 = .fin true 0 (-149) := by decide +kernel

theorem witness_real_results : (fexp2Closed 0x3FC00000).isSome = true ∧ (flog2Closed 0x3FC00000).isSome = true ∧
    (ftanhClosed 0x3FC00000).isSome = true ∧ (fsin2piClosed 0x3F400000).isSome = true ∧ (fsin2piClosed 0x3E000000).isSome = true := by
  decide +kernel

end Sys2Proof.Tests
end

section
/-! SUPPORT. What keeps memory and stash in the model's canonical form (notes/assumptions/3): lists with a default, the
operations on a thread that leave its stash, and the invariant of a state in the shapes that the model writes (O60). -/

namespace Sys2Proof.Machine

/-! ### Lists with a default -/

/-- What holds of the default, of every entry and of the new one holds of every entry of a list with one replaced. -/
theorem forall_mem_wr {α : Type} {p : α → Prop} {d x : α} (hd : p d) (hx : p x) :
    ∀ (n : Nat) (l : List α), (∀ y ∈ l, p y) → ∀ y ∈ wr d l n x, p y
  | 0, [], _ => by simpa [wr] using hx
  | 0, _ :: t, hl => by simpa [wr, hx] using (List.forall_mem_cons.mp hl).2
  | n + 1, [], hl => by simpa [wr, hd] using forall_mem_wr hd hx n [] hl
  | n + 1, _ :: t, hl => by
    obtain ⟨hy, ht⟩ := List.forall_mem_cons.mp hl
    simpa [wr, hy] using forall_mem_wr hd hx n t ht

/-- What holds of the default and of every entry holds of what is read. -/
theorem rd_of_forall_mem {α : Type} {p : α → Prop} {d : α} (hd : p d) :
    ∀ (n : Nat) (l : List α), (∀ y ∈ l, p y) → p (rd d l n)
  | _, [], _ => by simpa using hd
  | 0, _ :: _, hl => (List.forall_mem_cons.mp hl).1
  | n + 1, _ :: t, hl => rd_of_forall_mem hd n t (List.forall_mem_cons.mp hl).2

/-- What holds of the default and of every entry, and an update keeps, holds of every entry after the update. -/
theorem forall_mem_upd {α : Type} {p : α → Prop} {d : α} {l : List α} {f : α → α} (n : Nat) (hd : p d)
    (hf : ∀ y, p y → p (f y)) (hl : ∀ y ∈ l, p y) : ∀ y ∈ upd d l n f, p y :=
  forall_mem_wr hd (hf _ (rd_of_forall_mem hd n l hl)) n l hl

/-! ### Operations on a thread that leave its stash -/

@[simp] theorem Thread.stash_mapLanes (t : Thread) (f : Nat → Lane → Lane) : (t.mapLanes f).stash = t.stash := rfl

@[simp] theorem Thread.stash_mapLane (t : Thread) (l : Nat) (f : Lane → Lane) : (t.mapLane l f).stash = t.stash := rfl

@[simp] theorem Thread.stash_mapLaneAt (t : Thread) (depth l : Nat) (f : Lane → Lane) :
    (t.mapLaneAt depth l f).stash = t.stash := by
  unfold Thread.mapLaneAt
  split <;> rfl

@[simp] theorem Thread.stash_endHeldRun (t : Thread) : t.endHeldRun.stash = t.stash := by
  unfold Thread.endHeldRun
  split
  · rfl
  · rfl
  · split <;> rfl
  · rfl

@[simp] theorem Thread.stash_runEnded (t : Thread) : t.runEnded.stash = t.stash := by
  unfold Thread.runEnded
  split
  · split <;> rfl
  · rfl

@[simp] theorem Thread.stash_beginRun (t : Thread) : t.beginRun.stash = t.stash := by
  unfold Thread.beginRun
  split <;> rfl

@[simp] theorem Thread.stash_postEvents (t : Thread) (e : BitVec 16) : (t.postEvents e).stash = t.stash := by
  unfold Thread.postEvents
  split <;> rfl

@[simp] theorem Thread.stash_afresh (t : Thread) : t.afresh.stash = t.stash := by
  unfold Thread.afresh
  split <;> rfl

/-- A fold of updates that each leave the stash. -/
theorem Thread.stash_foldl {α : Type} {f : Thread → α → Thread} (hf : ∀ t x, (f t x).stash = t.stash) (l : List α)
    (t : Thread) : (l.foldl f t).stash = t.stash := by
  induction l generalizing t with
  | nil => rfl
  | cons x l ih => exact (ih (f t x)).trans (hf t x)

@[simp] theorem Thread.stash_forget (t : Thread) (r : Req) (n : Nat) : (t.forget r n).stash = t.stash := by
  dsimp only [Thread.forget]
  split <;> exact Thread.stash_foldl (fun t p => by split <;> simp) r.parts t

/-! ### The parts of the invariant -/

variable {s : State}

theorem State.MemOk.mem (h : s.MemOk) : Memory.wf s.mem = true := h.1

theorem State.MemOk.lc (h : s.MemOk) (n : Nat) : Memory.wf (s.lc n).lstash = true :=
  rd_of_forall_mem (p := fun x : LC => Memory.wf x.lstash = true) rfl n _ h.2.1

theorem State.MemOk.thread (h : s.MemOk) (tid : Nat) : Memory.wf (s.thread tid).stash = true :=
  rd_of_forall_mem (p := fun t : Thread => Memory.wf t.stash = true) rfl tid _ h.2.2

/-- An update of a thread that keeps its stash canonical. -/
theorem State.MemOk.mapThread_of_wf (h : s.MemOk) {tid : Nat} {f : Thread → Thread}
    (hf : ∀ t, Memory.wf t.stash = true → Memory.wf (f t).stash = true) : (s.mapThread tid f).MemOk :=
  ⟨h.mem, h.2.1, forall_mem_upd (p := fun t : Thread => Memory.wf t.stash = true) tid rfl hf h.2.2⟩

/-- An update of a launch-on-core that keeps its LSTASH area canonical. -/
theorem State.MemOk.mapLC_of_wf (h : s.MemOk) {n : Nat} {f : LC → LC}
    (hf : ∀ x, Memory.wf x.lstash = true → Memory.wf (f x).lstash = true) : (s.mapLC n f).MemOk :=
  ⟨h.mem, forall_mem_upd (p := fun x : LC => Memory.wf x.lstash = true) n rfl hf h.2.1, h.2.2⟩

/-- An update of a thread that leaves its stash. -/
theorem State.MemOk.mapThread (h : s.MemOk) {tid : Nat} {f : Thread → Thread}
    (hf : ∀ t, (f t).stash = t.stash) : (s.mapThread tid f).MemOk :=
  h.mapThread_of_wf fun t ht => (hf t).symm ▸ ht

/-- The same of the thread that issues. -/
theorem State.MemOk.mapMe (h : s.MemOk) {f : Thread → Thread}
    (hf : ∀ t, (f t).stash = t.stash) : (s.mapMe f).MemOk :=
  h.mapThread hf

/-- An update of a launch-on-core that leaves its LSTASH area. -/
theorem State.MemOk.mapLC (h : s.MemOk) {n : Nat} {f : LC → LC}
    (hf : ∀ x, (f x).lstash = x.lstash) : (s.mapLC n f).MemOk :=
  h.mapLC_of_wf fun x hx => (hf x).symm ▸ hx

/-! ### States in several shapes -/

/-- A change of every thread that leaves each stash. -/
theorem State.MemOk.mapThreads (h : s.MemOk) {f : Thread → Thread} (hf : ∀ t, (f t).stash = t.stash) :
    State.MemOk { s with threads := s.threads.map f } :=
  ⟨h.mem, h.2.1, List.forall_mem_map.mpr fun t ht => (hf t).symm ▸ h.2.2 t ht⟩

/-- A change of every launch-on-core that keeps each LSTASH area canonical. -/
theorem State.MemOk.mapLCs (h : s.MemOk) {f : LC → LC}
    (hf : ∀ x, Memory.wf x.lstash = true → Memory.wf (f x).lstash = true) :
    State.MemOk { s with lcs := s.lcs.map f } :=
  ⟨h.mem, List.forall_mem_map.mpr fun x hx => hf x (h.2.1 x hx), h.2.2⟩

/-- Memory replaced by bytes in canonical form. -/
theorem State.MemOk.withMem (h : s.MemOk) {m : List Host.Cell} (hm : Memory.wf m = true) :
    State.MemOk { s with mem := m } :=
  ⟨hm, h.2.1, h.2.2⟩

/-- Fields that the invariant does not speak of. -/
theorem State.MemOk.others (h : s.MemOk)
    {hclk' enabled' bringUp' failed' slew' fwmeas' lines' copies' reqs' stores' flawed' flawedStash' arrivals'
    moving' outbox' access' cores' dies' launches' domains' fns' unreached' gang' switching' schedule' agenda'
    copyTurn' cur' draws'} :
    State.MemOk { s with
      hclk := hclk', enabled := enabled', bringUp := bringUp', failed := failed', slew := slew', fwmeas := fwmeas',
      lines := lines', copies := copies', reqs := reqs', stores := stores', flawed := flawed',
      flawedStash := flawedStash', arrivals := arrivals', moving := moving', outbox := outbox', access := access',
      cores := cores', dies := dies', launches := launches', domains := domains', fns := fns',
      unreached := unreached', gang := gang', switching := switching', schedule := schedule', agenda := agenda',
      copyTurn := copyTurn', cur := cur', draws := draws' } := h

theorem State.MemOk.ite {c : Prop} [Decidable c] {a b : State} (ha : a.MemOk) (hb : b.MemOk) :
    (if c then a else b).MemOk := by
  split
  · exact ha
  · exact hb

theorem State.MemOk.foldl {α : Type} {f : State → α → State} {l : List α} (h : s.MemOk)
    (hf : ∀ s x, s.MemOk → (f s x).MemOk) : (l.foldl f s).MemOk := by
  induction l generalizing s with
  | nil => exact h
  | cons x t ih => exact ih (hf s x h)

theorem State.MemOk.ite_fst {β : Type} {c : Prop} [Decidable c] {a b : State × β} (ha : a.1.MemOk) (hb : b.1.MemOk) :
    (if c then a else b).1.MemOk := by
  split
  · exact ha
  · exact hb

theorem State.MemOk.foldl_fst {α β : Type} {f : State × β → α → State × β} {l : List α} {p : State × β}
    (h : p.1.MemOk) (hf : ∀ p x, p.1.MemOk → (f p x).1.MemOk) : (l.foldl f p).1.MemOk := by
  induction l generalizing p with
  | nil => exact h
  | cons x t ih => exact ih (hf p x h)

/-- The state of a pair that a function has answered. -/
theorem State.MemOk.of_pair {β : Type} {p : State × β} {b : β} (h : p.1.MemOk) (e : p = (s, b)) : s.MemOk := by
  subst e
  exact h

/-- A state that an operation may answer. -/
def OptionOk : Option State → Prop
  | some t => t.MemOk
  | none => True

theorem OptionOk.none : OptionOk none := trivial

theorem OptionOk.some (h : s.MemOk) : OptionOk (some s) := h

theorem OptionOk.ite {c : Prop} [Decidable c] {a b : Option State} (ha : OptionOk a) (hb : OptionOk b) :
    OptionOk (if c then a else b) := by
  split
  · exact ha
  · exact hb

theorem OptionOk.map {α : Type} {o : Option α} {f : α → State} (hf : ∀ x, (f x).MemOk) : OptionOk (o.map f) := by
  cases o with
  | none => exact .none
  | some x => exact hf x

/-- The state that an operation has answered. -/
theorem State.MemOk.of_some {o : Option State} (ho : OptionOk o) (e : o = some s) : s.MemOk := by
  subst e
  exact ho

theorem State.MemOk.getD {o : Option State} (ho : OptionOk o) (h : s.MemOk) : (o.getD s).MemOk := by
  cases o with
  | none => exact h
  | some t => exact ho

/-- The state that an outcome leads to, if any. -/
def OutcomeOk : Host.Outcome State Fault Refusal → Prop
  | .next t => t.MemOk
  | .fault _ | .refused _ => True

theorem OutcomeOk.next (h : s.MemOk) : OutcomeOk (.next s) := h

theorem OutcomeOk.ite {c : Prop} [Decidable c] {a b : Host.Outcome State Fault Refusal} (ha : OutcomeOk a)
    (hb : OutcomeOk b) : OutcomeOk (if c then a else b) := by
  split
  · exact ha
  · exact hb

/-- The state that an outcome has led to. -/
theorem State.MemOk.of_next {o : Host.Outcome State Fault Refusal} (ho : OutcomeOk o) (e : o = .next s) : s.MemOk := by
  subst e
  exact ho

end Sys2Proof.Machine
end

section
/-! SUPPORT. Each operation of the model keeps the invariant: one lemma per operation, in the order of the model, cited
by the lemmas of the operations that use it (O60). A heading names the model's file. -/

namespace Sys2Proof.Machine
variable {s : State}

/-! ### Ops -/

theorem State.MemOk.mapLaunch (h : s.MemOk) {n : Nat} {f : Launch → Launch} : (s.mapLaunch n f).MemOk := .others h

theorem State.MemOk.mapDomain (h : s.MemOk) {asid : Nat} {f : Domain → Domain} : (s.mapDomain asid f).MemOk :=
  .others h

theorem State.MemOk.mapUnit (h : s.MemOk) {asid core : Nat} {f : Unit_ → Unit_} : (s.mapUnit asid core f).MemOk :=
  .mapDomain h

theorem State.MemOk.mapCore (h : s.MemOk) {c : Nat} {f : CoreSt → CoreSt} : (s.mapCore c f).MemOk := .others h

theorem State.MemOk.mapDie (h : s.MemOk) {n : Nat} {f : Die → Die} : (s.mapDie n f).MemOk := .others h

theorem State.MemOk.mapFn (h : s.MemOk) {n : Nat} {f : Fn → Fn} : (s.mapFn n f).MemOk := .others h

theorem State.MemOk.mapUnitOf (h : s.MemOk) {tid : Nat} {f : Unit_ → Unit_} : (s.mapUnitOf tid f).MemOk := .mapUnit h

theorem State.MemOk.haltedAt (h : s.MemOk) {asid core : Nat} : (s.haltedAt asid core).MemOk := .ite (.mapDomain h) h

theorem State.MemOk.draw (h : s.MemOk) : s.draw.1.MemOk := .others h

theorem State.MemOk.raise (h : s.MemOk) {fn bits : Nat} : (s.raise fn bits).MemOk := .mapFn h

theorem State.MemOk.charge (h : s.MemOk) {asid : Nat} {r : FaultRec} : (s.charge asid r).MemOk := .mapDomain h

theorem State.MemOk.count (h : s.MemOk) {asid core event n : Nat} : (s.count asid core event n).MemOk :=
  .ite h (.mapUnit h)

theorem State.MemOk.countBy (h : s.MemOk) {tid event n : Nat} : (s.countBy tid event n).MemOk := .ite (.count h) h

theorem State.MemOk.mapStep (h : s.MemOk) {tid l : Nat} {f : Step → Step} : (s.mapStep tid l f).MemOk := by
  dsimp only [State.mapStep]
  split
  · exact .mapUnitOf h
  · exact h

theorem State.MemOk.markRegionTrap (h : s.MemOk) {tid : Nat} : (s.markRegionTrap tid).MemOk := .mapUnitOf h

theorem State.MemOk.markParked (h : s.MemOk) {tid : Nat} {m : Mask} : (s.markParked tid m).MemOk :=
  .ite (.markRegionTrap h) h

theorem State.MemOk.mapCast (h : s.MemOk) {lc m : Nat} {f : Cast → Cast} : (s.mapCast lc m f).MemOk :=
  .mapLC h fun _ => by rfl

theorem State.MemOk.castCheck (h : s.MemOk) {lc m : Nat} : (s.castCheck lc m).MemOk := .mapCast h

theorem State.MemOk.castDrop (h : s.MemOk) {tid : Nat} {lanes : Mask} : (s.castDrop tid lanes).MemOk := by
  dsimp only [State.castDrop]
  split
  · exact h
  · exact .castCheck (.ite (.mapCast h) h)

theorem State.MemOk.releaseSide (h : s.MemOk) {tid : Nat} : (s.releaseSide tid).MemOk := .ite h (.mapCore h)

theorem State.MemOk.freeWindow (h : s.MemOk) {core : Nat} : (s.freeWindow core).MemOk := .mapCore h

theorem State.MemOk.dropDests (h : s.MemOk) {tid : Nat} : (s.dropDests tid).MemOk := .others h

theorem State.MemOk.closeAccesses (h : s.MemOk) {tid depth : Nat} : (s.closeAccesses tid depth).MemOk := .others h

theorem State.MemOk.endActivation (h : s.MemOk) {tid status : Nat} : (s.endActivation tid status).MemOk := by
  dsimp only [State.endActivation]
  split
  · exact h
  · exact .mapThread (.releaseSide (.ite (.freeWindow (.closeAccesses (.dropDests h))) (.closeAccesses (.dropDests
      h)))) fun _ => by rfl

theorem State.MemOk.zeroCtr (h : s.MemOk) : s.zeroCtr.MemOk := .others (.mapMe h fun _ => by rfl)

theorem State.MemOk.parkLane (h : s.MemOk) {x : Taken} : (s.parkLane x).MemOk :=
  .charge (.ite (.countBy (.countBy (.mapMe (.markParked h) fun _ => by rfl))) (.countBy (.mapMe (.markParked h)
    fun _ => by rfl)))

theorem State.MemOk.faultStep (h : s.MemOk) {x : Taken} : (s.faultStep x).MemOk := .mapMe (.mapStep h) fun _ => by rfl

theorem State.MemOk.gateFault (h : s.MemOk) {xs : List Taken} : (s.gateFault xs).MemOk :=
  .endActivation (.foldl h fun _ _ h1 => .charge (.countBy h1))

theorem State.MemOk.excluding (h : s.MemOk) {xs : List Taken} : (s.excluding xs).MemOk := .others h

theorem State.MemOk.takeAll (h : s.MemOk) {xs : List Taken} : (s.takeAll xs).MemOk :=
  .foldl h fun _ _ h1 => .ite (.faultStep h1) (.parkLane h1)

theorem State.MemOk.trapping (h : s.MemOk) {xs : List Taken} {eff : State → State}
    (heff : ∀ s, s.MemOk → (eff s).MemOk) : (s.trapping xs eff).MemOk :=
  .ite (heff _ h) (.ite (.takeAll (heff _ (.excluding h))) (.gateFault (.excluding h)))

theorem State.MemOk.trapWave (h : s.MemOk) {code : TrapCode} {detail addr : Nat} {dom : Option Nat} :
    (s.trapWave code detail addr dom).MemOk :=
  .trapping h fun _ h1 => h1

theorem State.MemOk.trapRun (h : s.MemOk) {code : TrapCode} : (s.trapRun code).MemOk := .trapping h fun _ h1 => h1

theorem State.MemOk.trapLanes (h : s.MemOk) {m : Mask} {code : TrapCode} {eff : State → State} {detail : Nat}
    (heff : ∀ s, s.MemOk → (eff s).MemOk) : (s.trapLanes m code eff detail).MemOk :=
  .trapping h fun _ h1 => heff _ h1

theorem State.MemOk.afterGroup (h : s.MemOk) {tid next : Nat} {e : Bool} : (s.afterGroup tid next e).MemOk :=
  .others (.mapThread h fun _ => by rfl)

theorem State.MemOk.laneWise (h : s.MemOk) {gate : GateRule} {bodyOk : Bool} {eff : State → State}
    (heff : ∀ s, s.MemOk → (eff s).MemOk) : (s.laneWise gate bodyOk eff).MemOk := by
  dsimp only [State.laneWise]
  split
  · exact .trapLanes h fun _ h1 => heff _ h1
  · exact .ite (heff _ h) (.trapLanes h fun _ h1 => heff _ h1)

theorem State.MemOk.uniform (h : s.MemOk) {gate : GateRule} {bodyOk : Bool} {eff : State → State}
    (heff : ∀ s, s.MemOk → (eff s).MemOk) : (s.uniform gate bodyOk eff).MemOk := by
  dsimp only [State.uniform]
  refine .ite h ?_
  split
  · exact .trapWave h
  · exact .ite (.trapWave h) (heff _ h)

theorem State.MemOk.block (h : s.MemOk) {w : Wait} : (s.block w).MemOk := .others (.mapMe h fun _ => by rfl)

theorem State.MemOk.resumeLanes (h : s.MemOk) {tid : Nat} {lanes : Mask} {skip : Bool} :
    (s.resumeLanes tid lanes skip).MemOk :=
  .ite h (.mapThread h fun _ => Thread.stash_endHeldRun _)

theorem State.MemOk.killLanes (h : s.MemOk) {tid : Nat} {lanes : Mask} : (s.killLanes tid lanes).MemOk := by
  dsimp only [State.killLanes]
  refine .mapThread (.foldl (.castDrop h) (fun _ _ h1 => ?_)) fun _ => by rfl
  split
  · exact .markRegionTrap h1
  · exact h1

theorem State.MemOk.laneOp (h : s.MemOk) {lc : Nat} {v : Dword} {kill : Bool} : (s.laneOp lc v kill).MemOk := by
  dsimp only [State.laneOp]
  split
  · exact h
  · exact .ite (.killLanes h) (.resumeLanes h)

theorem State.MemOk.post (h : s.MemOk) {tid : Nat} {p : Posted} : (s.post tid p).MemOk :=
  .ite (.mapThread h fun _ => by rfl) (.charge h)

/-! ### Mem -/

theorem State.MemOk.spendAt (h : s.MemOk) {clk lc cls n : Nat} : (s.spendAt clk lc cls n).MemOk :=
  .mapLC h fun _ => by rfl

theorem State.MemOk.spend (h : s.MemOk) {lc cls n : Nat} : (s.spend lc cls n).MemOk := .spendAt h

theorem State.MemOk.spendFree (h : s.MemOk) {lc : Nat} {classes : List Nat} : (s.spendFree lc classes).MemOk :=
  .foldl h fun _ _ h1 => .spend (.draw h1)

/-- Bytes written at once. -/
theorem State.MemOk.writePlace (h : s.MemOk) {p : Nat} {bs : List Byte} : (s.writePlace p bs).MemOk :=
  .withMem h (Memory.wf_memPutN bs s.mem p h.mem)

theorem State.MemOk.sendOut (h : s.MemOk) {p : Nat} {bs : List Byte} : (s.sendOut p bs).MemOk := .others h

theorem State.MemOk.ensureMapped (h : s.MemOk) {dom va : Nat} : (s.ensureMapped dom va).MemOk :=
  .ite (.mapDomain (.sendOut (.sendOut h))) h

theorem State.MemOk.missOf (h : s.MemOk) {dom va core bits : Nat} : (s.missOf dom va core bits).MemOk := .mapDomain h

theorem State.MemOk.missEntry (h : s.MemOk) {dom va core : Nat} {k : Acc} : (s.missEntry dom va core k).MemOk :=
  .missOf h

theorem State.MemOk.askPage (h : s.MemOk) {asid va : Nat} {k : Acc} : (s.askPage asid va k).1.MemOk :=
  .ite_fst (.ensureMapped h) (.mapDomain (.missEntry (.ensureMapped h)))

theorem State.MemOk.askBytes (h : s.MemOk) {asid va n : Nat} {k : Acc} : (s.askBytes asid va n k).1.MemOk := by
  dsimp only [State.askBytes]
  split
  · rename_i e
    exact .of_pair (.askPage h) e
  · rename_i e
    exact .askPage (.of_pair (.askPage h) e)

theorem State.MemOk.answered (h : s.MemOk) {asid va n : Nat} : (s.answered asid va n).MemOk := .mapDomain h

theorem State.MemOk.mapLine (h : s.MemOk) {p : Nat} {f : Line → Line} : (s.mapLine p f).MemOk := .others h

theorem State.MemOk.grantLease (h : s.MemOk) {p ticks : Nat} : (s.grantLease p ticks).1.MemOk := .mapLine h

theorem State.MemOk.useFound (h : s.MemOk) {dom va : Nat} : (s.useFound dom va).MemOk := by
  dsimp only [State.useFound]
  split
  · exact .ite h (.mapDomain h)
  · exact h

theorem State.MemOk.countAccess (h : s.MemOk) {dom va p : Nat} : (s.countAccess dom va p).MemOk :=
  .others (.useFound h)

theorem State.MemOk.countSpan (h : s.MemOk) {p n : Nat} : (s.countSpan p n).MemOk := .others h

theorem State.MemOk.enqueue (h : s.MemOk) {x : Store} : (s.enqueue x).MemOk := by
  dsimp only [State.enqueue]
  refine .ite ?_ (.others h)
  split
  · exact .countBy (.others h)
  · exact .count (.others h)

theorem State.MemOk.accept (h : s.MemOk) {x : Store} : (s.accept x).MemOk :=
  .enqueue (.foldl h fun _ _ h1 => .mapThread h1 fun _ => by rfl)

/-- A lane's atomics write bytes. -/
theorem Memory.wf_atomAll (ps : List AtomPart) (m : List Host.Cell) (line : Nat) (h : Memory.wf m = true) :
    Memory.wf (atomAll m line ps).1 = true := by
  induction ps generalizing m with
  | nil => exact h
  | cons a t ih => exact ih _ (Memory.wf_memPutN _ _ _ h)

/-- A store that is performed writes its bytes, what its atomics compute, or the sum of its add. -/
theorem State.MemOk.performStore (h : s.MemOk) {n : Nat} : (s.performStore n).MemOk := by
  unfold State.performStore
  split
  · exact h
  · refine .ite (.others h) ?_
    extract_lets _ t old
    have ht : t.MemOk := by
      unfold t
      exact .ite (.others (.mapLine h)) h
    have hm := ht.mem
    split
    rename_i e
    refine ⟨?_, ht.2.1, ht.2.2⟩
    split at e <;> cases e
    · exact Memory.wf_foldl_memPut _ _ _ _ hm
    · exact Memory.wf_atomAll _ _ _ hm
    · exact Memory.wf_memPutN _ _ _ hm

theorem State.MemOk.settle (h : s.MemOk) : s.settle.MemOk := .foldl h fun _ _ h1 => .performStore h1

theorem State.MemOk.mapWindow (h : s.MemOk) {lc n : Nat} {f : Window → Window} : (s.mapWindow lc n f).MemOk :=
  .mapLC h fun _ => by rfl

theorem State.MemOk.writeBackEntry (h : s.MemOk) {lc n : Nat} {e : WinEntry} {tids : List Nat} :
    (s.writeBackEntry lc n e tids).MemOk := by
  dsimp only [State.writeBackEntry]
  refine .ite h ?_
  split
  · exact h
  · exact .enqueue h

/-- What the emptied entries held goes to the window's backing bytes. -/
theorem State.MemOk.emptyEntries (h : s.MemOk) {lc n : Nat} {p : WinEntry → Bool} : (s.emptyEntries lc n p).MemOk :=
  .mapLC_of_wf h fun _ hx => Memory.wf_foldl_memPutN _ _ _ _ hx

theorem State.MemOk.writeBack (h : s.MemOk) {lc n : Nat} {p : WinEntry → Bool} {keep : Bool} {tids : List Nat} :
    (s.writeBack lc n p keep tids).MemOk :=
  .ite (.mapWindow (.foldl h (fun _ _ h1 => .writeBackEntry h1))) (.emptyEntries (.foldl h fun _ _ h1 =>
    .writeBackEntry h1))

theorem State.MemOk.fillWindow (h : s.MemOk) {lc n off place : Nat} : (s.fillWindow lc n off place).MemOk :=
  .ite h (.mapWindow (.spendFree (.countAccess (.grantLease (.writeBack h)))))

theorem State.MemOk.writeWindow (h : s.MemOk) {lc n off : Nat} {bytes : List Host.Cell} {tid : Nat} :
    (s.writeWindow lc n off bytes tid).MemOk :=
  .mapThread (.mapWindow h) fun _ => by rfl

theorem State.MemOk.flushDirty (h : s.MemOk) {tid : Nat} : (s.flushDirty tid).MemOk :=
  .mapThread (.foldl h (fun _ _ h1 => .writeBack h1)) fun _ => by rfl

/-- Bytes written to a stash area. -/
theorem State.MemOk.writeStash (h : s.MemOk) {tid : Nat} {p : Place} {bs : List Byte} :
    (s.writeStash tid p bs).MemOk := by
  unfold State.writeStash
  extract_lets t
  have ht : t.MemOk := by
    unfold t
    split
    · exact .others h
    · exact h
  split
  · exact .mapLC_of_wf ht fun _ hx => Memory.wf_memPutN _ _ _ hx
  · exact .mapThread_of_wf ht fun _ hx => Memory.wf_memPutN _ _ _ hx
  · exact ht

theorem State.MemOk.expireAt (h : s.MemOk) {lc dom line : Nat} : (s.expireAt lc dom line).MemOk := by
  dsimp only [State.expireAt]
  split
  · exact .ite (.writeBack h) h
  · exact h

theorem State.MemOk.awaitPage (h : s.MemOk) {lc dom core va : Nat} {k : Acc} :
    (s.awaitPage lc dom core va k).1.MemOk :=
  .ite_fst (.missEntry (.ite h (.ensureMapped h))) (.ite h (.ensureMapped h))

theorem State.MemOk.countLines (h : s.MemOk) {dom va n : Nat} : (s.countLines dom va n).MemOk := by
  dsimp only [State.countLines]
  refine .foldl h fun _ _ h1 => ?_
  split
  · exact .countAccess h1
  · exact h1

theorem State.MemOk.chargeLines (h : s.MemOk) {lc n : Nat} : (s.chargeLines lc n).MemOk := .spendFree (.count h)

theorem State.MemOk.engineLine (h : s.MemOk) {lc dom line : Nat} : (s.engineLine lc dom line).MemOk := by
  dsimp only [State.engineLine]
  split
  · exact .ite (.count (.expireAt h)) (.count (.countLines (.expireAt h)))
  · exact .count (.countLines (.expireAt h))

theorem State.MemOk.engineWrite (h : s.MemOk) {lc dom core va : Nat} {bs : List Byte} {tids : List Nat}
    {notBefore : Nat} : (s.engineWrite lc dom core va bs tids notBefore).1.MemOk := by
  dsimp only [State.engineWrite]
  refine .ite_fst h (.foldl_fst h fun _ _ h1 => ?_)
  split
  · exact h1
  · split
    · split
      · exact .ite_fst h1 (.ite_fst (.accept h1) (.writeWindow (.fillWindow (.countBy h1))))
      · exact .accept (.writeBack h1)
      · exact .accept h1
    · exact h1
    · exact .accept (.missEntry h1)

theorem State.MemOk.deviceAdd (h : s.MemOk) {dom core va n : Nat} : (s.deviceAdd dom core va n).1.MemOk := by
  dsimp only [State.deviceAdd]
  split
  · exact .ite_fst (.accept (.ensureMapped h)) (.ensureMapped h)
  · exact .ite_fst (.accept (.missEntry (.ensureMapped h))) (.ensureMapped h)

theorem State.MemOk.devicePages (h : s.MemOk) {dom va n : Nat} : (s.devicePages dom va n).MemOk :=
  .foldl h fun _ _ h1 => .ensureMapped h1

theorem State.MemOk.deviceReads (h : s.MemOk) {dom va n : Nat} : (s.deviceReads dom va n).1.MemOk :=
  .countLines (.devicePages h)

/-- Bytes that the device writes at once. -/
theorem OptionOk.deviceWrite (h : s.MemOk) {dom va : Nat} {bs : List Byte} : OptionOk (s.deviceWrite dom va bs) :=
  .map fun _ => .countLines (.withMem h (Memory.wf_foldl_memPut _ _ _ _ h.mem))

theorem OptionOk.deviceSend (h : s.MemOk) {dom va : Nat} {bs : List Byte} : OptionOk (s.deviceSend dom va bs) := by
  dsimp only [State.deviceSend]
  refine .ite .none (.some (.foldl (.countLines h) fun _ _ h1 => ?_))
  split
  · exact .sendOut h1
  · exact h1

/-- Each write that the hub performs. -/
theorem State.MemOk.sendOuts (h : s.MemOk) {n : Nat} : (s.sendOuts n).MemOk := by
  induction n generalizing s with
  | zero => exact h
  | succ n ih =>
    unfold State.sendOuts
    split
    · exact h
    · exact .ite (ih (.others (.writePlace h))) h

theorem State.MemOk.flushOut (h : s.MemOk) : s.flushOut.MemOk := .sendOuts h

/-! ### Operands -/

theorem State.MemOk.mapActive (h : s.MemOk) {f : Nat → Lane → Lane} : (s.mapActive f).MemOk :=
  .mapMe h fun _ => by rfl

theorem State.MemOk.pushAll (h : s.MemOk) {p : Pipe} {f : Nat → Word} : (s.pushAll p f).MemOk :=
  .mapMe h fun _ => by rfl

theorem State.MemOk.setLane (h : s.MemOk) {p : Pipe} {d : Dst} {f : Nat → Word} : (s.setLane p d f).MemOk := by
  dsimp only [State.setLane]
  refine .pushAll ?_
  split
  · exact .mapActive h
  · exact h

theorem State.MemOk.setGroup (h : s.MemOk) {d : Nat} {f : Nat → List Word} : (s.setGroup d f).MemOk := .mapActive h

theorem State.MemOk.setPair (h : s.MemOk) {d : LReg} {f : Nat → Nat} : (s.setPair d f).MemOk := .setGroup h

theorem State.MemOk.setPred (h : s.MemOk) {p : PReg} {f : Nat → Bool} : (s.setPred p f).MemOk := .mapActive h

theorem State.MemOk.setU (h : s.MemOk) {d : UReg} {x : Dword} : (s.setU d x).MemOk := .mapMe h fun _ => by rfl

theorem State.MemOk.setU2 (h : s.MemOk) {d : UReg} {x y : Dword} : (s.setU2 d x y).MemOk := .mapMe h fun _ => by rfl

theorem State.MemOk.setB (h : s.MemOk) {d : BReg} {x : BufRec} : (s.setB d x).MemOk := .mapMe h fun _ => by rfl

theorem State.MemOk.branch (h : s.MemOk) {f : Nat → Nat} : (s.branch f).MemOk := .mapActive h

/-! ### Flags -/

theorem State.MemOk.addFlags (h : s.MemOk) {f : Nat → Flags} : (s.addFlags f).MemOk :=
  .foldl h fun _ _ h1 => .ite h1 (.ite (.mapStep h1) (.mapMe h1 fun _ => by rfl))

theorem State.MemOk.addMx (h : s.MemOk) {lc k n : Nat} : (s.addMx lc k n).MemOk := .ite h (.mapLC h fun _ => by rfl)

theorem State.MemOk.addMxs (h : s.MemOk) {lc : Nat} {ns : List Nat} : (s.addMxs lc ns).MemOk :=
  .foldl h fun _ _ h1 => .addMx h1

theorem State.MemOk.countLanes (h : s.MemOk) {k : Nat} {f : Nat → Nat} : (s.countLanes k f).MemOk :=
  .foldl h fun _ _ h1 => .ite h1 (.ite (.mapStep h1) (.addMx h1))

/-! ### Ready -/

theorem State.MemOk.mapFifo (h : s.MemOk) {lc q : Nat} {f : Fifo → Fifo} : (s.mapFifo lc q f).MemOk :=
  .mapLC h fun _ => by rfl

theorem State.MemOk.await (h : s.MemOk) {w : Wait} {eff : State → State} (heff : ∀ s, s.MemOk → (eff s).MemOk) :
    (s.await w eff).MemOk :=
  .ite (heff _ h) (.block h)

/-! ### Access -/

theorem State.MemOk.reserve (h : s.MemOk) {ps : Lanes} : (s.reserve ps).MemOk := by
  dsimp only [State.reserve]
  refine .foldl h fun _ _ h1 => ?_
  split
  · exact .ite h1 (.ensureMapped h1)
  · exact h1

theorem State.MemOk.checked (h : s.MemOk) {r : BufRec} {ps : Lanes} {k : Acc} {extra : List Taken}
    {eff : State → Lanes → State} (heff : ∀ (a : State) (a_1 : Lanes), a.MemOk → (eff a a_1).MemOk) :
    (s.checked r ps k extra eff).MemOk :=
  .ite (.trapLanes h (fun _ h1 => heff _ _ h1)) (.trapping (.reserve h) fun _ h1 => heff _ _ h1)

theorem State.MemOk.bodyRead (h : s.MemOk) {tid l stores load : Nat} {bs : List Byte} :
    (s.bodyRead tid l stores load bs).1.MemOk :=
  .mapStep h

theorem State.MemOk.deliver (h : s.MemOk) {req tid depth : Nat} {p : Part} {data : List Byte} :
    (s.deliver req tid depth p data).MemOk := by
  dsimp only [State.deliver]
  split
  · refine .mapThread ?_ fun _ => Thread.stash_mapLaneAt ..
    split
    · exact .bodyRead h
    · exact h
  · exact .mapThread h fun _ => by split <;> rfl

theorem State.MemOk.missLines (h : s.MemOk) {lc core : Nat} {ls : List (Nat × Nat)} {k : Acc} :
    (s.missLines lc core ls k).MemOk :=
  .foldl h fun _ _ h1 => .ite (.missEntry h1) h1

theorem State.MemOk.awaitLines (h : s.MemOk) {ps : Lanes} {eff : State → State} (heff : ∀ s, s.MemOk → (eff s).MemOk)
    : (s.awaitLines ps eff).MemOk :=
  .ite (heff _ h) (.await (.missLines h) fun _ h1 => .await h1 fun _ h2 => .await h2 fun _ h3 => heff _ h3)

theorem State.MemOk.serve (h : s.MemOk) {tid lc core dom line : Nat} {mode : LdMode} {fresh : Bool} :
    (s.serve tid lc core dom line mode fresh).1.MemOk := by
  dsimp only [State.serve]
  split
  · split
    · exact .ite_fst (.fillWindow (.countBy h)) (.writeBack h)
    · refine .ite_fst ?_ h
      split
      · exact .countBy h
      · exact h
  · exact .missEntry h
  · exact h

theorem State.MemOk.homeCounts (h : s.MemOk) {tid dom va p : Nat} : (s.homeCounts tid dom va p).MemOk :=
  .spendFree (.countBy (.countAccess h))

theorem State.MemOk.request (h : s.MemOk) {tid dom va : Nat} {sv : Served} {lease : Nat} {keeps acq : Bool}
    {parts : List Part} {pref : Bool} {behind : List Nat} :
    (s.request tid dom va sv lease keeps acq parts pref behind).MemOk := by
  dsimp only [State.request]
  split
  · exact h
  · exact .others (.countBy h)
  · exact .others h

theorem State.MemOk.loadLine (h : s.MemOk) {ps : Lanes} {r : BufRec} {d : Dst} {w n : Nat} {signed : Bool}
    {mode : LdMode} {dom line : Nat} : (s.loadLine ps r d w n signed mode dom line).MemOk := by
  dsimp only [State.loadLine]
  split
  · exact .foldl (.mapThread (.foldl (.serve h) fun _ _ h1 => .ite (.mapStep h1) h1)
      fun t => Thread.stash_foldl (fun _ _ => by split <;> rfl) _ t) fun _ _ h1 => .deliver h1
  · exact .request (.mapThread (.foldl (.serve h) fun _ _ h1 => .ite (.mapStep h1) h1)
      fun t => Thread.stash_foldl (fun _ _ => by split <;> rfl) _ t)

theorem State.MemOk.readLine (h : s.MemOk) {tid dom line lease : Nat} : (s.readLine tid dom line lease).1.MemOk := by
  dsimp only [State.readLine]
  split
  · rename_i e
    exact .of_pair (.serve h) e
  · rename_i e
    have ht := State.MemOk.of_pair (.serve h) e
    exact .ite_fst (.homeCounts ht) (.others (.grantLease (.homeCounts ht)))
  · rename_i e
    exact .of_pair (.serve h) e

theorem State.MemOk.readLines (h : s.MemOk) {tid lease : Nat} {ls : List (Nat × Nat)} :
    (s.readLines tid lease ls).1.MemOk :=
  .foldl_fst h fun _ _ h1 => .readLine h1

theorem State.MemOk.bodyLoad (h : s.MemOk) {l : Nat} {p : Place} {w n : Nat} {signed : Bool} {d : Dst} :
    (s.bodyLoad l p w n signed d).MemOk := by
  dsimp only [State.bodyLoad]
  split
  · exact h
  · exact .mapMe (.bodyRead (.mapStep h)) fun _ => by rfl

theorem State.MemOk.zeroDropped (h : s.MemOk) {ps : Lanes} {d n : Nat} : (s.zeroDropped ps d n).MemOk := .mapActive h

theorem State.MemOk.load (h : s.MemOk) {r : BufRec} {idx : Nat → Nat} {d : Dst} {w n : Nat} {signed : Bool}
    {mode : LdMode} : (s.load r idx d w n signed mode).MemOk := by
  dsimp only [State.load]
  refine .checked h fun _ _ h1 => .foldl (.ite (.pushAll ?_) ?_) fun _ _ h2 => .loadLine h2
  · split
    · exact .zeroDropped h1
    · exact h1
  · split
    · exact .zeroDropped h1
    · exact h1

theorem State.MemOk.loadStash (h : s.MemOk) {r : BufRec} {idx : Nat → Nat} {d : Dst} {w n : Nat} {signed : Bool} :
    (s.loadStash r idx d w n signed).MemOk := by
  dsimp only [State.loadStash]
  refine .checked h fun _ _ h1 => .foldl (.ite (.pushAll ?_) ?_) fun _ _ h2 => .ite (.bodyLoad h2) (.mapMe h2
    fun _ => by rfl)
  · split
    · exact .setGroup h1
    · exact h1
  · split
    · exact .setGroup h1
    · exact h1

theorem State.MemOk.storeLine (h : s.MemOk) {tid : Nat} {m : Mask} {dom line : Nat} {cells : List Host.Cell}
    {stream uniform : Bool} {on : List (Nat × Nat)} : (s.storeLine tid m dom line cells stream uniform on).MemOk := by
  dsimp only [State.storeLine]
  split
  · split
    · exact .ite (.writeWindow (.fillWindow (.countBy h))) (.accept h)
    · exact .accept h
  · exact .accept (.missEntry h)
  · exact h

theorem State.MemOk.evictLine (h : s.MemOk) {lc dom line : Nat} : (s.evictLine lc dom line).MemOk := by
  dsimp only [State.evictLine]
  split
  · exact .writeBack h
  · exact h

theorem State.MemOk.storeHome (h : s.MemOk) {dom line : Nat} {cells : List Host.Cell} :
    (s.storeHome dom line cells).MemOk := by
  dsimp only [State.storeHome]
  split
  · exact .accept h
  · exact .accept (.missEntry h)

theorem State.MemOk.storeAll (h : s.MemOk) {tid : Nat} {ps : Lanes} {data : Nat → List Byte} {stream : Bool} :
    (s.storeAll tid ps data stream).MemOk :=
  .foldl h fun _ _ h1 => .storeLine h1

theorem State.MemOk.probeStore (h : s.MemOk) {l dom va : Nat} : (s.probeStore l dom va).MemOk :=
  .ite (.others (.missEntry h)) h

theorem State.MemOk.bodyStore (h : s.MemOk) {l : Nat} {p : Place} {bs : List Byte} : (s.bodyStore l p bs).MemOk := by
  dsimp only [State.bodyStore]
  split
  · split
    · exact .probeStore h
    · exact h
  · refine .mapStep ?_
    split
    · exact .probeStore h
    · exact h

theorem State.MemOk.storeParts (h : s.MemOk) {ps : Lanes} {data : Nat → List Byte} {stream : Bool} :
    (s.storeParts ps data stream).MemOk := by
  dsimp only [State.storeParts]
  refine .storeAll (.foldl (.foldl h (fun _ _ h1 => .bodyStore h1)) fun _ _ h1 => ?_)
  split
  · exact .writeStash h1
  · exact .writeStash h1
  · exact h1

theorem State.MemOk.fenceThen (h : s.MemOk) {sc : Scope} {eff : State → State} (heff : ∀ s, s.MemOk → (eff s).MemOk) :
    (s.fenceThen sc eff).MemOk := by
  dsimp only [State.fenceThen]
  refine .await ?_ fun _ h1 => heff _ h1
  split
  · exact .flushDirty h
  · exact .flushDirty h
  · exact h

theorem State.MemOk.released (h : s.MemOk) {on : Bool} {ps : Lanes} {eff : State → State}
    (heff : ∀ s, s.MemOk → (eff s).MemOk) : (s.released on ps eff).MemOk := by
  dsimp only [State.released]
  split
  · exact .fenceThen h fun _ h1 => heff _ h1
  · exact heff _ h

theorem State.MemOk.store (h : s.MemOk) {r : BufRec} {idx : Nat → Nat} {data : Nat → List Byte} {w : Nat}
    {stash : Bool} {mode : StMode} : (s.store r idx data w stash mode).MemOk :=
  .checked h fun _ _ h1 => .released h1 fun _ h2 => .storeParts h2

theorem State.MemOk.atomLine (h : s.MemOk) {ps : Lanes} {dom line : Nat} {part : Nat → Nat → AtomPart} {acq : Bool}
    {ret : Option (Nat × Nat)} : (s.atomLine ps dom line part acq ret).MemOk := by
  unfold State.atomLine
  extract_lets tid t on m s1 base id s2
  have h1 : s1.MemOk := by
    unfold s1
    split
    · exact .writeBack h
    · exact h
  have h2 : s2.MemOk := by
    unfold s2
    split
    · exact .accept h1
    · exact .accept (.missEntry h1)
  split
  · exact h2
  · refine .others (.mapThread h2 fun t => ?_)
    exact Thread.stash_foldl (by intros; rfl) _ t

theorem State.MemOk.uniAccess (h : s.MemOk) {r : BufRec} {idx w : Nat} {k : Acc} {eff : State → Place → State}
    (heff : ∀ (a : State) (a_1 : Place), a.MemOk → (eff a a_1).MemOk) : (s.uniAccess r idx w k eff).MemOk := by
  dsimp only [State.uniAccess]
  refine .ite (.trapWave h) ?_
  split
  · exact .trapWave (.reserve h)
  · exact heff _ _ (.reserve h)

theorem State.MemOk.loadUni (h : s.MemOk) {d : UReg} {r : BufRec} {idx w : Nat} {mode : LdMode} :
    (s.loadUni d r idx w mode).MemOk := by
  dsimp only [State.loadUni]
  refine .uniAccess h fun _ _ h1 => ?_
  split
  · split
    · exact .deliver (.serve h1)
    · exact .request (.mapThread (.serve h1) fun _ => by rfl)
  · exact .setU h1

theorem State.MemOk.storeUni (h : s.MemOk) {r : BufRec} {idx w : Nat} {bs : List Byte} {mode : StMode} :
    (s.storeUni r idx w bs mode).MemOk := by
  dsimp only [State.storeUni]
  refine .uniAccess h fun _ _ h1 => ?_
  split
  · exact .released h1 fun _ h2 => .storeLine h2
  · exact h1

/-! ### Msync -/

theorem OutcomeOk.execFence (h : s.MemOk) {scope : Scope} : OutcomeOk (execFence scope s) :=
  .next (.uniform h fun _ h1 => .fenceThen h1 fun _ h2 => h2)

theorem OutcomeOk.execStflush (h : s.MemOk) {rec : BReg} : OutcomeOk (execStflush rec s) :=
  .next (.uniform h fun _ h1 => .ite (.trapWave h1) (.foldl h1 fun _ _ h2 => .ite (.writeBack h2) h2))

theorem OutcomeOk.execStdrop (h : s.MemOk) {rec : BReg} : OutcomeOk (execStdrop rec s) :=
  .next (.uniform h fun _ h1 => .ite (.trapWave h1) (.foldl h1 fun _ _ h2 => .ite (.emptyEntries h2) h2))

theorem State.MemOk.unmapWindow (h : s.MemOk) {lc n : Nat} {tids : List Nat} : (s.unmapWindow lc n tids).MemOk :=
  .ite h (.mapWindow (.writeBack h))

theorem OutcomeOk.execStmap (h : s.MemOk) {rec : BReg} {a : UReg} : OutcomeOk (execStmap rec a s) :=
  .next (.uniform h fun _ h1 => .ite (.trapWave h1) (.ite (.unmapWindow h1) (.ite (.trapWave h1) (.mapWindow h1))))

theorem State.MemOk.prefLine (h : s.MemOk) {r : BufRec} {dom line : Nat} : (s.prefLine r dom line).MemOk :=
  .request (.serve h)

theorem OutcomeOk.execPref (h : s.MemOk) {rec : BReg} {idx : Src} : OutcomeOk (execPref rec idx s) :=
  .next (.laneWise h fun _ h1 => .ite h1 (.foldl (.reserve h1) fun _ _ h2 => .prefLine h2))

theorem State.MemOk.pollAcquire (h : s.MemOk) {p : Poll} : (s.pollAcquire p).MemOk :=
  .mapMe (.mapActive h) fun _ => by rfl

theorem State.MemOk.pollWord (h : s.MemOk) {r : BufRec} {ps : Lanes} : (s.pollWord r ps).MemOk := by
  dsimp only [State.pollWord]
  split
  · exact .ite (.pollAcquire h) (.block h)
  · exact .checked h fun _ _ h1 => .ite h1 (.block (.mapMe h1 fun _ => by rfl))

theorem OutcomeOk.execWaitv (h : s.MemOk) {rec : BReg} {_cond : PollCond} {idx _cmp : Src} :
    OutcomeOk (execWaitv rec _cond idx _cmp s) :=
  .next (.laneWise h fun _ h1 => .pollWord h1)

theorem State.MemOk.pollUni (h : s.MemOk) {r : BufRec} {w : Nat} : (s.pollUni r w).MemOk := by
  dsimp only [State.pollUni]
  split
  · exact .ite (.mapMe (.mapMe h fun _ => by rfl) fun _ => by rfl) (.block h)
  · exact .uniAccess h fun _ _ h1 => .block (.mapMe h1 fun _ => by rfl)

theorem OutcomeOk.execBbarm (h : s.MemOk) {rec : BReg} {a : UReg} : OutcomeOk (execBbarm rec a s) := by
  dsimp only [Machine.execBbarm]
  refine .next (.uniform h fun _ h1 => .uniAccess h1 fun _ _ h2 => ?_)
  split
  · exact .released h2 fun _ h3 => .mapMe (.storeHome (.evictLine h3)) fun _ => by rfl
  · exact h2

theorem OutcomeOk.execBbwait (h : s.MemOk) {rec : BReg} {_a : UReg} : OutcomeOk (execBbwait rec _a s) :=
  .next (.uniform h fun _ h1 => .pollUni h1)

/-! ### Engine -/

theorem State.MemOk.postCmd (h : s.MemOk) {c : Cmd} {code : TrapCode} {addr : Nat} : (s.postCmd c code addr).MemOk :=
  .post h

theorem State.MemOk.decrement (h : s.MemOk) {asid core : Nat} {c : Cmd} {n : Nat} :
    (s.decrement asid core c n).MemOk := by
  dsimp only [State.decrement]
  refine .ite h ?_
  split
  · exact .ite (.postCmd h) (.mapUnit h)
  · exact .ite (.postCmd h) (.mapUnit h)

theorem State.MemOk.barrierAdd (h : s.MemOk) {core : Nat} {c : Cmd} : (s.barrierAdd core c).MemOk := by
  dsimp only [State.barrierAdd]
  refine .ite h ?_
  rcases s.windowAt c.lc c.dom c.bbaddr with _ | ⟨k, n⟩ <;> dsimp only <;> split <;> rename_i e
  · exact .of_pair (.deviceAdd h) e
  · exact .postCmd (.of_pair (.deviceAdd h) e)
  · exact .of_pair (.deviceAdd (.writeBack h)) e
  · exact .postCmd (.of_pair (.deviceAdd (.writeBack h)) e)

theorem State.MemOk.completeNode (h : s.MemOk) {asid core : Nat} {c : Cmd} : (s.completeNode asid core c).MemOk := by
  dsimp only [State.completeNode]
  split
  · exact .postCmd (.addMxs (.ite (.decrement (.decrement h)) (.barrierAdd (.decrement (.decrement h)))))
  · exact .addMxs (.ite (.decrement (.decrement h)) (.barrierAdd (.decrement (.decrement h))))

theorem State.MemOk.discardCmd (h : s.MemOk) {asid core : Nat} {c : Cmd} : (s.discardCmd asid core c).MemOk :=
  .completeNode (.mapUnit h)

theorem State.MemOk.finishCmd (h : s.MemOk) {asid core id : Nat} {f : Cmd → Cmd} :
    (s.finishCmd asid core id f).MemOk := by
  dsimp only [State.finishCmd]
  refine .mapUnit ?_
  split
  · exact .spendFree h
  · exact h

theorem State.MemOk.failCmd (h : s.MemOk) {asid core : Nat} {c : Cmd} {code : TrapCode} {addr : Nat} :
    (s.failCmd asid core c code addr).MemOk :=
  .postCmd (.finishCmd h)

theorem State.MemOk.recWrite (h : s.MemOk) {c : Cmd} {core : Nat} {r : BufRec} {cells : List (Nat × Byte)} :
    (s.recWrite c core r cells).1.MemOk := by
  dsimp only [State.recWrite]
  refine .ite_fst (.foldl h (fun _ _ h1 => .ite h1 (.writeStash h1))) (.foldl_fst h fun _ _ h1 => ?_)
  split
  · exact h1
  · exact .ite_fst h1 (.engineWrite h1)

theorem State.MemOk.cmdPage (h : s.MemOk) {asid core : Nat} {c : Cmd} {va : Nat} {k : Acc} :
    (s.cmdPage asid core c va k).1.MemOk :=
  .ite_fst h (.ite_fst (.mapUnit (.awaitPage h)) (.awaitPage h))

theorem State.MemOk.cmdPages (h : s.MemOk) {asid core : Nat} {c : Cmd} {k : Acc} {vas : List Nat} :
    (s.cmdPages asid core c k vas).1.MemOk := by
  induction vas generalizing s with
  | nil => exact h
  | cons va t ih =>
    dsimp only [State.cmdPages]
    refine .ite_fst (.cmdPage h) ?_
    split
    · exact ih (.cmdPage h)
    · exact .cmdPage h

theorem State.MemOk.withLines (h : s.MemOk) {asid core : Nat} {c : Cmd} {reads writes : List Range}
    {eff : State → State} (heff : ∀ s, s.MemOk → (eff s).MemOk) :
    (s.withLines asid core c reads writes eff).MemOk := by
  dsimp only [State.withLines]
  split
  · rename_i e
    exact .of_pair (.cmdPages h) e
  · rename_i e
    have ht := State.MemOk.of_pair (.cmdPages h) e
    split
    · rename_i e1
      exact .of_pair (.cmdPages ht) e1
    · rename_i e1
      have he1 := State.MemOk.of_pair (.cmdPages ht) e1
      exact .ite (heff _ (.foldl he1 (fun _ _ h1 => .engineLine h1))) he1

theorem State.MemOk.enterCmd (h : s.MemOk) {q : Nat} {c : Cmd} : (s.enterCmd q c).MemOk := .mapUnitOf h

theorem State.MemOk.command (h : s.MemOk) {q : Nat} {i : Instr} {wb : UReg} {check : State → Cmd → Option TrapCode} :
    (s.command q i wb check).MemOk := by
  dsimp only [State.command]
  refine .uniform h fun _ h1 => ?_
  split
  · exact .trapWave h1
  · split
    · exact .trapWave h1
    · exact .await h1 fun _ h2 => .enterCmd h2

theorem State.MemOk.completeCmd (h : s.MemOk) {asid core : Nat} {c : Cmd} : (s.completeCmd asid core c).MemOk := by
  dsimp only [State.completeCmd]
  split
  · rename_i e
    exact .of_pair (.ite_fst h (.cmdPage h)) e
  · rename_i e
    exact .completeNode (.mapUnit (.of_pair (.ite_fst h (.cmdPage h)) e))

/-! ### Bench -/

theorem State.MemOk.mapTile (h : s.MemOk) {asid core t : Nat} {f : Tile → Tile} : (s.mapTile asid core t f).MemOk :=
  .mapUnit h

theorem State.MemOk.postCovers (h : s.MemOk) {cs : List Cover} : (s.postCovers cs).MemOk :=
  .foldl h fun _ _ h1 => .post h1

theorem State.MemOk.retireTag (h : s.MemOk) {asid core t : Nat} : (s.retireTag asid core t).MemOk := by
  dsimp only [State.retireTag]
  exact .mapUnit (.addMxs (.foldl_fst h fun _ _ h1 => .postCovers (.mapTile h1)))

theorem State.MemOk.retireDone (h : s.MemOk) {asid core : Nat} : (s.retireDone asid core).MemOk :=
  .foldl h fun _ _ h1 => .ite (.retireTag h1) h1

theorem OutcomeOk.execWbmac (h : s.MemOk) {q : UReg} {t : TReg} {slot : FSlot} : OutcomeOk (execWbmac q t slot s) :=
  .next (.command h)

theorem OutcomeOk.execWbmacp (h : s.MemOk) {q : UReg} {t : TReg} {slot : FSlot} {plane : BitVec 3} :
    OutcomeOk (execWbmacp q t slot plane s) :=
  .next (.command h)

theorem OutcomeOk.execWbload (h : s.MemOk) {q : UReg} {slot : FSlot} : OutcomeOk (execWbload q slot s) :=
  .next (.command h)

theorem OutcomeOk.execWbswap (h : s.MemOk) {q : UReg} : OutcomeOk (execWbswap q s) := .next (.command h)

theorem OutcomeOk.execWbzero (h : s.MemOk) {q : UReg} {t : TReg} : OutcomeOk (execWbzero q t s) := .next (.command h)

theorem OptionOk.startMac (h : s.MemOk) {asid core : Nat} {c : Cmd} {dst : Nat} {f : Fmt} {pub : Option Nat} :
    OptionOk (s.startMac asid core c dst f pub) := by
  dsimp only [State.startMac]
  refine .ite (.some (.failCmd h)) ?_
  split
  · exact .some (.failCmd h)
  · exact .some (.failCmd h)
  · refine .ite .none (.some ?_)
    split
    · exact .mapUnit (.mapUnit (.count h))
    · exact .mapUnit (.count h)

theorem State.MemOk.formPrompt (h : s.MemOk) {asid core : Nat} {c : Cmd} {tag q : Nat}
    {bs : List (List (List (ℤ × ℤ)))} : (s.formPrompt asid core c tag q bs).MemOk :=
  .mapUnit h

theorem State.MemOk.afterPlane (h : s.MemOk) {asid core : Nat} {c : Cmd} {dst q : Nat} :
    (s.afterPlane asid core c dst q).MemOk := by
  unfold State.afterPlane
  extract_lets s1 s2
  have h1 : s1.MemOk := .spend (.count h)
  have h2 : s2.MemOk := by
    unfold s2
    split
    · exact .ite (.completeNode (.mapUnit (.mapTile h1))) h1
    · exact h1
  refine .ite ?_ (.mapUnit h2)
  split
  · exact .retireDone (.mapUnit (.spendFree h2))
  · exact .finishCmd h2

theorem OutcomeOk.execBenchPlane (h : s.MemOk) {core asid : Nat} : OutcomeOk (execBenchPlane core asid s) := by
  dsimp only [Machine.execBenchPlane]
  refine .next (.ite h ?_)
  split
  · exact h
  · split
    · exact h
    · refine .ite (.ite_fst (.cmdPage h) h) ?_
      split
      · exact .ite (.ite_fst (.cmdPage h) h) (.afterPlane (.formPrompt (.ite_fst (.cmdPage h) h)))
      · exact .ite (.ite_fst (.cmdPage h) h) (.ite (.ite_fst (.cmdPage h) h) (.afterPlane (.mapUnit (.mapTile
          (.ite_fst (.cmdPage h) h)))))

theorem OutcomeOk.execPromptApply (h : s.MemOk) {core asid : Nat} : OutcomeOk (execPromptApply core asid s) := by
  dsimp only [Machine.execPromptApply]
  refine .next (.ite h ?_)
  split
  · exact h
  · exact .retireDone (.count (.foldl (.mapUnit h) fun _ _ h1 => .mapUnit h1))

/-! ### Buf -/

theorem OutcomeOk.execBufset (h : s.MemOk) {d : BReg} {a : UReg} : OutcomeOk (execBufset d a s) :=
  .next (.uniform h fun _ h1 => .ite (.trapWave h1) (.ite (.trapWave h1) (.setB h1)))

theorem OutcomeOk.execBufget (h : s.MemOk) {d : UReg} {a : BReg} : OutcomeOk (execBufget d a s) :=
  .next (.uniform h fun _ h1 => .setU2 h1)

theorem OutcomeOk.execBufnar (h : s.MemOk) {d a : BReg} {b : UReg} : OutcomeOk (execBufnar d a b s) :=
  .next (.uniform h fun _ h1 => .ite (.trapWave h1) (.ite (.trapWave h1) (.ite (.trapWave h1) (.ite (.trapWave h1)
    (.setB h1)))))

/-! ### Cast -/

theorem State.MemOk.castWord (h : s.MemOk) {m : Option Nat} {eff : State → State}
    (heff : ∀ s, s.MemOk → (eff s).MemOk) : (s.castWord m eff).MemOk :=
  .uniform h fun _ h1 => .ite (.trapWave h1) (heff _ h1)

theorem State.MemOk.leaveCast (h : s.MemOk) {tid : Nat} : (s.leaveCast tid).MemOk := by
  dsimp only [State.leaveCast]
  split
  · exact h
  · exact .ite (.mapThread (.castDrop h) fun _ => by rfl) (.mapCast (.mapThread (.castDrop h) fun _ => by rfl))

theorem State.MemOk.recordArrival (h : s.MemOk) {m : Nat} : (s.recordArrival m).1.MemOk :=
  .castCheck (.mapMe (.mapCast (.ite h (.mapCast h))) fun _ => by rfl)

theorem State.MemOk.arrive (h : s.MemOk) {m : Nat} {done : State → Nat → State}
    (hdone : ∀ (a : State) (a_1 : Nat), a.MemOk → (done a a_1).MemOk) : (s.arrive m done).MemOk :=
  .ite (.trapWave h) (.await h fun _ h1 => .await h1 fun _ h2 => .ite (.trapWave h2) (hdone _ _ (.recordArrival h2)))

theorem OutcomeOk.execJoin (h : s.MemOk) {m : BitVec 4} : OutcomeOk (execJoin m s) :=
  .next (.castWord h fun _ h1 => .ite (.trapWave h1) (.mapMe (.mapCast h1) fun _ => by rfl))

theorem OutcomeOk.execLeave (h : s.MemOk) : OutcomeOk (execLeave s) :=
  .next (.castWord h fun _ h1 => .ite (.trapWave h1) (.leaveCast h1))

theorem OutcomeOk.execArrive (h : s.MemOk) {m : BitVec 4} : OutcomeOk (execArrive m s) :=
  .next (.castWord h fun _ h1 => .arrive h1 fun _ _ h2 => h2)

theorem OutcomeOk.execBarw (h : s.MemOk) {m : BitVec 4} : OutcomeOk (execBarw m s) := by
  dsimp only [Machine.execBarw]
  refine .next (.castWord h fun _ h1 => ?_)
  split
  · exact .await h1 fun _ h2 => h2
  · exact .arrive h1 fun _ _ h2 => .await (.mapMe h2 fun _ => by rfl) fun _ h3 => h3

theorem OutcomeOk.execWaitb (h : s.MemOk) {m : BitVec 4} : OutcomeOk (execWaitb m s) := by
  dsimp only [Machine.execWaitb]
  refine .next (.castWord h fun _ h1 => .ite (.trapWave h1) ?_)
  split
  · exact h1
  · exact .await h1 fun _ h2 => h2

theorem OutcomeOk.execCastq (h : s.MemOk) {d : UReg} {m : BitVec 4} : OutcomeOk (execCastq d m s) :=
  .next (.uniform h fun _ h1 => .setU h1)

/-! ### Control -/

theorem State.MemOk.callAll (h : s.MemOk) {ret : Nat} {tgt : Nat → Nat} {bad : List Taken} :
    (s.callAll ret tgt bad).MemOk :=
  .ite (.trapping (.reserve h) (fun _ h1 => .mapActive (.storeAll h1))) (.await h fun _ h1 => .trapping (.reserve h1)
    fun _ h2 => .mapActive (.storeAll h2))

theorem State.MemOk.refill (h : s.MemOk) {ps : Lanes} : (s.refill ps).1.MemOk := .readLines h

theorem OutcomeOk.execNop (h : s.MemOk) : OutcomeOk (execNop s) := .next h

theorem OutcomeOk.execExit (h : s.MemOk) : OutcomeOk (execExit s) :=
  .next (.laneWise h fun _ h1 => .mapMe (.mapActive (.castDrop h1)) fun _ => by rfl)

theorem OutcomeOk.execYield (h : s.MemOk) : OutcomeOk (execYield s) :=
  .next (.laneWise h fun _ h1 => .ite h1 (.mapMe h1 fun _ => by rfl))

theorem OutcomeOk.execRet (h : s.MemOk) : OutcomeOk (execRet s) :=
  .next (.laneWise h fun _ h1 => .ite (.trapping (.refill h1) (fun _ h2 => .mapActive h2)) (.await h1 fun _ h2 =>
    .awaitLines (.reserve h2) fun _ h3 => .trapping (.refill h3) fun _ h4 => .mapActive h4))

theorem OutcomeOk.execBkpt (h : s.MemOk) : OutcomeOk (execBkpt s) :=
  .next (.laneWise h fun _ h1 => .trapLanes h1 fun _ h2 => h2)

theorem OutcomeOk.execTrap (h : s.MemOk) : OutcomeOk (execTrap s) :=
  .next (.laneWise h fun _ h1 => .trapLanes h1 fun _ h2 => h2)

theorem OutcomeOk.execWaitev (h : s.MemOk) {a : UReg} : OutcomeOk (execWaitev a s) :=
  .next (.uniform h fun _ h1 => .ite (.trapWave h1) (.ite h1 (.await h1 fun _ h2 => .mapMe h2 fun _ => by rfl)))

theorem OutcomeOk.execBra (h : s.MemOk) {off : BitVec 18} : OutcomeOk (execBra off s) :=
  .next (.uniform h fun _ h1 => .branch h1)

theorem OutcomeOk.execBrt (h : s.MemOk) {p : PReg} {off : BitVec 18} : OutcomeOk (execBrt p off s) :=
  .next (.laneWise h fun _ h1 => .branch h1)

theorem OutcomeOk.execBrf (h : s.MemOk) {p : PReg} {off : BitVec 18} : OutcomeOk (execBrf p off s) :=
  .next (.laneWise h fun _ h1 => .branch h1)

theorem OutcomeOk.execBrany (h : s.MemOk) {p : PReg} {off : BitVec 18} : OutcomeOk (execBrany p off s) :=
  .next (.uniform h fun _ h1 => .branch h1)

theorem OutcomeOk.execBrall (h : s.MemOk) {p : PReg} {off : BitVec 18} : OutcomeOk (execBrall p off s) :=
  .next (.uniform h fun _ h1 => .branch h1)

theorem OutcomeOk.execCall (h : s.MemOk) {off : BitVec 18} : OutcomeOk (execCall off s) :=
  .next (.laneWise h fun _ h1 => .callAll h1)

theorem OutcomeOk.execJmpi (h : s.MemOk) {a : UReg} : OutcomeOk (execJmpi a s) :=
  .next (.uniform h fun _ h1 => .ite (.branch h1) (.trapWave h1))

theorem OutcomeOk.execCalli (h : s.MemOk) {a : Src} : OutcomeOk (execCalli a s) :=
  .next (.laneWise h fun _ h1 => .callAll h1)

theorem OutcomeOk.execLoop (h : s.MemOk) {d : UReg} {imm : BitVec 10} : OutcomeOk (execLoop d imm s) :=
  .next (.uniform h fun _ h1 => .ite (.branch (.setU h1)) (.branch (.setU h1)))

theorem OutcomeOk.execGuard (h : s.MemOk) {p : PReg} {sense : Bool} : OutcomeOk (execGuard p sense s) :=
  .next (.others h)

theorem OutcomeOk.execPand (h : s.MemOk) {d a b : PReg} : OutcomeOk (execPand d a b s) :=
  .next (.laneWise h fun _ h1 => .setPred h1)

theorem OutcomeOk.execPor (h : s.MemOk) {d a b : PReg} : OutcomeOk (execPor d a b s) :=
  .next (.laneWise h fun _ h1 => .setPred h1)

theorem OutcomeOk.execPxor (h : s.MemOk) {d a b : PReg} : OutcomeOk (execPxor d a b s) :=
  .next (.laneWise h fun _ h1 => .setPred h1)

theorem OutcomeOk.execPandn (h : s.MemOk) {d a b : PReg} : OutcomeOk (execPandn d a b s) :=
  .next (.laneWise h fun _ h1 => .setPred h1)

theorem OutcomeOk.execPmov (h : s.MemOk) {d a : PReg} : OutcomeOk (execPmov d a s) :=
  .next (.laneWise h fun _ h1 => .setPred h1)

theorem OutcomeOk.execPtov (h : s.MemOk) {d : LReg} {a : PReg} : OutcomeOk (execPtov d a s) :=
  .next (.laneWise h fun _ h1 => .setGroup h1)

theorem OutcomeOk.execBallot (h : s.MemOk) {d : UReg} {a : PReg} : OutcomeOk (execBallot d a s) :=
  .next (.uniform h fun _ h1 => .setU h1)

theorem OutcomeOk.execVote (h : s.MemOk) {d a : PReg} : OutcomeOk (execVote d a s) :=
  .next (.laneWise h fun _ h1 => .setPred h1)

/-! ### Float -/

theorem State.MemOk.setFloat (h : s.MemOk) {p : Pipe} {d : Dst} {f : Nat → Word × Flags} : (s.setFloat p d f).MemOk :=
  .addFlags (.setLane h)

theorem OutcomeOk.execFadd (h : s.MemOk) {d : Dst} {a b : Src} : OutcomeOk (execFadd d a b s) :=
  .next (.laneWise h fun _ h1 => .setFloat h1)

theorem OutcomeOk.execFsub (h : s.MemOk) {d : Dst} {a b : Src} : OutcomeOk (execFsub d a b s) :=
  .next (.laneWise h fun _ h1 => .setFloat h1)

theorem OutcomeOk.execFmul (h : s.MemOk) {d : Dst} {a b : Src} : OutcomeOk (execFmul d a b s) :=
  .next (.laneWise h fun _ h1 => .setFloat h1)

theorem OutcomeOk.execFfma (h : s.MemOk) {d : LReg} {a b : Src} : OutcomeOk (execFfma d a b s) :=
  .next (.laneWise h fun _ h1 => .setFloat h1)

theorem OutcomeOk.execFmin (h : s.MemOk) {d : Dst} {a b : Src} : OutcomeOk (execFmin d a b s) :=
  .next (.laneWise h fun _ h1 => .setFloat h1)

theorem OutcomeOk.execFmax (h : s.MemOk) {d : Dst} {a b : Src} : OutcomeOk (execFmax d a b s) :=
  .next (.laneWise h fun _ h1 => .setFloat h1)

theorem OutcomeOk.execFamin (h : s.MemOk) {d : Dst} {a b : Src} : OutcomeOk (execFamin d a b s) :=
  .next (.laneWise h fun _ h1 => .setFloat h1)

theorem OutcomeOk.execFfms (h : s.MemOk) {d : LReg} {a b : Src} : OutcomeOk (execFfms d a b s) :=
  .next (.laneWise h fun _ h1 => .setFloat h1)

theorem OutcomeOk.execBadd2 (h : s.MemOk) {d : Dst} {a b : Src} : OutcomeOk (execBadd2 d a b s) :=
  .next (.laneWise h fun _ h1 => .setFloat h1)

theorem OutcomeOk.execBmul2 (h : s.MemOk) {d : Dst} {a b : Src} : OutcomeOk (execBmul2 d a b s) :=
  .next (.laneWise h fun _ h1 => .setFloat h1)

theorem OutcomeOk.execBfma2 (h : s.MemOk) {d : LReg} {a b : Src} : OutcomeOk (execBfma2 d a b s) :=
  .next (.laneWise h fun _ h1 => .setFloat h1)

theorem OutcomeOk.execBmax2 (h : s.MemOk) {d : Dst} {a b : Src} : OutcomeOk (execBmax2 d a b s) :=
  .next (.laneWise h fun _ h1 => .setFloat h1)

theorem OutcomeOk.execHadd2 (h : s.MemOk) {d : Dst} {a b : Src} : OutcomeOk (execHadd2 d a b s) :=
  .next (.laneWise h fun _ h1 => .setFloat h1)

theorem OutcomeOk.execHmul2 (h : s.MemOk) {d : Dst} {a b : Src} : OutcomeOk (execHmul2 d a b s) :=
  .next (.laneWise h fun _ h1 => .setFloat h1)

theorem OutcomeOk.execHfma2 (h : s.MemOk) {d : LReg} {a b : Src} : OutcomeOk (execHfma2 d a b s) :=
  .next (.laneWise h fun _ h1 => .setFloat h1)

theorem OutcomeOk.execHmax2 (h : s.MemOk) {d : Dst} {a b : Src} : OutcomeOk (execHmax2 d a b s) :=
  .next (.laneWise h fun _ h1 => .setFloat h1)

theorem OutcomeOk.execFrcp (h : s.MemOk) {d : Dst} {a : Src} : OutcomeOk (execFrcp d a s) :=
  .next (.laneWise h fun _ h1 => .setFloat h1)

theorem OutcomeOk.execFrsq (h : s.MemOk) {d : Dst} {a : Src} : OutcomeOk (execFrsq d a s) :=
  .next (.laneWise h fun _ h1 => .setFloat h1)

theorem OutcomeOk.execFsqrt (h : s.MemOk) {d : Dst} {a : Src} : OutcomeOk (execFsqrt d a s) :=
  .next (.laneWise h fun _ h1 => .setFloat h1)

theorem OutcomeOk.execFexp2 (h : s.MemOk) {d : Dst} {a : Src} : OutcomeOk (execFexp2 d a s) :=
  .next (.laneWise h fun _ h1 => .setFloat h1)

theorem OutcomeOk.execFlog2 (h : s.MemOk) {d : Dst} {a : Src} : OutcomeOk (execFlog2 d a s) :=
  .next (.laneWise h fun _ h1 => .setFloat h1)

theorem OutcomeOk.execFtanh (h : s.MemOk) {d : Dst} {a : Src} : OutcomeOk (execFtanh d a s) :=
  .next (.laneWise h fun _ h1 => .setFloat h1)

theorem OutcomeOk.execFsin2pi (h : s.MemOk) {d : Dst} {a : Src} : OutcomeOk (execFsin2pi d a s) :=
  .next (.laneWise h fun _ h1 => .setFloat h1)

theorem OutcomeOk.execFrnd (h : s.MemOk) {d : Dst} {a : Src} {rnd : Rnd} : OutcomeOk (execFrnd d a rnd s) :=
  .next (.laneWise h fun _ h1 => .setFloat h1)

theorem OutcomeOk.execFdiv (h : s.MemOk) {d : Dst} {a b : Src} : OutcomeOk (execFdiv d a b s) :=
  .next (.laneWise h fun _ h1 => .setFloat h1)

theorem OutcomeOk.execFabs (h : s.MemOk) {d : Dst} {a : Src} : OutcomeOk (execFabs d a s) :=
  .next (.laneWise h fun _ h1 => .setLane h1)

theorem OutcomeOk.execFneg (h : s.MemOk) {d : Dst} {a : Src} : OutcomeOk (execFneg d a s) :=
  .next (.laneWise h fun _ h1 => .setLane h1)

theorem OutcomeOk.execFcpys (h : s.MemOk) {d : Dst} {a b : Src} : OutcomeOk (execFcpys d a b s) :=
  .next (.laneWise h fun _ h1 => .setLane h1)

theorem OutcomeOk.execFclass (h : s.MemOk) {d : Dst} {a : Src} : OutcomeOk (execFclass d a s) :=
  .next (.laneWise h fun _ h1 => .setLane h1)

theorem OutcomeOk.execFscale (h : s.MemOk) {d : Dst} {a b : Src} : OutcomeOk (execFscale d a b s) :=
  .next (.laneWise h fun _ h1 => .setFloat h1)

theorem OutcomeOk.execFexpt (h : s.MemOk) {d : Dst} {a : Src} : OutcomeOk (execFexpt d a s) :=
  .next (.laneWise h fun _ h1 => .setFloat h1)

theorem OutcomeOk.execFcmp (h : s.MemOk) {cond : FCond} {p : PReg} {a b : Src} : OutcomeOk (execFcmp cond p a b s) :=
  .next (.laneWise h fun _ h1 => .addFlags (.setPred h1))

theorem OutcomeOk.execFflrd (h : s.MemOk) {d : UReg} : OutcomeOk (execFflrd d s) :=
  .next (.uniform h fun _ h1 => .setU h1)

theorem State.MemOk.clearFlags (h : s.MemOk) {m : Dword} : (s.clearFlags m).MemOk := .mapMe h fun _ => by rfl

theorem OutcomeOk.execFflclr (h : s.MemOk) {a : UReg} : OutcomeOk (execFflclr a s) :=
  .next (.uniform h fun _ h1 => .ite (.trapWave h1) (.clearFlags h1))

theorem OutcomeOk.execFmode (h : s.MemOk) {a : UReg} : OutcomeOk (execFmode a s) :=
  .next (.uniform h fun _ h1 => .ite (.trapWave h1) (.mapMe h1 fun _ => by rfl))

/-! ### Convert -/

theorem State.MemOk.setConv (h : s.MemOk) {d : Dst} {f : Nat → Option (Word × Flags)} : (s.setConv d f).MemOk :=
  .trapLanes h fun _ h1 => .setFloat h1

theorem OutcomeOk.execFcvt (h : s.MemOk) {d : Dst} {a : Src} {ty : FTy} {pol : Pol} {rnd : Rnd} :
    OutcomeOk (execFcvt d a ty pol rnd s) :=
  .next (.laneWise h fun _ h1 => .setConv h1)

theorem OutcomeOk.execFupcvt (h : s.MemOk) {d : Dst} {a : Src} {ty : FTy} : OutcomeOk (execFupcvt d a ty s) :=
  .next (.laneWise h fun _ h1 => .setFloat h1)

theorem OutcomeOk.execIcvtf (h : s.MemOk) {d : Dst} {a : Src} {ty : ITy} {_pol : Pol} {rnd : Rnd} :
    OutcomeOk (execIcvtf d a ty _pol rnd s) :=
  .next (.laneWise h fun _ h1 => .setFloat h1)

theorem OutcomeOk.execFcvti (h : s.MemOk) {d : Dst} {a : Src} {ty : ITy} {pol : Pol} {rnd : Rnd} :
    OutcomeOk (execFcvti d a ty pol rnd s) :=
  .next (.laneWise h fun _ h1 => .setConv h1)

theorem OutcomeOk.execQpack (h : s.MemOk) {d : Dst} {a : LReg} {slot : FSlot} {pol : Pol} {rnd : Rnd} :
    OutcomeOk (execQpack d a slot pol rnd s) :=
  .next (.laneWise h fun _ h1 => .ite (.trapRun h1) (.setConv h1))

theorem OutcomeOk.execQunpack (h : s.MemOk) {d : LReg} {a : Src} {slot : FSlot} :
    OutcomeOk (execQunpack d a slot s) :=
  .next (.laneWise h fun _ h1 => .ite (.trapRun h1) (.ite (.countLanes (.addFlags (.setGroup h1))) (.addFlags
    (.setGroup h1))))

theorem OutcomeOk.execI8pack (h : s.MemOk) {d : Dst} {a : LReg} {pol : Pol} : OutcomeOk (execI8pack d a pol s) :=
  .next (.laneWise h fun _ h1 => .ite (.trapRun h1) (.setConv h1))

/-! ### Tile -/

theorem State.MemOk.cutRows (h : s.MemOk) {asid core t : Nat} {m : Mask} : (s.cutRows asid core t m).MemOk := by
  dsimp only [State.cutRows]
  refine .retireDone (.postCovers (.mapTile (.foldl h fun _ _ h1 => ?_)))
  split
  · exact .mapUnit h1
  · exact h1

theorem State.MemOk.landRows (h : s.MemOk) {asid core t : Nat} {cuts : Bool} {m : Mask} {cells : List (List ℤ)}
    {ls : List Link} {et : ℤ} : (s.landRows asid core t cuts m cells ls et).1.MemOk :=
  .mapTile (.ite (.cutRows h) h)

theorem OutcomeOk.execTadd (h : s.MemOk) {q : UReg} {t : TReg} : OutcomeOk (execTadd q t s) := .next (.command h)

theorem OutcomeOk.execTsub (h : s.MemOk) {q : UReg} {t : TReg} : OutcomeOk (execTsub q t s) := .next (.command h)

theorem OutcomeOk.execTshl (h : s.MemOk) {q : UReg} {t : TReg} : OutcomeOk (execTshl q t s) := .next (.command h)

theorem OutcomeOk.execTmov (h : s.MemOk) {q : UReg} {t : TReg} : OutcomeOk (execTmov q t s) := .next (.command h)

theorem OutcomeOk.execTneg (h : s.MemOk) {q : UReg} {t : TReg} : OutcomeOk (execTneg q t s) := .next (.command h)

theorem OutcomeOk.execTslice (h : s.MemOk) {q : UReg} {t : TReg} : OutcomeOk (execTslice q t s) := .next (.command h)

theorem State.MemOk.readTile (h : s.MemOk) {asid core : Nat} {c : Cmd} {cells : List (List ℤ)} {ls : List Link}
    {et : ℤ} : (s.readTile asid core c cells ls et).MemOk :=
  .mapUnit h

theorem OptionOk.startSlice (h : s.MemOk) {asid core : Nat} {c : Cmd} {dst : Nat} :
    OptionOk (s.startSlice asid core c dst) :=
  .ite .none (.some (.readTile h))

theorem State.MemOk.endSlice (h : s.MemOk) {asid core : Nat} {c : Cmd} {dst : Nat} :
    (s.endSlice asid core c dst).MemOk :=
  .mapTile (.cutRows h)

theorem State.MemOk.endZero (h : s.MemOk) {asid core : Nat} {c : Cmd} {dst : Nat} :
    (s.endZero asid core c dst).MemOk :=
  .mapTile (.cutRows h)

theorem State.MemOk.mapShadow (h : s.MemOk) {asid core : Nat} {f : Bank → Bank} : (s.mapShadow asid core f).MemOk :=
  .mapUnit h

theorem State.MemOk.loadStep (h : s.MemOk) {asid core : Nat} {c : Cmd} {f : Fmt} :
    (s.loadStep asid core c f).MemOk := by
  dsimp only [State.loadStep]
  split
  · refine .withLines h fun _ h1 => ?_
    split
    · exact .mapUnit h1
    · exact .failCmd h1
  · exact .completeCmd (.spendFree (.mapShadow h))

theorem OptionOk.startQ0 (h : s.MemOk) {asid core : Nat} {c : Cmd} : OptionOk (s.startQ0 asid core c) := by
  dsimp only [State.startQ0]
  split
  · exact .map fun _ => .readTile h
  · exact .map fun _ => .readTile h
  · exact .map fun _ => .readTile h
  · exact .map fun _ => .readTile h
  · exact .map fun _ => .readTile h
  · exact .startSlice h
  · exact .ite .none (.some (.readTile h))
  · exact .some (.readTile h)
  · exact .some (.readTile (.mapShadow h))
  · exact .startMac h
  · exact .startMac h
  · exact .none

theorem OutcomeOk.execQ0CommandStart (h : s.MemOk) {core asid : Nat} :
    OutcomeOk (execQ0CommandStart core asid s) := by
  dsimp only [Machine.execQ0CommandStart]
  refine .next ?_
  split
  · exact h
  · exact .ite h (.ite (.discardCmd (.postCmd h)) (.ite h (.getD (.startQ0 h) h)))

theorem State.MemOk.endTile (h : s.MemOk) {asid core : Nat} {c : Cmd} {sat : Nat} :
    (s.endTile asid core c sat).MemOk :=
  .retireDone (.completeCmd (.spendFree h))

theorem State.MemOk.endQ0 (h : s.MemOk) {asid core : Nat} {c : Cmd} : (s.endQ0 asid core c).MemOk := by
  dsimp only [State.endQ0]
  split
  · exact .endTile (.landRows h)
  · exact .endTile (.landRows h)
  · exact .endTile (.landRows h)
  · exact .endTile (.landRows h)
  · exact .endTile (.landRows h)
  · exact .endTile (.endSlice h)
  · exact .endTile (.endZero h)
  · exact .endTile (.mapUnit h)
  · exact .loadStep h
  · exact h

theorem OutcomeOk.execNodeComplete (h : s.MemOk) {core asid cmd : Nat} :
    OutcomeOk (execNodeComplete core asid cmd s) := by
  dsimp only [Machine.execNodeComplete]
  refine .next ?_
  split
  · refine .ite h (.ite (.ite (.completeCmd h) h) (.ite ?_ h))
    split
    · rename_i e
      exact .of_pair (.ite_fst h (.cmdPage h)) e
    · rename_i e
      exact .endQ0 (.haltedAt (.of_pair (.ite_fst h (.cmdPage h)) e))
  · exact h

theorem OutcomeOk.execTcvt (h : s.MemOk) {q : UReg} {t : TReg} {slot : FSlot} : OutcomeOk (execTcvt q t slot s) :=
  .next (.laneWise h fun _ h1 => .ite (.trapRun h1) (.ite (.ite (.pushAll h1) h1) (.await h1 fun _ h2 => .trapLanes h2
    fun _ h3 => .addFlags (.ite (.pushAll (.setGroup h3)) (.setGroup h3)))))

theorem OutcomeOk.execSettle (h : s.MemOk) {t : TReg} : OutcomeOk (execSettle t s) :=
  .next (.uniform h fun _ h1 => .await h1 fun _ h2 => h2)

theorem OutcomeOk.execTlin (h : s.MemOk) {q : UReg} {t : TReg} : OutcomeOk (execTlin q t s) :=
  .next (.uniform h fun _ h1 => .setU h1)

theorem OutcomeOk.execTrd (h : s.MemOk) {q : UReg} {t : TReg} {prov : Bool} : OutcomeOk (execTrd q t prov s) :=
  .next (.laneWise h fun _ h1 => .ite (.trapRun h1) (.ite h1 (.await h1 fun _ h2 => .setGroup h2)))

theorem OutcomeOk.execTwr (h : s.MemOk) {q : UReg} {t : TReg} : OutcomeOk (execTwr q t s) :=
  .next (.laneWise h fun _ h1 => .ite (.trapRun h1) (.ite h1 (.await h1 fun _ h2 => .mapTile (.cutRows h2))))

/-! ### Pair -/

theorem OutcomeOk.execApcfg (h : s.MemOk) {q : UReg} : OutcomeOk (execApcfg q s) := .next (.command h)

theorem OutcomeOk.execApqk (h : s.MemOk) {q : UReg} {slot : FSlot} : OutcomeOk (execApqk q slot s) :=
  .next (.command h)

theorem OutcomeOk.execAppv (h : s.MemOk) {q : UReg} {t : TReg} {slot : FSlot} {acc hi : Bool} :
    OutcomeOk (execAppv q t slot acc hi s) :=
  .next (.command h)

theorem OutcomeOk.execApresc (h : s.MemOk) {q : UReg} {t : TReg} : OutcomeOk (execApresc q t s) := .next (.command h)

theorem OutcomeOk.execApnorm (h : s.MemOk) {q : UReg} {t : TReg} {exp : Bool} : OutcomeOk (execApnorm q t exp s) :=
  .next (.command h)

theorem State.MemOk.mapPair (h : s.MemOk) {asid core : Nat} {f : Pair → Pair} : (s.mapPair asid core f).MemOk :=
  .mapUnit h

theorem State.MemOk.endPair (h : s.MemOk) {asid core : Nat} {c : Cmd} {nans : Nat} :
    (s.endPair asid core c nans).MemOk :=
  .finishCmd h

theorem State.MemOk.runCfg (h : s.MemOk) {asid core : Nat} {c : Cmd} : (s.runCfg asid core c).MemOk :=
  .endPair (.mapPair h)

theorem State.MemOk.runScores (h : s.MemOk) {asid core : Nat} {c : Cmd} {f : Fmt} :
    (s.runScores asid core c f).MemOk :=
  .endPair (.spend (.count (.mapPair h)))

theorem State.MemOk.runValues (h : s.MemOk) {asid core : Nat} {c : Cmd} {t : Nat} {f : Fmt} {acc hi : Bool} :
    (s.runValues asid core c t f acc hi).MemOk :=
  .endPair (.ite (.mapTile h) (.mapPair (.mapTile h)))

theorem State.MemOk.eachCell (h : s.MemOk) {asid core t : Nat} {f : Nat → Word → Word × Nat} :
    (s.eachCell asid core t f).1.MemOk :=
  .mapTile h

theorem State.MemOk.runResc (h : s.MemOk) {asid core : Nat} {c : Cmd} {t : Nat} :
    (s.runResc asid core c t).MemOk := by
  dsimp only [State.runResc]
  exact .endPair (.mapPair (.eachCell h))

theorem State.MemOk.runNorm (h : s.MemOk) {asid core : Nat} {c : Cmd} {t : Nat} :
    (s.runNorm asid core c t).MemOk := by
  dsimp only [State.runNorm]
  exact .endPair (.eachCell h)

theorem State.MemOk.runExp (h : s.MemOk) {asid core : Nat} {c : Cmd} : (s.runExp asid core c).MemOk := by
  dsimp only [State.runExp]
  refine .withLines h fun _ h1 => ?_
  split
  · rename_i e
    exact .finishCmd (.of_pair (.recWrite h1) e)
  · rename_i e
    exact .failCmd h1

theorem State.MemOk.runPair (h : s.MemOk) {asid core : Nat} {c : Cmd} : (s.runPair asid core c).MemOk := by
  dsimp only [State.runPair]
  split
  · exact .runCfg h
  · exact .runScores h
  · exact .runValues h
  · exact .runResc h
  · exact .ite (.runExp h) (.runNorm h)
  · exact h

theorem State.MemOk.pairStep (h : s.MemOk) {asid core : Nat} {c : Cmd} : (s.pairStep asid core c).MemOk := by
  dsimp only [State.pairStep]
  split
  · refine .withLines h fun _ h1 => ?_
    split
    · exact .mapUnit h1
    · exact .failCmd h1
  · exact .runPair h

theorem OutcomeOk.execPairCommandStart (h : s.MemOk) {core asid : Nat} :
    OutcomeOk (execPairCommandStart core asid s) := by
  dsimp only [Machine.execPairCommandStart]
  refine .next (.ite h ?_)
  split
  · exact .pairStep (.haltedAt h)
  · split
    · exact h
    · exact .ite h (.ite (.discardCmd (.postCmd h)) (.ite h (.pairStep h)))

/-! ### Copy -/

theorem OutcomeOk.execCecopy (h : s.MemOk) {q : UReg} {t : TReg} {tile : Bool} : OutcomeOk (execCecopy q t tile s) :=
  .next (.command h)

theorem OutcomeOk.execCelist (h : s.MemOk) {q : UReg} : OutcomeOk (execCelist q s) := .next (.command h)

theorem OutcomeOk.execCerope (h : s.MemOk) {q : UReg} {slot src : FSlot} : OutcomeOk (execCerope q slot src s) :=
  .next (.command h)

theorem OutcomeOk.execCepatch (h : s.MemOk) {q : UReg} {slot : FSlot} {rot : Bool} :
    OutcomeOk (execCepatch q slot rot s) :=
  .next (.command h)

theorem OutcomeOk.execCereq (h : s.MemOk) {q : UReg} {slot src : FSlot} : OutcomeOk (execCereq q slot src s) :=
  .next (.command h)

theorem OutcomeOk.execCered (h : s.MemOk) {q : UReg} {t : TReg} {op : RedOp} : OutcomeOk (execCered q t op s) :=
  .next (.command h)

theorem OutcomeOk.execCefill (h : s.MemOk) {q : UReg} : OutcomeOk (execCefill q s) := .next (.command h)

theorem State.MemOk.mapCmd (h : s.MemOk) {asid core id : Nat} {f : Cmd → Cmd} : (s.mapCmd asid core id f).MemOk :=
  .mapUnit h

theorem State.MemOk.stopCopy (h : s.MemOk) {asid core : Nat} {c : Cmd} {code : TrapCode} {addr : Nat} :
    (s.stopCopy asid core c code addr).MemOk :=
  .failCmd h

theorem State.MemOk.copyLine (h : s.MemOk) {asid core : Nat} {c : Cmd} {x : Span} {line : Nat} :
    (s.copyLine asid core c x line).MemOk := by
  dsimp only [State.copyLine]
  refine .withLines h fun _ h1 => ?_
  split
  · exact .stopCopy h1
  · split
    · rename_i e
      exact .mapCmd (.count (.of_pair (.recWrite h1) e))
    · rename_i e
      exact .stopCopy (.mapCmd (.of_pair (.recWrite h1) e))

theorem State.MemOk.takeProxies (h : s.MemOk) {asid core target : Nat} {c : Cmd} {pairs : List (Nat × Nat × Nat)} :
    (s.takeProxies asid core target c pairs).MemOk :=
  .foldl h fun _ _ h1 => .mapUnit (.mapUnit h1)

theorem State.MemOk.mapChannel (h : s.MemOk) {asid : Nat} {n : Option Nat} {f : Fifo → Fifo} :
    (s.mapChannel asid n f).MemOk := by
  dsimp only [State.mapChannel]
  split
  · exact .mapDomain h
  · exact h

theorem OptionOk.startRed (h : s.MemOk) {asid core : Nat} {c : Cmd} {t : Nat} {op : RedOp} :
    OptionOk (s.startRed asid core c t op) :=
  .ite (.map (fun _ => .mapCmd h)) (.ite .none (.ite (.some (.failCmd h)) (.ite .none (.some (.mapCmd (.takeProxies
    (.mapChannel h)))))))

theorem OptionOk.landRed (h : s.MemOk) {asid core : Nat} {c : Cmd} {t : Nat} {op : RedOp} :
    OptionOk (s.landRed asid core c t op) :=
  .map fun _ => .retireDone (.retireDone (.finishCmd (.count (.mapChannel (.mapUnit (.landRows h))))))

/-- The first state that a search over operations finds. -/
theorem OptionOk.findSome? {α : Type} {f : α → Option State} (hf : ∀ x, OptionOk (f x)) (l : List α) :
    OptionOk (l.findSome? f) := by
  cases e : l.findSome? f with
  | none => exact .none
  | some t =>
    obtain ⟨x, -, hx⟩ := List.exists_of_findSome?_eq_some e
    exact hx ▸ hf x

theorem OutcomeOk.execCeredLand (h : s.MemOk) {core asid : Nat} : OutcomeOk (Machine.execCeredLand core asid s) := by
  refine .next (.ite h (.getD (.findSome? (fun c => ?_) _) h))
  split
  · exact .ite .none (.ite (.some (.failCmd h)) (.landRed h))
  · exact .none

theorem OutcomeOk.execProxyAck (h : s.MemOk) {core asid : Nat} : OutcomeOk (execProxyAck core asid s) := by
  dsimp only [Machine.execProxyAck]
  refine .next (.ite h ?_)
  split
  · exact h
  · exact .retireDone (.mapUnit (.retireTag h))

theorem State.MemOk.readEntry (h : s.MemOk) {asid core : Nat} {c : Cmd} : (s.readEntry asid core c).MemOk := by
  dsimp only [State.readEntry]
  split
  · refine .withLines h fun _ h1 => ?_
    split
    · exact .mapCmd h1
    · exact .stopCopy h1
  · split
    · exact .stopCopy h
    · refine .withLines h fun _ h1 => ?_
      split
      · exact .mapCmd h1
      · exact .stopCopy h1
  · exact h

theorem State.MemOk.copyStep (h : s.MemOk) {asid core : Nat} {c : Cmd} : (s.copyStep asid core c).MemOk := by
  dsimp only [State.copyStep]
  refine .ite (.finishCmd h) ?_
  split
  · exact .readEntry h
  · split
    · exact .stopCopy h
    · split
      · exact .copyLine h
      · exact .mapCmd h

theorem OutcomeOk.execCopyCommandStart (h : s.MemOk) {core asid : Nat} :
    OutcomeOk (execCopyCommandStart core asid s) := by
  dsimp only [Machine.execCopyCommandStart]
  refine .next ?_
  split
  · exact h
  · refine .ite h ?_
    split
    · exact .copyStep h
    · refine .ite (.discardCmd (.postCmd h)) ?_
      split
      · exact .getD (.startRed h) h
      · exact .copyStep h

/-! ### Integer -/

theorem OutcomeOk.execIadd (h : s.MemOk) {d : Dst} {a b : Src} : OutcomeOk (execIadd d a b s) :=
  .next (.laneWise h fun _ h1 => .setLane h1)

theorem OutcomeOk.execIsub (h : s.MemOk) {d : Dst} {a b : Src} : OutcomeOk (execIsub d a b s) :=
  .next (.laneWise h fun _ h1 => .setLane h1)

theorem OutcomeOk.execAnd (h : s.MemOk) {d : Dst} {a b : Src} : OutcomeOk (execAnd d a b s) :=
  .next (.laneWise h fun _ h1 => .setLane h1)

theorem OutcomeOk.execOr (h : s.MemOk) {d : Dst} {a b : Src} : OutcomeOk (execOr d a b s) :=
  .next (.laneWise h fun _ h1 => .setLane h1)

theorem OutcomeOk.execXor (h : s.MemOk) {d : Dst} {a b : Src} : OutcomeOk (execXor d a b s) :=
  .next (.laneWise h fun _ h1 => .setLane h1)

theorem OutcomeOk.execAndn (h : s.MemOk) {d : Dst} {a b : Src} : OutcomeOk (execAndn d a b s) :=
  .next (.laneWise h fun _ h1 => .setLane h1)

theorem OutcomeOk.execImin (h : s.MemOk) {d : Dst} {a b : Src} : OutcomeOk (execImin d a b s) :=
  .next (.laneWise h fun _ h1 => .setLane h1)

theorem OutcomeOk.execImax (h : s.MemOk) {d : Dst} {a b : Src} : OutcomeOk (execImax d a b s) :=
  .next (.laneWise h fun _ h1 => .setLane h1)

theorem OutcomeOk.execShl (h : s.MemOk) {d : Dst} {a b : Src} : OutcomeOk (execShl d a b s) :=
  .next (.laneWise h fun _ h1 => .setLane h1)

theorem OutcomeOk.execShr (h : s.MemOk) {d : Dst} {a b : Src} : OutcomeOk (execShr d a b s) :=
  .next (.laneWise h fun _ h1 => .setLane h1)

theorem OutcomeOk.execSar (h : s.MemOk) {d : Dst} {a b : Src} : OutcomeOk (execSar d a b s) :=
  .next (.laneWise h fun _ h1 => .setLane h1)

theorem OutcomeOk.execRol (h : s.MemOk) {d : Dst} {a b : Src} : OutcomeOk (execRol d a b s) :=
  .next (.laneWise h fun _ h1 => .setLane h1)

theorem OutcomeOk.execIminu (h : s.MemOk) {d : Dst} {a b : Src} : OutcomeOk (execIminu d a b s) :=
  .next (.laneWise h fun _ h1 => .setLane h1)

theorem OutcomeOk.execImaxu (h : s.MemOk) {d : Dst} {a b : Src} : OutcomeOk (execImaxu d a b s) :=
  .next (.laneWise h fun _ h1 => .setLane h1)

theorem OutcomeOk.execAmin (h : s.MemOk) {d : LReg} {a b : Src} : OutcomeOk (execAmin d a b s) :=
  .next (.laneWise h fun _ h1 => .setLane h1)

theorem OutcomeOk.execIabsd (h : s.MemOk) {d : Dst} {a b : Src} : OutcomeOk (execIabsd d a b s) :=
  .next (.laneWise h fun _ h1 => .setLane h1)

theorem OutcomeOk.execImul (h : s.MemOk) {d : Dst} {a b : Src} : OutcomeOk (execImul d a b s) :=
  .next (.laneWise h fun _ h1 => .setLane h1)

theorem OutcomeOk.execImulh (h : s.MemOk) {d : Dst} {a b : Src} : OutcomeOk (execImulh d a b s) :=
  .next (.laneWise h fun _ h1 => .setLane h1)

theorem OutcomeOk.execImulhu (h : s.MemOk) {d : Dst} {a b : Src} : OutcomeOk (execImulhu d a b s) :=
  .next (.laneWise h fun _ h1 => .setLane h1)

theorem OutcomeOk.execImad (h : s.MemOk) {d : LReg} {a b : Src} : OutcomeOk (execImad d a b s) :=
  .next (.laneWise h fun _ h1 => .setLane h1)

theorem OutcomeOk.execClz (h : s.MemOk) {d : Dst} {a : Src} : OutcomeOk (execClz d a s) :=
  .next (.laneWise h fun _ h1 => .setLane h1)

theorem OutcomeOk.execPopc (h : s.MemOk) {d : Dst} {a : Src} : OutcomeOk (execPopc d a s) :=
  .next (.laneWise h fun _ h1 => .setLane h1)

theorem OutcomeOk.execBrev (h : s.MemOk) {d : Dst} {a : Src} : OutcomeOk (execBrev d a s) :=
  .next (.laneWise h fun _ h1 => .setLane h1)

theorem OutcomeOk.execIabs (h : s.MemOk) {d : Dst} {a : Src} : OutcomeOk (execIabs d a s) :=
  .next (.laneWise h fun _ h1 => .setLane h1)

theorem OutcomeOk.execIcmp (h : s.MemOk) {cond : ICond} {p : PReg} {a b : Src} : OutcomeOk (execIcmp cond p a b s) :=
  .next (.laneWise h fun _ h1 => .setPred h1)

theorem OutcomeOk.execIcmpW (h : s.MemOk) {cond : ICond} {p : PReg} {a b : UReg} :
    OutcomeOk (execIcmpW cond p a b s) :=
  .next (.uniform h fun _ h1 => .setPred h1)

theorem OutcomeOk.execIaddi (h : s.MemOk) {d : Dst} {a : Src} {imm : BitVec 10} : OutcomeOk (execIaddi d a imm s) :=
  .next (.laneWise h fun _ h1 => .setLane h1)

theorem OutcomeOk.execShli (h : s.MemOk) {d : Dst} {a : Src} {n : BitVec 5} : OutcomeOk (execShli d a n s) :=
  .next (.laneWise h fun _ h1 => .setLane h1)

theorem OutcomeOk.execShri (h : s.MemOk) {d : Dst} {a : Src} {n : BitVec 5} : OutcomeOk (execShri d a n s) :=
  .next (.laneWise h fun _ h1 => .setLane h1)

theorem OutcomeOk.execSari (h : s.MemOk) {d : Dst} {a : Src} {n : BitVec 5} : OutcomeOk (execSari d a n s) :=
  .next (.laneWise h fun _ h1 => .setLane h1)

theorem OutcomeOk.execRoli (h : s.MemOk) {d : Dst} {a : Src} {n : BitVec 5} : OutcomeOk (execRoli d a n s) :=
  .next (.laneWise h fun _ h1 => .setLane h1)

theorem OutcomeOk.execMovi (h : s.MemOk) {d : Dst} {imm : BitVec 17} : OutcomeOk (execMovi d imm s) :=
  .next (.laneWise h fun _ h1 => .setLane h1)

theorem OutcomeOk.execMovhi (h : s.MemOk) {d : LReg} {imm : BitVec 17} : OutcomeOk (execMovhi d imm s) :=
  .next (.laneWise h fun _ h1 => .setLane h1)

theorem OutcomeOk.execBfx (h : s.MemOk) {d : Dst} {a b : Src} : OutcomeOk (execBfx d a b s) :=
  .next (.laneWise h fun _ h1 => .setLane h1)

theorem OutcomeOk.execBfi (h : s.MemOk) {d : LReg} {a b : Src} : OutcomeOk (execBfi d a b s) :=
  .next (.laneWise h fun _ h1 => .setLane h1)

theorem OutcomeOk.execIadd64 (h : s.MemOk) {d a b : LReg} : OutcomeOk (execIadd64 d a b s) :=
  .next (.laneWise h fun _ h1 => .setPair h1)

theorem OutcomeOk.execIsub64 (h : s.MemOk) {d a b : LReg} : OutcomeOk (execIsub64 d a b s) :=
  .next (.laneWise h fun _ h1 => .setPair h1)

theorem OutcomeOk.execShl64 (h : s.MemOk) {d a : LReg} {b : Src} : OutcomeOk (execShl64 d a b s) :=
  .next (.laneWise h fun _ h1 => .setPair h1)

theorem OutcomeOk.execImulw (h : s.MemOk) {d : LReg} {a b : Src} : OutcomeOk (execImulw d a b s) :=
  .next (.laneWise h fun _ h1 => .setPair h1)

theorem OutcomeOk.execPack16 (h : s.MemOk) {d : Dst} {a b : Src} : OutcomeOk (execPack16 d a b s) :=
  .next (.laneWise h fun _ h1 => .setLane h1)

theorem OutcomeOk.execByteperm (h : s.MemOk) {d : LReg} {a b : Src} : OutcomeOk (execByteperm d a b s) :=
  .next (.laneWise h fun _ h1 => .setLane h1)

theorem OutcomeOk.execSel (h : s.MemOk) {d : Dst} {a b : Src} {p : PReg} : OutcomeOk (execSel d a b p s) :=
  .next (.laneWise h fun _ h1 => .setLane h1)

/-! ### CrossLane -/

theorem State.MemOk.shuffle (h : s.MemOk) {d : Dst} {a : Src} {from_ : Nat → Option Nat} :
    (s.shuffle d a from_).MemOk :=
  .setLane h

theorem OutcomeOk.execLshup (h : s.MemOk) {d : Dst} {a : Src} {b : Amt} : OutcomeOk (execLshup d a b s) :=
  .next (.laneWise h fun _ h1 => .shuffle h1)

theorem OutcomeOk.execLshdn (h : s.MemOk) {d : Dst} {a : Src} {b : Amt} : OutcomeOk (execLshdn d a b s) :=
  .next (.laneWise h fun _ h1 => .shuffle h1)

theorem OutcomeOk.execLrot (h : s.MemOk) {d : Dst} {a : Src} {b : Amt} : OutcomeOk (execLrot d a b s) :=
  .next (.laneWise h fun _ h1 => .shuffle h1)

theorem OutcomeOk.execLperm (h : s.MemOk) {d : Dst} {a b : Src} : OutcomeOk (execLperm d a b s) :=
  .next (.laneWise h fun _ h1 => .shuffle h1)

theorem OutcomeOk.execLbcast (h : s.MemOk) {d : Dst} {a : Src} {b : Amt} : OutcomeOk (execLbcast d a b s) :=
  .next (.laneWise h fun _ h1 => .shuffle h1)

theorem OutcomeOk.execLxor (h : s.MemOk) {d : Dst} {a : Src} {b : Amt} : OutcomeOk (execLxor d a b s) :=
  .next (.laneWise h fun _ h1 => .shuffle h1)

theorem State.MemOk.scanWord (h : s.MemOk) {d : Dst} {a : Src} {total : Bool} {op : Word → Word → Word × Flags}
    {first : Word → Word × Flags} : (s.scanWord d a total op first).MemOk :=
  .addFlags (.setLane h)

theorem OutcomeOk.execLscanadd (h : s.MemOk) {d : Dst} {a : Src} : OutcomeOk (execLscanadd d a s) :=
  .next (.laneWise h fun _ h1 => .scanWord h1)

theorem OutcomeOk.execLscanmin (h : s.MemOk) {d : Dst} {a : Src} : OutcomeOk (execLscanmin d a s) :=
  .next (.laneWise h fun _ h1 => .scanWord h1)

theorem OutcomeOk.execLscanmax (h : s.MemOk) {d : Dst} {a : Src} : OutcomeOk (execLscanmax d a s) :=
  .next (.laneWise h fun _ h1 => .scanWord h1)

theorem OutcomeOk.execLscanfadd (h : s.MemOk) {d : Dst} {a : Src} : OutcomeOk (execLscanfadd d a s) :=
  .next (.laneWise h fun _ h1 => .scanWord h1)

theorem OutcomeOk.execLredadd (h : s.MemOk) {d : Dst} {a : Src} : OutcomeOk (execLredadd d a s) :=
  .next (.laneWise h fun _ h1 => .scanWord h1)

theorem OutcomeOk.execLredmin (h : s.MemOk) {d : Dst} {a : Src} : OutcomeOk (execLredmin d a s) :=
  .next (.laneWise h fun _ h1 => .scanWord h1)

theorem OutcomeOk.execLredmax (h : s.MemOk) {d : Dst} {a : Src} : OutcomeOk (execLredmax d a s) :=
  .next (.laneWise h fun _ h1 => .scanWord h1)

theorem OutcomeOk.execLredfadd (h : s.MemOk) {d : Dst} {a : Src} : OutcomeOk (execLredfadd d a s) :=
  .next (.laneWise h fun _ h1 => .scanWord h1)

theorem OutcomeOk.execLmatch (h : s.MemOk) {d : PReg} {a : Src} : OutcomeOk (execLmatch d a s) :=
  .next (.laneWise h fun _ h1 => .setPred h1)

theorem OutcomeOk.execLfirst (h : s.MemOk) {d : PReg} : OutcomeOk (execLfirst d s) :=
  .next (.laneWise h fun _ h1 => .setPred h1)

/-! ### WorkQueue -/

theorem State.MemOk.mapWorkq (h : s.MemOk) {asid n : Nat} {f : WorkQ → WorkQ} : (s.mapWorkq asid n f).MemOk :=
  .mapDomain h

theorem State.MemOk.setBlock (h : s.MemOk) {asid block off n x : Nat} : (s.setBlock asid block off n x).MemOk :=
  .getD (.deviceWrite h) h

theorem State.MemOk.readTail (h : s.MemOk) {asid n : Nat} : (s.readTail asid n).MemOk := by
  dsimp only [State.readTail]
  split
  · split
    · rename_i e
      exact .mapWorkq (.of_pair (.askBytes h) e)
    · rename_i e
      have ht := State.MemOk.of_pair (.askBytes h) e
      exact .ite (.mapWorkq ht) (.mapWorkq (.answered (.countLines ht)))
  · exact h

theorem State.MemOk.readConsumed (h : s.MemOk) {asid n : Nat} : (s.readConsumed asid n).MemOk := by
  dsimp only [State.readConsumed]
  split
  · exact .ite h (.mapWorkq (.countLines h))
  · exact h

theorem State.MemOk.awaitPages (h : s.MemOk) {dom : Nat} {k : Acc} {eff : State → State} {vas : List Nat}
    (heff : ∀ s, s.MemOk → (eff s).MemOk) : (s.awaitPages dom k eff vas).MemOk := by
  induction vas generalizing s with
  | nil => exact heff s h
  | cons va t ih => exact .await (.ite (.ensureMapped h) (.missEntry (.ensureMapped h))) fun _ h => ih h

theorem State.MemOk.withBlock (h : s.MemOk) {q : Nat} {eff : State → State} (heff : ∀ s, s.MemOk → (eff s).MemOk) :
    (s.withBlock q eff).MemOk := by
  dsimp only [State.withBlock]
  split
  · exact .awaitPages h fun _ h1 => .await h1 fun _ h2 => heff _ h2
  · exact heff _ h

theorem State.MemOk.withSlots (h : s.MemOk) {q n : Nat} {isPush : Bool} {eff : State → State}
    (heff : ∀ s, s.MemOk → (eff s).MemOk) : (s.withSlots q n isPush eff).MemOk := by
  dsimp only [State.withSlots]
  split
  · exact heff _ h
  · exact .ite (heff _ h) (.awaitPages h fun _ h1 => .await h1 fun _ h2 => .await h2 fun _ h3 => heff _ h3)

theorem State.MemOk.consumed (h : s.MemOk) {asid n upto : Nat} : (s.consumed asid n upto).MemOk := by
  dsimp only [State.consumed]
  split
  · exact .ite (.readTail (.setBlock h)) (.setBlock h)
  · exact h

theorem State.MemOk.popWork (h : s.MemOk) {asid : Nat} {w : WorkQ} : (s.popWork asid w).1.MemOk := by
  rw [State.popWork]
  split
  rename_i e
  have ht := State.MemOk.of_pair (.deviceReads h) e
  split
  · exact .mapWorkq (.consumed ht)
  · exact .draw (.mapWorkq (.consumed ht))

theorem State.MemOk.pushWork (h : s.MemOk) {asid : Nat} {w : WorkQ} {x : Dword} : (s.pushWork asid w x).MemOk :=
  .mapWorkq (.setBlock (.getD (.deviceWrite (.readConsumed h)) (.readConsumed h)))

theorem State.MemOk.popEntry (h : s.MemOk) {lc q : Nat} : (s.popEntry lc q).1.MemOk := by
  dsimp only [State.popEntry]
  refine .mapFifo ?_
  split
  · exact .popWork (.chargeLines h)
  · exact .mapFifo h

theorem State.MemOk.popEntries (h : s.MemOk) {lc q n : Nat} : (s.popEntries lc q n).1.MemOk := by
  induction n generalizing s with
  | zero => exact h
  | succ n ih => exact ih (.popEntry h)

/-- An entry of a stash FIFO goes to its slot in the LSTASH area. -/
theorem State.MemOk.pushEntry (h : s.MemOk) {lc q : Nat} {x : Dword} : (s.pushEntry lc q x).MemOk := by
  dsimp only [State.pushEntry]
  refine .mapFifo ?_
  split
  · exact .pushWork (.chargeLines h)
  · exact .mapFifo (.ite h (.mapLC_of_wf h fun _ hx => Memory.wf_memPutN _ _ _ hx))

theorem State.MemOk.recordReady (h : s.MemOk) {asid queue seq : Nat} : (s.recordReady asid queue seq).1.MemOk := by
  dsimp only [State.recordReady]
  split
  · exact h
  · split
    · rename_i e
      exact .of_pair (.askBytes h) e
    · rename_i e
      have ht := State.MemOk.of_pair (.askBytes h) e
      split
      · rename_i e1
        exact .of_pair (.askBytes ht) e1
      · rename_i e1
        exact .of_pair (.askBytes ht) e1

theorem State.MemOk.completionRecord (h : s.MemOk) {asid queue seq status : Nat} :
    (s.completionRecord asid queue seq status).MemOk := by
  dsimp only [State.completionRecord]
  split
  · exact h
  · split
    · exact .answered (.answered (.countLines h))
    · rename_i e
      exact .setBlock (.mapWorkq (.of_some (.deviceWrite (.answered (.answered (.countLines h)))) e))

theorem State.MemOk.abortRecord (h : s.MemOk) {asid queue seq status : Nat} :
    (s.abortRecord asid queue seq status).MemOk := by
  dsimp only [State.abortRecord]
  split
  · exact h
  · split
    · exact h
    · rename_i e
      exact .ite (.getD (.deviceSend (.mapWorkq (.of_some (.deviceSend h) e))) (.mapWorkq (.of_some (.deviceSend h)
        e))) (.mapWorkq (.of_some (.deviceSend h) e))

/-! ### Gate -/

theorem State.MemOk.awaitRead (h : s.MemOk) {dom va n : Nat} {eff : State → State}
    (heff : ∀ s, s.MemOk → (eff s).MemOk) : (s.awaitRead dom va n eff).MemOk :=
  .awaitPages h fun _ h1 => .await h1 fun _ h2 => heff _ h2

theorem State.MemOk.withGate (h : s.MemOk) {m : Nat} {eff : State → Option Gate → State}
    (heff : ∀ (a : State) (a_1 : Option Gate), a.MemOk → (eff a a_1).MemOk) : (s.withGate m eff).MemOk := by
  dsimp only [State.withGate]
  refine .ite (heff _ _ h) (.awaitRead h fun _ h1 => ?_)
  split
  · exact heff _ _ (.chargeLines (.countLines h1))
  · exact .awaitRead h1 fun _ h2 => heff _ _ (.chargeLines (.countLines (.countLines h2)))

theorem State.MemOk.peekGate (h : s.MemOk) {m : Nat} : (s.peekGate m).1.MemOk := by
  rw [State.peekGate]
  refine .ite_fst h ?_
  split
  · rename_i e
    exact .chargeLines (.of_pair (.deviceReads h) e)
  · rename_i e
    exact .chargeLines (.deviceReads (.of_pair (.deviceReads h) e))

theorem State.MemOk.withGrants (h : s.MemOk) {g : Gate} {eff : State → State} (heff : ∀ s, s.MemOk → (eff s).MemOk) :
    (s.withGrants g eff).MemOk :=
  .awaitPages h fun _ h1 => .await h1 fun _ h2 => heff _ (.chargeLines (.foldl h2 fun _ _ h3 => .countLines h3))

theorem State.MemOk.gateStatus (h : s.MemOk) {n : Nat} : (s.gateStatus n).MemOk := .setU2 h

theorem State.MemOk.gateFaultAtEntry (h : s.MemOk) {dom : Nat} {code : TrapCode} {addr : Nat} :
    (s.gateFaultAtEntry dom code addr).MemOk :=
  .mapMe (.mapActive (.charge (.countBy (.countBy h)))) fun _ => by rfl

theorem OutcomeOk.execCallg (h : s.MemOk) {m : BitVec 7} : OutcomeOk (execCallg m s) := by
  dsimp only [Machine.execCallg]
  refine .next (.uniform h fun _ h1 => .ite (.block h1) (.ite (.block h1) (.withGate h1 fun _ _ h2 => ?_)))
  split
  · exact .gateStatus h2
  · refine .ite (.gateStatus h2) (.ite (.gateStatus h2) (.await h2 fun _ h3 => .withGrants h3 fun _ h4 => ?_))
    split
    · exact .gateFaultAtEntry h4
    · exact .mapMe (.mapCore (.countBy h4)) fun _ => by rfl

theorem OutcomeOk.execRetg (h : s.MemOk) : OutcomeOk (execRetg s) :=
  .next (.laneWise h fun _ h1 => .ite (.trapLanes h1 (fun _ h2 => h2)) (.mapActive h1))

theorem OutcomeOk.execGateq (h : s.MemOk) {d : UReg} {m : BitVec 7} : OutcomeOk (execGateq d m s) := by
  dsimp only [Machine.execGateq]
  refine .next (.uniform h fun _ h1 => ?_)
  split
  · rename_i e
    exact .setU (.of_pair (.peekGate h1) e)
  · rename_i e
    exact .setU (.of_pair (.peekGate h1) e)

theorem OutcomeOk.execGateReturn (h : s.MemOk) {tid : Nat} : OutcomeOk (execGateReturn tid s) := by
  dsimp only [Machine.execGateReturn]
  refine .next ?_
  split
  · exact h
  · exact .ite h (.mapThread (.releaseSide (.freeWindow (.closeAccesses h))) fun _ => by rfl)

/-! ### Task -/

theorem State.MemOk.handChild (h : s.MemOk) {c : Child} : (s.handChild c).MemOk :=
  .ite (.mapDie (.mapLC h fun _ => by rfl)) (.mapDie h)

theorem OutcomeOk.execSpawn (h : s.MemOk) {a : UReg} : OutcomeOk (execSpawn a s) :=
  .next (.uniform h fun _ h1 => .ite (.trapWave h1) (.ite (.trapWave h1) (.await (.flushDirty h1) fun _ h2 =>
    .handChild h2)))

theorem OutcomeOk.execWaitc (h : s.MemOk) {rec : BReg} {_a : UReg} : OutcomeOk (execWaitc rec _a s) :=
  .next (.uniform h fun _ h1 => .pollUni h1)

theorem State.MemOk.withdrawCore (h : s.MemOk) {lc tag core : Nat} : (s.withdrawCore lc tag core).1.MemOk := by
  dsimp only [State.withdrawCore]
  refine .foldl h fun _ _ h1 => ?_
  split
  · exact .discardCmd h1
  · exact h1

theorem State.MemOk.withdrawDie (h : s.MemOk) {lc tag die : Nat} : (s.withdrawDie lc tag die).1.MemOk :=
  .foldl (.mapDie h) fun _ _ h1 => .ite h1 (.deviceAdd h1)

theorem State.MemOk.countEntry (h : s.MemOk) {asid : Nat} {w : WorkQ} {seq : Nat} : (s.countEntry asid w seq).MemOk :=
  .countLines (.countLines h)

theorem State.MemOk.withRecords (h : s.MemOk) {asid scope tag : Nat} {eff : State → State}
    (heff : ∀ s, s.MemOk → (eff s).MemOk) : (s.withRecords asid scope tag eff).MemOk :=
  .ite (heff _ h) (.awaitPages h fun _ h1 => .await h1 fun _ h2 => heff _ h2)

theorem State.MemOk.withdrawQueue (h : s.MemOk) {asid tag : Nat} {w : WorkQ} : (s.withdrawQueue asid tag w).1.MemOk :=
  .ite_fst h (.foldl (.foldl h (fun _ _ h1 => .countEntry h1)) fun _ _ h1 => .completionRecord h1)

theorem State.MemOk.withdrawEach (h : s.MemOk) {α : Type} {f : State → α → State × Nat} {xs : List α}
    (hf : ∀ (a : State) (a_1 : α), a.MemOk → (f a a_1).1.MemOk) : (s.withdrawEach f xs).1.MemOk :=
  .foldl_fst h fun _ _ h1 => hf _ _ h1

theorem State.MemOk.withdrawAll (h : s.MemOk) {lc core scope tag : Nat} :
    (s.withdrawAll lc core scope tag).1.MemOk := by
  dsimp only [State.withdrawAll]
  exact .ite_fst (.withdrawEach (.withdrawEach (.withdrawEach h (fun _ _ h1 => .withdrawCore h1)) (fun _ _ h1 =>
    .withdrawDie h1)) (fun _ _ h1 => .withdrawQueue h1)) (.withdrawEach (.withdrawEach h (fun _ _ h1 => .withdrawCore
    h1)) fun _ _ h1 => .withdrawDie h1)

theorem OutcomeOk.execWithdraw (h : s.MemOk) {d a : UReg} : OutcomeOk (execWithdraw d a s) :=
  .next (.uniform h fun _ h1 => .ite (.trapWave h1) (.ite (.trapWave h1) (.withRecords h1 fun _ h2 => .setU
    (.withdrawAll h2))))

theorem OutcomeOk.execTasktag (h : s.MemOk) {a : UReg} : OutcomeOk (execTasktag a s) :=
  .next (.uniform h fun _ h1 => .ite (.trapWave h1) (.mapMe h1 fun _ => by rfl))

theorem OutcomeOk.execSiglead (h : s.MemOk) {a : UReg} : OutcomeOk (execSiglead a s) := by
  refine .next (.uniform h fun _ h1 => .ite (.trapWave h1) ?_)
  split
  · exact .ite h1 (.mapThread h1 fun _ => Thread.stash_postEvents ..)
  · exact h1

/-! ### Relax -/

theorem State.MemOk.begTrap (h : s.MemOk) {code : TrapCode} : (s.begTrap code).MemOk :=
  .trapWave (.mapMe h fun _ => by rfl)

theorem OutcomeOk.execRlxbeg (h : s.MemOk) {a : UReg} : OutcomeOk (execRlxbeg a s) :=
  .next (.ite (.mapMe h fun _ => by rfl) (.uniform h fun _ h1 => .ite (.begTrap h1) (.ite (.begTrap h1) (.ite
    (.begTrap h1) (.ite (.block h1) (.ite (.begTrap h1) (.block (.mapMe h1 fun _ => by rfl))))))))

theorem State.MemOk.mapRegion (h : s.MemOk) {asid core : Nat} {f : Region → Region} :
    (s.mapRegion asid core f).MemOk :=
  .mapUnit h

theorem OutcomeOk.execRlxend (h : s.MemOk) : OutcomeOk (execRlxend s) :=
  .next (.laneWise h fun _ h1 => .trapLanes h1 fun _ h2 => .ite h2 (.mapActive (.mapUnitOf h2)))

theorem State.MemOk.groupOk (h : s.MemOk) {a : Src} {n : Nat} {eff : State → State}
    (heff : ∀ s, s.MemOk → (eff s).MemOk) : (s.groupOk a n eff).MemOk :=
  .ite (heff _ h) (.trapLanes h fun _ h1 => h1)

theorem State.MemOk.setStateGroup (h : s.MemOk) {d : LReg} {n : Nat} {f : Nat → List Word} :
    (s.setStateGroup d n f).MemOk :=
  .ite (.setLane h) (.setGroup h)

theorem OutcomeOk.execRlxin (h : s.MemOk) {d : LReg} : OutcomeOk (execRlxin d s) :=
  .next (.laneWise h fun _ h1 => .groupOk h1 fun _ h2 => .trapLanes h2 fun _ h3 => .setStateGroup h3)

theorem OutcomeOk.execRlxout (h : s.MemOk) {a : Src} : OutcomeOk (execRlxout a s) :=
  .next (.laneWise h fun _ h1 => .groupOk h1 fun _ h2 => .trapLanes h2 fun _ h3 => .foldl h3 fun _ _ h4 => .mapStep
    h4)

theorem OutcomeOk.execRlxjac (h : s.MemOk) {a : Src} : OutcomeOk (execRlxjac a s) :=
  .next (.laneWise h fun _ h1 => .groupOk h1 fun _ h2 => .trapLanes h2 fun _ h3 => .foldl h3 fun _ _ h4 => .mapStep
    h4)

theorem OutcomeOk.execRlxstep (h : s.MemOk) {d : Dst} : OutcomeOk (execRlxstep d s) := by
  dsimp only [Machine.execRlxstep]
  refine .next (.laneWise h fun _ h1 => ?_)
  split
  · exact .trapLanes h1 fun _ h2 => .pushAll h2
  · exact .setLane h1

theorem OutcomeOk.execRlxst (h : s.MemOk) {d : UReg} : OutcomeOk (execRlxst d s) :=
  .next (.uniform h fun _ h1 => .setU h1)

theorem OutcomeOk.execRlxabt (h : s.MemOk) : OutcomeOk (execRlxabt s) :=
  .next (.uniform h fun _ h1 => .ite (.trapWave h1) (.mapUnitOf h1))

theorem OutcomeOk.execRlxpeek (h : s.MemOk) {d : LReg} : OutcomeOk (execRlxpeek d s) :=
  .next (.laneWise h fun _ h1 => .groupOk h1 fun _ h2 => .ite (.trapLanes h2 (fun _ h3 => .ite (.pushAll h3) h3))
    (.setStateGroup h2))

theorem OutcomeOk.execRlxguess (h : s.MemOk) {a : Src} : OutcomeOk (execRlxguess a s) := by
  dsimp only [Machine.execRlxguess]
  refine .next (.laneWise h fun _ h1 => .groupOk h1 fun _ h2 => ?_)
  split
  · exact .foldl h2 fun _ _ h3 => .mapUnitOf h3
  · exact .trapLanes h2 fun _ h3 => h3

theorem State.MemOk.trapWaves (h : s.MemOk) {ws : List Nat} {x : Taken} : (s.trapWaves ws x).MemOk := by
  dsimp only [State.trapWaves]
  refine .foldl h fun _ _ h1 => ?_
  split
  · exact .afterGroup (.trapWave (.mapMe (.others h1) fun _ => by rfl))
  · exact h1

theorem State.MemOk.openRegion (h : s.MemOk) {z : Nat} {ws : List Nat} {d : List Dword} {r : BufRec} :
    (s.openRegion z ws d r).MemOk := by
  dsimp only [State.openRegion]
  split
  · exact .others (.trapWaves (.reserve (.others h)))
  · exact .others (.mapUnitOf (.foldl_fst (.reserve (.others h)) fun _ _ h1 => .request (.serve h1)))

theorem OutcomeOk.execRegionOpen (h : s.MemOk) {core : Nat} : OutcomeOk (execRegionOpen core s) := by
  dsimp only [Machine.execRegionOpen]
  refine .next (.ite h ?_)
  split
  · exact .openRegion h
  · exact h

theorem State.MemOk.startPass (h : s.MemOk) {asid core : Nat} : (s.startPass asid core).MemOk := by
  dsimp only [State.startPass]
  split
  · exact h
  · exact .foldl (.count (.mapRegion h)) fun _ _ h1 => .mapThread h1 fun _ => by rfl

theorem OutcomeOk.execRegionStart (h : s.MemOk) {core : Nat} : OutcomeOk (execRegionStart core s) := by
  dsimp only [Machine.execRegionStart]
  refine .next ?_
  split
  · exact h
  · split
    · exact h
    · refine .ite h ?_
      split
      · exact .trapWaves (.mapUnit h)
      · exact .startPass (.ite (.mapUnit (.mapRegion h)) (.mapRegion h))

theorem State.MemOk.commitSteps (h : s.MemOk) {asid core : Nat} {r : Region} {f : Nat} :
    (s.commitSteps asid core r f).MemOk := by
  dsimp only [State.commitSteps]
  refine .foldl h fun _ _ h1 => .mapRegion (.foldl_fst (.addMxs (.mapThread h1 fun _ => by rfl)) fun _ _ h2 => ?_)
  split
  · exact h2
  · exact .post h2

theorem OutcomeOk.execRelaxVerify (h : s.MemOk) {core : Nat} : OutcomeOk (execRelaxVerify core s) := by
  dsimp only [Machine.execRelaxVerify]
  refine .next ?_
  split
  · exact h
  · split
    · exact h
    · refine .ite h ?_
      split
      · exact .startPass (.mapRegion (.mapRegion h))
      · exact .commitSteps (.mapRegion (.mapUnit (.mapRegion h)))

theorem OptionOk.sendCommit (h : s.MemOk) {asid core : Nat} {r : Region} : OptionOk (s.sendCommit asid core r) := by
  dsimp only [State.sendCommit]
  split
  · exact .none
  · refine .ite (.some (.mapRegion (.writeStash h))) (.ite (.some (.mapRegion (.writeStash h))) ?_)
    split
    · rename_i e
      exact .some (.of_pair (.awaitPage h) e)
    · rename_i e
      have ht := State.MemOk.of_pair (.awaitPage h) e
      split
      · exact .some (.mapRegion (.post ht))
      · exact .some ht
      · refine .ite .none (.some (.mapRegion (.accept ?_)))
        split
        · exact .writeBack ht
        · exact ht

theorem State.MemOk.denyCommit (h : s.MemOk) {asid core dom va : Nat} : (s.denyCommit asid core dom va).MemOk := by
  dsimp only [State.denyCommit]
  split
  · split
    · exact .ite (.mapRegion (.post h)) h
    · exact h
  · exact h

theorem State.MemOk.parkClosed (h : s.MemOk) {tid start : Nat} : (s.parkClosed tid start).MemOk :=
  .others (.mapThread (.foldl (.others h) (fun _ _ h1 => .charge (.countBy h1))) fun _ => by rfl)

theorem State.MemOk.closeRegion (h : s.MemOk) {asid core : Nat} {r : Region} : (s.closeRegion asid core r).MemOk := by
  dsimp only [State.closeRegion]
  refine .mapUnit (.mapLC (.foldl h (fun _ _ h1 => ?_)) fun _ => by rfl)
  split
  · exact .mapThread h1 fun _ => by rfl
  · exact .parkClosed h1

theorem OutcomeOk.execRegionClose (h : s.MemOk) {core : Nat} : OutcomeOk (execRegionClose core s) := by
  dsimp only [Machine.execRegionClose]
  refine .next ?_
  split
  · exact h
  · split
    · exact h
    · exact .ite h (.ite (.getD (.sendCommit h) h) (.ite h (.closeRegion h)))

/-! ### Queue -/

theorem State.MemOk.queueAccess (h : s.MemOk) {q n : Nat} {isPush lanes : Bool} {eff : State → State}
    (heff : ∀ s, s.MemOk → (eff s).MemOk) : (s.queueAccess q n isPush lanes eff).MemOk := by
  dsimp only [State.queueAccess]
  refine .withBlock h fun _ h1 => ?_
  split
  · exact .ite (.trapRun h1) (.trapWave h1)
  · exact .await h1 fun _ h2 => .withSlots h2 fun _ h3 => heff _ (.ite h3 (.mapFifo h3))

theorem OutcomeOk.execQpush (h : s.MemOk) {d : QReg} {a : Src} : OutcomeOk (execQpush d a s) :=
  .next (.laneWise h fun _ h1 => .queueAccess h1 fun _ h2 => .foldl h2 fun _ _ h3 => .pushEntry h3)

theorem OutcomeOk.execQpushw (h : s.MemOk) {d : QReg} {a : UReg} : OutcomeOk (execQpushw d a s) :=
  .next (.uniform h fun _ h1 => .queueAccess h1 fun _ h2 => .pushEntry h2)

theorem OutcomeOk.execQpop (h : s.MemOk) {d : Dst} {q : QReg} : OutcomeOk (execQpop d q s) :=
  .next (.laneWise h fun _ h1 => .queueAccess h1 fun _ h2 => .setLane (.popEntries h2))

theorem OutcomeOk.execQpopw (h : s.MemOk) {d : UReg} {q : QReg} : OutcomeOk (execQpopw d q s) :=
  .next (.uniform h fun _ h1 => .queueAccess h1 fun _ h2 => .setU (.popEntry h2))

theorem OutcomeOk.execQtry (h : s.MemOk) {d : LReg} {q : QReg} {b : PReg} : OutcomeOk (execQtry d q b s) := by
  dsimp only [Machine.execQtry]
  refine .next (.laneWise h fun _ h1 => .ite (.trapLanes h1 (fun _ h2 => h2)) (.ite h1 (.withBlock h1 fun _ h2 =>
    ?_)))
  split
  · exact .trapRun h2
  · exact .withSlots h2 fun _ h3 => .setPred (.mapActive (.popEntries h3))

theorem OutcomeOk.execQtryw (h : s.MemOk) {d : UReg} {q : QReg} {b : PReg} : OutcomeOk (execQtryw d q b s) := by
  dsimp only [Machine.execQtryw]
  refine .next (.uniform h fun _ h1 => .ite (.trapWave h1) (.withBlock h1 fun _ h2 => ?_))
  split
  · exact .trapWave h2
  · exact .ite (.setPred h2) (.withSlots h2 fun _ h3 => .setPred (.setU (.popEntry h3)))

theorem OutcomeOk.execQlen (h : s.MemOk) {d : UReg} {q : QReg} : OutcomeOk (execQlen d q s) :=
  .next (.uniform h fun _ h1 => .ite (.trapWave h1) (.ite (.setU h1) (.ite (.trapWave h1) (.ite (.trapWave h1)
    (.withBlock h1 fun _ h2 => .setU h2)))))

theorem State.MemOk.bind (h : s.MemOk) {lc q : Nat} {x : Word} : (s.bind lc q x).MemOk := by
  dsimp only [State.bind]
  split
  · exact .readTail (.mapFifo h)
  · exact .mapFifo h

theorem State.MemOk.withNewBlock (h : s.MemOk) {x : Word} {eff : State → State} (heff : ∀ s, s.MemOk → (eff s).MemOk)
    : (s.withNewBlock x eff).MemOk := by
  dsimp only [State.withNewBlock]
  split
  · exact .awaitPages h fun _ h1 => .await h1 fun _ h2 => heff _ h2
  · exact heff _ h

theorem OutcomeOk.execQbind (h : s.MemOk) {d : QReg} {a : UReg} : OutcomeOk (execQbind d a s) :=
  .next (.uniform h fun _ h1 => .ite (.trapWave h1) (.ite (.trapWave h1) (.ite (.trapWave h1) (.withBlock h1
    fun _ h2 => .withNewBlock h2 fun _ h3 => .ite (.trapWave h3) (.ite (.trapWave h3) (.ite (.trapWave h3) (.bind
    h3)))))))

/-! ### Uniform -/

theorem OutcomeOk.execWadd (h : s.MemOk) {d a b : UReg} : OutcomeOk (execWadd d a b s) :=
  .next (.uniform h fun _ h1 => .setU h1)

theorem OutcomeOk.execWsub (h : s.MemOk) {d a b : UReg} : OutcomeOk (execWsub d a b s) :=
  .next (.uniform h fun _ h1 => .setU h1)

theorem OutcomeOk.execWand (h : s.MemOk) {d a b : UReg} : OutcomeOk (execWand d a b s) :=
  .next (.uniform h fun _ h1 => .setU h1)

theorem OutcomeOk.execWor (h : s.MemOk) {d a b : UReg} : OutcomeOk (execWor d a b s) :=
  .next (.uniform h fun _ h1 => .setU h1)

theorem OutcomeOk.execWxor (h : s.MemOk) {d a b : UReg} : OutcomeOk (execWxor d a b s) :=
  .next (.uniform h fun _ h1 => .setU h1)

theorem OutcomeOk.execWshl (h : s.MemOk) {d a b : UReg} : OutcomeOk (execWshl d a b s) :=
  .next (.uniform h fun _ h1 => .setU h1)

theorem OutcomeOk.execWshr (h : s.MemOk) {d a b : UReg} : OutcomeOk (execWshr d a b s) :=
  .next (.uniform h fun _ h1 => .setU h1)

theorem OutcomeOk.execWmul (h : s.MemOk) {d a b : UReg} : OutcomeOk (execWmul d a b s) :=
  .next (.uniform h fun _ h1 => .setU h1)

theorem OutcomeOk.execWmin (h : s.MemOk) {d a b : UReg} : OutcomeOk (execWmin d a b s) :=
  .next (.uniform h fun _ h1 => .setU h1)

theorem OutcomeOk.execWmax (h : s.MemOk) {d a b : UReg} : OutcomeOk (execWmax d a b s) :=
  .next (.uniform h fun _ h1 => .setU h1)

theorem OutcomeOk.execWsar (h : s.MemOk) {d a b : UReg} : OutcomeOk (execWsar d a b s) :=
  .next (.uniform h fun _ h1 => .setU h1)

theorem OutcomeOk.execVtow (h : s.MemOk) {d : UReg} {a : Src} : OutcomeOk (execVtow d a s) := by
  dsimp only [Machine.execVtow]
  refine .next (.uniform h fun _ h1 => ?_)
  split
  · exact .setU h1
  · exact h1

theorem OutcomeOk.execWtov (h : s.MemOk) {d : Dst} {a : UReg} : OutcomeOk (execWtov d a s) :=
  .next (.laneWise h fun _ h1 => .setLane h1)

theorem OutcomeOk.execWsel (h : s.MemOk) {d a b : UReg} : OutcomeOk (execWsel d a b s) :=
  .next (.uniform h fun _ h1 => .setU h1)

theorem OutcomeOk.execWclz (h : s.MemOk) {d a : UReg} : OutcomeOk (execWclz d a s) :=
  .next (.uniform h fun _ h1 => .setU h1)

theorem OutcomeOk.execWpopc (h : s.MemOk) {d a : UReg} : OutcomeOk (execWpopc d a s) :=
  .next (.uniform h fun _ h1 => .setU h1)

theorem OutcomeOk.execWaddi (h : s.MemOk) {d a : UReg} {imm : BitVec 10} : OutcomeOk (execWaddi d a imm s) :=
  .next (.uniform h fun _ h1 => .setU h1)

theorem OutcomeOk.execWmovi (h : s.MemOk) {d : UReg} {imm : BitVec 17} : OutcomeOk (execWmovi d imm s) :=
  .next (.uniform h fun _ h1 => .setU h1)

theorem OutcomeOk.execWmovk (h : s.MemOk) {d : UReg} {pos : BitVec 2} {imm : BitVec 16} :
    OutcomeOk (execWmovk d pos imm s) :=
  .next (.uniform h fun _ h1 => .setU h1)

theorem OutcomeOk.execRand32 (h : s.MemOk) {d : Dst} : OutcomeOk (execRand32 d s) :=
  .next (.laneWise h fun _ h1 => .mapActive (.setLane h1))

theorem OutcomeOk.execRandf (h : s.MemOk) {d : Dst} : OutcomeOk (execRandf d s) :=
  .next (.laneWise h fun _ h1 => .mapActive (.setLane h1))

theorem OutcomeOk.execRseed (h : s.MemOk) {a : UReg} : OutcomeOk (execRseed a s) :=
  .next (.uniform h fun _ h1 => .mapMe (.zeroCtr h1) fun _ => by rfl)

theorem OutcomeOk.execRctr (h : s.MemOk) {d : Dst} {a : Src} : OutcomeOk (execRctr d a s) :=
  .next (.laneWise h fun _ h1 => .mapActive (.setLane h1))

/-! ### System -/

theorem OutcomeOk.execSrd (h : s.MemOk) {d : UReg} {reg : BitVec 12} : OutcomeOk (execSrd d reg s) := by
  dsimp only [Machine.execSrd]
  refine .next (.uniform h fun _ h1 => ?_)
  split
  · exact .trapWave h1
  · exact .setU h1

theorem State.MemOk.writeSreg (h : s.MemOk) {n : Nat} {x : Dword} : (s.writeSreg n x).MemOk := by
  dsimp only [State.writeSreg]
  split
  · exact .ite (.trapWave h) (.fenceThen h fun _ h1 => .laneOp h1)
  · exact .ite (.trapWave h) (.fenceThen h fun _ h1 => .laneOp h1)
  · exact .ite (.trapWave h) (.mapMe h fun _ => by rfl)
  · exact .ite (.trapWave h) (.mapMe h fun _ => by rfl)
  · exact .ite (.trapWave h) (.mapLC h fun _ => by rfl)

theorem OutcomeOk.execSwr (h : s.MemOk) {d : UReg} {reg : BitVec 12} : OutcomeOk (execSwr d reg s) := by
  dsimp only [Machine.execSwr]
  refine .next (.uniform h fun _ h1 => ?_)
  split
  · exact .trapWave h1
  · exact .writeSreg h1

theorem OutcomeOk.execSleep (h : s.MemOk) {a : UReg} : OutcomeOk (execSleep a s) := by
  dsimp only [Machine.execSleep]
  refine .next (.uniform h fun _ h1 => ?_)
  split
  · exact .await h1 fun _ h2 => h2
  · exact .ite h1 (.block h1)

theorem OutcomeOk.execSignal (h : s.MemOk) {a : UReg} : OutcomeOk (execSignal a s) := by
  refine .next (.uniform h fun _ h1 => .ite (.trapWave h1) ?_)
  split
  · exact .mapThread h1 fun _ => Thread.stash_postEvents ..
  · exact h1

theorem State.MemOk.hostLaneOp (h : s.MemOk) {launch core : Nat} {v : Dword} {kill : Bool} :
    (s.hostLaneOp launch core v kill).MemOk := by
  dsimp only [State.hostLaneOp]
  refine .ite h ?_
  split
  · exact .laneOp h
  · exact h

theorem OutcomeOk.execResumeWrite (h : s.MemOk) {launch core : Nat} {value : Dword} :
    OutcomeOk (execResumeWrite launch core value s) :=
  .next (.hostLaneOp h)

theorem OutcomeOk.execKillWrite (h : s.MemOk) {launch core : Nat} {value : Dword} :
    OutcomeOk (execKillWrite launch core value s) :=
  .next (.hostLaneOp h)

theorem OutcomeOk.execIllegalInstruction (h : s.MemOk) {code : TrapCode} :
    OutcomeOk (execIllegalInstruction code s) :=
  .next (.ite h (.ite (.trapWave h) (.trapRun h)))

theorem State.MemOk.setCtl (h : s.MemOk) {asid off x : Nat} : (s.setCtl asid off x).MemOk := .writePlace h

theorem State.MemOk.sendCtl (h : s.MemOk) {asid off x : Nat} : (s.sendCtl asid off x).MemOk := .sendOut h

theorem OutcomeOk.execFaultRecordWrite (h : s.MemOk) {asid : Nat} : OutcomeOk (execFaultRecordWrite asid s) := by
  dsimp only [Machine.execFaultRecordWrite]
  refine .next ?_
  split
  · exact h
  · refine .ite h ?_
    split
    · exact .mapLC (.ite (.raise (.setCtl (.mapDomain (.writePlace h)))) (.setCtl (.mapDomain (.writePlace h))))
        fun _ => by rfl
    · exact .ite (.raise (.setCtl (.mapDomain (.writePlace h)))) (.setCtl (.mapDomain (.writePlace h)))

/-! ### Observe -/

theorem OutcomeOk.execHclk (h : s.MemOk) {d : UReg} : OutcomeOk (execHclk d s) :=
  .next (.uniform h fun _ h1 => .setU h1)

theorem OutcomeOk.execWtime (h : s.MemOk) {d : UReg} : OutcomeOk (execWtime d s) :=
  .next (.uniform h fun _ h1 => .setU h1)

theorem OutcomeOk.execTimer (h : s.MemOk) {a : UReg} : OutcomeOk (execTimer a s) :=
  .next (.uniform h fun _ h1 => .mapMe h1 fun _ => by rfl)

theorem OutcomeOk.execEnrd (h : s.MemOk) {d : UReg} : OutcomeOk (execEnrd d s) :=
  .next (.uniform h fun _ h1 => .setU h1)

theorem OutcomeOk.execPmrd (h : s.MemOk) {d : UReg} {m : BitVec 2} : OutcomeOk (execPmrd d m s) :=
  .next (.uniform h fun _ h1 => .setU h1)

theorem State.MemOk.ringWrite (h : s.MemOk) {asid : Nat} {trace : Bool} {bs : List Byte} :
    (s.ringWrite asid trace bs).MemOk :=
  .ite (.raise (.sendCtl (.mapDomain h))) (.sendCtl (.mapDomain (.sendOut h)))

theorem OutcomeOk.execTmark (h : s.MemOk) {m : BitVec 7} : OutcomeOk (execTmark m s) :=
  .next (.uniform h fun _ h1 => .ite h1 (.ringWrite h1))

theorem State.MemOk.sendStamp (h : s.MemOk) {lc tid clk kind tile : Nat} {id : BitVec 16} {curtag : Word} :
    (s.sendStamp lc tid clk kind tile id curtag).MemOk := by
  dsimp only [State.sendStamp]
  refine .ite (.post (.awaitPage h)) ?_
  split
  · exact .post (.awaitPage h)
  · exact .mapLC (.accept (.awaitPage h)) fun _ => by rfl
  · exact .ite (.post (.awaitPage h)) (.mapLC (.accept (.awaitPage h)) fun _ => by rfl)

theorem State.MemOk.storeStamp (h : s.MemOk) {lc : Nat} {y : StampAdd} {n : Nat} : (s.storeStamp lc y n).MemOk := by
  dsimp only [State.storeStamp]
  split
  · rename_i e
    exact .of_pair (.awaitPage h) e
  · rename_i e
    have ht := State.MemOk.of_pair (.awaitPage h) e
    refine .ite ht ?_
    split
    · exact .post (.mapLC (.engineLine ht) fun _ => by rfl)
    · refine .ite (.mapLC (.engineLine ht) fun _ => by rfl) ?_
      split
      · rename_i e1
        exact .of_pair (.awaitPage ht) e1
      · rename_i e1
        have he1 := State.MemOk.of_pair (.awaitPage ht) e1
        split
        · rename_i e2
          exact .mapLC (.of_pair (.engineWrite (.engineLine he1)) e2) fun _ => by rfl
        · rename_i e2
          exact .post (.mapLC (.of_pair (.engineWrite (.engineLine he1)) e2) fun _ => by rfl)

theorem OutcomeOk.execStamp (h : s.MemOk) {a : UReg} : OutcomeOk (execStamp a s) :=
  .next (.uniform h fun _ h1 => .ite (.trapWave h1) (.ite h1 (.ite (.await h1 (fun _ h2 => .mapLC h2 fun _ => by rfl))
    (.sendStamp (.draw h1)))))

theorem State.MemOk.latchStamps (h : s.MemOk) : s.latchStamps.MemOk := .mapLCs h fun _ hx => hx

theorem OutcomeOk.execStampSettleWrite (h : s.MemOk) {lc : Nat} : OutcomeOk (execStampSettleWrite lc s) := by
  dsimp only [Machine.execStampSettleWrite]
  refine .next (.ite h ?_)
  split
  · split
    · exact .ite (.storeStamp h) (.mapLC h fun _ => by rfl)
    · exact .mapLC h fun _ => by rfl
  · split
    · exact .sendStamp (.mapLC h fun _ => by rfl)
    · exact h

theorem State.MemOk.sample (h : s.MemOk) {asid tick tid : Nat} : (s.sample asid tick tid).MemOk := by
  dsimp only [State.sample]
  refine .ringWrite ?_
  split
  · exact h
  · exact .draw h

theorem OutcomeOk.execPcSample (h : s.MemOk) {asid core : Nat} : OutcomeOk (execPcSample asid core s) :=
  .next (.ite h (.foldl (.mapUnit h) fun _ _ h1 => .sample h1))

/-! ### Sched -/

theorem State.MemOk.missCode (h : s.MemOk) {dom va core : Nat} : (s.missCode dom va core).MemOk := .missOf h

theorem State.MemOk.fetchRun (h : s.MemOk) {t : Thread} {ip base fuel : Nat} {ws : List Word} :
    (s.fetchRun t ip base fuel ws).1.MemOk := by
  induction fuel generalizing s ws with
  | zero => exact h
  | succ n ih =>
    have ht {dom va va' : Nat} : ((s.ensureMapped dom va).ensureMapped dom va').MemOk := .ensureMapped (.ensureMapped
      h)
    dsimp only [State.fetchRun]
    refine .ite_fst h ?_
    split
    · exact .missCode ht
    · exact ht
    · exact .ite_fst ht (ih ht)

theorem State.MemOk.fetchCounts (h : s.MemOk) {tid base n : Nat} : (s.fetchCounts tid base n).MemOk :=
  .foldl (.countBy (.countLines h)) fun _ _ h1 => .spendFree h1

theorem State.MemOk.startRun (h : s.MemOk) {tid : Nat} : (s.startRun tid).MemOk :=
  .mapThread (.countBy h) Thread.stash_beginRun

theorem OutcomeOk.execCodeFetch (h : s.MemOk) {tid : Nat} : OutcomeOk (execCodeFetch tid s) := by
  dsimp -iota only [Machine.execCodeFetch]
  refine .next (.ite h ?_)
  split
  · exact h
  · split
    · rename_i e
      exact .of_pair (.fetchRun h) e
    · rename_i e
      have ht := State.MemOk.of_pair (.fetchRun h) e
      exact .ite (.startRun (.mapThread (.fetchCounts ht) fun _ => by rfl)) (.mapThread (.fetchCounts ht)
        fun _ => by rfl)

theorem OutcomeOk.execSideArbitration (h : s.MemOk) {core side : Nat} :
    OutcomeOk (execSideArbitration core side s) := by
  dsimp only [Machine.execSideArbitration]
  refine .next (.ite h ?_)
  split
  · exact h
  · rename_i tid _
    have ht : State.MemOk { s with threads := (List.range s.threads.length).map fun i =>
        let x := s.thread i
        if x.core ≠ core ∨ x.isLead then x
        else if i = tid then { x with loss := 0, yielded := false }
        else if (s.candidates core).contains i && !x.yielded then { x with loss := x.loss + 1 }
        else { x with yielded := false } } := by
      refine ⟨h.mem, h.2.1, List.forall_mem_map.mpr fun i _ => ?_⟩
      have hi := h.thread i
      dsimp only
      repeat' split
      all_goals exact hi
    exact .ite (.startRun (.mapCore ht)) (.mapCore ht)

theorem OutcomeOk.execRunEnd (h : s.MemOk) {tid : Nat} : OutcomeOk (execRunEnd tid s) := by
  dsimp only [Machine.execRunEnd]
  refine .next ?_
  split
  · exact .ite (.releaseSide (.mapThread h Thread.stash_runEnded)) h
  · exact h

theorem State.MemOk.endWait (h : s.MemOk) {tid : Nat} {is : Wait → Bool} {w' : Option Wait} :
    (s.endWait tid is w').MemOk := by
  dsimp only [State.endWait]
  split
  · exact .ite (.mapThread h fun _ => by rfl) h
  · exact h

theorem OutcomeOk.execFenceComplete (h : s.MemOk) {tid : Nat} : OutcomeOk (execFenceComplete tid s) :=
  .next (.endWait h)

theorem OutcomeOk.execAcquireHoldEnd (h : s.MemOk) {tid : Nat} : OutcomeOk (execAcquireHoldEnd tid s) :=
  .next (.endWait h)

theorem OutcomeOk.execSleepExpire (h : s.MemOk) {tid : Nat} : OutcomeOk (execSleepExpire tid s) := .next (.endWait h)

theorem State.MemOk.pollLines (h : s.MemOk) {tid : Nat} {ls : List (Nat × Nat)} : (s.pollLines tid ls).1.MemOk := by
  dsimp only [State.pollLines]
  refine .foldl_fst h fun _ _ h1 => ?_
  split
  · rename_i e
    exact .homeCounts (.of_pair (.serve h1) e)
  · rename_i e
    exact .of_pair (.serve h1) e

theorem State.MemOk.pollRead (h : s.MemOk) {tid : Nat} {ps : Lanes} : (s.pollRead tid ps).MemOk :=
  .mapThread (.pollLines (.missLines h)) fun _ => by rfl

theorem State.MemOk.pollOnce (h : s.MemOk) {tid : Nat} {ps : Lanes} {w : Nat} {test : Nat → Nat → Bool} :
    (s.pollOnce tid ps w test).MemOk :=
  .mapThread (.pollRead h) fun _ => by rfl

theorem OutcomeOk.execPollAttempt (h : s.MemOk) {tid : Nat} : OutcomeOk (execPollAttempt tid s) := by
  dsimp only [Machine.execPollAttempt]
  refine .next ?_
  split
  · refine .ite h ?_
    split
    · exact h
    · refine .ite (.mapThread ?_ fun _ => by rfl) ?_
      · split
        · exact .ite (.others (.trapWave (.reserve (.others h)))) (.others (.trapping (.reserve (.others h))
            fun _ h1 => .ite (.mapThread h1 fun _ => by rfl) (.pollOnce h1)))
        · exact .others (.pollOnce (.reserve (.others h)))
      · split
        · exact .ite (.others (.trapWave (.reserve (.others h)))) (.others (.trapping (.reserve (.others h))
            fun _ h1 => .ite (.mapThread h1 fun _ => by rfl) (.pollOnce h1)))
        · exact .others (.pollOnce (.reserve (.others h)))
  · exact h

theorem State.MemOk.pastRegion (h : s.MemOk) {tid : Nat} {m : Mask} : (s.pastRegion tid m).MemOk := by
  dsimp only [State.pastRegion]
  split
  · exact .mapThread h fun _ => by rfl
  · exact h

theorem OutcomeOk.execTimerExpire (h : s.MemOk) {tid : Nat} : OutcomeOk (execTimerExpire tid s) := by
  dsimp only [Machine.execTimerExpire]
  refine .next (.ite h ?_)
  split
  · exact h
  · exact .ite (.mapThread (.markParked (.mapThread (.foldl h (fun _ _ h1 => .charge (.countBy h1))) fun _ => by rfl))
      fun _ => by rfl) (.endActivation (.mapThread (.foldl h (fun _ _ h1 => .charge (.countBy h1))) fun _ => by rfl))

theorem OutcomeOk.execPostedFaultDeliver (h : s.MemOk) {tid : Nat} : OutcomeOk (execPostedFaultDeliver tid s) := by
  dsimp only [Machine.execPostedFaultDeliver]
  refine .next ?_
  split
  · exact h
  · exact .ite h (.ite (.charge (.mapThread h fun _ => by rfl)) (.mapThread (.foldl (.pastRegion (.markParked h))
      (fun _ _ h1 => .charge (.ite (.countBy (.countBy h1)) (.countBy h1)))) fun _ => by rfl))

theorem OutcomeOk.execGateTimeout (h : s.MemOk) {tid : Nat} : OutcomeOk (execGateTimeout tid s) :=
  .next (.ite h (.others (.endActivation (.charge (.countBy (.others h))))))

/-! ### Traffic -/

theorem State.MemOk.mapReq (h : s.MemOk) {n : Nat} {f : Req → Req} : (s.mapReq n f).MemOk := .others h

theorem State.MemOk.chargeLate (h : s.MemOk) {tid l : Nat} {x : Late} {code : TrapCode} {kind dom addr : Nat} :
    (s.chargeLate tid l x code kind dom addr).MemOk :=
  .charge (.ite (.countBy (.countBy h)) (.countBy h))

theorem State.MemOk.undo (h : s.MemOk) {tid from_ l : Nat} : (s.undo tid from_ l).MemOk := .others h

theorem State.MemOk.parkLate (h : s.MemOk) {tid l : Nat} {x : Late} {L0 : Lane} {code : TrapCode} {dom addr : Nat}
    {stack : Bool} : (s.parkLate tid l x L0 code dom addr stack).MemOk :=
  .ite h (.ite (.mapThread (.mapStep h) fun _ => by rfl) (.chargeLate (.ite (.mapThread (.undo (.markParked h))
    fun _ => by rfl) h)))

theorem State.MemOk.faultTo (h : s.MemOk) {tid depth n : Nat} : (s.faultTo tid depth n).MemOk := by
  induction n generalizing s with
  | zero => exact h
  | succ n ih => exact .ite h (ih (.endActivation h))

theorem State.MemOk.lateTrap (h : s.MemOk) {tid : Nat} {x : Late} {code : TrapCode} {dom addr : Nat} {stack : Bool} :
    (s.lateTrap tid x code dom addr stack).MemOk :=
  .ite (.ite (.foldl h (fun _ _ h1 => .chargeLate h1)) (.faultTo (.foldl h (fun _ _ h1 => .chargeLate h1)))) (.ite
    (.foldl h (fun _ _ h1 => .parkLate h1)) (.post h))

theorem State.MemOk.failReq (h : s.MemOk) {n : Nat} {code : TrapCode} : (s.failReq n code).MemOk := by
  dsimp only [State.failReq]
  split
  · exact h
  · exact .ite (.mapReq h) (.mapThread (.lateTrap (.mapReq h)) fun _ => Thread.stash_forget ..)

theorem OutcomeOk.execHomeRead (h : s.MemOk) {req : Nat} : OutcomeOk (execHomeRead req s) := by
  dsimp only [Machine.execHomeRead]
  refine .next ?_
  split
  · exact h
  · exact .ite h (.ite (.failReq (.spendFree (.countAccess h))) (.mapReq (.ite_fst (.spendFree (.countAccess h))
      (.grantLease (.spendFree (.countAccess h))))))

theorem State.MemOk.acquireAt (h : s.MemOk) {tid : Nat} {m : Mask} {home : Nat} : (s.acquireAt tid m home).MemOk :=
  .mapThread h fun _ => by rfl

theorem State.MemOk.keepLine (h : s.MemOk) {r : Req} : (s.keepLine r).MemOk := by
  dsimp only [State.keepLine]
  refine .ite h ?_
  split
  · exact .others h
  · exact .ite h (.mapWindow (.writeBack h))

theorem OutcomeOk.execLoadReturn (h : s.MemOk) {req : Nat} : OutcomeOk (execLoadReturn req s) := by
  dsimp only [Machine.execLoadReturn]
  refine .next ?_
  split
  · exact h
  · refine .ite h ?_
    split
    · exact h
    · exact .mapReq (.keepLine (.ite (.acquireAt (.foldl h (fun _ _ h1 => .deliver h1))) (.foldl h fun _ _ h1 =>
        .deliver h1)))

theorem State.MemOk.mapStore (h : s.MemOk) {n : Nat} {f : Store → Store} : (s.mapStore n f).MemOk := .others h

theorem OutcomeOk.execHomeStoreArrival (h : s.MemOk) {st : Nat} : OutcomeOk (execHomeStoreArrival st s) := by
  unfold Machine.execHomeStoreArrival
  refine .next ?_
  split
  · exact h
  · refine .ite h ?_
    extract_lets l perf s1 _ s2 s3
    have h2 : s2.MemOk := .others (.mapStore (.countAccess (.mapLine h)))
    have h3 : s3.MemOk := by
      unfold s3
      refine .ite ?_ h2
      split
      · exact .countBy h2
      · exact .count h2
    refine .settle ?_
    split
    · exact .spendFree h3
    · exact h3

theorem State.MemOk.performDue (h : s.MemOk) {st : Nat} : (s.performDue st).MemOk := by
  dsimp only [State.performDue]
  split
  · exact h
  · exact .ite (.ite (.foldl h (fun _ _ h1 => .performStore h1)) h) (.ite (.mapStore h) h)

theorem OutcomeOk.execHomeStorePerform (h : s.MemOk) {st : Nat} : OutcomeOk (execHomeStorePerform st s) :=
  .next (.ite (.performDue h) h)

theorem OutcomeOk.execHomeAtomicPerform (h : s.MemOk) {st : Nat} : OutcomeOk (execHomeAtomicPerform st s) :=
  .next (.ite (.performDue h) h)

theorem OutcomeOk.execHubStoreAck (h : s.MemOk) {st : Nat} : OutcomeOk (execHubStoreAck st s) := by
  dsimp only [Machine.execHubStoreAck]
  refine .next ?_
  split
  · exact h
  · exact .ite h (.performStore (.mapLine (.mapStore h)))

theorem OutcomeOk.execWctReturn (h : s.MemOk) {st : Nat} : OutcomeOk (execWctReturn st s) := by
  dsimp only [Machine.execWctReturn]
  refine .next ?_
  split
  · exact h
  · exact .ite h (.mapStore (.foldl h fun _ _ h1 => .ite (.acquireAt (.mapThread h1 fun _ => by rfl)) (.mapThread h1
      fun _ => by rfl)))

theorem OutcomeOk.execL1LeaseExpire (h : s.MemOk) {core line : Nat} : OutcomeOk (execL1LeaseExpire core line s) :=
  .next (.others h)

theorem OutcomeOk.execWindowLeaseWriteback (h : s.MemOk) {lc win line : Nat} :
    OutcomeOk (execWindowLeaseWriteback lc win line s) :=
  .next (.ite (.writeBack h) h)

/-- A page that moves takes its bytes along. -/
theorem State.MemOk.movePage (h : s.MemOk) {p : Page} {pa : Nat} : (s.movePage p pa).MemOk :=
  .others (.withMem h (Memory.wf_moveCells s.mem p.pa pa _ h.mem))

theorem OutcomeOk.execPageMigration (h : s.MemOk) {asid va pa : Nat} :
    OutcomeOk (execPageMigration asid va pa s) := by
  dsimp only [Machine.execPageMigration]
  refine .next ?_
  split
  · exact .others h
  · exact .ite (.others h) (.ite h (.ite (.others (.movePage h)) (.others h)))

theorem State.MemOk.strayRecord (h : s.MemOk) {asid kind core : Nat} {code : TrapCode} {addr : Nat}
    {launch : Option Dword} : (s.strayRecord asid kind core code addr launch).MemOk :=
  .charge (.draw (.draw (.draw h)))

theorem State.MemOk.failStore (h : s.MemOk) {n : Nat} {code : TrapCode} : (s.failStore n code).MemOk := by
  dsimp only [State.failStore]
  split
  · exact h
  · refine .ite ?_ (.foldl (.foldl (.foldl (.mapStore h) fun _ _ h1 => .mapReq h1) fun _ _ h1 => .lateTrap h1)
      fun _ _ h1 => ?_)
    · split
      · exact .strayRecord (.foldl (.mapStore h) fun _ _ h1 => .post h1)
      · exact .foldl (.mapStore h) fun _ _ h1 => .post h1
    · split
      · exact .mapThread h1 fun _ => Thread.stash_forget ..
      · exact h1

theorem State.MemOk.takeFaults (h : s.MemOk) : s.takeFaults.MemOk := .foldl h fun _ _ h1 => .failStore h1

theorem State.MemOk.sendWaiting (h : s.MemOk) {asid : Nat} {p : Page} : (s.sendWaiting asid p).MemOk := by
  dsimp only [State.sendWaiting]
  refine .foldl (.others (.foldl h (fun _ _ h1 => .failStore h1))) fun _ _ h1 => ?_
  split
  · exact h1
  · exact .ite (.ite (.mapReq h1) (.failReq h1)) (.ite (.failReq h1) (.mapReq (.countBy h1)))

theorem State.MemOk.fillStore (h : s.MemOk) {n : Nat} : (s.fillStore n).MemOk := by
  dsimp only [State.fillStore]
  split
  · exact h
  · split
    · exact .ite h (.ite (.failStore h) (.mapStore (.writeWindow (.fillWindow (.countBy h)))))
    · exact .mapStore h
    · exact .failStore h
    · exact h

theorem State.MemOk.sendMapped (h : s.MemOk) : s.sendMapped.MemOk := by
  dsimp only [State.sendMapped]
  refine .foldl h fun _ _ h1 => ?_
  split
  · exact h1
  · refine .ite h1 ?_
    split
    · exact .ite (.fillStore h1) (.sendWaiting h1)
    · exact .ite h1 (.failStore h1)

theorem State.MemOk.denyPages (h : s.MemOk) {asid va log : Nat} : (s.denyPages asid va log).MemOk :=
  .foldl (.mapDomain (.mapThreads h fun _ => by split <;> rfl)) fun _ _ h1 =>
    .foldl h1 fun _ _ h2 => .mapUnit (.foldl h2 fun _ _ h3 => .denyCommit h3)

theorem State.MemOk.endWaiting (h : s.MemOk) {asid va log : Nat} : (s.endWaiting asid va log).MemOk :=
  .foldl (.foldl (.denyPages h) (fun _ _ h1 => .failReq h1)) fun _ _ h1 => .failStore h1

theorem OutcomeOk.execTlbWalkComplete (h : s.MemOk) {req : Nat} : OutcomeOk (execTlbWalkComplete req s) := by
  dsimp only [Machine.execTlbWalkComplete]
  refine .next ?_
  split
  · exact h
  · refine .ite h ?_
    split
    · exact .sendWaiting (.ensureMapped h)
    · split
      · exact .failReq (.ensureMapped h)
      · exact .ensureMapped h

theorem State.MemOk.writeMisses (h : s.MemOk) {asid : Nat} : (s.writeMisses asid).MemOk := by
  dsimp only [State.writeMisses]
  refine .foldl h fun _ _ h1 => ?_
  split
  · exact h1
  · exact .ite h1 (.raise (.setCtl (.mapDomain (.writePlace h1))))

theorem State.MemOk.flushMisses (h : s.MemOk) : s.flushMisses.MemOk := .foldl h fun _ _ h1 => .writeMisses h1

theorem OutcomeOk.execL2EvictionError (h : s.MemOk) {asid core line : Nat} :
    OutcomeOk (execL2EvictionError asid core line s) := by
  dsimp only [Machine.execL2EvictionError]
  refine .next ?_
  split
  · exact h
  · exact .ite h (.strayRecord (.mapLine h))

/-! ### Launch -/

theorem State.MemOk.complete (h : s.MemOk) {l : Launch} {status : Nat} : (s.complete l status).MemOk :=
  .completionRecord h

theorem State.MemOk.readDep (h : s.MemOk) {n : Nat} : (s.readDep n).MemOk := by
  -- the function that reads is a variable of the proof: the kernel would otherwise compute with it
  obtain ⟨reads, hreads⟩ : ∃ f, State.deviceReads = f := ⟨_, rfl⟩
  unfold State.readDep
  rw [hreads]
  split
  · exact h
  · refine .ite h ?_
    split
    · rename_i e
      exact .of_pair (.askBytes h) e
    · rename_i e
      split
      rename_i e1
      have ht := State.MemOk.of_pair (hreads ▸ .deviceReads (.of_pair (.askBytes h) e)) e1
      split
      · exact .ite (.answered (.mapLaunch ht)) ht
      · split
        · rename_i e2
          exact .answered (.complete (.mapLaunch (.of_pair (.recordReady ht) e2)))
        · rename_i e2
          exact .of_pair (.recordReady ht) e2

theorem State.MemOk.readDeps (h : s.MemOk) {asid : Nat} : (s.readDeps asid).MemOk :=
  .foldl h fun _ _ h1 => .readDep h1

theorem OutcomeOk.execDependenceRead (h : s.MemOk) {launch : Nat} : OutcomeOk (execDependenceRead launch s) :=
  .next (.readDep h)

theorem State.MemOk.doorbell (h : s.MemOk) {fn : Nat} {value : Dword} : (s.doorbell fn value).MemOk := by
  dsimp only [State.doorbell]
  refine .ite h ?_
  split
  · exact .ite (.readDeps (.readTail h)) h
  · exact h

theorem OutcomeOk.execDoorbell (h : s.MemOk) {fn : Nat} {value : Dword} : OutcomeOk (execDoorbell fn value s) :=
  .next (.doorbell h)

theorem State.MemOk.acceptRecord (h : s.MemOk) {asid queue seq addr : Nat} :
    (s.acceptRecord asid queue seq addr).MemOk := by
  unfold State.acceptRecord
  split
  · exact .completionRecord (.draw h)
  · dsimp only
    split
    · exact .completionRecord h
    · exact .readDep (.others h)

theorem State.MemOk.askRead (h : s.MemOk) {asid va n : Nat} : (s.askRead asid va n).1.MemOk := by
  dsimp only [State.askRead]
  split
  · rename_i e
    exact .of_pair (.askBytes h) e
  · rename_i e
    exact .of_pair (.askBytes h) e

theorem State.MemOk.askRecord (h : s.MemOk) {asid addr : Nat} : (s.askRecord asid addr).1.MemOk := by
  unfold State.askRecord
  split
  · rename_i e
    exact .of_pair (.askRead h) e
  · rename_i e
    split
    · exact .askRead (.of_pair (.askRead h) e)
    · exact .of_pair (.askRead h) e

theorem State.MemOk.answerRecord (h : s.MemOk) {asid addr : Nat} : (s.answerRecord asid addr).MemOk := by
  have h1 : ((s.countLines asid addr 512).answered asid addr 512).MemOk := State.MemOk.answered (.countLines h)
  unfold State.answerRecord
  extract_lets t
  have ht : t.MemOk := h1
  split
  · exact State.MemOk.answered (.countLines ht)
  · exact ht

theorem State.MemOk.takeEntry (h : s.MemOk) {asid : Nat} {w : WorkQ} {seq : Nat} :
    (s.takeEntry asid w seq).MemOk := by
  rw [State.takeEntry]
  split
  · rename_i e
    exact .of_pair (.askRead h) e
  · rename_i e
    have ht := State.MemOk.of_pair (.askRead h) e
    refine .ite (.mapWorkq (.completionRecord (.answered (.countLines ht)))) ?_
    split
    · rename_i e1
      exact .of_pair (.askRecord ht) e1
    · rename_i e1
      exact .answerRecord (.acceptRecord (.consumed (.answered (.countLines (.of_pair (.askRecord ht) e1)))))

theorem OutcomeOk.execLaunchAccept (h : s.MemOk) {queue : Nat} : OutcomeOk (execLaunchAccept queue s) := by
  dsimp only [Machine.execLaunchAccept]
  refine .next ?_
  split
  · exact h
  · refine .ite h (.ite (.readTail h) (.ite h ?_))
    split
    · rename_i e
      exact .of_pair (.recordReady h) e
    · rename_i e
      have ht := State.MemOk.of_pair (.recordReady h) e
      exact .ite (.consumed ht) (.takeEntry ht)

/-- A new thread's stash. -/
theorem State.MemOk.addThread (h : s.MemOk) {t : Thread} (ht : Memory.wf t.stash = true := by rfl) :
    (s.addThread t).MemOk :=
  ⟨h.mem, h.2.1, List.forall_mem_append.mpr ⟨h.2.2, List.forall_mem_singleton.mpr ht⟩⟩

/-- A new launch-on-core has an empty LSTASH area. -/
theorem State.MemOk.addLC (h : s.MemOk) {n : Nat} {l : Launch} {core logcore wave0 : Nat} :
    (s.addLC n l core logcore wave0).MemOk := by
  have h1 : State.MemOk (if (s.lcsOn core).any fun x => x.asid = l.asid then s else
      s.mapUnit l.asid core fun u => { u with gs := {} }) := .ite h (.mapUnit h)
  refine .foldl ⟨h1.mem, ?_, h1.2.2⟩ fun _ _ h2 => .readTail h2
  exact List.forall_mem_append.mpr ⟨h1.2.1, List.forall_mem_singleton.mpr rfl⟩

theorem State.MemOk.startOn (h : s.MemOk) {n : Nat} {l : Launch} {core key : Nat} : (s.startOn n l core key).MemOk :=
  .ite (.mapLaunch (.mapLC (.addLC h) fun _ => by rfl)) (.mapLC (.addThread (.mapLaunch (.mapLC (.addLC h)
    fun _ => by rfl))) fun _ => by rfl)

theorem OutcomeOk.execLaunchStartCore (h : s.MemOk) {launch core : Nat} :
    OutcomeOk (execLaunchStartCore launch core s) := by
  dsimp only [Machine.execLaunchStartCore]
  refine .next ?_
  split
  · exact h
  · exact .ite h (.startOn h)

theorem OutcomeOk.execLogicalCoreStart (h : s.MemOk) {launch core : Nat} :
    OutcomeOk (execLogicalCoreStart launch core s) := by
  dsimp only [Machine.execLogicalCoreStart]
  refine .next ?_
  split
  · exact h
  · refine .ite h ?_
    split
    · exact h
    · exact .startOn (.mapUnit h)

theorem OutcomeOk.execWavePlace (h : s.MemOk) {lc : Nat} : OutcomeOk (execWavePlace lc s) := by
  dsimp only [Machine.execWavePlace]
  refine .next ?_
  split
  · exact .ite h (.mapLC (.addThread h) fun _ => by rfl)
  · exact h

theorem OptionOk.placeChild (h : s.MemOk) {c : Child} : OptionOk (s.placeChild c) := by
  dsimp only [State.placeChild]
  split
  · exact .none
  · refine .ite .none ?_
    split
    · exact .none
    · exact .some (.ite (.addThread (.ite h (.addLC h))) (.mapLC (.addThread (.ite h (.addLC h))) fun _ => by rfl))

theorem OutcomeOk.execChildPlace (h : s.MemOk) {die : Nat} : OutcomeOk (execChildPlace die s) := by
  have hp (c : Child) : OptionOk ((s.mapDie die Die.turnOver).placeChild c) := .placeChild (.mapDie h)
  dsimp only [Machine.execChildPlace]
  refine .next ?_
  split
  · rename_i e
    obtain ⟨x, -, hx⟩ := Option.bind_eq_some_iff.mp e
    obtain ⟨t, ht, hc⟩ := Option.map_eq_some_iff.mp hx
    cases hc
    exact .mapDie (.of_some (hp _) ht)
  · split
    · rename_i e
      obtain ⟨x, -, hx⟩ := List.exists_of_findSome?_eq_some e
      obtain ⟨t, ht, hc⟩ := Option.map_eq_some_iff.mp hx
      cases hc
      exact .mapDie (.of_some (hp _) ht)
    · exact .mapDie h

theorem OutcomeOk.execHandlerWaveStart (h : s.MemOk) {lc : Nat} : OutcomeOk (execHandlerWaveStart lc s) := by
  dsimp only [Machine.execHandlerWaveStart]
  refine .next ?_
  split
  · exact .ite h (.mapLC (.addThread (.ite_fst (.others h) (.mapLC h fun _ => by rfl))) fun _ => by rfl)
  · exact h

theorem State.MemOk.bump (h : s.MemOk) {lc counter : Nat} : (s.bump lc counter).MemOk := by
  dsimp only [State.bump]
  refine .ite h ?_
  split
  · rename_i e
    exact .spendFree (.of_pair (.deviceAdd h) e)
  · rename_i e
    exact .strayRecord (.of_pair (.deviceAdd h) e)

/-- A thread that is gone keeps no stash. -/
theorem State.MemOk.dropThread (h : s.MemOk) {tid : Nat} : (s.dropThread tid).MemOk :=
  .foldl (.mapThread_of_wf (.leaveCast h) fun _ _ => rfl) fun _ _ h1 => .post h1

theorem OutcomeOk.execWaveRetire (h : s.MemOk) {tid : Nat} : OutcomeOk (execWaveRetire tid s) :=
  .next (.ite h (.bump (.dropThread h)))

theorem OutcomeOk.execLeadThreadRetire (h : s.MemOk) {tid : Nat} : OutcomeOk (execLeadThreadRetire tid s) :=
  .next (.ite h (.ite (.dropThread h) (.bump (.dropThread h))))

theorem State.MemOk.orphans (h : s.MemOk) {asid core : Nat} {cs : List Cmd} : (s.orphans asid core cs).MemOk :=
  .foldl h fun _ _ h1 => .charge (.mapUnit h1)

theorem State.MemOk.energyAdds (h : s.MemOk) {lc addr : Nat} : (s.energyAdds lc addr).1.MemOk := by
  dsimp only [State.energyAdds]
  refine .foldl_fst h fun _ _ h1 => ?_
  split
  · rename_i e
    exact .of_pair (.deviceAdd h1) e
  · rename_i e
    exact .strayRecord (.of_pair (.deviceAdd h1) e)

/-- A launch-on-core that is over keeps no LSTASH area. -/
theorem State.MemOk.freeLC (h : s.MemOk) {lc : Nat} : (s.freeLC lc).MemOk :=
  .mapLC_of_wf (.mapLaunch h) fun _ _ => rfl

theorem State.MemOk.leaveCore (h : s.MemOk) {lc : Nat} {l : Launch} : (s.leaveCore lc l).MemOk :=
  .freeLC (.ite (.bump h) h)

theorem OutcomeOk.execLaunchFinishCore (h : s.MemOk) {lc : Nat} : OutcomeOk (execLaunchFinishCore lc s) := by
  dsimp only [Machine.execLaunchFinishCore]
  refine .next ?_
  split
  · exact h
  · refine .ite h (.ite (.orphans h) ?_)
    split
    · exact .ite (.leaveCore h) h
    · exact .ite (.leaveCore (.ite (.foldl h (fun _ _ h1 => .unmapWindow h1)) (.energyAdds (.foldl h (fun _ _ h1 =>
        .unmapWindow h1))))) (.mapLC (.ite (.foldl h (fun _ _ h1 => .unmapWindow h1)) (.energyAdds (.foldl h
        (fun _ _ h1 => .unmapWindow h1)))) fun _ => by rfl)

theorem OutcomeOk.execLaunchFinish (h : s.MemOk) {launch : Nat} : OutcomeOk (execLaunchFinish launch s) := by
  dsimp only [Machine.execLaunchFinish]
  refine .next ?_
  split
  · exact h
  · refine .ite h ?_
    split
    · rename_i e
      exact .of_pair (.recordReady h) e
    · rename_i e
      exact .readDeps (.complete (.mapLaunch (.of_pair (.recordReady h) e)))

theorem State.MemOk.auditReads (h : s.MemOk) {lc q : Nat} : (s.auditReads lc q).1.MemOk := by
  dsimp only [State.auditReads]
  split
  · exact h
  · split
    · rename_i e
      exact .of_pair (.askBytes h) e
    · rename_i e
      have ht := State.MemOk.of_pair (.askBytes h) e
      exact .ite_fst (.readConsumed (.answered ht)) ht

theorem State.MemOk.auditLC (h : s.MemOk) {lc : Nat} : (s.auditLC lc).MemOk := by
  dsimp only [State.auditLC]
  refine .foldl h fun _ _ h1 => ?_
  split
  · rename_i e
    exact .of_pair (.auditReads h1) e
  · rename_i e
    have ht := State.MemOk.of_pair (.auditReads h1) e
    exact .ite (.strayRecord (.mapFifo ht)) ht

theorem State.MemOk.auditChannels (h : s.MemOk) {asid die : Nat} : (s.auditChannels asid die).MemOk :=
  .foldl h fun _ _ h1 => .ite (.strayRecord (.mapDomain h1)) h1

theorem OutcomeOk.execPermitAudit (h : s.MemOk) {die : Nat} : OutcomeOk (execPermitAudit die s) :=
  .next (.ite h (.foldl (.foldl (.mapDie h) (fun _ _ h1 => .auditLC h1)) fun _ _ h1 => .auditChannels h1))

/-! ### Power -/

theorem State.MemOk.stopEach (h : s.MemOk) {ts : List Nat} : (s.stopEach ts).MemOk :=
  .foldl h fun _ _ h1 => .mapThread (.releaseSide h1) fun _ => by rfl

theorem State.MemOk.stopThreads (h : s.MemOk) {asid : Nat} : (s.stopThreads asid).MemOk := .stopEach h

theorem State.MemOk.goThreads (h : s.MemOk) {asid : Nat} : (s.goThreads asid).MemOk :=
  .foldl h fun _ _ h1 => .mapThread h1 fun _ => by rfl

theorem State.MemOk.emptyWindows (h : s.MemOk) {lc : Nat} : (s.emptyWindows lc).MemOk :=
  .foldl h fun _ _ h1 => .ite (.writeBack h1) h1

theorem State.MemOk.dropCopies (h : s.MemOk) {asid : Nat} : (s.dropCopies asid).MemOk := .others h

theorem State.MemOk.storageImage (h : s.MemOk) {asid : Nat} : (s.storageImage asid).1.MemOk := .countSpan (.draw h)

theorem State.MemOk.writeStorage (h : s.MemOk) {asid : Nat} : (s.writeStorage asid).MemOk :=
  .sendOut (.storageImage h)

theorem State.MemOk.readStorage (h : s.MemOk) {asid : Nat} : (s.readStorage asid).MemOk := .storageImage h

theorem State.MemOk.saveContext (h : s.MemOk) {asid : Nat} : (s.saveContext asid).MemOk :=
  .foldl (.foldl (.foldl h fun _ _ h1 => .mapThread h1 Thread.stash_afresh) fun _ _ h1 => .emptyWindows h1)
    fun _ _ h1 => .writeStorage (.dropCopies h1)

theorem State.MemOk.takeWindows (h : s.MemOk) {asid : Nat} {back : Bool} : (s.takeWindows asid back).MemOk :=
  .foldl h fun _ _ h1 => .ite h1 (.mapCore h1)

theorem State.MemOk.preempt (h : s.MemOk) {asid : Nat} : (s.preempt asid).MemOk :=
  .ite h (.ite (.mapDomain (.stopThreads h)) (.ite h (.mapDomain (.takeWindows (.saveContext h)))))

theorem OutcomeOk.execContextPreempt (h : s.MemOk) {asid : Nat} : OutcomeOk (execContextPreempt asid s) :=
  .next (.preempt h)

theorem State.MemOk.restore (h : s.MemOk) {asid : Nat} : (s.restore asid).MemOk :=
  .ite h (.ite (.mapDomain (.takeWindows (.foldl h (fun _ _ h1 => .readStorage h1)))) (.goThreads (.mapDomain
    (.takeWindows (.foldl h fun _ _ h1 => .readStorage h1)))))

theorem OutcomeOk.execContextRestore (h : s.MemOk) {asid : Nat} : OutcomeOk (execContextRestore asid s) :=
  .next (.ite h (.restore h))

theorem State.MemOk.switchStep (h : s.MemOk) : s.switchStep.MemOk := by
  dsimp only [State.switchStep]
  split
  · exact h
  · exact .ite (.foldl h (fun _ _ h1 => .preempt h1)) (.foldl (.others (.foldl h (fun _ _ h1 => .preempt h1)))
      fun _ _ h1 => .restore h1)

theorem OutcomeOk.execGangSwitch (h : s.MemOk) : OutcomeOk (execGangSwitch s) := by
  dsimp only [Machine.execGangSwitch]
  refine .next ?_
  split
  · exact .switchStep h
  · exact .ite h (.ite (.others h) (.switchStep (.others h)))
  · exact h

theorem State.MemOk.scanOut (h : s.MemOk) {asid clk : Nat} : (s.scanOut asid clk).MemOk :=
  .raise (.mapDomain (.writePlace (.writePlace (.draw (.saveContext h)))))

theorem OutcomeOk.execDebugStop (h : s.MemOk) {asid : Nat} : OutcomeOk (execDebugStop asid s) :=
  .next (.ite h (.ite (.mapDomain (.stopEach h)) (.ite h (.ite (.mapDomain h) (.ite h (.scanOut h))))))

theorem State.MemOk.releaseStop (h : s.MemOk) {asid : Nat} : (s.releaseStop asid).MemOk :=
  .goThreads (.mapDomain (.writePlace h))

theorem OutcomeOk.execClockRateChange (h : s.MemOk) {die clk : Nat} : OutcomeOk (execClockRateChange die clk s) :=
  .next (.ite (.mapDie h) h)

theorem OutcomeOk.execIeee1588Slew (h : s.MemOk) {ppm : Option ℤ} : OutcomeOk (execIeee1588Slew ppm s) := by
  dsimp only [Machine.execIeee1588Slew]
  refine .next ?_
  split
  · exact .others h
  · exact .ite (.others h) h

theorem State.MemOk.leaveWing (h : s.MemOk) {dom tid n : Nat} : (s.leaveWing dom tid n).MemOk := by
  induction n generalizing s with
  | zero => exact h
  | succ n ih => exact .ite (ih (.endActivation h)) h

theorem State.MemOk.abortThread (h : s.MemOk) {tid : Nat} : (s.abortThread tid).MemOk :=
  .mapThread_of_wf (.others (.ite (.mapCore (.releaseSide h)) (.releaseSide h))) fun _ _ => rfl

theorem State.MemOk.abortLaunches (h : s.MemOk) {asid : Nat} : (s.abortLaunches asid).MemOk := by
  dsimp only [State.abortLaunches]
  refine .foldl h fun _ _ h1 => ?_
  split
  · exact .mapLaunch (.flushOut (.abortRecord h1))
  · exact h1

/-- Bytes below, inside and above a range make memory in canonical form. -/
theorem Memory.wf_append (m m' : List Host.Cell) (h : Memory.wf m = true) (h' : Memory.wf m' = true)
    (lt : ∀ x ∈ m, ∀ y ∈ m', x.1 < y.1) : Memory.wf (m ++ m') = true := by
  induction m with
  | nil => exact h'
  | cons c t ih =>
    obtain ⟨hc, hlt, ht⟩ := (Memory.wf_cons c t).mp h
    obtain ⟨hc', ht'⟩ := List.forall_mem_cons.mp lt
    refine (Memory.wf_cons c (t ++ m')).mpr ⟨hc, List.forall_mem_append.mpr ⟨hlt, hc'⟩, ih ht ht'⟩

/-- A run of addresses with a byte each, without the bytes that an unlisted address reads as. -/
theorem Memory.wf_range (a n : Nat) (f : Nat → Byte) :
    Memory.wf (((List.range n).map fun i => (a + i, f i)).filter fun c => c.2 ≠ unlisted) = true := by
  induction n with
  | zero => rfl
  | succ n ih =>
    rw [List.range_succ, List.map_append, List.filter_append]
    refine Memory.wf_append _ _ ih ?_ ?_
    · by_cases hf : f n = unlisted <;> simp [hf, Memory.wf]
    · simp only [List.mem_filter, List.mem_map, List.mem_range, List.mem_singleton, List.map_cons, List.map_nil]
      rintro _ ⟨⟨i, hi, rfl⟩, -⟩ _ ⟨rfl, -⟩
      show a + i < a + n
      omega

/-- A page of a destroyed domain reads back as free bytes. -/
theorem State.MemOk.scramble (h : s.MemOk) {asid : Nat} : (s.scramble asid).MemOk := by
  refine .foldl h fun s p h => .withMem (.draw h) ?_
  have hm := h.mem
  refine Memory.wf_append _ _ (Memory.wf_append _ _ (Memory.wf_filter _ _ hm) (Memory.wf_range _ _ _) ?_)
    (Memory.wf_filter _ _ hm) ?_
  · simp only [List.mem_filter, List.mem_map, List.mem_range]
    rintro x ⟨-, hx⟩ _ ⟨⟨i, -, rfl⟩, -⟩
    have := of_decide_eq_true hx
    show x.1 < p.pa + i
    omega
  · simp only [List.mem_append, List.mem_filter, List.mem_map, List.mem_range]
    rintro x hx y ⟨-, hy⟩
    have := of_decide_eq_true hy
    rcases hx with ⟨-, hx⟩ | ⟨⟨i, hi, rfl⟩, -⟩
    · have := of_decide_eq_true hx
      have := Nat.two_pow_pos p.log
      omega
    · show p.pa + i < y.1
      omega

theorem State.MemOk.destroyDomain (h : s.MemOk) {asid : Nat} : (s.destroyDomain asid).MemOk := by
  dsimp only [State.destroyDomain]
  refine .mapDomain (.scramble (.dropCopies (.others (.endWaiting (.mapLCs (.abortLaunches (.foldl (.others ?_)
    fun _ _ h1 => .abortThread h1)) fun x hx => ?_)))))
  · exact .foldl (.mapDomain h) fun _ _ h1 => .leaveWing h1
  · split
    · rfl
    · exact hx

/-- Of memory, the cells outside the device stay. -/
theorem OutcomeOk.execPowerOnReset (h : s.MemOk) {fail : Nat} {time : Option Nat} {cores : BitVec 192} :
    OutcomeOk (execPowerOnReset fail time cores s) :=
  .next ⟨Memory.wf_filter _ _ h.mem, List.forall_mem_nil _, List.forall_mem_nil _⟩

theorem OutcomeOk.execFunctionLevelReset (h : s.MemOk) {fn : Nat} : OutcomeOk (execFunctionLevelReset fn s) :=
  .next (.ite h (.mapFn (.others (.foldl h fun _ _ h1 => .destroyDomain h1))))

/-! ### Host -/

theorem State.MemOk.sysWrite (h : s.MemOk) {a : Nat} {bs : List Byte} : (s.sysWrite a bs).MemOk := .writePlace h

theorem State.MemOk.finish (h : s.MemOk) {fn status : Nat} : (s.finish fn status).MemOk := .raise (.mapFn h)

theorem State.MemOk.cmdGo (h : s.MemOk) {fn : Nat} : (s.cmdGo fn).MemOk :=
  .ite (.finish (.mapFn h)) (.ite (.finish (.mapFn h)) (.ite (.finish (.mapFn h)) (.ite (.mapDomain (.mapFn h))
    (.mapFn h))))

theorem State.MemOk.clearCause (h : s.MemOk) {fn : Nat} {mask : Dword} : (s.clearCause fn mask).MemOk := .mapFn h

theorem OutcomeOk.execCauseClear (h : s.MemOk) {fn : Nat} {mask : Dword} : OutcomeOk (execCauseClear fn mask s) :=
  .next (.ite (.clearCause h) h)

theorem OutcomeOk.execHostRegisterWrite (h : s.MemOk) {fn off : Nat} {value : Dword} :
    OutcomeOk (execHostRegisterWrite fn off value s) := by
  dsimp only [Machine.execHostRegisterWrite]
  refine .next (.ite h ?_)
  split
  · exact .doorbell h
  · exact .mapFn h
  · exact .ite (.cmdGo h) h
  · exact .clearCause h
  · exact .mapFn h
  · exact h

theorem State.MemOk.hostCommand (h : s.MemOk) {fn op args : Nat} {bad : List Byte → Bool} {ends : Bool}
    {eff : State → List Byte → Nat → State × Option Nat}
    (heff : ∀ (a : State) (a_1 : List Byte) (a_2 : Nat), a.MemOk → (eff a a_1 a_2).1.MemOk) :
    (s.hostCommand fn op args bad ends eff).MemOk := by
  dsimp only [State.hostCommand]
  split
  · exact h
  · refine .ite (.finish h) (.ite (.finish h) (.ite (.finish h) ?_))
    split
    · rename_i e
      exact .finish (.of_pair (heff _ _ _ h) e)
    · rename_i e
      exact .of_pair (heff _ _ _ h) e

theorem OutcomeOk.execCreate (h : s.MemOk) {fn : Nat} : OutcomeOk (execCreate fn s) := by
  dsimp only [Machine.execCreate]
  refine .next ?_
  split
  · exact h
  · refine .ite (.finish h) (.ite (.finish h) (.ite (.finish h) ?_))
    split
    · exact .finish (.mapFn (.mapDomain h))
    · exact .finish h

theorem OutcomeOk.execDestroy (h : s.MemOk) {fn : Nat} : OutcomeOk (execDestroy fn s) :=
  .next (.hostCommand h fun _ _ _ h1 => .destroyDomain h1)

theorem OutcomeOk.execSetmode (h : s.MemOk) {fn : Nat} : OutcomeOk (execSetmode fn s) :=
  .next (.hostCommand h fun _ _ _ h1 => .ite_fst h1 (.mapDomain h1))

theorem State.MemOk.measure (h : s.MemOk) {asid : Nat} {object : List Byte} : (s.measure asid object).MemOk :=
  .mapDomain h

theorem OutcomeOk.execSetgates (h : s.MemOk) {fn : Nat} : OutcomeOk (execSetgates fn s) := by
  dsimp only [Machine.execSetgates]
  refine .next (.hostCommand h fun _ _ _ h1 => .ite_fst h1 ?_)
  split
  · exact .deviceReads h1
  · exact .measure (.mapDomain (.deviceReads h1))

theorem OutcomeOk.execRegcode (h : s.MemOk) {fn : Nat} : OutcomeOk (execRegcode fn s) := by
  dsimp only [Machine.execRegcode]
  refine .next (.hostCommand h fun _ _ _ h1 => .ite_fst h1 ?_)
  split
  · exact .deviceReads h1
  · exact .measure (.deviceReads h1)

theorem OutcomeOk.execObserve (h : s.MemOk) {fn : Nat} : OutcomeOk (execObserve fn s) :=
  .next (.hostCommand h fun _ _ _ h1 => .ite_fst h1 (.ite_fst h1 (.mapDomain h1)))

theorem State.MemOk.dropPages (h : s.MemOk) {asid va n : Nat} : (s.dropPages asid va n).MemOk := .mapDomain h

theorem OutcomeOk.execInstall (h : s.MemOk) {fn : Nat} : OutcomeOk (execInstall fn s) :=
  .next (.hostCommand h fun _ _ _ h1 => .sendWaiting (.mapDomain (.dropPages h1)))

theorem State.MemOk.flushRange (h : s.MemOk) {asid va n : Nat} : (s.flushRange asid va n).MemOk :=
  .foldl h fun _ _ h1 => .foldl h1 fun _ _ h2 => .ite (.writeBack h2) h2

theorem OutcomeOk.execUnmap (h : s.MemOk) {fn : Nat} : OutcomeOk (execUnmap fn s) := by
  refine .next (.hostCommand h fun s b asid h1 => ?_)
  have h2 (n va log : Nat) : ((s.flushRange asid va n).endWaiting asid va log).MemOk := .endWaiting (.flushRange h1)
  dsimp only
  refine .ite_fst ?_ ?_ <;> refine .ite (.mapFn (.mapLCs (.mapDomain (.dropPages (h2 _ _ _))) fun x hx => ?_)) h1 <;>
    split <;> exact hx

theorem OutcomeOk.execReserve (h : s.MemOk) {fn : Nat} : OutcomeOk (execReserve fn s) :=
  .next (.hostCommand h fun _ _ _ h1 => .ite_fst h1 (.ite_fst h1 (.mapDomain (.setCtl h1))))

theorem OutcomeOk.execSwitch (h : s.MemOk) {fn : Nat} : OutcomeOk (execSwitch fn s) := by
  dsimp only [Machine.execSwitch]
  refine .next (.hostCommand h fun _ _ _ h1 => .ite_fst h1 ?_)
  split
  · exact .switchStep h1
  · exact .ite_fst (.switchStep (.others h1)) (.mapFn (.switchStep (.others h1)))
  · exact .switchStep h1

theorem OutcomeOk.execSchedule (h : s.MemOk) {fn : Nat} : OutcomeOk (execSchedule fn s) :=
  .next (.hostCommand h fun _ _ _ h1 => .ite_fst h1 (.ite_fst h1 (.ite_fst h1 (.others h1))))

theorem OutcomeOk.execArmstop (h : s.MemOk) {fn : Nat} : OutcomeOk (execArmstop fn s) :=
  .next (.hostCommand h fun _ _ _ h1 => .ite_fst h1 (.ite_fst h1 (.ite_fst h1 (.ite_fst h1 (.ite_fst h1 (.sysWrite
    (.mapDomain h1)))))))

theorem OutcomeOk.execRelease (h : s.MemOk) {fn : Nat} : OutcomeOk (execRelease fn s) :=
  .next (.hostCommand h fun _ _ _ h1 => .ite_fst h1 (.ite_fst h1 (.releaseStop h1)))

theorem OutcomeOk.execLaneop (h : s.MemOk) {fn : Nat} : OutcomeOk (execLaneop fn s) :=
  .next (.hostCommand h fun _ _ _ h1 => .foldl h1 fun _ _ h2 => .laneOp h2)

theorem OutcomeOk.execAttest (h : s.MemOk) {fn : Nat} : OutcomeOk (execAttest fn s) :=
  .next (.hostCommand h fun _ _ _ h1 => .ite_fst h1 (.ite_fst h1 (.sysWrite (.draw h1))))

theorem OutcomeOk.execWeights (h : s.MemOk) {fn : Nat} : OutcomeOk (execWeights fn s) :=
  .next (.hostCommand h fun _ _ _ h1 => .ite_fst h1 (.ite_fst h1 (.sysWrite h1)))

theorem OutcomeOk.execRegqueue (h : s.MemOk) {fn : Nat} : OutcomeOk (execRegqueue fn s) := by
  rw [Machine.execRegqueue]
  refine .next (.hostCommand h fun _ _ _ h1 => .ite_fst h1 (.ite_fst (.mapDomain h1) (.ite_fst h1 ?_)))
  split
  rename_i e
  have ht := State.MemOk.of_pair (.deviceReads h1) e
  split
  · exact ht
  · exact .ite_fst ht (.mapDomain ht)

theorem OutcomeOk.execTdispRequest (h : s.MemOk) {asid : Nat} {run : Bool} :
    OutcomeOk (execTdispRequest asid run s) :=
  .next (.ite (.mapDomain h) h)

theorem State.MemOk.hostWrite (h : s.MemOk) {asid addr : Nat} {data : List Byte} :
    (s.hostWrite asid addr data).MemOk := by
  dsimp only [State.hostWrite]
  refine .foldl h fun _ _ h1 => ?_
  split
  · exact h1
  · exact .ite (.accept h1) (.foldl h1 fun _ _ h2 => .writePlace h2)

theorem State.MemOk.hostRead (h : s.MemOk) {asid addr : Nat} : (s.hostRead asid addr).MemOk := by
  dsimp only [State.hostRead]
  split
  · exact .ite (.countAccess h) h
  · exact h

theorem OutcomeOk.execHostMemoryAccess (h : s.MemOk) {asid : Nat} {ide : Bool} {addr : Nat} {data : List Byte} :
    OutcomeOk (execHostMemoryAccess asid ide addr data s) :=
  .next (.ite h (.ite (.hostRead h) (.mapDomain (.hostWrite h))))

theorem OutcomeOk.execRingHeadRaise (h : s.MemOk) {asid : Nat} {ring : Ring} {value : Nat} :
    OutcomeOk (execRingHeadRaise asid ring value s) :=
  .next (.ite h (.writeMisses (.setCtl h)))

theorem OutcomeOk.execQueueConsumedRaise (h : s.MemOk) {queue value : Nat} :
    OutcomeOk (execQueueConsumedRaise queue value s) := by
  dsimp only [Machine.execQueueConsumedRaise]
  refine .next ?_
  split
  · exact h
  · exact .ite h (.hostWrite h)

/-! ### Memory -/

theorem OutcomeOk.execLd (h : s.MemOk) {d : Dst} {rec : BReg} {idx : Src} {w : Width} {mode : LdMode} :
    OutcomeOk (execLd d rec idx w mode s) :=
  .next (.laneWise h fun _ h1 => .load h1)

theorem OutcomeOk.execSt (h : s.MemOk) {d : LReg} {rec : BReg} {idx : Src} {w : Width} {mode : StMode} :
    OutcomeOk (execSt d rec idx w mode s) :=
  .next (.laneWise h fun _ h1 => .store h1)

theorem OutcomeOk.execLdw (h : s.MemOk) {d : UReg} {rec : BReg} {idx : UReg} {w : WidthW} {mode : LdMode} :
    OutcomeOk (execLdw d rec idx w mode s) :=
  .next (.uniform h fun _ h1 => .loadUni h1)

theorem OutcomeOk.execStw (h : s.MemOk) {d : UReg} {rec : BReg} {idx : UReg} {w : WidthW} {mode : StMode} :
    OutcomeOk (execStw d rec idx w mode s) :=
  .next (.uniform h fun _ h1 => .storeUni h1)

theorem OutcomeOk.execAtom (h : s.MemOk) {d : LReg} {rec : BReg} {idx : Src} {op : AtomOp} {w64 ret ar : Bool} :
    OutcomeOk (execAtom d rec idx op w64 ret ar s) :=
  .next (.laneWise h fun _ h1 => .ite (.trapLanes h1 (fun _ h2 => .ite (.pushAll h2) h2)) (.checked h1 fun _ _ h2 =>
    .released h2 fun _ h3 => .foldl (.ite (.pushAll (.ite (.zeroDropped h3) h3)) (.ite (.zeroDropped h3) h3))
    fun _ _ h4 => .atomLine h4))

theorem OutcomeOk.execLds (h : s.MemOk) {d : Dst} {rec : BReg} {idx : Src} {w : Width} :
    OutcomeOk (execLds d rec idx w s) :=
  .next (.laneWise h fun _ h1 => .loadStash h1)

theorem OutcomeOk.execSts (h : s.MemOk) {d : LReg} {rec : BReg} {idx : Src} {w : Width} :
    OutcomeOk (execSts d rec idx w s) :=
  .next (.laneWise h fun _ h1 => .store h1)

/-! ### Tlb -/

theorem State.MemOk.spanPages (h : s.MemOk) {dom fuel va last : Nat} : (s.spanPages dom fuel va last).1.MemOk := by
  induction fuel generalizing s va with
  | zero => exact h
  | succ n ih =>
    unfold State.spanPages
    dsimp -iota only
    split
    · exact .ensureMapped h
    · refine .ite_fst (.ensureMapped h) ?_
      split <;> rename_i e <;> exact .of_pair (ih (.ensureMapped h)) e

theorem OutcomeOk.execTlblk (h : s.MemOk) {a : BReg} : OutcomeOk (execTlblk a s) := by
  dsimp only [Machine.execTlblk]
  refine .next (.uniform h fun _ h1 => .ite (.trapWave h1) (.ite h1 ?_))
  split
  · exact .ite (.ite (.trapWave h1) (.block (.missEntry (.spanPages h1)))) (.trapWave h1)
  · exact .ite (.trapWave h1) (.mapLC (.spanPages h1) fun _ => by rfl)

theorem OutcomeOk.execTlbunlk (h : s.MemOk) {a : BReg} : OutcomeOk (execTlbunlk a s) :=
  .next (.uniform h fun _ h1 => .ite (.trapWave h1) (.mapLC h1 fun _ => by split <;> rfl))

theorem OutcomeOk.execTlbprb (h : s.MemOk) {d : UReg} {a : BReg} {b : UReg} : OutcomeOk (execTlbprb d a b s) :=
  .next (.uniform h fun _ h1 => .ite (.trapWave h1) (.ite (.setU h1) (.setU (.draw h1))))

/-! ### Dispatch -/

theorem OutcomeOk.exec (h : s.MemOk) {i : Instr} : OutcomeOk (exec i s) := by
  dsimp only [Machine.exec]
  split
  · exact .execNop h
  · exact .execExit h
  · exact .execYield h
  · exact .execRet h
  · exact .execBkpt h
  · exact .execTrap h
  · exact .execWaitev h
  · exact .execBra h
  · exact .execBrt h
  · exact .execBrf h
  · exact .execBrany h
  · exact .execBrall h
  · exact .execCall h
  · exact .execJmpi h
  · exact .execCalli h
  · exact .execLoop h
  · exact .execGuard h
  · exact .execPand h
  · exact .execPor h
  · exact .execPxor h
  · exact .execPandn h
  · exact .execPmov h
  · exact .execPtov h
  · exact .execBallot h
  · exact .execVote h
  · exact .execJoin h
  · exact .execLeave h
  · exact .execArrive h
  · exact .execBarw h
  · exact .execWaitb h
  · exact .execCastq h
  · exact .execIadd h
  · exact .execIsub h
  · exact .execAnd h
  · exact .execOr h
  · exact .execXor h
  · exact .execAndn h
  · exact .execImin h
  · exact .execImax h
  · exact .execShl h
  · exact .execShr h
  · exact .execSar h
  · exact .execRol h
  · exact .execIminu h
  · exact .execImaxu h
  · exact .execAmin h
  · exact .execIabsd h
  · exact .execImul h
  · exact .execImulh h
  · exact .execImulhu h
  · exact .execImad h
  · exact .execClz h
  · exact .execPopc h
  · exact .execBrev h
  · exact .execIabs h
  · exact .execIcmp h
  · exact .execIcmpW h
  · exact .execIaddi h
  · exact .execShli h
  · exact .execShri h
  · exact .execSari h
  · exact .execRoli h
  · exact .execMovi h
  · exact .execMovhi h
  · exact .execBfx h
  · exact .execBfi h
  · exact .execIadd64 h
  · exact .execIsub64 h
  · exact .execShl64 h
  · exact .execImulw h
  · exact .execPack16 h
  · exact .execByteperm h
  · exact .execSel h
  · exact .execWadd h
  · exact .execWsub h
  · exact .execWand h
  · exact .execWor h
  · exact .execWxor h
  · exact .execWshl h
  · exact .execWshr h
  · exact .execWmul h
  · exact .execWmin h
  · exact .execWmax h
  · exact .execWsar h
  · exact .execVtow h
  · exact .execWtov h
  · exact .execWsel h
  · exact .execWclz h
  · exact .execWpopc h
  · exact .execWaddi h
  · exact .execWmovi h
  · exact .execWmovk h
  · exact .execRand32 h
  · exact .execRandf h
  · exact .execRseed h
  · exact .execRctr h
  · exact .execFadd h
  · exact .execFsub h
  · exact .execFmul h
  · exact .execFfma h
  · exact .execFmin h
  · exact .execFmax h
  · exact .execFamin h
  · exact .execFfms h
  · exact .execBadd2 h
  · exact .execBmul2 h
  · exact .execBfma2 h
  · exact .execBmax2 h
  · exact .execHadd2 h
  · exact .execHmul2 h
  · exact .execHfma2 h
  · exact .execHmax2 h
  · exact .execFrcp h
  · exact .execFrsq h
  · exact .execFsqrt h
  · exact .execFexp2 h
  · exact .execFlog2 h
  · exact .execFtanh h
  · exact .execFsin2pi h
  · exact .execFrnd h
  · exact .execFdiv h
  · exact .execFabs h
  · exact .execFneg h
  · exact .execFcpys h
  · exact .execFclass h
  · exact .execFscale h
  · exact .execFexpt h
  · exact .execFcmp h
  · exact .execFcvt h
  · exact .execFupcvt h
  · exact .execIcvtf h
  · exact .execFcvti h
  · exact .execQpack h
  · exact .execQunpack h
  · exact .execI8pack h
  · exact .execFflrd h
  · exact .execFflclr h
  · exact .execFmode h
  · exact .execLshup h
  · exact .execLshdn h
  · exact .execLrot h
  · exact .execLperm h
  · exact .execLbcast h
  · exact .execLxor h
  · exact .execLscanadd h
  · exact .execLscanmin h
  · exact .execLscanmax h
  · exact .execLscanfadd h
  · exact .execLredadd h
  · exact .execLredmin h
  · exact .execLredmax h
  · exact .execLredfadd h
  · exact .execLmatch h
  · exact .execLfirst h
  · exact .execLd h
  · exact .execSt h
  · exact .execLdw h
  · exact .execStw h
  · exact .execAtom h
  · exact .execFence h
  · exact .execStflush h
  · exact .execStdrop h
  · exact .execStmap h
  · exact .execPref h
  · exact .execWaitv h
  · exact .execBbarm h
  · exact .execBbwait h
  · exact .execBufset h
  · exact .execBufget h
  · exact .execBufnar h
  · exact .execLds h
  · exact .execSts h
  · exact .execTlblk h
  · exact .execTlbunlk h
  · exact .execTlbprb h
  · exact .execQpush h
  · exact .execQpushw h
  · exact .execQpop h
  · exact .execQpopw h
  · exact .execQtry h
  · exact .execQtryw h
  · exact .execQlen h
  · exact .execQbind h
  · exact .execSpawn h
  · exact .execWaitc h
  · exact .execWithdraw h
  · exact .execTasktag h
  · exact .execSiglead h
  · exact .execWbmac h
  · exact .execWbmacp h
  · exact .execWbload h
  · exact .execWbswap h
  · exact .execWbzero h
  · exact .execTadd h
  · exact .execTsub h
  · exact .execTshl h
  · exact .execTmov h
  · exact .execTneg h
  · exact .execTslice h
  · exact .execTcvt h
  · exact .execSettle h
  · exact .execTlin h
  · exact .execTrd h
  · exact .execTwr h
  · exact .execApqk h
  · exact .execAppv h
  · exact .execApresc h
  · exact .execApnorm h
  · exact .execApcfg h
  · exact .execCecopy h
  · exact .execCelist h
  · exact .execCerope h
  · exact .execCepatch h
  · exact .execCereq h
  · exact .execCered h
  · exact .execCefill h
  · exact .execRlxbeg h
  · exact .execRlxend h
  · exact .execRlxin h
  · exact .execRlxout h
  · exact .execRlxjac h
  · exact .execRlxstep h
  · exact .execRlxst h
  · exact .execRlxabt h
  · exact .execRlxpeek h
  · exact .execRlxguess h
  · exact .execCallg h
  · exact .execRetg h
  · exact .execGateq h
  · exact .execSrd h
  · exact .execSwr h
  · exact .execResumeWrite h
  · exact .execKillWrite h
  · exact .execHclk h
  · exact .execWtime h
  · exact .execTimer h
  · exact .execStamp h
  · exact .execEnrd h
  · exact .execPmrd h
  · exact .execTmark h
  · exact .execSleep h
  · exact .execSignal h
  · exact .execIllegalInstruction h
  · exact .execFaultRecordWrite h
  · exact .execSideArbitration h
  · exact .execRunEnd h
  · exact .execCodeFetch h
  · exact .execLoadReturn h
  · exact .execWctReturn h
  · exact .execFenceComplete h
  · exact .execAcquireHoldEnd h
  · exact .execPollAttempt h
  · exact .execSleepExpire h
  · exact .execTimerExpire h
  · exact .execPostedFaultDeliver h
  · exact .execHomeRead h
  · exact .execHomeStoreArrival h
  · exact .execHomeStorePerform h
  · exact .execHomeAtomicPerform h
  · exact .execHubStoreAck h
  · exact .execL1LeaseExpire h
  · exact .execWindowLeaseWriteback h
  · exact .execPageMigration h
  · exact .execTlbWalkComplete h
  · exact .execL2EvictionError h
  · exact .execWaveRetire h
  · exact .execLeadThreadRetire h
  · exact .execDoorbell h
  · exact .execLaunchAccept h
  · exact .execDependenceRead h
  · exact .execLaunchStartCore h
  · exact .execWavePlace h
  · exact .execChildPlace h
  · exact .execLogicalCoreStart h
  · exact .execHandlerWaveStart h
  · exact .execLaunchFinishCore h
  · exact .execLaunchFinish h
  · exact .execPermitAudit h
  · exact .execQ0CommandStart h
  · exact .execBenchPlane h
  · exact .execPromptApply h
  · exact .execProxyAck h
  · exact .execCeredLand h
  · exact .execPairCommandStart h
  · exact .execCopyCommandStart h
  · exact .execNodeComplete h
  · exact .execStampSettleWrite h
  · exact .execRegionOpen h
  · exact .execRegionStart h
  · exact .execRelaxVerify h
  · exact .execRegionClose h
  · exact .execGateReturn h
  · exact .execGateTimeout h
  · exact .execContextPreempt h
  · exact .execContextRestore h
  · exact .execGangSwitch h
  · exact .execDebugStop h
  · exact .execPcSample h
  · exact .execClockRateChange h
  · exact .execPowerOnReset h
  · exact .execFunctionLevelReset h
  · exact .execCreate h
  · exact .execDestroy h
  · exact .execSetmode h
  · exact .execSetgates h
  · exact .execRegcode h
  · exact .execObserve h
  · exact .execInstall h
  · exact .execUnmap h
  · exact .execReserve h
  · exact .execSwitch h
  · exact .execSchedule h
  · exact .execArmstop h
  · exact .execRelease h
  · exact .execLaneop h
  · exact .execAttest h
  · exact .execWeights h
  · exact .execRegqueue h
  · exact .execCauseClear h
  · exact .execHostRegisterWrite h
  · exact .execIeee1588Slew h
  · exact .execTdispRequest h
  · exact .execHostMemoryAccess h
  · exact .execRingHeadRaise h
  · exact .execQueueConsumedRaise h

/-! ### Issue -/

theorem OutcomeOk.runWord (h : s.MemOk) {w : GroupWord} : OutcomeOk (s.runWord w) := .exec (.others h)

theorem OutcomeOk.runWords (h : s.MemOk) {ws : List GroupWord} : OutcomeOk (s.runWords ws) := by
  induction ws generalizing s with
  | nil => exact .next h
  | cons w t ih =>
    unfold State.runWords
    split
    · rename_i e
      have hw := State.MemOk.of_next (.runWord h) e
      exact .ite (.next hw) (ih hw)
    · exact .runWord h

theorem OutcomeOk.runGroup (h : s.MemOk) {us : List (List GroupWord × Instr × Mask)} {fuel : Nat} {xs : List Taken} :
    OutcomeOk (s.runGroup us fuel xs) := by
  induction fuel generalizing xs with
  | zero => exact .next h
  | succ n ih =>
    unfold State.runGroup
    split
    · rename_i e
      have hw := State.MemOk.of_next (.runWords (.excluding h)) e
      refine .ite (.next hw) (.ite (.next (.ite hw (.takeAll hw))) (.ite ?_ (.ite (.next hw) ih)))
      split
      · exact .next (.gateFault (.excluding h))
      · exact .next (.others h)
    · exact .runWords (.excluding h)

theorem State.MemOk.runBlocked (h : s.MemOk) {w : Wait} {us : List (List GroupWord × Instr × Mask)} :
    (s.runBlocked w us).1.MemOk := by
  induction us with
  | nil => exact h
  | cons u t ih =>
    unfold State.runBlocked
    split
    · rename_i e
      split
      · exact .of_next (.runWords h) e
      · exact ih
    · exact ih

theorem State.MemOk.fallThrough (h : s.MemOk) {tid : Nat} {run : Mask} {pc : Nat} :
    (s.fallThrough tid run pc).MemOk :=
  .mapThread h fun _ => by rfl

theorem State.MemOk.suspend (h : s.MemOk) {tid : Nat} {w : Wait} {pc : Nat} : (s.suspend tid w pc).MemOk :=
  .others (.releaseSide (.mapThread h fun _ => by rfl))

theorem State.MemOk.suspended (h : s.MemOk) {w : Wait} {xs : List Taken} {us : List (List GroupWord × Instr × Mask)} :
    (s.suspended w xs us).1.MemOk := by
  dsimp only [State.suspended]
  split
  · exact .takeAll (.runBlocked (.excluding h))
  · exact .runBlocked (.excluding h)

theorem State.MemOk.groupCounts (h : s.MemOk) {tid : Nat} {us : List (List GroupWord × Instr × Mask)} :
    (s.groupCounts tid us).MemOk :=
  .spendAt (.ite (.spendAt (.draw (.countBy h))) (.draw (.countBy h)))

theorem State.MemOk.joinHeld (h : s.MemOk) {tid : Nat} : (s.joinHeld tid).MemOk := by
  dsimp only [State.joinHeld]
  split
  · exact .ite (.mapThread h fun _ => by rfl) h
  · exact h

theorem State.MemOk.issueAt (h : s.MemOk) {tid : Nat} {t : Thread} {run : Mask} {grp : Nat} :
    (s.issueAt tid t run grp).MemOk :=
  .others h

theorem OutcomeOk.issueGroup (h : s.MemOk) {tid : Nat} : OutcomeOk (s.issueGroup tid) := by
  unfold State.issueGroup
  refine .ite (.next h) ?_
  extract_lets s1 t
  have h1 : s1.MemOk := .joinHeld h
  split
  case h_2 => exact .next h1
  case h_1 r _ =>
    refine .ite (.next (.mapThread (.releaseSide h1) fun _ => by rfl)) ?_
    extract_lets s2 _ us bad s4 run t1 s5 e s6
    have h2 : s2.MemOk := .issueAt h1
    split
    case h_1 code addr _ =>
      extract_lets uni s3
      have h3 : s3.MemOk := .others h2
      have ho : OutcomeOk (if addr = 0 then Machine.exec (.illegalInstruction code) s3 else .next (s3.trapping
          ((lanesOf s3.cur.run).map fun l => { lane := l, code := code, addr := addr, stack := true }) id)) :=
        .ite (.exec h3) (.next (.trapping h3 fun _ h => h))
      split
      · rename_i e
        exact .next (.afterGroup (.of_next ho e))
      · exact ho
    case h_2 =>
      have h4 : s4.MemOk := .trapLanes h2 fun _ h => h
      have h5 : s5.MemOk := .issueAt h4
      refine .ite (.next (.afterGroup h4)) ?_
      split
      · exact .next (.suspend h5)
      · have h6 : s6.MemOk := .ite (.fallThrough h5) h5
        split
        · rename_i eo
          have h7 := State.MemOk.of_next (.runGroup h6) eo
          split
          · exact .next (.groupCounts (.afterGroup h7))
          · split
            rename_i e
            exact .next (.suspend (.of_pair (.suspended h6) e))
        · exact .runGroup h6

/-! ### Advance -/

theorem State.MemOk.fetchCycles (h : s.MemOk) {dt : Nat} : (s.fetchCycles dt).MemOk :=
  .foldl h fun _ _ h1 => .countBy h1

theorem State.MemOk.tick (h : s.MemOk) {dt : Nat} : (s.tick dt).MemOk := by
  refine .ite h (.settle (.foldl ?_ fun _ _ h1 => .spend h1))
  exact .others (.mapThreads (.fetchCycles (.draw h)) fun _ => by split <;> rfl)

theorem OutcomeOk.take (h : s.MemOk) {c : Choice} : OutcomeOk (s.take c) := by
  dsimp only [State.take]
  split
  · exact .ite (.exec (.others h)) (.next h)
  · exact .issueGroup h
  · exact .next (.others h)
  · exact .next (.others h)
  · exact .next (.others h)

theorem State.MemOk.endStep (h : s.MemOk) : s.endStep.MemOk :=
  .latchStamps (.flushOut (.flushMisses (.sendMapped (.takeFaults h))))

end Sys2Proof.Machine
end

section
/-! OBLIGATION. The moves of the machine, the step, and O60. -/

namespace Sys2Proof.Machine

variable {s : State}

/-! ### The moves that the machine makes on its own -/

/-- A move that keeps the invariant. -/
def Move.Keeps (f : Move) : Prop := ∀ s : State, s.MemOk → OutcomeOk (f s)

/-- Moves that each keep the invariant. -/
def KeepAll (l : List Move) : Prop := ∀ f ∈ l, Move.Keeps f

theorem KeepAll.nil : KeepAll [] := List.forall_mem_nil _

theorem KeepAll.cons {f : Move} {l : List Move} (hf : f.Keeps) (hl : KeepAll l) : KeepAll (f :: l) :=
  List.forall_mem_cons.mpr ⟨hf, hl⟩

theorem KeepAll.one {f : Move} (hf : f.Keeps) : KeepAll [f] := .cons hf .nil

theorem KeepAll.append {l l' : List Move} (h : KeepAll l) (h' : KeepAll l') : KeepAll (l ++ l') :=
  List.forall_mem_append.mpr ⟨h, h'⟩

theorem KeepAll.map {α : Type} {f : α → Move} (hf : ∀ x, (f x).Keeps) (l : List α) : KeepAll (l.map f) :=
  List.forall_mem_map.mpr fun x _ => hf x

theorem KeepAll.flatMap {α : Type} {f : α → List Move} (hf : ∀ x, KeepAll (f x)) (l : List α) :
    KeepAll (l.flatMap f) :=
  List.forall_mem_flatMap.mpr fun x _ => hf x

theorem KeepAll.ite {c : Prop} [Decidable c] {l l' : List Move} (h : KeepAll l) (h' : KeepAll l') :
    KeepAll (if c then l else l') := by
  split
  · exact h
  · exact h'

theorem KeepAll.threadSteps (tid : Nat) : KeepAll (threadSteps tid) :=
  .cons (fun _ h => .execCodeFetch h) <| .cons (fun _ h => .execRunEnd h) <| .cons (fun _ h => .execFenceComplete h) <|
  .cons (fun _ h => .execAcquireHoldEnd h) <| .cons (fun _ h => .execPollAttempt h) <|
  .cons (fun _ h => .execSleepExpire h) <| .cons (fun _ h => .execTimerExpire h) <|
  .cons (fun _ h => .execPostedFaultDeliver h) <| .cons (fun _ h => .execGateReturn h) <|
  .cons (fun _ h => .execGateTimeout h) <| .cons (fun _ h => .execWaveRetire h) <|
  .one fun _ h => .execLeadThreadRetire h

theorem KeepAll.coreSteps (core : Nat) : KeepAll (coreSteps core) :=
  .cons (fun _ h => .execSideArbitration h) <| .cons (fun _ h => .execSideArbitration h) <|
  .cons (fun _ h => .execRegionOpen h) <| .cons (fun _ h => .execRegionStart h) <|
  .cons (fun _ h => .execRelaxVerify h) <| .one fun _ h => .execRegionClose h

theorem KeepAll.unitSteps (s : State) (asid core : Nat) : KeepAll (s.unitSteps asid core) :=
  .append
    (.cons (fun _ h => .execQ0CommandStart h) <| .cons (fun _ h => .execBenchPlane h) <|
     .cons (fun _ h => .execPromptApply h) <| .cons (fun _ h => .execProxyAck h) <|
     .cons (fun _ h => .execCeredLand h) <|
     .cons (fun _ h => .execPairCommandStart h) <| .cons (fun _ h => .execCopyCommandStart h) <|
     .one fun _ h => .execPcSample h)
    (.map (fun _ _ h => .execNodeComplete h) _)

theorem KeepAll.lcSteps (s : State) (lc : Nat) : KeepAll (s.lcSteps lc) :=
  .append
    (.cons (fun _ h => .execWavePlace h) <| .cons (fun _ h => .execHandlerWaveStart h) <|
     .cons (fun _ h => .execLaunchFinishCore h) <| .one fun _ h => .execStampSettleWrite h)
    (.flatMap (fun _ => .map (fun _ _ h => .execWindowLeaseWriteback h) _) _)

theorem KeepAll.launchSteps (s : State) (n : Nat) : KeepAll (s.launchSteps n) := by
  refine .append (.cons (fun _ h => .execDependenceRead h) <| .one fun _ h => .execLaunchFinish h) ?_
  split
  · exact .flatMap (fun _ => .cons (fun _ h => .execLaunchStartCore h) <| .one fun _ h => .execLogicalCoreStart h) _
  · exact .nil

theorem KeepAll.commandSteps (s : State) (fn : Nat) : KeepAll (s.commandSteps fn) := by
  unfold State.commandSteps
  split
  · exact .nil
  · split
    · exact .one fun _ h => .execCreate h
    · exact .one fun _ h => .execDestroy h
    · exact .one fun _ h => .execSetmode h
    · exact .one fun _ h => .execSetgates h
    · exact .one fun _ h => .execRegcode h
    · exact .one fun _ h => .execObserve h
    · exact .one fun _ h => .execInstall h
    · exact .one fun _ h => .execUnmap h
    · exact .one fun _ h => .execReserve h
    · exact .one fun _ h => .execSwitch h
    · exact .one fun _ h => .execSchedule h
    · exact .one fun _ h => .execArmstop h
    · exact .one fun _ h => .execRelease h
    · exact .one fun _ h => .execLaneop h
    · exact .one fun _ h => .execAttest h
    · exact .one fun _ h => .execWeights h
    · exact .one fun _ h => .execRegqueue h
    · exact .nil

theorem KeepAll.domainSteps (s : State) (asid : Nat) : KeepAll (s.domainSteps asid) :=
  .append (.append (.append
    (.cons (fun _ h => .execFaultRecordWrite h) <| .one fun _ h => .execDebugStop h)
    (.ite (.one fun _ h => .execContextPreempt h) .nil))
    (.map (fun _ _ h => .execLaunchAccept h) _))
    (.flatMap (.unitSteps s asid) _)

/-- Every step that the state names. -/
theorem KeepAll.steps (s : State) : KeepAll s.steps := by
  have hreq (n : Nat) : KeepAll [execHomeRead n, execLoadReturn n, execTlbWalkComplete n] :=
    .cons (fun _ h => .execHomeRead h) <| .cons (fun _ h => .execLoadReturn h) <| .one fun _ h => .execTlbWalkComplete h
  have hstore (n : Nat) : KeepAll [execHomeStoreArrival n, execHomeStorePerform n, execHomeAtomicPerform n,
      execHubStoreAck n, execWctReturn n] :=
    .cons (fun _ h => .execHomeStoreArrival h) <| .cons (fun _ h => .execHomeStorePerform h) <|
    .cons (fun _ h => .execHomeAtomicPerform h) <| .cons (fun _ h => .execHubStoreAck h) <|
    .one fun _ h => .execWctReturn h
  have hdie (d : Nat) : KeepAll [execChildPlace d, execPermitAudit d] :=
    .cons (fun _ h => .execChildPlace h) <| .one fun _ h => .execPermitAudit h
  unfold State.steps
  refine .append (.append (.append (.append (.append (.append (.append (.append (.append (.append (.append
    ?_ ?_) ?_) ?_) ?_) ?_) ?_) ?_) ?_) ?_) ?_) ?_
  · exact .flatMap .threadSteps _
  · exact .flatMap .coreSteps _
  · exact .flatMap hreq _
  · exact .flatMap hstore _
  · exact .map (fun _ _ h => .execL1LeaseExpire h) _
  · exact .flatMap (.lcSteps s) _
  · exact .flatMap (.launchSteps s) _
  · exact .flatMap (.domainSteps s) _
  · exact .flatMap hdie _
  · exact .map (fun _ _ h => .execPageMigration h) _
  · exact .flatMap (.commandSteps s) _
  · exact .one fun _ h => .execGangSwitch h

/-- A list that begins at another of its entries has the same entries. -/
theorem mem_of_mem_turned {α : Type} {l : List α} {n : Nat} {x : α} (hx : x ∈ turned l n) : x ∈ l :=
  (List.mem_append.mp hx).elim List.mem_of_mem_drop List.mem_of_mem_take

/-- What the machine does on its own is one of its moves, or nothing. -/
theorem OutcomeOk.onItsOwn (h : s.MemOk) : OutcomeOk s.onItsOwn := by
  unfold State.onItsOwn
  extract_lets issues moves
  have hmoves : KeepAll moves := .append (.steps s) (.map (fun _ _ h => .issueGroup h) _)
  split
  · rename_i f hf
    exact hmoves f (mem_of_mem_turned (List.mem_of_find?_eq_some hf)) s h
  · exact .next h

/-! ### The step -/

theorem OutcomeOk.advance (h : s.MemOk) : OutcomeOk s.advance := by
  unfold State.advance
  extract_lets out
  have hout : OutcomeOk out := by
    unfold out
    split
    · exact .take (.tick (.others h))
    · exact .onItsOwn (.tick h)
  clear_value out
  cases out with
  | next t => exact .next (.endStep hout)
  | fault _ => exact hout
  | refused _ => exact hout

theorem OutcomeOk.step (h : s.MemOk) : OutcomeOk (step s) := by
  unfold Machine.step
  split
  · trivial
  · exact .advance h

/-- Settles O60: every operation of the model keeps the canonical form, from the updates of the state up to the arms
of `exec`, the issue of a group, the moves that the machine makes on its own, and the step. -/
theorem memoryStaysCanonical : Obligations.MemoryStaysCanonical := by
  unfold Obligations.MemoryStaysCanonical
  intro s t h e
  exact .of_next (.step h) e

end Sys2Proof.Machine
end

section
/-! SUPPORT. What taking a trap does: the books that a park keeps, the parking of a list of lanes, and the end of an
activation (R8, R123, R343, R344, R348). -/

namespace Sys2Proof.Machine

/-! ### Event counters and regions -/

/-- Nothing but domains differs, and no fault record is added. -/
def SameRecords (s t : State) : Prop :=
  t = { s with domains := t.domains } ∧ ∀ k, (t.domain k).records = (s.domain k).records

theorem SameRecords.refl (s : State) : SameRecords s s := ⟨rfl, fun _ => rfl⟩

theorem SameRecords.trans {s t u : State} (h : SameRecords s t) (k : SameRecords t u) : SameRecords s u :=
  ⟨by rw [k.1, h.1], fun n => (k.2 n).trans (h.2 n)⟩

theorem SameRecords.ite {c : Prop} [Decidable c] {s t u : State} (ht : SameRecords s t) (hu : SameRecords s u) :
    SameRecords s (if c then t else u) := by
  split
  · exact ht
  · exact hu

theorem sameRecords_mapUnit (s : State) (asid core : Nat) (f : Unit_ → Unit_) :
    SameRecords s (s.mapUnit asid core f) := by
  refine ⟨rfl, fun k => ?_⟩
  rw [State.mapUnit, State.domain_mapDomain]
  split
  · next e => rw [e]
  · rfl

theorem sameRecords_countBy (s : State) (tid event n : Nat) : SameRecords s (s.countBy tid event n) :=
  .ite (.ite (.refl s) (sameRecords_mapUnit ..)) (.refl s)

theorem sameRecords_markParked (s : State) (tid : Nat) (m : Mask) : SameRecords s (s.markParked tid m) :=
  .ite (sameRecords_mapUnit ..) (.refl s)

/-- The threads of states that differ in domains only. -/
theorem SameRecords.thread {s t : State} (h : SameRecords s t) (k : Nat) : t.thread k = s.thread k := by
  rw [h.1]
  rfl

/-- A charge adds one record to its domain. -/
theorem State.records_charge (s : State) (asid k : Nat) (r : FaultRec) :
    ((s.charge asid r).domain k).records =
      if k = asid then (s.domain asid).records ++ [{ r with domain := asid }] else (s.domain k).records := by
  rw [State.charge, State.domain_mapDomain]
  split <;> rfl

/-- The record of a trap speaks of no thread and no domain as it stands now. -/
theorem State.trapRecord_congr {s t : State} (h : t = { s with threads := t.threads, domains := t.domains })
    (x : Taken) (kind : Nat) : t.trapRecord x kind = s.trapRecord x kind := by
  rw [h]
  rfl

/-! ### Lanes that park -/

/-- A lane that BKPT or TRAP parks: as it stood when the group began, but for CTR, which the lane of now gives. -/
def Issue.parked (c : Issue) (l : Nat) (now : Lane) : Lane :=
  { c.old.lane l with st := .parked, pc := BitVec.ofNat 32 c.grp, ctr := now.ctr, kept := some (c.old.lane l).latch,
                      parkNext := true }

/-- What the parking of lanes leaves: they are parked and out of the run, and nothing else differs but what domains
hold. -/
structure Parks (s : State) (ls : List Nat) (t : State) : Prop where
  frame : t = { s with threads := t.threads, domains := t.domains }
  others : ∀ k, k ≠ s.cur.tid → t.thread k = s.thread k
  me : t.me = { s.me with lanes := t.me.lanes, run := t.me.run }
  lane : ∀ l, t.me.lane l = if l ∈ ls then s.cur.parked l (s.me.lane l) else s.me.lane l
  run : ∀ r, s.me.run = some r → ∃ r', t.me.run = some r' ∧
    ∀ l, l < 32 → r'.mask.getLsbD l = (r.mask.getLsbD l && !decide (l ∈ ls))

theorem Parks.nil (s : State) : Parks s [] s where
  frame := rfl
  others _ _ := rfl
  me := rfl
  lane _ := rfl
  run r hr := ⟨r, hr, fun _ _ => by simp⟩

/-- What domains hold is not spoken of. -/
theorem Parks.withDomains {s t : State} {ls : List Nat} (h : Parks s ls t) (ds : List Domain) :
    Parks s ls { t with domains := ds } where
  frame := by rw [h.frame]
  others := h.others
  me := h.me
  lane := h.lane
  run := h.run

theorem Parks.sameRecords {s t u : State} {ls : List Nat} (h : Parks s ls t) (hu : SameRecords t u) : Parks s ls u :=
  hu.1 ▸ h.withDomains u.domains

/-- The thread that issues, with one lane parked. -/
def Thread.park (me : Thread) (c : Issue) (l : Nat) : Thread :=
  { (me.mapLane l (c.parked l)) with
    run := me.run.map fun r => { r with mask := r.mask &&& ~~~ laneBit l } }

theorem getLsbD_laneBit (l k : Nat) (hk : k < 32) : (laneBit l).getLsbD k = decide (k = l) := by
  rw [laneBit, BitVec.getLsbD_shiftLeft, BitVec.getLsbD_one, Bool.eq_iff_iff]
  simp [hk]
  omega

/-- One lane more parks. -/
theorem Parks.snoc {s t : State} {ls : List Nat} (h : Parks s ls t) (l : Nat) :
    Parks s (ls ++ [l]) (t.mapMe fun me => me.park s.cur l) where
  frame := by
    rw [h.frame]
    rfl
  others k hk := by
    have hc : t.cur = s.cur := by rw [h.frame]
    rw [State.mapMe, State.thread_mapThread, hc, if_neg hk, h.others k hk]
  me := by
    rw [State.me_mapMe, h.me]
    rfl
  lane k := by
    have hl := h.lane
    rw [State.me_mapMe]
    refine (Thread.lane_mapLane t.me l k (s.cur.parked l)).trans ?_
    have hctr : s.cur.parked l (t.me.lane l) = s.cur.parked l (s.me.lane l) := by
      rw [hl]
      split <;> rfl
    by_cases e : k = l
    · subst e
      simp [hctr]
    · simp [e, hl]
  run r hr := by
    obtain ⟨r', hr', hm⟩ := h.run r hr
    rw [State.me_mapMe]
    refine ⟨_, congrArg (Option.map _) hr', fun k hk => ?_⟩
    rw [BitVec.getLsbD_and, hm k hk, BitVec.getLsbD_not, getLsbD_laneBit l k hk]
    simp [hk, Bool.and_assoc]

/-- How BKPT and TRAP park a lane: a change of the thread that issues, an event, and the record of the trap. -/
theorem State.parkLane_eq (s : State) (l : Nat) {code : TrapCode} (hc : code = .bkpt ∨ code = .swtrap) :
    s.parkLane { lane := l, code := code } =
      let u := ((s.markParked s.cur.tid (laneBit l)).mapMe fun me => me.park s.cur l).countBy s.cur.tid 14 1
      u.charge s.cur.old.dom (u.trapRecord { lane := l, code := code } 0) := by
  have hcur : (s.markParked s.cur.tid (laneBit l)).cur = s.cur := by rw [(sameRecords_markParked ..).1]
  rcases hc with rfl | rfl <;>
  · simp only [State.parkLane, State.cur_mapMe, hcur]
    rfl

/-- One lane more parks, with the record of its trap. -/
theorem Parks.parkLane {s t : State} {ls : List Nat} (h : Parks s ls t) (l : Nat) {code : TrapCode}
    (hc : code = .bkpt ∨ code = .swtrap) :
    Parks s (ls ++ [l]) (t.parkLane { lane := l, code := code }) ∧
    ((t.parkLane { lane := l, code := code }).domain s.cur.old.dom).records = (t.domain s.cur.old.dom).records ++
      [{ s.trapRecord { lane := l, code := code } 0 with domain := s.cur.old.dom }] := by
  have hcur : t.cur = s.cur := by rw [h.frame]
  have h1 := sameRecords_markParked t s.cur.tid (laneBit l)
  have h2 := sameRecords_countBy ((t.markParked s.cur.tid (laneBit l)).mapMe fun me => me.park s.cur l) s.cur.tid 14 1
  have hp := ((h.sameRecords h1).snoc l).sameRecords h2
  rw [State.parkLane_eq t l hc, hcur]
  refine ⟨hp.withDomains _, ?_⟩
  rw [State.records_charge, if_pos rfl, State.trapRecord_congr hp.frame, h2.2]
  exact congrArg (· ++ _) (h1.2 _)

/-- BKPT and TRAP park a list of lanes. -/
theorem parks_takeAll (s : State) (ls : List Nat) {code : TrapCode} (hc : code = .bkpt ∨ code = .swtrap) :
    let t := s.takeAll (ls.map fun l => { lane := l, code := code })
    Parks s ls t ∧ (t.domain s.cur.old.dom).records = (s.domain s.cur.old.dom).records ++ ls.map fun l =>
      { s.trapRecord { lane := l, code := code } 0 with domain := s.cur.old.dom } := by
  have hs : suppressed code = false := by rcases hc with rfl | rfl <;> rfl
  induction ls using List.reverseRecOn with
  | nil => exact ⟨.nil s, by simp [State.takeAll]⟩
  | append_singleton ls l ih =>
    obtain ⟨hp, hr⟩ := ih
    obtain ⟨hp', hr'⟩ := hp.parkLane l hc
    rw [State.takeAll] at hp hr hp' hr'
    simp only [State.takeAll, List.map_append, List.map_cons, List.map_nil, List.foldl_append, List.foldl_cons,
      List.foldl_nil]
    rw [if_neg (by simp [hs])]
    exact ⟨hp', by rw [hr', hr, List.append_assoc]⟩

/-! ### The end of an activation -/

/-- The records of trapping lanes of a callee go to the wing, and nothing else but what domains count differs. -/
theorem chargeAll_result (s : State) (ls : List Nat) (code : TrapCode) :
    let t := (ls.map fun l => ({ lane := l, code := code } : Taken)).foldl (fun s x =>
      (s.countBy s.cur.tid 14 1).charge (x.dom.getD s.cur.old.dom) (s.trapRecord x 3)) s
    t = { s with domains := t.domains } ∧
    (t.domain s.cur.old.dom).records = (s.domain s.cur.old.dom).records ++ ls.map fun l =>
      { s.trapRecord { lane := l, code := code } 3 with domain := s.cur.old.dom } := by
  induction ls using List.reverseRecOn with
  | nil => exact ⟨rfl, by simp⟩
  | append_singleton ls l ih =>
    obtain ⟨hf, hr⟩ := ih
    simp only [List.map_append, List.map_cons, List.map_nil, List.foldl_append, List.foldl_cons, List.foldl_nil,
      Option.getD_none]
    generalize (ls.map fun l => ({ lane := l, code := code } : Taken)).foldl _ s = t at hf hr ⊢
    have hcur : t.cur = s.cur := by rw [hf]
    have hc := sameRecords_countBy t s.cur.tid 14 1
    rw [hcur]
    refine ⟨?_, ?_⟩
    · rw [State.charge, State.mapDomain, hc.1, hf]
    · have hrec : t.trapRecord { lane := l, code := code } 3 = s.trapRecord { lane := l, code := code } 3 := by
        rw [hf]
        rfl
      rw [State.records_charge, if_pos rfl, hc.2, hr, hrec, List.append_assoc]

/-- The caller that an activation's end with a status restores. -/
def Thread.failed (t : Thread) (b : Banked) (rest : List Banked) (status : Nat) : Thread :=
  t.unbank b rest (fun _ => List.replicate 8 0) [BitVec.ofNat 64 status, 0, 0, 0]

/-- The end of an activation closes its accesses, frees its window and its side, and restores its caller. -/
theorem State.endActivation_eq (s : State) (tid status : Nat) {b : Banked} {rest : List Banked}
    (h : (s.thread tid).acts = b :: rest) :
    ∃ cs : List CoreSt, s.endActivation tid status =
      { (s.dropDests tid).closeAccesses tid (s.thread tid).gdepth with cores := cs }.mapThread tid
        fun t => t.failed b rest status := by
  simp only [State.endActivation, h, State.releaseSide]
  split <;> split <;> exact ⟨_, rfl⟩

/-- Accesses that are closed are the same but for whose their faults are. -/
theorem State.stores_closeAccesses (s : State) (tid depth : Nat) :
    ((s.closeAccesses tid depth).stores.map fun y => { y with late := {} }) =
      s.stores.map fun y => { y with late := {} } := by
  rw [State.closeAccesses, List.map_map]
  refine List.map_congr_left fun y _ => ?_
  rw [Function.comp_apply]
  split <;> rfl

/-- A lane of the restored caller that the activation had. -/
theorem Thread.lane_unbank (t : Thread) (b : Banked) (rest : List Banked) (v07 : Nat → List Word) (w03 : List Dword)
    (l : Nat) (hl : l < 32) (hb : b.act.getLsbD l = true) (ht : t.isLead = false) :
    ((t.unbank b rest v07 w03).lane l).v = v07 l ++ (rd {} b.lanes l).v.drop 8 ∧
    ((t.unbank b rest v07 w03).lane l).pc = b.ret := by
  have e : (t.unbank b rest v07 w03).lane l = _ := rd_range_map _ _ _ _ hl
  rw [e]
  simp [hb, ht]

end Sys2Proof.Machine
end

section
/-! OBLIGATION. BKPT and TRAP (O15). -/

namespace Sys2Proof.Machine

theorem exec_bkpt (s : State) : exec .bkpt s = .next (s.trapLanes s.cur.mask .bkpt id) := rfl

theorem exec_trap (s : State) : exec .trap s = .next (s.trapLanes s.cur.mask .swtrap id) := rfl

/-- Outside a callee, BKPT and TRAP park the lanes that they name. -/
theorem State.trapLanes_parks (s : State) (m : Mask) (code : TrapCode) (ha : s.cur.old.acts = []) :
    ∃ (mask run : Mask) (traps : List Taken), s.trapLanes m code id =
      State.takeAll { s with cur := { s.cur with mask := mask, run := run, traps := traps } }
        ((lanesOf m).map fun l => { lane := l, code := code }) := by
  unfold State.trapLanes State.trapping
  split
  · next h =>
    rw [List.isEmpty_iff.mp h]
    exact ⟨_, _, _, rfl⟩
  · rw [if_pos (by simp [ha])]
    exact ⟨_, _, _, rfl⟩

/-- What the lanes that BKPT or TRAP names find outside a callee (R8, R123, R157). -/
theorem trapLanes_result (s : State) (m : Mask) {code : TrapCode} (hc : code = .bkpt ∨ code = .swtrap)
    (ha : s.cur.old.acts = []) :
    let t := s.trapLanes m code id
    t.mem = s.mem ∧ t.stores = s.stores ∧ t.reqs = s.reqs ∧
    (∀ k, k ≠ s.cur.tid → t.thread k = s.thread k) ∧
    t.me = { s.me with lanes := t.me.lanes, run := t.me.run } ∧
    (∀ l, l < 32 → t.me.lane l = if m.getLsbD l then s.cur.parked l (s.me.lane l) else s.me.lane l) ∧
    (∀ r, s.me.run = some r → ∃ r', t.me.run = some r' ∧
      ∀ l, l < 32 → r'.mask.getLsbD l = (r.mask.getLsbD l && !m.getLsbD l)) ∧
    (t.domain s.cur.old.dom).records = (s.domain s.cur.old.dom).records ++ (lanesOf m).map fun l =>
      { s.trapRecord { lane := l, code := code } 0 with domain := s.cur.old.dom } := by
  have hmem (l : Nat) (hl : l < 32) : l ∈ lanesOf m ↔ m.getLsbD l = true := by simp [hl]
  obtain ⟨mask, run, traps, e⟩ := s.trapLanes_parks m code ha
  obtain ⟨hp, hr⟩ :=
    parks_takeAll { s with cur := { s.cur with mask := mask, run := run, traps := traps } } (lanesOf m) hc
  rw [← e] at hp hr
  generalize s.trapLanes m code id = t at hp hr ⊢
  refine ⟨by rw [hp.frame], by rw [hp.frame], by rw [hp.frame], hp.others, hp.me, fun l hl => ?_, fun r hrun => ?_, hr⟩
  · rw [← if_congr (hmem l hl) rfl rfl]
    exact hp.lane l
  · obtain ⟨r', hr', hm⟩ := hp.run r hrun
    refine ⟨r', hr', fun l hl => ?_⟩
    rw [hm l hl, Bool.decide_congr (hmem l hl), Bool.decide_eq_true]

/-- In a callee, TRAP ends the activation. -/
theorem State.trapLanes_ends (s : State) (m : Mask) (hm : m ≠ 0) (ha : s.cur.old.acts ≠ []) :
    s.trapLanes m .swtrap id =
      (s.excluding ((lanesOf m).map fun l => { lane := l, code := .swtrap })).gateFault
        ((lanesOf m).map fun l => { lane := l, code := .swtrap }) := by
  have hne : lanesOf m ≠ [] := lanesOf_ne_nil m hm
  unfold State.trapLanes State.trapping
  rw [if_neg (by simpa using hne), if_neg (by simpa using ha)]

/-- What TRAP leaves in a callee (R343, R344). -/
theorem trapLanes_callee_result (s : State) (m : Mask) {b : Banked} {rest : List Banked} (hb : s.me.acts = b :: rest)
    (ha : s.cur.old.acts ≠ []) (hm : m ≠ 0) :
    let t := s.trapLanes m .swtrap id
    t.mem = s.mem ∧ (t.stores.map fun y => { y with late := {} }) = (s.stores.map fun y => { y with late := {} }) ∧
    t.me = s.me.failed b rest 1 ∧
    (t.domain s.cur.old.dom).records = (s.domain s.cur.old.dom).records ++ (lanesOf m).map fun l =>
      { s.trapRecord { lane := l, code := .swtrap } 3 with domain := s.cur.old.dom } := by
  rw [s.trapLanes_ends m hm ha]
  set xs : List Taken := (lanesOf m).map fun l => { lane := l, code := .swtrap }
  obtain ⟨hf, hr⟩ := chargeAll_result (s.excluding xs) (lanesOf m) .swtrap
  unfold State.gateFault
  generalize xs.foldl _ (s.excluding xs) = u at hf hr ⊢
  have hcur : u.cur.tid = s.cur.tid := by
    rw [hf]
    rfl
  have hme : u.thread s.cur.tid = s.me := by
    rw [hf]
    rfl
  obtain ⟨cs, e⟩ := u.endActivation_eq s.cur.tid 1 (hme ▸ hb)
  dsimp only
  rw [hcur, e]
  refine ⟨?_, ?_, ?_, hr⟩
  · show u.mem = s.mem
    rw [hf]
    rfl
  · refine (State.stores_closeAccesses _ _ _).trans ?_
    show u.stores.map _ = _
    rw [hf]
    rfl
  · show State.thread (State.mapThread _ _ _) u.cur.tid = _
    rw [hcur, State.thread_mapThread, if_pos rfl]
    exact congrArg (fun x => x.failed b rest 1) hme

/-- Settles O15: BKPT and TRAP are one trap of the lanes of Active(), which outside a callee parks them and in a callee
ends the activation. -/
theorem trapResults : Obligations.TrapResults := by
  unfold Obligations.TrapResults
  refine ⟨fun s ha _ => ⟨?_, ?_⟩, fun s b rest hb ha hm hlead => ⟨_, exec_trap s, ?_⟩⟩
  · exact ⟨_, exec_bkpt s, trapLanes_result s _ (.inl rfl) ha⟩
  · exact ⟨_, exec_trap s, trapLanes_result s _ (.inr rfl) ha⟩
  · obtain ⟨hmem, hstores, hme, hrec⟩ := trapLanes_callee_result s s.cur.mask hb ha hm
    rw [hme]
    exact ⟨hmem, hstores, rfl, rfl, rfl, rfl, rfl, rfl, rfl, rfl,
      fun l hl hact => Thread.lane_unbank _ _ _ _ _ l hl hact hlead, hrec⟩

end Sys2Proof.Machine
end

section
/-! OBLIGATION. Observation words (O32). -/

namespace Sys2Proof.Machine

/-- Outside a body a uniform word that callees allow has its effect when a lane remains. -/
theorem State.uniform_noBody (s : State) (b : Bool) (eff : State → State) (hm : s.cur.mask ≠ 0)
    (hb : s.bodyLanes s.cur.mask = 0) : s.uniform none b eff = eff s := by
  unfold State.uniform
  rw [if_neg hm]
  simp [hb]

/-- A uniform word that reads a value into a uniform register. -/
theorem answers_setU {i : Instr} {s : State} {d : UReg} {x : State → Dword} {y : Dword} (hm : s.cur.mask ≠ 0)
    (h : exec i s = .next (s.uniform none true fun r => r.setU d (x r))) (e : x s = y) :
    Answers i s fun t => UniResult s t d y :=
  ⟨_, h, by rw [s.uniform_free _ hm, ← e]; exact s.setU_result d (x s)⟩

/-- TIMER sets the deadline of the thread that issues, or clears it (R361). -/
theorem answers_timer {s : State} (d : UReg) (hm : s.cur.mask ≠ 0) (hb : s.bodyLanes s.cur.mask = 0) :
    Answers (.timer d) s fun t => OnlyThread s.cur.tid s t ∧
      t.me = { s.me with deadline := if s.ureg d = 0 then none else some (s.me.wtime + (s.ureg d).toNat) } := by
  refine ⟨_, rfl, ?_⟩
  rw [s.uniform_noBody _ _ hm hb]
  exact ⟨onlyThread_mapThread .., s.me_mapMe _⟩

/-- A SLEEP that begins: it waits from the wave time at which its group issues (R357). -/
theorem exec_sleep_first {s : State} (d : UReg) (hm : s.cur.mask ≠ 0) (hb : s.bodyLanes s.cur.mask = 0)
    (hw : ∀ n, s.cur.old.wait ≠ some (.sleep n)) :
    exec (.sleep d) s =
      .next (if s.ureg d = 0 then s else s.block (.sleep (s.cur.old.wtime + (s.ureg d).toNat))) := by
  show execSleep d s = _
  rw [execSleep, s.uniform_noBody _ _ hm hb]
  split
  · next n h => exact absurd h (hw n)
  · rfl

/-- A SLEEP that has waited goes on once the wave time has come (R357). -/
theorem exec_sleep_again {s : State} (d : UReg) (hm : s.cur.mask ≠ 0) (hb : s.bodyLanes s.cur.mask = 0) {n : Nat}
    (hw : s.cur.old.wait = some (.sleep n)) :
    exec (.sleep d) s = .next (if n ≤ s.me.wtime then s else s.block (.sleep n)) := by
  show execSleep d s = _
  rw [execSleep, s.uniform_noBody _ _ hm hb, hw]
  exact congrArg _ (if_congr decide_eq_true_iff rfl rfl)

/-- A thread outside a callee takes posted events into EVP. -/
theorem Thread.postEvents_top {t : Thread} (e : BitVec 16) (h : t.acts = []) :
    t.postEvents e = { t with evp := t.evp ||| e } := by
  rw [Thread.postEvents, if_pos (by simp [h])]

/-- SIGNAL without a reserved bit posts its events to the thread it names, if there is one (R357). -/
theorem exec_signal {s : State} (d : UReg) (hm : s.cur.mask ≠ 0) (ht : s.Top) (hx : (s.ureg d).toNat < 2 ^ 48) :
    exec (.signal d) s = .next (((s.signalTarget s.cur.old.lc (fld (s.ureg d) 47 16)).map fun i =>
      s.mapThread i fun t => t.postEvents ((s.ureg d).extractLsb' 0 16)).getD s) := by
  have hres : fld (s.ureg d) 63 48 = 0 := by
    rw [fld, Nat.shiftRight_eq_div_pow, Nat.div_eq_of_lt hx, Nat.zero_mod]
  show execSignal d s = _
  rw [execSignal, s.uniform_top _ _ _ ht hm]
  dsimp only
  rw [if_neg (by simp [hres])]
  cases s.signalTarget s.cur.old.lc (fld (s.ureg d) 47 16) <;> rfl

/-- What a post of events to a thread leaves. -/
theorem postEvents_result (s : State) (i : Nat) (e : BitVec 16) :
    OnlyThread i s (s.mapThread i fun t => t.postEvents e) ∧ ((s.thread i).acts = [] →
      (s.mapThread i fun t => t.postEvents e).thread i = { s.thread i with evp := (s.thread i).evp ||| e }) := by
  refine ⟨onlyThread_mapThread .., fun h => ?_⟩
  rw [State.thread_mapThread, if_pos rfl, Thread.postEvents_top e h]

/-- Settles O32: the reads write one uniform register, TIMER and SIGNAL change one thread, and SLEEP waits. -/
theorem observationWordResults : Obligations.ObservationWordResults := by
  unfold Obligations.ObservationWordResults
  intro s d m hm
  refine ⟨answers_setU hm rfl rfl, answers_setU hm rfl rfl, answers_setU hm rfl rfl, answers_setU hm rfl rfl, fun hb => ⟨?_, ?_, ?_⟩,
    fun ht hx => ?_⟩
  · exact answers_timer d hm hb
  · exact exec_sleep_first d hm hb
  · exact fun n => exec_sleep_again d hm hb
  · refine ⟨_, exec_signal d hm ht hx, ?_⟩
    dsimp only
    cases s.signalTarget s.cur.old.lc (fld (s.ureg d) 47 16) with
    | none => rfl
    | some i => exact postEvents_result s i _

end Sys2Proof.Machine
end

section
/-! SUPPORT. Steps that change one function's window, or one domain, and nothing else. -/

namespace Sys2Proof.Machine

/-- Nothing but one function's window differs. -/
def OnlyFn (fn : Nat) (s t : State) : Prop :=
  t = { s with fns := t.fns } ∧ ∀ k, k ≠ fn → t.fn k = s.fn k

theorem OnlyFn.refl (fn : Nat) (s : State) : OnlyFn fn s s := ⟨rfl, fun _ _ => rfl⟩

theorem OnlyFn.trans {fn : Nat} {s t u : State} (h : OnlyFn fn s t) (k : OnlyFn fn t u) : OnlyFn fn s u :=
  ⟨by rw [k.1, h.1], fun n hn => (k.2 n hn).trans (h.2 n hn)⟩

theorem onlyFn_mapFn (s : State) (fn : Nat) (f : Fn → Fn) : OnlyFn fn s (s.mapFn fn f) :=
  ⟨rfl, fun k h => by rw [State.fn_mapFn, if_neg h]⟩

@[simp] theorem State.fn_mapFn_self (s : State) (fn : Nat) (f : Fn → Fn) : (s.mapFn fn f).fn fn = f (s.fn fn) := by
  rw [State.fn_mapFn, if_pos rfl]

/-- Nothing but one domain differs. -/
def OnlyDomain (asid : Nat) (s t : State) : Prop :=
  t = { s with domains := t.domains } ∧ ∀ k, k ≠ asid → t.domain k = s.domain k

theorem onlyDomain_mapDomain (s : State) (asid : Nat) (f : Domain → Domain) :
    OnlyDomain asid s (s.mapDomain asid f) :=
  ⟨rfl, fun k h => by rw [State.domain_mapDomain, if_neg h]⟩

@[simp] theorem State.domain_mapDomain_self (s : State) (asid : Nat) (f : Domain → Domain) :
    (s.mapDomain asid f).domain asid = f (s.domain asid) := by
  rw [State.domain_mapDomain, if_pos rfl]

@[simp] theorem State.fn_mapDomain (s : State) (asid k : Nat) (f : Domain → Domain) :
    (s.mapDomain asid f).fn k = s.fn k := rfl

/-- The end of a command changes the function's window alone. -/
theorem onlyFn_finish (s : State) (fn status : Nat) : OnlyFn fn s (s.finish fn status) :=
  (onlyFn_mapFn ..).trans (onlyFn_mapFn ..)

/-- The window at the end of a command: its status, BUSY, CMDDONE and CAUSE (R374). -/
theorem State.fn_finish (s : State) (fn status : Nat) :
    ((s.finish fn status).fn fn).busy = false ∧ ((s.finish fn status).fn fn).pending = none ∧
    ((s.finish fn status).fn fn).status = BitVec.ofNat 8 status ∧
    ((s.finish fn status).fn fn).done = (s.fn fn).done + 1 ∧
    ((s.finish fn status).fn fn).cause = (s.fn fn).cause ||| 1 := by
  simp [State.finish, State.raise]

end Sys2Proof.Machine
end

section
/-! OBLIGATION. The host's accesses (O51). -/

namespace Sys2Proof.Machine

/-! ### The register window (R374) -/

/-- A block without a reserved byte and with arguments below number n alone. -/
theorem cmdClean_iff (b : List Byte) (n : Nat) :
    cmdClean b n = true ↔ leAt b 6 2 = 0 ∧ ∀ k, n ≤ k → k < 7 → leAt b (8 + 8 * k) 8 = 0 := by
  simp only [cmdClean, cmdArg, Bool.and_eq_true, decide_eq_true_eq, List.all_eq_true, List.mem_filter, List.mem_range]
  refine and_congr_right fun _ => ⟨fun h k hn hk => of_decide_eq_true (h k ⟨hk, hn⟩), fun h k hk => ?_⟩
  exact decide_eq_true (h k hk.2 hk.1)

/-- A device that has come up, and a function that exists: its window takes writes. -/
theorem State.takesWrites {s : State} {fn : Nat} (hb : s.bringUp = 8) (hf : fn < 2050) :
    ¬(decide (s.bringUp ≠ 8) || !isFunction fn) = true := by
  simp [hb, isFunction, hf]

section
variable {s : State} {fn : Nat} (hb : s.bringUp = 8) (hf : fn < 2050)
include hb hf

theorem exec_write_doorbell (v : Dword) : exec (.hostRegisterWrite fn 0x00 v) s = exec (.doorbell fn v) s :=
  congrArg Host.Outcome.next (if_neg (State.takesWrites hb hf))

theorem exec_write_cmdaddr (v : Dword) :
    exec (.hostRegisterWrite fn 0x08 v) s = .next (s.mapFn fn fun f => { f with cmdaddr := v }) :=
  congrArg Host.Outcome.next (if_neg (State.takesWrites hb hf))

theorem exec_write_cmdgo (v : Dword) :
    exec (.hostRegisterWrite fn 0x10 v) s = .next (if v = 1 && !(s.fn fn).busy then s.cmdGo fn else s) :=
  congrArg Host.Outcome.next (if_neg (State.takesWrites hb hf))

theorem exec_write_cause (v : Dword) : exec (.hostRegisterWrite fn 0x28 v) s = .next (s.clearCause fn v) :=
  congrArg Host.Outcome.next (if_neg (State.takesWrites hb hf))

theorem exec_write_causeMask (v : Dword) :
    exec (.hostRegisterWrite fn 0x30 v) s = .next (s.mapFn fn fun f => { f with causeMask := v }) :=
  congrArg Host.Outcome.next (if_neg (State.takesWrites hb hf))

/-- Every other offset takes nothing. -/
theorem exec_write_reserved {off : Nat} (v : Dword) (ho : off ∉ [0x00, 0x08, 0x10, 0x28, 0x30]) :
    exec (.hostRegisterWrite fn off v) s = .next s := by
  refine congrArg Host.Outcome.next ((if_neg (State.takesWrites hb hf)).trans ?_)
  split
  case h_6 => rfl
  all_goals simp at ho

theorem exec_causeClear (v : Dword) : exec (.causeClear fn v) s = .next (s.clearCause fn v) :=
  congrArg Host.Outcome.next (if_pos (by simp [hb, isFunction, hf]))

end

/-- The command block that CMDADDR names. -/
def State.cmdBlock (s : State) (fn : Nat) : List Byte := s.sysRead (s.fn fn).cmdaddr.toNat 64

/-- A function's window with the command that CMDGO has read. -/
def Fn.begun (f : Fn) (block : List Byte) : Fn := { f with busy := true, pending := some block, phase := 0 }

/-- What the block of a DESTROY that CMDGO begins says: no reserved byte and no argument, and a domain that the function
reaches (R375). -/
def State.destroys (s : State) (fn : Nat) (block : List Byte) : Prop :=
  leAt block 0 4 = 2 ∧ leAt block 6 2 = 0 ∧ (∀ k, k < 7 → leAt block (8 + 8 * k) 8 = 0) ∧
    (s.domain (leAt block 4 2)).reachedBy fn = true

section
variable {s : State} {fn : Nat}

/-- The checks of CMDGO, in their order, of the state with the command read. -/
theorem State.cmdGo_eq : s.cmdGo fn =
    let a := (s.fn fn).cmdaddr.toNat
    let b := s.cmdBlock fn
    let u := s.mapFn fn fun f => f.begun b
    if a % 64 ≠ 0 then u.finish fn 1
    else if !s.sysOk a 64 then u.finish fn 6
    else if leAt b 0 4 = 0 || leAt b 0 4 > 17 then u.finish fn 1
    else if leAt b 0 4 = 2 && cmdClean b 0 && (s.domain (leAt b 4 2)).reachedBy fn then
      u.mapDomain (leAt b 4 2) fun d => { d with resident := false }
    else u := rfl

/-- CMDGO ends a command whose block cannot be read, or whose OP is unknown, with the status of the first check that
fails (notes/assumptions/38). -/
theorem State.cmdGo_ends (h : (s.fn fn).cmdaddr.toNat % 64 ≠ 0 ∨ s.sysOk (s.fn fn).cmdaddr.toNat 64 = false ∨
      leAt (s.cmdBlock fn) 0 4 = 0 ∨ 17 < leAt (s.cmdBlock fn) 0 4) :
    s.cmdGo fn = (s.mapFn fn fun f => f.begun (s.cmdBlock fn)).finish fn
      (if (s.fn fn).cmdaddr.toNat % 64 ≠ 0 ∨ ¬ s.sysOk (s.fn fn).cmdaddr.toNat 64 = false then 1 else 6) := by
  rw [State.cmdGo_eq]
  by_cases hbad : (s.fn fn).cmdaddr.toNat % 64 = 0
  · cases hlost : s.sysOk (s.fn fn).cmdaddr.toNat 64 with
    | false => simp [hbad, hlost]
    | true =>
      have hop : leAt (s.cmdBlock fn) 0 4 = 0 ∨ 17 < leAt (s.cmdBlock fn) 0 4 := by simpa [hbad, hlost] using h
      simp [hbad, hlost, hop]
  · simp [hbad]

/-- A block that can be read and whose OP is known leaves the command pending, and ends the residence of the domain of
a DESTROY (R341, R375). -/
theorem State.cmdGo_pending (hbad : (s.fn fn).cmdaddr.toNat % 64 = 0) (hok : s.sysOk (s.fn fn).cmdaddr.toNat 64 = true)
    (h1 : 1 ≤ leAt (s.cmdBlock fn) 0 4) (h2 : leAt (s.cmdBlock fn) 0 4 ≤ 17) :
    (s.destroys fn (s.cmdBlock fn) → s.cmdGo fn = (s.mapFn fn fun f => f.begun (s.cmdBlock fn)).mapDomain
      (leAt (s.cmdBlock fn) 4 2) fun d => { d with resident := false }) ∧
    (¬ s.destroys fn (s.cmdBlock fn) → s.cmdGo fn = s.mapFn fn fun f => f.begun (s.cmdBlock fn)) := by
  have hop : ¬(leAt (s.cmdBlock fn) 0 4 = 0 ∨ 17 < leAt (s.cmdBlock fn) 0 4) := by omega
  have hd : (decide (leAt (s.cmdBlock fn) 0 4 = 2) && cmdClean (s.cmdBlock fn) 0 &&
      (s.domain (leAt (s.cmdBlock fn) 4 2)).reachedBy fn) = true ↔ s.destroys fn (s.cmdBlock fn) := by
    simp [State.destroys, cmdClean_iff, and_assoc]
  rw [State.cmdGo_eq]
  simp only [hbad, hok, Bool.not_true, Bool.or_eq_true, decide_eq_true_eq, hop, ne_eq, not_true_eq_false, Bool.false_eq_true, if_false]
  exact ⟨fun h => if_pos (hd.mpr h), fun h => if_neg fun e => h (hd.mp e)⟩

end

/-- A command that CMDGO ends at once: what its window shows. -/
theorem cmdGo_ends_result {s : State} {fn : Nat} (h : (s.fn fn).cmdaddr.toNat % 64 ≠ 0 ∨
      s.sysOk (s.fn fn).cmdaddr.toNat 64 = false ∨ leAt (s.cmdBlock fn) 0 4 = 0 ∨ 17 < leAt (s.cmdBlock fn) 0 4) :
    OnlyFn fn s (s.cmdGo fn) ∧ ((s.cmdGo fn).fn fn).busy = false ∧ ((s.cmdGo fn).fn fn).status =
      (if (s.fn fn).cmdaddr.toNat % 64 ≠ 0 ∨ ¬ s.sysOk (s.fn fn).cmdaddr.toNat 64 = false then 1 else 6) ∧
    ((s.cmdGo fn).fn fn).done = (s.fn fn).done + 1 ∧ ((s.cmdGo fn).fn fn).cause = (s.fn fn).cause ||| 1 := by
  obtain ⟨h1, -, h3, h4, h5⟩ := State.fn_finish (s.mapFn fn fun f => f.begun (s.cmdBlock fn)) fn
    (if (s.fn fn).cmdaddr.toNat % 64 ≠ 0 ∨ ¬ s.sysOk (s.fn fn).cmdaddr.toNat 64 = false then 1 else 6)
  rw [State.fn_mapFn_self] at h4 h5
  rw [State.cmdGo_ends h]
  refine ⟨(onlyFn_mapFn ..).trans (onlyFn_finish ..), h1, h3.trans ?_, h4, h5⟩
  split <;> rfl

/-- A command that stays pending: its window, and the domain of a DESTROY. -/
theorem cmdGo_pending_result {s : State} {fn : Nat} (hbad : (s.fn fn).cmdaddr.toNat % 64 = 0)
    (hok : s.sysOk (s.fn fn).cmdaddr.toNat 64 = true) (h1 : 1 ≤ leAt (s.cmdBlock fn) 0 4)
    (h2 : leAt (s.cmdBlock fn) 0 4 ≤ 17) :
    (s.cmdGo fn).fn fn = (s.fn fn).begun (s.cmdBlock fn) ∧
    (s.destroys fn (s.cmdBlock fn) →
      s.cmdGo fn = { s with fns := (s.cmdGo fn).fns, domains := (s.cmdGo fn).domains } ∧
      (∀ k, k ≠ fn → (s.cmdGo fn).fn k = s.fn k) ∧
      (s.cmdGo fn).domain (leAt (s.cmdBlock fn) 4 2) =
        { s.domain (leAt (s.cmdBlock fn) 4 2) with resident := false } ∧
      ∀ a, a ≠ leAt (s.cmdBlock fn) 4 2 → (s.cmdGo fn).domain a = s.domain a) ∧
    (¬ s.destroys fn (s.cmdBlock fn) → OnlyFn fn s (s.cmdGo fn)) := by
  obtain ⟨hd, hn⟩ := State.cmdGo_pending hbad hok h1 h2
  by_cases h : s.destroys fn (s.cmdBlock fn)
  · rw [hd h]
    refine ⟨?_, fun _ => ⟨rfl, fun k hk => ?_, State.domain_mapDomain_self .., fun a ha => ?_⟩, fun hne => absurd h hne⟩
    · exact (State.fn_mapDomain ..).trans (s.fn_mapFn_self ..)
    · exact (State.fn_mapDomain ..).trans ((onlyFn_mapFn s fn _).2 k hk)
    · exact (onlyDomain_mapDomain (s.mapFn fn fun f => f.begun (s.cmdBlock fn)) _ _).2 a ha
  · rw [hn h]
    exact ⟨s.fn_mapFn_self .., fun hd => absurd hd h, fun _ => onlyFn_mapFn ..⟩

/-- CMDGO of a function whose last command has ended. -/
theorem exec_cmdGo {s : State} {fn : Nat} (hb : s.bringUp = 8) (hf : fn < 2050) (hbusy : (s.fn fn).busy = false) :
    exec (.hostRegisterWrite fn 0x10 1) s = .next (s.cmdGo fn) := by
  rw [exec_write_cmdgo hb hf, if_pos (by simp [hbusy])]

/-! ### What a read of the window returns (R374) -/

section
variable (busy : Bool) (result : BitVec 16) (status : BitVec 8)

/-- The number that CMDSTAT reads as. -/
def cmdStat : Nat := (if busy then 2 ^ 63 else 0) + result.toNat * 2 ^ 32 + status.toNat

theorem cmdStat_busy : (BitVec.ofNat 64 (cmdStat busy result status)).getLsbD 63 = busy := by
  have hr := result.isLt
  have hs := status.isLt
  rw [BitVec.getLsbD_ofNat, Nat.testBit_eq_decide_div_mod_eq, cmdStat]
  cases busy <;> simp <;> omega

theorem cmdStat_result : (BitVec.ofNat 64 (cmdStat busy result status)).extractLsb' 32 16 = result := by
  have hr := result.isLt
  have hs := status.isLt
  apply BitVec.eq_of_toNat_eq
  rw [BitVec.extractLsb'_toNat, BitVec.toNat_ofNat, Nat.shiftRight_eq_div_pow, cmdStat]
  split <;> omega

theorem cmdStat_status : (BitVec.ofNat 64 (cmdStat busy result status)).extractLsb' 0 8 = status := by
  have hs := status.isLt
  apply BitVec.eq_of_toNat_eq
  rw [BitVec.extractLsb'_toNat, BitVec.toNat_ofNat, Nat.shiftRight_eq_div_pow, cmdStat]
  split <;> omega

end

section
variable {s : State} {fn : Nat} (hb : s.bringUp = 8) (hf : fn < 2050)
include hb hf

/-- A device that has come up, and a function that exists: an aligned read of 8 bytes is served. -/
theorem State.servesReads : ¬(decide (s.bringUp ≠ 8) || !isFunction fn || decide (8 ≠ 8)) = true := by
  simp [hb, isFunction, hf]

theorem State.hostRegister_cmdaddr : s.hostRegister fn 0x08 8 = (s.fn fn).cmdaddr := if_neg (State.servesReads hb hf)

theorem State.hostRegister_cmdstat : s.hostRegister fn 0x18 8 =
    BitVec.ofNat 64 (cmdStat (s.fn fn).busy (s.fn fn).result (s.fn fn).status) := if_neg (State.servesReads hb hf)

theorem State.hostRegister_done : s.hostRegister fn 0x20 8 = (s.fn fn).done := if_neg (State.servesReads hb hf)

theorem State.hostRegister_cause : s.hostRegister fn 0x28 8 = (s.fn fn).cause := if_neg (State.servesReads hb hf)

theorem State.hostRegister_causeMask : s.hostRegister fn 0x30 8 = (s.fn fn).causeMask :=
  if_neg (State.servesReads hb hf)

theorem State.hostRegister_reserved {off : Nat} (ho : off ∉ [0x08, 0x18, 0x20, 0x28, 0x30]) :
    s.hostRegister fn off 8 = 0 := by
  refine (if_neg (State.servesReads hb hf)).trans ?_
  split
  case h_6 => rfl
  all_goals simp at ho

end

/-! ### Writes of the host to a context's memory (R90) -/

/-- A byte of memory after writes of single bytes of a line: the latest cell of its offset, else what it held. -/
theorem memGet_foldl_memPut (cells : List Host.Cell) (m : List Host.Cell) (base a : Nat) (h : Memory.wf m = true) :
    memGet (cells.foldl (fun m c => memPut m (base + c.1) c.2) m) a =
      if base ≤ a then (cellAt cells (a - base)).getD (memGet m a) else memGet m a := by
  induction cells using List.reverseRecOn with
  | nil => simp [cellAt]
  | append_singleton cs c ih =>
    have hw := Memory.wf_foldl_memPut (fun c : Host.Cell => base + c.1) (fun c => c.2) cs m h
    rw [List.foldl_append, List.foldl_cons, List.foldl_nil, memGet_memPut _ _ _ _ hw, ih]
    have hcell : cellAt (cs ++ [c]) (a - base) = if c.1 = a - base then some c.2 else cellAt cs (a - base) := by
      rw [cellAt, List.foldl_append]
      rfl
    rw [hcell]
    by_cases hc : c.1 = a - base ∧ base ≤ a
    · obtain ⟨hc, hle⟩ := hc
      rw [if_pos (by omega), if_pos hle, if_pos hc, Option.getD_some]
    · rw [if_neg (by omega)]
      by_cases hle : base ≤ a
      · rw [if_pos hle, if_pos hle, if_neg fun e => hc ⟨e, hle⟩]
      · rw [if_neg hle, if_neg hle]

/-- A store of the host to a line: it travels under no core's number. -/
def hostStore (asid : Nat) (x : Nat × List Host.Cell) (p : Nat) : Store :=
  { live := true, core := 192, dom := asid, va := x.1, line := lineOf p, bytes := x.2 }

/-- The host's write to one line. -/
def State.hostLine (s : State) (asid : Nat) (x : Nat × List Host.Cell) : State :=
  match (s.domain asid).place x.1 with
  | none => s
  | some p =>
    if isDevice p then s.accept { core := hostCore, dom := asid, va := x.1, line := lineOf p, bytes := x.2 }
    else x.2.foldl (fun s c => s.writePlace (lineOf p + c.1) [c.2]) s

/-- The host writes line after line. -/
theorem State.hostWrite_eq (s : State) (asid addr : Nat) (data : List Byte) :
    s.hostWrite asid addr data = (splitLines addr data).foldl (fun s x => s.hostLine asid x) s := rfl

/-- To a device line it is a store on its way, which nothing else shows. -/
theorem State.hostLine_device {s : State} {asid p : Nat} {x : Nat × List Host.Cell}
    (hp : (s.domain asid).place x.1 = some p) (hdev : isDevice p = true) :
    s.hostLine asid x = { s with stores := s.stores ++ [hostStore asid x p] } := by
  rw [State.hostLine, hp]
  exact if_pos hdev

/-- To a system line it is made at once. -/
theorem State.hostLine_system {s : State} {asid p : Nat} {x : Nat × List Host.Cell}
    (hp : (s.domain asid).place x.1 = some p) (hdev : isDevice p = false) :
    s.hostLine asid x = { s with mem := x.2.foldl (fun m c => memPut m (lineOf p + c.1) c.2) s.mem } := by
  rw [State.hostLine, hp]
  refine (if_neg (by simp [hdev])).trans ?_
  generalize x.2 = cells
  clear hp
  induction cells generalizing s with
  | nil => rfl
  | cons c t ih => exact ih

/-- A write of the host to device lines alone. -/
theorem State.hostWrite_device (s : State) (asid addr : Nat) (data : List Byte)
    (h : ∀ x, x ∈ splitLines addr data → ∃ p, (s.domain asid).place x.1 = some p ∧ isDevice p = true) :
    s.hostWrite asid addr data = { s with
      stores := s.stores ++ (splitLines addr data).map fun x => hostStore asid x (((s.domain asid).place x.1).getD 0) } := by
  rw [State.hostWrite_eq]
  generalize splitLines addr data = ls at h ⊢
  induction ls generalizing s with
  | nil => simp
  | cons x t ih =>
    obtain ⟨⟨p, hp, hdev⟩, ht⟩ := List.forall_mem_cons.mp h
    rw [List.foldl_cons, State.hostLine_device hp hdev, ih _ (by exact ht), List.append_assoc,
      List.map_cons, hp]
    rfl

/-- A write of the host to one line of system memory. -/
theorem State.hostWrite_system (s : State) {asid addr line p : Nat} {data : List Byte} {cells : List Host.Cell}
    (hl : splitLines addr data = [(line, cells)]) (hp : (s.domain asid).place line = some p)
    (hdev : isDevice p = false) :
    s.hostWrite asid addr data =
      { s with mem := cells.foldl (fun m c => memPut m (lineOf p + c.1) c.2) s.mem } := by
  rw [State.hostWrite_eq, hl]
  exact State.hostLine_system (x := (line, cells)) hp hdev

/-- A write of the host where the device takes it (R388): the bytes, and the queues that it restarts (R382). -/
theorem exec_hostWrite {s : State} {asid addr : Nat} {ide : Bool} {data : List Byte} (hb : s.bringUp = 8)
    (ha : (s.domain asid).accepts ide = true) (hd : data ≠ []) :
    exec (.hostMemoryAccess asid ide addr data) s = .next ((s.hostWrite asid addr data).mapDomain asid fun d =>
      { d with queues := d.queues.map fun w => w.rewritten addr data.length }) := by
  show execHostMemoryAccess asid ide addr data s = _
  rw [execHostMemoryAccess]
  simp [hb, ha, hd]

theorem exec_hostRead {s : State} {asid addr : Nat} {ide : Bool} (hb : s.bringUp = 8)
    (ha : (s.domain asid).accepts ide = true) :
    exec (.hostMemoryAccess asid ide addr []) s = .next (s.hostRead asid addr) := by
  show execHostMemoryAccess asid ide addr [] s = _
  rw [execHostMemoryAccess]
  simp [hb, ha]

/-- An access that the device does not take. -/
theorem exec_hostMemoryAccess_refused {s : State} {asid addr : Nat} {ide : Bool} {data : List Byte}
    (h : s.bringUp ≠ 8 ∨ (s.domain asid).accepts ide = false) :
    exec (.hostMemoryAccess asid ide addr data) s = .next s :=
  congrArg Host.Outcome.next (if_pos (by simpa using h))

/-! ### Reads of the host (R13) -/

/-- The count of accesses to a page that a list of counts holds. -/
def countOf (counts : List ((Nat × Nat) × Nat)) (key : Nat × Nat) : Nat :=
  ((counts.find? fun x => x.1 = key).map (·.2)).getD 0

/-- One more access raises the count of its own page. -/
theorem countOf_countIn (counts : List ((Nat × Nat) × Nat)) (p : Nat) (key : Nat × Nat) (hdev : isDevice p = true) :
    countOf (countIn counts p) key = if key = (p / 2 ^ 16, stackOf p) then (countOf counts key + 1) % 2 ^ 64
      else countOf counts key := by
  have hin : countIn counts p = ((p / 2 ^ 16, stackOf p), (countOf counts (p / 2 ^ 16, stackOf p) + 1) % 2 ^ 64) ::
      counts.filter fun a => a.1 ≠ (p / 2 ^ 16, stackOf p) := by
    simp [countIn, countOf, hdev]
  rw [hin, countOf]
  by_cases h : key = (p / 2 ^ 16, stackOf p)
  · simp [h]
  · rw [List.find?_cons_of_neg (by simpa using Ne.symm h), if_neg h, List.find?_filter, countOf]
    congr 3
    funext x
    by_cases hx : x.1 = key
    · simpa [hx] using h
    · simp [hx]

/-- A page that the hardware finds for an access is kept as found, and nothing else changes (R388). -/
theorem useFound_result (s : State) (asid va : Nat) : OnlyDomain asid s (s.useFound asid va) ∧
    (s.useFound asid va).domain asid = { s.domain asid with found := ((s.useFound asid va).domain asid).found } ∧
    ((s.useFound asid va).domain asid).found ⊆ (s.domain asid).found ++ ((s.domain asid).page va).toList := by
  have hrefl : OnlyDomain asid s s := ⟨rfl, fun _ _ => rfl⟩
  rw [State.useFound]
  cases hp : (s.domain asid).page va with
  | none => exact ⟨hrefl, rfl, by simp⟩
  | some q =>
    dsimp only
    split
    · exact ⟨hrefl, rfl, by simp⟩
    · refine ⟨onlyDomain_mapDomain .., ?_, ?_⟩ <;> rw [State.domain_mapDomain_self]
      simp

/-- A read of the host to a device page counts an access to it, and changes nothing else but what is kept as found. -/
theorem hostRead_device {s : State} {asid addr p : Nat} (hp : (s.domain asid).place addr = some p)
    (hdev : isDevice p = true) : s.hostRead asid addr = { s with
      domains := (s.useFound asid addr).domains, access := countIn s.access p } := by
  obtain ⟨⟨hframe, -⟩, -⟩ := useFound_result s asid addr
  rw [State.hostRead, hp]
  refine (if_pos hdev).trans ?_
  rw [State.countAccess, hframe]

/-- A read of the host to any other page changes nothing. -/
theorem hostRead_other {s : State} {asid addr : Nat}
    (h : ∀ p, (s.domain asid).place addr = some p → isDevice p = false) : s.hostRead asid addr = s := by
  rw [State.hostRead]
  cases hp : (s.domain asid).place addr with
  | none => rfl
  | some p => exact if_neg (by simp [h p hp])

/-! ### HEADs and CONSUMED (R378, R382) -/

section
variable {s : State} {asid : Nat} {ring : Ring} {value : Nat}

theorem exec_ringHeadRaise : exec (.ringHeadRaise asid ring value) s =
    .next (if !(s.domain asid).alive || value < s.ctlField asid (s.ringTail asid ring).1 8 ||
        value > (s.ringTail asid ring).2 then s
      else (s.setCtl asid (s.ringTail asid ring).1 value).writeMisses asid) := rfl

/-- With no miss that waits to be written, a HEAD that is raised is written and that is all. -/
theorem exec_ringHeadRaise_of_le (ha : (s.domain asid).alive = true)
    (h1 : s.ctlField asid (s.ringTail asid ring).1 8 ≤ value) (h2 : value ≤ (s.ringTail asid ring).2)
    (hm : (s.domain asid).misses = []) :
    exec (.ringHeadRaise asid ring value) s = .next (s.setCtl asid (s.ringTail asid ring).1 value) := by
  have hm' : ((s.setCtl asid (s.ringTail asid ring).1 value).domain asid).misses = [] := hm
  rw [exec_ringHeadRaise, if_neg (by simp [ha, h1, h2]), State.writeMisses, hm']
  rfl

/-- A HEAD is not lowered, nor raised past its TAIL. -/
theorem exec_ringHeadRaise_refused
    (h : value < s.ctlField asid (s.ringTail asid ring).1 8 ∨ (s.ringTail asid ring).2 < value) :
    exec (.ringHeadRaise asid ring value) s = .next s := by
  rw [exec_ringHeadRaise, if_pos]
  rcases h with h | h <;> simp [h]

end

section
variable {s : State} {queue value a : Nat} {w : WorkQ}

theorem exec_queueConsumedRaise (hq : s.findQueue queue = some (a, w)) :
    exec (.queueConsumedRaise queue value) s = .next (if !(isPhysical (s.domain a).fn || (s.domain a).tdiRun) ||
        s.workType a w ≠ 2 || value < s.hostField a (w.block + 0x18) 8 || value > s.blockField a w.block 0x10 8 then s
      else s.hostWrite a (w.block + 0x18) (bytesOf 8 value)) := by
  show execQueueConsumedRaise queue value s = _
  rw [execQueueConsumedRaise, hq]

/-- A CONSUMED is not lowered, nor raised past its TAIL. -/
theorem exec_queueConsumedRaise_refused (hq : s.findQueue queue = some (a, w))
    (h : value < s.hostField a (w.block + 0x18) 8 ∨ s.blockField a w.block 0x10 8 < value) :
    exec (.queueConsumedRaise queue value) s = .next s := by
  rw [exec_queueConsumedRaise hq, if_pos]
  rcases h with h | h <;> simp [h]

/-- A TDI outside RUN raises none (R388; DEDUCED, notes/assumptions/67). -/
theorem exec_queueConsumedRaise_stopped (hq : s.findQueue queue = some (a, w))
    (h1 : isPhysical (s.domain a).fn = false) (h2 : (s.domain a).tdiRun = false) :
    exec (.queueConsumedRaise queue value) s = .next s := by
  rw [exec_queueConsumedRaise hq, if_pos (by simp [h1, h2])]

/-- A CONSUMED of a TYPE 2 queue that is raised is a write of the host. -/
theorem exec_queueConsumedRaise_of_le (hq : s.findQueue queue = some (a, w)) (ht : s.workType a w = 2)
    (hr : (isPhysical (s.domain a).fn || (s.domain a).tdiRun) = true)
    (h1 : s.hostField a (w.block + 0x18) 8 ≤ value) (h2 : value ≤ s.blockField a w.block 0x10 8) :
    exec (.queueConsumedRaise queue value) s = .next (s.hostWrite a (w.block + 0x18) (bytesOf 8 value)) := by
  rw [exec_queueConsumedRaise hq, if_neg (by simp [hr, ht, h1, h2])]

end

/-! ### O51 -/

/-- Settles O51: each clause by the lemma above that says what its access does. -/
theorem hostAccessSteps : Obligations.HostAccessSteps := by
  unfold Obligations.HostAccessSteps
  intro s fn off asid queue value v run ide addr data ring
  refine ⟨fun hb hf => ⟨?_, ?_, ?_, ?_, ?_, ?_, ?_, ?_, ?_, ?_, ?_, ?_, ?_, ?_, ?_, ?_⟩, ?_, ?_, ?_, ⟨?_, ?_⟩, ?_, ?_, ?_, ?_⟩
  · exact ⟨_, exec_causeClear hb hf v, onlyFn_mapFn .., s.fn_mapFn_self ..⟩
  · rintro rfl
    exact exec_write_doorbell hb hf v
  · rintro rfl
    exact ⟨_, exec_write_cmdaddr hb hf v, onlyFn_mapFn .., s.fn_mapFn_self ..⟩
  · rintro rfl rfl hbusy
    refine ⟨fun h => ⟨_, exec_cmdGo hb hf hbusy, cmdGo_ends_result h⟩, fun hbad hlost h1 h2 => ?_⟩
    exact ⟨_, exec_cmdGo hb hf hbusy, cmdGo_pending_result (not_not.mp hbad) (by simpa using hlost) h1 h2⟩
  · rintro rfl h
    rw [exec_write_cmdgo hb hf, if_neg]
    rcases h with h | h
    · exact fun e => h (by simpa using And.left (by simpa using e))
    · simp [h]
  · rintro rfl
    exact ⟨_, exec_write_cause hb hf v, onlyFn_mapFn .., s.fn_mapFn_self ..⟩
  · rintro rfl
    exact ⟨_, exec_write_causeMask hb hf v, onlyFn_mapFn .., s.fn_mapFn_self ..⟩
  · exact exec_write_reserved hb hf v
  · exact State.hostRegister_cmdaddr hb hf
  · exact State.hostRegister_done hb hf
  · exact State.hostRegister_cause hb hf
  · exact State.hostRegister_causeMask hb hf
  · rw [State.hostRegister_cmdstat hb hf]
    exact cmdStat_busy ..
  · rw [State.hostRegister_cmdstat hb hf]
    exact cmdStat_result ..
  · rw [State.hostRegister_cmdstat hb hf]
    exact cmdStat_status ..
  · exact State.hostRegister_reserved hb hf
  · exact fun p => congrArg Host.Outcome.next (if_congr (by simp) rfl rfl)
  · rfl
  · intro ha hp
    refine ⟨_, congrArg Host.Outcome.next (if_pos (by simp [ha, hp])), rfl, State.domain_mapDomain_self ..⟩
  · intro hb ha hd hwf
    refine ⟨fun h => ⟨_, exec_hostWrite hb ha hd, ?_⟩, fun p line cells hl hp hdev => ⟨_, exec_hostWrite hb ha hd, ?_⟩⟩
    · rw [s.hostWrite_device asid addr data h]
      exact ⟨rfl, ⟨(onlyDomain_mapDomain _ _ _).2, State.domain_mapDomain_self ..⟩, rfl⟩
    · rw [s.hostWrite_system hl hp hdev]
      exact ⟨rfl, ⟨(onlyDomain_mapDomain _ _ _).2, State.domain_mapDomain_self ..⟩,
        fun a => memGet_foldl_memPut cells s.mem (lineOf p) a hwf⟩
  · intro a w hq ht hr
    refine ⟨exec_queueConsumedRaise_refused hq, fun p line cells h1 h2 hl hp => ?_⟩
    have he := exec_queueConsumedRaise_of_le hq ht hr h1 h2
    refine ⟨fun hdev => he.trans ?_, fun hdev hwf => ⟨_, he, ?_⟩⟩
    · rw [s.hostWrite_device a _ _ (by simp [hl, hp, hdev]), hl, List.map_singleton, hp]
      rfl
    · rw [s.hostWrite_system hl hp hdev]
      exact ⟨rfl, fun a => memGet_foldl_memPut cells s.mem (lineOf p) a hwf⟩
  · intro hb ha
    refine ⟨fun p hp hdev => ⟨_, exec_hostRead hb ha, ?_⟩, fun h => ?_⟩
    · obtain ⟨hf, hd, hs⟩ := useFound_result s asid addr
      rw [hostRead_device hp hdev]
      exact ⟨rfl, hf.2, hd, hs, fun key => countOf_countIn s.access p key hdev⟩
    · rw [exec_hostRead hb ha, hostRead_other h]
  · exact fun h => exec_hostMemoryAccess_refused h
  · intro place head ha
    exact ⟨fun h1 h2 hm => ⟨_, exec_ringHeadRaise_of_le ha h1 h2 hm, rfl, rfl⟩, exec_ringHeadRaise_refused⟩
  · exact fun a w hq h1 h2 => exec_queueConsumedRaise_stopped hq h1 h2

end Sys2Proof.Machine
end

section
/-! SUPPORT. Which domains a step of the device leaves alive: no operation on the way to a domain's end makes another one
alive, or takes the device down (R375, R390). -/

namespace Sys2Proof.Machine

/-! ### Lists with a default -/

/-- The indices that meet a test, counted from any first one. -/
theorem mem_indices_go {α : Type} {p : α → Bool} {d : α} (hd : p d = false) (l : List α) (i k : Nat) :
    k ∈ indices.go p i l ↔ i ≤ k ∧ p (rd d l (k - i)) = true := by
  induction l generalizing i with
  | nil => simp [indices.go, hd]
  | cons x t ih =>
    have hsplit : k ∈ indices.go p i (x :: t) ↔ (k = i ∧ p x = true) ∨ k ∈ indices.go p (i + 1) t := by
      by_cases hx : p x = true <;> simp [indices.go, hx]
    rw [hsplit, ih]
    rcases Nat.lt_trichotomy k i with h | rfl | h
    · have h1 : ¬ i ≤ k := by omega
      have h2 : ¬ i + 1 ≤ k := by omega
      simp [h1, h2, Nat.ne_of_lt h]
    · simp
    · obtain ⟨j, rfl⟩ : ∃ j, k = i + 1 + j := ⟨k - (i + 1), by omega⟩
      have e1 : i + 1 + j - i = j + 1 := by omega
      have e2 : i + 1 + j - (i + 1) = j := by omega
      have h1 : i + 1 + j ≠ i := by omega
      have h2 : i ≤ i + 1 + j := by omega
      simp [e1, e2, h1, h2]

/-- The indices that meet a test which the default does not meet. -/
theorem mem_indices {α : Type} {p : α → Bool} {d : α} (hd : p d = false) {l : List α} {k : Nat} :
    k ∈ indices p l ↔ p (rd d l k) = true := by
  rw [indices, mem_indices_go hd]
  simp

/-- As many indices meet a test as entries do. -/
theorem length_indices {α : Type} (p : α → Bool) (l : List α) : (indices p l).length = l.countP p := by
  have gen (i : Nat) : (indices.go p i l).length = l.countP p := by
    induction l generalizing i with
    | nil => rfl
    | cons x t ih => by_cases hx : p x = true <;> simp [indices.go, hx, ih]
  exact gen 0

/-! ### The domains that are alive -/

/-- The device is up, and no domain outside a set is alive. -/
def State.AliveIn (A : Nat → Prop) (s : State) : Prop :=
  s.bringUp = 8 ∧ ∀ k, (s.domain k).alive = true → A k

section
variable {A : Nat → Prop} {s : State}

/-- A change of a domain that does not bring it to life. -/
theorem State.AliveIn.mapDomain (h : s.AliveIn A) {asid : Nat} {f : Domain → Domain}
    (hf : ∀ d, (f d).alive = true → d.alive = true) : (s.mapDomain asid f).AliveIn A := by
  refine ⟨h.1, fun k hk => h.2 k ?_⟩
  rw [State.domain_mapDomain] at hk
  split at hk
  · next e => exact e ▸ hf _ hk
  · exact hk

/-- The end of a domain takes it out of the set. -/
theorem State.AliveIn.endDomain (h : s.AliveIn A) {asid : Nat} {f : Domain → Domain}
    (hf : ∀ d, (f d).alive = false) : (s.mapDomain asid f).AliveIn fun k => A k ∧ k ≠ asid := by
  refine ⟨h.1, fun k hk => ?_⟩
  rw [State.domain_mapDomain] at hk
  split at hk
  · exact absurd ((hf _).symm.trans hk) Bool.false_ne_true
  · next e => exact ⟨h.2 k hk, e⟩

/-- A state with the same domains. -/
theorem State.AliveIn.congr {t : State} (h : s.AliveIn A) (hd : t.domains = s.domains) (hb : t.bringUp = s.bringUp) :
    t.AliveIn A := by
  refine ⟨hb.trans h.1, fun k hk => h.2 k ?_⟩
  rw [State.domain, hd] at hk
  exact hk

theorem State.AliveIn.mapThread (h : s.AliveIn A) {tid : Nat} {f : Thread → Thread} :
    (s.mapThread tid f).AliveIn A := h.congr rfl rfl

theorem State.AliveIn.mapCore (h : s.AliveIn A) {c : Nat} {f : CoreSt → CoreSt} : (s.mapCore c f).AliveIn A :=
  h.congr rfl rfl

theorem State.AliveIn.mapReq (h : s.AliveIn A) {n : Nat} {f : Req → Req} : (s.mapReq n f).AliveIn A := h.congr rfl rfl

theorem State.AliveIn.mapReqs (h : s.AliveIn A) {f : Req → Req} :
    State.AliveIn A { s with reqs := s.reqs.map f } := h.congr rfl rfl

theorem State.AliveIn.mapStores (h : s.AliveIn A) {f : Store → Store} :
    State.AliveIn A { s with stores := s.stores.map f } := h.congr rfl rfl

theorem State.AliveIn.mapLCs (h : s.AliveIn A) {f : LC → LC} :
    State.AliveIn A { s with lcs := s.lcs.map f } := h.congr rfl rfl

theorem State.AliveIn.mapDies (h : s.AliveIn A) {f : Die → Die} :
    State.AliveIn A { s with dies := s.dies.map f } := h.congr rfl rfl

theorem State.AliveIn.dropCopies (h : s.AliveIn A) {asid : Nat} : (s.dropCopies asid).AliveIn A := h.congr rfl rfl

theorem State.AliveIn.mapThreads (h : s.AliveIn A) {f : Thread → Thread} :
    State.AliveIn A { s with threads := s.threads.map f } := h.congr rfl rfl

theorem State.AliveIn.withMem (h : s.AliveIn A) {m : List Host.Cell} : State.AliveIn A { s with mem := m } :=
  h.congr rfl rfl

theorem State.AliveIn.mapStore (h : s.AliveIn A) {n : Nat} {f : Store → Store} : (s.mapStore n f).AliveIn A :=
  h.congr rfl rfl

theorem State.AliveIn.draw (h : s.AliveIn A) : s.draw.1.AliveIn A := h.congr rfl rfl

theorem State.AliveIn.ite {c : Prop} [Decidable c] {a b : State} (ha : a.AliveIn A) (hb : b.AliveIn A) :
    (if c then a else b).AliveIn A := by
  split
  · exact ha
  · exact hb

theorem State.AliveIn.foldl {α : Type} {f : State → α → State} {l : List α} (h : s.AliveIn A)
    (hf : ∀ s x, s.AliveIn A → (f s x).AliveIn A) : (l.foldl f s).AliveIn A :=
  List.foldlRecOn l f h fun u hu x _ => hf u x hu

theorem State.AliveIn.mapUnit (h : s.AliveIn A) {asid core : Nat} {f : Unit_ → Unit_} :
    (s.mapUnit asid core f).AliveIn A := h.mapDomain fun _ hd => hd

theorem State.AliveIn.charge (h : s.AliveIn A) {asid : Nat} {r : FaultRec} : (s.charge asid r).AliveIn A :=
  h.mapDomain fun _ hd => hd

theorem State.AliveIn.count (h : s.AliveIn A) {asid core event n : Nat} : (s.count asid core event n).AliveIn A :=
  .ite h (.mapUnit h)

theorem State.AliveIn.countBy (h : s.AliveIn A) {tid event n : Nat} : (s.countBy tid event n).AliveIn A :=
  .ite (.count h) h

theorem State.AliveIn.markParked (h : s.AliveIn A) {tid : Nat} {m : Mask} : (s.markParked tid m).AliveIn A :=
  .ite (.mapUnit h) h

theorem State.AliveIn.mapStep (h : s.AliveIn A) {tid l : Nat} {f : Step → Step} : (s.mapStep tid l f).AliveIn A := by
  dsimp only [State.mapStep]
  split
  · exact .mapUnit h
  · exact h

theorem State.AliveIn.post (h : s.AliveIn A) {tid : Nat} {p : Posted} : (s.post tid p).AliveIn A :=
  .ite h.mapThread h.charge

theorem State.AliveIn.useFound (h : s.AliveIn A) {dom va : Nat} : (s.useFound dom va).AliveIn A := by
  dsimp only [State.useFound]
  split
  · exact .ite h (.mapDomain h fun _ hd => hd)
  · exact h

theorem State.AliveIn.countLines (h : s.AliveIn A) {dom va n : Nat} : (s.countLines dom va n).AliveIn A := by
  dsimp only [State.countLines]
  refine .foldl h fun u k hu => ?_
  split
  · exact hu.useFound
  · exact hu

/-! ### The end of activations and of threads -/

theorem State.AliveIn.releaseSide (h : s.AliveIn A) {tid : Nat} : (s.releaseSide tid).AliveIn A :=
  .ite h h.mapCore

theorem State.AliveIn.endActivation (h : s.AliveIn A) {tid status : Nat} :
    (s.endActivation tid status).AliveIn A := by
  dsimp only [State.endActivation]
  split
  · exact h
  · have hd (depth : Nat) : ((s.dropDests tid).closeAccesses tid depth).AliveIn A := h.congr rfl rfl
    exact .mapThread (.releaseSide (.ite (.mapCore (hd _)) (hd _)))

theorem State.AliveIn.leaveWing (h : s.AliveIn A) {dom tid n : Nat} : (s.leaveWing dom tid n).AliveIn A := by
  induction n generalizing s with
  | zero => exact h
  | succ n ih => exact .ite (ih h.endActivation) h

theorem State.AliveIn.abortThread (h : s.AliveIn A) {tid : Nat} : (s.abortThread tid).AliveIn A := by
  dsimp only [State.abortThread]
  refine .mapThread (.mapReqs (.ite ?_ ?_))
  · exact h.releaseSide.mapCore
  · exact h.releaseSide

/-! ### Launches that are aborted -/

theorem State.AliveIn.sendOuts (h : s.AliveIn A) {n : Nat} : (s.sendOuts n).AliveIn A := by
  induction n generalizing s with
  | zero => exact h
  | succ n ih =>
    unfold State.sendOuts
    split
    · exact h
    · exact .ite (ih (h.congr rfl rfl)) h

theorem State.AliveIn.deviceSend (h : s.AliveIn A) {dom va : Nat} {bs : List Byte} {t : State}
    (e : s.deviceSend dom va bs = some t) : t.AliveIn A := by
  rw [State.deviceSend] at e
  split at e
  · exact absurd e (Option.some_ne_none t).symm
  · rw [← Option.some.inj e]
    refine .foldl h.countLines fun u x hu => ?_
    split
    · exact hu.congr rfl rfl
    · exact hu

theorem State.AliveIn.deviceSend_getD (h : s.AliveIn A) {dom va : Nat} {bs : List Byte} :
    ((s.deviceSend dom va bs).getD s).AliveIn A := by
  cases e : s.deviceSend dom va bs with
  | none => exact h
  | some t => exact h.deviceSend e

theorem State.AliveIn.abortRecord (h : s.AliveIn A) {asid queue seq status : Nat} :
    (s.abortRecord asid queue seq status).AliveIn A := by
  dsimp only [State.abortRecord]
  split
  · exact h
  · split
    · exact h
    · next e =>
      have hw (n : Nat) {f : WorkQ → WorkQ} := (h.deviceSend e).mapDomain (asid := asid)
        (f := fun d => { d with queues := d.queues.map fun w => if w.queue = n then f w else w }) fun _ hd => hd
      exact .ite (State.AliveIn.deviceSend_getD (hw _)) (hw _)

theorem State.AliveIn.abortLaunches (h : s.AliveIn A) {asid : Nat} : (s.abortLaunches asid).AliveIn A := by
  dsimp only [State.abortLaunches]
  refine .foldl h fun u n hu => ?_
  split
  · exact hu.abortRecord.sendOuts.congr rfl rfl
  · exact hu

/-! ### Accesses that end -/

theorem State.AliveIn.chargeLate (h : s.AliveIn A) {tid l : Nat} {x : Late} {code : TrapCode} {kind dom addr : Nat} :
    (s.chargeLate tid l x code kind dom addr).AliveIn A :=
  .charge (.ite (.countBy (.countBy h)) (.countBy h))

theorem State.AliveIn.undo (h : s.AliveIn A) {tid from_ l : Nat} : (s.undo tid from_ l).AliveIn A := h.congr rfl rfl

theorem State.AliveIn.parkLate (h : s.AliveIn A) {tid l : Nat} {x : Late} {L0 : Lane} {code : TrapCode}
    {dom addr : Nat} {stack : Bool} : (s.parkLate tid l x L0 code dom addr stack).AliveIn A :=
  .ite h (.ite (.mapThread h.mapStep) (.chargeLate (.ite (.mapThread (.undo h.markParked)) h)))

theorem State.AliveIn.faultTo (h : s.AliveIn A) {tid depth n : Nat} : (s.faultTo tid depth n).AliveIn A := by
  induction n generalizing s with
  | zero => exact h
  | succ n ih => exact .ite h (ih h.endActivation)

theorem State.AliveIn.lateTrap (h : s.AliveIn A) {tid : Nat} {x : Late} {code : TrapCode} {dom addr : Nat}
    {stack : Bool} : (s.lateTrap tid x code dom addr stack).AliveIn A :=
  .ite (.ite (.foldl h fun _ _ hu => hu.chargeLate) (.faultTo (.foldl h fun _ _ hu => hu.chargeLate)))
    (.ite (.foldl h fun _ _ hu => hu.parkLate) h.post)

theorem State.AliveIn.failReq (h : s.AliveIn A) {n : Nat} {code : TrapCode} : (s.failReq n code).AliveIn A := by
  dsimp only [State.failReq]
  split
  · exact h
  · exact .ite h.mapReq (.mapThread (.lateTrap h.mapReq))

theorem State.AliveIn.strayRecord (h : s.AliveIn A) {asid kind core : Nat} {code : TrapCode} {addr : Nat}
    {launch : Option Dword} : (s.strayRecord asid kind core code addr launch).AliveIn A :=
  .charge (.draw (.draw (.draw h)))

theorem State.AliveIn.failStore (h : s.AliveIn A) {n : Nat} {code : TrapCode} : (s.failStore n code).AliveIn A := by
  dsimp only [State.failStore]
  split
  · exact h
  · refine .ite ?_ (.foldl (.foldl (.foldl h.mapStore fun _ _ hu => hu.mapReq) fun _ _ hu => hu.lateTrap)
      fun u k hu => ?_)
    · split
      · exact .strayRecord (.foldl h.mapStore fun _ _ hu => hu.post)
      · exact .foldl h.mapStore fun _ _ hu => hu.post
    · split
      · exact hu.mapThread
      · exact hu

theorem State.AliveIn.denyCommit (h : s.AliveIn A) {asid core dom va : Nat} :
    (s.denyCommit asid core dom va).AliveIn A := by
  dsimp only [State.denyCommit]
  split
  · split
    · exact .ite (.mapUnit h.post) h
    · exact h
  · exact h

theorem State.AliveIn.denyPages (h : s.AliveIn A) {asid va log : Nat} : (s.denyPages asid va log).AliveIn A := by
  unfold State.denyPages
  refine .foldl (.mapDomain h.mapThreads fun _ hd => hd) fun u k hu => ?_
  exact .foldl hu fun _ _ h2 => .mapUnit (.foldl h2 fun _ _ h3 => h3.denyCommit)

theorem State.AliveIn.endWaiting (h : s.AliveIn A) {asid va log : Nat} : (s.endWaiting asid va log).AliveIn A :=
  .foldl (.foldl h.denyPages fun _ _ h1 => h1.failReq) fun _ _ h1 => h1.failStore

/-! ### The end of domains -/

theorem State.AliveIn.scramble (h : s.AliveIn A) {asid : Nat} : (s.scramble asid).AliveIn A := by
  unfold State.scramble
  exact .foldl h fun u p hu => hu.draw.withMem

/-- A domain that is destroyed is alive no more, and none comes to life (R375). -/
theorem State.AliveIn.destroyDomain (h : s.AliveIn A) {asid : Nat} :
    (s.destroyDomain asid).AliveIn fun k => A k ∧ k ≠ asid := by
  unfold State.destroyDomain
  refine .endDomain (.scramble (.dropCopies (.mapStores (.endWaiting (.mapLCs (.abortLaunches ?_)))))) fun _ => rfl
  refine .foldl (.mapDies ?_) fun _ _ hu => hu.abortThread
  exact .foldl (.mapDomain h fun _ hd => hd) fun _ _ hu => hu.leaveWing

/-- Destroying domains one after the other. -/
theorem State.AliveIn.destroyDomains (h : s.AliveIn A) (ls : List Nat) :
    (ls.foldl State.destroyDomain s).AliveIn fun k => A k ∧ k ∉ ls := by
  induction ls generalizing s A with
  | nil => exact ⟨h.1, fun k hk => ⟨h.2 k hk, List.not_mem_nil⟩⟩
  | cons a t ih =>
    rw [List.foldl_cons]
    obtain ⟨hb, hl⟩ := ih h.destroyDomain
    refine ⟨hb, fun k hk => ?_⟩
    obtain ⟨⟨hA, hne⟩, ht⟩ := hl k hk
    exact ⟨hA, List.not_mem_cons_of_ne_of_not_mem hne ht⟩

/-- A function-level reset destroys every domain (R390). -/
theorem functionLevelReset_result (fn : Nat) (hb : s.bringUp = 8) : Answers (.functionLevelReset fn) s fun t =>
    (∀ a, (t.domain a).alive = false) ∧ t.fn fn = {} ∧ t.bringUp = 8 ∧ t.gang = 0 ∧ t.schedule = [] ∧
      t.switching = none := by
  have h : s.AliveIn fun k => k ∈ indices (fun d => d.alive) s.domains := ⟨hb, fun k hk => (mem_indices rfl).mpr hk⟩
  obtain ⟨hup, hdead⟩ := h.destroyDomains (indices (fun d => d.alive) s.domains)
  refine ⟨_, congrArg Host.Outcome.next (if_neg (not_not.mpr hb)), fun a => ?_, State.fn_mapFn_self .., hup, rfl, rfl, rfl⟩
  refine Bool.eq_false_iff.mpr fun ha => ?_
  obtain ⟨h1, h2⟩ := hdead a ha
  exact h2 h1

end

end Sys2Proof.Machine
end

section
/-! SUPPORT. Threads that are stopped and go on, and what the saving and restoring of a context leaves (R35, R353). -/

namespace Sys2Proof.Machine

/-! ### Stopping threads -/

/-- Threads that one update after the other has reached, where a second one of the same thread changes nothing. -/
theorem thread_foldl_mapThread {f : Thread → Thread} (hf : ∀ t, f (f t) = f t) (step : State → Nat → State)
    (hs : ∀ s i k, (step s i).thread k = if k = i then f (s.thread k) else s.thread k) (s : State) (ts : List Nat)
    (k : Nat) : (ts.foldl step s).thread k = if k ∈ ts then f (s.thread k) else s.thread k := by
  induction ts using List.reverseRecOn with
  | nil => simp
  | append_singleton ts i ih =>
    rw [List.foldl_append, List.foldl_cons, List.foldl_nil, hs, ih]
    by_cases hk : k = i
    · have hm : k ∈ ts ++ [i] := by simp [hk]
      rw [if_pos hk, if_pos hm]
      split
      · exact hf _
      · rfl
    · simp [hk]

/-- Giving up a side leaves the threads. -/
@[simp] theorem State.thread_releaseSide (s : State) (tid k : Nat) : (s.releaseSide tid).thread k = s.thread k := by
  dsimp only [State.releaseSide]
  split <;> rfl

/-- Stopping threads changes them and the sides of cores alone. -/
theorem stopEach_result (s : State) (ts : List Nat) :
    s.stopEach ts = { s with cores := (s.stopEach ts).cores, threads := (s.stopEach ts).threads } ∧
    ∀ k, (s.stopEach ts).thread k = if k ∈ ts then { s.thread k with stopped := true } else s.thread k := by
  constructor
  · unfold State.stopEach
    refine List.foldlRecOn (motive := fun u : State => u = { s with cores := u.cores, threads := u.threads }) ts _ rfl ?_
    intro u hu i _
    have hr : u.releaseSide i = { u with cores := (u.releaseSide i).cores } := by
      dsimp only [State.releaseSide]
      split <;> rfl
    rw [hr, hu]
    rfl
  · refine thread_foldl_mapThread (f := fun t => { t with stopped := true }) (fun _ => rfl) _ (fun u i k => ?_) s ts
    rw [State.thread_mapThread]
    split
    · next e => rw [State.thread_releaseSide, e]
    · rw [State.thread_releaseSide]

/-- Letting the threads of a context go on changes them alone. -/
theorem goThreads_result (s : State) (asid : Nat) :
    s.goThreads asid = { s with threads := (s.goThreads asid).threads } ∧
    ∀ k, (s.goThreads asid).thread k =
      if k ∈ s.ctxThreads asid then { s.thread k with stopped := false } else s.thread k := by
  constructor
  · unfold State.goThreads
    refine List.foldlRecOn (motive := fun u : State => u = { s with threads := u.threads }) _ _ rfl ?_
    intro u hu i _
    rw [hu]
    rfl
  · refine thread_foldl_mapThread (f := fun t => { t with stopped := false }) (fun _ => rfl) _ (fun u i k => ?_) s _
    rw [State.thread_mapThread]
    split
    · next e => rw [e]
    · rfl

@[simp] theorem State.domain_goThreads (s : State) (asid k : Nat) : (s.goThreads asid).domain k = s.domain k := by
  rw [(goThreads_result s asid).1]
  rfl

/-! ### Saving a context -/

/-- What saving a context leaves: memory, the threads but for their polls, and the domains but for what their cores
hold. -/
structure Saved (s t : State) : Prop where
  mem : t.mem = s.mem
  thread : ∀ k, t.thread k = { s.thread k with poll := (t.thread k).poll, wait := (t.thread k).wait }
  domain : ∀ k, t.domain k = { s.domain k with units := (t.domain k).units }

section
variable {s t : State}

theorem Saved.refl (s : State) : Saved s s := ⟨rfl, fun _ => rfl, fun _ => rfl⟩

/-- What else changes is not spoken of. -/
theorem Saved.congr {u : State} (h : Saved s t) (hm : u.mem = t.mem) (ht : u.threads = t.threads)
    (hd : u.domains = t.domains) : Saved s u where
  mem := hm.trans h.mem
  thread k := by
    rw [State.thread, ht]
    exact h.thread k
  domain k := by
    rw [State.domain, hd]
    exact h.domain k

theorem Saved.ite {c : Prop} [Decidable c] {u : State} (ht : Saved s t) (hu : Saved s u) :
    Saved s (if c then t else u) := by
  split
  · exact ht
  · exact hu

theorem Saved.foldl {α : Type} {f : State → α → State} {l : List α} (h : Saved s t)
    (hf : ∀ u x, Saved s u → Saved s (f u x)) : Saved s (l.foldl f t) :=
  List.foldlRecOn l f h fun u hu x _ => hf u x hu

theorem Saved.mapUnit (h : Saved s t) {asid core : Nat} {f : Unit_ → Unit_} : Saved s (t.mapUnit asid core f) where
  mem := h.mem
  thread := h.thread
  domain k := by
    rw [State.mapUnit, State.domain_mapDomain]
    split
    · next e => rw [h.domain asid, e]
    · exact h.domain k

theorem Saved.count (h : Saved s t) {asid core event n : Nat} : Saved s (t.count asid core event n) := .ite h h.mapUnit

theorem Saved.countBy (h : Saved s t) {tid event n : Nat} : Saved s (t.countBy tid event n) := .ite h.count h

theorem Saved.enqueue (h : Saved s t) {x : Store} : Saved s (t.enqueue x) := by
  have hq : Saved s { t with stores := t.stores ++ [{ x with live := true }] } := h.congr rfl rfl rfl
  unfold State.enqueue
  refine .ite ?_ hq
  split
  · exact hq.countBy
  · exact hq.count

theorem Saved.writeBackEntry (h : Saved s t) {lc n : Nat} {e : WinEntry} {tids : List Nat} :
    Saved s (t.writeBackEntry lc n e tids) := by
  unfold State.writeBackEntry
  refine .ite h ?_
  split
  · exact h
  · exact h.enqueue

theorem Saved.writeBack (h : Saved s t) {lc n : Nat} {p : WinEntry → Bool} {keep : Bool} {tids : List Nat} :
    Saved s (t.writeBack lc n p keep tids) := by
  have hw : Saved s (((t.window lc n).entries.filter p).foldl (fun s e => s.writeBackEntry lc n e tids) t) :=
    h.foldl fun _ _ hu => hu.writeBackEntry
  unfold State.writeBack
  exact .ite (hw.congr rfl rfl rfl) (hw.congr rfl rfl rfl)

theorem Saved.emptyWindows (h : Saved s t) {lc : Nat} : Saved s (t.emptyWindows lc) := by
  unfold State.emptyWindows
  exact .foldl h fun _ _ hu => .ite hu.writeBack hu

/-- A poll begins afresh, and its wait with it. -/
theorem Thread.afresh_eq (t : Thread) : t.afresh = { t with poll := t.afresh.poll, wait := t.afresh.wait } := by
  rw [Thread.afresh]
  split <;> rfl

theorem Saved.afresh (h : Saved s t) {tid : Nat} : Saved s (t.mapThread tid Thread.afresh) where
  mem := h.mem
  thread k := by
    rw [State.thread_mapThread]
    split
    · next e =>
      subst e
      have hk := h.thread k
      generalize t.thread k = o at hk ⊢
      rw [o.afresh_eq, hk]
    · exact h.thread k
  domain := h.domain

theorem saved_saveContext (s : State) (asid : Nat) : Saved s (s.saveContext asid) := by
  unfold State.saveContext
  refine .foldl (.foldl (.foldl (.refl s) fun _ _ hu => hu.afresh) fun _ _ hu => hu.emptyWindows) fun _ _ hu => ?_
  exact hu.congr rfl rfl rfl

end

/-! ### Gate windows and context storage -/

/-- Nothing differs but gate windows in use, counts of accesses, and free values drawn. -/
def Aside (s t : State) : Prop := t = { s with cores := t.cores, access := t.access, draws := t.draws }

theorem Aside.refl (s : State) : Aside s s := rfl

theorem Aside.trans {s t u : State} (h : Aside s t) (k : Aside t u) : Aside s u := by
  rw [Aside, k, h]

theorem Aside.ite {c : Prop} [Decidable c] {s t u : State} (ht : Aside s t) (hu : Aside s u) :
    Aside s (if c then t else u) := by
  split
  · exact ht
  · exact hu

theorem aside_readStorage (s : State) (asid : Nat) : Aside s (s.readStorage asid) := rfl

theorem aside_takeWindows (s : State) (asid : Nat) (back : Bool) : Aside s (s.takeWindows asid back) := by
  unfold State.takeWindows
  refine List.foldlRecOn _ _ (Aside.refl s) fun u hu i _ => hu.trans (.ite (.refl u) rfl)

@[simp] theorem State.thread_mapDomain (s : State) (asid k : Nat) (f : Domain → Domain) :
    (s.mapDomain asid f).thread k = s.thread k := rfl

@[simp] theorem State.thread_takeWindows (s : State) (asid k : Nat) (back : Bool) :
    (s.takeWindows asid back).thread k = s.thread k := by
  rw [aside_takeWindows s asid back]
  rfl

/-- The storage of a context and its wings is read. -/
theorem aside_readBack (s : State) (ds : List Nat) : Aside s (ds.foldl State.readStorage s) :=
  List.foldlRecOn ds State.readStorage (Aside.refl s) fun u hu d _ => hu.trans (aside_readStorage u d)

/-- The storage of a context and its wings is read, and its gate windows are taken. -/
theorem aside_takeBack (s : State) (asid : Nat) (ds : List Nat) :
    Aside s ((ds.foldl State.readStorage s).takeWindows asid false) :=
  (aside_readBack s ds).trans (aside_takeWindows ..)

end Sys2Proof.Machine
end

section
/-! SUPPORT. Debug stops (R367, R379). -/

namespace Sys2Proof.Machine

/-- A byte string of a number is as long as it says. -/
theorem length_bytesOf (n x : Nat) : (bytesOf n x).length = n := by
  induction n generalizing x with
  | zero => rfl
  | succ n ih => rw [bytesOf, List.length_cons, ih]

/-- The first bytes of what has been written. -/
theorem memGetN_memPutN_append (bs cs : List Byte) (m : List Host.Cell) (n : Nat) (h : Memory.wf m = true) :
    memGetN (memPutN m n (bs ++ cs)) n bs.length = bs := by
  apply List.ext_getElem
  · simp [memGetN]
  · intro i h1 h2
    simp [memGetN, memGet_memPutN _ _ _ _ h, List.getElem?_append_left h2, h2]

/-- The largest clock of some cores is none smaller. -/
theorem State.coreClock_le_lastClock {s : State} {cores : List Nat} {k : Nat} (h : k ∈ cores) :
    s.coreClock k ≤ s.lastClock cores := by
  rw [State.lastClock, List.foldl_eq_foldr]
  exact List.le_max_of_le (List.mem_map_of_mem h) le_rfl

section
variable {s : State} {asid : Nat}

/-- The threads of a context that an armed stop stops now: those that run on a core whose HCLK has reached the tick. -/
def State.dueToStop (s : State) (asid : Nat) : List Nat :=
  (s.ctxThreads asid).filter fun i =>
    !(s.thread i).stopped && (s.domain asid).stopAt ≤ s.coreClock (s.thread i).core

theorem State.mem_dueToStop {i : Nat} : i ∈ s.dueToStop asid ↔ i ∈ s.ctxThreads asid ∧ (s.thread i).stopped = false ∧
    (s.domain asid).stopAt ≤ s.coreClock (s.thread i).core := by
  simp [State.dueToStop]

/-- No thread is due where none meets the test. -/
theorem State.dueToStop_eq_nil (h : ∀ i, ¬ (i ∈ s.ctxThreads asid ∧ (s.thread i).stopped = false ∧
    (s.domain asid).stopAt ≤ s.coreClock (s.thread i).core)) : s.dueToStop asid = [] :=
  List.eq_nil_iff_forall_not_mem.mpr fun i hi => h i (State.mem_dueToStop.mp hi)

/-- A context that its armed stop may stop is switched in. -/
def Domain.stopsOn (d : Domain) : Prop := d.alive = true ∧ d.stop = .armed ∧ d.running = true

/-- Threads whose cores have reached the tick stop, and the stop keeps a clock that is none of theirs smaller. -/
theorem debugStop_due {j : Nat} (hd : (s.domain asid).stopsOn) (hj : j ∈ s.dueToStop asid) :
    Answers (.debugStop asid) s fun t => t.mem = s.mem ∧ t.stores = s.stores ∧
      (∀ i, t.thread i = if i ∈ s.dueToStop asid then { s.thread i with stopped := true } else s.thread i) ∧
      (t.domain asid).stop = .armed ∧
      ∃ n, (t.domain asid).stopClk = some n ∧ s.coreClock (s.thread j).core ≤ n := by
  obtain ⟨ha, hst, hr⟩ := hd
  have hne : (s.dueToStop asid).isEmpty = false := by
    rw [List.isEmpty_eq_false_iff]
    exact List.ne_nil_of_mem hj
  obtain ⟨hframe, hthread⟩ := stopEach_result s (s.dueToStop asid)
  have hdom : (s.stopEach (s.dueToStop asid)).domain asid = s.domain asid := by
    rw [hframe]
    rfl
  have hclk : s.coreClock (s.thread j).core ≤ s.lastClock ((s.dueToStop asid).map fun i => (s.thread i).core) :=
    State.coreClock_le_lastClock (List.mem_map_of_mem (f := fun i => (s.thread i).core) hj)
  have he : exec (.debugStop asid) s = .next ((s.stopEach (s.dueToStop asid)).mapDomain asid fun d =>
      { d with stopClk := some (max (d.stopClk.getD 0)
          (s.lastClock ((s.dueToStop asid).map fun i => (s.thread i).core))) }) := by
    refine congrArg Host.Outcome.next ?_
    rw [State.dueToStop] at hne ⊢
    simp [ha, hst, hr, hne]
  refine ⟨_, he, ?_, ?_, hthread, ?_, max ((s.domain asid).stopClk.getD 0) _, ?_, hclk.trans (le_max_right _ _)⟩
  · show (s.stopEach (s.dueToStop asid)).mem = s.mem
    rw [hframe]
  · show (s.stopEach (s.dueToStop asid)).stores = s.stores
    rw [hframe]
  · rw [State.domain_mapDomain_self, hdom, hst]
  · rw [State.domain_mapDomain_self, hdom]

/-- DEBUG_STOP of a context none of whose threads is due to stop. -/
theorem exec_debugStop (hd : (s.domain asid).stopsOn) (hn : s.dueToStop asid = []) : exec (.debugStop asid) s = .next (
    let d := s.domain asid
    if s.hclk < d.stopAt || !(s.ctxCores asid).all (fun c => d.stopAt ≤ s.coreClock c) || s.returnsOut asid then s
    else if !d.halting then s.mapDomain asid fun d => { d with halting := true }
    else if !s.atCheckpoints asid || !s.outClear [(hostPlace d.stopArea, d.storsize + 64)] then s
    else s.scanOut asid (max (d.stopClk.getD (s.lastClock (s.ctxCores asid))) (s.lastClock (s.busyCores asid)))) := by
  obtain ⟨ha, hst, hr⟩ := hd
  refine congrArg Host.Outcome.next ?_
  rw [State.dueToStop] at hn
  simp [ha, hst, hr, hn]

/-- The stop waits for every clock of the context, and for what its threads have on its way. -/
theorem debugStop_waits (hd : (s.domain asid).stopsOn) (hn : s.dueToStop asid = [])
    (h : s.hclk < (s.domain asid).stopAt ∨ (∃ k, k ∈ s.ctxCores asid ∧ s.coreClock k < (s.domain asid).stopAt) ∨
      s.returnsOut asid = true) : exec (.debugStop asid) s = .next s := by
  rw [exec_debugStop hd hn]
  dsimp only
  rw [if_pos]
  rcases h with h | ⟨k, hk, hlt⟩ | h
  · simp [h]
  · have hall : (s.ctxCores asid).all (fun c => decide ((s.domain asid).stopAt ≤ s.coreClock c)) = false := by
      rw [List.all_eq_false]
      exact ⟨k, hk, by simpa using hlt⟩
    simp [hall]
  · simp [h]

/-- Raising bits of CAUSE sets them. -/
theorem State.cause_raise (s : State) (fn bits : Nat) :
    ((s.raise fn bits).fn fn).cause = (s.fn fn).cause ||| BitVec.ofNat 64 bits := by
  rw [State.raise, State.fn_mapFn_self]

@[simp] theorem State.domain_raise (s : State) (fn bits k : Nat) : (s.raise fn bits).domain k = s.domain k := rfl

/-- A context whose image and header are written: it is stopped, and CAUSE bit 4 is raised. -/
def State.scannedOut (s : State) (asid fn : Nat) : State :=
  (s.mapDomain asid fun d => { d with stop := .stopped, halting := false }).raise fn 16

theorem State.scannedOut_result (s : State) (asid fn : Nat) : (s.scannedOut asid fn).mem = s.mem ∧
    ((s.scannedOut asid fn).domain asid).stop = .stopped ∧ ((s.scannedOut asid fn).fn fn).cause.getLsbD 4 = true := by
  refine ⟨rfl, ?_, ?_⟩
  · rw [State.scannedOut, State.domain_raise, State.domain_mapDomain_self]
  · rw [State.scannedOut, State.cause_raise, BitVec.getLsbD_or]
    simp

/-- A saved context whose image and header are in the host's debug area. -/
def State.imageOut (s : State) (asid clk : Nat) (image : List Byte) : State :=
  (s.draw.1.writePlace (hostPlace ((s.domain asid).stopArea + 64)) image).writePlace
    (hostPlace (s.domain asid).stopArea) (debugHeader clk (s.domain asid).stopAt 1 image.length)

theorem State.mem_imageOut (s : State) (asid clk : Nat) (image : List Byte) : (s.imageOut asid clk image).mem =
    memPutN (memPutN s.mem (hostPlace ((s.domain asid).stopArea + 64)) image) (hostPlace (s.domain asid).stopArea)
      (debugHeader clk (s.domain asid).stopAt 1 image.length) := by
  simp only [State.imageOut, State.writePlace, State.draw]

/-- Scanning a context out: it is saved, and the image goes before the header. -/
theorem State.scanOut_eq (s : State) (asid clk : Nat) : ∃ image, s.scanOut asid clk =
    ((s.saveContext asid).imageOut asid clk image).scannedOut asid ((s.saveContext asid).domain asid).fn := by
  unfold State.scanOut
  generalize s.saveContext asid = u
  exact ⟨_, rfl⟩

/-- The header of a debug area reads back. -/
theorem memGetN_debugHeader {m : List Host.Cell} (hm : Memory.wf m = true) (p clk t state used : Nat) :
    memGetN (memPutN m p (debugHeader clk t state used)) p 24 = bytesOf 8 clk ++ bytesOf 8 t ++ bytesOf 8 state := by
  rw [debugHeader, List.append_assoc _ (bytesOf 8 used)]
  refine Eq.trans (congrArg _ ?_) (memGetN_memPutN_append _ _ _ _ hm)
  simp [length_bytesOf]

/-- Scanning a context out writes its header, raises CAUSE bit 4, and leaves the context stopped. -/
theorem scanOut_result (clk : Nat) (hm : Memory.wf s.mem = true) :
    ((s.scanOut asid clk).domain asid).stop = .stopped ∧
    ((s.scanOut asid clk).fn (s.domain asid).fn).cause.getLsbD 4 = true ∧
    memGetN (s.scanOut asid clk).mem (hostPlace (s.domain asid).stopArea) 24 =
      bytesOf 8 clk ++ bytesOf 8 (s.domain asid).stopAt ++ bytesOf 8 1 := by
  obtain ⟨hmem, -, hdomain⟩ := saved_saveContext s asid
  have hfn : ((s.saveContext asid).domain asid).fn = (s.domain asid).fn := by rw [hdomain]
  have hat : ((s.saveContext asid).domain asid).stopAt = (s.domain asid).stopAt := by rw [hdomain]
  have harea : ((s.saveContext asid).domain asid).stopArea = (s.domain asid).stopArea := by rw [hdomain]
  obtain ⟨image, e⟩ := s.scanOut_eq asid clk
  rw [hfn] at e
  obtain ⟨hwmem, hstop, hcause⟩ := ((s.saveContext asid).imageOut asid clk image).scannedOut_result asid (s.domain asid).fn
  rw [e]
  refine ⟨hstop, hcause, ?_⟩
  rw [hwmem, State.mem_imageOut, harea, hat, hmem]
  exact memGetN_debugHeader (Memory.wf_memPutN _ _ _ hm) ..

section
variable (hd : (s.domain asid).stopsOn) (hn : s.dueToStop asid = []) (hh : (s.domain asid).stopAt ≤ s.hclk)
  (hc : ∀ k, k ∈ s.ctxCores asid → (s.domain asid).stopAt ≤ s.coreClock k) (ho : s.returnsOut asid = false)

include hd hn hh hc ho

/-- DEBUG_STOP of a context that has stopped but for its engines. -/
theorem exec_debugStop_stopped : exec (.debugStop asid) s = .next (
    let d := s.domain asid
    if !d.halting then s.mapDomain asid fun d => { d with halting := true }
    else if !s.atCheckpoints asid || !s.outClear [(hostPlace d.stopArea, d.storsize + 64)] then s
    else s.scanOut asid (max (d.stopClk.getD (s.lastClock (s.ctxCores asid))) (s.lastClock (s.busyCores asid)))) := by
  rw [exec_debugStop hd hn]
  dsimp only
  rw [if_neg]
  simpa [hh, ho] using hc

/-- Then its engines start nothing more. -/
theorem debugStop_halts (hg : (s.domain asid).halting = false) : Answers (.debugStop asid) s fun t =>
      t = { s with domains := t.domains } ∧ t.domain asid = { s.domain asid with halting := true } ∧
      ∀ a, a ≠ asid → t.domain a = s.domain a := by
  have e := exec_debugStop_stopped hd hn hh hc ho
  dsimp only at e
  rw [hg, if_pos (by decide)] at e
  obtain ⟨hframe, hother⟩ := onlyDomain_mapDomain s asid fun d => { d with halting := true }
  exact ⟨_, e, hframe, State.domain_mapDomain_self .., hother⟩

/-- It waits for its engines, and for what the hub has on its way to the debug area. -/
theorem debugStop_scanWaits (hg : (s.domain asid).halting = true) (h : s.atCheckpoints asid = false ∨
      s.outClear [(hostPlace (s.domain asid).stopArea, (s.domain asid).storsize + 64)] = false) :
    exec (.debugStop asid) s = .next s := by
  rw [exec_debugStop_stopped hd hn hh hc ho]
  dsimp only
  rw [hg, if_neg (by decide), if_pos]
  rcases h with h | h <;> simp [h]

/-- The end of a debug stop: n is no smaller than the clock at which any part of the context stopped. -/
theorem debugStop_ends (hg : (s.domain asid).halting = true) (hp : s.atCheckpoints asid = true)
    (hout : s.outClear [(hostPlace (s.domain asid).stopArea, (s.domain asid).storsize + 64)] = true)
    (hm : Memory.wf s.mem = true) : Answers (.debugStop asid) s fun t => (t.domain asid).stop = .stopped ∧
      (t.fn (s.domain asid).fn).cause.getLsbD 4 = true ∧ ∃ n,
        memGetN t.mem (hostPlace (s.domain asid).stopArea) 24 =
          bytesOf 8 n ++ bytesOf 8 (s.domain asid).stopAt ++ bytesOf 8 1 ∧
        (∀ k, k ∈ s.busyCores asid → s.coreClock k ≤ n) ∧
        ∀ m, (s.domain asid).stopClk = some m → m ≤ n ∧ (s.busyCores asid = [] → n = m) := by
  have e := exec_debugStop_stopped hd hn hh hc ho
  dsimp only at e
  rw [hg, hp, hout, if_neg (by decide), if_neg (by decide)] at e
  generalize hf : (s.domain asid).stopClk.getD (s.lastClock (s.ctxCores asid)) = first at e
  obtain ⟨hstop, hcause, hhead⟩ := scanOut_result (s := s) (asid := asid) (max first (s.lastClock (s.busyCores asid))) hm
  refine ⟨_, e, hstop, hcause, _, hhead, fun k hk => ?_, fun m hm => ?_⟩
  · exact (State.coreClock_le_lastClock hk).trans (le_max_right ..)
  · rw [hm] at hf
    obtain rfl : m = first := hf
    refine ⟨le_max_left .., fun hb => ?_⟩
    rw [hb]
    exact max_eq_left (Nat.zero_le m)

end

end

end Sys2Proof.Machine
end

section
/-! SUPPORT. PC samples (R366), the clocks of dies (R23) and the power-on reset (R390). -/

namespace Sys2Proof.Machine

/-! ### Samples -/

/-- n records of the sample ring of a domain have been written or dropped. -/
structure Sampled (asid n : Nat) (s t : State) : Prop where
  threads : t.threads = s.threads
  stores : t.stores = s.stores
  mem : t.mem = s.mem
  units : (t.domain asid).units = (s.domain asid).units
  count : (t.domain asid).smTail + (t.domain asid).smDrop = (s.domain asid).smTail + (s.domain asid).smDrop + n

section
variable {s t : State} {asid n : Nat}

theorem Sampled.refl : Sampled asid 0 s s := ⟨rfl, rfl, rfl, rfl, rfl⟩

theorem Sampled.trans {u : State} {k : Nat} (h : Sampled asid n s t) (g : Sampled asid k t u) :
    Sampled asid (n + k) s u where
  threads := g.threads.trans h.threads
  stores := g.stores.trans h.stores
  mem := g.mem.trans h.mem
  units := g.units.trans h.units
  count := by rw [g.count, h.count, Nat.add_assoc]

theorem Sampled.sendOut (h : Sampled asid n s t) {p : Nat} {bs : List Byte} : Sampled asid n s (t.sendOut p bs) :=
  ⟨h.threads, h.stores, h.mem, h.units, h.count⟩

theorem Sampled.sendCtl (h : Sampled asid n s t) {dom off x : Nat} : Sampled asid n s (t.sendCtl dom off x) := h.sendOut

theorem Sampled.raise (h : Sampled asid n s t) {fn bits : Nat} : Sampled asid n s (t.raise fn bits) :=
  ⟨h.threads, h.stores, h.mem, h.units, h.count⟩

theorem Sampled.draw (h : Sampled asid n s t) : Sampled asid n s t.draw.1 :=
  ⟨h.threads, h.stores, h.mem, h.units, h.count⟩

/-- A domain whose counters of samples rise by one. -/
theorem sampled_mapDomain {f : Domain → Domain} (hu : (f (s.domain asid)).units = (s.domain asid).units)
    (hc : (f (s.domain asid)).smTail + (f (s.domain asid)).smDrop = (s.domain asid).smTail + (s.domain asid).smDrop + 1) :
    Sampled asid 1 s (s.mapDomain asid f) where
  threads := rfl
  stores := rfl
  mem := rfl
  units := by rw [State.domain_mapDomain_self, hu]
  count := by rw [State.domain_mapDomain_self, hc]

/-- A record enters the ring, or its loss is counted. -/
theorem sampled_ringWrite (s : State) (asid : Nat) (bs : List Byte) :
    Sampled asid 1 s (s.ringWrite asid false bs) := by
  unfold State.ringWrite
  simp only [Bool.false_eq_true, if_false]
  split
  · refine .raise (.sendCtl (sampled_mapDomain ?_ ?_))
    · rfl
    · exact (Nat.add_assoc ..).symm
  · refine .sendCtl (Sampled.trans (.sendOut .refl) (sampled_mapDomain ?_ ?_))
    · rfl
    · exact Nat.add_right_comm ..

/-- The sample of a thread is one record. -/
theorem sampled_sample (s : State) (asid tick tid : Nat) : Sampled asid 1 s (s.sample asid tick tid) := by
  unfold State.sample
  dsimp only
  split
  · exact sampled_ringWrite ..
  · exact Sampled.refl.draw.trans (sampled_ringWrite ..)

theorem sampled_samples (s : State) (asid tick : Nat) (ts : List Nat) :
    Sampled asid ts.length s (ts.foldl (fun s tid => s.sample asid tick tid) s) := by
  induction ts generalizing s with
  | nil => exact .refl
  | cons i ts ih =>
    rw [List.length_cons, Nat.add_comm]
    exact (sampled_sample s asid tick i).trans (ih _)

end

section
variable {s : State} {asid core : Nat}

/-- The next sampling tick of a core: the first multiple of the period after the last sampled one. -/
def State.sampleTick (s : State) (asid core : Nat) : Nat :=
  (max (s.domain asid).sampleFrom (s.unit asid core).sampled / max 1 (s.domain asid).period + 1) *
    max 1 (s.domain asid).period

/-- A core whose clock has not reached the tick is not sampled. -/
theorem pcSample_waits (h : s.coreClock core < s.sampleTick asid core) : exec (.pcSample asid core) s = .next s := by
  rw [State.sampleTick] at h
  refine congrArg Host.Outcome.next (if_pos ?_)
  simp [h]

/-- One record for each thread of the context on the core, at the tick that its clock has reached. -/
theorem pcSample_result (ha : (s.domain asid).alive = true) (hs : (s.domain asid).sampling = true)
    (hd : (s.domain asid).debug = true) (hr : (s.domain asid).running = true)
    (h : s.sampleTick asid core ≤ s.coreClock core) :
    Answers (.pcSample asid core) s fun t => t.threads = s.threads ∧ t.stores = s.stores ∧
      (t.unit asid core).sampled = s.sampleTick asid core ∧ t.mem = s.mem ∧
      (t.domain asid).smTail + (t.domain asid).smDrop = (s.domain asid).smTail + (s.domain asid).smDrop +
        s.threads.countP (fun o => o.alive && o.core = core && (s.lc o.lc).asid = asid) := by
  generalize htick : s.sampleTick asid core = tick at h ⊢
  have hdom : (s.mapUnit asid core fun u => { u with sampled := tick }).domain asid = { s.domain asid with
      units := upd {} (s.domain asid).units core fun u => { u with sampled := tick } } :=
    State.domain_mapDomain_self ..
  have hsum := sampled_samples (s.mapUnit asid core fun u => { u with sampled := tick }) asid tick
    (indices (fun o => o.alive && o.core = core && (s.lc o.lc).asid = asid) s.threads)
  have he : exec (.pcSample asid core) s = .next ((indices (fun o => o.alive && o.core = core && (s.lc o.lc).asid = asid)
      s.threads).foldl (fun s tid => s.sample asid tick tid)
      (s.mapUnit asid core fun u => { u with sampled := tick })) := by
    rw [State.sampleTick] at htick
    refine congrArg Host.Outcome.next (Eq.trans (if_neg ?_) ?_)
    · simp [ha, hs, hd, hr, htick, h]
    · rw [htick]
      rfl
  obtain ⟨hthreads, hstores, hmem, hunits, hcount⟩ := hsum
  refine ⟨_, he, hthreads, hstores, ?_, hmem, ?_⟩
  · rw [State.unit, hunits, hdom, rd_upd, if_pos rfl]
  · rw [hcount, hdom, length_indices]

end

/-! ### Clocks -/

/-- The governor sets the clock step of a die. -/
theorem clockRateChange_result {die clk : Nat} (s : State) (hd : die < 4) (hc : clk ≤ 24) :
    Answers (.clockRateChange die clk) s fun t => t = { s with dies := t.dies } ∧
      t.die die = { s.die die with clk := clk } ∧ ∀ k, k ≠ die → t.die k = s.die k := by
  refine ⟨s.mapDie die fun d => { d with clk := clk }, ?_, rfl, ?_, fun k h => ?_⟩
  · have h4 : die < Config.dies := hd
    refine congrArg Host.Outcome.next ?_
    simp [h4, hc]
  · rw [State.die_mapDie, if_pos rfl]
  · rw [State.die_mapDie, if_neg h]

/-- No other die has a clock, and no other step. -/
theorem clockRateChange_refused {die clk : Nat} (s : State) (h : ¬(die < 4 ∧ clk ≤ 24)) :
    exec (.clockRateChange die clk) s = .next s := by
  have h4 : ¬(die < Config.dies ∧ clk ≤ 24) := h
  refine congrArg Host.Outcome.next (if_neg ?_)
  simpa using h4

/-! ### Power-on reset -/

/-- Nothing is listed in device memory once its cells are dropped. -/
theorem memGet_filter_notDevice (m : List Host.Cell) {a : Nat} (h : a < 2 ^ 64) :
    memGet (m.filter fun c => !isDevice c.1) a = 0 := by
  refine memGet_below _ _ fun c hc => ?_
  have hd := (List.mem_filter.mp hc).2
  rw [isDevice, Bool.not_eq_true', decide_eq_false_iff_not] at hd
  omega

theorem powerOnReset_result (s : State) (fail : Nat) (time : Option Nat) (cores : BitVec 192) :
    Answers (.powerOnReset fail time cores) s fun t => t.domains = [] ∧ t.launches = [] ∧ t.threads = [] ∧
      t.stores = [] ∧ t.reqs = [] ∧ t.lcs = [] ∧ t.fns = [] ∧ (∀ a, a < 2 ^ 64 → memGet t.mem a = 0) ∧
      (fail = 0 ∨ 7 < fail → t.bringUp = 8 ∧ t.failed = 0 ∧ t.enabled = cores ∧ t.hclk = time.getD 0 % 2 ^ 64 ∧
        t.fwmeas = Config.fwMeas) ∧
      (1 ≤ fail → fail ≤ 7 → t.bringUp = fail ∧ t.failed = fail) := by
  refine ⟨_, rfl, rfl, rfl, rfl, rfl, rfl, rfl, rfl, fun a h => memGet_filter_notDevice s.mem h, fun h => ?_,
    fun h1 h7 => ?_⟩
  · have hstuck : (decide (1 ≤ fail) && decide (fail ≤ 7)) = false := by
      rw [Bool.and_eq_false_iff, decide_eq_false_iff_not, decide_eq_false_iff_not]
      omega
    rw [hstuck]
    exact ⟨rfl, rfl, rfl, rfl, rfl⟩
  · simp [h1, h7]

end Sys2Proof.Machine
end

section
/-! OBLIGATION. Contexts, clocks and resets (O48). -/

namespace Sys2Proof.Machine

section
variable {s : State} {asid : Nat}

/-! ### Pre-emption (R353) -/

/-- Stopping a context's threads and marking it as going to its checkpoints. -/
theorem preempt_begins (ha : (s.domain asid).alive = true) (hw : (s.domain asid).wing = false)
    (hr : (s.domain asid).running = true) (hf : s.stopFirst asid = false)
    (h : s.allStopped asid = false ∨ (s.domain asid).halting = false) :
    Answers (.contextPreempt asid) s fun t => t.mem = s.mem ∧ t.stores = s.stores ∧
      t.domain asid = { s.domain asid with halting := true } ∧ (∀ a, a ≠ asid → t.domain a = s.domain a) ∧
      ∀ i, t.thread i = if i ∈ s.ctxThreads asid then { s.thread i with stopped := true } else s.thread i := by
  have hp : s.preempt asid = (s.stopThreads asid).mapDomain asid fun d => { d with halting := true } := by
    rw [State.preempt]
    rcases h with h | h <;> simp [ha, hw, hr, hf, h]
  obtain ⟨hframe, hthread⟩ := stopEach_result s (s.ctxThreads asid)
  have hd (k : Nat) : (s.stopThreads asid).domain k = s.domain k := by
    rw [State.stopThreads, hframe]
    rfl
  refine ⟨_, rfl, ?_⟩
  rw [hp]
  refine ⟨?_, ?_, ?_, fun a hne => ?_, hthread⟩
  · show (s.stopThreads asid).mem = s.mem
    rw [State.stopThreads, hframe]
  · show (s.stopThreads asid).stores = s.stores
    rw [State.stopThreads, hframe]
  · rw [State.domain_mapDomain_self, hd]
  · rw [State.domain_mapDomain, if_neg hne, hd]

/-- A context whose accesses have not come back, or whose engines are at work, goes on being pre-empted. -/
theorem preempt_waits (hs : s.allStopped asid = true) (hh : (s.domain asid).halting = true)
    (h : s.returnsOut asid = true ∨ s.atCheckpoints asid = false) : exec (.contextPreempt asid) s = .next s := by
  refine congrArg Host.Outcome.next ?_
  rw [State.preempt]
  rcases h with h | h <;> simp [hs, hh, h]

/-- Otherwise it is saved and switched out, with its threads as they stand. -/
theorem preempt_ends (ha : (s.domain asid).alive = true) (hw : (s.domain asid).wing = false)
    (hr : (s.domain asid).running = true) (hf : s.stopFirst asid = false) (hs : s.allStopped asid = true)
    (hh : (s.domain asid).halting = true) (ho : s.returnsOut asid = false) (hc : s.atCheckpoints asid = true) :
    Answers (.contextPreempt asid) s fun t => (t.domain asid).running = false ∧ (t.domain asid).halting = false ∧
      ∀ i, (t.thread i).lanes = (s.thread i).lanes ∧ (t.thread i).w = (s.thread i).w ∧
        (t.thread i).run = (s.thread i).run ∧ (t.thread i).stopped = (s.thread i).stopped := by
  have hp : s.preempt asid = ((s.saveContext asid).takeWindows asid true).mapDomain asid fun d =>
      { d with running := false, halting := false } := by
    rw [State.preempt]
    simp [ha, hw, hr, hf, hs, hh, ho, hc]
  refine ⟨_, rfl, ?_⟩
  rw [hp]
  refine ⟨by rw [State.domain_mapDomain_self], by rw [State.domain_mapDomain_self], fun i => ?_⟩
  rw [State.thread_mapDomain, State.thread_takeWindows, (saved_saveContext s asid).thread i]
  exact ⟨rfl, rfl, rfl, rfl⟩

/-! ### Restoring (R353) and gang switches (R385) -/

/-- What restoring a context leaves. -/
theorem State.restore_frame (s : State) (asid : Nat) : s.restore asid = { s with
    cores := (s.restore asid).cores, access := (s.restore asid).access, draws := (s.restore asid).draws,
    domains := (s.restore asid).domains, threads := (s.restore asid).threads } := by
  have hback := aside_takeBack s asid (asid :: s.wingsOf asid)
  rw [State.restore]
  split
  · rfl
  dsimp only
  generalize ((asid :: s.wingsOf asid).foldl State.readStorage s).takeWindows asid false = u at hback ⊢
  split
  · rw [hback]
    rfl
  · rw [(goThreads_result _ asid).1, hback]
    rfl

/-- A context of the running gang whose places are free is restored, and its threads go on. -/
theorem restore_result (hs : s.switching = none) (ha : (s.domain asid).alive = true)
    (hw : (s.domain asid).wing = false) (hr : (s.domain asid).running = false) (hg : (s.domain asid).gang = s.gang)
    (hm : s.mayReturn asid = true) (hf : s.stopFirst asid = false) :
    Answers (.contextRestore asid) s fun t => t.mem = s.mem ∧ t.stores = s.stores ∧
      t.domain asid = { s.domain asid with running := true, sampleFrom := s.hclk } ∧
      ∀ i, t.thread i = if i ∈ s.ctxThreads asid then { s.thread i with stopped := false } else s.thread i := by
  have hu := aside_takeBack s asid (asid :: s.wingsOf asid)
  have hres : s.restore asid = ((((asid :: s.wingsOf asid).foldl State.readStorage s).takeWindows asid false).mapDomain
      asid fun d => { d with running := true, sampleFrom := s.hclk }).goThreads asid := by
    have hclk : ((asid :: s.wingsOf asid).foldl State.readStorage s).hclk = s.hclk := by rw [aside_readBack]
    rw [State.restore]
    dsimp only
    rw [hclk]
    generalize ((asid :: s.wingsOf asid).foldl State.readStorage s).takeWindows asid false = u at hu ⊢
    have hlate : (u.mapDomain asid fun d => { d with running := true, sampleFrom := s.hclk }).stopFirst asid = false := by
      rw [State.stopFirst, State.domain_mapDomain_self, hu]
      exact hf
    simp [ha, hw, hr, hg, hm, hlate]
  generalize ((asid :: s.wingsOf asid).foldl State.readStorage s).takeWindows asid false = u at hu hres
  obtain ⟨hframe, hthread⟩ :=
    goThreads_result (u.mapDomain asid fun d => { d with running := true, sampleFrom := s.hclk }) asid
  refine ⟨s.restore asid, ?_, ?_⟩
  · show execContextRestore asid s = _
    rw [execContextRestore, hs]
    rfl
  · rw [hres]
    refine ⟨?_, ?_, ?_, fun i => ?_⟩
    · rw [hframe, hu]
      rfl
    · rw [hframe, hu]
      rfl
    · rw [State.domain_goThreads, State.domain_mapDomain_self, hu]
      rfl
    · rw [hthread i, hu]
      rfl

/-- GANG_SWITCH where no switch is under way and the schedule has an entry. -/
theorem exec_gangSwitch {n g : Nat} {rest : List (Nat × Nat)} (hs : s.switching = none)
    (hq : s.schedule = (n, g) :: rest) : exec .gangSwitch s = .next (if s.hclk < n || s.hostSwitches s.gang then s
      else if s.hostSwitches g then { s with schedule := rest }
      else ({ s with schedule := rest, switching := some g }).switchStep) := by
  show execGangSwitch s = _
  rw [execGangSwitch, hs, hq]

/-- The switch to a gang where no context is switched in. -/
theorem switchStep_result {g : Nat} (hs : s.switching = some g) (hi : s.switchedIn = []) :
    s.switchStep.gang = g ∧ s.switchStep.schedule = s.schedule ∧ s.switchStep.switching = none ∧
      s.switchStep.mem = s.mem := by
  have e : s.switchStep = (indices (fun d => d.alive && !d.wing && d.gang = g) s.domains).foldl State.restore
      { s with gang := g, switching := none } := by
    rw [State.switchStep, hs]
    simp [hi]
  rw [e]
  refine List.foldlRecOn (motive := fun u : State => u.gang = g ∧ u.schedule = s.schedule ∧ u.switching = none ∧
    u.mem = s.mem) _ _ ⟨rfl, rfl, rfl, rfl⟩ fun u hu a _ => ?_
  rw [u.restore_frame a]
  exact hu

/-- A schedule entry whose time has not come stays. -/
theorem gangSwitch_waits {n g : Nat} {rest : List (Nat × Nat)} (hs : s.switching = none)
    (hq : s.schedule = (n, g) :: rest) (h : s.hclk < n) : exec .gangSwitch s = .next s := by
  rw [exec_gangSwitch hs hq, if_pos (by simp [h])]

/-- An entry that names a gang which the host alone switches is passed over. -/
theorem gangSwitch_passes {n g : Nat} {rest : List (Nat × Nat)} (hs : s.switching = none)
    (hq : s.schedule = (n, g) :: rest) (h : n ≤ s.hclk) (hnow : s.hostSwitches s.gang = false)
    (hg : s.hostSwitches g = true) : exec .gangSwitch s = .next { s with schedule := rest } := by
  rw [exec_gangSwitch hs hq, if_neg (by simp [h, hnow]), if_pos hg]

/-- An entry whose time has come names the running gang. -/
theorem gangSwitch_result {n g : Nat} {rest : List (Nat × Nat)} (hs : s.switching = none)
    (hq : s.schedule = (n, g) :: rest) (h : n ≤ s.hclk) (hnow : s.hostSwitches s.gang = false)
    (hg : s.hostSwitches g = false) (hi : s.switchedIn = []) : Answers .gangSwitch s fun t =>
      t.gang = g ∧ t.schedule = rest ∧ t.switching = none ∧ t.mem = s.mem := by
  refine ⟨_, ?_, switchStep_result (s := { s with schedule := rest, switching := some g }) rfl hi⟩
  rw [exec_gangSwitch hs hq, if_neg (by simp [h, hnow]), if_neg (by simp [hg])]

end

/-- Settles O48: pre-emption, restoring, gang schedules, debug stops, samples, clocks and resets, each by the lemma
above that says what its step does. -/
theorem contextAndResetSteps : Obligations.ContextAndResetSteps := by
  intro s asid core die clk fn fail time cores
  dsimp only
  refine ⟨fun ha hw hr hf => ⟨preempt_begins ha hw hr hf, preempt_waits, preempt_ends ha hw hr hf⟩, restore_result,
    fun n g rest hs hq => ⟨gangSwitch_waits hs hq, gangSwitch_passes hs hq, gangSwitch_result hs hq⟩,
    fun ha hst hr => ?_, fun ha hs hd hr => ⟨pcSample_waits, fun h => ?_⟩, clockRateChange_result s,
    clockRateChange_refused s, powerOnReset_result s fail time cores, functionLevelReset_result fn⟩
  · have hd : (s.domain asid).stopsOn := ⟨ha, hst, hr⟩
    refine ⟨fun j hj => ?_, fun hn => debugStop_waits hd (State.dueToStop_eq_nil hn), fun hn hh hc ho => ?_⟩
    · obtain ⟨t, he, hmem, hstores, hthread, hstop, hclk⟩ := debugStop_due hd (State.mem_dueToStop.mpr hj)
      refine ⟨t, he, hmem, hstores, fun i hi => ?_, fun i hi => ?_, hstop, hclk⟩
      · rw [hthread, if_pos (State.mem_dueToStop.mpr hi)]
      · rw [hthread, if_neg fun h => hi (State.mem_dueToStop.mp h)]
    · have hnil := State.dueToStop_eq_nil hn
      exact ⟨debugStop_halts hd hnil hh hc ho, debugStop_scanWaits hd hnil hh hc ho, debugStop_ends hd hnil hh hc ho⟩
  · obtain ⟨t, he, hthreads, hstores, hsampled, hmem, hcount⟩ := pcSample_result ha hs hd hr h
    exact ⟨t, he, hthreads, hstores, hsampled, fun _ => hmem, hcount⟩

end Sys2Proof.Machine
end

section
/-! OBLIGATION. Casts (O16). -/

namespace Sys2Proof.Machine

/-! ### Reading casts -/

/-- A cast after one is replaced. -/
theorem State.castOf_mapCast (s : State) (n m j k : Nat) (f : Cast → Cast) :
    (s.mapCast n m f).castOf j k = if j = n ∧ k = m then f (s.castOf n m) else s.castOf j k := by
  simp only [State.castOf, State.mapCast, State.lc_mapLC]
  by_cases h : j = n
  · subst h; simp [rd_upd]
  · simp [h]

@[simp] theorem State.castOf_mapCast_same (s : State) (n m : Nat) (f : Cast → Cast) :
    (s.mapCast n m f).castOf n m = f (s.castOf n m) := by simp [State.castOf_mapCast]

@[simp] theorem State.castOf_mapThread (s : State) (i n m : Nat) (f : Thread → Thread) :
    (s.mapThread i f).castOf n m = s.castOf n m := rfl

@[simp] theorem State.castOf_mapMe (s : State) (n m : Nat) (f : Thread → Thread) :
    (s.mapMe f).castOf n m = s.castOf n m := rfl

@[simp] theorem State.thread_mapCast (s : State) (n m i : Nat) (f : Cast → Cast) :
    (s.mapCast n m f).thread i = s.thread i := rfl

@[simp] theorem State.me_mapCast (s : State) (n m : Nat) (f : Cast → Cast) : (s.mapCast n m f).me = s.me := rfl

/-- A cast whose open phase completes when all have arrived (R165). -/
def Cast.checked (c : Cast) : Cast :=
  if c.open_ = true ∧ c.arrived = c.target then { c with phase := c.phase + 1, open_ := false, target := 0, arrived := 0 }
  else c

theorem State.castCheck_eq (s : State) (n m : Nat) : s.castCheck n m = s.mapCast n m Cast.checked := rfl

/-! ### What a word of a cast leaves alone -/

/-- Nothing differs but one thread and one cast of a launch-on-core. -/
def OnlyCast (tid lc m : Nat) (s t : State) : Prop :=
  t = { s with threads := t.threads, lcs := t.lcs } ∧
  (∀ k, k ≠ tid → t.thread k = s.thread k) ∧ (∀ k, k ≠ lc → t.lc k = s.lc k) ∧
  t.lc lc = { s.lc lc with casts := (t.lc lc).casts } ∧ ∀ k, k ≠ m → t.castOf lc k = s.castOf lc k

section
variable {tid lc m : Nat} {s t : State}

theorem OnlyCast.refl : OnlyCast tid lc m s s := ⟨rfl, fun _ _ => rfl, fun _ _ => rfl, rfl, fun _ _ => rfl⟩

theorem OnlyCast.mapThread (h : OnlyCast tid lc m s t) (f : Thread → Thread) :
    OnlyCast tid lc m s (t.mapThread tid f) := by
  obtain ⟨hs, ht, hl, hc, ho⟩ := h
  refine ⟨by rw [hs]; rfl, fun k hk => ?_, hl, hc, ho⟩
  rw [State.thread_mapThread, if_neg hk, ht k hk]

theorem OnlyCast.mapCast (h : OnlyCast tid lc m s t) (f : Cast → Cast) : OnlyCast tid lc m s (t.mapCast lc m f) := by
  obtain ⟨hs, ht, hl, hc, ho⟩ := h
  refine ⟨by rw [hs]; rfl, ht, fun k hk => ?_, ?_, fun k hk => ?_⟩
  · rw [State.mapCast, State.lc_mapLC, if_neg hk, hl k hk]
  · rw [State.mapCast, State.lc_mapLC, if_pos rfl, hc]
  · rw [State.castOf_mapCast, if_neg fun e => hk e.2, ho k hk]

end

/-! ### Waits -/

/-- A word whose wait is over goes on. -/
theorem State.await_over {s : State} {w : Wait} {eff : State → State} (h : s.waitOver s.cur.tid w = true) :
    s.await w eff = eff s := if_pos h

/-- A word whose wait is not over blocks its run. -/
theorem State.await_blocks {s : State} {w : Wait} {eff : State → State} (h : ¬ s.waitOver s.cur.tid w = true) :
    s.await w eff = s.block w := if_neg h

/-- A wait for a phase of a cast is over when the phase has completed (R167). -/
theorem State.await_phase (s : State) (n ph : Nat) (eff : State → State) :
    s.await (.phase n ph) eff = if (s.castOf s.me.lc n).phase > ph then eff s else s.block (.phase n ph) := by
  simp only [State.await, State.waitOver, decide_eq_true_eq]
  rfl

/-! ### Leaving a cast -/

/-- Some thread has a property that no absent thread has: the list of the threads holds one. -/
theorem State.any_threads (s : State) {p : Thread → Bool} (h : p {} = false) :
    s.threads.any p = true ↔ ∃ k, p (s.thread k) = true := by
  unfold State.thread
  induction s.threads with
  | nil =>
    simp only [List.any_nil, rd_nil, Bool.false_eq_true, false_iff, not_exists, Bool.not_eq_true]
    exact fun _ => h
  | cons x xs ih =>
    rw [List.any_cons, Bool.or_eq_true, ih]
    constructor
    · rintro (hx | ⟨k, hk⟩)
      · exact ⟨0, hx⟩
      · exact ⟨k + 1, hk⟩
    · rintro ⟨_ | k, hk⟩
      · exact .inl hk
      · exact .inr ⟨k, hk⟩

/-- A cast whose open phase no longer counts the lanes of a member that leaves: `gone` of its target, `back` of its
arrivals, where the member counts in the phase (R45). -/
def Cast.without (c : Cast) (joinph gone back : Nat) : Cast :=
  if c.open_ = true ∧ joinph ≤ c.phase then { c with target := c.target - gone, arrived := c.arrived - back } else c

section
variable {s : State} {tid m : Nat} (hc : (s.thread tid).cast = some m)
include hc

/-- What the cast of a thread becomes when its participating lanes no longer count in it. -/
theorem State.castOf_castDrop : (s.castDrop tid (s.thread tid).participating).castOf (s.thread tid).lc m =
    ((s.castOf (s.thread tid).lc m).without (s.thread tid).joinph (popMask (s.thread tid).participating)
      (if (s.thread tid).lastph = some (s.castOf (s.thread tid).lc m).phase then
        popMask ((s.thread tid).participating &&& (s.thread tid).lanesWith fun L => L.arrived) else 0)).checked := by
  have h0 : popMask 0 = 0 := rfl
  simp only [State.castDrop, hc, State.castCheck_eq, State.castOf_mapCast_same, BitVec.and_self, Cast.without,
    apply_ite popMask, h0]
  split
  · rw [State.castOf_mapCast_same]
  · rfl

theorem State.onlyCast_castDrop (lanes : Mask) : OnlyCast tid (s.thread tid).lc m s (s.castDrop tid lanes) := by
  simp only [State.castDrop, hc, State.castCheck_eq]
  split
  · exact (OnlyCast.refl.mapCast _).mapCast _
  · exact OnlyCast.refl.mapCast _

theorem State.thread_castDrop (lanes : Mask) (k : Nat) : (s.castDrop tid lanes).thread k = s.thread k := by
  simp only [State.castDrop, hc, State.castCheck_eq]
  split <;> rfl

end

/-- A thread that has left its cast, with no lane arrived in it. -/
def Thread.uncast (t : Thread) : Thread :=
  { (t.mapLanes fun _ L => { L with arrived := false }) with cast := none, lastph := none }

theorem State.me_uncast {s : State} {m : Nat} (hc : s.me.cast = some m) (lanes : Mask) :
    ((s.castDrop s.cur.tid lanes).mapThread s.cur.tid Thread.uncast).me = s.me.uncast := by
  have hcur : (s.castDrop s.cur.tid lanes).cur = s.cur := by rw [(State.onlyCast_castDrop hc lanes).1]
  rw [State.me, State.cur_mapThread, hcur, State.thread_mapThread, if_pos rfl, State.thread_castDrop hc]
  rfl

theorem State.leaveCast_eq {s : State} {tid m : Nat} (hc : (s.thread tid).cast = some m) :
    let u := (s.castDrop tid (s.thread tid).participating).mapThread tid Thread.uncast
    s.leaveCast tid = if u.threads.any fun x => x.inCast (s.thread tid).lc m then u
      else u.mapCast (s.thread tid).lc m fun _ => {} := by
  simp only [State.leaveCast, hc]
  rfl

/-- After a member has left, the others are the threads that were in the cast beside it. -/
theorem State.any_inCast_uncast {s : State} {tid m : Nat} (hc : (s.thread tid).cast = some m) (lanes : Mask) (lc n : Nat) :
    ((s.castDrop tid lanes).mapThread tid Thread.uncast).threads.any (fun x => x.inCast lc n) = true ↔
      ∃ k, k ≠ tid ∧ (s.thread k).inCast lc n = true := by
  rw [State.any_threads _ (by rfl)]
  refine exists_congr fun k => ?_
  rw [State.thread_mapThread, State.thread_castDrop hc, State.thread_castDrop hc]
  by_cases hk : k = tid
  · simp [hk, Thread.inCast, Thread.uncast]
  · simp [hk]

/-! ### The words -/

/-- Outside a callee and a body, with no region open on its cast, a word of a cast has its effect. -/
theorem State.castWord_top {s : State} {c : Option Nat} {eff : State → State} (ht : s.Top) (hm : s.cur.mask ≠ 0)
    (hr : (c.any fun m => s.regionOn m) = false) : s.castWord c eff = eff s := by
  rw [State.castWord, s.uniform_top _ _ _ ht hm, if_neg (by simp [hr])]

theorem answers_castWord_top {i : Instr} {s : State} {c : Option Nat} {eff : State → State} {p : State → Prop}
    (h : exec i s = .next (s.castWord c eff)) (ht : s.Top) (hm : s.cur.mask ≠ 0)
    (hr : (c.any fun m => s.regionOn m) = false) (e : p (eff s)) : Answers i s p :=
  ⟨_, h, by rw [State.castWord_top ht hm hr]; exact e⟩

/-- A cast with its next phase opened, where none is open (R165). -/
def Cast.opened (c : Cast) (count : Nat) : Cast :=
  if c.open_ then c else { c with open_ := true, target := count, arrived := 0 }

/-- What an arrival does: the cast counts the lanes of Active() in its open phase, opening one if none is, and the wave
keeps which of its lanes have arrived in it (R165, R167). -/
def Arrived (s : State) (m : Nat) (t : State) : Prop :=
  OnlyCast s.cur.tid s.me.lc m s t ∧
  t.castOf s.me.lc m =
    Cast.checked { (s.castOf s.me.lc m).opened (s.castCount s.me.lc m) with
      arrived := (if (s.castOf s.me.lc m).open_ then (s.castOf s.me.lc m).arrived else 0) + popMask s.cur.mask } ∧
  t.me = { s.me with lanes := t.me.lanes, lastph := some (s.castOf s.me.lc m).phase } ∧
  ∀ l, l < 32 → t.me.lane l = { s.me.lane l with
    arrived := s.cur.mask.getLsbD l ||
      (decide (s.me.lastph = some (s.castOf s.me.lc m).phase) && (s.me.lane l).arrived) }

/-- A thread with the lanes `act` arrived in phase `ph`, and those that had arrived before where it is `again` the
same phase. -/
def Thread.arriving (t : Thread) (act : Mask) (ph : Nat) (again : Bool) : Thread :=
  { (t.mapLanes fun l L => { L with arrived := act.getLsbD l || (again && L.arrived) }) with lastph := some ph }

theorem Thread.lane_arriving (t : Thread) (act : Mask) (ph l : Nat) (again : Bool) (h : l < 32) :
    (t.arriving act ph again).lane l = { t.lane l with arrived := act.getLsbD l || (again && (t.lane l).arrived) } :=
  t.lane_mapLanes (fun l L => { L with arrived := act.getLsbD l || (again && L.arrived) }) l h

/-- A state in which the open phase of cast m of a launch-on-core counts the lanes of Active(). -/
def State.counted (s : State) (lc m : Nat) : State :=
  (if (s.castOf lc m).open_ then s else s.mapCast lc m fun c =>
    { c with open_ := true, target := s.castCount lc m, arrived := 0 }).mapCast lc m fun c =>
      { c with arrived := c.arrived + popMask s.cur.mask }

theorem State.recordArrival_eq (s : State) (m : Nat) :
    let lc := s.cur.old.lc
    let ph := (s.castOf lc m).phase
    s.recordArrival m = (((s.counted lc m).mapMe fun t => t.arriving s.cur.mask ph
      (decide (s.cur.old.lastph = some ph))).castCheck lc m, ph) := by
  unfold State.recordArrival State.counted
  by_cases ho : (s.castOf s.cur.old.lc m).open_ = true
  · simp only [ho, if_true]
    rfl
  · simp only [ho]
    rfl

section
variable (s : State) (lc m : Nat)

theorem State.cur_counted : (s.counted lc m).cur = s.cur := by
  unfold State.counted; split <;> rfl

theorem State.me_counted : (s.counted lc m).me = s.me := by
  unfold State.counted; split <;> rfl

theorem State.onlyCast_counted (tid : Nat) : OnlyCast tid lc m s (s.counted lc m) := by
  unfold State.counted
  split
  · exact OnlyCast.refl.mapCast _
  · exact (OnlyCast.refl.mapCast _).mapCast _

theorem State.castOf_counted : (s.counted lc m).castOf lc m =
    { (s.castOf lc m).opened (s.castCount lc m) with
      arrived := (if (s.castOf lc m).open_ then (s.castOf lc m).arrived else 0) + popMask s.cur.mask } := by
  unfold State.counted Cast.opened
  by_cases ho : (s.castOf lc m).open_ = true
  · rw [if_pos ho, if_pos ho, if_pos ho, State.castOf_mapCast_same]
  · rw [if_neg ho, if_neg ho, if_neg ho, State.castOf_mapCast_same, State.castOf_mapCast_same]

end

theorem State.recordArrival_result {s : State} (he : s.me = s.cur.old) (m : Nat) :
    Arrived s m (s.recordArrival m).1 ∧ (s.recordArrival m).2 = (s.castOf s.me.lc m).phase := by
  rw [State.recordArrival_eq, ← he, State.castCheck_eq]
  refine ⟨⟨?_, ?_, ?_, fun l hl => ?_⟩, rfl⟩
  · rw [State.mapMe, State.cur_counted]
    exact (State.onlyCast_counted ..).mapThread _ |>.mapCast _
  · rw [State.castOf_mapCast_same, State.castOf_mapMe, State.castOf_counted]
  · rw [State.me_mapCast, State.me_mapMe, State.me_counted]
    rfl
  · rw [State.me_mapCast, State.me_mapMe, State.me_counted, Thread.lane_arriving _ _ _ _ _ hl]

section
variable {s : State} {m : BitVec 4} (ht : s.Top) (hm : s.cur.mask ≠ 0) (he : s.me = s.cur.old)
  (hr : s.regionOn m.toNat = false)
include ht hm he hr

theorem join_result (hc : s.me.cast = none) : Answers (.join m) s fun t =>
    OnlyCast s.cur.tid s.me.lc m.toNat s t ∧
    t.castOf s.me.lc m.toNat = { s.castOf s.me.lc m.toNat with exist := true } ∧
    t.me = { s.me with
      cast := some m.toNat, lastph := none
      joinph := if (s.castOf s.me.lc m.toNat).open_ then (s.castOf s.me.lc m.toNat).phase + 1
        else (s.castOf s.me.lc m.toNat).phase } := by
  refine answers_castWord_top (c := some m.toNat) rfl ht hm (by simpa using hr) ?_
  simp only [← he, hc, Option.isSome_none, Bool.false_eq_true, if_false]
  exact ⟨(OnlyCast.refl.mapCast _).mapThread _, by simp, by simp⟩

omit ht hm hr in
/-- A word that arrives at its cast, which may go on, records its arrival. -/
theorem State.arrive_free (done : State → Nat → State) (n : Nat) (hc : s.me.cast = some n)
    (hj : ¬ ((s.castOf s.me.lc n).open_ = true ∧ s.me.joinph > (s.castOf s.me.lc n).phase))
    (hf : s.fenceOver s.cur.tid .core = true)
    (ha : ¬ ((s.castOf s.me.lc n).open_ = true ∧ s.me.lastph = some (s.castOf s.me.lc n).phase ∧
      ∃ l, l < 32 ∧ s.cur.mask.getLsbD l = true ∧ (s.me.lane l).arrived = true)) :
    s.arrive n done = done (s.recordArrival n).1 (s.castOf s.me.lc n).phase := by
  have hw : s.waitOver s.cur.tid (.joined n) = true := by
    change (!((s.castOf s.me.lc n).open_ && decide (s.me.joinph > (s.castOf s.me.lc n).phase))) = true
    simpa [← Bool.not_eq_true, ← imp_iff_not_or] using hj
  have hw' : s.waitOver s.cur.tid (.fence .core) = true := hf
  have hmine : ¬ ((s.castOf s.me.lc n).open_ && decide (s.me.lastph = some (s.castOf s.me.lc n).phase) &&
      decide ((s.me.lanesWith fun L => L.arrived) &&& s.cur.mask ≠ 0)) = true := by
    intro h
    simp only [Bool.and_eq_true, decide_eq_true_eq] at h
    obtain ⟨⟨ho, hl⟩, hne⟩ := h
    refine ha ⟨ho, hl, ?_⟩
    by_contra hno
    refine hne (BitVec.eq_of_getLsbD_eq fun l hl => ?_)
    rw [BitVec.getLsbD_and, Thread.lanesWith, getLsbD_maskOf]
    by_cases hb : s.cur.mask.getLsbD l = true
    · simp only [Bool.not_eq_true, not_exists, not_and] at hno
      simp [hno l hl hb]
    · simp [hb]
  unfold State.arrive
  rw [← he, if_neg (by simp [hc]), State.await_over hw, State.await_over hw', if_neg hmine]
  obtain ⟨-, h2⟩ := State.recordArrival_result he n
  rw [← h2]

theorem leave_result (hc : s.me.cast = some m.toNat) : Answers .leave s fun t =>
    OnlyCast s.cur.tid s.me.lc m.toNat s t ∧ t.me.cast = none ∧ t.me.lastph = none ∧
    ((∃ k, k ≠ s.cur.tid ∧ (s.thread k).inCast s.me.lc m.toNat = true) → t.castOf s.me.lc m.toNat =
      ((s.castOf s.me.lc m.toNat).without s.me.joinph (popMask s.me.participating)
        (if s.me.lastph = some (s.castOf s.me.lc m.toNat).phase then
          popMask (s.me.participating &&& s.me.lanesWith fun L => L.arrived) else 0)).checked) ∧
    ((¬ ∃ k, k ≠ s.cur.tid ∧ (s.thread k).inCast s.me.lc m.toNat = true) → t.castOf s.me.lc m.toNat = {}) := by
  refine answers_castWord_top (c := s.cur.old.cast) rfl ht hm (by simpa [← he, hc] using hr) ?_
  have hu : OnlyCast s.cur.tid s.me.lc m.toNat s
      ((s.castDrop s.cur.tid s.me.participating).mapThread s.cur.tid Thread.uncast) :=
    (State.onlyCast_castDrop hc _).mapThread _
  have hme := State.me_uncast hc s.me.participating
  rw [← he, if_neg (by simp [hc]), State.leaveCast_eq hc]
  simp only [show s.thread s.cur.tid = s.me from rfl]
  split
  next hany =>
    refine ⟨hu, by rw [hme]; rfl, by rw [hme]; rfl, fun _ => State.castOf_castDrop hc, fun hno => ?_⟩
    exact absurd ((State.any_inCast_uncast hc _ _ _).mp hany) hno
  next hany =>
    refine ⟨hu.mapCast _, by rw [State.me_mapCast, hme]; rfl, by rw [State.me_mapCast, hme]; rfl, fun hsome => ?_,
      fun _ => State.castOf_mapCast_same ..⟩
    exact absurd ((State.any_inCast_uncast hc _ _ _).mpr hsome) hany

theorem waitb_result (hc : s.me.cast = some m.toNat) : Answers (.waitb m) s fun t =>
    match s.me.lastph with
    | none => t = s
    | some ph => t = if (s.castOf s.me.lc m.toNat).phase > ph then s else s.block (.phase m.toNat ph) := by
  refine answers_castWord_top (c := some m.toNat) rfl ht hm (by simpa using hr) ?_
  rw [← he, if_neg (by simp [hc])]
  cases s.me.lastph with
  | none => rfl
  | some ph => exact s.await_phase m.toNat ph id

theorem barw_again_result {n ph : Nat} (hb : s.me.inBarw = some (n, ph)) : Answers (.barw m) s fun t =>
    t = if (s.castOf s.me.lc n).phase > ph then s else s.block (.phase n ph) := by
  refine answers_castWord_top (c := some m.toNat) rfl ht hm (by simpa using hr) ?_
  rw [← he, hb]
  exact s.await_phase n ph id

end

theorem castq_result {s : State} (d : UReg) (m : BitVec 4) (ht : s.Top) (hm : s.cur.mask ≠ 0) (he : s.me = s.cur.old) :
    let c := s.castOf s.me.lc m.toNat
    Answers (.castq d m) s fun t => UniResult s t d
      (if c.exist then BitVec.ofNat 64 ((s.threads.filter fun x => x.inCast s.me.lc m.toNat).length +
          (if c.open_ then 2 ^ 7 + 2 ^ 8 * c.target + 2 ^ 20 * c.arrived else 0) + 2 ^ 32 * (c.phase % 2 ^ 32))
       else 0) :=
  answers_uniform_top rfl ht hm (by rw [he]; exact s.setU_result _ _)

/-- Settles O16, a lemma for each word; the words that arrive through what a recorded arrival does. -/
theorem castResults : Obligations.CastResults := by
  unfold Obligations.CastResults
  intro s m d ht hm he hr me c done others arrived free
  have harr (k : State → Nat → State) (hf : free) :
      ∃ u, arrived u ∧ s.arrive m.toNat k = k u c.phase := by
    obtain ⟨hc, hj, hfence, ha⟩ := hf
    refine ⟨_, (State.recordArrival_result he m.toNat).1, State.arrive_free he k m.toNat hc hj hfence ha⟩
  refine ⟨join_result ht hm he hr, leave_result ht hm he hr, fun hf => ?_, fun hf hb => ?_,
    fun n ph hb => barw_again_result ht hm he hr hb, waitb_result ht hm he hr, castq_result d m ht hm he⟩
  · obtain ⟨u, hu, heq⟩ := harr (fun s _ => s) hf
    exact answers_castWord_top (c := some m.toNat) rfl ht hm (by simpa using hr) (heq ▸ hu)
  · obtain ⟨u, hu, heq⟩ := harr (fun s ph =>
      (s.mapMe fun t => { t with inBarw := some (m.toNat, ph) }).await (.phase m.toNat ph) id) hf
    refine answers_castWord_top (c := some m.toNat) rfl ht hm (by simpa using hr) ⟨u, _, hu, rfl, ?_⟩
    rw [← he, hb]
    refine heq.trans ?_
    have hlc : u.me.lc = s.me.lc := by rw [hu.2.2.1]
    rw [State.await_phase, State.castOf_mapMe, State.me_mapMe]
    change (if (u.castOf u.me.lc m.toNat).phase > c.phase then _ else _) = _
    rw [hlc]
    rfl

end Sys2Proof.Machine
end

section
/-! SUPPORT. What a wave hands to the dispatcher of its die and what becomes of it: what writing windows back leaves
alone, and the placing of a child (R50 to R52, R103, R254). -/

namespace Sys2Proof.Machine

/-! ### Writing windows back -/

/-- Nothing differs but stores, threads, what domains count and what launches-on-cores hold. -/
def StoresSent (s t : State) : Prop :=
  t = { s with stores := t.stores, threads := t.threads, domains := t.domains, lcs := t.lcs }

section
variable {s t : State}

theorem StoresSent.refl (s : State) : StoresSent s s := rfl

theorem StoresSent.trans {u : State} (h : StoresSent s t) (k : StoresSent t u) : StoresSent s u := by
  rw [StoresSent, k, h]

theorem StoresSent.ite {c : Prop} [Decidable c] {u : State} (ht : StoresSent s t) (hu : StoresSent s u) :
    StoresSent s (if c then t else u) := by
  split
  · exact ht
  · exact hu

theorem StoresSent.foldl {α : Type} {f : State → α → State} {l : List α} (h : StoresSent s t)
    (hf : ∀ u x, StoresSent u (f u x)) : StoresSent s (l.foldl f t) :=
  List.foldlRecOn l f h fun u hu x _ => hu.trans (hf u x)

theorem storesSent_mapThread (s : State) (i : Nat) (f : Thread → Thread) : StoresSent s (s.mapThread i f) := rfl

theorem storesSent_mapLC (s : State) (n : Nat) (f : LC → LC) : StoresSent s (s.mapLC n f) := rfl

theorem storesSent_count (s : State) (asid core event n : Nat) : StoresSent s (s.count asid core event n) :=
  .ite (.refl s) rfl

theorem storesSent_countBy (s : State) (tid event n : Nat) : StoresSent s (s.countBy tid event n) :=
  .ite (storesSent_count ..) (.refl s)

theorem storesSent_enqueue (s : State) (x : Store) : StoresSent s (s.enqueue x) := by
  have hq : StoresSent s { s with stores := s.stores ++ [{ x with live := true }] } := rfl
  unfold State.enqueue
  refine .ite ?_ hq
  split
  · exact hq.trans (storesSent_countBy ..)
  · exact hq.trans (storesSent_count ..)

theorem storesSent_writeBackEntry (s : State) (lc n : Nat) (e : WinEntry) (tids : List Nat) :
    StoresSent s (s.writeBackEntry lc n e tids) := by
  unfold State.writeBackEntry
  refine .ite (.refl s) ?_
  split
  · exact .refl s
  · exact storesSent_enqueue ..

theorem storesSent_writeBack (s : State) (lc n : Nat) (p : WinEntry → Bool) (keep : Bool) (tids : List Nat) :
    StoresSent s (s.writeBack lc n p keep tids) := by
  have hw : StoresSent s (((s.window lc n).entries.filter p).foldl (fun s e => s.writeBackEntry lc n e tids) s) :=
    (StoresSent.refl s).foldl fun u e => storesSent_writeBackEntry u lc n e tids
  exact .ite (hw.trans (storesSent_mapLC ..)) (hw.trans (storesSent_mapLC ..))

/-- A fence's write-back of the windows that a thread has written. -/
theorem storesSent_flushDirty (s : State) (tid : Nat) : StoresSent s (s.flushDirty tid) := by
  unfold State.flushDirty
  refine StoresSent.trans ?_ (storesSent_mapThread ..)
  exact (StoresSent.refl s).foldl fun u x => storesSent_writeBack ..

theorem StoresSent.cur (h : StoresSent s t) : t.cur = s.cur := by rw [h]

theorem StoresSent.die (h : StoresSent s t) (n : Nat) : t.die n = s.die n := by rw [h]; rfl

end

/-! ### Reads of the device itself -/

/-- Nothing differs but what domains hold, counts of accesses, and what waits to go out to the host. -/
def HomesRead (s t : State) : Prop := t = { s with domains := t.domains, access := t.access, outbox := t.outbox }

section
variable {s t : State}

theorem HomesRead.refl (s : State) : HomesRead s s := rfl

theorem HomesRead.trans {u : State} (h : HomesRead s t) (k : HomesRead t u) : HomesRead s u := by
  rw [HomesRead, k, h]

theorem HomesRead.ite {c : Prop} [Decidable c] {u : State} (ht : HomesRead s t) (hu : HomesRead s u) :
    HomesRead s (if c then t else u) := by
  split
  · exact ht
  · exact hu

theorem HomesRead.foldl {α : Type} {f : State → α → State} {l : List α} (h : HomesRead s t)
    (hf : ∀ u x, HomesRead u (f u x)) :
    HomesRead s (l.foldl f t) :=
  List.foldlRecOn l f h fun u hu x _ => hu.trans (hf u x)

theorem homesRead_mapDomain (s : State) (n : Nat) (f : Domain → Domain) : HomesRead s (s.mapDomain n f) := rfl

theorem homesRead_sendOut (s : State) (p : Nat) (bs : List Byte) : HomesRead s (s.sendOut p bs) := rfl

theorem homesRead_ensureMapped (s : State) (dom va : Nat) : HomesRead s (s.ensureMapped dom va) := by
  unfold State.ensureMapped
  exact .ite (((homesRead_sendOut ..).trans (homesRead_sendOut ..)).trans (homesRead_mapDomain ..)) (.refl s)

theorem homesRead_missEntry (s : State) (dom va core : Nat) (k : Acc) : HomesRead s (s.missEntry dom va core k) :=
  homesRead_mapDomain ..

theorem homesRead_countAccess (s : State) (dom va p : Nat) : HomesRead s (s.countAccess dom va p) := by
  have hf : s.useFound dom va = _ := (useFound_result s dom va).1.1
  unfold State.countAccess
  rw [hf]
  rfl

theorem homesRead_countLines (s : State) (dom va n : Nat) : HomesRead s (s.countLines dom va n) := by
  refine (HomesRead.refl s).foldl fun u k => ?_
  split
  · exact homesRead_countAccess ..
  · exact .refl u

theorem homesRead_askPage (s : State) (asid va : Nat) (k : Acc) : HomesRead s (s.askPage asid va k).1 := by
  unfold State.askPage
  refine (homesRead_ensureMapped s asid va).trans ?_
  dsimp only
  split
  · exact .refl _
  · exact (homesRead_missEntry ..).trans (homesRead_mapDomain ..)

theorem homesRead_askBytes (s : State) (asid va n : Nat) (k : Acc) : HomesRead s (s.askBytes asid va n k).1 := by
  have h := homesRead_askPage s asid va k
  unfold State.askBytes
  generalize s.askPage asid va k = p at h
  obtain ⟨u, b⟩ := p
  cases b with
  | true => exact h
  | false => exact h.trans (homesRead_askPage ..)

theorem homesRead_readTail (s : State) (asid n : Nat) : HomesRead s (s.readTail asid n) := by
  unfold State.readTail
  split
  next w _ =>
    have h := homesRead_askBytes s asid w.block 64 .load
    generalize s.askBytes asid w.block 64 = p at h
    obtain ⟨u, b⟩ := p
    refine h.trans ?_
    cases b with
    | true => exact homesRead_mapDomain ..
    | false =>
      refine HomesRead.ite (homesRead_mapDomain ..) ?_
      exact ((homesRead_countLines ..).trans (homesRead_mapDomain ..)).trans (homesRead_mapDomain ..)
  next => exact .refl s

end

/-! ### Placing a child -/

/-- The launch-on-core that a launch brings to a core. -/
def Launch.onCore (l : Launch) (n core logcore wave0 : Nat) : LC :=
  { launch := n, core := core, logcore := logcore, asid := l.asid, live := true, nextWave := wave0, queues := newQueues l }

/-- A launch that comes to a core brings a launch-on-core there, and reads the TAIL of the queues bound to it. -/
theorem State.addLC_result (s : State) (n : Nat) (l : Launch) (core logcore wave0 : Nat) :
    HomesRead { s with lcs := s.lcs ++ [l.onCore n core logcore wave0] } (s.addLC n l core logcore wave0) := by
  unfold State.addLC
  refine .foldl ?_ fun u x => homesRead_readTail ..
  split
  · exact .refl _
  · rfl

/-- A thread is added to a state that has the threads of another, and its launch-on-core may count it. -/
theorem State.threads_addThread {s v : State} (hv : v.threads = s.threads) (y : Thread) (p : Prop) [Decidable p]
    (lc : Nat) (f : LC → LC) :
    (if p then v.addThread y else (v.addThread y).mapLC lc f).threads = s.threads ++ [y] := by
  rw [apply_ite State.threads, State.threads_mapLC, ite_self, State.addThread, hv]

/-- A child that is placed becomes the newest thread. -/
theorem State.placeChild_result {s u : State} {c : Child} (h : s.placeChild c = some u) :
    ∃ y, u.threads = s.threads ++ [y] ∧ y.kind = .child ∧ y.depth = c.depth := by
  dsimp only [State.placeChild] at h
  split at h
  next => cases h
  next l _ =>
    split at h
    next => cases h
    next =>
      split at h
      next => cases h
      next core _ =>
        rw [Option.some.injEq] at h
        have hadd : ∀ b : Bool, (if b then s else s.addLC (s.lc c.lc).launch l core core
            (s.nextWaveOn (s.lc c.lc).launch core)).threads = s.threads := fun b => by
          cases b
          · rw [if_neg Bool.false_ne_true, State.addLC_result]
          · rfl
        subst h
        exact ⟨_, State.threads_addThread (hadd _) .., rfl, rfl⟩

/-- A die whose bin has a turn keeps it. -/
theorem Die.turnOver_of_turn {d : Die} {c : Child} {rest : List Child} (h : d.turn = c :: rest) : d.turnOver = d := by
  simp [Die.turnOver, h]

/-- The dispatcher places the next child of its bin's turn, where that child's domain lets it start (R51). -/
theorem exec_childPlace_turn {s u : State} {die : Nat} {c : Child} {rest : List Child}
    (hturn : (s.die die).turn = c :: rest) (hstarts : (s.domain (s.lc c.lc).asid).starts = true)
    (hu : (s.mapDie die Die.turnOver).placeChild c = some u) :
    exec (.childPlace die) s = .next (u.mapDie die fun d => { d with turn := d.turn.erase c }) := by
  have hd : ((s.mapDie die Die.turnOver).die die).turn = c :: rest := by
    rw [State.die_mapDie, if_pos rfl, Die.turnOver_of_turn hturn, hturn]
  change execChildPlace die s = _
  unfold execChildPlace
  simp only [hd, List.find?_cons_of_pos (p := fun c : Child => (s.domain (s.lc c.lc).asid).starts) hstarts,
    Option.bind_some, hu, Option.map_some]

end Sys2Proof.Machine
end

section
/-! OBLIGATION. Task words (O26). -/

namespace Sys2Proof.Machine

/-! ### Fields and pages -/

/-- The field above the low n bits of a register pair is 0 exactly where the number is below 2^n. -/
theorem fld_high_eq_zero (x : Dword) {n : Nat} (hn : n ≤ 63) : fld x 63 n = 0 ↔ x.toNat < 2 ^ n := by
  have hx : x.toNat >>> n < 2 ^ (63 + 1 - n) := by
    rw [Nat.shiftRight_eq_div_pow, Nat.div_lt_iff_lt_mul (Nat.two_pow_pos n), ← Nat.pow_add]
    convert x.isLt using 2
    omega
  rw [fld, Nat.mod_eq_of_lt hx, Nat.shiftRight_eq_div_pow, Nat.div_eq_zero_iff]
  simp

/-- A page that is there is neither mapped from the reserve pool nor waited for (R220, R375). -/
theorem State.ensureMapped_of_page {s : State} {dom va : Nat} (h : ((s.domain dom).page va).isSome = true) :
    s.ensureMapped dom va = s := by
  unfold State.ensureMapped
  rw [if_neg]
  simp [Option.ne_none_iff_isSome.mpr h]

/-- A word whose pages are there waits for none of them. -/
theorem State.awaitPages_of_pages {s : State} {dom : Nat} {k : Acc} {eff : State → State} {vas : List Nat}
    (h : ∀ va ∈ vas, ((s.domain dom).page va).isSome = true) : s.awaitPages dom k eff vas = eff s := by
  induction vas with
  | nil => rfl
  | cons va vas ih =>
    obtain ⟨hva, hvas⟩ := List.forall_mem_cons.mp h
    have hw : s.waitOver s.cur.tid (.page dom va) = true := by simp [State.waitOver, hva]
    simp only [State.awaitPages, State.ensureMapped_of_page hva, hw, if_true]
    rw [State.await_over hw, ih hvas]

/-! ### SPAWN -/

theorem State.lc_mapDie (s : State) (i j : Nat) (f : Die → Die) : (s.mapDie i f).lc j = s.lc j := rfl

/-- The child that SPAWN makes of a quad (R50, R51, R254). -/
theorem State.childOf_eq (s : State) (a : UReg) :
    let o := s.cur.old
    let h := s.ureg a
    s.childOf a =
      { lc := o.lc, core := o.core, cls := fld h 38 37, lanes := fld h 36 32 + 1, entry := h.setWidth 32,
        arg0 := s.quadReg a 1, arg1 := s.quadReg a 2, counter := (s.quadReg a 3).toNat, depth := o.depth + 1,
        curtag := o.curtag, bin := localityBin (s.quadReg a 1).toNat } := by
  have he : (s.ureg a).extractLsb' 0 32 = (s.ureg a).setWidth 32 := (BitVec.setWidth_eq_extractLsb' (by omega)).symm
  simp only [State.childOf, show s.quadReg a 0 = s.ureg a from rfl, he]

/-- SPAWN of operands that no check of them traps (R254). -/
theorem exec_spawn {s : State} {a : UReg} (ht : s.Top) (hm : s.cur.mask ≠ 0) (hh : (s.ureg a).toNat < 2 ^ 39)
    (he : s.cur.old.codeAddr ((s.ureg a).setWidth 32).toNat = true) (hc : (s.quadReg a 3).toNat % 8 = 0) :
    exec (.spawn a) s = .next (if s.cur.old.depth = 4 then s.trapWave .nest
      else (s.flushDirty s.cur.tid).await .spawn fun t => t.handChild (s.childOf a)) := by
  have hf : fld (s.quadReg a 0) 63 39 = 0 := (fld_high_eq_zero _ (by omega)).mpr hh
  change Host.Outcome.next (s.uniform _ _ _) = _
  rw [s.uniform_top _ _ _ ht hm, s.childOf_eq]
  simp only [hf, he, hc]
  rfl

/-- The child is the last of those that wait at its die, with the next WAVEID of its logical core in deterministic
mode (R37, R51, R62). -/
theorem State.handChild_result (s : State) (c : Child) :
    let t := s.handChild c
    let die := c.core / 48
    t = { s with dies := t.dies, lcs := t.lcs } ∧ (∀ k, k ≠ die → t.die k = s.die k) ∧
    (s.det s.cur.tid = false →
      t.lcs = s.lcs ∧ t.die die = { s.die die with pend := (s.die die).pend ++ [c] }) ∧
    (s.det s.cur.tid = true →
      t.die die = { s.die die with pend := (s.die die).pend ++
        [{ c with waveid := some (BitVec.ofNat 32 (s.lc c.lc).nextWave) }] } ∧
      t.lc c.lc = { s.lc c.lc with nextWave := (s.lc c.lc).nextWave + 1 }) := by
  dsimp only
  unfold State.handChild
  cases hd : s.det s.cur.tid with
  | false =>
    simp only [Bool.false_eq_true, if_false]
    refine ⟨rfl, fun k hk => ?_, fun _ => ⟨rfl, ?_⟩, fun h => nomatch h⟩
    · exact (State.die_mapDie ..).trans (if_neg hk)
    · exact (State.die_mapDie ..).trans (if_pos rfl)
  | true =>
    simp only [if_true]
    refine ⟨rfl, fun k hk => ?_, fun h => (nomatch h), fun _ => ⟨?_, ?_⟩⟩
    · exact (State.die_mapDie ..).trans (if_neg hk)
    · exact (State.die_mapDie ..).trans (if_pos rfl)
    · rw [State.lc_mapDie, State.lc_mapLC, if_pos rfl]

/-! ### WITHDRAW, TASKTAG and SIGLEAD -/

theorem State.withRecords_free {s : State} {asid scope tag : Nat} {eff : State → State}
    (h : scope = 3 → ∀ w, w ∈ (s.domain asid).queues → ∀ va,
      va ∈ w.block :: (s.tagged asid tag w).map (s.recordAddr asid w) →
      ∃ p, (s.domain asid).place va = some p ∧ s.lineFree p = true) :
    s.withRecords asid scope tag eff = eff s := by
  unfold State.withRecords
  by_cases hs : scope = 3
  · have hva : ∀ va ∈ (s.domain asid).queues.flatMap (fun w => match s.tagged asid tag w with
        | [] => []
        | qs => w.block :: qs.map (s.recordAddr asid w)),
        ∃ p, (s.domain asid).place va = some p ∧ s.lineFree p = true := by
      intro va hva
      obtain ⟨w, hw, hin⟩ := List.mem_flatMap.mp hva
      refine h hs w hw va ?_
      split at hin
      · cases hin
      · exact hin
    rw [if_neg (by simpa using hs)]
    dsimp only
    rw [State.awaitPages_of_pages, State.await_over]
    · simp only [State.waitOver, List.all_eq_true, List.mem_filterMap]
      rintro p ⟨va, hin, hp⟩
      obtain ⟨q, hq, hfree⟩ := hva va hin
      rw [hq, Option.some.injEq] at hp
      exact hp ▸ hfree
    · intro va hin
      obtain ⟨p, hp, -⟩ := hva va hin
      obtain ⟨q, hq, -⟩ := Option.map_eq_some_iff.mp hp
      rw [hq]
      rfl
  · rw [if_pos hs]

/-- Settles O26, a lemma for what each word does. -/
theorem taskResults : Obligations.TaskResults := by
  unfold Obligations.TaskResults
  intro s a d ht hm o h arg child die
  have hchild : s.childOf a = child := s.childOf_eq a
  refine ⟨fun hh he hc hd => ⟨_, exec_spawn ht hm hh he hc, ?_⟩, fun hh he hc hd => ?_, fun hh htag hdet hrec => ?_,
    fun hh => ?_, fun hh => ?_⟩
  · have hcur : (s.flushDirty s.cur.tid).cur = s.cur := (storesSent_flushDirty s s.cur.tid).cur
    have hawait : (s.flushDirty s.cur.tid).await .spawn (fun t => t.handChild child) =
        if (s.flushDirty s.cur.tid).waitOver s.cur.tid .spawn then (s.flushDirty s.cur.tid).handChild child
        else (s.flushDirty s.cur.tid).block .spawn := by rw [State.await, hcur]
    rw [if_neg hd, hchild, hawait]
    dsimp only
    split
    · obtain ⟨h1, h2, h3, h4⟩ := (s.flushDirty s.cur.tid).handChild_result child
      rw [hcur] at h3 h4
      exact ⟨h1, h2, h3, h4⟩
    · rfl
  · rw [exec_spawn ht hm hh he hc, if_pos hd]
  · refine answers_uniform_top rfl ht hm ?_
    have hf : fld (s.ureg a) 63 34 = 0 := (fld_high_eq_zero _ (by omega)).mpr hh
    dsimp only
    rw [if_neg (by simpa [hf] using show fld (s.ureg a) 31 0 ≠ 0 from htag), if_neg (by simp [hdet]),
      State.withRecords_free hrec]
    refine ⟨rfl, rfl, rfl, rfl, rfl, ?_⟩
    obtain ⟨-, -, hreg⟩ := (s.withdrawAll o.lc o.core (fld h 33 32) (fld h 31 0)).1.setU_result d
      (BitVec.ofNat 64 (s.withdrawAll o.lc o.core (fld h 33 32) (fld h 31 0)).2)
    exact (hreg d.toNat).trans (if_pos rfl)
  · refine answers_uniform_top rfl ht hm ?_
    rw [if_neg (by simpa using (fld_high_eq_zero _ (by omega)).mpr hh), ← BitVec.setWidth_eq_extractLsb' (by omega)]
    exact ⟨onlyThread_mapThread .., s.me_mapMe _⟩
  · refine answers_uniform_top rfl ht hm ?_
    rw [if_neg (by simpa using (fld_high_eq_zero _ (by omega)).mpr hh), ← BitVec.setWidth_eq_extractLsb' (by omega)]
    dsimp only
    cases (s.lc o.lc).lead with
    | none => rfl
    | some i =>
      dsimp only
      split
      · rfl
      · refine ⟨onlyThread_mapThread .., fun hacts => ?_⟩
        rw [State.thread_mapThread, if_pos rfl, Thread.postEvents, if_pos (by simp [hacts])]

end Sys2Proof.Machine
end

section
/-! OBLIGATION. Depths of waves (O55). -/

namespace Sys2Proof.Machine

/-! ### Lanes that a word's trap parks -/

/-- A lane as a trap parks it: as it stood when the group began, but for CTR, which the lane of now gives (R8, R123). -/
def Issue.parkedBy (c : Issue) (x : Taken) (now : Lane) : Lane :=
  { c.old.lane x.lane with
    st := .parked, pc := BitVec.ofNat 32 c.grp, kept := some (c.old.lane x.lane).latch, ctr := now.ctr
    parkNext := x.code = .bkpt || x.code = .swtrap }

/-- The thread that issues, with the lane of a trap parked. -/
def Thread.parkBy (me : Thread) (c : Issue) (x : Taken) : Thread :=
  { (me.mapLane x.lane (c.parkedBy x)) with
    run := me.run.map fun r => { r with mask := r.mask &&& ~~~ laneBit x.lane } }

/-- How a trap parks a lane: a change of the thread that issues, an event, and the record of the trap (R8, R348). -/
theorem State.parkLane_of_code (s : State) (x : Taken) (hx : x.code ≠ .xlate) :
    s.parkLane x =
      let u := ((s.markParked s.cur.tid (laneBit x.lane)).mapMe fun me => me.parkBy s.cur x).countBy s.cur.tid 14 1
      u.charge (x.dom.getD s.cur.old.dom) (u.trapRecord x (if x.uniform then 1 else 0)) := by
  have hcur : (s.markParked s.cur.tid (laneBit x.lane)).cur = s.cur := by rw [(sameRecords_markParked ..).1]
  simp only [State.parkLane, State.cur_mapMe, hcur, if_neg hx]
  rfl

/-- What the parking of the lanes of traps leaves: the group that issues and the dies, lanes that are parked, and their
records. -/
structure ParksBy (s : State) (xs : List Taken) (t : State) : Prop where
  frame : t = { s with threads := t.threads, domains := t.domains }
  parked : ∀ x ∈ xs, (t.me.lane x.lane).st = .parked
  records : ∃ rs : List FaultRec, (t.domain s.cur.old.dom).records = (s.domain s.cur.old.dom).records ++ rs ∧
    rs.map (·.code) = xs.map (·.code)

theorem ParksBy.nil (s : State) : ParksBy s [] s where
  frame := rfl
  parked _ h := nomatch h
  records := ⟨[], by simp⟩

theorem SameRecords.me {s t : State} (h : SameRecords s t) : t.me = s.me := by
  rw [h.1]
  rfl

theorem ParksBy.parkLane {s t : State} {xs : List Taken} (h : ParksBy s xs t) {x : Taken} (hx : x.code ≠ .xlate)
    (hd : x.dom = none) : ParksBy s (xs ++ [x]) (t.parkLane x) := by
  have hcur : t.cur = s.cur := by rw [h.frame]
  rw [t.parkLane_of_code x hx, hcur, hd]
  dsimp only [Option.getD_none]
  have h1 := sameRecords_markParked t s.cur.tid (laneBit x.lane)
  generalize t.markParked s.cur.tid (laneBit x.lane) = v at h1 ⊢
  have h2 := sameRecords_countBy (v.mapMe fun me => me.parkBy s.cur x) s.cur.tid 14 1
  generalize (v.mapMe fun me => me.parkBy s.cur x).countBy s.cur.tid 14 1 = w at h2 ⊢
  have hme : (w.charge s.cur.old.dom (w.trapRecord x (if x.uniform then 1 else 0))).me = t.me.parkBy s.cur x :=
    (h2.me.trans (v.me_mapMe _)).trans (congrArg (fun me => me.parkBy s.cur x) h1.me)
  refine ⟨?_, fun y hy => ?_, ?_⟩
  · rw [State.charge, State.mapDomain, h2.1, h1.1, h.frame]
    rfl
  · rw [hme]
    refine (congrArg Lane.st (t.me.lane_mapLane x.lane y.lane (s.cur.parkedBy x))).trans ?_
    split
    · rfl
    next hne =>
      rcases List.mem_append.mp hy with hy | hy
      · exact h.parked y hy
      · exact absurd (congrArg Taken.lane (List.mem_singleton.mp hy)) hne
  · obtain ⟨rs, hrs, hcodes⟩ := h.records
    have hw : (w.domain s.cur.old.dom).records = (t.domain s.cur.old.dom).records := (h2.2 _).trans (h1.2 _)
    refine ⟨rs ++ [{ w.trapRecord x (if x.uniform then 1 else 0) with domain := s.cur.old.dom }], ?_, ?_⟩
    · rw [State.records_charge, if_pos rfl, hw, hrs, List.append_assoc]
    · rw [List.map_append, List.map_append, hcodes]
      rfl

/-- Traps of codes that a relaxation body does not suppress park their lanes, with one record each (R8, R123, R348). -/
theorem parksBy_takeAll (s : State) (xs : List Taken)
    (h : ∀ x ∈ xs, x.code ≠ .xlate ∧ suppressed x.code = false ∧ x.dom = none) : ParksBy s xs (s.takeAll xs) := by
  induction xs using List.reverseRecOn with
  | nil => exact .nil s
  | append_singleton xs x ih =>
    obtain ⟨hx, hs, hd⟩ := h x (by simp)
    have hpark := (ih fun y hy => h y (by simp [hy])).parkLane hx hd
    rw [State.takeAll] at hpark ⊢
    rw [List.foldl_append, List.foldl_cons, List.foldl_nil, if_neg (by simp [hs])]
    exact hpark

/-- The trap of a uniform word outside a callee parks each lane of the run (R8). -/
theorem parksBy_trapWave {s : State} {code : TrapCode} (ht : s.cur.old.acts = []) (hx : code ≠ .xlate)
    (hs : suppressed code = false) :
    ∃ c : Issue, c.old = s.cur.old ∧ ParksBy { s with cur := c } ((lanesOf s.cur.run).map fun l =>
      { lane := l, code := code, uniform := true }) (s.trapWave code) := by
  have hall : ∀ x ∈ (lanesOf s.cur.run).map (fun l => ({ lane := l, code := code, uniform := true } : Taken)),
      x.code ≠ .xlate ∧ suppressed x.code = false ∧ x.dom = none := by
    intro x hmem
    obtain ⟨l, -, rfl⟩ := List.mem_map.mp hmem
    exact ⟨hx, hs, rfl⟩
  unfold State.trapWave State.trapping
  split
  next hempty =>
    rw [List.isEmpty_iff.mp hempty]
    exact ⟨s.cur, rfl, .nil s⟩
  next =>
    rw [if_pos (by simp [ht])]
    exact ⟨(s.excluding _).cur, rfl, parksBy_takeAll _ _ hall⟩

/-! ### The statement -/

/-- An initial wave is the newest thread, at depth 0 (R36, R50). -/
theorem exec_wavePlace {s : State} {lc slot : Nat} {l : Launch} (hl : s.launch? (s.lc lc).launch = some l)
    (hslot : (s.freeSlots (s.lc lc).core).head? = some slot) (hlive : (s.lc lc).live = true)
    (hstarts : (s.domain (s.lc lc).asid).starts = true) (hn : (s.lc lc).toPlace ≠ 0)
    (hstash : l.stash * 4096 ≤ s.freeStash (s.lc lc).core) :
    exec (.wavePlace lc) s = .next ((s.addThread { newThread l lc (s.lc lc).core .initial 32 l.waveEntry with
      waveid := BitVec.ofNat 32 (l.waves - (s.lc lc).toPlace), slot := slot, cls := l.wpri, counter := l.compctr,
      stashSize := l.stash * 4096 }).mapLC lc fun x => { x with toPlace := x.toPlace - 1 }) := by
  change execWavePlace lc s = _
  unfold execWavePlace
  simp only [hl, hslot]
  rw [if_neg (by simp [hlive, hn, hstarts, hstash])]

/-- Settles O55: each clause is a lemma about the word or step that gives the depth. -/
theorem childDepth : Obligations.ChildDepth := by
  unfold Obligations.ChildDepth
  intro s a d lc die slot l c rest o h may
  refine ⟨fun hl hslot hlive hst hn hb => ?_, fun ht hm ⟨hh, he, hc⟩ hd hw => ?_,
    fun u hu => State.placeChild_result hu, fun u hturn hst hu => ?_, fun hm => ?_, fun ht hb hm ⟨hh, he, hc⟩ hd => ?_⟩
  · exact ⟨_, exec_wavePlace hl hslot hlive hst hn hb, _, rfl, rfl, rfl⟩
  · refine ⟨_, exec_spawn ht hm hh he hc, ?_⟩
    have hf := storesSent_flushDirty s s.cur.tid
    rw [if_neg hd, State.await_over (by rwa [hf.cur])]
    obtain ⟨-, -, hfree, hdet⟩ := (s.flushDirty s.cur.tid).handChild_result (s.childOf a)
    have hdie : (s.childOf a).core / 48 = o.core / 48 := rfl
    rw [hdie, hf.die] at hfree hdet
    cases hx : (s.flushDirty s.cur.tid).det (s.flushDirty s.cur.tid).cur.tid with
    | false => exact ⟨_, congrArg Die.pend (hfree hx).2, rfl⟩
    | true => exact ⟨_, congrArg Die.pend (hdet hx).1, rfl⟩
  · obtain ⟨y, hy⟩ := State.placeChild_result hu
    exact ⟨_, exec_childPlace_turn hturn hst hu, y, hy⟩
  · exact answers_setU hm rfl rfl
  · refine ⟨_, exec_spawn ht hm hh he hc, ?_⟩
    rw [if_pos hd]
    obtain ⟨i, hi, hp⟩ := parksBy_trapWave (s := s) (code := .nest) ht.1 (by decide) rfl
    obtain ⟨rs, hrs, hcodes⟩ := hp.records
    refine ⟨by rw [hp.frame], fun n hn hrun => ?_, rs, ?_, ?_, fun r hr => ?_⟩
    · exact hp.parked _ (List.mem_map_of_mem ((mem_lanesOf _ _).mpr ⟨hn, hrun⟩))
    · dsimp only at hrs
      rw [hi] at hrs
      exact hrs
    · simpa using congrArg List.length hcodes
    · have hmem := List.mem_map_of_mem (f := (·.code)) hr
      rw [hcodes] at hmem
      obtain ⟨x, hx, hcode⟩ := List.mem_map.mp hmem
      obtain ⟨l, -, rfl⟩ := List.mem_map.mp hx
      exact hcode.symm

end Sys2Proof.Machine
end

section
/-! OBLIGATION. Starting and retiring waves (O42). -/

namespace Sys2Proof.Machine

/-! ### The state that refutes it -/

/-- A launch of context 1. -/
def strandedLaunch : Launch :=
  { asid := 1, queue := 0, seq := 1, code := 0, leadEntry := 0, waveEntry := 0, control := 0, place := 1, reqtag := 0,
    fmt := [], bufrec := [], qbind := [], compctr := 0, energy := 0, stampbuf := 0, handler := 0, depaddr := 0,
    depthresh := 0, text := 0, textPkts := 1 }

/-- A child of it, spawned on core 0. -/
def strandedChild : Child :=
  { lc := 0, core := 0, cls := 0, lanes := 1, entry := 0, arg0 := 0, arg1 := 0, counter := 0, depth := 1, curtag := 0,
    bin := 0 }

/-- The launch has finished on core 0, and the turn of die 0 holds the child. A thread in slot 0 of the core names the
launch-on-core that comes next, which is not there: it occupies nothing until the child is placed. -/
def strandedState : State :=
  { dies := [{ turn := [strandedChild] }], lcs := [{ asid := 1 }], launches := [strandedLaunch],
    domains := [{ running := false }, { alive := true, running := true }],
    threads := [{ alive := true, lc := 1 }] }

/-- Slot 0 is free as the child waits. -/
theorem strandedState_freeSlot : (strandedState.freeSlots 0).headD 0 = 0 := by decide

/-- The child takes slot 1: with its launch there again the core has the thread in slot 0. -/
theorem strandedState_places : ∃ u, (strandedState.mapDie 0 Die.turnOver).placeChild strandedChild = some u ∧
    (u.thread 1).slot = 1 := by
  have h : (((strandedState.mapDie 0 Die.turnOver).placeChild strandedChild).map fun u => (u.thread 1).slot) = some 1 := by
    decide
  exact Option.map_eq_some_iff.mp h

/-- What the statement says of a child whose launch is on no core: its slot is the lowest that was free before. -/
theorem childSlot_of_waveSteps (h : Obligations.WaveSteps) {s : State} {c : Child} {core : Nat} {l : Launch}
    (hturn : (s.die 0).turn = [c]) (hstarts : (s.domain (s.lc c.lc).asid).starts = true)
    (hl : s.launch? (s.lc c.lc).launch = some l) (hwait : s.wavesWait c (s.lc c.lc).launch l = false)
    (hcore : s.childCore c (s.lc c.lc).launch l = some core) (hid : c.waveid = none) (hq : l.qbind = [])
    (hhere : findIdx? (fun x => x.live && x.launch = (s.lc c.lc).launch && x.core = core) s.lcs = none) :
    ∃ t y, exec (.childPlace 0) s = .next t ∧ t.threads = s.threads ++ [y] ∧ y.slot = (s.freeSlots core).headD 0 := by
  obtain ⟨-, -, h, -⟩ := h s 0 0 0 0 l
  obtain ⟨-, h⟩ := h c [] core hturn hstarts hl hwait hcore hid
  obtain ⟨t, ht, y, x, ⟨-, -, -, -, ⟨hthreads, -, -, hslot, -⟩, -⟩, -⟩ := h hhere (by simp [hq])
  exact ⟨t, y, ht, hthreads, hslot⟩

/-- Refutes O42: a child whose launch is not on its core brings it back there, and the slot it takes is the lowest free
one after that. The statement has it take the lowest that was free before. In strandedState they differ, as a thread comes
to occupy its slot with the launch-on-core that it names. -/
theorem not_waveSteps : ¬ Obligations.WaveSteps := by
  intro h
  obtain ⟨u, hu, hone⟩ := strandedState_places
  obtain ⟨t, y, ht, hthreads, hslot⟩ := childSlot_of_waveSteps h (s := strandedState) (c := strandedChild) (core := 0)
    (l := strandedLaunch) rfl (by decide) rfl (by decide) (by decide) rfl rfl (by decide)
  rw [exec_childPlace_turn (c := strandedChild) (rest := []) rfl (by decide) hu, Host.Outcome.next.injEq] at ht
  have hut : u.threads = strandedState.threads ++ [y] := by
    rw [← hthreads, ← ht]
    rfl
  have hy : u.thread 1 = y := by
    rw [State.thread, hut]
    rfl
  rw [hy, hslot, strandedState_freeSlot] at hone
  exact absurd hone (by decide)

end Sys2Proof.Machine
end

section
/-! OBLIGATION. Finishing launches and audits of permits (O43). -/

namespace Sys2Proof.Machine

/-! ### The state that refutes it -/

/-- A context with a reserve pool of one page, whose place is 0. The block of its queue 2 lies in the page at 0, which is
mapped, and that queue's permits do not add up; the block of its queue 1 lies in a page that is not mapped. -/
def migratingDomain : Domain :=
  { alive := true, running := true, pages := [⟨0, 16, 0, true, true⟩], resSize := 2 ^ 20, poolN := 1,
    queues := [{ queue := 1, block := 2 ^ 16 }, { queue := 2, block := 0, permits := 5 }] }

/-- A launch-on-core whose q3 is bound to queue 1 and whose q4 to queue 2, as the page of queue 1's block is being
migrated. -/
def migratingState : State :=
  { hclk := 4096, domains := [{}, migratingDomain], moving := [(1, 2 ^ 16, 5)],
    lcs := [{ live := true, asid := 1, queues := [{ kind := 2, spec := 1 }, { kind := 2, spec := 2 }] }] }

/-- Its audit leaves q4 as it is: as it asks for the block of queue 1, the page is mapped from the reserve pool, and the
place of queue 2's block is then one that is being migrated. -/
theorem migratingState_audit : ∃ t, exec (.permitAudit 0) migratingState = .next t ∧
    (rd ({} : Fifo) (t.lc 0).queues 1).frozen = false := by
  refine ⟨_, rfl, ?_⟩
  decide

/-- What the statement says of q4 of the first launch-on-core where it is bound to a host work queue whose block can be
read before the audit, and whose permits do not add up. -/
theorem frozen_of_finishSteps (h : Obligations.FinishSteps) (l : Launch) {s : State} {w : WorkQ}
    (hclk : s.hclk ≥ (s.die 0).audit + 4096) (hlen : 0 < s.lcs.length)
    (hhere : (s.lc 0).live = true ∧ (s.lc 0).core / 48 = 0 ∧ (s.domain (s.lc 0).asid).running = true)
    (hb : s.boundQ 0 4 = some w) (hread : (s.deviceRead (s.lc 0).asid w.block 64).isSome = true)
    (hclear : s.deviceClear (s.lc 0).asid w.block 64 = true)
    (hbad : (s.readConsumed (s.lc 0).asid w.queue).linkBad 0 4 = true) :
    ∃ t, exec (.permitAudit 0) s = .next t ∧ (rd ({} : Fifo) (t.lc 0).queues 1).frozen = true := by
  obtain ⟨-, -, -, h⟩ := h s 0 0 0 l
  obtain ⟨t, ht, -, -, -, -, -, hq, -⟩ := h hclk
  have hfreeze := hq 0 1 hlen (by omega)
  rw [hb] at hfreeze
  refine ⟨t, ht, ?_⟩
  rw [hfreeze hread, if_pos ⟨hhere, hclear, hbad⟩]

/-- Refutes O43: an audit that asks for the block of a queue may map its page from the reserve pool, and the block of
another queue, which could be read before, may then lie where a page is being migrated. The statement has the audit freeze
every queue whose block could be read before it; in migratingState it leaves q4 to the next. -/
theorem not_finishSteps : ¬ Obligations.FinishSteps := by
  intro h
  obtain ⟨t, ht, hfrozen⟩ := migratingState_audit
  obtain ⟨t', ht', hfrozen'⟩ := frozen_of_finishSteps h wordLaunch (s := migratingState)
    (w := { queue := 2, block := 0, permits := 5 }) (by decide) (by decide) (by decide) (by decide) (by decide) (by decide)
    (by decide)
  rw [ht, Host.Outcome.next.injEq] at ht'
  rw [← ht', hfrozen] at hfrozen'
  exact absurd hfrozen' (by decide)

end Sys2Proof.Machine
end

section
/-! OBLIGATION. Runs and sides (O35). -/

namespace Sys2Proof.Machine

/-! ### The words of a run -/

/-- A packet is three words. -/
theorem State.length_fetchPacket {s : State} {t : Thread} {n : Nat} {ws : List Word}
    (h : s.fetchPacket t n = some (.ok ws)) : ws.length = 3 := by
  unfold State.fetchPacket at h
  obtain ⟨bs, -, hbs⟩ := Option.map_eq_some_iff.mp h
  cases hm : bs.mapM id with
  | error e =>
    rw [hm] at hbs
    cases hbs
  | ok x =>
    rw [hm] at hbs
    cases hbs
    simp

/-- The pages of a packet of a run, where they could be mapped. -/
def State.packetPages (s : State) (t : Thread) (at_ : Nat) : State :=
  (s.ensureMapped t.dom (t.code + 4 * at_)).ensureMapped t.dom (t.code + 4 * at_ + 11)

theorem homesRead_packetPages (s : State) (t : Thread) (at_ : Nat) : HomesRead s (s.packetPages t at_) :=
  (homesRead_ensureMapped ..).trans (homesRead_ensureMapped ..)

/-- Whether three words after `at_` hold the E word that ends a run which begins at ip. -/
def endsRun (ip at_ : Nat) (new : List Word) : Bool :=
  (List.range 3).any fun k => at_ + k ≥ ip && (rd 0 new k).getLsbD 30

/-- What the fetch of one packet more does: the text may end, a page may be missing, the packet may trap, or it may hold
the E word; else the fetch goes on. -/
theorem State.fetchRun_succ (s : State) (t : Thread) (ip base fuel : Nat) (ws : List Word) :
    let u := s.packetPages t (base + ws.length)
    s.fetchRun t ip base (fuel + 1) ws = (s, some (ws, none)) ∨
    (∃ va, s.fetchRun t ip base (fuel + 1) ws = (u.missCode t.dom va t.core, none)) ∨
    (∃ e, s.fetchRun t ip base (fuel + 1) ws = (u, some (ws, some e))) ∨
    ∃ new, new.length = 3 ∧ s.fetchRun t ip base (fuel + 1) ws =
      if endsRun ip (base + ws.length) new then (u, some (ws ++ new, none)) else u.fetchRun t ip base fuel (ws ++ new) := by
  dsimp only [State.fetchRun]
  by_cases h : base + ws.length ≥ 3 * t.textPkts
  · rw [if_pos h]
    exact .inl rfl
  · rw [if_neg h]
    rcases hp : (s.packetPages t (base + ws.length)).fetchPacket t ((base + ws.length) / 3) with _ | e | new
    · rw [State.packetPages] at hp
      rw [hp]
      exact .inr (.inl ⟨_, rfl⟩)
    · rw [State.packetPages] at hp
      rw [hp]
      exact .inr (.inr (.inl ⟨e, rfl⟩))
    · have hn := State.length_fetchPacket hp
      rw [State.packetPages] at hp
      rw [hp]
      exact .inr (.inr (.inr ⟨new, hn, rfl⟩))

theorem homesRead_fetchRun (s : State) (t : Thread) (ip base fuel : Nat) (ws : List Word) :
    HomesRead s (s.fetchRun t ip base fuel ws).1 := by
  induction fuel generalizing s ws with
  | zero => exact .refl s
  | succ fuel ih =>
    have hu := homesRead_packetPages s t (base + ws.length)
    rcases s.fetchRun_succ t ip base fuel ws with h | ⟨va, h⟩ | ⟨e, h⟩ | ⟨new, -, h⟩
    · rw [h]
      exact .refl s
    · rw [h]
      exact hu.trans (homesRead_mapDomain ..)
    · rw [h]
      exact hu
    · rw [h, apply_ite Prod.fst]
      exact .ite hu (hu.trans (ih ..))

/-- The words that the fetch of a run holds: whole packets, eight at most, none with an E word at or after ip. -/
structure RunSoFar (ip base fuel : Nat) (ws : List Word) : Prop where
  packets : ws.length % 3 = 0
  most : ws.length + 3 * fuel ≤ 24
  noEnd : ∀ k, ip ≤ base + k → (rd 0 ws k).getLsbD 30 = false

/-- The words of a run: whole packets, eight at most, up to the packet of the first E word at or after ip (R33). -/
structure RunWords (ip base : Nat) (ws : List Word) : Prop where
  packets : ws.length % 3 = 0
  most : ws.length ≤ 24
  untilEnd : ∀ k, ip ≤ base + k → (rd 0 ws k).getLsbD 30 = true → ws.length ≤ 3 * (k / 3) + 3

theorem RunSoFar.words {ip base fuel : Nat} {ws : List Word} (h : RunSoFar ip base fuel ws) : RunWords ip base ws where
  packets := h.packets
  most := by have := h.most; omega
  untilEnd k hk hb := by
    rw [h.noEnd k hk] at hb
    cases hb

theorem rd_eq_getD {α : Type} (d : α) (l : List α) (k : Nat) : rd d l k = l.getD k d := by
  induction l generalizing k with
  | nil => simp
  | cons x t ih => cases k <;> simp [ih]

/-- One packet more. -/
theorem RunSoFar.packet {ip base fuel : Nat} {ws new : List Word} (h : RunSoFar ip base (fuel + 1) ws)
    (hn : new.length = 3) : RunWords ip base (ws ++ new) ∧
    (¬ endsRun ip (base + ws.length) new = true → RunSoFar ip base fuel (ws ++ new)) := by
  have hp := h.packets
  have hm := h.most
  have hold : ∀ k, k < ws.length → rd 0 (ws ++ new) k = rd 0 ws k := fun k hk => by
    simp [rd_eq_getD, List.getD_eq_getElem?_getD, List.getElem?_append_left hk]
  have hnew : ∀ k, ws.length ≤ k → rd 0 (ws ++ new) k = rd 0 new (k - ws.length) := fun k hk => by
    simp [rd_eq_getD, List.getD_eq_getElem?_getD, List.getElem?_append_right hk]
  have hlen : (ws ++ new).length = ws.length + 3 := by rw [List.length_append, hn]
  refine ⟨⟨by omega, by omega, fun k hk hb => ?_⟩, fun hno => ⟨by omega, by omega, fun k hk => ?_⟩⟩
  · by_cases hlt : k < ws.length
    · rw [hold k hlt, h.noEnd k hk] at hb
      cases hb
    · omega
  · by_cases hlt : k < ws.length
    · rw [hold k hlt, h.noEnd k hk]
    · rw [hnew k (by omega)]
      by_cases h3 : k - ws.length < 3
      · simp only [endsRun, List.any_eq_true, not_exists, not_and, List.mem_range, Bool.and_eq_true, decide_eq_true_eq] at hno
        simpa using hno (k - ws.length) h3 (by omega)
      · rw [rd_eq_getD, List.getD_eq_default _ _ (by omega)]
        simp

theorem State.fetchRun_words {s : State} {t : Thread} {ip base fuel : Nat} {ws words : List Word}
    {stop : Option (TrapCode × Nat)} (hws : RunSoFar ip base fuel ws)
    (h : (s.fetchRun t ip base fuel ws).2 = some (words, stop)) : RunWords ip base words := by
  induction fuel generalizing s ws with
  | zero =>
    cases h
    exact hws.words
  | succ fuel ih =>
    rcases s.fetchRun_succ t ip base fuel ws with he | ⟨va, he⟩ | ⟨e, he⟩ | ⟨new, hn, he⟩ <;> rw [he] at h
    · cases h
      exact hws.words
    · cases h
    · cases h
      exact hws.words
    · obtain ⟨hw, hmore⟩ := hws.packet hn
      split at h
      · cases h
        exact hw
      next hno => exact ih (hmore hno) h

/-! ### What a fetch counts -/

/-- Nothing differs but what domains and launches-on-cores hold, counts of accesses, what waits to go out to the host, and
free values drawn. -/
def Metered (s t : State) : Prop :=
  t = { s with domains := t.domains, lcs := t.lcs, access := t.access, outbox := t.outbox, draws := t.draws }

theorem Metered.trans {s t u : State} (h : Metered s t) (k : Metered t u) : Metered s u := by
  rw [Metered, k, h]

theorem HomesRead.metered {s t : State} (h : HomesRead s t) : Metered s t := by
  rw [Metered, h]

theorem SameRecords.metered {s t : State} (h : SameRecords s t) : Metered s t := by
  rw [Metered, h.1]

theorem metered_spendFree (s : State) (lc : Nat) (classes : List Nat) : Metered s (s.spendFree lc classes) :=
  List.foldlRecOn classes _ (motive := Metered s) rfl fun u hu c _ => by
    rw [hu]
    rfl

theorem metered_fetchCounts (s : State) (tid base n : Nat) : Metered s (s.fetchCounts tid base n) := by
  unfold State.fetchCounts
  refine List.foldlRecOn _ _ (motive := Metered s) ?_ fun u hu _ _ => hu.trans (metered_spendFree ..)
  exact (homesRead_countLines ..).metered.trans (sameRecords_countBy ..).metered

/-! ### CODE_FETCH -/

/-- The run that a fetch has made, which the lead thread begins at once (R47). -/
def State.runFetched (u : State) (tid : Nat) (r : Run) (lead : Bool) : State :=
  let v := (u.fetchCounts tid r.base r.code.length).mapThread tid fun t => { t with run := some r, denied := [] }
  if lead then v.startRun tid else v

section
variable {s : State} {tid pc : Nat} {m : Mask} (ha : (s.thread tid).alive = true) (hs : (s.thread tid).stopped = false)
  (hd : s.stopDue tid = false) (hr : (s.domain (s.ctxOf tid)).running = true)
  (hb : (s.thread tid).atBoundary = true) (hl : (s.thread tid).lowest = some (pc, m))
include ha hs hd hr hb hl

theorem exec_codeFetch_waits (hf : (s.fetchRun (s.thread tid) pc (3 * (pc / 3)) 8 []).2 = none) :
    exec (.codeFetch tid) s = .next (s.fetchRun (s.thread tid) pc (3 * (pc / 3)) 8 []).1 := by
  change execCodeFetch tid s = _
  dsimp only [execCodeFetch]
  rw [if_neg (by simp [ha, hs, hd, hr, hb]), hl]
  dsimp only
  generalize s.fetchRun (s.thread tid) pc (3 * (pc / 3)) 8 [] = p at hf ⊢
  obtain ⟨u, f⟩ := p
  cases hf
  rfl

theorem exec_codeFetch_run {words : List Word} {stop : Option (TrapCode × Nat)}
    (hf : (s.fetchRun (s.thread tid) pc (3 * (pc / 3)) 8 []).2 = some (words, stop)) :
    exec (.codeFetch tid) s = .next ((s.fetchRun (s.thread tid) pc (3 * (pc / 3)) 8 []).1.runFetched tid
      { mask := m, ip := pc, base := 3 * (pc / 3), code := words, stop := stop }
      ((s.thread tid).isLead && !(s.thread tid).mustTake)) := by
  change execCodeFetch tid s = _
  dsimp only [execCodeFetch]
  rw [if_neg (by simp [ha, hs, hd, hr, hb]), hl]
  dsimp only
  generalize s.fetchRun (s.thread tid) pc (3 * (pc / 3)) 8 [] = p at hf ⊢
  obtain ⟨u, f⟩ := p
  cases hf
  rfl

theorem answers_codeFetch {words : List Word} {stop : Option (TrapCode × Nat)}
    (hf : (s.fetchRun (s.thread tid) pc (3 * (pc / 3)) 8 []).2 = some (words, stop)) :
    Answers (.codeFetch tid) s fun t =>
      (t.mem = s.mem ∧ t.stores = s.stores ∧ ∀ k, k ≠ tid → t.thread k = s.thread k) ∧
      (t.thread tid).run = some
        { mask := m, ip := pc, base := 3 * (pc / 3), code := words, stop := stop
          started := (s.thread tid).isLead && !(s.thread tid).mustTake } := by
  refine ⟨_, exec_codeFetch_run ha hs hd hr hb hl hf, ?_⟩
  have hu := (homesRead_fetchRun s (s.thread tid) pc (3 * (pc / 3)) 8 []).metered.trans
    (metered_fetchCounts _ tid (3 * (pc / 3)) words.length)
  unfold State.runFetched
  dsimp only
  generalize (s.fetchRun (s.thread tid) pc (3 * (pc / 3)) 8 []).1.fetchCounts tid (3 * (pc / 3)) words.length = u at hu ⊢
  have hthread : ∀ k, u.thread k = s.thread k := fun k => by rw [hu]; rfl
  cases (s.thread tid).isLead && !(s.thread tid).mustTake with
  | false =>
    rw [if_neg Bool.false_ne_true]
    refine ⟨⟨?_, ?_, fun k hk => ?_⟩, ?_⟩
    · rw [State.mem_mapThread, hu]
    · rw [State.stores_mapThread, hu]
    · rw [State.thread_mapThread, if_neg hk, hthread]
    · rw [State.thread_mapThread, if_pos rfl]
  | true =>
    rw [if_pos rfl]
    have hc (v : State) := sameRecords_countBy v tid 2 1
    refine ⟨⟨?_, ?_, fun k hk => ?_⟩, ?_⟩
    · rw [State.startRun, State.mem_mapThread, (hc _).1, State.mem_mapThread, hu]
    · rw [State.startRun, State.stores_mapThread, (hc _).1, State.stores_mapThread, hu]
    · rw [State.startRun, State.thread_mapThread, if_neg hk, (hc _).thread, State.thread_mapThread, if_neg hk, hthread]
    · rw [State.startRun, State.thread_mapThread, if_pos rfl, (hc _).thread, State.thread_mapThread, if_pos rfl]
      rfl

end

/-! ### RUN_END -/

theorem answers_runEnd {s : State} {tid : Nat} {r : Run} (hr : (s.thread tid).run = some r) (ho : r.isOver = true) :
    Answers (.runEnd tid) s fun t => t = { s with threads := t.threads, cores := t.cores } ∧
      (∀ k, k ≠ tid → t.thread k = s.thread k) ∧ t.thread tid = (s.thread tid).runEnded := by
  refine ⟨(s.mapThread tid Thread.runEnded).releaseSide tid, ?_, ?_, fun k hk => ?_, ?_⟩
  · change execRunEnd tid s = _
    unfold execRunEnd
    rw [hr]
    dsimp only
    rw [if_pos ho]
  · unfold State.releaseSide
    dsimp only
    split <;> rfl
  · rw [State.thread_releaseSide, State.thread_mapThread, if_neg hk]
  · rw [State.thread_releaseSide, State.thread_mapThread, if_pos rfl]

theorem Thread.runEnded_of_isOver {t : Thread} {r : Run} (hr : t.run = some r) (ho : r.isOver = true) :
    t.runEnded = { t with run := none, wait := none, poll := none, lanes := t.runEnded.lanes } ∧
    ∀ l, l < 32 → t.runEnded.lane l =
      if r.mask.getLsbD l = true ∧ (t.lane l).st = .live then { t.lane l with pc := (t.lane l).npc } else t.lane l := by
  have he : t.runEnded =
      { (t.mapLanes fun l L => if r.mask.getLsbD l && L.st = .live then { L with pc := L.npc } else L) with
        run := none, wait := none, poll := none } := by
    unfold Thread.runEnded
    rw [hr]
    dsimp only
    rw [if_neg (by simp [ho])]
  refine ⟨by rw [he]; rfl, fun l hl => ?_⟩
  rw [he]
  refine (t.lane_mapLanes (fun l L =>
    if r.mask.getLsbD l && L.st = .live then { L with pc := L.npc } else L) l hl).trans ?_
  simp

/-! ### Sorting by a key -/

section
variable {α : Type} (key : α → Nat)

theorem insertBy_perm (x : α) (l : List α) : (insertBy key x l).Perm (x :: l) := by
  induction l with
  | nil => exact .refl _
  | cons y t ih =>
    rw [insertBy]
    split
    · exact .refl _
    · exact (ih.cons y).trans (.swap x y t)

theorem insertBy_pairwise {l : List α} (x : α) (h : l.Pairwise fun a b => key a ≤ key b) :
    (insertBy key x l).Pairwise fun a b => key a ≤ key b := by
  induction l with
  | nil => simp [insertBy]
  | cons y t ih =>
    obtain ⟨hy, ht⟩ := List.pairwise_cons.mp h
    rw [insertBy]
    split
    next hlt =>
      refine List.pairwise_cons.mpr ⟨fun b hb => ?_, h⟩
      rcases List.mem_cons.mp hb with rfl | hb
      · exact hlt.le
      · exact hlt.le.trans (hy b hb)
    next hge =>
      refine List.pairwise_cons.mpr ⟨fun b hb => ?_, ih ht⟩
      rcases List.mem_cons.mp ((insertBy_perm key x t).mem_iff.mp hb) with rfl | hb
      · omega
      · exact hy b hb

/-- Sorting keeps the entries and puts them in ascending order. -/
theorem sortBy_result (l : List α) :
    (sortBy key l).Perm l ∧ (sortBy key l).Pairwise fun a b => key a ≤ key b := by
  induction l using List.reverseRecOn with
  | nil => exact ⟨.refl _, .nil⟩
  | append_singleton l x ih =>
    obtain ⟨hp, hs⟩ := ih
    rw [sortBy, List.foldl_append, List.foldl_cons, List.foldl_nil]
    exact ⟨(insertBy_perm key x _).trans ((hp.cons x).trans (List.perm_append_singleton x l).symm),
      insertBy_pairwise key x hs⟩

/-- The first of a sorted list is one of its entries, with the least key. -/
theorem sortBy_head {l : List α} {x : α} (h : (sortBy key l).head? = some x) : x ∈ l ∧ ∀ y ∈ l, key x ≤ key y := by
  obtain ⟨hp, hs⟩ := sortBy_result key l
  obtain ⟨t, ht⟩ := List.head?_eq_some_iff.mp h
  rw [ht] at hp hs
  refine ⟨hp.mem_iff.mp List.mem_cons_self, fun y hy => ?_⟩
  rcases List.mem_cons.mp (hp.mem_iff.mpr hy) with rfl | hy
  · exact le_rfl
  · exact (List.pairwise_cons.mp hs).1 y hy

end

/-! ### The choice of a side -/

/-- The indices of the entries that meet a test. -/
theorem mem_indices_iff {α : Type} {p : α → Bool} {l : List α} {k : Nat} :
    k ∈ indices p l ↔ ∃ x, l[k]? = some x ∧ p x = true := by
  have gen (i : Nat) (l : List α) : indices.go (Option.any p) i (l.map some) = indices.go p i l := by
    induction l generalizing i with
    | nil => rfl
    | cons x t ih => simp [indices.go, ih]
  have hrd : rd none (l.map some) k = l[k]? := by
    rw [rd_eq_getD, List.getD_eq_getElem?_getD, List.getElem?_map]
    cases l[k]? <;> rfl
  rw [indices, ← gen, ← indices, mem_indices (d := none) rfl, hrd]
  cases l[k]? <;> simp

theorem State.thread_of_getElem? {s : State} {k : Nat} {x : Thread} (h : s.threads[k]? = some x) : s.thread k = x := by
  rw [State.thread, rd_eq_getD, List.getD_eq_getElem?_getD, h, Option.getD_some]

theorem State.thread_of_length_le {s : State} {k : Nat} (h : s.threads.length ≤ k) : s.thread k = {} := by
  rw [State.thread, rd_eq_getD, List.getD_eq_default _ _ h]

theorem le_foldl_max (l : List Nat) (a : Nat) : a ≤ l.foldl max a ∧ ∀ x ∈ l, x ≤ l.foldl max a := by
  induction l generalizing a with
  | nil => simp
  | cons y t ih =>
    obtain ⟨h1, h2⟩ := ih (max a y)
    rw [List.foldl_cons]
    refine ⟨by omega, fun x hx => ?_⟩
    rcases List.mem_cons.mp hx with rfl | hx
    · omega
    · exact h2 x hx

/-- A wave that is ready is alive, has a run, and is no lead thread (R39). -/
theorem State.of_ready {s : State} {k : Nat} (h : s.ready k = true) :
    (s.thread k).alive = true ∧ (s.thread k).isLead = false ∧ ∃ r, (s.thread k).run = some r := by
  unfold State.ready at h
  simp only [Bool.and_eq_true, Bool.not_eq_true'] at h
  obtain ⟨⟨⟨⟨⟨⟨⟨ha, hl⟩, -⟩, -⟩, -⟩, -⟩, -⟩, hr⟩ := h
  refine ⟨ha, hl, ?_⟩
  cases hrun : (s.thread k).run with
  | none =>
    rw [hrun] at hr
    cases hr
  | some r => exact ⟨r, rfl⟩

/-- A candidate is a ready wave of the core. -/
theorem State.of_mem_candidates {s : State} {core k : Nat} (h : k ∈ s.candidates core) :
    k < s.threads.length ∧ (s.thread k).core = core ∧ s.ready k = true := by
  have hall : k ∈ (indices (fun t => t.core = core) s.threads).filter s.ready := by
    unfold State.candidates at h
    dsimp only at h
    split at h
    · exact h
    · exact List.mem_of_mem_filter h
  obtain ⟨hk, hready⟩ := List.mem_filter.mp hall
  obtain ⟨x, hx, hcore⟩ := mem_indices_iff.mp hk
  obtain ⟨hlt, -⟩ := List.getElem?_eq_some_iff.mp hx
  exact ⟨hlt, by simpa [State.thread_of_getElem? hx] using hcore, hready⟩

/-- The wave that a side takes is a candidate of the highest rank (R40, R41). -/
theorem State.of_choose {s : State} {core last tid : Nat} (h : s.choose core last = some tid) :
    tid ∈ s.candidates core ∧ ∀ k ∈ s.candidates core, (s.thread k).rank ≤ (s.thread tid).rank := by
  obtain ⟨hmem, -⟩ := sortBy_head _ h
  obtain ⟨hcand, hrank⟩ := List.mem_filter.mp hmem
  refine ⟨hcand, fun k hk => ?_⟩
  rw [of_decide_eq_true hrank]
  exact (le_foldl_max _ 0).2 _ (List.mem_map_of_mem hk)

/-- A thread of a core after a wave has been chosen there: the chosen wave starts its count of losses anew, and each other
candidate that has not yielded counts one more (R41, R155). -/
def Thread.afterChoice (x : Thread) (core : Nat) (chosen candidate : Bool) : Thread :=
  if x.core ≠ core ∨ x.isLead then x
  else if chosen then { x with loss := 0, yielded := false }
  else if candidate && !x.yielded then { x with loss := x.loss + 1 }
  else { x with yielded := false }

/-- The threads after a wave has been chosen on a core. -/
def State.chosen (s : State) (core tid : Nat) : State :=
  { s with threads := (List.range s.threads.length).map fun i =>
      (s.thread i).afterChoice core (i = tid) ((s.candidates core).contains i) }

theorem State.thread_chosen (s : State) (core tid k : Nat) :
    (s.chosen core tid).thread k = (s.thread k).afterChoice core (k = tid) ((s.candidates core).contains k) := by
  by_cases hk : k < s.threads.length
  · exact rd_range_map _ _ _ _ hk
  · have hno : k ∉ s.candidates core := fun h => hk (State.of_mem_candidates h).1
    have hnew : (s.chosen core tid).thread k = {} := State.thread_of_length_le (by simpa [State.chosen] using hk)
    rw [hnew, State.thread_of_length_le (by omega), List.contains_eq_mem, decide_eq_false hno, Thread.afterChoice]
    split
    · rfl
    · split <;> rfl

theorem Thread.afterChoice_other (x : Thread) (core : Nat) (candidate : Bool) :
    x.afterChoice core false candidate = if x.core = core ∧ x.isLead = false then
      { x with yielded := false, loss := x.loss + if candidate = true ∧ x.yielded = false then 1 else 0 } else x := by
  unfold Thread.afterChoice
  by_cases hx : x.core = core ∧ x.isLead = false
  · rw [if_neg (by simpa using hx), if_pos hx, if_neg Bool.false_ne_true]
    by_cases hy : candidate = true ∧ x.yielded = false
    · rw [if_pos (by simpa using hy), if_pos hy, ← hy.2]
    · rw [if_neg (by simpa using hy), if_neg hy]
      rfl
  · rw [if_pos (by simpa [imp_iff_not_or] using hx), if_neg hx]

theorem Thread.afterChoice_chosen {x : Thread} {core : Nat} {candidate : Bool} (hc : x.core = core)
    (hl : x.isLead = false) : x.afterChoice core true candidate = { x with loss := 0, yielded := false } := by
  rw [Thread.afterChoice, if_neg (by simp [hc, hl]), if_pos rfl]

section
variable {s : State} {core side tid : Nat}

/-- The state after a side of a core has chosen a wave, which has still to begin its run. -/
def State.sideTakes (s : State) (core side tid : Nat) : State :=
  let S : Side := { cur := some tid, last := (s.thread tid).slot, clk := s.clkOf core }
  (s.chosen core tid).mapCore core fun c => if side = 0 then { c with side0 := S } else { c with side1 := S }

theorem exec_sideArbitration (hside : side ≤ 1)
    (hfree : (if side = 0 then (s.core core).side0 else (s.core core).side1).cur = none)
    (hfirst : side = 1 → s.side0First core = false)
    (hc : s.choose core (if side = 0 then (s.core core).side0 else (s.core core).side1).last = some tid) :
    exec (.sideArbitration core side) s = .next (if (s.thread tid).atBoundary then (s.sideTakes core side tid).startRun tid
      else s.sideTakes core side tid) := by
  change execSideArbitration core side s = _
  dsimp only [execSideArbitration]
  rw [if_neg, hc]
  · simp only [State.sideTakes, State.chosen, Thread.afterChoice, decide_eq_true_eq]
  · simp only [hfree, Option.isSome_none, Bool.false_or, Bool.or_eq_true, Bool.and_eq_true, decide_eq_true_eq, not_or,
      not_and, Bool.not_eq_true]
    exact ⟨by omega, hfirst⟩

/-- Beginning a run changes what domains count, and the thread. -/
theorem State.startRun_result (s : State) (tid : Nat) :
    s.startRun tid = { s with threads := (s.startRun tid).threads, domains := (s.startRun tid).domains } ∧
    ∀ k, (s.startRun tid).thread k = if k = tid then (s.thread tid).beginRun else s.thread k := by
  have hc := sameRecords_countBy s tid 2 1
  refine ⟨?_, fun k => ?_⟩
  · rw [State.startRun, State.mapThread, hc.1]
  · rw [State.startRun, State.thread_mapThread, hc.thread, hc.thread]

theorem Thread.beginRun_result {t : Thread} {r : Run} (h : t.run = some r) :
    t.beginRun.run = some { r with started := true } ∧ t.beginRun.loss = t.loss := by
  unfold Thread.beginRun
  rw [h]
  exact ⟨rfl, rfl⟩

end

/-- The run of a ready wave begins where it stands at a boundary, and goes on where it does not. -/
theorem Thread.run_begun {t : Thread} {r : Run} (h : t.run = some r) :
    (if t.atBoundary then t.beginRun else t).run = t.run.map (fun r => { r with started := true }) ∧
    (if t.atBoundary then t.beginRun else t).loss = t.loss := by
  by_cases hs : r.started = true
  · have hb : ¬ t.atBoundary = true := by simp [Thread.atBoundary, h, hs]
    rw [if_neg hb, h, Option.map_some, ← hs]
    exact ⟨rfl, rfl⟩
  · have hb : t.atBoundary = true := by simp [Thread.atBoundary, h, hs]
    rw [if_pos hb, h]
    exact Thread.beginRun_result h

section
variable (s : State) (core side tid : Nat)

/-- The state after a wave that a side has chosen has begun its run, or goes on with it. -/
def State.sideGoes : State :=
  if (s.thread tid).atBoundary then (s.sideTakes core side tid).startRun tid else s.sideTakes core side tid

theorem State.sideGoes_frame : s.sideGoes core side tid = { s with
    threads := (s.sideGoes core side tid).threads, cores := (s.sideGoes core side tid).cores
    domains := (s.sideGoes core side tid).domains } := by
  unfold State.sideGoes
  split
  · rw [(State.startRun_result _ tid).1]
    rfl
  · rfl

theorem State.core_sideGoes : (s.sideGoes core side tid).core core =
    let S : Side := { cur := some tid, last := (s.thread tid).slot, clk := s.clkOf core }
    if side = 0 then { s.core core with side0 := S } else { s.core core with side1 := S } := by
  have h : (s.sideTakes core side tid).core core = _ := (State.core_mapCore ..).trans (if_pos rfl)
  unfold State.sideGoes
  split
  · rw [(State.startRun_result _ tid).1]
    exact h
  · exact h

theorem State.thread_sideGoes (k : Nat) : (s.sideGoes core side tid).thread k =
    let y := (s.thread k).afterChoice core (k = tid) ((s.candidates core).contains k)
    if k = tid ∧ (s.thread tid).atBoundary = true then y.beginRun else y := by
  have h (k : Nat) : (s.sideTakes core side tid).thread k = _ := s.thread_chosen core tid k
  unfold State.sideGoes
  by_cases hb : (s.thread tid).atBoundary = true
  · rw [if_pos hb, (State.startRun_result _ tid).2, h, h]
    by_cases hk : k = tid
    · subst hk
      simp [hb]
    · simp [hk]
  · rw [if_neg hb, h]
    simp [hb]

end

/-- Settles O35, a lemma for each of the steps. -/
theorem runSteps : Obligations.RunSteps := by
  unfold Obligations.RunSteps
  intro s tid core side o others
  refine ⟨fun pc m ha hs hd hr hb hl hf => exec_codeFetch_waits ha hs hd hr hb hl hf,
    fun pc m words stop ha hs hd hr hb hl _ hf => ?_, ?_, fun r hr hst hover => ?_⟩
  · obtain ⟨t, ht, hothers, hrun⟩ := answers_codeFetch ha hs hd hr hb hl hf
    have hw : RunWords pc (3 * (pc / 3)) words := State.fetchRun_words ⟨rfl, by simp, by simp⟩ hf
    exact ⟨t, ht, hothers, hrun, hw.packets, hw.most, hw.untilEnd⟩
  · intro S hside hfree hfirst hc
    obtain ⟨hcand, hrank⟩ := State.of_choose hc
    obtain ⟨-, hcore, hready⟩ := State.of_mem_candidates hcand
    obtain ⟨-, hlead, r, hrun⟩ := State.of_ready hready
    have hme : (s.sideGoes core side tid).thread tid =
        let y : Thread := { o with loss := 0, yielded := false }
        if y.atBoundary then y.beginRun else y := by
      rw [State.thread_sideGoes, decide_eq_true rfl, Thread.afterChoice_chosen hcore hlead]
      simp only [true_and]
      rfl
    obtain ⟨hbegun, hloss⟩ := Thread.run_begun (t := { o with loss := 0, yielded := false }) hrun
    refine ⟨s.sideGoes core side tid, exec_sideArbitration hside hfree hfirst hc, State.sideGoes_frame .., ?_, hready, hcore,
      hrank, ?_, ?_, fun k hk => ?_⟩
    · rw [State.core_sideGoes]
      by_cases h0 : side = 0 <;> simp only [h0, if_true, if_false] <;> rfl
    · rw [hme]
      exact hloss
    · rw [hme]
      exact hbegun
    · rw [State.thread_sideGoes, decide_eq_false hk, Thread.afterChoice_other]
      simp [hk]
  · obtain ⟨t, ht, hframe, hother, hthread⟩ := answers_runEnd hr (by simpa [Run.isOver, hst] using hover)
    obtain ⟨h1, h2⟩ := Thread.runEnded_of_isOver hr (by simpa [Run.isOver, hst] using hover)
    rw [← hthread] at h1 h2
    exact ⟨t, ht, hframe, ⟨by rw [hframe], by rw [hframe], hother⟩, h1, h2⟩

end Sys2Proof.Machine
end

section
/-! SUPPORT. What the device itself reads and writes at once: what a counted access leaves alone, and the registered
queues (R13, R221, R381, R382). -/

namespace Sys2Proof.Machine

/-! ### Counted accesses -/

/-- Nothing differs but counts of accesses and, of the domains, the pages that were found and those that are asked for. -/
def Counted (s t : State) : Prop :=
  t = { s with domains := t.domains, access := t.access } ∧
  ∀ d, t.domain d = { s.domain d with found := (t.domain d).found, asks := (t.domain d).asks }

section
variable {s t : State}

theorem Counted.refl (s : State) : Counted s s := ⟨rfl, fun _ => rfl⟩

theorem Counted.trans {u : State} (h : Counted s t) (k : Counted t u) : Counted s u :=
  ⟨by rw [k.1, h.1], fun d => by rw [k.2 d, h.2 d]⟩

theorem Counted.foldl {α : Type} {f : State → α → State} {l : List α} (h : Counted s t) (hf : ∀ u x, Counted u (f u x)) :
    Counted s (l.foldl f t) :=
  List.foldlRecOn l f h fun u hu x _ => hu.trans (hf u x)

theorem counted_countAccess (s : State) (dom va p : Nat) : Counted s (s.countAccess dom va p) := by
  obtain ⟨⟨hframe, hother⟩, hdom, -⟩ := useFound_result s dom va
  refine ⟨?_, fun d => ?_⟩
  · unfold State.countAccess
    rw [hframe]
  · change (s.useFound dom va).domain d = { s.domain d with
      found := ((s.useFound dom va).domain d).found, asks := ((s.useFound dom va).domain d).asks }
    by_cases hd : d = dom
    · rw [hd, hdom]
    · rw [hother d hd]

theorem counted_countLines (s : State) (dom va n : Nat) : Counted s (s.countLines dom va n) := by
  refine (Counted.refl s).foldl fun u k => ?_
  split
  · exact counted_countAccess ..
  · exact .refl u

theorem counted_answered (s : State) (asid va n : Nat) : Counted s (s.answered asid va n) := by
  refine ⟨rfl, fun d => ?_⟩
  rw [State.answered, State.domain_mapDomain]
  split
  next h => rw [h]
  next => rfl

theorem Counted.page (h : Counted s t) (d va : Nat) : (t.domain d).page va = (s.domain d).page va := by
  rw [h.2 d]
  rfl

theorem Counted.workq (h : Counted s t) (d n : Nat) : (t.domain d).workq n = (s.domain d).workq n := by
  rw [h.2 d]
  rfl

theorem Counted.mem (h : Counted s t) : t.mem = s.mem := by rw [h.1]

theorem Counted.deviceRead (h : Counted s t) (dom va n : Nat) : t.deviceRead dom va n = s.deviceRead dom va n := by
  have hp : t.poisoned = s.poisoned := by rw [h.1]; rfl
  unfold State.deviceRead
  simp only [h.page, h.mem, hp]

theorem Counted.blockField (h : Counted s t) (asid block off n : Nat) :
    t.blockField asid block off n = s.blockField asid block off n := by
  rw [State.blockField, State.blockField, h.deviceRead]

theorem Counted.workType (h : Counted s t) (asid : Nat) (w : WorkQ) : t.workType asid w = s.workType asid w :=
  h.blockField ..

end

/-! ### Registered queues -/

/-- A registered queue after those of its number are replaced by a function that keeps their numbers. -/
theorem State.workq_mapWorkq (s : State) (a d n m : Nat) {f : WorkQ → WorkQ} (hf : ∀ w, (f w).queue = w.queue) :
    ((s.mapWorkq a n f).domain d).workq m =
      if d = a ∧ m = n then ((s.domain d).workq m).map f else (s.domain d).workq m := by
  have hfind (qs : List WorkQ) : (qs.map fun w => if w.queue = n then f w else w).find? (fun w => w.queue = m) =
      (qs.find? fun w => w.queue = m).map fun w => if w.queue = n then f w else w := by
    rw [List.find?_map]
    congr 2
    funext w
    simp only [Function.comp_apply]
    split <;> simp [hf]
  rw [State.mapWorkq, State.domain_mapDomain]
  by_cases hd : d = a
  · subst hd
    rw [if_pos rfl, Domain.workq, hfind, ← Domain.workq]
    cases hw : (s.domain d).workq m with
    | none => simp
    | some w =>
      have hq : w.queue = m := by simpa using List.find?_some hw
      by_cases hm : m = n <;> simp [hq, hm]
  · rw [if_neg hd, if_neg fun h => hd h.1]

/-- The queue that a number names is registered to the domain that it is found in (R381). -/
theorem State.of_findQueue {s : State} {n a : Nat} {w : WorkQ} (h : s.findQueue n = some (a, w)) :
    (s.domain a).workq n = some w := by
  obtain ⟨k, -, hk⟩ := Option.bind_eq_some_iff.mp h
  obtain ⟨v, hv, he⟩ := Option.map_eq_some_iff.mp hk
  cases he
  exact hv

theorem Domain.queue_of_workq {d : Domain} {n : Nat} {w : WorkQ} (h : d.workq n = some w) : w.queue = n := by
  simpa using List.find?_some h

/-! ### TAIL (R382) -/

section
variable {s : State} {a n : Nat} {w : WorkQ} (hw : (s.domain a).workq n = some w)
include hw

/-- TAIL is read where its page is there and its home serves the read. -/
theorem State.readTail_now (hask : s.askBytes a w.block 64 = (s, false)) (hclear : s.deviceClear a w.block 64 = true)
    {bs : List Byte} (hbs : s.deviceRead a (w.block + 0x10) 8 = some bs) :
    let t := s.readTail a n
    t = { s with domains := t.domains, access := t.access } ∧
    (t.domain a).workq n = some { w with
      rung := false, tail := ofBytes bs
      permits := if s.workType a w = 1 then w.permits - (ofBytes bs - w.tail) else w.permits } := by
  have hc := (counted_countLines s a w.block 64).trans (counted_answered _ a w.block 64)
  dsimp only
  unfold State.readTail
  rw [hw]
  dsimp only
  rw [hask]
  dsimp only
  rw [if_neg (by simp [hclear]), hc.deviceRead, hc.workType, hbs]
  refine ⟨?_, ?_⟩
  · rw [State.mapWorkq, State.mapDomain, hc.1]
  · rw [State.workq_mapWorkq, if_pos ⟨rfl, rfl⟩, hc.workq, hw]
    · simp only [Option.map_some, Option.getD_some, Option.some.injEq]
      split <;> rfl
    · exact fun _ => rfl

/-- TAIL waits for its home. -/
theorem State.readTail_waits (hask : s.askBytes a w.block 64 = (s, false)) (hclear : s.deviceClear a w.block 64 = false) :
    s.readTail a n = s.mapWorkq a n fun x => { x with rung := true } := by
  unfold State.readTail
  rw [hw]
  dsimp only
  rw [hask]
  dsimp only
  rw [if_pos (by simp [hclear])]

/-- TAIL waits for its page. -/
theorem State.readTail_asks (hask : (s.askBytes a w.block 64).2 = true) :
    s.readTail a n = (s.askBytes a w.block 64).1.mapWorkq a n fun x => { x with rung := true } := by
  unfold State.readTail
  rw [hw]
  dsimp only
  generalize s.askBytes a w.block 64 = p at hask
  obtain ⟨u, b⟩ := p
  cases hask
  rfl

end

/-! ### Writes of the device, and completion records (R383) -/

/-- Nothing differs but memory, counts of accesses and what domains hold, and no registered queue has come or gone. -/
structure Recorded (s t : State) : Prop where
  frame : t = { s with mem := t.mem, domains := t.domains, access := t.access }
  queues : ∀ d n, ((t.domain d).workq n).isSome = ((s.domain d).workq n).isSome

section
variable {s t u : State}

theorem Recorded.refl (s : State) : Recorded s s := ⟨rfl, fun _ _ => rfl⟩

theorem Recorded.trans (h : Recorded s t) (k : Recorded t u) : Recorded s u :=
  ⟨by rw [k.frame, h.frame], fun d n => (k.queues d n).trans (h.queues d n)⟩

theorem Counted.recorded (h : Counted s t) : Recorded s t := ⟨by rw [h.1], fun d n => by rw [h.workq]⟩

/-- A write of the device changes memory, and counts. -/
theorem State.of_deviceWrite {dom va : Nat} {bs : List Byte} (h : s.deviceWrite dom va bs = some t) :
    Counted { s with mem := t.mem } t := by
  obtain ⟨cs, -, rfl⟩ := Option.map_eq_some_iff.mp h
  have hc := counted_countLines ({ s with mem := cs.foldl (fun (m : List Host.Cell) c => memPut m c.1 c.2) s.mem } : State)
    dom va bs.length
  rw [hc.mem]
  exact hc

theorem recorded_deviceWrite {dom va : Nat} {bs : List Byte} (h : s.deviceWrite dom va bs = some t) : Recorded s t := by
  have hc := State.of_deviceWrite h
  exact ⟨by rw [hc.1], fun d n => by rw [hc.workq]; rfl⟩

theorem recorded_setBlock (s : State) (asid block off n x : Nat) : Recorded s (s.setBlock asid block off n x) := by
  unfold State.setBlock
  cases h : s.deviceWrite asid (block + off) (bytesOf n x) with
  | none => exact .refl s
  | some t => exact recorded_deviceWrite h

theorem recorded_mapWorkq (s : State) (a n : Nat) {f : WorkQ → WorkQ} (hf : ∀ w, (f w).queue = w.queue) :
    Recorded s (s.mapWorkq a n f) := by
  refine ⟨rfl, fun d m => ?_⟩
  rw [State.workq_mapWorkq s a d n m hf]
  split <;> simp

theorem recorded_completionRecord (s : State) (asid queue seq status : Nat) :
    Recorded s (s.completionRecord asid queue seq status) := by
  unfold State.completionRecord
  split
  · exact .refl s
  next w _ =>
    dsimp only
    have hc := ((counted_countLines s asid w.block 64).trans (counted_answered _ asid w.block 64)).trans
      (counted_answered _ asid (s.recordAddr asid w seq) 32)
    generalize ((s.countLines asid w.block 64).answered asid w.block 64).answered asid (s.recordAddr asid w seq) 32 = v
      at hc ⊢
    split
    · exact hc.recorded
    next x hx =>
      refine (hc.recorded.trans (recorded_deviceWrite hx)).trans (.trans ?_ (recorded_setBlock ..))
      exact recorded_mapWorkq _ _ _ fun _ => rfl

/-! ### Pages that are asked for -/

/-- No registered queue has come or gone. -/
def SameQueues (s t : State) : Prop := ∀ d, (t.domain d).queues = (s.domain d).queues

theorem SameQueues.workq (h : SameQueues s t) (d n : Nat) : (t.domain d).workq n = (s.domain d).workq n := by
  rw [Domain.workq, h d]
  rfl

theorem SameQueues.trans (h : SameQueues s t) (k : SameQueues t u) : SameQueues s u := fun d => (k d).trans (h d)

theorem sameQueues_mapDomain (s : State) (a : Nat) {f : Domain → Domain} (hf : ∀ x, (f x).queues = x.queues) :
    SameQueues s (s.mapDomain a f) := fun d => by
  rw [State.domain_mapDomain]
  split
  next h => rw [hf, h]
  next => rfl

theorem sameQueues_ensureMapped (s : State) (dom va : Nat) : SameQueues s (s.ensureMapped dom va) := by
  unfold State.ensureMapped
  dsimp only
  split
  · exact sameQueues_mapDomain (State.sendOut (State.sendOut s _ _) _ _) dom fun _ => rfl
  · exact fun _ => rfl

theorem sameQueues_askPage (s : State) (asid va : Nat) (k : Acc) : SameQueues s (s.askPage asid va k).1 := by
  unfold State.askPage
  refine (sameQueues_ensureMapped s asid va).trans ?_
  dsimp only
  split
  · exact fun _ => rfl
  · refine SameQueues.trans (sameQueues_mapDomain _ _ fun x => ?_) (sameQueues_mapDomain _ _ fun _ => rfl)
    split <;> rfl

theorem sameQueues_askBytes (s : State) (asid va n : Nat) (k : Acc) : SameQueues s (s.askBytes asid va n k).1 := by
  have h := sameQueues_askPage s asid va k
  unfold State.askBytes
  generalize s.askPage asid va k = p at h
  obtain ⟨u, b⟩ := p
  cases b with
  | true => exact h
  | false =>
    refine SameQueues.trans h ?_
    exact sameQueues_askPage u asid (va + n - 1) k

end

end Sys2Proof.Machine
end

section
/-! OBLIGATION. Doorbells, launches and dependences (O41). -/

namespace Sys2Proof.Machine

/-! ### Doorbells -/

/-- A doorbell of a queue that its function reaches reads its TAIL; the dependences of the context are read after it,
where there are some (R60, R382). -/
theorem exec_doorbell {s : State} {fn a : Nat} {w : WorkQ} {v : Dword} (hv : fld v 63 17 = 0) (hb : s.bringUp = 8)
    (hq : s.findQueue (fld v 16 0) = some (a, w)) (hr : (s.domain a).reachedBy fn = true)
    (ht : (s.domain a).tdiRun = true) (hno : ∀ l, l ∈ s.launches → l.asid = a → l.st ≠ .depends) :
    exec (.doorbell fn v) s = .next (s.readTail a (fld v 16 0)) := by
  have hnil : indices (fun l => l.asid = a && l.st = .depends) (s.readTail a (fld v 16 0)).launches = [] := by
    have hl : (s.readTail a (fld v 16 0)).launches = s.launches := by rw [homesRead_readTail s a (fld v 16 0)]
    refine List.eq_nil_iff_forall_not_mem.mpr fun k hk => ?_
    obtain ⟨l, hget, hp⟩ := mem_indices_iff.mp hk
    rw [hl] at hget
    simp only [Bool.and_eq_true, decide_eq_true_eq] at hp
    exact hno l (List.mem_of_getElem? hget) hp.1 hp.2
  change Host.Outcome.next (s.doorbell fn v) = _
  unfold State.doorbell
  rw [if_neg (by simp [hv, hb])]
  dsimp only
  rw [hq]
  dsimp only
  rw [if_pos (by simp [hr, ht]), State.readDeps, hnil]
  rfl

theorem exec_doorbell_none {s : State} {fn : Nat} {v : Dword} (h : fld v 63 17 ≠ 0 ∨ s.findQueue (fld v 16 0) = none) :
    exec (.doorbell fn v) s = .next s := by
  change Host.Outcome.next (s.doorbell fn v) = _
  unfold State.doorbell
  split
  · rfl
  next hv =>
    dsimp only
    have hv0 : fld v 63 17 = 0 := by
      by_contra hne
      exact hv (by simp [hne])
    rw [h.resolve_left (by simpa using hv0)]

/-! ### Acceptance -/

section
variable {s : State} {a queue : Nat} {w : WorkQ} (hb : s.bringUp = 8) (hq : s.findQueue queue = some (a, w))
  (hstop : w.stopped = false) (hrung : w.rung = false) (htype : s.workType a w = 0)
  (hasid : s.blockField a w.block 0x0C 2 = a)
  (htail : s.blockField a w.block 0x18 8 + 1 ≤ w.tail)
  (hdepth : s.blockField a w.block 0x18 8 + 1 ≤ s.blockField a w.block 0x20 8 + s.workDepth a w)
  (hdone : s.blockField a w.block 0x20 8 < s.blockField a w.block 0x18 8 + 1)
  (hwritten : s.blockField a w.block 0x18 8 + 1 ∉ w.written)
  (hready : s.recordReady a queue (s.blockField a w.block 0x18 8 + 1) = (s, true))
include hb hq hstop hrung htype hasid htail hdepth hdone hwritten hready

/-- The arbiter takes the next entry of a launch queue (R55, R382). -/
theorem exec_launchAccept :
    exec (.launchAccept queue) s = .next (s.takeEntry a w (s.blockField a w.block 0x18 8 + 1)) := by
  change execLaunchAccept queue s = _
  unfold execLaunchAccept
  rw [hq]
  dsimp only
  rw [if_neg (by simp [hb]), if_neg (by simp [hrung]), if_neg (by simp [hstop, htype, hasid]; omega), hready]
  dsimp only
  rw [if_neg (by simp [hwritten]; omega)]

end

section
variable {s : State} {a seq : Nat} {w : WorkQ}

/-- The address of an entry of a launch queue (R381). -/
def State.entryAt (s : State) (a : Nat) (w : WorkQ) (seq : Nat) : Nat :=
  s.blockField a w.block 0x00 8 + 16 * (seq % s.workDepth a w)

/-- The state after the arbiter has read an entry. -/
def State.entryRead (s : State) (a : Nat) (w : WorkQ) (seq : Nat) : State :=
  (s.countLines a (s.entryAt a w seq) 16).answered a (s.entryAt a w seq) 16

theorem counted_entryRead : Counted s (s.entryRead a w seq) :=
  (counted_countLines ..).trans (counted_answered ..)

theorem State.takeEntry_wrongSeq (hask : s.askRead a (s.entryAt a w seq) 16 = (s, false))
    (hseq : s.blockField a (s.entryAt a w seq) 0 8 ≠ seq) :
    s.takeEntry a w seq = ((s.entryRead a w seq).completionRecord a w.queue seq 9).mapWorkq a w.queue fun w =>
      { w with stopped := true } := by
  unfold State.entryAt at hask hseq
  unfold State.takeEntry
  dsimp only
  rw [hask]
  dsimp only
  rw [if_pos hseq]
  rfl

theorem State.takeEntry_record (hask : s.askRead a (s.entryAt a w seq) 16 = (s, false))
    (hseq : s.blockField a (s.entryAt a w seq) 0 8 = seq)
    (hrec : s.askRecord a (s.blockField a (s.entryAt a w seq) 8 8) = (s, false)) :
    s.takeEntry a w seq = (((s.entryRead a w seq).consumed a w.queue seq).acceptRecord a w.queue seq
      (s.blockField a (s.entryAt a w seq) 8 8)).answerRecord a (s.blockField a (s.entryAt a w seq) 8 8) := by
  unfold State.entryAt at hask hseq hrec
  unfold State.takeEntry
  dsimp only
  rw [hask]
  dsimp only
  rw [if_neg (by simpa using hseq), hrec]
  rfl

end

section
variable {s : State} {a queue seq addr : Nat} {r : List Byte} (hr : s.deviceRead a addr 512 = some r)
include hr

/-- The launch that a record describes, with its code's packets (R55, R145). -/
def State.launchOf_record (s : State) (a queue seq : Nat) (r : List Byte) : Launch :=
  { launchOfRecord a queue seq r with textPkts := s.imagePkts a (launchOfRecord a queue seq r).code }

theorem State.acceptRecord_rejected {st : Nat} (h : s.rejection (s.launchOf_record a queue seq r) r addr = some st) :
    s.acceptRecord a queue seq addr = s.completionRecord a queue seq st := by
  unfold State.launchOf_record at h
  unfold State.acceptRecord
  rw [hr]
  dsimp only
  rw [h]

/-- An accepted launch without a dependence is eligible (R59, R60). -/
theorem State.acceptRecord_accepted (h : s.rejection (s.launchOf_record a queue seq r) r addr = none)
    (hdep : (s.launchOf_record a queue seq r).depaddr = 0) :
    let l := s.launchOf_record a queue seq r
    s.acceptRecord a queue seq addr = { s with launches := s.launches ++
      [{ l with st := .eligible, todo := if l.det then List.range (l.gx * l.gy) else s.coreSet l }] } := by
  unfold State.launchOf_record at h hdep
  unfold State.acceptRecord
  rw [hr]
  dsimp only at hdep ⊢
  rw [h]
  dsimp only
  rw [if_pos hdep, State.readDep, State.launch?, List.getElem?_append_right (le_refl _), Nat.sub_self]
  rfl

end

theorem counted_answerRecord (s : State) (a addr : Nat) : Counted s (s.answerRecord a addr) := by
  have hc := (counted_countLines s a addr 512).trans (counted_answered _ a addr 512)
  unfold State.answerRecord
  dsimp only
  generalize (s.countLines a addr 512).answered a addr 512 = u at hc ⊢
  split
  · exact hc.trans ((counted_countLines ..).trans (counted_answered ..))
  · exact hc

/-- Taking an entry writes CONSUMED, and may read TAIL: it changes neither threads nor launches. -/
theorem State.consumed_frame (s : State) (a n upto : Nat) : ∃ m ds ac ob,
    s.consumed a n upto = { s with mem := m, domains := ds, access := ac, outbox := ob } := by
  unfold State.consumed
  split
  next w _ =>
    have hset := (recorded_setBlock s a w.block 0x18 8 upto).frame
    dsimp only
    split
    · rw [homesRead_readTail _ a n, hset]
      exact ⟨_, _, _, _, rfl⟩
    · rw [hset]
      exact ⟨_, _, _, _, rfl⟩
  next => exact ⟨_, _, _, _, rfl⟩

/-! ### Completion records and launches -/

/-- A state with other launches. -/
def State.withLaunches (s : State) (L : List Launch) : State := { s with launches := L }

section
variable (s : State) (L : List Launch)

theorem State.domain_withLaunches (n : Nat) : (s.withLaunches L).domain n = s.domain n := rfl

theorem State.blockField_withLaunches (asid block off n : Nat) :
    (s.withLaunches L).blockField asid block off n = s.blockField asid block off n := rfl

theorem State.recordAddr_withLaunches (asid : Nat) (w : WorkQ) (seq : Nat) :
    (s.withLaunches L).recordAddr asid w seq = s.recordAddr asid w seq := rfl

theorem State.answered_withLaunches (asid va n : Nat) :
    (s.withLaunches L).answered asid va n = (s.answered asid va n).withLaunches L := rfl

theorem State.clock64_withLaunches : (s.withLaunches L).clock64 = s.clock64 := rfl

theorem State.mapWorkq_withLaunches (asid n : Nat) (f : WorkQ → WorkQ) :
    (s.withLaunches L).mapWorkq asid n f = (s.mapWorkq asid n f).withLaunches L := rfl

theorem State.useFound_withLaunches (dom va : Nat) :
    (s.withLaunches L).useFound dom va = (s.useFound dom va).withLaunches L := by
  unfold State.useFound
  dsimp only
  rw [State.domain_withLaunches]
  cases hp : (s.domain dom).page va with
  | none => rfl
  | some p =>
    dsimp only
    rw [apply_ite (fun u : State => u.withLaunches L)]
    rfl

theorem State.countAccess_withLaunches (dom va p : Nat) :
    (s.withLaunches L).countAccess dom va p = (s.countAccess dom va p).withLaunches L := by
  unfold State.countAccess
  rw [State.useFound_withLaunches]
  rfl

theorem State.countLines_withLaunches (dom va n : Nat) :
    (s.withLaunches L).countLines dom va n = (s.countLines dom va n).withLaunches L := by
  unfold State.countLines
  refine List.foldl_hom (fun u : State => u.withLaunches L) fun u k => ?_
  rw [State.domain_withLaunches]
  cases (u.domain dom).place ((va / 128 + k) * 128) with
  | none => rfl
  | some p => exact u.countAccess_withLaunches L dom _ p

theorem State.deviceWrite_withLaunches (dom va : Nat) (bs : List Byte) :
    (s.withLaunches L).deviceWrite dom va bs = (s.deviceWrite dom va bs).map fun t => t.withLaunches L := by
  unfold State.deviceWrite
  dsimp only
  rw [Option.map_map]
  refine congrArg (fun f => Option.map f _) (funext fun cs => ?_)
  exact State.countLines_withLaunches { s with mem := cs.foldl (fun m c => memPut m c.1 c.2) s.mem } L dom va bs.length

theorem State.setBlock_withLaunches (asid block off n x : Nat) :
    (s.withLaunches L).setBlock asid block off n x = (s.setBlock asid block off n x).withLaunches L := by
  unfold State.setBlock
  rw [State.deviceWrite_withLaunches]
  cases s.deviceWrite asid (block + off) (bytesOf n x) <;> rfl

/-- What a completion record writes does not hang on the launches. -/
theorem State.completionRecord_withLaunches (asid queue seq status : Nat) :
    (s.withLaunches L).completionRecord asid queue seq status =
      (s.completionRecord asid queue seq status).withLaunches L := by
  unfold State.completionRecord
  rw [State.domain_withLaunches]
  cases hw : (s.domain asid).workq queue with
  | none => rfl
  | some w =>
    dsimp only
    rw [State.countLines_withLaunches, State.recordAddr_withLaunches, State.blockField_withLaunches]
    simp only [State.answered_withLaunches]
    rw [State.deviceWrite_withLaunches, State.clock64_withLaunches]
    generalize State.deviceWrite _ _ _ _ = o
    cases o with
    | none => rfl
    | some u =>
      dsimp only [Option.map_some]
      rw [State.mapWorkq_withLaunches, State.setBlock_withLaunches]

end

/-! ### Dependences -/

theorem homesRead_deviceReads (s : State) (dom va n : Nat) : HomesRead s (s.deviceReads dom va n).1 :=
  ((HomesRead.refl s).foldl fun _ _ => homesRead_ensureMapped ..).trans (homesRead_countLines ..)

theorem homesRead_recordReady (s : State) (asid queue seq : Nat) : HomesRead s (s.recordReady asid queue seq).1 := by
  unfold State.recordReady
  split
  · exact .refl s
  next w _ =>
    have h := homesRead_askBytes s asid w.block 64 .store
    generalize s.askBytes asid w.block 64 .store = p at h
    obtain ⟨u, b⟩ := p
    cases b with
    | true => exact h
    | false =>
      dsimp only at h ⊢
      have hu := homesRead_askBytes u asid (u.recordAddr asid w seq) 32 .store
      generalize u.askBytes asid (u.recordAddr asid w seq) 32 .store = q at hu
      obtain ⟨v, c⟩ := q
      cases c <;> exact h.trans hu

theorem State.launch_mapLaunch {s : State} {n : Nat} {l : Launch} (h : s.launch? n = some l) (f : Launch → Launch) :
    (s.mapLaunch n f).launch? n = some (f l) := by
  unfold State.launch? at h ⊢
  rw [State.mapLaunch, List.getElem?_modify_eq, h]
  rfl

/-- What the arbiter makes of its read of a launch's counter (R60). -/
def State.depRead (s : State) (n : Nat) (l : Launch) (got : Option (List Byte)) : State :=
  match got with
  | some bs =>
    if ofBytes bs ≥ l.depthresh then (s.mapLaunch n fun l => { l with st := .eligible }).answered l.asid l.depaddr 8
    else s
  | none =>
    match s.recordReady l.asid l.queue l.seq with
    | (s, true) => ((s.mapLaunch n fun l => { l with st := .finished }).complete l 0x0B).answered l.asid l.depaddr 8
    | (s, false) => s

section
variable {s z : State} {n : Nat} {l : Launch} (hl : s.launch? n = some l) (hst : l.st = .depends)
  (hclear : s.deviceClear l.asid l.depaddr 8 = true) (hask : s.askBytes l.asid l.depaddr 8 = (s, false))
include hl hst hclear hask

theorem State.readDep_asks : s.readDep n =
    (s.deviceReads l.asid l.depaddr 8).1.depRead n l (s.deviceReads l.asid l.depaddr 8).2 := by
  -- the function that reads is a variable of the proof, so that the kernel does not compute with it
  obtain ⟨reads, hreads⟩ : ∃ f, State.deviceReads = f := ⟨_, rfl⟩
  unfold State.readDep
  rw [hreads, hl]
  dsimp only
  rw [if_neg (by simp [hst, hclear]), hask]
  dsimp only
  generalize reads s l.asid l.depaddr 8 = p
  obtain ⟨z, got⟩ := p
  cases got <;> rfl

theorem exec_dependenceRead_some {bs : List Byte} (hz : s.deviceReads l.asid l.depaddr 8 = (z, some bs)) :
    exec (.dependenceRead n) s = .next (if ofBytes bs ≥ l.depthresh then
      (z.mapLaunch n fun l => { l with st := .eligible }).answered l.asid l.depaddr 8 else z) := by
  change Host.Outcome.next (s.readDep n) = _
  rw [State.readDep_asks hl hst hclear hask, hz]
  rfl

theorem exec_dependenceRead_none {y : State} {b : Bool} (hz : s.deviceReads l.asid l.depaddr 8 = (z, none))
    (hy : z.recordReady l.asid l.queue l.seq = (y, b)) :
    exec (.dependenceRead n) s = .next (if b then
      ((y.mapLaunch n fun l => { l with st := .finished }).complete l 0x0B).answered l.asid l.depaddr 8 else y) := by
  change Host.Outcome.next (s.readDep n) = _
  rw [State.readDep_asks hl hst hclear hask, hz, State.depRead, hy]
  cases b <;> rfl

theorem answers_dependenceRead_comes {bs : List Byte} (hz : s.deviceReads l.asid l.depaddr 8 = (z, some bs))
    (hcome : ofBytes bs ≥ l.depthresh) : Answers (.dependenceRead n) s fun t =>
      t = { z with launches := t.launches, domains := t.domains } ∧ t.launch? n = some { l with st := .eligible } := by
  refine ⟨_, exec_dependenceRead_some hl hst hclear hask hz, ?_⟩
  have hzl : z.launch? n = some l := by
    have h := homesRead_deviceReads s l.asid l.depaddr 8
    rw [hz] at h
    dsimp only at h
    rw [h]
    exact hl
  rw [if_pos hcome]
  exact ⟨rfl, State.launch_mapLaunch hzl _⟩

theorem answers_dependenceRead_fails {y : State} (hz : s.deviceReads l.asid l.depaddr 8 = (z, none))
    (hy : z.recordReady l.asid l.queue l.seq = (y, true)) : Answers (.dependenceRead n) s fun t =>
      t.launch? n = some { l with st := .finished } ∧
      t.mem = (y.completionRecord l.asid l.queue l.seq 0x0B).mem ∧ t.threads = s.threads := by
  refine ⟨_, exec_dependenceRead_none hl hst hclear hask hz hy, ?_⟩
  have hsy : HomesRead s y := by
    have h := homesRead_deviceReads s l.asid l.depaddr 8
    have h' := homesRead_recordReady z l.asid l.queue l.seq
    rw [hz] at h
    rw [hy] at h'
    exact h.trans h'
  have hyl : y.launch? n = some l := by
    rw [hsy]
    exact hl
  have hyt : y.threads = s.threads := by rw [hsy]
  have hrec := recorded_completionRecord y l.asid l.queue l.seq 0x0B
  have hdone := y.completionRecord_withLaunches (y.mapLaunch n fun l => { l with st := .finished }).launches l.asid l.queue
    l.seq 0x0B
  rw [if_pos rfl, State.complete]
  change (y.mapLaunch n fun l => { l with st := .finished }).completionRecord l.asid l.queue l.seq 0x0B = _ at hdone
  rw [hdone]
  refine ⟨State.launch_mapLaunch hyl _, rfl, ?_⟩
  change (y.completionRecord l.asid l.queue l.seq 0x0B).threads = s.threads
  rw [hrec.frame, ← hyt]

end

/-! ### Starts on a core -/

/-- The entry after the last that is replaced is the one that has been added. -/
theorem upd_append_length {α : Type} (d x : α) (l : List α) (f : α → α) : upd d (l ++ [x]) l.length f = l ++ [f x] := by
  have hrd : rd d (l ++ [x]) l.length = x := by
    rw [rd_eq_getD, List.getD_eq_getElem?_getD, List.getElem?_append_right (le_refl _), Nat.sub_self]
    rfl
  have hwr (y : α) : wr d (l ++ [x]) l.length y = l ++ [y] := by
    clear hrd
    induction l with
    | nil => rfl
    | cons z t ih => exact congrArg (z :: ·) ih
  rw [upd, hrd, hwr]

theorem State.unit_mapUnit_same (s : State) (a c : Nat) (f : Unit_ → Unit_) :
    (s.mapUnit a c f).unit a c = f (s.unit a c) := by
  rw [State.unit, State.mapUnit, State.domain_mapDomain, if_pos rfl]
  exact (rd_upd ..).trans (if_pos rfl)

/-- The guess store of a core and context as a launch finds it there: empty, unless one of the context is resident
(R315). -/
def State.guessesAt (s : State) (a core : Nat) : Guess :=
  if (s.lcsOn core).any fun x => x.asid = a then (s.unit a core).gs else {}

theorem State.guessesAt_eq (s : State) (a core : Nat) :
    s.guessesAt a core = if ∃ x ∈ s.lcsOn core, x.asid = a then (s.unit a core).gs else {} := by
  simp [State.guessesAt]

theorem State.guessesAt_fresh (s : State) (a core : Nat) : (s.mapUnit a core Unit_.fresh).guessesAt a core = {} := by
  rw [State.guessesAt, State.unit_mapUnit_same]
  split <;> rfl

/-- The lanes of a lead thread but lane 0 do not run (R38, R47). -/
theorem st_lane_newLanes_one (entry : Word) (k : Nat) (hk : 0 < k) : (rd ({} : Lane) (newLanes 1 entry) k).st = .exited := by
  by_cases h : k < 32
  · rw [newLanes, rd_range_map _ _ _ _ h, if_neg (by omega)]
  · rw [rd_eq_getD, List.getD_eq_default _ _ (by simp [newLanes]; omega)]

/-- What the start of launch n on a core leaves: a launch-on-core, and its lead thread unless it is LEADLESS. -/
def Started (s : State) (n core key : Nat) (l : Launch) (t : State) : Prop :=
  ∃ x : LC, t.lcs = s.lcs ++ [x] ∧ x.launch = n ∧ x.core = core ∧ x.logcore = key ∧ x.asid = l.asid ∧ x.live = true ∧
    x.toPlace = l.waves ∧ x.nextWave = l.waves ∧ x.lstash = [] ∧ x.casts = [] ∧ x.mx = [] ∧
    x.queues.length = 2 + l.qbind.length ∧ (l.leadless = true → x.lead = none ∧ t.threads = s.threads) ∧
    (l.leadless = false → x.lead = some s.threads.length ∧ ∃ y : Thread, t.threads = s.threads ++ [y] ∧ y.alive = true ∧
      y.isLead = true ∧ y.core = core ∧ y.lc = s.lcs.length ∧ y.dom = l.asid ∧ y.code = l.text ∧
      y.curtag = l.reqtag ∧ y.counter = l.compctr ∧ y.b = l.bufrec.map (fun b => { bits := b }) ∧
      (y.lane 0).st = .live ∧ (y.lane 0).pc = l.leadEntry ∧ ∀ k, 0 < k → (y.lane k).st = .exited)

section
variable {s : State} {n core key : Nat} {l : Launch} (hq : ∀ x, x ∈ l.qbind → fld x 31 30 ≠ 2)
include hq

/-- A launch bound to no host work queue brings its launch-on-core and nothing else. -/
theorem State.addLC_bare (wave0 : Nat) : ∃ u : State,
    (u = { s with domains := u.domains } ∧ u.unit l.asid core = { s.unit l.asid core with gs := s.guessesAt l.asid core }) ∧
    s.addLC n l core key wave0 = { u with lcs := s.lcs ++ [l.onCore n core key wave0] } := by
  have hnil : (l.qbind.filter fun x => fld x 31 30 = 2) = [] :=
    List.filter_eq_nil_iff.mpr fun x hx => by simpa using hq x hx
  unfold State.addLC State.guessesAt
  rw [hnil]
  by_cases h : ((s.lcsOn core).any fun x => x.asid = l.asid) = true
  · simp only [h, if_true]
    exact ⟨s, ⟨rfl, rfl⟩, rfl⟩
  · simp only [h]
    exact ⟨s.mapUnit l.asid core fun u => { u with gs := {} }, ⟨rfl, s.unit_mapUnit_same ..⟩, rfl⟩

omit hq in
theorem State.mapLC_last {v : State} {L : List LC} {x : LC} (h : v.lcs = L ++ [x]) (f : LC → LC) :
    v.mapLC L.length f = { v with lcs := L ++ [f x] } := by
  rw [State.mapLC, h, upd_append_length]

/-- The launch-on-core that a start brings, with its lead thread. -/
def Launch.startedOn (l : Launch) (n core key : Nat) (lead : Option Nat) : LC :=
  { l.onCore n core key l.waves with toPlace := l.waves, lead := lead }

/-- The lead thread that a start brings. -/
def Launch.leadThread (l : Launch) (lc core : Nat) : Thread :=
  { newThread l lc core .lead 1 l.leadEntry with waveid := 0xFFFFFFFF, slot := 64, counter := l.compctr }

omit hq in
theorem State.startOn_eq (wave : State) (hadd : s.addLC n l core key l.waves =
    { wave with lcs := s.lcs ++ [l.onCore n core key l.waves] }) (ht : wave.threads = s.threads) :
    let v := wave.mapLaunch n fun l => { l with todo := l.todo.filter (· ≠ key), running := l.running ++ [key] }
    s.startOn n l core key =
      if l.leadless then { v with lcs := s.lcs ++ [l.startedOn n core key none] }
      else { v with lcs := s.lcs ++ [l.startedOn n core key (some s.threads.length)]
                    threads := s.threads ++ [l.leadThread s.lcs.length core] } := by
  unfold State.startOn
  rw [hadd]
  dsimp only
  rw [State.mapLC_last rfl]
  split
  · rfl
  · rw [State.mapLC_last rfl]
    simp only [ht, State.addThread, State.mapLaunch]
    rfl

theorem State.startOn_result (hl : s.launch? n = some l) :
    let t := s.startOn n l core key
    t.mem = s.mem ∧ t.stores = s.stores ∧
    t.launch? n = some { l with todo := l.todo.filter (· ≠ key), running := l.running ++ [key] } ∧
    t.unit l.asid core = { s.unit l.asid core with gs := s.guessesAt l.asid core } ∧ Started s n core key l t := by
  obtain ⟨u, ⟨hu, hunit⟩, hadd⟩ := State.addLC_bare (s := s) (n := n) (core := core) (key := key) hq l.waves
  have hul : u.launch? n = some l := by
    rw [hu]
    exact hl
  have hut : u.threads = s.threads := by rw [hu]
  have hmem : u.mem = s.mem := by rw [hu]
  have hstores : u.stores = s.stores := by rw [hu]
  have hqueues : (newQueues l).length = 2 + l.qbind.length := by simp [newQueues]; omega
  dsimp only
  rw [State.startOn_eq u hadd hut]
  split
  next hlead =>
    exact ⟨hmem, hstores, State.launch_mapLaunch hul _, hunit, _, rfl, rfl, rfl, rfl, rfl, rfl, rfl, rfl, rfl, rfl, rfl,
      hqueues, fun _ => ⟨rfl, hut⟩, fun hno => by simp [hlead] at hno⟩
  next hlead =>
    refine ⟨hmem, hstores, State.launch_mapLaunch hul _, hunit, _, rfl, rfl, rfl, rfl, rfl, rfl, rfl, rfl, rfl, rfl, rfl,
      hqueues, fun hyes => absurd hyes hlead, fun _ => ⟨rfl, l.leadThread s.lcs.length core, rfl, rfl, rfl, rfl, rfl, rfl,
      rfl, rfl, rfl, rfl, rfl, rfl, fun k hk => ?_⟩⟩
    exact st_lane_newLanes_one l.leadEntry k hk

end

section
variable {s : State} {n core : Nat} {l : Launch} (hl : s.launch? n = some l) (hc : s.canStart n core = true)
  (hf : s.comesFirst n core = false)
include hl hc hf

theorem exec_launchStartCore (hd : l.det = false) : exec (.launchStartCore n core) s = .next (s.startOn n l core core) := by
  change execLaunchStartCore n core s = _
  unfold execLaunchStartCore
  rw [hl]
  dsimp only
  rw [if_neg (by simp [hd, hc, hf])]

/-- A core starts the first of the logical cores that it has still to start (R61). -/
theorem exec_logicalCoreStart {key : Nat} (hd : l.det = true) (hk : key ∈ s.planned l core)
    (hmin : ∀ k, k ∈ s.planned l core → key ≤ k) :
    exec (.logicalCoreStart n core) s = .next ((s.mapUnit l.asid core Unit_.fresh).startOn n l core key) := by
  change execLogicalCoreStart n core s = _
  unfold execLogicalCoreStart
  rw [hl]
  dsimp only
  rw [if_neg (by simp [hd, hc, hf])]
  cases hsort : sortBy (fun k => k) (s.planned l core) with
  | nil =>
    have hmem := (sortBy_result (fun k => k) (s.planned l core)).1.mem_iff.mpr hk
    rw [hsort] at hmem
    cases hmem
  | cons x t =>
    obtain ⟨hx, hle⟩ := sortBy_head (fun k => k) (x := x) (by rw [hsort]; rfl)
    have hkx : x = key := le_antisymm (hle key hk) (hmin x hx)
    rw [hkx]

end

/-! ### What acceptance does -/

/-- The next entry of a launch queue can be taken now: it has been produced, there is room for its completion, its record
can be written, and it can be read (R55, R382, R383). -/
structure State.EntryReady (s : State) (a queue : Nat) (w : WorkQ) (seq : Nat) : Prop where
  up : s.bringUp = 8
  found : s.findQueue queue = some (a, w)
  runs : w.stopped = false
  heard : w.rung = false
  type : s.workType a w = 0
  asid : s.blockField a w.block 0x0C 2 = a
  next : seq = s.blockField a w.block 0x18 8 + 1
  produced : seq ≤ w.tail
  room : seq ≤ s.blockField a w.block 0x20 8 + s.workDepth a w
  after : s.blockField a w.block 0x20 8 < seq
  notWritten : seq ∉ w.written
  record : s.recordReady a queue seq = (s, true)
  read : s.askRead a (s.entryAt a w seq) 16 = (s, false)

section
variable {s : State} {a queue seq : Nat} {w : WorkQ} (h : s.EntryReady a queue w seq)
include h

theorem State.EntryReady.exec : exec (.launchAccept queue) s = .next (s.takeEntry a w seq) := by
  obtain ⟨hb, hq, hstop, hrung, htype, hasid, rfl, htail, hdepth, hdone, hwritten, hready, -⟩ := h
  exact exec_launchAccept hb hq hstop hrung htype hasid htail hdepth hdone hwritten hready

theorem answers_launchAccept_wrongSeq (hseq : s.blockField a (s.entryAt a w seq) 0 8 ≠ seq) :
    Answers (.launchAccept queue) s fun t =>
      t.mem = ((s.entryRead a w seq).completionRecord a w.queue seq 9).mem ∧ t.launches = s.launches ∧
      ∃ w', (t.domain a).workq queue = some w' ∧ w'.stopped = true := by
  have hz : Counted s (s.entryRead a w seq) := counted_entryRead
  have hw := State.of_findQueue h.found
  refine ⟨_, h.exec.trans (congrArg _ (State.takeEntry_wrongSeq h.read hseq)), ?_⟩
  generalize s.entryRead a w seq = z at hz ⊢
  obtain ⟨hframe, hqueues⟩ := recorded_completionRecord z a w.queue seq 9
  generalize z.completionRecord a w.queue seq 9 = c at hframe hqueues ⊢
  refine ⟨rfl, ?_, ?_⟩
  · rw [State.mapWorkq, State.launches_mapDomain, hframe, hz.1]
  · have hsome := hqueues a queue
    rw [hz.workq, hw, Option.isSome_some, Option.isSome_iff_exists] at hsome
    obtain ⟨w', hw'⟩ := hsome
    refine ⟨{ w' with stopped := true }, ?_, rfl⟩
    rw [State.workq_mapWorkq, if_pos ⟨rfl, (Domain.queue_of_workq hw).symm⟩, hw']
    · rfl
    · exact fun _ => rfl

/-- The state after the arbiter has taken an entry, from which its record is read. -/
def State.entryTaken (s : State) (a : Nat) (w : WorkQ) (seq : Nat) : State :=
  (s.entryRead a w seq).consumed a w.queue seq

variable {r : List Byte} {addr : Nat} (hseq : s.blockField a (s.entryAt a w seq) 0 8 = seq)
  (haddr : s.blockField a (s.entryAt a w seq) 8 8 = addr) (hrec : s.askRecord a addr = (s, false))
  (hread : (s.entryTaken a w seq).deviceRead a addr 512 = some r)
include hseq haddr hrec hread

theorem exec_launchAccept_rejected {st : Nat}
    (hrej : (s.entryTaken a w seq).rejection ((s.entryTaken a w seq).launchOf_record a w.queue seq r) r addr = some st) :
    exec (.launchAccept queue) s =
      .next (((s.entryTaken a w seq).completionRecord a w.queue seq st).answerRecord a addr) := by
  subst haddr
  rw [h.exec, State.takeEntry_record h.read hseq hrec, ← State.entryTaken, State.acceptRecord_rejected hread hrej]

theorem answers_launchAccept_accepted
    (hrej : (s.entryTaken a w seq).rejection ((s.entryTaken a w seq).launchOf_record a w.queue seq r) r addr = none)
    (hdep : ((s.entryTaken a w seq).launchOf_record a w.queue seq r).depaddr = 0) :
    let l := (s.entryTaken a w seq).launchOf_record a w.queue seq r
    Answers (.launchAccept queue) s fun t => t.mem = (s.entryTaken a w seq).mem ∧ t.threads = s.threads ∧
      t.launches = s.launches ++
        [{ l with st := .eligible, todo := if l.det then List.range (l.gx * l.gy) else s.coreSet l }] := by
  subst haddr
  have hu : (s.entryTaken a w seq).threads = s.threads ∧ (s.entryTaken a w seq).launches = s.launches ∧
      (s.entryTaken a w seq).enabled = s.enabled := by
    obtain ⟨m, ds, ac, ob, hcons⟩ := (s.entryRead a w seq).consumed_frame a w.queue seq
    have hz : s.entryRead a w seq = _ := counted_entryRead.1
    rw [State.entryTaken, hcons]
    have hthreads := congrArg State.threads hz
    have hlaunches := congrArg State.launches hz
    have henabled := congrArg State.enabled hz
    exact ⟨hthreads, hlaunches, henabled⟩
  refine ⟨_, h.exec.trans (congrArg _ (State.takeEntry_record h.read hseq hrec)), ?_⟩
  rw [← State.entryTaken, State.acceptRecord_accepted hread hrej hdep]
  generalize s.entryTaken a w seq = u at hu ⊢
  obtain ⟨hthreads, hlaunches, henabled⟩ := hu
  have hset : u.coreSet = s.coreSet := by
    unfold State.coreSet State.enabledCores
    rw [henabled]
  rw [hset, hlaunches]
  obtain ⟨hframe, -⟩ := counted_answerRecord ({ u with launches := _ } : State) a (s.blockField a (s.entryAt a w seq) 8 8)
  rw [hframe]
  exact ⟨rfl, hthreads, rfl⟩

end

/-! ### The statement -/

/-- Settles O41, a lemma for each of the steps. -/
theorem launchSteps : Obligations.LaunchSteps := by
  unfold Obligations.LaunchSteps
  intro s fn queue n core v
  refine ⟨fun a w hv hb hq hr ht hno => ⟨fun bs hask hclear hbs => ?_, fun hask hclear => ?_, fun hask => ?_⟩,
    fun h => exec_doorbell_none h, fun a w hb hq hstop hrung htype hasid => ?_, fun l hl hst hclear hask => ?_,
    fun l hl hc hf hqb => ?_⟩
  · exact ⟨_, exec_doorbell hv hb hq hr ht hno, State.readTail_now (State.of_findQueue hq) hask hclear hbs⟩
  · refine ⟨_, exec_doorbell hv hb hq hr ht hno, ?_⟩
    rw [State.readTail_waits (State.of_findQueue hq) hask hclear]
    refine ⟨rfl, ?_⟩
    rw [State.workq_mapWorkq, if_pos ⟨rfl, rfl⟩, State.of_findQueue hq]
    · rfl
    · exact fun _ => rfl
  · refine ⟨_, exec_doorbell hv hb hq hr ht hno, ?_⟩
    rw [State.readTail_asks (State.of_findQueue hq) hask]
    refine ⟨?_, ?_⟩
    · rw [State.mapWorkq, State.mem_mapDomain, homesRead_askBytes s a w.block 64 .load]
    · rw [State.workq_mapWorkq, if_pos ⟨rfl, rfl⟩, SameQueues.workq (sameQueues_askBytes s a w.block 64 .load), State.of_findQueue hq]
      · rfl
      · exact fun _ => rfl
  · intro seq done entry ready z addr u
    have hentry (h : ready) : s.EntryReady a queue w seq := by
      obtain ⟨htail, hdepth, hdone, hwritten, hready, hread⟩ := h
      exact ⟨hb, hq, hstop, hrung, htype, hasid, rfl, htail, hdepth, hdone, hwritten, hready, hread⟩
    exact ⟨fun h hseq => answers_launchAccept_wrongSeq (hentry h) hseq, fun r h hseq hrec hread =>
      ⟨fun st hrej => exec_launchAccept_rejected (hentry h) hseq rfl hrec hread hrej,
        fun hrej hdep => answers_launchAccept_accepted (hentry h) hseq rfl hrec hread hrej hdep⟩⟩
  · refine ⟨fun z bs hz hlt => ?_, fun z bs hz hge => answers_dependenceRead_comes hl hst hclear hask hz hge,
      fun z y hz hy => answers_dependenceRead_fails hl hst hclear hask hz hy, fun z y hz hy => ?_⟩
    · rw [exec_dependenceRead_some hl hst hclear hask hz, if_neg (by omega)]
    · exact exec_dependenceRead_none hl hst hclear hask hz hy
  · intro starts
    refine ⟨fun hd => ⟨_, exec_launchStartCore hl hc hf hd, ?_⟩,
      fun hd key hk hmin => ⟨_, exec_logicalCoreStart hl hc hf hd hk hmin, ?_⟩⟩
    · obtain ⟨hmem, hstores, hlaunch, hunit, hstarted⟩ := s.startOn_result (core := core) (key := core) hqb hl
      rw [State.guessesAt_eq] at hunit
      exact ⟨hmem, hstores, hlaunch, hunit, hstarted⟩
    · obtain ⟨hmem, hstores, hlaunch, hunit, hstarted⟩ :=
        (s.mapUnit l.asid core Unit_.fresh).startOn_result (core := core) (key := key) hqb hl
      rw [State.guessesAt_fresh, State.unit_mapUnit_same] at hunit
      exact ⟨hmem, hstores, hlaunch, hunit, hstarted⟩

end Sys2Proof.Machine
end

section
/-! SUPPORT. Queue registers and the dealing of entries to lanes (R48, R58, R243 to R247). -/

namespace Sys2Proof.Machine

/-! ### One queue register changes -/

/-- Nothing differs but one queue register, which is g, and the LSTASH area of its launch-on-core, which is m. -/
def FifoIs (s : State) (lc q : Nat) (t : State) (g : Fifo) (m : List Host.Cell) : Prop :=
  t = { s with lcs := t.lcs } ∧ (∀ k, k ≠ lc → t.lc k = s.lc k) ∧
  t.lc lc = { s.lc lc with queues := (t.lc lc).queues, lstash := m } ∧ (t.lc lc).fifo q = g ∧
  ∀ k, k ≥ 3 → k ≠ q → (t.lc lc).fifo k = (s.lc lc).fifo k

/-- The entry that is k behind the oldest of a queue register: that of q5 to q15 lies in the LSTASH area (R58). -/
def Fifo.entry (f : Fifo) (q : Nat) (m : List Host.Cell) (k : Nat) : Dword :=
  if q < 5 then rd 0 f.entries k else BitVec.ofNat 64 (ofBytes (memGetN m (f.slot k) 8))

theorem rd_drop {α : Type} (d : α) (l : List α) (n k : Nat) : rd d (l.drop n) k = rd d l (n + k) := by
  simp [rd_eq_getD, List.getD_eq_getElem?_getD, List.getElem?_drop]

theorem Fifo.entry_drop (f : Fifo) (q n k p : Nat) (m : List Host.Cell) :
    ({ f with entries := f.entries.drop n, permits := p, head := f.head + n } : Fifo).entry q m k = f.entry q m (n + k) := by
  unfold Fifo.entry
  split
  · exact rd_drop ..
  · simp only [Fifo.slot, Nat.add_assoc]

section
variable {s t : State} {lc q : Nat} {g : Fifo} {m : List Host.Cell}

theorem FifoIs.refl (s : State) (lc q : Nat) : FifoIs s lc q s ((s.lc lc).fifo q) (s.lc lc).lstash :=
  ⟨rfl, fun _ _ => rfl, rfl, rfl, fun _ _ _ => rfl⟩

theorem State.fifo_mapFifo (t : State) (lc q k : Nat) (f : Fifo → Fifo) (hq : q ≥ 3) (hk : k ≥ 3) :
    ((t.mapFifo lc q f).lc lc).fifo k = if k = q then f ((t.lc lc).fifo q) else (t.lc lc).fifo k := by
  rw [State.mapFifo, State.lc_mapLC, if_pos rfl, LC.fifo]
  refine (rd_upd ..).trans ?_
  have hkq : k - 3 = q - 3 ↔ k = q := by omega
  simp only [hkq]
  rfl

theorem FifoIs.mapFifo (h : FifoIs s lc q t g m) (hq : q ≥ 3) (f : Fifo → Fifo) :
    FifoIs s lc q (t.mapFifo lc q f) (f g) m := by
  obtain ⟨hs, hl, hlc, hg, ho⟩ := h
  refine ⟨by rw [hs]; rfl, fun k hk => ?_, ?_, ?_, fun k hk hne => ?_⟩
  · rw [State.mapFifo, State.lc_mapLC, if_neg hk, hl k hk]
  · rw [State.mapFifo, State.lc_mapLC, if_pos rfl, hlc]
  · rw [State.fifo_mapFifo _ _ _ _ _ hq hq, if_pos rfl, hg]
  · rw [State.fifo_mapFifo _ _ _ _ _ hq hk, if_neg hne, ho k hk hne]

theorem FifoIs.mapStash (h : FifoIs s lc q t g m) (f : List Host.Cell → List Host.Cell) :
    FifoIs s lc q (t.mapLC lc fun x => { x with lstash := f x.lstash }) g (f m) := by
  obtain ⟨hs, hl, hlc, hg, ho⟩ := h
  have hstash : (t.lc lc).lstash = m := by rw [hlc]
  have hnew : ((t.mapLC lc fun x => { x with lstash := f x.lstash }).lc lc) = { t.lc lc with lstash := f m } := by
    rw [State.lc_mapLC, if_pos rfl, hstash]
  refine ⟨by rw [hs]; rfl, fun k hk => ?_, ?_, ?_, fun k hk hne => ?_⟩
  · rw [State.lc_mapLC, if_neg hk, hl k hk]
  · rw [hnew, hlc]
  · rw [hnew]
    exact hg
  · rw [hnew]
    exact ho k hk hne

theorem FifoIs.cur (h : FifoIs s lc q t g m) : t.cur = s.cur := by rw [h.1]

theorem State.boundQ_of_kind {s : State} (h : ((s.lc lc).fifo q).kind ≠ 2) : s.boundQ lc q = none := if_neg h

/-! ### Entries of a stash FIFO -/

theorem FifoIs.pushEntry (h : FifoIs s lc q t g m) (hq : q ≥ 3) (hg : g.kind ≠ 2) (x : Dword) :
    FifoIs s lc q (t.pushEntry lc q x) { g with entries := g.entries ++ [x], permits := g.permits - 1 }
      (if q < 5 then m else memPutN m (g.slot g.entries.length) (bytesOf 8 x.toNat)) := by
  have hgt : (t.lc lc).fifo q = g := h.2.2.2.1
  unfold State.pushEntry
  rw [State.boundQ_of_kind (by rw [hgt]; exact hg)]
  dsimp only
  rw [hgt]
  by_cases h5 : q < 5
  · rw [if_pos h5, if_pos h5]
    exact (h.mapFifo hq _).mapFifo hq _
  · rw [if_neg h5, if_neg h5]
    exact ((h.mapStash fun m => memPutN m (g.slot g.entries.length) (bytesOf 8 x.toNat)).mapFifo hq _).mapFifo hq _

theorem FifoIs.popEntry (h : FifoIs s lc q t g m) (hq : q ≥ 3) (hg : g.kind ≠ 2) :
    FifoIs s lc q (t.popEntry lc q).1 { g with entries := g.entries.drop 1, permits := g.permits + 1, head := g.head + 1 } m ∧
    (t.popEntry lc q).2 = g.entry q m 0 := by
  have hgt : (t.lc lc).fifo q = g := h.2.2.2.1
  have hmt : (t.lc lc).lstash = m := by rw [h.2.2.1]
  unfold State.popEntry
  rw [State.boundQ_of_kind (by rw [hgt]; exact hg)]
  dsimp only
  rw [hgt, hmt]
  exact ⟨(h.mapFifo hq _).mapFifo hq _, rfl⟩

/-- The LSTASH area after entries have been pushed behind those of a stash FIFO. -/
def Fifo.pushBytes (f : Fifo) (q : Nat) (m : List Host.Cell) (xs : List Dword) : List Host.Cell :=
  if q < 5 then m else
  (List.range xs.length).foldl (fun m i => memPutN m (f.slot (f.entries.length + i)) (bytesOf 8 (rd 0 xs i).toNat)) m

theorem Fifo.pushBytes_snoc (f : Fifo) (q : Nat) (m : List Host.Cell) (xs : List Dword) (x : Dword) :
    f.pushBytes q m (xs ++ [x]) = if q < 5 then m else
      memPutN (f.pushBytes q m xs) (f.slot (f.entries.length + xs.length)) (bytesOf 8 x.toNat) := by
  unfold Fifo.pushBytes
  by_cases h5 : q < 5
  · simp [h5]
  · simp only [h5, if_false, List.length_append, List.length_singleton, List.range_succ, List.foldl_append, List.foldl_cons,
      List.foldl_nil]
    have hlast : rd 0 (xs ++ [x]) xs.length = x := by
      rw [rd_eq_getD, List.getD_eq_getElem?_getD, List.getElem?_append_right (le_refl _), Nat.sub_self]
      rfl
    rw [hlast]
    congr 1
    refine List.foldl_ext _ _ _ fun m i hi => ?_
    have hi' : i < xs.length := List.mem_range.mp hi
    rw [rd_eq_getD, rd_eq_getD, List.getD_eq_getElem?_getD, List.getD_eq_getElem?_getD, List.getElem?_append_left hi']

/-- Entries that are pushed in turn lie behind those before. -/
theorem FifoIs.pushEntries (h : FifoIs s lc q t g m) (hq : q ≥ 3) (hg : g.kind ≠ 2) (xs : List Dword) :
    FifoIs s lc q (xs.foldl (fun t x => t.pushEntry lc q x) t)
      { g with entries := g.entries ++ xs, permits := g.permits - xs.length } (g.pushBytes q m xs) := by
  induction xs using List.reverseRecOn with
  | nil => simpa [Fifo.pushBytes] using h
  | append_singleton xs x ih =>
    rw [List.foldl_append, List.foldl_cons, List.foldl_nil, Fifo.pushBytes_snoc]
    have hstep := ih.pushEntry hq hg x
    have hlen : (g.entries ++ xs).length = g.entries.length + xs.length := List.length_append
    have hperm : g.permits - (xs ++ [x]).length = g.permits - xs.length - 1 := by
      rw [List.length_append, List.length_singleton]
      omega
    rw [hperm, ← List.append_assoc]
    simp only [hlen] at hstep
    by_cases h5 : q < 5
    · rw [if_pos h5] at hstep ⊢
      simpa [Fifo.pushBytes, h5] using hstep
    · rw [if_neg h5] at hstep ⊢
      exact hstep

/-- Entries that are popped in turn are the oldest. -/
theorem FifoIs.popEntries (h : FifoIs s lc q t g m) (hq : q ≥ 3) (hg : g.kind ≠ 2) (n : Nat) :
    FifoIs s lc q (t.popEntries lc q n).1 { g with entries := g.entries.drop n, permits := g.permits + n, head := g.head + n } m ∧
    (t.popEntries lc q n).2.length = n ∧ ∀ k, k < n → rd 0 (t.popEntries lc q n).2 k = g.entry q m k := by
  induction n generalizing t g with
  | zero => exact ⟨by simpa [State.popEntries] using h, rfl, fun k hk => absurd hk (by omega)⟩
  | succ n ih =>
    obtain ⟨h1, hx⟩ := h.popEntry hq hg
    obtain ⟨hn, hlen, hxs⟩ := ih h1 hg
    dsimp only [State.popEntries]
    refine ⟨?_, ?_, fun k hk => ?_⟩
    · have hfifo : ({ g with entries := g.entries.drop (n + 1), permits := g.permits + (n + 1), head := g.head + (n + 1) } : Fifo) =
          { g with
            entries := (g.entries.drop 1).drop n, permits := g.permits + 1 + n, head := g.head + 1 + n } := by
        rw [List.drop_drop, Nat.add_comm n 1, Nat.add_assoc, Nat.add_assoc]
      rw [hfifo]
      exact hn
    · rw [List.length_cons, hlen]
    · cases k with
      | zero => exact hx
      | succ k =>
        rw [rd_cons_succ, hxs k (by omega), Fifo.entry_drop, Nat.add_comm]

end

end Sys2Proof.Machine
end

section
/-! SUPPORT. The dealing of entries to the lanes of Active() in ascending order (R247). -/

namespace Sys2Proof.Machine

/-- The place of a lane among some lanes: how many of them are below it. -/
def rankIn (ks : List Nat) (l : Nat) : Nat := (ks.filter fun k => k < l).length

theorem sorted_lanesOf (m : Mask) : (lanesOf m).Pairwise (· < ·) := List.pairwise_lt_range.filter _

theorem rankIn_cons_self {k : Nat} {ks : List Nat} (h : ∀ j ∈ ks, k < j) : rankIn (k :: ks) k = 0 := by
  have hnone : ks.filter (fun j => j < k) = [] := by
    refine List.filter_eq_nil_iff.mpr fun j hj => ?_
    have := h j hj
    simp only [decide_eq_true_eq]
    omega
  simp [rankIn, hnone]

theorem rankIn_cons_mem {k l : Nat} {ks : List Nat} (h : ∀ j ∈ ks, k < j) (hl : l ∈ ks) :
    rankIn (k :: ks) l = rankIn ks l + 1 := by
  simp [rankIn, h l hl]

/-- Each lane is given the entry of its place. -/
theorem dealt_eq {ks : List Nat} (hs : ks.Pairwise (· < ·)) (xs : List Dword) {l : Nat} (hl : l ∈ ks) :
    dealt ks xs l = (rd 0 xs (rankIn ks l)).setWidth 32 := by
  induction ks generalizing xs with
  | nil => cases hl
  | cons k ks ih =>
    obtain ⟨hk, hs⟩ := List.pairwise_cons.mp hs
    cases xs with
    | nil => simp [dealt, rd_eq_getD]
    | cons x xs =>
      rcases List.mem_cons.mp hl with rfl | hl
      · rw [rankIn_cons_self hk]
        simp [dealt, BitVec.setWidth_eq_extractLsb' (show 32 ≤ 64 by omega)]
      · have hne : k ≠ l := by have := hk l hl; omega
        rw [rankIn_cons_mem hk hl, rd_cons_succ, ← ih hs xs hl]
        simp [dealt, hne]

/-- The lanes that the first h entries reach. -/
theorem contains_take {ks : List Nat} (hs : ks.Pairwise (· < ·)) (h : Nat) {l : Nat} (hl : l ∈ ks) :
    (ks.take h).contains l = decide (rankIn ks l < h) := by
  induction ks generalizing h with
  | nil => cases hl
  | cons k ks ih =>
    obtain ⟨hk, hs⟩ := List.pairwise_cons.mp hs
    cases h with
    | zero => simp
    | succ h =>
      rcases List.mem_cons.mp hl with rfl | hl
      · simp [rankIn_cons_self hk]
      · have hne : l ≠ k := by have := hk l hl; omega
        have := ih hs h hl
        simp only [List.contains_eq_mem, decide_eq_decide] at this
        simp [rankIn_cons_mem hk hl, hne, this]

theorem rankIn_take {ks : List Nat} (hs : ks.Pairwise (· < ·)) (h : Nat) {l : Nat} (hl : l ∈ ks.take h) :
    rankIn (ks.take h) l = rankIn ks l := by
  induction ks generalizing h with
  | nil => simp
  | cons k ks ih =>
    obtain ⟨hk, hs⟩ := List.pairwise_cons.mp hs
    cases h with
    | zero => simp at hl
    | succ h =>
      have hk' : ∀ j ∈ ks.take h, k < j := fun j hj => hk j (List.mem_of_mem_take hj)
      rw [List.take_succ_cons] at hl ⊢
      rcases List.mem_cons.mp hl with rfl | hl
      · rw [rankIn_cons_self hk', rankIn_cons_self hk]
      · rw [rankIn_cons_mem hk' hl, rankIn_cons_mem hk (List.mem_of_mem_take hl), ih hs h hl]

/-! ### Results that agree on the lanes of Active() -/

theorem LaneResult.congr {s t : State} {p : Pipe} {d : Dst} {f g : Nat → Word} (h : LaneResult s t p d f)
    (he : ∀ l ∈ lanesOf s.cur.mask, f l = g l) : LaneResult s t p d g := by
  refine ⟨h.1, fun l hl => ?_⟩
  obtain ⟨hlane, hv, hlatch⟩ := h.2 l hl
  refine ⟨hlane, fun n => ?_, fun k => ?_⟩
  · rw [hv n]
    by_cases hm : s.cur.mask.getLsbD l = true
    · rw [he l ((mem_lanesOf _ _).mpr ⟨hl, hm⟩)]
    · simp [hm]
  · rw [hlatch k]
    by_cases hm : s.cur.mask.getLsbD l = true
    · rw [he l ((mem_lanesOf _ _).mpr ⟨hl, hm⟩)]
    · simp [hm]

theorem PredResult.congr {s t : State} {p : PReg} {f g : Nat → Bool} (h : PredResult s t p f)
    (he : ∀ l ∈ lanesOf s.cur.mask, f l = g l) : PredResult s t p g := by
  refine ⟨h.1, fun l hl => ?_⟩
  obtain ⟨hlane, hp⟩ := h.2 l hl
  refine ⟨hlane, fun q => ?_⟩
  rw [hp q]
  by_cases hm : s.cur.mask.getLsbD l = true
  · rw [he l ((mem_lanesOf _ _).mpr ⟨hl, hm⟩)]
  · simp [hm]

/-- Entries dealt to the first lanes of Active(): register r of each lane that one reaches. -/
theorem State.deal_result (s : State) (r : LReg) (h : Nat) (xs : List Dword) :
    let lanes := lanesOf s.cur.mask
    let t := s.mapActive fun l L => if (lanes.take h).contains l then L.setV r.toNat (dealt (lanes.take h) xs l) else L
    OnlyLanes s t ∧ ∀ l, l < 32 → t.me.lane l = { s.me.lane l with v := (t.me.lane l).v } ∧
      ∀ m, rd 0 (t.me.lane l).v m = if s.cur.mask.getLsbD l = true ∧ rankIn lanes l < h ∧ m = r.toNat then
        (rd 0 xs (rankIn lanes l)).setWidth 32 else rd 0 (s.me.lane l).v m := by
  intro lanes t
  refine ⟨s.onlyLanes_mapActive _, fun l hl => ?_⟩
  rw [show t.me.lane l = _ from s.lane_mapActive _ l hl]
  by_cases hm : s.cur.mask.getLsbD l = true
  · have hmem : l ∈ lanes := (mem_lanesOf _ _).mpr ⟨hl, hm⟩
    have hc : (lanes.take h).contains l = decide (rankIn lanes l < h) := contains_take (sorted_lanesOf _) h hmem
    rw [if_pos hm, hc]
    by_cases hr : rankIn lanes l < h
    · have hin : l ∈ lanes.take h := by simpa [hr] using hc
      have hd : dealt (lanes.take h) xs l = (rd 0 xs (rankIn lanes l)).setWidth 32 := by
        rw [dealt_eq ((sorted_lanesOf _).sublist (List.take_sublist ..)) xs hin, rankIn_take (sorted_lanesOf _) h hin]
      simp only [hr, decide_true, if_true, hm, true_and, hd]
      exact ⟨rfl, fun m => by simp [Lane.setV, rd_wr]⟩
    · simp [hr]
  · simp [hm]

end Sys2Proof.Machine
end

section
/-! SUPPORT. What the moving of an entry leaves as it is, and the waits of words on queue registers (R243 to R247). -/

namespace Sys2Proof.Machine

/-! ### The frame of an entry that moves -/

/-- Nothing differs but memory, what domains and launches-on-cores hold, counts of accesses, what waits to go out to the
host, and free values drawn. -/
def EntryMoved (s t : State) : Prop :=
  t = { s with mem := t.mem, domains := t.domains, lcs := t.lcs, access := t.access, outbox := t.outbox, draws := t.draws }

section
variable {s t u : State}

theorem EntryMoved.refl (s : State) : EntryMoved s s := rfl

theorem EntryMoved.trans (h : EntryMoved s t) (k : EntryMoved t u) : EntryMoved s u := by
  rw [EntryMoved, k, h]

theorem EntryMoved.cur (h : EntryMoved s t) : t.cur = s.cur := by rw [h]

theorem Metered.entryMoved (h : Metered s t) : EntryMoved s t := by
  rw [EntryMoved, h]

theorem HomesRead.entryMoved (h : HomesRead s t) : EntryMoved s t := h.metered.entryMoved

theorem Recorded.entryMoved (h : Recorded s t) : EntryMoved s t := by
  rw [EntryMoved, h.frame]

end

theorem entryMoved_mapFifo (s : State) (lc q : Nat) (f : Fifo → Fifo) : EntryMoved s (s.mapFifo lc q f) := rfl

theorem entryMoved_mapWorkq (s : State) (a n : Nat) (f : WorkQ → WorkQ) : EntryMoved s (s.mapWorkq a n f) := rfl

theorem entryMoved_chargeLines (s : State) (lc n : Nat) : EntryMoved s (s.chargeLines lc n) := by
  have hcount (asid core event k : Nat) : EntryMoved s (s.count asid core event k) := by
    unfold State.count
    dsimp only
    split <;> rfl
  exact (hcount ..).trans (metered_spendFree ..).entryMoved

theorem entryMoved_readConsumed (s : State) (a n : Nat) : EntryMoved s (s.readConsumed a n) := by
  unfold State.readConsumed
  split
  · dsimp only
    split
    · exact .refl s
    · exact (homesRead_countLines ..).entryMoved.trans (entryMoved_mapWorkq ..)
  · exact .refl s

theorem entryMoved_consumed (s : State) (a n upto : Nat) : EntryMoved s (s.consumed a n upto) := by
  unfold State.consumed
  split
  · dsimp only
    have hb := (recorded_setBlock s a (by assumption : WorkQ).block 0x18 8 upto).entryMoved
    split
    · exact hb.trans (homesRead_readTail ..).entryMoved
    · exact hb
  · exact .refl s

theorem entryMoved_draw (s : State) : EntryMoved s s.draw.1 := rfl

theorem entryMoved_popWork (s : State) (a : Nat) (w : WorkQ) : EntryMoved s (s.popWork a w).1 := by
  have hdone (v : State) (upto : Nat) (f : WorkQ → WorkQ) : EntryMoved v ((v.consumed a w.queue upto).mapWorkq a w.queue f) :=
    (entryMoved_consumed ..).trans (entryMoved_mapWorkq ..)
  rw [State.popWork]
  split
  next t got hread =>
    have ht : EntryMoved s t := by
      have h := homesRead_deviceReads s a
        (s.blockField a w.block 0 8 + 8 * ((s.blockField a w.block 0x18 8 + 1) % s.workDepth a w)) 8
      rw [hread] at h
      exact h.entryMoved
    split
    · exact ht.trans (hdone ..)
    · exact (ht.trans (hdone ..)).trans (entryMoved_draw _)

theorem entryMoved_pushWork (s : State) (a : Nat) (w : WorkQ) (x : Dword) : EntryMoved s (s.pushWork a w x) := by
  have hwrite (v : State) (va : Nat) (bs : List Byte) : EntryMoved v ((v.deviceWrite a va bs).getD v) := by
    cases h : v.deviceWrite a va bs with
    | none => exact .refl v
    | some t => exact (recorded_deviceWrite h).entryMoved
  exact ((((entryMoved_readConsumed ..).trans (hwrite ..)).trans (recorded_setBlock ..).entryMoved).trans
    (entryMoved_mapWorkq ..))

theorem entryMoved_pushEntry (s : State) (lc q : Nat) (x : Dword) : EntryMoved s (s.pushEntry lc q x) := by
  unfold State.pushEntry
  refine EntryMoved.trans ?_ (entryMoved_mapFifo ..)
  split
  · exact (entryMoved_chargeLines ..).trans (entryMoved_pushWork ..)
  · dsimp only
    split <;> rfl

theorem entryMoved_popEntry (s : State) (lc q : Nat) : EntryMoved s (s.popEntry lc q).1 := by
  unfold State.popEntry
  refine EntryMoved.trans ?_ (entryMoved_mapFifo ..)
  split
  · exact (entryMoved_chargeLines ..).trans (entryMoved_popWork ..)
  · rfl

theorem entryMoved_popEntries (s : State) (lc q n : Nat) : EntryMoved s (s.popEntries lc q n).1 := by
  induction n generalizing s with
  | zero => exact .refl s
  | succ n ih => exact (entryMoved_popEntry ..).trans (ih _)

/-- The pushes of the lanes' values, of which none moves a lane's register. -/
theorem State.pushLanes_eq (s t : State) (hc : t.cur = s.cur) (q : Nat) (a : Src) (lanes : List Nat) :
    lanes.foldl (fun z l => z.pushEntry z.cur.old.lc q ((z.src l a).setWidth 64)) t =
      (lanes.map fun l => (s.src l a).setWidth 64).foldl (fun z x => z.pushEntry s.cur.old.lc q x) t := by
  induction lanes generalizing t with
  | nil => rfl
  | cons l lanes ih =>
    have hsrc : t.src l a = s.src l a := by simp only [State.src, hc]
    rw [List.map_cons, List.foldl_cons, List.foldl_cons, hsrc, hc]
    exact ih _ ((entryMoved_pushEntry ..).cur.trans hc)

/-- The pop of one entry. -/
theorem State.popEntries_one (s : State) (lc q : Nat) :
    s.popEntries lc q 1 = ((s.popEntry lc q).1, [(s.popEntry lc q).2]) := rfl

/-! ### Waits -/

/-- A thread's turn at a queue register, which it has taken (R245). -/
def State.turnTaken (s : State) (q : Nat) (isPush : Bool) : State :=
  if s.cur.old.isLead then s
  else s.mapFifo s.cur.old.lc q fun f => if isPush then { f with pushes := f.pushes + 1 } else { f with pops := f.pops + 1 }

theorem State.cur_turnTaken (s : State) (q : Nat) (isPush : Bool) : (s.turnTaken q isPush).cur = s.cur := by
  unfold State.turnTaken
  split <;> rfl

section
variable {s : State} {q n : Nat} {eff : State → State}

/-- A register that is bound to no host work queue waits for no block of one. -/
theorem State.withBlock_unbound (h : s.boundQ s.cur.old.lc q = none) : s.withBlock q eff = eff s := by
  unfold State.withBlock
  dsimp only
  rw [h]

theorem State.withSlots_unbound {isPush : Bool} (h : s.boundQ s.cur.old.lc q = none) :
    s.withSlots q n isPush eff = eff s := by
  unfold State.withSlots
  dsimp only
  rw [h]

/-- A push or a pop of a stash FIFO waits for room or entries, and then takes its turn. -/
theorem State.queueAccess_unbound {isPush lanes : Bool} (hb : s.boundQ s.cur.old.lc q = none)
    (ht : s.queueTrap s.cur.tid q n isPush = none) :
    s.queueAccess q n isPush lanes eff =
      if s.waitOver s.cur.tid (if isPush then .push q n else .pop q n) then eff (s.turnTaken q isPush)
      else s.block (if isPush then .push q n else .pop q n) := by
  unfold State.queueAccess
  rw [State.withBlock_unbound hb, ht]
  dsimp only
  by_cases hw : s.waitOver s.cur.tid (if isPush then .push q n else .pop q n) = true
  · rw [State.await_over hw, if_pos hw, State.withSlots_unbound hb]
    rfl
  · rw [State.await_blocks hw, if_neg hw]

/-- The block and the slots of a host work queue are there, and their homes let the device at them. -/
def State.slotsReady (s : State) (w : WorkQ) (n : Nat) (isPush : Bool) : Prop :=
  let asid := (s.lc s.cur.old.lc).asid
  let slots := s.workSlots asid w n isPush
  (∀ va, va ∈ w.block :: slots → ((s.domain asid).page va).isSome = true) ∧
  s.waitOver s.cur.tid (.lines [(asid, lineOf w.block)]) = true ∧
  s.waitOver s.cur.tid (.free ((w.block :: if isPush then slots else []).filterMap (s.domain asid).place)) = true ∧
  s.waitOver s.cur.tid (.lines (slots.map fun va => (asid, lineOf va))) = true

variable {w : WorkQ} (hb : s.boundQ s.cur.old.lc q = some w)
include hb

theorem State.withBlock_ready (hp : ((s.domain (s.lc s.cur.old.lc).asid).page w.block).isSome = true)
    (hl : s.waitOver s.cur.tid (.lines [((s.lc s.cur.old.lc).asid, lineOf w.block)]) = true) :
    s.withBlock q eff = eff s := by
  unfold State.withBlock
  dsimp only
  rw [hb]
  dsimp only
  rw [State.awaitPages_of_pages (by simpa using hp), State.await_over hl]

theorem State.withSlots_ready {isPush : Bool} (h : s.slotsReady w n isPush) : s.withSlots q n isPush eff = eff s := by
  obtain ⟨hpages, -, hfree, hlines⟩ := h
  unfold State.withSlots
  dsimp only
  rw [hb]
  dsimp only
  split
  · rfl
  · rw [State.awaitPages_of_pages hpages, State.await_over hfree, State.await_over hlines]

/-- A push or a pop of a host work queue that nothing holds up takes its turn. -/
theorem State.queueAccess_ready {isPush lanes : Bool} (h : s.slotsReady w n isPush)
    (hw : s.waitOver s.cur.tid (if isPush then .push q n else .pop q n) = true)
    (ht : s.queueTrap s.cur.tid q n isPush = none) :
    s.queueAccess q n isPush lanes eff = eff (s.turnTaken q isPush) := by
  unfold State.queueAccess
  rw [State.withBlock_ready hb (h.1 _ (List.mem_cons_self ..)) h.2.1, ht]
  dsimp only
  rw [State.await_over hw, State.withSlots_ready hb h]
  rfl

end

end Sys2Proof.Machine
end

section
/-! OBLIGATION. The words on queue registers that are bound to no host work queue (O25; R243 to R248, R58). -/

namespace Sys2Proof.Machine

section
variable {s : State} {q : Nat}

/-! ### Turns -/

/-- What a word adds to the count of a queue register: the lead thread takes no turns (R245). -/
def State.turnCount (s : State) : Nat := if s.cur.old.isLead then 0 else 1

theorem State.fifoIs_turnTaken_push (hq : q ≥ 3) :
    let f := (s.lc s.cur.old.lc).fifo q
    FifoIs s s.cur.old.lc q (s.turnTaken q true) { f with pushes := f.pushes + s.turnCount } (s.lc s.cur.old.lc).lstash := by
  intro f
  unfold State.turnTaken State.turnCount
  split
  · exact FifoIs.refl s _ q
  · exact (FifoIs.refl s _ q).mapFifo hq _

theorem State.fifoIs_turnTaken_pop (hq : q ≥ 3) :
    let f := (s.lc s.cur.old.lc).fifo q
    FifoIs s s.cur.old.lc q (s.turnTaken q false) { f with pops := f.pops + s.turnCount } (s.lc s.cur.old.lc).lstash := by
  intro f
  unfold State.turnTaken State.turnCount
  split
  · exact FifoIs.refl s _ q
  · exact (FifoIs.refl s _ q).mapFifo hq _

/-! ### Pushes and pops -/

theorem State.queueHeld_unbound {lc : Nat} (h : s.boundQ lc q = none) :
    s.queueHeld lc q = ((s.lc lc).fifo q).entries.length := by
  unfold State.queueHeld
  rw [h]

/-- A push of a stash FIFO: it waits for room, and its entries lie behind those before. -/
def State.Pushed (s : State) (q : Nat) (xs : List Dword) (t : State) : Prop :=
  let f := (s.lc s.cur.old.lc).fifo q
  if s.waitOver s.cur.tid (.push q xs.length) then
    FifoIs s s.cur.old.lc q t
      { f with entries := f.entries ++ xs, permits := f.permits - xs.length, pushes := f.pushes + s.turnCount }
      (f.pushBytes q (s.lc s.cur.old.lc).lstash xs)
  else t = s.block (.push q xs.length)

/-- A pop of a stash FIFO: it waits for entries, takes the oldest, and then does the rest of its word. -/
def State.Popped (s : State) (q n : Nat) (done : State → State → Prop) (t : State) : Prop :=
  let f := (s.lc s.cur.old.lc).fifo q
  if s.waitOver s.cur.tid (.pop q n) then
    ∃ z, FifoIs s s.cur.old.lc q z
      { f with
        entries := f.entries.drop n, permits := f.permits + n, pops := f.pops + s.turnCount, head := f.head + n }
      (s.lc s.cur.old.lc).lstash ∧ done z t
  else t = s.block (.pop q n)

variable (hq : q ≥ 3) (hk : ((s.lc s.cur.old.lc).fifo q).kind ≠ 2)
include hq hk

theorem State.pushed_queueAccess {xs : List Dword} {lanes : Bool} {eff : State → State}
    (ht : s.queueTrap s.cur.tid q xs.length true = none)
    (he : eff (s.turnTaken q true) = xs.foldl (fun z x => z.pushEntry s.cur.old.lc q x) (s.turnTaken q true)) :
    s.Pushed q xs (s.queueAccess q xs.length true lanes eff) := by
  rw [State.queueAccess_unbound (State.boundQ_of_kind hk) ht]
  unfold State.Pushed
  simp only [if_true]
  split
  · rw [he]
    exact (State.fifoIs_turnTaken_push hq).pushEntries hq hk xs
  · rfl

theorem State.popped_queueAccess {n : Nat} {lanes : Bool} {eff : State → State} {done : State → State → Prop}
    (ht : s.queueTrap s.cur.tid q n false = none)
    (he : ∀ z xs, (s.turnTaken q false).popEntries s.cur.old.lc q n = (z, xs) → z.cur = s.cur →
      (∀ k, k < n → rd 0 xs k = ((s.lc s.cur.old.lc).fifo q).entry q (s.lc s.cur.old.lc).lstash k) →
      done z (eff (s.turnTaken q false))) :
    s.Popped q n done (s.queueAccess q n false lanes eff) := by
  rw [State.queueAccess_unbound (State.boundQ_of_kind hk) ht]
  unfold State.Popped
  simp only [Bool.false_eq_true, if_false]
  split
  · obtain ⟨hz, -, hxs⟩ := (State.fifoIs_turnTaken_pop hq).popEntries hq hk n
    refine ⟨_, hz, he _ _ rfl ?_ hxs⟩
    exact hz.cur
  · rfl

end

section
variable {s : State} {q : QReg} (htop : s.Top) (hm : s.cur.mask ≠ 0) (hq : q.toNat ≥ 3)
  (hk : ((s.lc s.cur.old.lc).fifo q.toNat).kind ≠ 2)

theorem rankIn_lt_of_mem {ks : List Nat} {l : Nat} (h : l ∈ ks) : rankIn ks l < ks.length := by
  refine lt_of_le_of_ne (List.length_filter_le ..) fun he => ?_
  have := List.filter_eq_self.mp (List.filter_sublist.eq_of_length he) l h
  simp at this

include htop hq hk

theorem answers_qpush_stash (a : Src) (ht : s.queueTrap s.cur.tid q.toNat (lanesOf s.cur.mask).length true = none) :
    Answers (.qpush q a) s (s.Pushed q.toNat ((lanesOf s.cur.mask).map fun l => (s.src l a).setWidth 64)) := by
  refine answers_laneWise_top rfl htop ?_
  have hlen : (lanesOf s.cur.mask).length = ((lanesOf s.cur.mask).map fun l => (s.src l a).setWidth 64).length := by simp
  rw [hlen] at ht
  dsimp only
  rw [hlen]
  exact State.pushed_queueAccess hq hk ht (s.pushLanes_eq _ (s.cur_turnTaken ..) ..)

theorem answers_qpop_stash (d : Dst) (ht : s.queueTrap s.cur.tid q.toNat (lanesOf s.cur.mask).length false = none) :
    Answers (.qpop d q) s (s.Popped q.toNat (lanesOf s.cur.mask).length fun z t => LaneResult z t .m d fun l =>
      (((s.lc s.cur.old.lc).fifo q.toNat).entry q.toNat (s.lc s.cur.old.lc).lstash
        (rankIn (lanesOf s.cur.mask) l)).setWidth 32) := by
  refine answers_laneWise_top rfl htop (State.popped_queueAccess hq hk ht fun z xs hz hc hxs => ?_)
  rw [s.cur_turnTaken, hz]
  refine (z.setLane_result .m d _).congr fun l hl => ?_
  rw [hc] at hl
  rw [dealt_eq (sorted_lanesOf _) xs hl, hxs _ (rankIn_lt_of_mem hl)]

/-- Taking what a stash FIFO holds. -/
theorem answers_qtry_stash (r : LReg) (p : PReg) (hdet : s.det s.cur.tid = false)
    (ht : s.queueTrap s.cur.tid q.toNat 0 false = none) (hm : s.cur.mask ≠ 0) :
    let f := (s.lc s.cur.old.lc).fifo q.toNat
    let lanes := lanesOf s.cur.mask
    let n := min lanes.length f.entries.length
    Answers (.qtry r q p) s fun t => ∃ y z,
      FifoIs s s.cur.old.lc q.toNat y
        { f with entries := f.entries.drop n, permits := f.permits + n, head := f.head + n } (s.lc s.cur.old.lc).lstash ∧
      PredResult z t p (fun l => decide (rankIn lanes l < n)) ∧
      OnlyLanes y z ∧ ∀ l, l < 32 → z.me.lane l = { y.me.lane l with v := (z.me.lane l).v } ∧
        ∀ m, rd 0 (z.me.lane l).v m = if s.cur.mask.getLsbD l = true ∧ rankIn lanes l < n ∧ m = r.toNat then
            (f.entry q.toNat (s.lc s.cur.old.lc).lstash (rankIn lanes l)).setWidth 32 else rd 0 (y.me.lane l).v m := by
  intro f lanes n
  have hb : s.boundQ s.cur.old.lc q.toNat = none := State.boundQ_of_kind hk
  have hheld : s.queueHeld s.cur.old.lc q.toNat = f.entries.length := State.queueHeld_unbound hb
  have htake : lanes.take f.entries.length = lanes.take n := by
    rw [List.take_eq_take_iff]
    omega
  have hlen : (lanes.take n).length = n := by
    rw [List.length_take]
    omega
  refine answers_laneWise_top rfl htop ?_
  dsimp only
  rw [if_neg (by simp [hdet]), if_neg hm, State.withBlock_unbound hb, ht, hheld]
  dsimp only
  rw [State.withSlots_unbound hb, htake, hlen]
  obtain ⟨hz, -, hxs⟩ := (FifoIs.refl s s.cur.old.lc q.toNat).popEntries hq hk n
  generalize s.popEntries s.cur.old.lc q.toNat n = p' at hz hxs ⊢
  obtain ⟨y, xs⟩ := p'
  have hdeal := y.deal_result r n xs
  rw [hz.cur] at hdeal
  obtain ⟨honly, hlanes⟩ := hdeal
  refine ⟨y, _, hz, (State.setPred_result _ p _).congr fun l hl => ?_, honly, fun l hl => ?_⟩
  · rw [State.cur_mapActive, hz.cur] at hl
    exact contains_take (sorted_lanesOf _) n hl
  · obtain ⟨hlane, hv⟩ := hlanes l hl
    refine ⟨hlane, fun m => (hv m).trans ?_⟩
    split
    next h => rw [hxs _ h.2.1]
    next => rfl

include hm

theorem answers_qpushw_stash (u : UReg) (ht : s.queueTrap s.cur.tid q.toNat 1 true = none) :
    Answers (.qpushw q u) s (s.Pushed q.toNat [s.ureg u]) := by
  refine answers_uniform_top rfl htop hm (State.pushed_queueAccess hq hk (xs := [s.ureg u]) ht ?_)
  have hu : (s.turnTaken q.toNat true).ureg u = s.ureg u := by simp only [State.ureg, s.cur_turnTaken]
  rw [s.cur_turnTaken, hu]
  rfl

theorem answers_qpopw_stash (u : UReg) (ht : s.queueTrap s.cur.tid q.toNat 1 false = none) :
    Answers (.qpopw u q) s (s.Popped q.toNat 1 fun z t => UniResult z t u
      (((s.lc s.cur.old.lc).fifo q.toNat).entry q.toNat (s.lc s.cur.old.lc).lstash 0)) := by
  refine answers_uniform_top rfl htop hm (State.popped_queueAccess hq hk ht fun z xs hz hc hxs => ?_)
  obtain ⟨rfl, rfl⟩ := Prod.mk.inj (State.popEntries_one .. ▸ hz)
  rw [s.cur_turnTaken, ← hxs 0 Nat.one_pos]
  exact State.setU_result ..

theorem answers_qtryw_stash (u : UReg) (p : PReg) (hdet : s.det s.cur.tid = false)
    (ht : s.queueTrap s.cur.tid q.toNat 0 false = none) :
    let f := (s.lc s.cur.old.lc).fifo q.toNat
    Answers (.qtryw u q p) s fun t =>
      if f.entries = [] then PredResult s t p fun _ => false
      else ∃ y z, FifoIs s s.cur.old.lc q.toNat y
          { f with entries := f.entries.drop 1, permits := f.permits + 1, head := f.head + 1 } (s.lc s.cur.old.lc).lstash ∧
        UniResult y z u (f.entry q.toNat (s.lc s.cur.old.lc).lstash 0) ∧ PredResult z t p fun _ => true := by
  intro f
  have hb : s.boundQ s.cur.old.lc q.toNat = none := State.boundQ_of_kind hk
  have hheld : s.queueHeld s.cur.old.lc q.toNat = f.entries.length := State.queueHeld_unbound hb
  refine answers_uniform_top rfl htop hm ?_
  dsimp only
  rw [if_neg (show ¬ s.det s.cur.tid = true by simp [hdet]), State.withBlock_unbound hb, ht]
  dsimp only
  rw [hheld, State.withSlots_unbound hb]
  by_cases hn : f.entries = []
  · rw [if_pos hn, if_pos (by rw [hn]; rfl)]
    exact s.setPred_result ..
  · rw [if_neg hn, if_neg (by simpa using hn)]
    obtain ⟨hz, hx⟩ := (FifoIs.refl s s.cur.old.lc q.toNat).popEntry hq hk
    rw [← hx]
    exact ⟨_, _, hz, State.setU_result .., State.setPred_result ..⟩

theorem answers_qlen_stash (u : UReg) (hk0 : ((s.lc s.cur.old.lc).fifo q.toNat).kind ≠ 0) (hdet : s.det s.cur.tid = false)
    (hf : ((s.lc s.cur.old.lc).fifo q.toNat).frozen = false) :
    Answers (.qlen u q) s fun t =>
      UniResult s t u (BitVec.ofNat 64 ((s.lc s.cur.old.lc).fifo q.toNat).entries.length) := by
  have hb : s.boundQ s.cur.old.lc q.toNat = none := State.boundQ_of_kind hk
  have hheld := State.queueHeld_unbound hb
  refine answers_uniform_top rfl htop hm ?_
  dsimp only
  rw [if_neg (by simp [hdet]), if_neg (by omega), if_neg (by simp [hf]), if_neg (by simp [hk, hk0]),
    State.withBlock_unbound hb, hheld]
  exact State.setU_result ..

end

/-! ### QBIND (R58, R248) -/

section
variable {s : State} {q : QReg} {u : UReg} (htop : s.Top) (hm : s.cur.mask ≠ 0) (hu : (s.ureg u).toNat < 2 ^ 32)
  (hq : q.toNat ≥ 5) (hk : ((s.lc s.cur.old.lc).fifo q.toNat).kind ≠ 2)
  (hf : ((s.lc s.cur.old.lc).fifo q.toNat).frozen = false) (he : ((s.lc s.cur.old.lc).fifo q.toNat).entries = [])
  (hw : ∀ k, (s.thread k).alive = true → (s.thread k).lc = s.cur.old.lc → (s.thread k).waitsOn q.toNat = false)
include htop hm hu hq hk hf he hw

/-- An empty register is bound again, to no host work queue. -/
theorem answers_qbind_stash (hres : bindReserved ((s.ureg u).setWidth 32) = false)
    (hkind : fld ((s.ureg u).setWidth 32 : Word) 31 30 ≠ 2)
    (hplace : fld ((s.ureg u).setWidth 32 : Word) 31 30 = 1 →
      s.fifoPlaceBad s.cur.old.lc q.toNat ((s.ureg u).setWidth 32) = false) :
    Answers (.qbind q u) s fun t => FifoIs s s.cur.old.lc q.toNat t
      (bindFifo ((s.lc s.cur.old.lc).fifo q.toNat) ((s.ureg u).setWidth 32)) (s.lc s.cur.old.lc).lstash := by
  have hb : s.boundQ s.cur.old.lc q.toNat = none := State.boundQ_of_kind hk
  have hheld : s.queueHeld s.cur.old.lc q.toNat = 0 := by
    rw [State.queueHeld_unbound hb, he]
    rfl
  have hwaits : (s.threads.any fun t => t.alive && t.lc = s.cur.old.lc && t.waitsOn q.toNat) = false := by
    rw [Bool.eq_false_iff, ne_eq, s.any_threads rfl]
    rintro ⟨k, hkt⟩
    simp only [Bool.and_eq_true, decide_eq_true_eq] at hkt
    obtain ⟨⟨ha, hl⟩, hq⟩ := hkt
    rw [hw k ha hl] at hq
    cases hq
  refine answers_uniform_top rfl htop hm ?_
  dsimp only
  rw [← BitVec.setWidth_eq_extractLsb' (show 32 ≤ 64 by omega), if_neg, if_neg (by omega), if_neg (by simp [hf]),
    State.withBlock_unbound hb]
  · unfold State.withNewBlock
    dsimp only
    rw [if_neg hkind]
    dsimp only
    rw [if_neg, if_neg (by simp [hkind]), if_neg]
    · have hnew := (FifoIs.refl s s.cur.old.lc q.toNat).mapFifo (by omega) fun f =>
        bindFifo f ((s.ureg u).setWidth 32)
      have hnone := State.boundQ_of_kind (s := s.mapFifo s.cur.old.lc q.toNat fun f => bindFifo f ((s.ureg u).setWidth 32))
        (lc := s.cur.old.lc) (q := q.toNat) (by rw [hnew.2.2.2.1]; exact hkind)
      unfold State.bind
      dsimp only
      rw [hnone]
      exact hnew
    · simpa using hplace
    · simp [hheld, hwaits]
  · simp [(fld_high_eq_zero _ (n := 32) (by omega)).mpr hu, hres]

end

end Sys2Proof.Machine
end

section
/-! OBLIGATION. The words on queue registers that are bound to host work queues (O25; R243, R247, R381). -/

namespace Sys2Proof.Machine

section
variable {s : State} {q : QReg} {w : WorkQ} (htop : s.Top) (hb : s.boundQ s.cur.old.lc q.toNat = some w)
include htop hb

theorem answers_qpush_host (a : Src) (h : s.slotsReady w (lanesOf s.cur.mask).length true)
    (hw : s.waitOver s.cur.tid (.push q.toNat (lanesOf s.cur.mask).length) = true)
    (ht : s.queueTrap s.cur.tid q.toNat (lanesOf s.cur.mask).length true = none) :
    Answers (.qpush q a) s fun t => t = ((lanesOf s.cur.mask).map fun l => (s.src l a).setWidth 64).foldl
      (fun z x => z.pushEntry s.cur.old.lc q.toNat x) (s.turnTaken q.toNat true) := by
  refine answers_laneWise_top rfl htop ?_
  dsimp only
  rw [State.queueAccess_ready hb h hw ht]
  exact s.pushLanes_eq _ (s.cur_turnTaken ..) ..

theorem answers_qpop_host (d : Dst) (h : s.slotsReady w (lanesOf s.cur.mask).length false)
    (hw : s.waitOver s.cur.tid (.pop q.toNat (lanesOf s.cur.mask).length) = true)
    (ht : s.queueTrap s.cur.tid q.toNat (lanesOf s.cur.mask).length false = none) :
    let z := (s.turnTaken q.toNat false).popEntries s.cur.old.lc q.toNat (lanesOf s.cur.mask).length
    Answers (.qpop d q) s fun t =>
      LaneResult z.1 t .m d fun l => (rd 0 z.2 (rankIn (lanesOf s.cur.mask) l)).setWidth 32 := by
  intro z
  refine answers_laneWise_top rfl htop ?_
  dsimp only
  rw [State.queueAccess_ready hb h hw ht, s.cur_turnTaken]
  have hc : z.1.cur = s.cur := (entryMoved_popEntries ..).cur.trans (s.cur_turnTaken ..)
  refine (z.1.setLane_result .m d _).congr fun l hl => ?_
  rw [hc] at hl
  exact dealt_eq (sorted_lanesOf _) z.2 hl

theorem answers_qtry_host (r : LReg) (p : PReg) (hm : s.cur.mask ≠ 0) (hdet : s.det s.cur.tid = false)
    (ht : s.queueTrap s.cur.tid q.toNat 0 false = none) :
    let lanes := lanesOf s.cur.mask
    let m := min lanes.length (s.queueHeld s.cur.old.lc q.toNat)
    s.slotsReady w m false →
    let z := s.popEntries s.cur.old.lc q.toNat m
    Answers (.qtry r q p) s fun t => ∃ y, PredResult y t p (fun l => decide (rankIn lanes l < m)) ∧
      OnlyLanes z.1 y ∧ ∀ l, l < 32 → y.me.lane l = { z.1.me.lane l with v := (y.me.lane l).v } ∧
        ∀ k, rd 0 (y.me.lane l).v k = if s.cur.mask.getLsbD l = true ∧ rankIn lanes l < m ∧ k = r.toNat then
            (rd 0 z.2 (rankIn lanes l)).setWidth 32 else rd 0 (z.1.me.lane l).v k := by
  intro lanes m h z
  have htake : lanes.take (s.queueHeld s.cur.old.lc q.toNat) = lanes.take m := by
    rw [List.take_eq_take_iff]
    omega
  have hlen : (lanes.take m).length = m := by
    rw [List.length_take]
    omega
  have hc : z.1.cur = s.cur := (entryMoved_popEntries ..).cur
  refine answers_laneWise_top rfl htop ?_
  dsimp only
  rw [if_neg (by simp [hdet]), if_neg hm, State.withBlock_ready hb (h.1 _ (List.mem_cons_self ..)) h.2.1, ht]
  dsimp only
  rw [htake, hlen, State.withSlots_ready hb h]
  have hdeal := z.1.deal_result r m z.2
  rw [hc] at hdeal
  refine ⟨_, (State.setPred_result _ p _).congr fun l hl => ?_, hdeal⟩
  rw [State.cur_mapActive, hc] at hl
  exact contains_take (sorted_lanesOf _) m hl

variable (hm : s.cur.mask ≠ 0)
include hm

theorem answers_qpushw_host (u : UReg) (h : s.slotsReady w 1 true)
    (hw : s.waitOver s.cur.tid (.push q.toNat 1) = true) (ht : s.queueTrap s.cur.tid q.toNat 1 true = none) :
    Answers (.qpushw q u) s fun t => t = (s.turnTaken q.toNat true).pushEntry s.cur.old.lc q.toNat (s.ureg u) := by
  refine answers_uniform_top rfl htop hm ?_
  have hu : (s.turnTaken q.toNat true).ureg u = s.ureg u := by simp only [State.ureg, s.cur_turnTaken]
  rw [State.queueAccess_ready hb h hw ht, s.cur_turnTaken, hu]

theorem answers_qpopw_host (u : UReg) (h : s.slotsReady w 1 false)
    (hw : s.waitOver s.cur.tid (.pop q.toNat 1) = true) (ht : s.queueTrap s.cur.tid q.toNat 1 false = none) :
    let z := (s.turnTaken q.toNat false).popEntry s.cur.old.lc q.toNat
    Answers (.qpopw u q) s fun t => UniResult z.1 t u z.2 := by
  intro z
  refine answers_uniform_top rfl htop hm ?_
  rw [State.queueAccess_ready hb h hw ht, s.cur_turnTaken]
  exact z.1.setU_result u z.2

theorem answers_qtryw_host (u : UReg) (p : PReg) (hdet : s.det s.cur.tid = false)
    (ht : s.queueTrap s.cur.tid q.toNat 0 false = none) :
    let m := min (lanesOf s.cur.mask).length (s.queueHeld s.cur.old.lc q.toNat)
    s.slotsReady w (min 1 m) false →
    let z := s.popEntry s.cur.old.lc q.toNat
    Answers (.qtryw u q p) s fun t => if m = 0 then PredResult s t p fun _ => false
      else ∃ y, UniResult z.1 y u z.2 ∧ PredResult y t p fun _ => true := by
  intro m h z
  have hlen : 0 < (lanesOf s.cur.mask).length := List.length_pos_iff.mpr (lanesOf_ne_nil _ hm)
  refine answers_uniform_top rfl htop hm ?_
  dsimp only
  rw [if_neg (show ¬ s.det s.cur.tid = true by simp [hdet]), State.withBlock_ready hb (h.1 _ (List.mem_cons_self ..)) h.2.1, ht]
  dsimp only
  by_cases hn : m = 0
  · rw [if_pos hn, if_pos (by omega)]
    exact s.setPred_result ..
  · rw [show min 1 m = 1 by omega] at h
    rw [if_neg hn, if_neg (by omega), State.withSlots_ready hb h]
    exact ⟨_, z.1.setU_result u z.2, State.setPred_result ..⟩

theorem answers_qlen_host (u : UReg) (hq : q.toNat ≥ 3) (hk : ((s.lc s.cur.old.lc).fifo q.toNat).kind = 2)
    (hdet : s.det s.cur.tid = false) (hf : ((s.lc s.cur.old.lc).fifo q.toNat).frozen = false)
    (hp : ((s.domain (s.lc s.cur.old.lc).asid).page w.block).isSome = true)
    (hl : s.waitOver s.cur.tid (.lines [((s.lc s.cur.old.lc).asid, lineOf w.block)]) = true) :
    Answers (.qlen u q) s fun t => UniResult s t u (BitVec.ofNat 64 (s.queueHeld s.cur.old.lc q.toNat)) := by
  refine answers_uniform_top rfl htop hm ?_
  dsimp only
  rw [if_neg (by simp [hdet]), if_neg (by omega), if_neg (by simp [hf]), if_neg (by simp [hk, hb]),
    State.withBlock_ready hb hp hl]
  exact State.setU_result ..

end

end Sys2Proof.Machine
end

section
/-! SUPPORT. One entry of a host work queue: its bytes in the ring, and what a register takes of the permits (R243, R246,
R381, R382). -/

namespace Sys2Proof.Machine

/-! ### Bytes of numbers -/

theorem getElem?_bytesOf (n x i : Nat) :
    (bytesOf n x)[i]? = if i < n then some (BitVec.ofNat 8 (x / 2 ^ (8 * i))) else none := by
  induction n generalizing x i with
  | zero => simp [bytesOf]
  | succ n ih =>
    cases i with
    | zero => simp [bytesOf]
    | succ i =>
      have hpow : 256 * 2 ^ (8 * i) = 2 ^ (8 * (i + 1)) := by
        rw [show (256 : Nat) = 2 ^ 8 from rfl, ← Nat.pow_add]
        congr 1
        omega
      rw [bytesOf, List.getElem?_cons_succ, ih, Nat.div_div_eq_div_mul, hpow]
      simp only [Nat.add_lt_add_iff_right]

/-- A byte of memory after a number has been written. -/
theorem memGet_memPutN_bytesOf {m : List Host.Cell} (h : Memory.wf m = true) (p n x k : Nat) :
    memGet (memPutN m p (bytesOf n x)) k =
      if p ≤ k ∧ k < p + n then BitVec.ofNat 8 (x / 2 ^ (8 * (k - p))) else memGet m k := by
  rw [memGet_memPutN _ _ _ _ h, getElem?_bytesOf]
  by_cases hp : p ≤ k
  · by_cases hk : k < p + n
    · rw [if_pos hp, if_pos (by omega), if_pos ⟨hp, hk⟩]
      rfl
    · rw [if_pos hp, if_neg (by omega), if_neg (fun h => hk h.2)]
      rfl
  · rw [if_neg hp, if_neg (fun h => hp h.1)]

/-- Bytes that another write does not reach. -/
theorem memGetN_memPutN_other {m : List Host.Cell} (h : Memory.wf m = true) {p n a k : Nat} {bs : List Byte}
    (hbs : bs.length = n) (hk : a + k ≤ p ∨ p + n ≤ a) : memGetN (memPutN m p bs) a k = memGetN m a k := by
  refine List.map_congr_left fun i hi => memGet_memPutN_other _ _ _ _ h ?_
  have := List.mem_range.mp hi
  omega

theorem mapM_some_eq_map {α β : Type} {f : α → Option β} {g : α → β} {l : List α} (h : ∀ x ∈ l, f x = some (g x)) :
    l.mapM f = some (l.map g) := by
  induction l with
  | nil => rfl
  | cons x l ih =>
    obtain ⟨hx, hl⟩ := List.forall_mem_cons.mp h
    simp [List.mapM_cons, hx, ih hl]

theorem foldl_memPut_range (bs : List Byte) (m : List Host.Cell) (p : Nat) :
    ((List.range bs.length).map fun i => (p + i, rd 0 bs i)).foldl (fun (m : List Host.Cell) c => memPut m c.1 c.2) m =
      memPutN m p bs := by
  induction bs generalizing m p with
  | nil => rfl
  | cons b bs ih =>
    rw [memPutN, ← ih, List.length_cons, List.range_succ_eq_map, List.map_cons, List.foldl_cons, List.map_map]
    congr 1
    refine List.map_congr_left fun i _ => ?_
    simp [Nat.add_assoc, Nat.add_comm 1]

/-! ### Bytes of a domain that lie together -/

/-- The n bytes from a virtual address are mapped for reading and writing to the places from p on, and none is poisoned. -/
def State.Mapped (s : State) (a va p n : Nat) : Prop :=
  ∀ i, i < n → ∃ g, (s.domain a).page (va + i) = some g ∧ g.r = true ∧ g.w = true ∧
    g.pa + (va + i) % 2 ^ g.log = p + i ∧ s.poisoned (p + i) = false

section
variable {s : State} {a va p n : Nat} (h : s.Mapped a va p n)
include h

theorem State.Mapped.part {off k : Nat} (hk : off + k ≤ n) : s.Mapped a (va + off) (p + off) k := fun i hi => by
  rw [Nat.add_assoc, Nat.add_assoc]
  exact h (off + i) (by omega)

theorem State.Mapped.page_isSome {x : Nat} (hx : va ≤ x ∧ x < va + n) : ((s.domain a).page x).isSome = true := by
  obtain ⟨g, hg, -⟩ := h (x - va) (by omega)
  rw [Nat.add_sub_cancel' hx.1] at hg
  rw [hg]
  rfl

theorem State.Mapped.deviceRead : s.deviceRead a va n = some (memGetN s.mem p n) := by
  refine mapM_some_eq_map fun i hi => ?_
  obtain ⟨g, hg, hr, -, hp, hx⟩ := h i (List.mem_range.mp hi)
  rw [hg]
  simp only [hp, hr, hx, Bool.not_false, Bool.and_self, if_true]

theorem State.Mapped.deviceWrite {bs : List Byte} (hn : bs.length = n) :
    ∃ t, s.deviceWrite a va bs = some t ∧ Counted { s with mem := memPutN s.mem p bs } t := by
  refine ⟨_, congrArg (Option.map _) (mapM_some_eq_map (g := fun i => (p + i, rd 0 bs i)) fun i hi => ?_), ?_⟩
  · obtain ⟨g, hg, -, hw, hp, -⟩ := h i (hn ▸ List.mem_range.mp hi)
    rw [hg]
    simp only [hp, hw, if_true]
  · dsimp only
    rw [foldl_memPut_range]
    exact counted_countLines ..

/-- An access of the device to bytes that are mapped. -/
theorem State.Mapped.deviceReads (hn : 0 < n) : s.deviceReads a va n = (s.countLines a va n, some (memGetN s.mem p n)) := by
  have hpages : s.devicePages a va n = s := by
    refine List.foldlRecOn _ _ (motive := (· = s)) rfl fun u hu k hk => ?_
    have hk' := List.mem_range.mp hk
    rw [hu]
    refine State.ensureMapped_of_page (h.page_isSome ?_)
    omega
  rw [State.deviceReads, hpages, h.deviceRead]

theorem State.Mapped.askBytes (hn : 0 < n) : s.askBytes a va n = (s, false) := by
  have hask {x : Nat} (hx : va ≤ x ∧ x < va + n) : s.askPage a x .load = (s, false) := by
    have hp := h.page_isSome hx
    unfold State.askPage
    dsimp only
    rw [State.ensureMapped_of_page hp, if_pos (by simp [hp])]
  unfold State.askBytes
  rw [hask (by omega)]
  exact hask (by omega)

end

section
variable {s : State} {a block p : Nat} (h : s.Mapped a block p 64)
include h

theorem State.Mapped.blockField {off n : Nat} (hn : off + n ≤ 64) :
    s.blockField a block off n = ofBytes (memGetN s.mem (p + off) n) := by
  rw [State.blockField, (h.part hn).deviceRead]
  rfl

theorem State.Mapped.setBlock {off n : Nat} (x : Nat) (hn : off + n ≤ 64) :
    Counted { s with mem := memPutN s.mem (p + off) (bytesOf n x) } (s.setBlock a block off n x) := by
  obtain ⟨t, ht, hc⟩ := (h.part hn).deviceWrite (length_bytesOf n x)
  rw [State.setBlock, ht]
  exact hc

end

/-! ### Reads that see the same pages -/

/-- An entry has moved, and the pages of every domain are as they were. -/
structure SamePages (s t : State) : Prop where
  moved : EntryMoved s t
  page : ∀ d va, (t.domain d).page va = (s.domain d).page va

section
variable {s t u : State}

theorem SamePages.trans (h : SamePages s t) (k : SamePages t u) : SamePages s u :=
  ⟨h.moved.trans k.moved, fun d va => (k.page d va).trans (h.page d va)⟩

theorem Counted.samePages (h : Counted s t) : SamePages s t := ⟨h.recorded.entryMoved, h.page⟩

theorem samePages_setMem (s : State) (m : List Host.Cell) : SamePages s { s with mem := m } := ⟨rfl, fun _ _ => rfl⟩

theorem samePages_mapWorkq (s : State) (a n : Nat) (f : WorkQ → WorkQ) : SamePages s (s.mapWorkq a n f) := by
  refine ⟨entryMoved_mapWorkq .., fun d va => ?_⟩
  rw [State.mapWorkq, State.domain_mapDomain]
  split
  next h => rw [h]; rfl
  next => rfl

theorem SamePages.mapped (h : SamePages s t) {a va p n : Nat} (hm : s.Mapped a va p n) : t.Mapped a va p n := by
  have hp : t.poisoned = s.poisoned := by rw [h.moved]; rfl
  intro i hi
  rw [h.page, hp]
  exact hm i hi

theorem SamePages.deviceClear (h : SamePages s t) (a va n : Nat) : t.deviceClear a va n = s.deviceClear a va n := by
  have hplace (d x : Nat) : (t.domain d).place x = (s.domain d).place x := by rw [Domain.place, h.page]; rfl
  have hstores : t.forwardedOn = s.forwardedOn := by rw [h.moved]; rfl
  have hmoving : t.moving = s.moving := by rw [h.moved]
  have hmoves (x : Nat) : t.isMoving x = s.isMoving x := by
    unfold State.isMoving
    simp only [hmoving, h.page]
  unfold State.deviceClear
  simp only [hplace, hstores, hmoves]

/-- A read sees the same where neither the pages nor memory have changed. -/
theorem SamePages.blockField (h : SamePages s t) (hm : t.mem = s.mem) (a block off n : Nat) :
    t.blockField a block off n = s.blockField a block off n := by
  have hp : t.poisoned = s.poisoned := by rw [h.moved]; rfl
  unfold State.blockField State.deviceRead
  simp only [h.page, hm, hp]

end

/-- What an access costs its launch-on-core changes neither memory, nor a page, nor a queue. -/
theorem State.chargeLines_result (s : State) (lc n : Nat) :
    SamePages s (s.chargeLines lc n) ∧ (s.chargeLines lc n).mem = s.mem ∧ SameQueues s (s.chargeLines lc n) := by
  have hspend (v : State) : (v.spendFree lc [4, 5, 6]).mem = v.mem ∧ (v.spendFree lc [4, 5, 6]).domains = v.domains :=
    List.foldlRecOn _ _ (motive := fun (z : State) => z.mem = v.mem ∧ z.domains = v.domains) ⟨rfl, rfl⟩ fun z hz _ _ => hz
  have hcount (asid core event k : Nat) : (s.count asid core event k).mem = s.mem ∧
      ∀ d, ((s.count asid core event k).domain d).queues = (s.domain d).queues ∧
        ∀ va, ((s.count asid core event k).domain d).page va = (s.domain d).page va := by
    unfold State.count
    dsimp only
    split
    · exact ⟨rfl, fun _ => ⟨rfl, fun _ => rfl⟩⟩
    · refine ⟨rfl, fun d => ?_⟩
      rw [State.mapUnit, State.domain_mapDomain]
      split
      next h => rw [h]; exact ⟨rfl, fun _ => rfl⟩
      next => exact ⟨rfl, fun _ => rfl⟩
  obtain ⟨hm, hd⟩ := hcount (s.lc lc).asid (s.lc lc).core 5 n
  obtain ⟨hm', hd'⟩ := hspend (s.count (s.lc lc).asid (s.lc lc).core 5 n)
  have hdom (d : Nat) : (s.chargeLines lc n).domain d = (s.count (s.lc lc).asid (s.lc lc).core 5 n).domain d :=
    congrArg (fun ds => rd ({} : Domain) ds d) hd'
  exact ⟨⟨entryMoved_chargeLines .., fun d va => by rw [hdom]; exact (hd d).2 va⟩, hm'.trans hm, fun d => by
    rw [hdom]; exact (hd d).1⟩

end Sys2Proof.Machine
end

section
/-! OBLIGATION. Queue words (O25): what moves with one entry of a host work queue, and the settling of O25. -/

namespace Sys2Proof.Machine

/-! ### What moves with one entry of a host work queue -/

theorem State.boundQ_workq {s : State} {lc q : Nat} {w : WorkQ} (h : s.boundQ lc q = some w) :
    (s.domain (s.lc lc).asid).workq w.queue = some w := by
  have hq : (s.domain (s.lc lc).asid).workq (fld ((s.lc lc).fifo q).spec 16 0) = some w := by
    unfold State.boundQ at h
    dsimp only at h
    split at h
    · exact h
    · cases h
  rw [Domain.queue_of_workq hq]
  exact hq

theorem State.workq_mapWorkq_self (s : State) (a n : Nat) {f : WorkQ → WorkQ} (hf : ∀ w, (f w).queue = w.queue) :
    ((s.mapWorkq a n f).domain a).workq n = ((s.domain a).workq n).map f := by
  rw [State.workq_mapWorkq s a a n n hf, if_pos ⟨rfl, rfl⟩]

section
variable {s : State} {a pb : Nat} {w : WorkQ} (hw : (s.domain a).workq w.queue = some w)
  (hblock : s.Mapped a w.block pb 64)
include hw hblock

/-- Raising CONSUMED writes it, and reads TAIL again once everything read has been consumed (R382). -/
theorem State.consumed_mapped (hwf : Memory.wf s.mem = true) (hclear : s.deviceClear a w.block 64 = true) (upto : Nat) :
    (s.consumed a w.queue upto).mem = memPutN s.mem (pb + 0x18) (bytesOf 8 upto) ∧
    (((s.consumed a w.queue upto).domain a).workq w.queue).map (·.tail) =
      some (if upto ≥ w.tail then s.blockField a w.block 0x10 8 else w.tail) := by
  have hset := hblock.setBlock (off := 0x18) (n := 8) upto (by omega)
  have hsame := (samePages_setMem s _).trans hset.samePages
  have hmem := hset.mem
  have hq : ((s.setBlock a w.block 0x18 8 upto).domain a).workq w.queue = some w := (hset.workq ..).trans hw
  have hclear' := (hsame.deviceClear a w.block 64).trans hclear
  have hmapped := hsame.mapped hblock
  unfold State.consumed
  rw [hw]
  dsimp only
  generalize s.setBlock a w.block 0x18 8 upto = t at hmem hq hclear' hmapped ⊢
  by_cases hu : upto ≥ w.tail
  · rw [if_pos hu, if_pos hu]
    obtain ⟨hframe, htail⟩ := State.readTail_now hq (hmapped.askBytes (by omega)) hclear'
      (hmapped.part (off := 0x10) (k := 8) (by omega)).deviceRead
    refine ⟨?_, ?_⟩
    · rw [hframe]
      exact hmem
    · rw [htail, Option.map_some, hmem, hblock.blockField (by omega)]
      dsimp only
      rw [memGetN_memPutN_other hwf (length_bytesOf 8 upto) (Or.inl (by omega))]
  · rw [if_neg hu, if_neg hu]
    exact ⟨hmem, by rw [hq]; rfl⟩

/-- Popping an entry reads its bytes in the ring and raises CONSUMED (R243, R382). -/
theorem State.popWork_mapped (hwf : Memory.wf s.mem = true) (hclear : s.deviceClear a w.block 64 = true) {pe : Nat}
    (hentry : s.Mapped a (s.blockField a w.block 0 8 + 8 * ((s.blockField a w.block 0x18 8 + 1) % s.workDepth a w)) pe 8) :
    (s.popWork a w).1.mem = memPutN s.mem (pb + 0x18) (bytesOf 8 (s.blockField a w.block 0x18 8 + 1)) ∧
    (s.popWork a w).2 = BitVec.ofNat 64 (ofBytes (memGetN s.mem pe 8)) ∧
    (((s.popWork a w).1.domain a).workq w.queue).map (·.tail) =
      some (if s.blockField a w.block 0x18 8 + 1 ≥ w.tail then s.blockField a w.block 0x10 8 else w.tail) := by
  have hreads := hentry.deviceReads (by omega)
  rw [State.popWork]
  split
  next t got hread =>
    obtain ⟨ht, hgot⟩ := Prod.mk.inj (hreads.symm.trans hread)
    have hc : Counted s t := ht ▸ counted_countLines ..
    obtain ⟨hmem, htail⟩ := State.consumed_mapped ((hc.workq ..).trans hw) (hc.samePages.mapped hblock) (by rwa [hc.mem])
      ((hc.samePages.deviceClear ..).trans hclear) (s.blockField a w.block 0x18 8 + 1)
    rw [hc.mem] at hmem
    rw [hc.blockField] at htail
    rw [← hgot]
    refine ⟨hmem, rfl, ?_⟩
    dsimp only
    rw [← htail, State.workq_mapWorkq_self, Option.map_map]
    · rfl
    · exact fun _ => rfl

/-- Pushing an entry writes its bytes in the ring and raises TAIL; it takes one of the permits that the host has returned
(R243, R246). -/
theorem State.pushWork_mapped (htype : s.workType a w = 2) (x : Dword) {pe : Nat}
    (hentry : s.Mapped a (s.blockField a w.block 0 8 + 8 * ((s.blockField a w.block 0x10 8 + 1) % s.workDepth a w)) pe 8) :
    (s.pushWork a w x).mem = memPutN (memPutN s.mem pe (bytesOf 8 x.toNat)) (pb + 0x10)
      (bytesOf 8 (s.blockField a w.block 0x10 8 + 1)) ∧
    (((s.pushWork a w x).domain a).workq w.queue).map (·.permits) =
      some (w.permits + (s.blockField a w.block 0x18 8 - w.cons) - 1) := by
  have hcount := counted_countLines s a w.block 64
  -- the permits that the host has returned
  have hread : s.readConsumed a w.queue = (s.countLines a w.block 64).mapWorkq a w.queue fun y =>
      { y with
        cons := s.blockField a w.block 0x18 8, permits := y.permits + (s.blockField a w.block 0x18 8 - y.cons) } := by
    unfold State.readConsumed
    rw [hw]
    dsimp only
    rw [if_neg (by simp [htype]), hcount.blockField]
  have hsame : SamePages s (s.readConsumed a w.queue) := hread ▸ hcount.samePages.trans (samePages_mapWorkq ..)
  have hmem : (s.readConsumed a w.queue).mem = s.mem := hread ▸ hcount.mem
  have hq : ((s.readConsumed a w.queue).domain a).workq w.queue = some { w with
      cons := s.blockField a w.block 0x18 8, permits := w.permits + (s.blockField a w.block 0x18 8 - w.cons) } := by
    rw [hread, State.workq_mapWorkq_self, hcount.workq, hw]
    · rfl
    · exact fun _ => rfl
  unfold State.pushWork State.workDepth
  dsimp only
  simp only [hsame.blockField hmem]
  rw [State.workDepth] at hentry
  -- the entry, and then TAIL
  obtain ⟨t, ht, hc⟩ := (hsame.mapped hentry).deviceWrite (length_bytesOf 8 x.toNat)
  have hset := (hc.samePages.mapped ((samePages_setMem _ _).mapped (hsame.mapped hblock))).setBlock (off := 0x10) (n := 8)
    (s.blockField a w.block 0x10 8 + 1) (by omega)
  rw [ht, Option.getD_some]
  refine ⟨?_, ?_⟩
  · refine hset.mem.trans ?_
    rw [hc.mem, ← hmem]
  · have htq := (hset.workq a w.queue).trans ((hc.workq a w.queue).trans hq)
    rw [State.workq_mapWorkq_self, htq]
    · rfl
    · exact fun _ => rfl

end

/-- A push to a host work queue. -/
theorem State.pushEntry_bound {s : State} {lc q : Nat} {w : WorkQ} (hb : s.boundQ lc q = some w) (x : Dword) :
    s.pushEntry lc q x = ((s.chargeLines lc 2).pushWork (s.lc lc).asid w x).mapFifo lc q fun f =>
      { f with permits := f.permits - 1 } := by
  unfold State.pushEntry
  rw [hb]

/-- A pop from a host work queue. -/
theorem State.popEntry_bound {s : State} {lc q : Nat} {w : WorkQ} (hb : s.boundQ lc q = some w) :
    s.popEntry lc q = (((s.chargeLines lc 2).popWork (s.lc lc).asid w).1.mapFifo lc q fun f =>
      { f with permits := f.permits + 1 }, ((s.chargeLines lc 2).popWork (s.lc lc).asid w).2) := by
  obtain ⟨z, hz⟩ : ∃ z, (s.chargeLines lc 2).popWork (s.lc lc).asid w = z := ⟨_, rfl⟩
  rw [hz]
  unfold State.popEntry
  split
  next t y h =>
    rw [hb] at h
    obtain rfl : (t, y) = z := h.symm.trans hz
    rfl

section
variable {s : State} {lc q pb pe : Nat} {w : WorkQ} (hb : s.boundQ lc q = some w) (hwf : Memory.wf s.mem = true)
  (hblock : s.Mapped (s.lc lc).asid w.block pb 64)
include hb hwf hblock

theorem State.pushEntry_mapped (x : Dword) (htype : s.workType (s.lc lc).asid w = 2)
    (hentry : s.Mapped (s.lc lc).asid (s.blockField (s.lc lc).asid w.block 0 8 +
      8 * ((s.blockField (s.lc lc).asid w.block 0x10 8 + 1) % s.workDepth (s.lc lc).asid w)) pe 8) :
    (∀ k, memGet (s.pushEntry lc q x).mem k =
      if pb + 0x10 ≤ k ∧ k < pb + 0x10 + 8 then
        BitVec.ofNat 8 ((s.blockField (s.lc lc).asid w.block 0x10 8 + 1) / 2 ^ (8 * (k - (pb + 0x10))))
      else if pe ≤ k ∧ k < pe + 8 then BitVec.ofNat 8 (x.toNat / 2 ^ (8 * (k - pe))) else memGet s.mem k) ∧
    (((s.pushEntry lc q x).domain (s.lc lc).asid).workq w.queue).map (·.permits) =
      some (w.permits + (s.blockField (s.lc lc).asid w.block 0x18 8 - w.cons) - 1) := by
  obtain ⟨hsame, hmem, hqueues⟩ := s.chargeLines_result lc 2
  have hfield := hsame.blockField hmem
  have hpush := State.pushWork_mapped ((hqueues.workq ..).trans (State.boundQ_workq hb)) (hsame.mapped hblock)
    ((hfield ..).trans htype) x (pe := pe)
  simp only [State.workDepth, hfield, hmem] at hpush
  obtain ⟨hbytes, hpermits⟩ := hpush (hsame.mapped hentry)
  rw [State.pushEntry_bound hb]
  generalize (s.chargeLines lc 2).pushWork (s.lc lc).asid w x = t at hbytes hpermits ⊢
  refine ⟨fun k => ?_, hpermits⟩
  rw [State.mem_mapFifo, hbytes, memGet_memPutN_bytesOf (Memory.wf_memPutN _ _ _ hwf), memGet_memPutN_bytesOf hwf]

theorem State.popEntry_mapped (hclear : s.deviceClear (s.lc lc).asid w.block 64 = true)
    (hentry : s.Mapped (s.lc lc).asid (s.blockField (s.lc lc).asid w.block 0 8 +
      8 * ((s.blockField (s.lc lc).asid w.block 0x18 8 + 1) % s.workDepth (s.lc lc).asid w)) pe 8) :
    (∀ k, memGet (s.popEntry lc q).1.mem k =
      if pb + 0x18 ≤ k ∧ k < pb + 0x18 + 8 then
        BitVec.ofNat 8 ((s.blockField (s.lc lc).asid w.block 0x18 8 + 1) / 2 ^ (8 * (k - (pb + 0x18))))
      else memGet s.mem k) ∧
    (s.popEntry lc q).2 = BitVec.ofNat 64 (leAt (memGetN s.mem pe 8) 0 8) ∧
    (((s.popEntry lc q).1.domain (s.lc lc).asid).workq w.queue).map (·.tail) =
      some (if s.blockField (s.lc lc).asid w.block 0x18 8 + 1 ≥ w.tail then s.blockField (s.lc lc).asid w.block 0x10 8
        else w.tail) := by
  obtain ⟨hsame, hmem, hqueues⟩ := s.chargeLines_result lc 2
  have hfield := hsame.blockField hmem
  have hpop := State.popWork_mapped ((hqueues.workq ..).trans (State.boundQ_workq hb)) (hsame.mapped hblock)
    (by rwa [hmem]) ((hsame.deviceClear ..).trans hclear) (pe := pe)
  simp only [State.workDepth, hfield, hmem] at hpop
  obtain ⟨hbytes, hvalue, htail⟩ := hpop (hsame.mapped hentry)
  have hle : leAt (memGetN s.mem pe 8) 0 8 = ofBytes (memGetN s.mem pe 8) := by
    rw [leAt, List.drop_zero, List.take_of_length_le (by simp [memGetN])]
  obtain ⟨z, hz⟩ : ∃ z, (s.chargeLines lc 2).popWork (s.lc lc).asid w = z := ⟨_, rfl⟩
  rw [hz] at hbytes hvalue htail
  rw [State.popEntry_bound hb, hz, hle]
  refine ⟨fun k => ?_, hvalue, htail⟩
  rw [State.mem_mapFifo, hbytes, memGet_memPutN_bytesOf hwf]

end

/-! ### The statement -/

/-- Settles O25: a stash FIFO moves its entries in the order of the lanes, and a word on a host work queue moves one entry
after another, each with its bytes in the ring and its counter. -/
theorem queueResults : Obligations.QueueResults := by
  intro s q a u d r p htop hm hq lc f lanes rank one entry bytes q' pushed popped took n
  have hstash (hk : f.kind = 1) : f.kind ≠ 2 := by omega
  refine ⟨fun hk ht => ?_, fun hk ht => answers_qpushw_stash htop hm hq (hstash hk) u ht,
    fun hk ht => answers_qpop_stash htop hq (hstash hk) d ht, fun hk ht => answers_qpopw_stash htop hm hq (hstash hk) u ht,
    fun hk hdet ht => answers_qtry_stash htop hq (hstash hk) r p hdet ht hm,
    fun hk hdet ht => answers_qtryw_stash htop hm hq (hstash hk) u p hdet ht,
    fun hk hdet hf => answers_qlen_stash htop hm hq (hstash hk) u (hk ▸ Nat.one_ne_zero) hdet hf, ?_, ?_, ?_⟩
  · exact answers_qpush_stash htop hq (hstash hk) a ht
  case refine_2 =>
    intro hu hq5 hk hf he hw x n
    have hbind := answers_qbind_stash htop hm hu hq5 hk hf he hw
    refine ⟨fun hx => ?_, fun h1 h2 h3 hp => ?_⟩
    · have hx' : (s.ureg u).setWidth 32 = 0#32 := hx
      rw [hx'] at hbind
      exact hbind (by decide) (by decide) fun h => absurd h (by decide)
    · have hnew : bindFifo f x = { f with
          kind := 1, spec := x.setWidth 28, entries := [], depth := n, permits := n, head := 0 } := by
        unfold bindFifo
        rw [h1, ← BitVec.setWidth_eq_extractLsb' (show 28 ≤ 32 by omega)]
        rfl
      have hres : bindReserved x = false := by
        unfold bindReserved
        rw [h1]
        simp [h2, h3]
      rw [← hnew]
      exact hbind hres (by rw [show fld _ 31 30 = 1 from h1]; omega) fun _ => hp
  case refine_3 =>
    intro w hk hb asid ready turn put m
    refine ⟨fun n hr hover ht => ⟨?_, ?_⟩, fun n hr hover ht => ⟨?_, ?_⟩,
      fun hdet ht hr => answers_qtry_host htop hb r p hm hdet ht hr, fun hdet ht hr => answers_qtryw_host htop hb hm u p hdet ht hr,
      fun hdet hf hp hl => answers_qlen_host htop hb hm u hq hk hdet hf hp hl⟩
    · rintro rfl
      exact answers_qpush_host htop hb a hr hover ht
    · rintro rfl
      exact answers_qpushw_host htop hb hm u hr hover ht
    · rintro rfl
      exact answers_qpop_host htop hb d hr hover ht
    · rintro rfl
      exact answers_qpopw_host htop hb hm u hr hover ht
  case refine_4 =>
    intro w x at_ pe pb hb hwf asid field there bytes hblock hentry
    refine ⟨?_, ?_⟩
    · rintro htype rfl
      exact State.pushEntry_mapped hb hwf hblock x htype hentry
    · rintro - hclear rfl
      exact State.popEntry_mapped hb hwf hblock hclear hentry

end Sys2Proof.Machine
end

section
/-! SUPPORT. A word of memory never decodes to a step of the device (R108, R126). -/

namespace Sys2Proof.Machine

/-- What a decoder answers is a word, not a step of the device. -/
def AnswersWord (o : Option Instr) : Prop := ∀ i, o = some i → i.isEvent = false

theorem AnswersWord.none : AnswersWord none := fun _ h => nomatch h

theorem AnswersWord.some {i : Instr} (h : i.isEvent = false) : AnswersWord (some i) := fun _ e => Option.some.inj e ▸ h

theorem AnswersWord.ite {c : Prop} [Decidable c] {a b : Option Instr} (ha : AnswersWord a) (hb : AnswersWord b) :
    AnswersWord (if c then a else b) := by
  split
  · exact ha
  · exact hb

theorem AnswersWord.bind {α : Type} {o : Option α} {f : α → Option Instr} (hf : ∀ x, AnswersWord (f x)) :
    AnswersWord (o >>= f) := by
  cases o with
  | none => exact .none
  | some x => exact hf x

theorem answersWord_scalar (x : BitVec 24) : AnswersWord (decode00 x) ∧ AnswersWord (decode01 x) ∧
    AnswersWord (decode02 x) ∧ AnswersWord (decode03 x) ∧ AnswersWord (decode04 x) ∧ AnswersWord (decode05 x) ∧
    AnswersWord (decode06 x) ∧ AnswersWord (decode08 x) ∧ AnswersWord (decode09 x) ∧ AnswersWord (decode0A x) ∧
    AnswersWord (decode0B x) ∧ AnswersWord (decode0C x) ∧ AnswersWord (decode0D x) ∧ AnswersWord (decode0E x) ∧
    AnswersWord (decode0F x) ∧ AnswersWord (decode10 x) ∧ AnswersWord (decode11 x) ∧ AnswersWord (decode12 x) ∧
    AnswersWord (decode13 x) ∧ AnswersWord (decode14 x) ∧ AnswersWord (decode15 x) ∧ AnswersWord (decode16 x) ∧
    AnswersWord (decode17 x) := by
  simp only [decode00, decode01, decode02, decode03, decode04, decode05, decode06, decode08, decode09, decode0A,
    decode0B, decode0C, decode0D, decode0E, decode0F, decode10, decode11, decode12, decode13, decode14, decode15,
    decode16, decode17]
  refine ⟨?_, ?_, ?_, ?_, ?_, ?_, ?_, ?_, ?_, ?_, ?_, ?_, ?_, ?_, ?_, ?_, ?_, ?_, ?_, ?_, ?_, ?_, ?_⟩
  all_goals
    repeat' first
      | exact AnswersWord.none
      | exact AnswersWord.some rfl
      | refine AnswersWord.ite ?_ ?_
      | refine AnswersWord.bind fun _ => ?_
      | split

theorem answersWord_float (x : BitVec 24) : AnswersWord (decode18 x) ∧ AnswersWord (decode19 x) ∧
    AnswersWord (decode1A x) ∧ AnswersWord (decode1B x) ∧ AnswersWord (decode1C x) ∧ AnswersWord (decode1D x) ∧
    AnswersWord (decode1E x) ∧ AnswersWord (decode20 x) ∧ AnswersWord (decode21 x) ∧ AnswersWord (decode22 x) := by
  simp only [decode18, decode19, decode1A, decode1B, decode1C, decode1D, decode1E, decode20, decode21, decode22]
  refine ⟨?_, ?_, ?_, ?_, ?_, ?_, ?_, ?_, ?_, ?_⟩
  all_goals
    repeat' first
      | exact AnswersWord.none
      | exact AnswersWord.some rfl
      | refine AnswersWord.ite ?_ ?_
      | refine AnswersWord.bind fun _ => ?_
      | split

theorem answersWord_memory (x : BitVec 24) : AnswersWord (decode24 x) ∧ AnswersWord (decode25 x) ∧
    AnswersWord (decode26 x) ∧ AnswersWord (decode27 x) ∧ AnswersWord (decode28 x) ∧ AnswersWord (decode29 x) ∧
    AnswersWord (decode2A x) ∧ AnswersWord (decode2B x) ∧ AnswersWord (decode2C x) ∧ AnswersWord (decode2D x) := by
  simp only [decode24, decode25, decode26, decode27, decode28, decode29, decode2A, decode2B, decode2C, decode2D]
  refine ⟨?_, ?_, ?_, ?_, ?_, ?_, ?_, ?_, ?_, ?_⟩
  all_goals
    repeat' first
      | exact AnswersWord.none
      | exact AnswersWord.some rfl
      | refine AnswersWord.ite ?_ ?_
      | refine AnswersWord.bind fun _ => ?_
      | split

theorem answersWord_engine (x : BitVec 24) : AnswersWord (decode30 x) ∧ AnswersWord (decode31 x) ∧
    AnswersWord (decode32 x) ∧ AnswersWord (decode33 x) ∧ AnswersWord (decode34 x) ∧ AnswersWord (decode36 x) ∧
    AnswersWord (decode37 x) ∧ AnswersWord (decode38 x) ∧ AnswersWord (decode39 x) ∧ AnswersWord (decode3A x) ∧
    AnswersWord (decode3B x) := by
  simp only [decode30, decode31, decode32, decode33, decode34, decode36, decode37, decode38, decode39, decode3A,
    decode3B]
  refine ⟨?_, ?_, ?_, ?_, ?_, ?_, ?_, ?_, ?_, ?_, ?_⟩
  all_goals
    repeat' first
      | exact AnswersWord.none
      | exact AnswersWord.some rfl
      | refine AnswersWord.ite ?_ ?_
      | refine AnswersWord.bind fun _ => ?_
      | split

theorem answersWord_decodeBody (major : BitVec 6) (x : BitVec 24) : AnswersWord (decodeBody major x) := by
  unfold decodeBody
  split <;> simp only [answersWord_scalar, answersWord_float, answersWord_memory, answersWord_engine, AnswersWord.none]

/-- A word of memory is no step of the device. -/
theorem isEvent_of_decodeWord {w : Word} {d : Decoded} (h : decodeWord w = some d) : d.i.isEvent = false := by
  obtain ⟨i, hi, hd⟩ := Option.bind_eq_some_iff.mp h
  dsimp only at hd
  split at hd
  · cases hd
    exact answersWord_decodeBody _ _ i hi
  · cases hd

end Sys2Proof.Machine
end

section
/-! SUPPORT. No word moves the place at which it issues: one lemma per operation that words use, in the order of the model
(O57). A heading from Ops on names the model's file. -/

namespace Sys2Proof.Machine

/-! ### The place of the word that issues -/

/-- The word that issues stands at pc. -/
def State.AtPc (s : State) (pc : Nat) : Prop := s.cur.pc = pc

variable {s : State} {pc : Nat}

theorem State.AtPc.mapThread (h : s.AtPc pc) {tid : Nat} {f : Thread → Thread} : (s.mapThread tid f).AtPc pc := h

theorem State.AtPc.mapMe (h : s.AtPc pc) {f : Thread → Thread} : (s.mapMe f).AtPc pc := h

theorem State.AtPc.mapLC (h : s.AtPc pc) {n : Nat} {f : LC → LC} : (s.mapLC n f).AtPc pc := h

/-- Fields other than the issue context. -/
theorem State.AtPc.others (h : s.AtPc pc)
    {hclk' enabled' bringUp' failed' slew' fwmeas' mem' threads' lcs' lines' copies' reqs' stores' flawed' flawedStash' arrivals'
    moving' outbox' access' cores' dies' launches' domains' fns' unreached' gang' switching' schedule' agenda'
    copyTurn' draws'} :
    State.AtPc { s with
      hclk := hclk', enabled := enabled', bringUp := bringUp', failed := failed', slew := slew', fwmeas := fwmeas',
      mem := mem', threads := threads', lcs := lcs',
      lines := lines', copies := copies', reqs := reqs', stores := stores', flawed := flawed',
      flawedStash := flawedStash', arrivals := arrivals', moving := moving', outbox := outbox', access := access',
      cores := cores', dies := dies', launches := launches', domains := domains', fns := fns',
      unreached := unreached', gang := gang', switching := switching', schedule := schedule', agenda := agenda',
      copyTurn := copyTurn', draws := draws' } pc := h

theorem EntryMoved.atPc {t : State} (k : EntryMoved s t) (h : s.AtPc pc) : t.AtPc pc := by
  rw [State.AtPc, k.cur]
  exact h

theorem State.AtPc.ite {c : Prop} [Decidable c] {a b : State} (ha : a.AtPc pc) (hb : b.AtPc pc) :
    (if c then a else b).AtPc pc := by
  split
  · exact ha
  · exact hb

theorem State.AtPc.foldl {α : Type} {f : State → α → State} {l : List α} (h : s.AtPc pc)
    (hf : ∀ s x, s.AtPc pc → (f s x).AtPc pc) : (l.foldl f s).AtPc pc := by
  induction l generalizing s with
  | nil => exact h
  | cons x t ih => exact ih (hf s x h)

theorem State.AtPc.ite_fst {β : Type} {c : Prop} [Decidable c] {a b : State × β} (ha : a.1.AtPc pc) (hb : b.1.AtPc pc) :
    (if c then a else b).1.AtPc pc := by
  split
  · exact ha
  · exact hb

theorem State.AtPc.foldl_fst {α β : Type} {f : State × β → α → State × β} {l : List α} {p : State × β}
    (h : p.1.AtPc pc) (hf : ∀ p x, p.1.AtPc pc → (f p x).1.AtPc pc) : (l.foldl f p).1.AtPc pc := by
  induction l generalizing p with
  | nil => exact h
  | cons x t ih => exact ih (hf p x h)

/-- The state of a pair that a function has answered. -/
theorem State.AtPc.of_pair {β : Type} {p : State × β} {b : β} (h : p.1.AtPc pc) (e : p = (s, b)) : s.AtPc pc := by
  subst e
  exact h

/-- The state that an outcome leads to, if any. -/
def OutcomeAt (pc : Nat) : Host.Outcome State Fault Refusal → Prop
  | .next t => t.AtPc pc
  | .fault _ | .refused _ => True

theorem OutcomeAt.next (h : s.AtPc pc) : OutcomeAt pc (.next s) := h

/-! ### Ops -/

theorem State.AtPc.mapDomain (h : s.AtPc pc) {asid : Nat} {f : Domain → Domain} : (s.mapDomain asid f).AtPc pc :=
  .others h

theorem State.AtPc.mapUnit (h : s.AtPc pc) {asid core : Nat} {f : Unit_ → Unit_} : (s.mapUnit asid core f).AtPc pc :=
  .mapDomain h

theorem State.AtPc.mapCore (h : s.AtPc pc) {c : Nat} {f : CoreSt → CoreSt} : (s.mapCore c f).AtPc pc := .others h

theorem State.AtPc.mapDie (h : s.AtPc pc) {n : Nat} {f : Die → Die} : (s.mapDie n f).AtPc pc := .others h

theorem State.AtPc.mapFn (h : s.AtPc pc) {n : Nat} {f : Fn → Fn} : (s.mapFn n f).AtPc pc := .others h

theorem State.AtPc.mapUnitOf (h : s.AtPc pc) {tid : Nat} {f : Unit_ → Unit_} : (s.mapUnitOf tid f).AtPc pc := .mapUnit h

theorem State.AtPc.draw (h : s.AtPc pc) : s.draw.1.AtPc pc := .others h

theorem State.AtPc.raise (h : s.AtPc pc) {fn bits : Nat} : (s.raise fn bits).AtPc pc := .mapFn h

theorem State.AtPc.charge (h : s.AtPc pc) {asid : Nat} {r : FaultRec} : (s.charge asid r).AtPc pc := .mapDomain h

theorem State.AtPc.count (h : s.AtPc pc) {asid core event n : Nat} : (s.count asid core event n).AtPc pc :=
  .ite h (.mapUnit h)

theorem State.AtPc.countBy (h : s.AtPc pc) {tid event n : Nat} : (s.countBy tid event n).AtPc pc := .ite (.count h) h

theorem State.AtPc.mapStep (h : s.AtPc pc) {tid l : Nat} {f : Step → Step} : (s.mapStep tid l f).AtPc pc := by
  dsimp only [State.mapStep]
  split
  · exact .mapUnitOf h
  · exact h

theorem State.AtPc.markRegionTrap (h : s.AtPc pc) {tid : Nat} : (s.markRegionTrap tid).AtPc pc := .mapUnitOf h

theorem State.AtPc.markParked (h : s.AtPc pc) {tid : Nat} {m : Mask} : (s.markParked tid m).AtPc pc :=
  .ite (.markRegionTrap h) h

theorem State.AtPc.mapCast (h : s.AtPc pc) {lc m : Nat} {f : Cast → Cast} : (s.mapCast lc m f).AtPc pc :=
  .mapLC h

theorem State.AtPc.castCheck (h : s.AtPc pc) {lc m : Nat} : (s.castCheck lc m).AtPc pc := .mapCast h

theorem State.AtPc.castDrop (h : s.AtPc pc) {tid : Nat} {lanes : Mask} : (s.castDrop tid lanes).AtPc pc := by
  dsimp only [State.castDrop]
  split
  · exact h
  · exact .castCheck (.ite (.mapCast h) h)

theorem State.AtPc.releaseSide (h : s.AtPc pc) {tid : Nat} : (s.releaseSide tid).AtPc pc := .ite h (.mapCore h)

theorem State.AtPc.freeWindow (h : s.AtPc pc) {core : Nat} : (s.freeWindow core).AtPc pc := .mapCore h

theorem State.AtPc.dropDests (h : s.AtPc pc) {tid : Nat} : (s.dropDests tid).AtPc pc := .others h

theorem State.AtPc.closeAccesses (h : s.AtPc pc) {tid depth : Nat} : (s.closeAccesses tid depth).AtPc pc := .others h

theorem State.AtPc.endActivation (h : s.AtPc pc) {tid status : Nat} : (s.endActivation tid status).AtPc pc := by
  dsimp only [State.endActivation]
  split
  · exact h
  · exact .mapThread (.releaseSide (.ite (.freeWindow (.closeAccesses (.dropDests h))) (.closeAccesses (.dropDests
      h))))

theorem State.AtPc.zeroCtr (h : s.AtPc pc) : s.zeroCtr.AtPc pc := h

theorem State.AtPc.parkLane (h : s.AtPc pc) {x : Taken} : (s.parkLane x).AtPc pc :=
  .charge (.ite (.countBy (.countBy (.mapMe (.markParked h)))) (.countBy (.mapMe (.markParked h))))

theorem State.AtPc.faultStep (h : s.AtPc pc) {x : Taken} : (s.faultStep x).AtPc pc := .mapMe (.mapStep h)

theorem State.AtPc.gateFault (h : s.AtPc pc) {xs : List Taken} : (s.gateFault xs).AtPc pc :=
  .endActivation (.foldl h fun _ _ h1 => .charge (.countBy h1))

theorem State.AtPc.excluding (h : s.AtPc pc) {xs : List Taken} : (s.excluding xs).AtPc pc := .others h

theorem State.AtPc.takeAll (h : s.AtPc pc) {xs : List Taken} : (s.takeAll xs).AtPc pc :=
  .foldl h fun _ _ h1 => .ite (.faultStep h1) (.parkLane h1)

theorem State.AtPc.trapping (h : s.AtPc pc) {xs : List Taken} {eff : State → State}
    (heff : ∀ s, s.AtPc pc → (eff s).AtPc pc) : (s.trapping xs eff).AtPc pc :=
  .ite (heff _ h) (.ite (.takeAll (heff _ (.excluding h))) (.gateFault (.excluding h)))

theorem State.AtPc.trapWave (h : s.AtPc pc) {code : TrapCode} {detail addr : Nat} {dom : Option Nat} :
    (s.trapWave code detail addr dom).AtPc pc :=
  .trapping h fun _ h1 => h1

theorem State.AtPc.trapRun (h : s.AtPc pc) {code : TrapCode} : (s.trapRun code).AtPc pc := .trapping h fun _ h1 => h1

theorem State.AtPc.trapLanes (h : s.AtPc pc) {m : Mask} {code : TrapCode} {eff : State → State} {detail : Nat}
    (heff : ∀ s, s.AtPc pc → (eff s).AtPc pc) : (s.trapLanes m code eff detail).AtPc pc :=
  .trapping h fun _ h1 => heff _ h1

theorem State.AtPc.laneWise (h : s.AtPc pc) {gate : GateRule} {bodyOk : Bool} {eff : State → State}
    (heff : ∀ s, s.AtPc pc → (eff s).AtPc pc) : (s.laneWise gate bodyOk eff).AtPc pc := by
  dsimp only [State.laneWise]
  split
  · exact .trapLanes h fun _ h1 => heff _ h1
  · exact .ite (heff _ h) (.trapLanes h fun _ h1 => heff _ h1)

theorem State.AtPc.uniform (h : s.AtPc pc) {gate : GateRule} {bodyOk : Bool} {eff : State → State}
    (heff : ∀ s, s.AtPc pc → (eff s).AtPc pc) : (s.uniform gate bodyOk eff).AtPc pc := by
  dsimp only [State.uniform]
  refine .ite h ?_
  split
  · exact .trapWave h
  · exact .ite (.trapWave h) (heff _ h)

theorem State.AtPc.block (h : s.AtPc pc) {w : Wait} : (s.block w).AtPc pc := h

theorem State.AtPc.resumeLanes (h : s.AtPc pc) {tid : Nat} {lanes : Mask} {skip : Bool} :
    (s.resumeLanes tid lanes skip).AtPc pc :=
  .ite h (.mapThread h)

theorem State.AtPc.killLanes (h : s.AtPc pc) {tid : Nat} {lanes : Mask} : (s.killLanes tid lanes).AtPc pc := by
  dsimp only [State.killLanes]
  refine .mapThread (.foldl (.castDrop h) (fun _ _ h1 => ?_))
  split
  · exact .markRegionTrap h1
  · exact h1

theorem State.AtPc.laneOp (h : s.AtPc pc) {lc : Nat} {v : Dword} {kill : Bool} : (s.laneOp lc v kill).AtPc pc := by
  dsimp only [State.laneOp]
  split
  · exact h
  · exact .ite (.killLanes h) (.resumeLanes h)

theorem State.AtPc.post (h : s.AtPc pc) {tid : Nat} {p : Posted} : (s.post tid p).AtPc pc :=
  .ite (.mapThread h) (.charge h)

/-! ### Mem -/

theorem State.AtPc.spendFree (h : s.AtPc pc) {lc : Nat} {classes : List Nat} : (s.spendFree lc classes).AtPc pc :=
  (metered_spendFree ..).entryMoved.atPc h

theorem State.AtPc.sendOut (h : s.AtPc pc) {p : Nat} {bs : List Byte} : (s.sendOut p bs).AtPc pc := .others h

theorem State.AtPc.ensureMapped (h : s.AtPc pc) {dom va : Nat} : (s.ensureMapped dom va).AtPc pc :=
  (homesRead_ensureMapped ..).entryMoved.atPc h

theorem State.AtPc.missEntry (h : s.AtPc pc) {dom va core : Nat} {k : Acc} : (s.missEntry dom va core k).AtPc pc :=
  (homesRead_missEntry ..).entryMoved.atPc h

theorem State.AtPc.mapLine (h : s.AtPc pc) {p : Nat} {f : Line → Line} : (s.mapLine p f).AtPc pc := .others h

theorem State.AtPc.grantLease (h : s.AtPc pc) {p ticks : Nat} : (s.grantLease p ticks).1.AtPc pc := .mapLine h

theorem State.AtPc.countAccess (h : s.AtPc pc) {dom va p : Nat} : (s.countAccess dom va p).AtPc pc :=
  (homesRead_countAccess ..).entryMoved.atPc h

theorem State.AtPc.enqueue (h : s.AtPc pc) {x : Store} : (s.enqueue x).AtPc pc := by
  dsimp only [State.enqueue]
  refine .ite ?_ (.others h)
  split
  · exact .countBy (.others h)
  · exact .count (.others h)

theorem State.AtPc.accept (h : s.AtPc pc) {x : Store} : (s.accept x).AtPc pc :=
  .enqueue (.foldl h fun _ _ h1 => .mapThread h1)

theorem State.AtPc.mapWindow (h : s.AtPc pc) {lc n : Nat} {f : Window → Window} : (s.mapWindow lc n f).AtPc pc :=
  .mapLC h

theorem State.AtPc.writeBackEntry (h : s.AtPc pc) {lc n : Nat} {e : WinEntry} {tids : List Nat} :
    (s.writeBackEntry lc n e tids).AtPc pc := by
  dsimp only [State.writeBackEntry]
  refine .ite h ?_
  split
  · exact h
  · exact .enqueue h

theorem State.AtPc.emptyEntries (h : s.AtPc pc) {lc n : Nat} {p : WinEntry → Bool} : (s.emptyEntries lc n p).AtPc pc :=
  .mapLC h

theorem State.AtPc.writeBack (h : s.AtPc pc) {lc n : Nat} {p : WinEntry → Bool} {keep : Bool} {tids : List Nat} :
    (s.writeBack lc n p keep tids).AtPc pc :=
  .ite (.mapWindow (.foldl h (fun _ _ h1 => .writeBackEntry h1))) (.emptyEntries (.foldl h fun _ _ h1 =>
    .writeBackEntry h1))

theorem State.AtPc.fillWindow (h : s.AtPc pc) {lc n off place : Nat} : (s.fillWindow lc n off place).AtPc pc :=
  .ite h (.mapWindow (.spendFree (.countAccess (.grantLease (.writeBack h)))))

theorem State.AtPc.writeWindow (h : s.AtPc pc) {lc n off : Nat} {bytes : List Host.Cell} {tid : Nat} :
    (s.writeWindow lc n off bytes tid).AtPc pc :=
  .mapThread (.mapWindow h)

theorem State.AtPc.flushDirty (h : s.AtPc pc) {tid : Nat} : (s.flushDirty tid).AtPc pc :=
  .mapThread (.foldl h (fun _ _ h1 => .writeBack h1))

/-- Bytes written to a stash area. -/
theorem State.AtPc.writeStash (h : s.AtPc pc) {tid : Nat} {p : Place} {bs : List Byte} :
    (s.writeStash tid p bs).AtPc pc := by
  unfold State.writeStash
  extract_lets t
  have ht : t.AtPc pc := by
    unfold t
    split
    · exact .others h
    · exact h
  split
  · exact .mapLC ht
  · exact .mapThread ht
  · exact ht

theorem State.AtPc.awaitPage (h : s.AtPc pc) {lc dom core va : Nat} {k : Acc} :
    (s.awaitPage lc dom core va k).1.AtPc pc :=
  .ite_fst (.missEntry (.ite h (.ensureMapped h))) (.ite h (.ensureMapped h))

theorem State.AtPc.countLines (h : s.AtPc pc) {dom va n : Nat} : (s.countLines dom va n).AtPc pc :=
  (homesRead_countLines ..).entryMoved.atPc h

theorem State.AtPc.chargeLines (h : s.AtPc pc) {lc n : Nat} : (s.chargeLines lc n).AtPc pc :=
  (entryMoved_chargeLines ..).atPc h

theorem State.AtPc.deviceAdd (h : s.AtPc pc) {dom core va n : Nat} : (s.deviceAdd dom core va n).1.AtPc pc := by
  dsimp only [State.deviceAdd]
  split
  · exact .ite_fst (.accept (.ensureMapped h)) (.ensureMapped h)
  · exact .ite_fst (.accept (.missEntry (.ensureMapped h))) (.ensureMapped h)

theorem State.AtPc.deviceReads (h : s.AtPc pc) {dom va n : Nat} : (s.deviceReads dom va n).1.AtPc pc :=
  (homesRead_deviceReads ..).entryMoved.atPc h

/-! ### Operands -/

theorem State.AtPc.mapActive (h : s.AtPc pc) {f : Nat → Lane → Lane} : (s.mapActive f).AtPc pc :=
  .mapMe h

theorem State.AtPc.pushAll (h : s.AtPc pc) {p : Pipe} {f : Nat → Word} : (s.pushAll p f).AtPc pc :=
  .mapMe h

theorem State.AtPc.setLane (h : s.AtPc pc) {p : Pipe} {d : Dst} {f : Nat → Word} : (s.setLane p d f).AtPc pc := by
  dsimp only [State.setLane]
  refine .pushAll ?_
  split
  · exact .mapActive h
  · exact h

theorem State.AtPc.setGroup (h : s.AtPc pc) {d : Nat} {f : Nat → List Word} : (s.setGroup d f).AtPc pc := .mapActive h

theorem State.AtPc.setPair (h : s.AtPc pc) {d : LReg} {f : Nat → Nat} : (s.setPair d f).AtPc pc := .setGroup h

theorem State.AtPc.setPred (h : s.AtPc pc) {p : PReg} {f : Nat → Bool} : (s.setPred p f).AtPc pc := .mapActive h

theorem State.AtPc.setU (h : s.AtPc pc) {d : UReg} {x : Dword} : (s.setU d x).AtPc pc := .mapMe h

theorem State.AtPc.setU2 (h : s.AtPc pc) {d : UReg} {x y : Dword} : (s.setU2 d x y).AtPc pc := .mapMe h

theorem State.AtPc.setB (h : s.AtPc pc) {d : BReg} {x : BufRec} : (s.setB d x).AtPc pc := .mapMe h

theorem State.AtPc.branch (h : s.AtPc pc) {f : Nat → Nat} : (s.branch f).AtPc pc := .mapActive h

/-! ### Flags -/

theorem State.AtPc.addFlags (h : s.AtPc pc) {f : Nat → Flags} : (s.addFlags f).AtPc pc :=
  .foldl h fun _ _ h1 => .ite h1 (.ite (.mapStep h1) (.mapMe h1))

theorem State.AtPc.addMx (h : s.AtPc pc) {lc k n : Nat} : (s.addMx lc k n).AtPc pc := .ite h (.mapLC h)

theorem State.AtPc.addMxs (h : s.AtPc pc) {lc : Nat} {ns : List Nat} : (s.addMxs lc ns).AtPc pc :=
  .foldl h fun _ _ h1 => .addMx h1

theorem State.AtPc.countLanes (h : s.AtPc pc) {k : Nat} {f : Nat → Nat} : (s.countLanes k f).AtPc pc :=
  .foldl h fun _ _ h1 => .ite h1 (.ite (.mapStep h1) (.addMx h1))

/-! ### Ready -/

theorem State.AtPc.mapFifo (h : s.AtPc pc) {lc q : Nat} {f : Fifo → Fifo} : (s.mapFifo lc q f).AtPc pc :=
  .mapLC h

theorem State.AtPc.await (h : s.AtPc pc) {w : Wait} {eff : State → State} (heff : ∀ s, s.AtPc pc → (eff s).AtPc pc) :
    (s.await w eff).AtPc pc :=
  .ite (heff _ h) (.block h)

/-! ### Access -/

theorem State.AtPc.reserve (h : s.AtPc pc) {ps : Lanes} : (s.reserve ps).AtPc pc := by
  dsimp only [State.reserve]
  refine .foldl h fun _ _ h1 => ?_
  split
  · exact .ite h1 (.ensureMapped h1)
  · exact h1

theorem State.AtPc.checked (h : s.AtPc pc) {r : BufRec} {ps : Lanes} {k : Acc} {extra : List Taken}
    {eff : State → Lanes → State} (heff : ∀ (a : State) (a_1 : Lanes), a.AtPc pc → (eff a a_1).AtPc pc) :
    (s.checked r ps k extra eff).AtPc pc :=
  .ite (.trapLanes h (fun _ h1 => heff _ _ h1)) (.trapping (.reserve h) fun _ h1 => heff _ _ h1)

theorem State.AtPc.bodyRead (h : s.AtPc pc) {tid l stores load : Nat} {bs : List Byte} :
    (s.bodyRead tid l stores load bs).1.AtPc pc :=
  .mapStep h

theorem State.AtPc.deliver (h : s.AtPc pc) {req tid depth : Nat} {p : Part} {data : List Byte} :
    (s.deliver req tid depth p data).AtPc pc := by
  dsimp only [State.deliver]
  split
  · refine .mapThread ?_
    split
    · exact .bodyRead h
    · exact h
  · exact .mapThread h

theorem State.AtPc.missLines (h : s.AtPc pc) {lc core : Nat} {ls : List (Nat × Nat)} {k : Acc} :
    (s.missLines lc core ls k).AtPc pc :=
  .foldl h fun _ _ h1 => .ite (.missEntry h1) h1

theorem State.AtPc.awaitLines (h : s.AtPc pc) {ps : Lanes} {eff : State → State} (heff : ∀ s, s.AtPc pc → (eff s).AtPc pc)
    : (s.awaitLines ps eff).AtPc pc :=
  .ite (heff _ h) (.await (.missLines h) fun _ h1 => .await h1 fun _ h2 => .await h2 fun _ h3 => heff _ h3)

theorem State.AtPc.serve (h : s.AtPc pc) {tid lc core dom line : Nat} {mode : LdMode} {fresh : Bool} :
    (s.serve tid lc core dom line mode fresh).1.AtPc pc := by
  dsimp only [State.serve]
  split
  · split
    · exact .ite_fst (.fillWindow (.countBy h)) (.writeBack h)
    · refine .ite_fst ?_ h
      split
      · exact .countBy h
      · exact h
  · exact .missEntry h
  · exact h

theorem State.AtPc.homeCounts (h : s.AtPc pc) {tid dom va p : Nat} : (s.homeCounts tid dom va p).AtPc pc :=
  .spendFree (.countBy (.countAccess h))

theorem State.AtPc.request (h : s.AtPc pc) {tid dom va : Nat} {sv : Served} {lease : Nat} {keeps acq : Bool}
    {parts : List Part} {pref : Bool} {behind : List Nat} :
    (s.request tid dom va sv lease keeps acq parts pref behind).AtPc pc := by
  dsimp only [State.request]
  split
  · exact h
  · exact .others (.countBy h)
  · exact .others h

theorem State.AtPc.loadLine (h : s.AtPc pc) {ps : Lanes} {r : BufRec} {d : Dst} {w n : Nat} {signed : Bool}
    {mode : LdMode} {dom line : Nat} : (s.loadLine ps r d w n signed mode dom line).AtPc pc := by
  dsimp only [State.loadLine]
  split
  · exact .foldl (.mapThread (.foldl (.serve h) fun _ _ h1 => .ite (.mapStep h1) h1)) fun _ _ h1 => .deliver h1
  · exact .request (.mapThread (.foldl (.serve h) fun _ _ h1 => .ite (.mapStep h1) h1))

theorem State.AtPc.readLine (h : s.AtPc pc) {tid dom line lease : Nat} : (s.readLine tid dom line lease).1.AtPc pc := by
  dsimp only [State.readLine]
  split
  · rename_i e
    exact .of_pair (.serve h) e
  · rename_i e
    have ht := State.AtPc.of_pair (.serve h) e
    exact .ite_fst (.homeCounts ht) (.others (.grantLease (.homeCounts ht)))
  · rename_i e
    exact .of_pair (.serve h) e

theorem State.AtPc.readLines (h : s.AtPc pc) {tid lease : Nat} {ls : List (Nat × Nat)} :
    (s.readLines tid lease ls).1.AtPc pc :=
  .foldl_fst h fun _ _ h1 => .readLine h1

theorem State.AtPc.bodyLoad (h : s.AtPc pc) {l : Nat} {p : Place} {w n : Nat} {signed : Bool} {d : Dst} :
    (s.bodyLoad l p w n signed d).AtPc pc := by
  dsimp only [State.bodyLoad]
  split
  · exact h
  · exact .mapMe (.bodyRead (.mapStep h))

theorem State.AtPc.zeroDropped (h : s.AtPc pc) {ps : Lanes} {d n : Nat} : (s.zeroDropped ps d n).AtPc pc := .mapActive h

theorem State.AtPc.load (h : s.AtPc pc) {r : BufRec} {idx : Nat → Nat} {d : Dst} {w n : Nat} {signed : Bool}
    {mode : LdMode} : (s.load r idx d w n signed mode).AtPc pc := by
  dsimp only [State.load]
  refine .checked h fun _ _ h1 => .foldl (.ite (.pushAll ?_) ?_) fun _ _ h2 => .loadLine h2
  · split
    · exact .zeroDropped h1
    · exact h1
  · split
    · exact .zeroDropped h1
    · exact h1

theorem State.AtPc.loadStash (h : s.AtPc pc) {r : BufRec} {idx : Nat → Nat} {d : Dst} {w n : Nat} {signed : Bool} :
    (s.loadStash r idx d w n signed).AtPc pc := by
  dsimp only [State.loadStash]
  refine .checked h fun _ _ h1 => .foldl (.ite (.pushAll ?_) ?_) fun _ _ h2 => .ite (.bodyLoad h2) (.mapMe h2)
  · split
    · exact .setGroup h1
    · exact h1
  · split
    · exact .setGroup h1
    · exact h1

theorem State.AtPc.storeLine (h : s.AtPc pc) {tid : Nat} {m : Mask} {dom line : Nat} {cells : List Host.Cell}
    {stream uniform : Bool} {on : List (Nat × Nat)} : (s.storeLine tid m dom line cells stream uniform on).AtPc pc := by
  dsimp only [State.storeLine]
  split
  · split
    · exact .ite (.writeWindow (.fillWindow (.countBy h))) (.accept h)
    · exact .accept h
  · exact .accept (.missEntry h)
  · exact h

theorem State.AtPc.evictLine (h : s.AtPc pc) {lc dom line : Nat} : (s.evictLine lc dom line).AtPc pc := by
  dsimp only [State.evictLine]
  split
  · exact .writeBack h
  · exact h

theorem State.AtPc.storeHome (h : s.AtPc pc) {dom line : Nat} {cells : List Host.Cell} :
    (s.storeHome dom line cells).AtPc pc := by
  dsimp only [State.storeHome]
  split
  · exact .accept h
  · exact .accept (.missEntry h)

theorem State.AtPc.storeAll (h : s.AtPc pc) {tid : Nat} {ps : Lanes} {data : Nat → List Byte} {stream : Bool} :
    (s.storeAll tid ps data stream).AtPc pc :=
  .foldl h fun _ _ h1 => .storeLine h1

theorem State.AtPc.probeStore (h : s.AtPc pc) {l dom va : Nat} : (s.probeStore l dom va).AtPc pc :=
  .ite (.others (.missEntry h)) h

theorem State.AtPc.bodyStore (h : s.AtPc pc) {l : Nat} {p : Place} {bs : List Byte} : (s.bodyStore l p bs).AtPc pc := by
  dsimp only [State.bodyStore]
  split
  · split
    · exact .probeStore h
    · exact h
  · refine .mapStep ?_
    split
    · exact .probeStore h
    · exact h

theorem State.AtPc.storeParts (h : s.AtPc pc) {ps : Lanes} {data : Nat → List Byte} {stream : Bool} :
    (s.storeParts ps data stream).AtPc pc := by
  dsimp only [State.storeParts]
  refine .storeAll (.foldl (.foldl h (fun _ _ h1 => .bodyStore h1)) fun _ _ h1 => ?_)
  split
  · exact .writeStash h1
  · exact .writeStash h1
  · exact h1

theorem State.AtPc.fenceThen (h : s.AtPc pc) {sc : Scope} {eff : State → State} (heff : ∀ s, s.AtPc pc → (eff s).AtPc pc) :
    (s.fenceThen sc eff).AtPc pc := by
  dsimp only [State.fenceThen]
  refine .await ?_ fun _ h1 => heff _ h1
  split
  · exact .flushDirty h
  · exact .flushDirty h
  · exact h

theorem State.AtPc.released (h : s.AtPc pc) {on : Bool} {ps : Lanes} {eff : State → State}
    (heff : ∀ s, s.AtPc pc → (eff s).AtPc pc) : (s.released on ps eff).AtPc pc := by
  dsimp only [State.released]
  split
  · exact .fenceThen h fun _ h1 => heff _ h1
  · exact heff _ h

theorem State.AtPc.store (h : s.AtPc pc) {r : BufRec} {idx : Nat → Nat} {data : Nat → List Byte} {w : Nat}
    {stash : Bool} {mode : StMode} : (s.store r idx data w stash mode).AtPc pc :=
  .checked h fun _ _ h1 => .released h1 fun _ h2 => .storeParts h2

theorem State.AtPc.atomLine (h : s.AtPc pc) {ps : Lanes} {dom line : Nat} {part : Nat → Nat → AtomPart} {acq : Bool}
    {ret : Option (Nat × Nat)} : (s.atomLine ps dom line part acq ret).AtPc pc := by
  unfold State.atomLine
  extract_lets tid t on m s1 base id s2
  have h1 : s1.AtPc pc := by
    unfold s1
    split
    · exact .writeBack h
    · exact h
  have h2 : s2.AtPc pc := by
    unfold s2
    split
    · exact .accept h1
    · exact .accept (.missEntry h1)
  split
  · exact h2
  · exact .others (.mapThread h2)

theorem State.AtPc.uniAccess (h : s.AtPc pc) {r : BufRec} {idx w : Nat} {k : Acc} {eff : State → Place → State}
    (heff : ∀ (a : State) (a_1 : Place), a.AtPc pc → (eff a a_1).AtPc pc) : (s.uniAccess r idx w k eff).AtPc pc := by
  dsimp only [State.uniAccess]
  refine .ite (.trapWave h) ?_
  split
  · exact .trapWave (.reserve h)
  · exact heff _ _ (.reserve h)

theorem State.AtPc.loadUni (h : s.AtPc pc) {d : UReg} {r : BufRec} {idx w : Nat} {mode : LdMode} :
    (s.loadUni d r idx w mode).AtPc pc := by
  dsimp only [State.loadUni]
  refine .uniAccess h fun _ _ h1 => ?_
  split
  · split
    · exact .deliver (.serve h1)
    · exact .request (.mapThread (.serve h1))
  · exact .setU h1

theorem State.AtPc.storeUni (h : s.AtPc pc) {r : BufRec} {idx w : Nat} {bs : List Byte} {mode : StMode} :
    (s.storeUni r idx w bs mode).AtPc pc := by
  dsimp only [State.storeUni]
  refine .uniAccess h fun _ _ h1 => ?_
  split
  · exact .released h1 fun _ h2 => .storeLine h2
  · exact h1

/-! ### Msync -/

theorem State.AtPc.unmapWindow (h : s.AtPc pc) {lc n : Nat} {tids : List Nat} : (s.unmapWindow lc n tids).AtPc pc :=
  .ite h (.mapWindow (.writeBack h))

theorem OutcomeAt.execStmap (h : s.AtPc pc) {rec : BReg} {a : UReg} : OutcomeAt pc (execStmap rec a s) :=
  .next (.uniform h fun _ h1 => .ite (.trapWave h1) (.ite (.unmapWindow h1) (.ite (.trapWave h1) (.mapWindow h1))))

theorem State.AtPc.prefLine (h : s.AtPc pc) {r : BufRec} {dom line : Nat} : (s.prefLine r dom line).AtPc pc :=
  .request (.serve h)

theorem State.AtPc.pollAcquire (h : s.AtPc pc) {p : Poll} : (s.pollAcquire p).AtPc pc :=
  .mapMe (.mapActive h)

theorem State.AtPc.pollWord (h : s.AtPc pc) {r : BufRec} {ps : Lanes} : (s.pollWord r ps).AtPc pc := by
  dsimp only [State.pollWord]
  split
  · exact .ite (.pollAcquire h) (.block h)
  · exact .checked h fun _ _ h1 => .ite h1 (.block (.mapMe h1))

theorem State.AtPc.pollUni (h : s.AtPc pc) {r : BufRec} {w : Nat} : (s.pollUni r w).AtPc pc := by
  dsimp only [State.pollUni]
  split
  · exact .ite (.mapMe (.mapMe h)) (.block h)
  · exact .uniAccess h fun _ _ h1 => .block (.mapMe h1)

theorem OutcomeAt.execBbarm (h : s.AtPc pc) {rec : BReg} {a : UReg} : OutcomeAt pc (execBbarm rec a s) := by
  dsimp only [Machine.execBbarm]
  refine .next (.uniform h fun _ h1 => .uniAccess h1 fun _ _ h2 => ?_)
  split
  · exact .released h2 fun _ h3 => .mapMe (.storeHome (.evictLine h3))
  · exact h2

/-! ### Engine -/

theorem State.AtPc.postCmd (h : s.AtPc pc) {c : Cmd} {code : TrapCode} {addr : Nat} : (s.postCmd c code addr).AtPc pc :=
  .post h

theorem State.AtPc.decrement (h : s.AtPc pc) {asid core : Nat} {c : Cmd} {n : Nat} :
    (s.decrement asid core c n).AtPc pc := by
  dsimp only [State.decrement]
  refine .ite h ?_
  split
  · exact .ite (.postCmd h) (.mapUnit h)
  · exact .ite (.postCmd h) (.mapUnit h)

theorem State.AtPc.barrierAdd (h : s.AtPc pc) {core : Nat} {c : Cmd} : (s.barrierAdd core c).AtPc pc := by
  dsimp only [State.barrierAdd]
  refine .ite h ?_
  rcases s.windowAt c.lc c.dom c.bbaddr with _ | ⟨k, n⟩ <;> dsimp only <;> split <;> rename_i e
  · exact .of_pair (.deviceAdd h) e
  · exact .postCmd (.of_pair (.deviceAdd h) e)
  · exact .of_pair (.deviceAdd (.writeBack h)) e
  · exact .postCmd (.of_pair (.deviceAdd (.writeBack h)) e)

theorem State.AtPc.completeNode (h : s.AtPc pc) {asid core : Nat} {c : Cmd} : (s.completeNode asid core c).AtPc pc := by
  dsimp only [State.completeNode]
  split
  · exact .postCmd (.addMxs (.ite (.decrement (.decrement h)) (.barrierAdd (.decrement (.decrement h)))))
  · exact .addMxs (.ite (.decrement (.decrement h)) (.barrierAdd (.decrement (.decrement h))))

theorem State.AtPc.discardCmd (h : s.AtPc pc) {asid core : Nat} {c : Cmd} : (s.discardCmd asid core c).AtPc pc :=
  .completeNode (.mapUnit h)

theorem State.AtPc.enterCmd (h : s.AtPc pc) {q : Nat} {c : Cmd} : (s.enterCmd q c).AtPc pc := .mapUnitOf h

theorem State.AtPc.command (h : s.AtPc pc) {q : Nat} {i : Instr} {wb : UReg} {check : State → Cmd → Option TrapCode} :
    (s.command q i wb check).AtPc pc := by
  dsimp only [State.command]
  refine .uniform h fun _ h1 => ?_
  split
  · exact .trapWave h1
  · split
    · exact .trapWave h1
    · exact .await h1 fun _ h2 => .enterCmd h2

/-! ### Bench -/

theorem State.AtPc.mapTile (h : s.AtPc pc) {asid core t : Nat} {f : Tile → Tile} : (s.mapTile asid core t f).AtPc pc :=
  .mapUnit h

theorem State.AtPc.postCovers (h : s.AtPc pc) {cs : List Cover} : (s.postCovers cs).AtPc pc :=
  .foldl h fun _ _ h1 => .post h1

theorem State.AtPc.retireTag (h : s.AtPc pc) {asid core t : Nat} : (s.retireTag asid core t).AtPc pc := by
  dsimp only [State.retireTag]
  exact .mapUnit (.addMxs (.foldl_fst h fun _ _ h1 => .postCovers (.mapTile h1)))

theorem State.AtPc.retireDone (h : s.AtPc pc) {asid core : Nat} : (s.retireDone asid core).AtPc pc :=
  .foldl h fun _ _ h1 => .ite (.retireTag h1) h1

/-! ### Buf -/

theorem OutcomeAt.execBufnar (h : s.AtPc pc) {d a : BReg} {b : UReg} : OutcomeAt pc (execBufnar d a b s) :=
  .next (.uniform h fun _ h1 => .ite (.trapWave h1) (.ite (.trapWave h1) (.ite (.trapWave h1) (.ite (.trapWave h1)
    (.setB h1)))))

/-! ### Cast -/

theorem State.AtPc.castWord (h : s.AtPc pc) {m : Option Nat} {eff : State → State}
    (heff : ∀ s, s.AtPc pc → (eff s).AtPc pc) : (s.castWord m eff).AtPc pc :=
  .uniform h fun _ h1 => .ite (.trapWave h1) (heff _ h1)

theorem State.AtPc.leaveCast (h : s.AtPc pc) {tid : Nat} : (s.leaveCast tid).AtPc pc := by
  dsimp only [State.leaveCast]
  split
  · exact h
  · exact .ite (.mapThread (.castDrop h)) (.mapCast (.mapThread (.castDrop h)))

theorem State.AtPc.recordArrival (h : s.AtPc pc) {m : Nat} : (s.recordArrival m).1.AtPc pc :=
  .castCheck (.mapMe (.mapCast (.ite h (.mapCast h))))

theorem State.AtPc.arrive (h : s.AtPc pc) {m : Nat} {done : State → Nat → State}
    (hdone : ∀ (a : State) (a_1 : Nat), a.AtPc pc → (done a a_1).AtPc pc) : (s.arrive m done).AtPc pc :=
  .ite (.trapWave h) (.await h fun _ h1 => .await h1 fun _ h2 => .ite (.trapWave h2) (hdone _ _ (.recordArrival h2)))

theorem OutcomeAt.execBarw (h : s.AtPc pc) {m : BitVec 4} : OutcomeAt pc (execBarw m s) := by
  dsimp only [Machine.execBarw]
  refine .next (.castWord h fun _ h1 => ?_)
  split
  · exact .await h1 fun _ h2 => h2
  · exact .arrive h1 fun _ _ h2 => .await (.mapMe h2) fun _ h3 => h3

theorem OutcomeAt.execWaitb (h : s.AtPc pc) {m : BitVec 4} : OutcomeAt pc (execWaitb m s) := by
  dsimp only [Machine.execWaitb]
  refine .next (.castWord h fun _ h1 => .ite (.trapWave h1) ?_)
  split
  · exact h1
  · exact .await h1 fun _ h2 => h2

/-! ### Control -/

theorem State.AtPc.callAll (h : s.AtPc pc) {ret : Nat} {tgt : Nat → Nat} {bad : List Taken} :
    (s.callAll ret tgt bad).AtPc pc :=
  .ite (.trapping (.reserve h) (fun _ h1 => .mapActive (.storeAll h1))) (.await h fun _ h1 => .trapping (.reserve h1)
    fun _ h2 => .mapActive (.storeAll h2))

theorem State.AtPc.refill (h : s.AtPc pc) {ps : Lanes} : (s.refill ps).1.AtPc pc := .readLines h

theorem OutcomeAt.execRet (h : s.AtPc pc) : OutcomeAt pc (execRet s) :=
  .next (.laneWise h fun _ h1 => .ite (.trapping (.refill h1) (fun _ h2 => .mapActive h2)) (.await h1 fun _ h2 =>
    .awaitLines (.reserve h2) fun _ h3 => .trapping (.refill h3) fun _ h4 => .mapActive h4))

/-! ### Float -/

theorem State.AtPc.setFloat (h : s.AtPc pc) {p : Pipe} {d : Dst} {f : Nat → Word × Flags} : (s.setFloat p d f).AtPc pc :=
  .addFlags (.setLane h)

theorem State.AtPc.clearFlags (h : s.AtPc pc) {m : Dword} : (s.clearFlags m).AtPc pc := .mapMe h

/-! ### Convert -/

theorem State.AtPc.setConv (h : s.AtPc pc) {d : Dst} {f : Nat → Option (Word × Flags)} : (s.setConv d f).AtPc pc :=
  .trapLanes h fun _ h1 => .setFloat h1

theorem OutcomeAt.execQunpack (h : s.AtPc pc) {d : LReg} {a : Src} {slot : FSlot} :
    OutcomeAt pc (execQunpack d a slot s) :=
  .next (.laneWise h fun _ h1 => .ite (.trapRun h1) (.ite (.countLanes (.addFlags (.setGroup h1))) (.addFlags
    (.setGroup h1))))

/-! ### Tile -/

theorem State.AtPc.cutRows (h : s.AtPc pc) {asid core t : Nat} {m : Mask} : (s.cutRows asid core t m).AtPc pc := by
  dsimp only [State.cutRows]
  refine .retireDone (.postCovers (.mapTile (.foldl h fun _ _ h1 => ?_)))
  split
  · exact .mapUnit h1
  · exact h1

theorem OutcomeAt.execTcvt (h : s.AtPc pc) {q : UReg} {t : TReg} {slot : FSlot} : OutcomeAt pc (execTcvt q t slot s) :=
  .next (.laneWise h fun _ h1 => .ite (.trapRun h1) (.ite (.ite (.pushAll h1) h1) (.await h1 fun _ h2 => .trapLanes h2
    fun _ h3 => .addFlags (.ite (.pushAll (.setGroup h3)) (.setGroup h3)))))

/-! ### CrossLane -/

theorem State.AtPc.shuffle (h : s.AtPc pc) {d : Dst} {a : Src} {from_ : Nat → Option Nat} :
    (s.shuffle d a from_).AtPc pc :=
  .setLane h

theorem State.AtPc.scanWord (h : s.AtPc pc) {d : Dst} {a : Src} {total : Bool} {op : Word → Word → Word × Flags}
    {first : Word → Word × Flags} : (s.scanWord d a total op first).AtPc pc :=
  .addFlags (.setLane h)

/-! ### WorkQueue -/

theorem State.AtPc.readTail (h : s.AtPc pc) {asid n : Nat} : (s.readTail asid n).AtPc pc :=
  (homesRead_readTail ..).entryMoved.atPc h

theorem State.AtPc.awaitPages (h : s.AtPc pc) {dom : Nat} {k : Acc} {eff : State → State} {vas : List Nat}
    (heff : ∀ s, s.AtPc pc → (eff s).AtPc pc) : (s.awaitPages dom k eff vas).AtPc pc := by
  induction vas generalizing s with
  | nil => exact heff s h
  | cons va t ih => exact .await (.ite (.ensureMapped h) (.missEntry (.ensureMapped h))) fun _ h => ih h

theorem State.AtPc.withBlock (h : s.AtPc pc) {q : Nat} {eff : State → State} (heff : ∀ s, s.AtPc pc → (eff s).AtPc pc) :
    (s.withBlock q eff).AtPc pc := by
  dsimp only [State.withBlock]
  split
  · exact .awaitPages h fun _ h1 => .await h1 fun _ h2 => heff _ h2
  · exact heff _ h

theorem State.AtPc.withSlots (h : s.AtPc pc) {q n : Nat} {isPush : Bool} {eff : State → State}
    (heff : ∀ s, s.AtPc pc → (eff s).AtPc pc) : (s.withSlots q n isPush eff).AtPc pc := by
  dsimp only [State.withSlots]
  split
  · exact heff _ h
  · exact .ite (heff _ h) (.awaitPages h fun _ h1 => .await h1 fun _ h2 => .await h2 fun _ h3 => heff _ h3)

theorem State.AtPc.popEntry (h : s.AtPc pc) {lc q : Nat} : (s.popEntry lc q).1.AtPc pc :=
  (entryMoved_popEntry ..).atPc h

theorem State.AtPc.popEntries (h : s.AtPc pc) {lc q n : Nat} : (s.popEntries lc q n).1.AtPc pc :=
  (entryMoved_popEntries ..).atPc h

theorem State.AtPc.pushEntry (h : s.AtPc pc) {lc q : Nat} {x : Dword} : (s.pushEntry lc q x).AtPc pc :=
  (entryMoved_pushEntry ..).atPc h

theorem State.AtPc.completionRecord (h : s.AtPc pc) {asid queue seq status : Nat} :
    (s.completionRecord asid queue seq status).AtPc pc :=
  (recorded_completionRecord ..).entryMoved.atPc h

/-! ### Gate -/

theorem State.AtPc.awaitRead (h : s.AtPc pc) {dom va n : Nat} {eff : State → State}
    (heff : ∀ s, s.AtPc pc → (eff s).AtPc pc) : (s.awaitRead dom va n eff).AtPc pc :=
  .awaitPages h fun _ h1 => .await h1 fun _ h2 => heff _ h2

theorem State.AtPc.withGate (h : s.AtPc pc) {m : Nat} {eff : State → Option Gate → State}
    (heff : ∀ (a : State) (a_1 : Option Gate), a.AtPc pc → (eff a a_1).AtPc pc) : (s.withGate m eff).AtPc pc := by
  dsimp only [State.withGate]
  refine .ite (heff _ _ h) (.awaitRead h fun _ h1 => ?_)
  split
  · exact heff _ _ (.chargeLines (.countLines h1))
  · exact .awaitRead h1 fun _ h2 => heff _ _ (.chargeLines (.countLines (.countLines h2)))

theorem State.AtPc.peekGate (h : s.AtPc pc) {m : Nat} : (s.peekGate m).1.AtPc pc := by
  rw [State.peekGate]
  refine .ite_fst h ?_
  split
  · rename_i e
    exact .chargeLines (.of_pair (.deviceReads h) e)
  · rename_i e
    exact .chargeLines (.deviceReads (.of_pair (.deviceReads h) e))

theorem State.AtPc.withGrants (h : s.AtPc pc) {g : Gate} {eff : State → State} (heff : ∀ s, s.AtPc pc → (eff s).AtPc pc) :
    (s.withGrants g eff).AtPc pc :=
  .awaitPages h fun _ h1 => .await h1 fun _ h2 => heff _ (.chargeLines (.foldl h2 fun _ _ h3 => .countLines h3))

theorem State.AtPc.gateStatus (h : s.AtPc pc) {n : Nat} : (s.gateStatus n).AtPc pc := .setU2 h

theorem State.AtPc.gateFaultAtEntry (h : s.AtPc pc) {dom : Nat} {code : TrapCode} {addr : Nat} :
    (s.gateFaultAtEntry dom code addr).AtPc pc :=
  .mapMe (.mapActive (.charge (.countBy (.countBy h))))

theorem OutcomeAt.execCallg (h : s.AtPc pc) {m : BitVec 7} : OutcomeAt pc (execCallg m s) := by
  dsimp only [Machine.execCallg]
  refine .next (.uniform h fun _ h1 => .ite (.block h1) (.ite (.block h1) (.withGate h1 fun _ _ h2 => ?_)))
  split
  · exact .gateStatus h2
  · refine .ite (.gateStatus h2) (.ite (.gateStatus h2) (.await h2 fun _ h3 => .withGrants h3 fun _ h4 => ?_))
    split
    · exact .gateFaultAtEntry h4
    · exact .mapMe (.mapCore (.countBy h4))

theorem OutcomeAt.execGateq (h : s.AtPc pc) {d : UReg} {m : BitVec 7} : OutcomeAt pc (execGateq d m s) := by
  dsimp only [Machine.execGateq]
  refine .next (.uniform h fun _ h1 => ?_)
  split
  · rename_i e
    exact .setU (.of_pair (.peekGate h1) e)
  · rename_i e
    exact .setU (.of_pair (.peekGate h1) e)

/-! ### Task -/

theorem State.AtPc.handChild (h : s.AtPc pc) {c : Child} : (s.handChild c).AtPc pc :=
  .ite (.mapDie (.mapLC h)) (.mapDie h)

theorem OutcomeAt.execSpawn (h : s.AtPc pc) {a : UReg} : OutcomeAt pc (execSpawn a s) :=
  .next (.uniform h fun _ h1 => .ite (.trapWave h1) (.ite (.trapWave h1) (.await (.flushDirty h1) fun _ h2 =>
    .handChild h2)))

theorem State.AtPc.withdrawCore (h : s.AtPc pc) {lc tag core : Nat} : (s.withdrawCore lc tag core).1.AtPc pc := by
  dsimp only [State.withdrawCore]
  refine .foldl h fun _ _ h1 => ?_
  split
  · exact .discardCmd h1
  · exact h1

theorem State.AtPc.withdrawDie (h : s.AtPc pc) {lc tag die : Nat} : (s.withdrawDie lc tag die).1.AtPc pc :=
  .foldl (.mapDie h) fun _ _ h1 => .ite h1 (.deviceAdd h1)

theorem State.AtPc.countEntry (h : s.AtPc pc) {asid : Nat} {w : WorkQ} {seq : Nat} : (s.countEntry asid w seq).AtPc pc :=
  .countLines (.countLines h)

theorem State.AtPc.withRecords (h : s.AtPc pc) {asid scope tag : Nat} {eff : State → State}
    (heff : ∀ s, s.AtPc pc → (eff s).AtPc pc) : (s.withRecords asid scope tag eff).AtPc pc :=
  .ite (heff _ h) (.awaitPages h fun _ h1 => .await h1 fun _ h2 => heff _ h2)

theorem State.AtPc.withdrawQueue (h : s.AtPc pc) {asid tag : Nat} {w : WorkQ} : (s.withdrawQueue asid tag w).1.AtPc pc :=
  .ite_fst h (.foldl (.foldl h (fun _ _ h1 => .countEntry h1)) fun _ _ h1 => .completionRecord h1)

theorem State.AtPc.withdrawEach (h : s.AtPc pc) {α : Type} {f : State → α → State × Nat} {xs : List α}
    (hf : ∀ (a : State) (a_1 : α), a.AtPc pc → (f a a_1).1.AtPc pc) : (s.withdrawEach f xs).1.AtPc pc :=
  .foldl_fst h fun _ _ h1 => hf _ _ h1

theorem State.AtPc.withdrawAll (h : s.AtPc pc) {lc core scope tag : Nat} :
    (s.withdrawAll lc core scope tag).1.AtPc pc := by
  dsimp only [State.withdrawAll]
  exact .ite_fst (.withdrawEach (.withdrawEach (.withdrawEach h (fun _ _ h1 => .withdrawCore h1)) (fun _ _ h1 =>
    .withdrawDie h1)) (fun _ _ h1 => .withdrawQueue h1)) (.withdrawEach (.withdrawEach h (fun _ _ h1 => .withdrawCore
    h1)) fun _ _ h1 => .withdrawDie h1)

theorem OutcomeAt.execWithdraw (h : s.AtPc pc) {d a : UReg} : OutcomeAt pc (execWithdraw d a s) :=
  .next (.uniform h fun _ h1 => .ite (.trapWave h1) (.ite (.trapWave h1) (.withRecords h1 fun _ h2 => .setU
    (.withdrawAll h2))))

theorem OutcomeAt.execSiglead (h : s.AtPc pc) {a : UReg} : OutcomeAt pc (execSiglead a s) := by
  refine .next (.uniform h fun _ h1 => .ite (.trapWave h1) ?_)
  split
  · exact .ite h1 (.mapThread h1)
  · exact h1

/-! ### Relax -/

theorem State.AtPc.begTrap (h : s.AtPc pc) {code : TrapCode} : (s.begTrap code).AtPc pc :=
  .trapWave (.mapMe h)

theorem OutcomeAt.execRlxbeg (h : s.AtPc pc) {a : UReg} : OutcomeAt pc (execRlxbeg a s) :=
  .next (.ite (.mapMe h) (.uniform h fun _ h1 => .ite (.begTrap h1) (.ite (.begTrap h1) (.ite
    (.begTrap h1) (.ite (.block h1) (.ite (.begTrap h1) (.block (.mapMe h1))))))))

theorem State.AtPc.groupOk (h : s.AtPc pc) {a : Src} {n : Nat} {eff : State → State}
    (heff : ∀ s, s.AtPc pc → (eff s).AtPc pc) : (s.groupOk a n eff).AtPc pc :=
  .ite (heff _ h) (.trapLanes h fun _ h1 => h1)

theorem State.AtPc.setStateGroup (h : s.AtPc pc) {d : LReg} {n : Nat} {f : Nat → List Word} :
    (s.setStateGroup d n f).AtPc pc :=
  .ite (.setLane h) (.setGroup h)

theorem OutcomeAt.execRlxout (h : s.AtPc pc) {a : Src} : OutcomeAt pc (execRlxout a s) :=
  .next (.laneWise h fun _ h1 => .groupOk h1 fun _ h2 => .trapLanes h2 fun _ h3 => .foldl h3 fun _ _ h4 => .mapStep
    h4)

theorem OutcomeAt.execRlxjac (h : s.AtPc pc) {a : Src} : OutcomeAt pc (execRlxjac a s) :=
  .next (.laneWise h fun _ h1 => .groupOk h1 fun _ h2 => .trapLanes h2 fun _ h3 => .foldl h3 fun _ _ h4 => .mapStep
    h4)

theorem OutcomeAt.execRlxstep (h : s.AtPc pc) {d : Dst} : OutcomeAt pc (execRlxstep d s) := by
  dsimp only [Machine.execRlxstep]
  refine .next (.laneWise h fun _ h1 => ?_)
  split
  · exact .trapLanes h1 fun _ h2 => .pushAll h2
  · exact .setLane h1

theorem OutcomeAt.execRlxpeek (h : s.AtPc pc) {d : LReg} : OutcomeAt pc (execRlxpeek d s) :=
  .next (.laneWise h fun _ h1 => .groupOk h1 fun _ h2 => .ite (.trapLanes h2 (fun _ h3 => .ite (.pushAll h3) h3))
    (.setStateGroup h2))

theorem OutcomeAt.execRlxguess (h : s.AtPc pc) {a : Src} : OutcomeAt pc (execRlxguess a s) := by
  dsimp only [Machine.execRlxguess]
  refine .next (.laneWise h fun _ h1 => .groupOk h1 fun _ h2 => ?_)
  split
  · exact .foldl h2 fun _ _ h3 => .mapUnitOf h3
  · exact .trapLanes h2 fun _ h3 => h3

/-! ### Queue -/

theorem State.AtPc.queueAccess (h : s.AtPc pc) {q n : Nat} {isPush lanes : Bool} {eff : State → State}
    (heff : ∀ s, s.AtPc pc → (eff s).AtPc pc) : (s.queueAccess q n isPush lanes eff).AtPc pc := by
  dsimp only [State.queueAccess]
  refine .withBlock h fun _ h1 => ?_
  split
  · exact .ite (.trapRun h1) (.trapWave h1)
  · exact .await h1 fun _ h2 => .withSlots h2 fun _ h3 => heff _ (.ite h3 (.mapFifo h3))

theorem OutcomeAt.execQtry (h : s.AtPc pc) {d : LReg} {q : QReg} {b : PReg} : OutcomeAt pc (execQtry d q b s) := by
  dsimp only [Machine.execQtry]
  refine .next (.laneWise h fun _ h1 => .ite (.trapLanes h1 (fun _ h2 => h2)) (.ite h1 (.withBlock h1 fun _ h2 =>
    ?_)))
  split
  · exact .trapRun h2
  · exact .withSlots h2 fun _ h3 => .setPred (.mapActive (.popEntries h3))

theorem OutcomeAt.execQtryw (h : s.AtPc pc) {d : UReg} {q : QReg} {b : PReg} : OutcomeAt pc (execQtryw d q b s) := by
  dsimp only [Machine.execQtryw]
  refine .next (.uniform h fun _ h1 => .ite (.trapWave h1) (.withBlock h1 fun _ h2 => ?_))
  split
  · exact .trapWave h2
  · exact .ite (.setPred h2) (.withSlots h2 fun _ h3 => .setPred (.setU (.popEntry h3)))

theorem OutcomeAt.execQlen (h : s.AtPc pc) {d : UReg} {q : QReg} : OutcomeAt pc (execQlen d q s) :=
  .next (.uniform h fun _ h1 => .ite (.trapWave h1) (.ite (.setU h1) (.ite (.trapWave h1) (.ite (.trapWave h1)
    (.withBlock h1 fun _ h2 => .setU h2)))))

theorem State.AtPc.bind (h : s.AtPc pc) {lc q : Nat} {x : Word} : (s.bind lc q x).AtPc pc := by
  dsimp only [State.bind]
  split
  · exact .readTail (.mapFifo h)
  · exact .mapFifo h

theorem State.AtPc.withNewBlock (h : s.AtPc pc) {x : Word} {eff : State → State} (heff : ∀ s, s.AtPc pc → (eff s).AtPc pc)
    : (s.withNewBlock x eff).AtPc pc := by
  dsimp only [State.withNewBlock]
  split
  · exact .awaitPages h fun _ h1 => .await h1 fun _ h2 => heff _ h2
  · exact heff _ h

theorem OutcomeAt.execQbind (h : s.AtPc pc) {d : QReg} {a : UReg} : OutcomeAt pc (execQbind d a s) :=
  .next (.uniform h fun _ h1 => .ite (.trapWave h1) (.ite (.trapWave h1) (.ite (.trapWave h1) (.withBlock h1
    fun _ h2 => .withNewBlock h2 fun _ h3 => .ite (.trapWave h3) (.ite (.trapWave h3) (.ite (.trapWave h3) (.bind
    h3)))))))

/-! ### Uniform -/

theorem OutcomeAt.execVtow (h : s.AtPc pc) {d : UReg} {a : Src} : OutcomeAt pc (execVtow d a s) := by
  dsimp only [Machine.execVtow]
  refine .next (.uniform h fun _ h1 => ?_)
  split
  · exact .setU h1
  · exact h1

/-! ### System -/

theorem OutcomeAt.execSrd (h : s.AtPc pc) {d : UReg} {reg : BitVec 12} : OutcomeAt pc (execSrd d reg s) := by
  dsimp only [Machine.execSrd]
  refine .next (.uniform h fun _ h1 => ?_)
  split
  · exact .trapWave h1
  · exact .setU h1

theorem State.AtPc.writeSreg (h : s.AtPc pc) {n : Nat} {x : Dword} : (s.writeSreg n x).AtPc pc := by
  dsimp only [State.writeSreg]
  split
  · exact .ite (.trapWave h) (.fenceThen h fun _ h1 => .laneOp h1)
  · exact .ite (.trapWave h) (.fenceThen h fun _ h1 => .laneOp h1)
  · exact .ite (.trapWave h) (.mapMe h)
  · exact .ite (.trapWave h) (.mapMe h)
  · exact .ite (.trapWave h) (.mapLC h)

theorem OutcomeAt.execSwr (h : s.AtPc pc) {d : UReg} {reg : BitVec 12} : OutcomeAt pc (execSwr d reg s) := by
  dsimp only [Machine.execSwr]
  refine .next (.uniform h fun _ h1 => ?_)
  split
  · exact .trapWave h1
  · exact .writeSreg h1

theorem OutcomeAt.execSleep (h : s.AtPc pc) {a : UReg} : OutcomeAt pc (execSleep a s) := by
  dsimp only [Machine.execSleep]
  refine .next (.uniform h fun _ h1 => ?_)
  split
  · exact .await h1 fun _ h2 => h2
  · exact .ite h1 (.block h1)

theorem OutcomeAt.execSignal (h : s.AtPc pc) {a : UReg} : OutcomeAt pc (execSignal a s) := by
  refine .next (.uniform h fun _ h1 => .ite (.trapWave h1) ?_)
  split
  · exact .mapThread h1
  · exact h1

theorem State.AtPc.sendCtl (h : s.AtPc pc) {asid off x : Nat} : (s.sendCtl asid off x).AtPc pc := .sendOut h

/-! ### Observe -/

theorem State.AtPc.ringWrite (h : s.AtPc pc) {asid : Nat} {trace : Bool} {bs : List Byte} :
    (s.ringWrite asid trace bs).AtPc pc :=
  .ite (.raise (.sendCtl (.mapDomain h))) (.sendCtl (.mapDomain (.sendOut h)))

theorem State.AtPc.sendStamp (h : s.AtPc pc) {lc tid clk kind tile : Nat} {id : BitVec 16} {curtag : Word} :
    (s.sendStamp lc tid clk kind tile id curtag).AtPc pc := by
  dsimp only [State.sendStamp]
  refine .ite (.post (.awaitPage h)) ?_
  split
  · exact .post (.awaitPage h)
  · exact .mapLC (.accept (.awaitPage h))
  · exact .ite (.post (.awaitPage h)) (.mapLC (.accept (.awaitPage h)))

theorem OutcomeAt.execStamp (h : s.AtPc pc) {a : UReg} : OutcomeAt pc (execStamp a s) :=
  .next (.uniform h fun _ h1 => .ite (.trapWave h1) (.ite h1 (.ite (.await h1 (fun _ h2 => .mapLC h2))
    (.sendStamp (.draw h1)))))

/-! ### Memory -/

theorem OutcomeAt.execAtom (h : s.AtPc pc) {d : LReg} {rec : BReg} {idx : Src} {op : AtomOp} {w64 ret ar : Bool} :
    OutcomeAt pc (execAtom d rec idx op w64 ret ar s) :=
  .next (.laneWise h fun _ h1 => .ite (.trapLanes h1 (fun _ h2 => .ite (.pushAll h2) h2)) (.checked h1 fun _ _ h2 =>
    .released h2 fun _ h3 => .foldl (.ite (.pushAll (.ite (.zeroDropped h3) h3)) (.ite (.zeroDropped h3) h3))
    fun _ _ h4 => .atomLine h4))

/-! ### Tlb -/

theorem State.AtPc.spanPages (h : s.AtPc pc) {dom fuel va last : Nat} : (s.spanPages dom fuel va last).1.AtPc pc := by
  induction fuel generalizing s va with
  | zero => exact h
  | succ n ih =>
    unfold State.spanPages
    dsimp -iota only
    split
    · exact .ensureMapped h
    · refine .ite_fst (.ensureMapped h) ?_
      split <;> rename_i e <;> exact .of_pair (ih (.ensureMapped h)) e

theorem OutcomeAt.execTlblk (h : s.AtPc pc) {a : BReg} : OutcomeAt pc (execTlblk a s) := by
  dsimp only [Machine.execTlblk]
  refine .next (.uniform h fun _ h1 => .ite (.trapWave h1) (.ite h1 ?_))
  split
  · exact .ite (.ite (.trapWave h1) (.block (.missEntry (.spanPages h1)))) (.trapWave h1)
  · exact .ite (.trapWave h1) (.mapLC (.spanPages h1))

/-! ### Dispatch -/

theorem OutcomeAt.exec (h : s.AtPc pc) {i : Instr} (he : i.isEvent = false) : OutcomeAt pc (exec i s) := by
  dsimp only [Machine.exec]
  split
  · exact .next h
  · exact .next (.laneWise h fun _ h1 => .mapMe (.mapActive (.castDrop h1)))
  · exact .next (.laneWise h fun _ h1 => .ite h1 (.mapMe h1))
  · exact .execRet h
  · exact .next (.laneWise h fun _ h1 => .trapLanes h1 fun _ h2 => h2)
  · exact .next (.laneWise h fun _ h1 => .trapLanes h1 fun _ h2 => h2)
  · exact .next (.uniform h fun _ h1 => .ite (.trapWave h1) (.ite h1 (.await h1 fun _ h2 => .mapMe h2)))
  · exact .next (.uniform h fun _ h1 => .branch h1)
  · exact .next (.laneWise h fun _ h1 => .branch h1)
  · exact .next (.laneWise h fun _ h1 => .branch h1)
  · exact .next (.uniform h fun _ h1 => .branch h1)
  · exact .next (.uniform h fun _ h1 => .branch h1)
  · exact .next (.laneWise h fun _ h1 => .callAll h1)
  · exact .next (.uniform h fun _ h1 => .ite (.branch h1) (.trapWave h1))
  · exact .next (.laneWise h fun _ h1 => .callAll h1)
  · exact .next (.uniform h fun _ h1 => .ite (.branch (.setU h1)) (.branch (.setU h1)))
  · exact .next (.others h)
  · exact .next (.laneWise h fun _ h1 => .setPred h1)
  · exact .next (.laneWise h fun _ h1 => .setPred h1)
  · exact .next (.laneWise h fun _ h1 => .setPred h1)
  · exact .next (.laneWise h fun _ h1 => .setPred h1)
  · exact .next (.laneWise h fun _ h1 => .setPred h1)
  · exact .next (.laneWise h fun _ h1 => .setGroup h1)
  · exact .next (.uniform h fun _ h1 => .setU h1)
  · exact .next (.laneWise h fun _ h1 => .setPred h1)
  · exact .next (.castWord h fun _ h1 => .ite (.trapWave h1) (.mapMe (.mapCast h1)))
  · exact .next (.castWord h fun _ h1 => .ite (.trapWave h1) (.leaveCast h1))
  · exact .next (.castWord h fun _ h1 => .arrive h1 fun _ _ h2 => h2)
  · exact .execBarw h
  · exact .execWaitb h
  · exact .next (.uniform h fun _ h1 => .setU h1)
  · exact .next (.laneWise h fun _ h1 => .setLane h1)
  · exact .next (.laneWise h fun _ h1 => .setLane h1)
  · exact .next (.laneWise h fun _ h1 => .setLane h1)
  · exact .next (.laneWise h fun _ h1 => .setLane h1)
  · exact .next (.laneWise h fun _ h1 => .setLane h1)
  · exact .next (.laneWise h fun _ h1 => .setLane h1)
  · exact .next (.laneWise h fun _ h1 => .setLane h1)
  · exact .next (.laneWise h fun _ h1 => .setLane h1)
  · exact .next (.laneWise h fun _ h1 => .setLane h1)
  · exact .next (.laneWise h fun _ h1 => .setLane h1)
  · exact .next (.laneWise h fun _ h1 => .setLane h1)
  · exact .next (.laneWise h fun _ h1 => .setLane h1)
  · exact .next (.laneWise h fun _ h1 => .setLane h1)
  · exact .next (.laneWise h fun _ h1 => .setLane h1)
  · exact .next (.laneWise h fun _ h1 => .setLane h1)
  · exact .next (.laneWise h fun _ h1 => .setLane h1)
  · exact .next (.laneWise h fun _ h1 => .setLane h1)
  · exact .next (.laneWise h fun _ h1 => .setLane h1)
  · exact .next (.laneWise h fun _ h1 => .setLane h1)
  · exact .next (.laneWise h fun _ h1 => .setLane h1)
  · exact .next (.laneWise h fun _ h1 => .setLane h1)
  · exact .next (.laneWise h fun _ h1 => .setLane h1)
  · exact .next (.laneWise h fun _ h1 => .setLane h1)
  · exact .next (.laneWise h fun _ h1 => .setLane h1)
  · exact .next (.laneWise h fun _ h1 => .setPred h1)
  · exact .next (.uniform h fun _ h1 => .setPred h1)
  · exact .next (.laneWise h fun _ h1 => .setLane h1)
  · exact .next (.laneWise h fun _ h1 => .setLane h1)
  · exact .next (.laneWise h fun _ h1 => .setLane h1)
  · exact .next (.laneWise h fun _ h1 => .setLane h1)
  · exact .next (.laneWise h fun _ h1 => .setLane h1)
  · exact .next (.laneWise h fun _ h1 => .setLane h1)
  · exact .next (.laneWise h fun _ h1 => .setLane h1)
  · exact .next (.laneWise h fun _ h1 => .setLane h1)
  · exact .next (.laneWise h fun _ h1 => .setLane h1)
  · exact .next (.laneWise h fun _ h1 => .setPair h1)
  · exact .next (.laneWise h fun _ h1 => .setPair h1)
  · exact .next (.laneWise h fun _ h1 => .setPair h1)
  · exact .next (.laneWise h fun _ h1 => .setPair h1)
  · exact .next (.laneWise h fun _ h1 => .setLane h1)
  · exact .next (.laneWise h fun _ h1 => .setLane h1)
  · exact .next (.laneWise h fun _ h1 => .setLane h1)
  · exact .next (.uniform h fun _ h1 => .setU h1)
  · exact .next (.uniform h fun _ h1 => .setU h1)
  · exact .next (.uniform h fun _ h1 => .setU h1)
  · exact .next (.uniform h fun _ h1 => .setU h1)
  · exact .next (.uniform h fun _ h1 => .setU h1)
  · exact .next (.uniform h fun _ h1 => .setU h1)
  · exact .next (.uniform h fun _ h1 => .setU h1)
  · exact .next (.uniform h fun _ h1 => .setU h1)
  · exact .next (.uniform h fun _ h1 => .setU h1)
  · exact .next (.uniform h fun _ h1 => .setU h1)
  · exact .next (.uniform h fun _ h1 => .setU h1)
  · exact .execVtow h
  · exact .next (.laneWise h fun _ h1 => .setLane h1)
  · exact .next (.uniform h fun _ h1 => .setU h1)
  · exact .next (.uniform h fun _ h1 => .setU h1)
  · exact .next (.uniform h fun _ h1 => .setU h1)
  · exact .next (.uniform h fun _ h1 => .setU h1)
  · exact .next (.uniform h fun _ h1 => .setU h1)
  · exact .next (.uniform h fun _ h1 => .setU h1)
  · exact .next (.laneWise h fun _ h1 => .mapActive (.setLane h1))
  · exact .next (.laneWise h fun _ h1 => .mapActive (.setLane h1))
  · exact .next (.uniform h fun _ h1 => .mapMe (.zeroCtr h1))
  · exact .next (.laneWise h fun _ h1 => .mapActive (.setLane h1))
  · exact .next (.laneWise h fun _ h1 => .setFloat h1)
  · exact .next (.laneWise h fun _ h1 => .setFloat h1)
  · exact .next (.laneWise h fun _ h1 => .setFloat h1)
  · exact .next (.laneWise h fun _ h1 => .setFloat h1)
  · exact .next (.laneWise h fun _ h1 => .setFloat h1)
  · exact .next (.laneWise h fun _ h1 => .setFloat h1)
  · exact .next (.laneWise h fun _ h1 => .setFloat h1)
  · exact .next (.laneWise h fun _ h1 => .setFloat h1)
  · exact .next (.laneWise h fun _ h1 => .setFloat h1)
  · exact .next (.laneWise h fun _ h1 => .setFloat h1)
  · exact .next (.laneWise h fun _ h1 => .setFloat h1)
  · exact .next (.laneWise h fun _ h1 => .setFloat h1)
  · exact .next (.laneWise h fun _ h1 => .setFloat h1)
  · exact .next (.laneWise h fun _ h1 => .setFloat h1)
  · exact .next (.laneWise h fun _ h1 => .setFloat h1)
  · exact .next (.laneWise h fun _ h1 => .setFloat h1)
  · exact .next (.laneWise h fun _ h1 => .setFloat h1)
  · exact .next (.laneWise h fun _ h1 => .setFloat h1)
  · exact .next (.laneWise h fun _ h1 => .setFloat h1)
  · exact .next (.laneWise h fun _ h1 => .setFloat h1)
  · exact .next (.laneWise h fun _ h1 => .setFloat h1)
  · exact .next (.laneWise h fun _ h1 => .setFloat h1)
  · exact .next (.laneWise h fun _ h1 => .setFloat h1)
  · exact .next (.laneWise h fun _ h1 => .setFloat h1)
  · exact .next (.laneWise h fun _ h1 => .setFloat h1)
  · exact .next (.laneWise h fun _ h1 => .setLane h1)
  · exact .next (.laneWise h fun _ h1 => .setLane h1)
  · exact .next (.laneWise h fun _ h1 => .setLane h1)
  · exact .next (.laneWise h fun _ h1 => .setLane h1)
  · exact .next (.laneWise h fun _ h1 => .setFloat h1)
  · exact .next (.laneWise h fun _ h1 => .setFloat h1)
  · exact .next (.laneWise h fun _ h1 => .addFlags (.setPred h1))
  · exact .next (.laneWise h fun _ h1 => .setConv h1)
  · exact .next (.laneWise h fun _ h1 => .setFloat h1)
  · exact .next (.laneWise h fun _ h1 => .setFloat h1)
  · exact .next (.laneWise h fun _ h1 => .setConv h1)
  · exact .next (.laneWise h fun _ h1 => .ite (.trapRun h1) (.setConv h1))
  · exact .execQunpack h
  · exact .next (.laneWise h fun _ h1 => .ite (.trapRun h1) (.setConv h1))
  · exact .next (.uniform h fun _ h1 => .setU h1)
  · exact .next (.uniform h fun _ h1 => .ite (.trapWave h1) (.clearFlags h1))
  · exact .next (.uniform h fun _ h1 => .ite (.trapWave h1) (.mapMe h1))
  · exact .next (.laneWise h fun _ h1 => .shuffle h1)
  · exact .next (.laneWise h fun _ h1 => .shuffle h1)
  · exact .next (.laneWise h fun _ h1 => .shuffle h1)
  · exact .next (.laneWise h fun _ h1 => .shuffle h1)
  · exact .next (.laneWise h fun _ h1 => .shuffle h1)
  · exact .next (.laneWise h fun _ h1 => .shuffle h1)
  · exact .next (.laneWise h fun _ h1 => .scanWord h1)
  · exact .next (.laneWise h fun _ h1 => .scanWord h1)
  · exact .next (.laneWise h fun _ h1 => .scanWord h1)
  · exact .next (.laneWise h fun _ h1 => .scanWord h1)
  · exact .next (.laneWise h fun _ h1 => .scanWord h1)
  · exact .next (.laneWise h fun _ h1 => .scanWord h1)
  · exact .next (.laneWise h fun _ h1 => .scanWord h1)
  · exact .next (.laneWise h fun _ h1 => .scanWord h1)
  · exact .next (.laneWise h fun _ h1 => .setPred h1)
  · exact .next (.laneWise h fun _ h1 => .setPred h1)
  · exact .next (.laneWise h fun _ h1 => .load h1)
  · exact .next (.laneWise h fun _ h1 => .store h1)
  · exact .next (.uniform h fun _ h1 => .loadUni h1)
  · exact .next (.uniform h fun _ h1 => .storeUni h1)
  · exact .execAtom h
  · exact .next (.uniform h fun _ h1 => .fenceThen h1 fun _ h2 => h2)
  · exact .next (.uniform h fun _ h1 => .ite (.trapWave h1) (.foldl h1 fun _ _ h2 => .ite (.writeBack h2) h2))
  · exact .next (.uniform h fun _ h1 => .ite (.trapWave h1) (.foldl h1 fun _ _ h2 => .ite (.emptyEntries h2) h2))
  · exact .execStmap h
  · exact .next (.laneWise h fun _ h1 => .ite h1 (.foldl (.reserve h1) fun _ _ h2 => .prefLine h2))
  · exact .next (.laneWise h fun _ h1 => .pollWord h1)
  · exact .execBbarm h
  · exact .next (.uniform h fun _ h1 => .pollUni h1)
  · exact .next (.uniform h fun _ h1 => .ite (.trapWave h1) (.ite (.trapWave h1) (.setB h1)))
  · exact .next (.uniform h fun _ h1 => .setU2 h1)
  · exact .execBufnar h
  · exact .next (.laneWise h fun _ h1 => .loadStash h1)
  · exact .next (.laneWise h fun _ h1 => .store h1)
  · exact .execTlblk h
  · exact .next (.uniform h fun _ h1 => .ite (.trapWave h1) (.mapLC h1))
  · exact .next (.uniform h fun _ h1 => .ite (.trapWave h1) (.ite (.setU h1) (.setU (.draw h1))))
  · exact .next (.laneWise h fun _ h1 => .queueAccess h1 fun _ h2 => .foldl h2 fun _ _ h3 => .pushEntry h3)
  · exact .next (.uniform h fun _ h1 => .queueAccess h1 fun _ h2 => .pushEntry h2)
  · exact .next (.laneWise h fun _ h1 => .queueAccess h1 fun _ h2 => .setLane (.popEntries h2))
  · exact .next (.uniform h fun _ h1 => .queueAccess h1 fun _ h2 => .setU (.popEntry h2))
  · exact .execQtry h
  · exact .execQtryw h
  · exact .execQlen h
  · exact .execQbind h
  · exact .execSpawn h
  · exact .next (.uniform h fun _ h1 => .pollUni h1)
  · exact .execWithdraw h
  · exact .next (.uniform h fun _ h1 => .ite (.trapWave h1) (.mapMe h1))
  · exact .execSiglead h
  · exact .next (.command h)
  · exact .next (.command h)
  · exact .next (.command h)
  · exact .next (.command h)
  · exact .next (.command h)
  · exact .next (.command h)
  · exact .next (.command h)
  · exact .next (.command h)
  · exact .next (.command h)
  · exact .next (.command h)
  · exact .next (.command h)
  · exact .execTcvt h
  · exact .next (.uniform h fun _ h1 => .await h1 fun _ h2 => h2)
  · exact .next (.uniform h fun _ h1 => .setU h1)
  · exact .next (.laneWise h fun _ h1 => .ite (.trapRun h1) (.ite h1 (.await h1 fun _ h2 => .setGroup h2)))
  · exact .next (.laneWise h fun _ h1 => .ite (.trapRun h1) (.ite h1 (.await h1 fun _ h2 => .mapTile (.cutRows h2))))
  · exact .next (.command h)
  · exact .next (.command h)
  · exact .next (.command h)
  · exact .next (.command h)
  · exact .next (.command h)
  · exact .next (.command h)
  · exact .next (.command h)
  · exact .next (.command h)
  · exact .next (.command h)
  · exact .next (.command h)
  · exact .next (.command h)
  · exact .next (.command h)
  · exact .execRlxbeg h
  · exact .next (.laneWise h fun _ h1 => .trapLanes h1 fun _ h2 => .ite h2 (.mapActive (.mapUnitOf h2)))
  · exact .next (.laneWise h fun _ h1 => .groupOk h1 fun _ h2 => .trapLanes h2 fun _ h3 => .setStateGroup h3)
  · exact .execRlxout h
  · exact .execRlxjac h
  · exact .execRlxstep h
  · exact .next (.uniform h fun _ h1 => .setU h1)
  · exact .next (.uniform h fun _ h1 => .ite (.trapWave h1) (.mapUnitOf h1))
  · exact .execRlxpeek h
  · exact .execRlxguess h
  · exact .execCallg h
  · exact .next (.laneWise h fun _ h1 => .ite (.trapLanes h1 (fun _ h2 => h2)) (.mapActive h1))
  · exact .execGateq h
  · exact .execSrd h
  · exact .execSwr h
  · cases he
  · cases he
  · exact .next (.uniform h fun _ h1 => .setU h1)
  · exact .next (.uniform h fun _ h1 => .setU h1)
  · exact .next (.uniform h fun _ h1 => .mapMe h1)
  · exact .execStamp h
  · exact .next (.uniform h fun _ h1 => .setU h1)
  · exact .next (.uniform h fun _ h1 => .setU h1)
  · exact .next (.uniform h fun _ h1 => .ite h1 (.ringWrite h1))
  · exact .execSleep h
  · exact .execSignal h
  · cases he
  · cases he
  · cases he
  · cases he
  · cases he
  · cases he
  · cases he
  · cases he
  · cases he
  · cases he
  · cases he
  · cases he
  · cases he
  · cases he
  · cases he
  · cases he
  · cases he
  · cases he
  · cases he
  · cases he
  · cases he
  · cases he
  · cases he
  · cases he
  · cases he
  · cases he
  · cases he
  · cases he
  · cases he
  · cases he
  · cases he
  · cases he
  · cases he
  · cases he
  · cases he
  · cases he
  · cases he
  · cases he
  · cases he
  · cases he
  · cases he
  · cases he
  · cases he
  · cases he
  · cases he
  · cases he
  · cases he
  · cases he
  · cases he
  · cases he
  · cases he
  · cases he
  · cases he
  · cases he
  · cases he
  · cases he
  · cases he
  · cases he
  · cases he
  · cases he
  · cases he
  · cases he
  · cases he
  · cases he
  · cases he
  · cases he
  · cases he
  · cases he
  · cases he
  · cases he
  · cases he
  · cases he
  · cases he
  · cases he
  · cases he
  · cases he
  · cases he
  · cases he
  · cases he
  · cases he
  · cases he
  · cases he
  · cases he

end Sys2Proof.Machine
end

section
/-! OBLIGATION. A step at a group of one word (O57; R33, R35, R114, R128, R151). -/

namespace Sys2Proof.Machine

/-! ### No trap -/

theorem takenMask_nil : takenMask [] = 0 := by
  decide

theorem State.excluding_nil (s : State) : s.excluding [] = s := by
  have hall : ~~~ takenMask [] = BitVec.allOnes 32 := by
    rw [takenMask_nil]
    decide
  simp only [State.excluding, hall, BitVec.and_allOnes, List.append_nil]

theorem State.trapLanes_zero (s : State) (code : TrapCode) : s.trapLanes 0 code id = s := by
  have hnone : lanesOf 0 = [] := by decide
  unfold State.trapLanes State.trapping
  rw [hnone]
  rfl

/-- Fewer lanes find no invalid latch where all of them find none. -/
theorem State.latchBad_zero_of_le {s : State} {tid : Nat} {t : Thread} {i : Instr} {m : Mask}
    (h : s.latchBad tid t i m = 0) (k : Mask) : s.latchBad tid t i (m &&& k) = 0 := by
  refine BitVec.eq_of_getLsbD_eq fun l hl => ?_
  have hlane := congrArg (fun x : Mask => x.getLsbD l) h
  unfold State.latchBad at hlane ⊢
  simp only [getLsbD_maskOf, hl, decide_true, Bool.true_and, BitVec.getLsbD_and] at hlane ⊢
  simp_all

/-! ### A group of one word -/

/-- The one unit of a group of one word that no GUARD stands before. -/
def soleUnit (pc : Nat) (w : Word) (d : Decoded) : List (List GroupWord × Instr × Mask) :=
  [([{ pc := pc, raw := w, d := some d }], d.i, BitVec.allOnes 32)]

theorem State.units_sole (s : State) (t : Thread) (pc : Nat) (w : Word) {d : Decoded} (h : ∀ p sense, d.i ≠ .guard p sense) :
    s.units t [{ pc := pc, raw := w, d := some d }] = soleUnit pc w d := by
  obtain ⟨c, e, i⟩ := d
  unfold State.units
  dsimp only [Option.map_some]
  split
  · simp_all
  · simp_all [soleUnit, State.units]
  · simp_all

theorem ordered_soleUnit (pc : Nat) (w : Word) (d : Decoded) : ordered (soleUnit pc w d) = soleUnit pc w d :=
  List.perm_singleton.mp (sortBy_result ..).1

section
variable {c t : State} {pc : Nat} {w : Word} {d : Decoded} (hm : c.cur.mask = c.cur.run) (hg : c.cur.guard = none)
  (hp : c.cur.pc = pc) (hexec : exec d.i c = .next t)
include hm hg hp

/-- A word that stands alone runs with the lanes of the run. -/
theorem State.runWord_sole : c.runWord { pc := pc, raw := w, d := some d } = exec d.i c := by
  have hcur : ({ c.cur with mask := c.cur.run &&& c.cur.guard.getD (BitVec.allOnes 32), pc := pc, guard := none } : Issue) =
      c.cur := by
    rw [hg, Option.getD_none, BitVec.and_allOnes]
    generalize c.cur = x at hm hg hp
    obtain ⟨⟩ := x
    simp_all
  unfold State.runWord
  dsimp only
  rw [hcur]
  rfl

include hexec

theorem State.runWords_sole : c.runWords [{ pc := pc, raw := w, d := some d }] = .next t := by
  unfold State.runWords
  rw [State.runWord_sole hm hg hp, hexec]
  dsimp only
  split <;> rfl

/-- A word that stands alone makes its group's state, unless a lane traps in a callee. -/
theorem State.runGroup_sole (h : t.cur.blocked.isSome ∨ t.cur.traps = [] ∨ t.cur.old.acts = []) (n : Nat) :
    c.runGroup (soleUnit pc w d) (n + 1) [] = .next t := by
  unfold State.runGroup
  rw [State.excluding_nil, show (soleUnit pc w d).flatMap (·.1) = [{ pc := pc, raw := w, d := some d }] from rfl,
    State.runWords_sole hm hg hp hexec]
  dsimp only
  by_cases hb : t.cur.blocked.isSome
  · rw [if_pos hb]
  · rw [if_neg hb]
    by_cases ht : t.cur.traps = []
    · rw [if_pos (by rw [ht])]
      rfl
    · have ha : t.cur.old.acts = [] := by tauto
      rw [if_neg (by simpa using ht), if_neg (by simp [ha]), if_pos (by simp [soleUnit])]

/-- A word that waits alone, and traps no lane, leaves what it has prepared. -/
theorem State.suspended_sole {x : Wait} (hx : t.cur.blocked = some x) (v : Wait) :
    c.suspended v [] (soleUnit pc w d) = (t, x) := by
  unfold State.suspended soleUnit State.runBlocked
  rw [State.excluding_nil, State.runWords_sole hm hg hp hexec]
  dsimp only
  rw [hx]
  cases x <;> rfl

end

/-! ### The issue -/

section
variable {s : State} {tid : Nat} {r : Run} {w : Word} {d : Decoded}

/-- The state in which a word that ends its run, or does not, has its meaning. -/
def State.wordAt (s : State) (tid : Nat) (r : Run) (w : Word) : State :=
  let u := s.issueAt tid (s.thread tid) r.mask r.ip
  if w.getLsbD 30 then u.fallThrough tid r.mask r.ip else u

theorem State.cur_wordAt : (s.wordAt tid r w).cur = (s.issueAt tid (s.thread tid) r.mask r.ip).cur := by
  unfold State.wordAt
  dsimp only
  split <;> rfl

theorem State.thread_issueAt (t : Thread) (m : Mask) (pc k : Nat) : (s.issueAt tid t m pc).thread k = s.thread k := rfl

theorem State.issueAt_issueAt (t : Thread) (m : Mask) (pc : Nat) :
    (s.issueAt tid t m pc).issueAt tid t m pc = s.issueAt tid t m pc := rfl

theorem State.issueGroup_sole (hmay : s.mayIssue tid = true) (hjoin : s.joinHeld tid = s) (hrun : (s.thread tid).run = some r)
    (hmask : r.mask ≠ 0) (hends : s.endsHere tid r = false)
    (hgroup : r.group = [{ pc := r.ip, raw := w, d := some d }]) (hguard : ∀ p sense, d.i ≠ .guard p sense)
    (htrap : (s.issueAt tid (s.thread tid) r.mask r.ip).groupTrap tid r r.group = none)
    (hlatch : (s.issueAt tid (s.thread tid) r.mask r.ip).latchBad tid (s.thread tid) d.i r.mask = 0)
    (hwait : (s.issueAt tid (s.thread tid) r.mask r.ip).groupWait tid (s.thread tid) r.mask (soleUnit r.ip w d) = none) :
    s.issueGroup tid =
      match (s.wordAt tid r w).runGroup (soleUnit r.ip w d) 4 [] with
      | .next t =>
        match t.cur.blocked with
        | none => .next ((t.afterGroup tid (r.ip + 1) (w.getLsbD 30)).groupCounts tid (soleUnit r.ip w d))
        | some x =>
          let (b, x) := (s.wordAt tid r w).suspended x t.cur.traps (soleUnit r.ip w d)
          .next (b.suspend tid x b.cur.pc)
      | o => o := by
  have hpass : (if r.judged.isSome then none
      else (s.issueAt tid (s.thread tid) r.mask r.ip).groupTrap tid r r.group) = none := by
    split
    · rfl
    · exact htrap
  have hend : ([({ pc := r.ip, raw := w, d := some d } : GroupWord)].any fun w => ends w.raw) = w.getLsbD 30 :=
    Bool.or_false _
  unfold State.issueGroup
  rw [if_neg (by simp [hmay]), hjoin]
  dsimp only
  rw [hrun]
  dsimp only
  rw [if_neg (by simp [hends]), hpass]
  dsimp only
  rw [hgroup, State.units_sole _ _ _ _ hguard]
  generalize hbad : List.foldl _ (0 : Mask) (soleUnit r.ip w d) = bad
  obtain rfl : bad = 0 := by
    rw [← hbad]
    change 0 ||| State.latchBad _ _ _ _ (r.mask &&& BitVec.allOnes 32 &&& _) = 0
    rw [BitVec.and_assoc, State.latchBad_zero_of_le hlatch]
    rfl
  rw [State.trapLanes_zero, if_neg (by simp [show ¬ 0#32 = r.mask from fun h => hmask h.symm]), show ~~~(0 : Mask) = BitVec.allOnes 32 from rfl, BitVec.and_allOnes,
    State.thread_issueAt, State.issueAt_issueAt, hwait, ordered_soleUnit, hend]
  rfl

/-- The first choice of the agenda is the issue of a thread's group, at once. -/
theorem step_of_issue {rest : List Choice} (hup : s.bringUp = 8) (hagenda : s.agenda = .issue 0 tid :: rest) {t : State}
    (h : State.issueGroup { s with agenda := rest } tid = .next t) : step s = .next t.endStep := by
  unfold step State.advance
  have htake : (({ s with agenda := rest } : State).tick (Choice.issue 0 tid).ticks).take (.issue 0 tid) = .next t := h
  rw [if_neg (by simp [hup]), hagenda]
  dsimp only
  rw [htake]

end

/-- Settles O57: the group's checks pass and none of its lanes traps, so that its one word runs once, at the place where it
stands; no word moves that place. -/
theorem stepRunsDecodedWord : Obligations.StepRunsDecodedWord := by
  intro s tid rest r w d hup hagenda s0 o hmay hjoin hrun hmask hends _ hdecode hgroup hguard us at_ htrap hlatch hwait c t hexec
  have hissue := State.issueGroup_sole hmay hjoin hrun hmask hends hgroup hguard htrap hlatch hwait
  have hcur : c.cur = at_.cur := State.cur_wordAt (s := s0) (tid := tid) (r := r) (w := w)
  have hm : c.cur.mask = c.cur.run := by rw [hcur]; rfl
  have hg : c.cur.guard = none := by rw [hcur]; rfl
  have hp : c.cur.pc = r.ip := by rw [hcur]; rfl
  refine ⟨fun hb ht => ?_, fun x hb ht => ?_⟩
  · refine step_of_issue hup hagenda (hissue.trans ?_)
    rw [show s0.wordAt tid r w = c from rfl, State.runGroup_sole hm hg hp hexec (Or.inr ht)]
    dsimp only
    rw [hb]
    rfl
  · have hpc : t.cur.pc = r.ip := by
      have hat := OutcomeAt.exec (s := c) hp (isEvent_of_decodeWord hdecode)
      rw [hexec] at hat
      exact hat
    refine step_of_issue hup hagenda (hissue.trans ?_)
    rw [show s0.wordAt tid r w = c from rfl, State.runGroup_sole hm hg hp hexec (Or.inr (Or.inl ht))]
    dsimp only
    rw [hb, ht]
    dsimp only
    rw [State.suspended_sole hm hg hp hexec hb, hpc]

end Sys2Proof.Machine
end

section
/-! SUPPORT. Rounding, said of real numbers: what `roundAt` and `FSpec.round` answer for every real number that their
operand stands for, in the terms of Sys2Proof/Safety.lean (R71, R73). -/

namespace Sys2Proof.Machine

/-! ### Powers of two -/

theorem pow2_eq_zpow (e : Int) : pow2 e = (2 : ℚ) ^ e := by
  unfold pow2
  split
  · next h => obtain ⟨n, rfl⟩ := Int.eq_ofNat_of_zero_le h; simp
  · next h =>
    obtain ⟨n, hn⟩ := Int.eq_ofNat_of_zero_le (show 0 ≤ -e by omega)
    obtain rfl : e = -n := by omega
    simp

@[simp] theorem cast_pow2 (e : Int) : ((pow2 e : ℚ) : ℝ) = 2 ^ e := by
  rw [pow2_eq_zpow]; simp

theorem two_zpow_pos (e : Int) : (0 : ℝ) < 2 ^ e := zpow_pos two_pos e

/-- A power of two splits off its natural difference. -/
theorem two_zpow_split {e q : Int} (h : q ≤ e) : (2 : ℝ) ^ e = (2 : ℝ) ^ (e - q).toNat * 2 ^ q := by
  rw [← zpow_natCast, Int.toNat_of_nonneg (by omega), ← zpow_add₀ two_ne_zero]
  congr 1; omega

theorem two_zpow_lt {a b : Int} (h : a < b) : (2 : ℝ) ^ a < 2 ^ b := zpow_lt_zpow_right₀ one_lt_two h

theorem two_zpow_le {a b : Int} (h : a ≤ b) : (2 : ℝ) ^ a ≤ 2 ^ b := zpow_le_zpow_right₀ one_le_two h

theorem lt_of_two_zpow_lt {a b : Int} (h : (2 : ℝ) ^ a < 2 ^ b) : a < b :=
  (zpow_lt_zpow_iff_right₀ one_lt_two).mp h

/-- A positive real lies between two successive powers of two in one way. -/
theorem binade_unique {v : ℝ} {x y : Int} (hx : (2 : ℝ) ^ x ≤ v) (hx' : v < 2 ^ (x + 1)) (hy : (2 : ℝ) ^ y ≤ v)
    (hy' : v < 2 ^ (y + 1)) : x = y := by
  have h1 := lt_of_two_zpow_lt (hx.trans_lt hy')
  have h2 := lt_of_two_zpow_lt (hy.trans_lt hx')
  omega

/-! ### Integers near a real -/

/-- R71's choice of an integer near a real magnitude w of the sign `neg`. -/
def Nearest (r : Rnd) (neg : Bool) (w : ℝ) (k : ℕ) : Prop :=
  let down : Prop := (k : ℝ) ≤ w ∧ w < k + 1
  let up : Prop := w ≤ k ∧ (k : ℝ) - 1 < w
  match r with
  | .rtz => down
  | .rdn => if neg then up else down
  | .rup => if neg then down else up
  | .rne => (k : ℝ) - 1 / 2 ≤ w ∧ w ≤ k + 1 / 2 ∧ (w ≤ k - 1 / 2 ∨ (k : ℝ) + 1 / 2 ≤ w → k % 2 = 0)

/-- R71's choice of a multiple of 2^q is the choice of an integer for the number in units of 2^q. -/
theorem nearestMultiple_iff {r : Rnd} {neg : Bool} {v : ℝ} {q : Int} {k : ℕ} :
    NearestMultiple r neg (fun x => (x : ℝ) ≤ v) (fun x => (x : ℝ) < v) (pow2 q) k ↔ Nearest r neg (v / 2 ^ q) k := by
  have hq := two_zpow_pos q
  have hle (c : ℚ) : ((c * pow2 q : ℚ) : ℝ) ≤ v ↔ (c : ℝ) ≤ v / 2 ^ q := by
    rw [le_div_iff₀ hq, Rat.cast_mul, cast_pow2]
  have hlt (c : ℚ) : ((c * pow2 q : ℚ) : ℝ) < v ↔ (c : ℝ) < v / 2 ^ q := by
    rw [lt_div_iff₀ hq, Rat.cast_mul, cast_pow2]
  unfold NearestMultiple Nearest
  simp only [hle, hlt]
  cases r <;> cases neg <;> simp

theorem nearestMultiple_one_iff {r : Rnd} {neg : Bool} {v : ℝ} {k : ℕ} :
    NearestMultiple r neg (fun x => (x : ℝ) ≤ v) (fun x => (x : ℝ) < v) 1 k ↔ Nearest r neg v k := by
  have := nearestMultiple_iff (r := r) (neg := neg) (v := v) (q := 0) (k := k)
  simpa [pow2] using this

theorem nearest_natCast (r : Rnd) (neg : Bool) (k : ℕ) : Nearest r neg k k := by
  cases r <;> cases neg <;> simp [Nearest]

/-- Rounding to an integer is within one unit. -/
theorem Nearest.bounds {r : Rnd} {neg : Bool} {w : ℝ} {k : ℕ} (h : Nearest r neg w k) :
    w - 1 < k ∧ (k : ℝ) < w + 1 := by
  cases r <;> cases neg <;> simp only [Nearest, if_true, Bool.false_eq_true, if_false] at h <;> constructor <;> linarith [h.1, h.2]

/-- A number at most an integer rounds to at most that integer. -/
theorem Nearest.le_of_le {r : Rnd} {neg : Bool} {w : ℝ} {k n : ℕ} (h : Nearest r neg w k) (hw : w ≤ n) : k ≤ n := by
  have : (k : ℝ) < n + 1 := h.bounds.2.trans_le (by linarith)
  exact_mod_cast Nat.lt_succ_iff.mp (by exact_mod_cast this)

/-- A number at least an integer rounds to at least that integer. -/
theorem Nearest.ge_of_ge {r : Rnd} {neg : Bool} {w : ℝ} {k n : ℕ} (h : Nearest r neg w k) (hw : n ≤ w) : n ≤ k := by
  have : (n : ℝ) < k + 1 := by linarith [h.bounds.1]
  exact Nat.lt_succ_iff.mp (by exact_mod_cast this)

@[simp] theorem roundUnit_exact (r : Rnd) (neg : Bool) (i : ℕ) (half : Ordering) : roundUnit r neg i true half = i := rfl

/-- `roundUnit` rounds every number between two integers whose place between them it is told. -/
theorem nearest_roundUnit {r : Rnd} {neg : Bool} {w : ℝ} {i : ℕ} {exact : Bool} {half : Ordering} (h0 : (i : ℝ) ≤ w)
    (h1 : w < i + 1) (he : exact = true ↔ w = i) (hlt : exact = false → (half = .lt ↔ w < i + 1 / 2))
    (hgt : exact = false → (half = .gt ↔ (i : ℝ) + 1 / 2 < w)) : Nearest r neg w (roundUnit r neg i exact half) := by
  cases exact with
  | true =>
    obtain rfl : w = i := he.mp rfl
    exact nearest_natCast r neg i
  | false =>
    have hne : w ≠ i := fun h => by simpa using he.mpr h
    have hi : (i : ℝ) < w := lt_of_le_of_ne h0 hne.symm
    replace hlt := hlt rfl
    replace hgt := hgt rfl
    have hdown : (i : ℝ) ≤ w ∧ w < i + 1 := ⟨h0, h1⟩
    have hup : w ≤ (i + 1 : ℕ) ∧ ((i + 1 : ℕ) : ℝ) - 1 < w := by push_cast; exact ⟨h1.le, by linarith⟩
    cases r with
    | rtz => exact hdown
    | rdn => cases neg with
      | true => exact hup
      | false => exact hdown
    | rup => cases neg with
      | true => exact hdown
      | false => exact hup
    | rne =>
      simp only [roundUnit, Nearest, Bool.false_eq_true, if_false]
      cases half with
      | lt =>
        have := hlt.mp rfl
        simp only [reduceCtorEq, decide_false, Bool.false_and, Bool.or_self, Bool.false_eq_true, if_false]
        exact ⟨by linarith, by linarith, fun h => by rcases h with h | h <;> linarith⟩
      | gt =>
        have := hgt.mp rfl
        simp only [decide_true, Bool.true_or, if_true]
        push_cast
        exact ⟨by linarith, by linarith, fun h => by rcases h with h | h <;> linarith⟩
      | eq =>
        have hw : w = i + 1 / 2 := le_antisymm (not_lt.mp fun h => by simpa using hgt.mpr h) (not_lt.mp fun h => by simpa using hlt.mpr h)
        by_cases hodd : i % 2 = 1
        · simp only [hodd, decide_true, Bool.and_self, Bool.or_true, if_true]
          push_cast
          exact ⟨by linarith, by linarith, fun _ => by omega⟩
        · simp only [hodd, reduceCtorEq, decide_false, Bool.and_false, Bool.or_self, Bool.false_eq_true, if_false]
          exact ⟨by linarith, by linarith, fun _ => by omega⟩

/-- Every magnitude rounds to some integer. -/
theorem exists_nearest (r : Rnd) (neg : Bool) {w : ℝ} (h : 0 ≤ w) : ∃ k, Nearest r neg w k := by
  classical
  obtain ⟨half, hlt, hgt⟩ : ∃ o : Ordering, (o = .lt ↔ w < ⌊w⌋₊ + 1 / 2) ∧ (o = .gt ↔ (⌊w⌋₊ : ℝ) + 1 / 2 < w) := by
    rcases lt_trichotomy w (⌊w⌋₊ + 1 / 2) with h | h | h
    · exact ⟨.lt, iff_of_true rfl h, iff_of_false (by simp) h.not_gt⟩
    · exact ⟨.eq, iff_of_false (by simp) h.not_lt, iff_of_false (by simp) h.symm.not_lt⟩
    · exact ⟨.gt, iff_of_false (by simp) h.not_gt, iff_of_true rfl h⟩
  exact ⟨_, nearest_roundUnit (exact := decide (w = ⌊w⌋₊)) (Nat.floor_le h) (Nat.lt_floor_add_one w) (by simp)
    (fun _ => hlt) (fun _ => hgt)⟩

/-! ### What a magnitude with a sticky mark stands for -/

/-- The reals that (m, and a little more when sticky) × 2^e stands for. -/
def Stands (m : ℕ) (e : Int) (sticky : Bool) (v : ℝ) : Prop :=
  if sticky then (m : ℝ) * 2 ^ e < v ∧ v < (m + 1) * 2 ^ e else v = m * 2 ^ e

theorem Stands.le {m : ℕ} {e : Int} {s : Bool} {v : ℝ} (h : Stands m e s v) : (m : ℝ) * 2 ^ e ≤ v := by
  cases s
  · exact ge_of_eq h
  · exact h.1.le

theorem Stands.lt {m : ℕ} {e : Int} {s : Bool} {v : ℝ} (h : Stands m e s v) : v < (m + 1) * 2 ^ e := by
  cases s
  · rw [show v = m * 2 ^ e from h]; nlinarith [two_zpow_pos e]
  · exact h.2

theorem Stands.eq_iff {m : ℕ} {e : Int} {s : Bool} {v : ℝ} (h : Stands m e s v) : v = m * 2 ^ e ↔ s = false := by
  cases s
  · exact iff_of_true h rfl
  · exact iff_of_false h.1.ne' (by simp)

/-- The binade of a magnitude that is not 0. -/
theorem Stands.binade {m : ℕ} {e : Int} {s : Bool} {v : ℝ} (h : Stands m e s v) (hm : 0 < m) :
    (2 : ℝ) ^ ((Nat.log2 m : Int) + e) ≤ v ∧ v < 2 ^ ((Nat.log2 m : Int) + e + 1) := by
  have he := two_zpow_pos e
  have h1 : ((2 ^ Nat.log2 m : ℕ) : ℝ) ≤ m := by exact_mod_cast Nat.log2_self_le hm.ne'
  have h2 : ((m + 1 : ℕ) : ℝ) ≤ (2 ^ (Nat.log2 m + 1) : ℕ) := by exact_mod_cast Nat.lt_log2_self
  push_cast at h1 h2
  constructor
  · rw [zpow_add₀ two_ne_zero, zpow_natCast]
    exact (mul_le_mul_of_nonneg_right h1 he.le).trans h.le
  · rw [show (Nat.log2 m : Int) + e + 1 = ((Nat.log2 m + 1 : ℕ) : Int) + e by push_cast; ring, zpow_add₀ two_ne_zero, zpow_natCast]
    exact h.lt.trans_le (mul_le_mul_of_nonneg_right h2 he.le)

/-- `roundAt` rounds to a multiple of 2^q every number that its operand stands for, and says whether it is one; a sticky
operand has its last bit below 2^q. -/
theorem roundAt_spec {r : Rnd} {neg : Bool} {m : ℕ} {e : Int} {s : Bool} {q : Int} {v : ℝ} (h : Stands m e s v)
    (hs : s = true → e < q) :
    Nearest r neg (v / 2 ^ q) (roundAt r neg m e s q).1 ∧
      ((roundAt r neg m e s q).2 = true ↔ ((roundAt r neg m e s q).1 : ℝ) * 2 ^ q = v) := by
  have hq := two_zpow_pos q
  by_cases hge : q ≤ e
  · obtain rfl : s = false := by
      cases s
      · rfl
      · have := hs rfl; omega
    have hv : v = (m <<< (e - q).toNat : ℕ) * 2 ^ q := by
      rw [show v = m * 2 ^ e from h, two_zpow_split hge, Nat.shiftLeft_eq]; push_cast; ring
    have hw : v / 2 ^ q = (m <<< (e - q).toNat : ℕ) := by rw [hv, mul_div_cancel_right₀ _ hq.ne']
    simp only [roundAt, ge_iff_le, hge, if_true, Bool.not_false, roundUnit]
    exact ⟨by rw [hw]; exact nearest_natCast _ _ _, by simp [hv]⟩
  · obtain ⟨k, hk⟩ : ∃ k, (q - e).toNat = k + 1 := ⟨(q - e).toNat - 1, by omega⟩
    have hp : (2 : ℝ) ^ q = 2 * 2 ^ k * 2 ^ e := by rw [two_zpow_split (show e ≤ q by omega), hk, pow_succ]; ring
    have he := two_zpow_pos e
    have hk0 : (0 : ℝ) < 2 ^ k := by positivity
    -- the quotient and the remainder of m by 2^(k+1)
    have hm : m = m / 2 ^ (k + 1) * 2 ^ (k + 1) + m % 2 ^ (k + 1) := by rw [mul_comm]; exact (Nat.div_add_mod _ _).symm
    have hr : m % 2 ^ (k + 1) < 2 ^ (k + 1) := Nat.mod_lt _ (by positivity)
    simp only [roundAt, ge_iff_le, hge, if_false, hk, Nat.shiftRight_eq_div_pow, Nat.add_sub_cancel]
    generalize m / 2 ^ (k + 1) = i at hm ⊢
    generalize m % 2 ^ (k + 1) = j at hm hr ⊢
    have hm' : (m : ℝ) = i * (2 * 2 ^ k) + j := by rw [hm]; push_cast; ring
    have hr' : (j : ℝ) + 1 ≤ 2 * 2 ^ k := by rw [← pow_succ']; exact_mod_cast hr
    -- the number in units of 2^e
    obtain ⟨x, rfl⟩ : ∃ x, v = x * 2 ^ e := ⟨v / 2 ^ e, by field_simp⟩
    have hx0 : (m : ℝ) ≤ x := le_of_mul_le_mul_right h.le he
    have hx1 : x < m + 1 := lt_of_mul_lt_mul_right h.lt he.le
    have hxe : x = m ↔ s = false := by rw [← h.eq_iff]; simp [he.ne']
    have hw : x * 2 ^ e / 2 ^ q = x / (2 * 2 ^ k) := by rw [hp]; field_simp
    have hexact : (decide (j = 0) && !s) = true ↔ x / (2 * 2 ^ k) = i := by
      rw [div_eq_iff (by positivity)]
      simp only [Bool.and_eq_true, decide_eq_true_eq, Bool.not_eq_true']
      constructor
      · rintro ⟨rfl, rfl⟩
        rw [hxe.mpr rfl, hm']; simp
      · intro hx
        have hj : (j : ℝ) ≤ 0 := by linarith
        have hj0 : j = 0 := by exact_mod_cast le_antisymm hj (Nat.cast_nonneg j)
        exact ⟨hj0, hxe.mp (by rw [hm', hj0, hx]; simp)⟩
    have hi0 : (i : ℝ) ≤ x / (2 * 2 ^ k) := by rw [le_div_iff₀ (by positivity)]; linarith
    have hi1 : x / (2 * 2 ^ k) < i + 1 := by rw [div_lt_iff₀ (by positivity)]; linarith
    have hnear : Nearest r neg (x / (2 * 2 ^ k)) (roundUnit r neg i (decide (j = 0) && !s)
        (if j < 2 ^ k then .lt else if (decide (j > 2 ^ k) || s) = true then .gt else .eq)) := by
      refine nearest_roundUnit hi0 hi1 hexact (fun _ => ?_) (fun _ => ?_)
      · rw [div_lt_iff₀ (by positivity)]
        by_cases hj : j < 2 ^ k
        · have : (j : ℝ) + 1 ≤ 2 ^ k := by exact_mod_cast hj
          exact iff_of_true (if_pos hj) (by linarith)
        · have : (2 : ℝ) ^ k ≤ j := by exact_mod_cast not_lt.mp hj
          exact iff_of_false (by rw [if_neg hj]; split <;> simp) (by linarith)
      · rw [lt_div_iff₀ (by positivity)]
        by_cases hj : j < 2 ^ k
        · have : (j : ℝ) + 1 ≤ 2 ^ k := by exact_mod_cast hj
          exact iff_of_false (by simp [hj]) (by linarith)
        · rw [if_neg hj]
          have hle : (2 : ℝ) ^ k ≤ j := by exact_mod_cast not_lt.mp hj
          by_cases hj' : (decide (j > 2 ^ k) || s) = true
          · refine iff_of_true (if_pos hj') ?_
            rcases (Bool.or_eq_true _ _).mp hj' with h' | h'
            · have : (2 : ℝ) ^ k < j := by exact_mod_cast of_decide_eq_true h'
              linarith
            · have : (m : ℝ) < x := lt_of_le_of_ne hx0 fun e => by simp [hxe.mp e.symm] at h'
              linarith
          · refine iff_of_false (by rw [if_neg hj']; simp) ?_
            simp only [Bool.or_eq_true, decide_eq_true_eq, not_or, Bool.not_eq_true] at hj'
            have : (j : ℝ) ≤ 2 ^ k := by exact_mod_cast not_lt.mp hj'.1
            have := hxe.mpr hj'.2
            linarith
    rw [hw]
    refine ⟨hnear, hexact.trans ⟨fun hx => ?_, fun hx => ?_⟩⟩
    · rw [hexact.mpr hx, roundUnit_exact, ← hx, hp]
      field_simp
    · rw [hp, ← mul_assoc, mul_left_inj' he.ne'] at hx
      rw [← hx, mul_div_cancel_right₀ _ (by positivity)] at hi0 hi1 ⊢
      exact_mod_cast le_antisymm (Nat.lt_succ_iff.mp (by exact_mod_cast hi1)) (by exact_mod_cast hi0)

end Sys2Proof.Machine
end

section
/-! SUPPORT. Codes of the floating-point types and what `FSpec.round` answers (R66, R71 to R73). -/

namespace Sys2Proof.Machine

/-! ### Codes -/

/-- A type with an exponent of two bits or more and a fraction. -/
structure FSpec.Proper (t : FSpec) : Prop where
  fb : 1 ≤ t.fb
  eb : 2 ≤ t.eb

theorem fp32_proper : fp32.Proper := ⟨by decide, by decide⟩
theorem bf16_proper : bf16.Proper := ⟨by decide, by decide⟩
theorem fp16_proper : fp16.Proper := ⟨by decide, by decide⟩
theorem e4m3_proper : e4m3.Proper := ⟨by decide, by decide⟩
theorem e5m2_proper : e5m2.Proper := ⟨by decide, by decide⟩

/-- The significand of the largest finite value. -/
def FSpec.maxSig (t : FSpec) : ℕ := if t.inf then 2 ^ (t.fb + 1) - 1 else 2 ^ (t.fb + 1) - 2
/-- The exponent of the last place of the largest finite value. -/
def FSpec.maxExp (t : FSpec) : Int := (if t.inf then (2 ^ t.eb - 2 : Int) else (2 ^ t.eb - 1 : Int)) - t.bias - t.fb

section
variable {t : FSpec} {neg : Bool} {X F : ℕ}

/-- The code of a sign, an exponent field and a fraction. -/
def FSpec.code (t : FSpec) (neg : Bool) (X F : ℕ) : ℕ := t.sign neg + (X * 2 ^ t.fb + F)

theorem FSpec.fields_lt (hX : X < 2 ^ t.eb) (hF : F < 2 ^ t.fb) : X * 2 ^ t.fb + F < 2 ^ (t.eb + t.fb) := by
  have : (X + 1) * 2 ^ t.fb ≤ 2 ^ t.eb * 2 ^ t.fb := Nat.mul_le_mul_right _ hX
  rw [pow_add]; linarith

theorem FSpec.code_lt (hX : X < 2 ^ t.eb) (hF : F < 2 ^ t.fb) : t.code neg X F < 2 ^ t.width := by
  have h := FSpec.fields_lt hX hF
  have hw : 2 ^ t.width = 2 * 2 ^ (t.eb + t.fb) := by rw [FSpec.width, Nat.add_assoc, pow_add, pow_one]
  cases neg <;> simp only [FSpec.code, FSpec.sign, Bool.false_eq_true, if_false, if_true] <;> omega

theorem FSpec.testBit_code (hX : X < 2 ^ t.eb) (hF : F < 2 ^ t.fb) : (t.code neg X F).testBit (t.eb + t.fb) = neg := by
  have h := FSpec.fields_lt hX hF
  cases neg with
  | false => simpa [FSpec.code, FSpec.sign] using Nat.testBit_lt_two_pow h
  | true => simp [FSpec.code, FSpec.sign, Nat.testBit_two_pow_add_eq, Nat.testBit_lt_two_pow h]

theorem FSpec.code_mod (hF : F < 2 ^ t.fb) : t.code neg X F % 2 ^ t.fb = F := by
  have h : t.code neg X F = F + 2 ^ t.fb * ((if neg then 2 ^ t.eb else 0) + X) := by
    cases neg <;> simp only [FSpec.code, FSpec.sign, Bool.false_eq_true, if_false, if_true, pow_add] <;> ring
  rw [h, Nat.add_mul_mod_self_left, Nat.mod_eq_of_lt hF]

theorem FSpec.code_exp (hX : X < 2 ^ t.eb) (hF : F < 2 ^ t.fb) : (t.code neg X F >>> t.fb) % 2 ^ t.eb = X := by
  have h : t.code neg X F = F + 2 ^ t.fb * (X + 2 ^ t.eb * (if neg then 1 else 0)) := by
    cases neg <;> simp only [FSpec.code, FSpec.sign, Bool.false_eq_true, if_false, if_true, pow_add] <;> ring
  rw [Nat.shiftRight_eq_div_pow, h, Nat.add_mul_div_left _ _ (by positivity), Nat.div_eq_of_lt hF, zero_add, Nat.add_mul_mod_self_left,
    Nat.mod_eq_of_lt hX]

/-- Every code is that of its three fields. -/
theorem FSpec.exists_code {c : ℕ} (hc : c < 2 ^ t.width) :
    ∃ neg X F, X < 2 ^ t.eb ∧ F < 2 ^ t.fb ∧ c = t.code neg X F := by
  have hw : 2 ^ t.width = 2 * 2 ^ (t.eb + t.fb) := by rw [FSpec.width, Nat.add_assoc, pow_add, pow_one]
  have split (y : ℕ) (hy : y < 2 ^ (t.eb + t.fb)) : ∃ X F, X < 2 ^ t.eb ∧ F < 2 ^ t.fb ∧ y = X * 2 ^ t.fb + F :=
    ⟨y / 2 ^ t.fb, y % 2 ^ t.fb, (Nat.div_lt_iff_lt_mul (by positivity)).mpr (by rwa [← pow_add]), Nat.mod_lt _ (by positivity),
      (Nat.div_add_mod' _ _).symm⟩
  by_cases h : c < 2 ^ (t.eb + t.fb)
  · obtain ⟨X, F, hX, hF, rfl⟩ := split c h
    exact ⟨false, X, F, hX, hF, by simp [FSpec.code, FSpec.sign]⟩
  · obtain ⟨X, F, hX, hF, e⟩ := split (c - 2 ^ (t.eb + t.fb)) (by omega)
    exact ⟨true, X, F, hX, hF, by simp only [FSpec.code, FSpec.sign, if_true]; omega⟩

/-- The value of a code whose exponent field is 0. -/
theorem FSpec.dec_code_zero (ht : t.Proper) (hF : F < 2 ^ t.fb) : t.dec (t.code neg 0 F) = .fin neg F (t.emin - t.fb) := by
  have h2 : 2 ^ 2 ≤ 2 ^ t.eb := Nat.pow_le_pow_right two_pos ht.eb
  unfold FSpec.dec
  simp only [FSpec.testBit_code (show 0 < 2 ^ t.eb by positivity) hF, FSpec.code_mod hF, FSpec.code_exp (show 0 < 2 ^ t.eb by positivity) hF]
  rw [if_neg (by omega), if_pos trivial]

/-- The value of a code of a normal number. -/
theorem FSpec.dec_code_normal (hX : 0 < X) (hX' : X < 2 ^ t.eb) (hF : F < 2 ^ t.fb)
    (hfin : X = 2 ^ t.eb - 1 → t.inf = false ∧ F ≠ 2 ^ t.fb - 1) :
    t.dec (t.code neg X F) = .fin neg (2 ^ t.fb + F) ((X : Int) - t.bias - t.fb) := by
  unfold FSpec.dec
  simp only [FSpec.testBit_code hX' hF, FSpec.code_mod hF, FSpec.code_exp hX' hF]
  by_cases h : X = 2 ^ t.eb - 1
  · obtain ⟨hi, hne⟩ := hfin h
    rw [if_pos h, hi, if_neg (by simp), if_neg hne]
  · rw [if_neg h, if_neg hX.ne']

/-- The value of a code whose exponent field is all ones, in a type with infinities. -/
theorem FSpec.dec_code_top (hinf : t.inf = true) (hF : F < 2 ^ t.fb) :
    t.dec (t.code neg (2 ^ t.eb - 1) F) = if F = 0 then .inf neg else .nan (!F.testBit (t.fb - 1)) := by
  have hX : 2 ^ t.eb - 1 < 2 ^ t.eb := Nat.sub_lt (by positivity) one_pos
  unfold FSpec.dec
  simp only [FSpec.testBit_code hX hF, FSpec.code_mod hF, FSpec.code_exp hX hF, hinf, if_true]

end

section
variable {t : FSpec} (ht : t.Proper)
include ht

theorem FSpec.Proper.two_le_pow_fb : 2 ≤ 2 ^ t.fb := by
  calc 2 = 2 ^ 1 := rfl
    _ ≤ 2 ^ t.fb := Nat.pow_le_pow_right two_pos ht.fb

theorem FSpec.Proper.four_le_pow_eb : 4 ≤ 2 ^ t.eb := by
  calc 4 = 2 ^ 2 := rfl
    _ ≤ 2 ^ t.eb := Nat.pow_le_pow_right two_pos ht.eb

theorem FSpec.Proper.maxSig_lt : t.maxSig < 2 ^ (t.fb + 1) := by
  have := ht.two_le_pow_fb
  rw [FSpec.maxSig, pow_succ]; split <;> omega

theorem FSpec.Proper.le_maxSig : 2 ^ t.fb ≤ t.maxSig := by
  have := ht.two_le_pow_fb
  rw [FSpec.maxSig, pow_succ]; split <;> omega

theorem FSpec.Proper.emin_le_maxExp : t.emin - t.fb ≤ t.maxExp := by
  have h4 : (4 : Int) ≤ 2 ^ t.eb := by exact_mod_cast ht.four_le_pow_eb
  rw [FSpec.emin, FSpec.maxExp]; split <;> omega

theorem FSpec.dec_maxCode (neg : Bool) : t.dec (t.maxCode neg) = .fin neg t.maxSig t.maxExp := by
  have h2 := ht.two_le_pow_fb
  have h4 := ht.four_le_pow_eb
  cases hinf : t.inf with
  | true =>
    have hc : t.maxCode neg = t.code neg (2 ^ t.eb - 2) (2 ^ t.fb - 1) := by
      have : (2 ^ t.eb - 1) * 2 ^ t.fb = (2 ^ t.eb - 2) * 2 ^ t.fb + 2 ^ t.fb := by
        rw [← Nat.succ_mul]; congr 1; omega
      simp only [FSpec.maxCode, FSpec.code, hinf, if_true]; omega
    rw [hc, FSpec.dec_code_normal (by omega) (by omega) (by omega) (by omega)]
    simp only [FSpec.maxSig, FSpec.maxExp, hinf, if_true, Val.fin.injEq, true_and, pow_succ]
    refine ⟨by omega, ?_⟩
    rw [Nat.cast_sub (by omega)]; push_cast; rfl
  | false =>
    have hc : t.maxCode neg = t.code neg (2 ^ t.eb - 1) (2 ^ t.fb - 2) := by
      have : 2 ^ (t.eb + t.fb) = (2 ^ t.eb - 1) * 2 ^ t.fb + 2 ^ t.fb := by
        rw [← Nat.succ_mul, pow_add]; congr 1; omega
      simp only [FSpec.maxCode, FSpec.code, hinf, Bool.false_eq_true, if_false]; omega
    rw [hc, FSpec.dec_code_normal (by omega) (by omega) (by omega) (fun _ => ⟨hinf, by omega⟩)]
    simp only [FSpec.maxSig, FSpec.maxExp, hinf, Bool.false_eq_true, if_false, Val.fin.injEq, true_and, pow_succ]
    refine ⟨by omega, ?_⟩
    rw [Nat.cast_sub (by omega)]; push_cast; rfl

/-- A significand and the exponent of its last place that a type can hold as they are, no larger than its largest value. -/
structure FSpec.Holds (t : FSpec) (i : ℕ) (q : Int) : Prop where
  lt : i < 2 ^ (t.fb + 1)
  emin : t.emin - t.fb ≤ q
  sub : i < 2 ^ t.fb → q = t.emin - t.fb
  fits : q < t.maxExp ∨ q = t.maxExp ∧ i ≤ t.maxSig

omit ht in
/-- The fields of the code of a value that a type holds. -/
theorem FSpec.Holds.encode_eq (neg : Bool) {i : ℕ} {q : Int} :
    t.encode neg i q = if i < 2 ^ t.fb then t.code neg 0 i else t.code neg (q + t.fb + t.bias).toNat (i - 2 ^ t.fb) := by
  unfold FSpec.encode FSpec.code; split <;> simp

theorem FSpec.Holds.dec_encode (neg : Bool) {i : ℕ} {q : Int} (h : t.Holds i q) :
    t.dec (t.encode neg i q) = .fin neg i q ∧ t.encode neg i q < 2 ^ t.width := by
  have h2 := ht.two_le_pow_fb
  have h4 := ht.four_le_pow_eb
  rw [FSpec.Holds.encode_eq]
  split
  · next hi =>
    exact ⟨by rw [FSpec.dec_code_zero ht hi, h.sub hi], FSpec.code_lt (by positivity) hi⟩
  · next hi =>
    obtain ⟨X, hX⟩ := Int.eq_ofNat_of_zero_le (show 0 ≤ q + t.fb + t.bias by have := h.emin; rw [FSpec.emin] at this; omega)
    have hq : q = (X : Int) - t.bias - t.fb := by omega
    have hlt := h.lt
    have hmin := h.emin
    have hfits := h.fits
    rw [pow_succ] at hlt
    simp only [FSpec.emin, FSpec.maxExp, FSpec.maxSig, pow_succ] at hmin hfits
    have hpow : ((2 ^ t.eb : ℕ) : Int) = 2 ^ t.eb := by push_cast; rfl
    have hX1 : 0 < X := by omega
    have hX2 : X < 2 ^ t.eb := by zify; split at hfits <;> omega
    rw [hX, Int.toNat_natCast]
    refine ⟨?_, FSpec.code_lt hX2 (by omega)⟩
    rw [FSpec.dec_code_normal hX1 hX2 (by omega) fun htop => ?_, hq]
    · congr 1; omega
    · cases hinf : t.inf with
      | true => simp only [hinf, if_true] at hfits; omega
      | false => simp only [hinf, Bool.false_eq_true, if_false] at hfits; exact ⟨rfl, by omega⟩

end
end Sys2Proof.Machine
end

section
/-! SUPPORT. `FSpec.round` rounds every real that its operand stands for, and the code it leads to is the number rounded
(R71 to R73). -/

namespace Sys2Proof.Machine

section
variable {t : FSpec} (ht : t.Proper)
include ht

/-- Which significands with their exponents pass the type's largest value. -/
theorem FSpec.Proper.big_iff {i : ℕ} {q : Int} (hi : i < 2 ^ (t.fb + 1)) (hsub : i < 2 ^ t.fb → q = t.emin - t.fb) :
    (t.maxExp < q ∨ q = t.maxExp ∧ t.maxSig < i) ↔ (t.maxSig : ℝ) * 2 ^ t.maxExp < i * 2 ^ q := by
  have hmax : (t.maxSig : ℝ) + 1 ≤ 2 * 2 ^ t.fb := by rw [← pow_succ']; exact_mod_cast ht.maxSig_lt
  have hmax' : (2 : ℝ) ^ t.fb ≤ t.maxSig := by exact_mod_cast ht.le_maxSig
  have hi' : (i : ℝ) + 1 ≤ 2 * 2 ^ t.fb := by rw [← pow_succ']; exact_mod_cast hi
  have hE := two_zpow_pos t.maxExp
  rcases lt_trichotomy q t.maxExp with h | rfl | h
  · refine iff_of_false (by omega) (not_lt.mpr ?_)
    calc (i : ℝ) * 2 ^ q ≤ 2 * 2 ^ t.fb * 2 ^ (t.maxExp - 1) :=
          mul_le_mul (by linarith) (two_zpow_le (by omega)) (two_zpow_pos _).le (by positivity)
      _ = 2 ^ t.fb * 2 ^ t.maxExp := by rw [zpow_sub_one₀ two_ne_zero]; ring
      _ ≤ t.maxSig * 2 ^ t.maxExp := mul_le_mul_of_nonneg_right hmax' hE.le
  · rw [mul_lt_mul_iff_left₀ hE, Nat.cast_lt]; omega
  · refine iff_of_true (Or.inl h) ?_
    have hn : (2 : ℝ) ^ t.fb ≤ i := by
      have := ht.emin_le_maxExp
      exact_mod_cast not_lt.mp fun hlt => by have := hsub hlt; omega
    calc (t.maxSig : ℝ) * 2 ^ t.maxExp < 2 * 2 ^ t.fb * 2 ^ t.maxExp := mul_lt_mul_of_pos_right (by linarith) hE
      _ = 2 ^ t.fb * 2 ^ (t.maxExp + 1) := by rw [zpow_add_one₀ two_ne_zero]; ring
      _ ≤ i * 2 ^ q := mul_le_mul hn (two_zpow_le (by omega)) (two_zpow_pos _).le (by positivity)

end

/-- What a rounded value is to the real v of the binade x. -/
structure Rounded.Of (y : Rounded) (t : FSpec) (r : Rnd) (neg : Bool) (v : ℝ) (x : Int) : Prop where
  lt : y.i < 2 ^ (t.fb + 1)
  emin : t.emin - t.fb ≤ y.q
  sub : y.i < 2 ^ t.fb → y.q = t.emin - t.fb
  nearest : ∃ k : ℕ, Nearest r neg (v / 2 ^ max (x - t.fb) (t.emin - t.fb)) k ∧
    (k : ℝ) * 2 ^ max (x - t.fb) (t.emin - t.fb) = y.i * 2 ^ y.q
  big : y.big = true ↔ (t.maxSig : ℝ) * 2 ^ t.maxExp < y.i * 2 ^ y.q
  inexact : y.inexact = false ↔ (y.i : ℝ) * 2 ^ y.q = v
  tiny : ∃ j : ℕ, Nearest r neg (v / 2 ^ (x - t.fb)) j ∧ (y.tiny = true ↔ (j : ℝ) * 2 ^ (x - t.fb) < 2 ^ t.emin)

/-- A sticky operand has enough bits for a type: its last bit is below the last place of the result, also with no lower
end of the exponents where it is tiny by less than one binade. -/
def FSpec.Fine (t : FSpec) (m : ℕ) (e : Int) (s : Bool) : Prop :=
  s = true → e < (Nat.log2 m : Int) + e - t.fb ∨ e < t.emin - t.fb - 1

theorem FSpec.fine_exact (t : FSpec) (m : ℕ) (e : Int) : t.Fine m e false := fun h => by simp at h

section
variable {t : FSpec} {r : Rnd} {neg : Bool} {m : ℕ} {e : Int} {s : Bool} {v : ℝ}

/-- The fields of a rounded value that is not 0. -/
theorem FSpec.round_eq (hm : 0 < m) :
    let x : Int := (Nat.log2 m : Int) + e
    let q := max (x - t.fb) (t.emin - t.fb)
    let k := roundAt r neg m e s q
    let i := if k.1 = 2 ^ (t.fb + 1) then 2 ^ t.fb else k.1
    let p := if k.1 = 2 ^ (t.fb + 1) then q + 1 else q
    t.round r neg m e s = ⟨i, p, p > t.maxExp || (p = t.maxExp && i > t.maxSig), !k.2,
      x < t.emin && !(x = t.emin - 1 && (roundAt r neg m e s (x - t.fb)).1 = 2 ^ (t.fb + 1))⟩ := by
  unfold FSpec.round
  rw [if_neg (by simp [hm.ne'])]
  dsimp only
  split <;> rfl

/-- Whether a number is tiny after rounding: of those below the smallest normal number, the ones that do not round up to it
at the precision of normal numbers. -/
theorem exists_tiny {x : Int} (hx : (2 : ℝ) ^ x ≤ v) (hx' : v < 2 ^ (x + 1)) {j : ℕ}
    (hj : x = t.emin - 1 → Nearest r neg (v / 2 ^ (x - t.fb)) j) :
    ∃ j' : ℕ, Nearest r neg (v / 2 ^ (x - t.fb)) j' ∧
      ((x < t.emin && !(x = t.emin - 1 && j = 2 ^ (t.fb + 1))) = true ↔ (j' : ℝ) * 2 ^ (x - t.fb) < 2 ^ t.emin) := by
  have hp := two_zpow_pos (x - t.fb)
  have h0 : 0 ≤ v := (two_zpow_pos x).le.trans hx
  have hlow : ((2 ^ t.fb : ℕ) : ℝ) ≤ v / 2 ^ (x - t.fb) := by
    rw [le_div_iff₀ hp, Nat.cast_pow, Nat.cast_ofNat, ← zpow_natCast, ← zpow_add₀ two_ne_zero]
    exact (two_zpow_le (by omega)).trans hx
  have hhigh : v / 2 ^ (x - t.fb) ≤ ((2 ^ (t.fb + 1) : ℕ) : ℝ) := by
    rw [div_le_iff₀ hp, Nat.cast_pow, Nat.cast_ofNat, ← zpow_natCast, ← zpow_add₀ two_ne_zero]
    refine hx'.le.trans_eq ?_
    congr 1; push_cast; ring
  have hscale (n : ℕ) : ((2 ^ n : ℕ) : ℝ) * 2 ^ (x - t.fb) = 2 ^ (x - t.fb + n) := by
    rw [Nat.cast_pow, Nat.cast_ofNat, ← zpow_natCast, ← zpow_add₀ two_ne_zero]; congr 1; omega
  by_cases he : x = t.emin - 1
  · refine ⟨j, hj he, ?_⟩
    have hle := (hj he).le_of_le hhigh
    have : (2 : ℝ) ^ t.emin = ((2 ^ (t.fb + 1) : ℕ) : ℝ) * 2 ^ (x - t.fb) := by rw [hscale]; congr 1; push_cast; omega
    rw [this, mul_lt_mul_iff_left₀ hp, Nat.cast_lt]
    simp only [he, Bool.and_eq_true, decide_eq_true_eq, decide_true, Bool.true_and, Bool.not_eq_true', decide_eq_false_iff_not]
    omega
  · obtain ⟨j', hj'⟩ := exists_nearest r neg (w := v / 2 ^ (x - t.fb)) (by positivity)
    refine ⟨j', hj', ?_⟩
    simp only [he, decide_false, Bool.false_and, Bool.not_false, Bool.and_true, decide_eq_true_eq]
    by_cases hlt : x < t.emin
    · refine iff_of_true hlt ?_
      have : (j' : ℝ) ≤ (2 ^ (t.fb + 1) : ℕ) := by exact_mod_cast hj'.le_of_le hhigh
      calc (j' : ℝ) * 2 ^ (x - t.fb) ≤ (2 ^ (t.fb + 1) : ℕ) * 2 ^ (x - t.fb) := mul_le_mul_of_nonneg_right this hp.le
        _ = 2 ^ (x + 1) := by rw [hscale]; congr 1; push_cast; ring
        _ < 2 ^ t.emin := two_zpow_lt (by omega)
    · refine iff_of_false hlt (not_lt.mpr ?_)
      have : ((2 ^ t.fb : ℕ) : ℝ) ≤ j' := by exact_mod_cast hj'.ge_of_ge hlow
      calc (2 : ℝ) ^ t.emin ≤ 2 ^ x := two_zpow_le (by omega)
        _ = (2 ^ t.fb : ℕ) * 2 ^ (x - t.fb) := by rw [hscale]; congr 1; omega
        _ ≤ j' * 2 ^ (x - t.fb) := mul_le_mul_of_nonneg_right this hp.le

/-- `FSpec.round` rounds every real that its operand stands for. -/
theorem FSpec.round_of (ht : t.Proper) (hm : 0 < m) (h : Stands m e s v) (hs : t.Fine m e s) :
    (t.round r neg m e s).Of t r neg v ((Nat.log2 m : Int) + e) := by
  obtain ⟨hx, hx'⟩ := h.binade hm
  rw [FSpec.round_eq hm]
  unfold FSpec.Fine at hs
  generalize (Nat.log2 m : Int) + e = x at hx hx' hs ⊢
  obtain ⟨hk, hkx⟩ := roundAt_spec (r := r) (neg := neg) h (q := max (x - t.fb) (t.emin - t.fb)) fun hs' => by have := hs hs'; omega
  have hj (he : x = t.emin - 1) := (roundAt_spec (r := r) (neg := neg) h (q := x - t.fb) fun hs' => by have := hs hs'; omega).1
  have hq1 : x - t.fb ≤ max (x - t.fb) (t.emin - t.fb) := le_max_left _ _
  have hq2 : t.emin - t.fb ≤ max (x - t.fb) (t.emin - t.fb) := le_max_right _ _
  have hq3 : max (x - t.fb) (t.emin - t.fb) = x - t.fb ∨ max (x - t.fb) (t.emin - t.fb) = t.emin - t.fb := max_choice _ _
  have htiny := exists_tiny (t := t) hx hx' hj
  revert hk hkx htiny
  generalize (roundAt r neg m e s (x - t.fb)).1 = j
  generalize hq : max (x - t.fb) (t.emin - t.fb) = q at *
  generalize (roundAt r neg m e s q) = k
  obtain ⟨k, ex⟩ := k
  dsimp only
  intro hk hkx htiny
  have hp := two_zpow_pos q
  have hle : k ≤ 2 ^ (t.fb + 1) := by
    refine hk.le_of_le ?_
    rw [div_le_iff₀ hp, Nat.cast_pow, Nat.cast_ofNat, ← zpow_natCast, ← zpow_add₀ two_ne_zero]
    exact hx'.le.trans (two_zpow_le (by push_cast; omega))
  have hge : q = x - t.fb → 2 ^ t.fb ≤ k := fun e => by
    refine hk.ge_of_ge ?_
    rw [le_div_iff₀ hp, Nat.cast_pow, Nat.cast_ofNat, ← zpow_natCast, ← zpow_add₀ two_ne_zero]
    exact (two_zpow_le (by omega)).trans hx
  have hpow : 2 ^ (t.fb + 1) = 2 * 2 ^ t.fb := pow_succ' _ _
  -- the significand and exponent after a carry out of the significand
  obtain ⟨i, p, hip, hi, hp1, hp2, hval⟩ : ∃ i p, ((if k = 2 ^ (t.fb + 1) then 2 ^ t.fb else k) = i ∧ (if k = 2 ^ (t.fb + 1) then q + 1 else q) = p) ∧
      i < 2 ^ (t.fb + 1) ∧ t.emin - t.fb ≤ p ∧ (i < 2 ^ t.fb → p = t.emin - t.fb) ∧ (i : ℝ) * 2 ^ p = k * 2 ^ q := by
    by_cases hc : k = 2 ^ (t.fb + 1)
    · refine ⟨2 ^ t.fb, q + 1, by simp [hc], by rw [hpow]; have := ht.two_le_pow_fb; omega, by omega, fun h => by omega, ?_⟩
      rw [hc, zpow_add_one₀ two_ne_zero, pow_succ]; push_cast; ring
    · exact ⟨k, q, by simp [hc], by omega, hq2, fun h => hq3.resolve_left fun e => absurd (hge e) h.not_ge, rfl⟩
  rw [hip.1, hip.2]
  refine ⟨hi, hp1, hp2, ⟨k, by rwa [hq], by rw [hq, hval]⟩, ?_, ?_, htiny⟩
  · rw [← ht.big_iff hi hp2]
    simp
  · rw [hval, ← hkx]; simp

/-- The code of a rounded value that does not overflow, or what an overflow gives. -/
def FSpec.out (t : FSpec) (neg : Bool) (y : Rounded) (ofl : Option (ℕ × Flags)) : Option (ℕ × Flags) :=
  if y.big then ofl else some (t.encode neg y.i y.q, y.flags)

/-- The rounded code of every real that an operand stands for is the real rounded, in the terms of Sys2Proof/Safety.lean. -/
theorem roundedAt_round (ht : t.Proper) (hm : 0 < m) (h : Stands m e s v) (hs : t.Fine m e s) (ofl : Option (ℕ × Flags)) :
    RoundedAt t r neg (fun q => (q : ℝ) ≤ v) (fun q => (q : ℝ) < v) (t.out neg (t.round r neg m e s) ofl) ofl := by
  intro x hx hx' M E hME u
  rw [FSpec.dec_maxCode ht] at hME
  obtain ⟨-, rfl, rfl⟩ := Val.fin.inj hME
  obtain ⟨hb, hb'⟩ := h.binade hm
  replace hx : (2 : ℝ) ^ x ≤ v := by simpa using hx
  replace hx' : ¬ (2 : ℝ) ^ (x + 1) ≤ v := by simpa using hx'
  obtain rfl : (Nat.log2 m : Int) + e = x := binade_unique hb hb' hx (not_le.mp hx')
  have y := FSpec.round_of (r := r) (neg := neg) ht hm h hs
  obtain ⟨k, hk, hky⟩ := y.nearest
  have huR : ((k * u : ℚ) : ℝ) = (t.round r neg m e s).i * 2 ^ (t.round r neg m e s).q := by
    rw [Rat.cast_mul, cast_pow2, Rat.cast_natCast, hky]
  have hmaxR : ((t.maxSig * pow2 t.maxExp : ℚ) : ℝ) = t.maxSig * 2 ^ t.maxExp := by
    rw [Rat.cast_mul, cast_pow2, Rat.cast_natCast]
  refine ⟨k, nearestMultiple_iff.mpr hk, fun hlt => ?_, fun hle => ?_⟩
  · rw [FSpec.out, if_pos (y.big.mpr ?_)]
    rw [← huR, ← hmaxR]; exact_mod_cast hlt
  · have hle' : (t.round r neg m e s).i * (2 : ℝ) ^ (t.round r neg m e s).q ≤ t.maxSig * 2 ^ t.maxExp := by
      rw [← huR, ← hmaxR]; exact_mod_cast hle
    have hnb : ¬ (t.round r neg m e s).big = true := fun hb => (y.big.mp hb).not_ge hle'
    have hfit := (not_congr (ht.big_iff y.lt y.sub)).mpr hle'.not_gt
    have hold : t.Holds (t.round r neg m e s).i (t.round r neg m e s).q := ⟨y.lt, y.emin, y.sub, by omega⟩
    obtain ⟨hdec, hlt⟩ := hold.dec_encode ht neg
    obtain ⟨j, hj, htiny⟩ := y.tiny
    refine ⟨_, _, _, _, by rw [FSpec.out, if_neg hnb], hlt, hdec, ?_, j, nearestMultiple_iff.mpr hj, fun hex => ?_, fun hin => ?_⟩
    · have : (((t.round r neg m e s).i * pow2 (t.round r neg m e s).q : ℚ) : ℝ) = ((k * u : ℚ) : ℝ) := by
        rw [huR, Rat.cast_mul, cast_pow2, Rat.cast_natCast]
      exact_mod_cast this
    · have hv := y.inexact.mpr (huR.symm.trans (le_antisymm hex.1 (not_lt.mp hex.2)))
      simp [Rounded.flags, hv]
    · have hv : (t.round r neg m e s).inexact = true := by
        refine Bool.eq_true_of_not_eq_false fun hf => ?_
        have := huR.trans (y.inexact.mp hf)
        rcases hin with h | h
        · exact h this.le
        · exact h.ne this
      have ht : (t.round r neg m e s).tiny = true ↔ (j : ℚ) * pow2 ((Nat.log2 m : Int) + e - t.fb) < pow2 t.emin := by
        rw [htiny, ← Rat.cast_lt (K := ℝ), Rat.cast_mul, cast_pow2, cast_pow2, Rat.cast_natCast]
      simp only [Rounded.flags, hv, if_true, ht]

end
end Sys2Proof.Machine
end

section
/-! SUPPORT. Arithmetic results, down-conversions and integer conversions as the exact number rounded (R68, R71 to R73, R81). -/

namespace Sys2Proof.Machine

/-! ### Numbers given by a rational or a real cut -/

/-- The cut of a rational is that of the real it is. -/
theorem roundedAt_rat {t : FSpec} {r : Rnd} {neg : Bool} {v : ℚ} {out ofl : Option (ℕ × Flags)}
    (h : RoundedAt t r neg (fun q => (q : ℝ) ≤ (v : ℝ)) (fun q => (q : ℝ) < (v : ℝ)) out ofl) :
    RoundedAt t r neg (fun q => q ≤ v) (fun q => q < v) out ofl := by
  simpa only [Rat.cast_le, Rat.cast_lt] using h

theorem stands_exact {m : ℕ} {e : Int} {v : ℚ} (h : v = m * pow2 e) : Stands m e false (v : ℝ) := by
  show (v : ℝ) = m * 2 ^ e
  rw [h]; simp

section
variable {t : FSpec} {r : Rnd} {neg : Bool} {m : ℕ} {e : Int} {s : Bool}

/-- The result of arithmetic is the code of the rounded value, or R73's result of an overflow. -/
theorem FSpec.some_arith (hinf : t.inf = true) :
    some (t.arith r neg m e s) = t.out neg (t.round r neg m e s) (overflowResult t r neg) := by
  unfold FSpec.arith FSpec.out overflowResult
  cases hb : (t.round r neg m e s).big <;> cases r <;> cases neg <;> simp [hb, hinf]

/-- The result of arithmetic is the exact number rounded. -/
theorem roundedAt_arith {v : ℝ} (ht : t.Proper) (hinf : t.inf = true) (hm : 0 < m) (h : Stands m e s v) (hs : t.Fine m e s) :
    RoundedAt t r neg (fun q => (q : ℝ) ≤ v) (fun q => (q : ℝ) < v) (some (t.arith r neg m e s)) (overflowResult t r neg) := by
  rw [FSpec.some_arith hinf]
  exact roundedAt_round ht hm h hs _

theorem roundedAt_arith_rat {v : ℚ} (ht : t.Proper) (hinf : t.inf = true) (hm : 0 < m) (hv : v = m * pow2 e) :
    RoundedAt t r neg (fun q => q ≤ v) (fun q => q < v) (some (t.arith r neg m e)) (overflowResult t r neg) :=
  roundedAt_rat (roundedAt_arith ht hinf hm (stands_exact hv) (t.fine_exact m e))

theorem FSpec.sign_lt : t.sign neg < 2 ^ t.width := by
  have : 2 ^ t.width = 2 * 2 ^ (t.eb + t.fb) := by rw [FSpec.width, Nat.add_assoc, pow_add, pow_one]
  have : 0 < 2 ^ (t.eb + t.fb) := by positivity
  rw [FSpec.sign]; split <;> omega

theorem FSpec.infCode_eq : t.infCode neg = t.code neg (2 ^ t.eb - 1) 0 := by simp [FSpec.infCode, FSpec.code]

theorem FSpec.infCode_lt : t.infCode neg < 2 ^ t.width := by
  rw [FSpec.infCode_eq]
  exact FSpec.code_lt (Nat.sub_lt (by positivity) one_pos) (by positivity)

/-- What a rounded value that does not overflow is encoded as. -/
theorem Rounded.Of.holds {v : ℝ} {x : Int} {y : Rounded} (ht : t.Proper) (h : y.Of t r neg v x) (hb : y.big = false) :
    t.Holds y.i y.q := by
  have hfit := (not_congr (ht.big_iff h.lt h.sub)).mpr (not_congr h.big |>.mp (by simp [hb]))
  exact ⟨h.lt, h.emin, h.sub, by omega⟩

/-- A number below the binade of the largest value does not overflow. -/
theorem Rounded.Of.not_big {v : ℝ} {x : Int} {y : Rounded} (ht : t.Proper) (h : y.Of t r neg v x) (hx : (2 : ℝ) ^ x ≤ v)
    (hv : v ≤ 2 ^ (t.maxExp + t.fb)) : y.big = false := by
  refine Bool.eq_false_iff.mpr fun hb => ?_
  obtain ⟨k, hk, hky⟩ := h.nearest
  have hb := h.big.mp hb
  rw [← hky] at hb
  have hmin := ht.emin_le_maxExp
  have hxle : x ≤ t.maxExp + t.fb := by
    by_contra hc
    exact (hx.trans hv).not_gt (two_zpow_lt (by omega))
  have hqle : max (x - t.fb) (t.emin - t.fb) ≤ t.maxExp := by omega
  generalize max (x - (t.fb : Int)) (t.emin - t.fb) = q at hk hb hqle
  have hsplit : (2 : ℝ) ^ (t.maxExp + t.fb) = (2 ^ (t.maxExp - q + t.fb).toNat : ℕ) * 2 ^ q := by
    rw [two_zpow_split (show q ≤ t.maxExp + t.fb by omega)]
    push_cast; congr 3; omega
  have hkn : k ≤ 2 ^ (t.maxExp - q + t.fb).toNat := by
    refine hk.le_of_le ?_
    rw [div_le_iff₀ (two_zpow_pos q), ← hsplit]; exact hv
  have h1 : (k : ℝ) * 2 ^ q ≤ 2 ^ (t.maxExp + t.fb) := by
    rw [hsplit]; exact mul_le_mul_of_nonneg_right (by exact_mod_cast hkn) (two_zpow_pos q).le
  have h2 : (2 : ℝ) ^ (t.maxExp + t.fb) ≤ t.maxSig * 2 ^ t.maxExp := by
    rw [add_comm, zpow_add₀ two_ne_zero, zpow_natCast]
    exact mul_le_mul_of_nonneg_right (by exact_mod_cast ht.le_maxSig) (two_zpow_pos _).le
  linarith

/-- A result of arithmetic is a code of the type. -/
theorem FSpec.arith_lt (ht : t.Proper) (hinf : t.inf = true) (hs : t.Fine m e s) (hm : 0 < m) : (t.arith r neg m e s).1 < 2 ^ t.width := by
  have hmax : t.maxCode neg < 2 ^ t.width := by
    have := FSpec.infCode_lt (t := t) (neg := neg)
    rw [FSpec.infCode] at this
    rw [FSpec.maxCode, hinf, if_pos rfl]; omega
  obtain ⟨v, hv⟩ : ∃ v, Stands m e s v := by
    have := two_zpow_pos e
    cases s
    · exact ⟨_, rfl⟩
    · exact ⟨(m + 1 / 2) * 2 ^ e, by rw [Stands, if_pos rfl]; constructor <;> nlinarith⟩
  have y := FSpec.round_of (r := r) (neg := neg) ht hm hv hs
  have hofl (b : Bool) : (if b then t.infCode neg else t.maxCode neg) < 2 ^ t.width := by
    cases b
    · exact hmax
    · exact FSpec.infCode_lt
  unfold FSpec.arith
  cases hb : (t.round r neg m e s).big with
  | true => simpa only [hb, if_true] using hofl _
  | false => simpa [hb] using ((y.holds ht hb).dec_encode ht neg).2

end

/-! ### Exact sums and products -/

/-- The number that a sign, a magnitude and a power of two make. -/
def finRat (n : Bool) (m : ℕ) (e : Int) : ℚ := (if n then -1 else 1) * m * pow2 e

theorem pow2_pos (e : Int) : 0 < pow2 e := by rw [pow2_eq_zpow]; positivity

theorem pow2_add (a b : Int) : pow2 (a + b) = pow2 a * pow2 b := by
  simp only [pow2_eq_zpow, zpow_add₀ (two_ne_zero' ℚ)]

theorem pow2_split {e q : Int} (h : q ≤ e) : pow2 e = (2 : ℚ) ^ (e - q).toNat * pow2 q := by
  rw [pow2_eq_zpow, pow2_eq_zpow, ← zpow_natCast, Int.toNat_of_nonneg (by omega), ← zpow_add₀ two_ne_zero]
  congr 1; omega

theorem finRat_eq_zero {n : Bool} {m : ℕ} {e : Int} : finRat n m e = 0 ↔ m = 0 := by
  have := (pow2_pos e).ne'
  cases n <;> simp [finRat, this]

theorem finRat_mul (n1 n2 : Bool) (m1 m2 : ℕ) (e1 e2 : Int) :
    finRat (n1 != n2) (m1 * m2) (e1 + e2) = finRat n1 m1 e1 * finRat n2 m2 e2 := by
  cases n1 <;> cases n2 <;> simp [finRat, pow2_add] <;> ring

/-- `addFin` is the exact sum. -/
theorem addFin_eq (n1 : Bool) (m1 : ℕ) (e1 : Int) (n2 : Bool) (m2 : ℕ) (e2 : Int) :
    ((addFin n1 m1 e1 n2 m2 e2).1 : ℚ) * pow2 (addFin n1 m1 e1 n2 m2 e2).2 = finRat n1 m1 e1 + finRat n2 m2 e2 := by
  have h1 := pow2_split (show min e1 e2 ≤ e1 from min_le_left _ _)
  have h2 := pow2_split (show min e1 e2 ≤ e2 from min_le_right _ _)
  rw [finRat, finRat, h1, h2]
  cases n1 <;> cases n2 <;> simp [addFin, Nat.shiftLeft_eq] <;> ring

section
variable {t : FSpec} (ht : t.Proper) (hinf : t.inf = true) (r : Rnd)
include ht hinf

/-- A signed multiple of a power of two, rounded. -/
theorem roundedAt_signed {s : Int} {e : Int} {v : ℚ} (hs : s ≠ 0) (hv : (s : ℚ) * pow2 e = v) :
    RoundedAt t r (decide (v < 0)) (fun q => q ≤ if v < 0 then -v else v) (fun q => q < if v < 0 then -v else v)
      (some (t.arith r (decide (s < 0)) s.natAbs e)) (overflowResult t r (decide (v < 0))) := by
  have hp := pow2_pos e
  have hneg : v < 0 ↔ s < 0 := by
    rw [← hv, mul_neg_iff]
    constructor
    · rintro (⟨-, h⟩ | ⟨h, -⟩)
      · linarith
      · exact_mod_cast h
    · exact fun h => Or.inr ⟨by exact_mod_cast h, hp⟩
  have habs : (if v < 0 then -v else v) = s.natAbs * pow2 e := by
    rw [Nat.cast_natAbs, Int.cast_abs]
    simp only [hneg]
    split
    · next h => rw [abs_of_neg (by exact_mod_cast h), ← hv]; ring
    · next h => rw [abs_of_nonneg (by exact_mod_cast not_lt.mp h), ← hv]
  rw [show decide (v < 0) = decide (s < 0) by simp [hneg]]
  exact roundedAt_arith_rat ht hinf (by omega) habs

variable (n1 n2 n3 : Bool) (m1 m2 m3 : ℕ) (e1 e2 e3 : Int)

/-- A sum that is not 0. -/
theorem roundedAt_add {v : ℚ} (hv : v = finRat n1 m1 e1 + finRat n2 m2 e2) (h : v ≠ 0) :
    RoundedAt t r (decide (v < 0)) (fun q => q ≤ if v < 0 then -v else v) (fun q => q < if v < 0 then -v else v)
      (some (t.add r (.fin n1 m1 e1) (.fin n2 m2 e2))) (overflowResult t r (decide (v < 0))) := by
  have hs := (addFin_eq n1 m1 e1 n2 m2 e2).trans hv.symm
  have hne : (addFin n1 m1 e1 n2 m2 e2).1 ≠ 0 := fun h0 => h (by rw [← hs, h0]; simp)
  have hadd : t.add r (.fin n1 m1 e1) (.fin n2 m2 e2) =
      t.arith r (decide ((addFin n1 m1 e1 n2 m2 e2).1 < 0)) (addFin n1 m1 e1 n2 m2 e2).1.natAbs (addFin n1 m1 e1 n2 m2 e2).2 := if_neg hne
  rw [hadd]
  exact roundedAt_signed ht hinf r hne hs

omit ht hinf in
/-- R68: a sum that is 0. -/
theorem FSpec.add_zero (h : finRat n1 m1 e1 + finRat n2 m2 e2 = 0) :
    t.add r (.fin n1 m1 e1) (.fin n2 m2 e2) = (t.sign (zeroSign r n1 n2), 0) := by
  have hs := (addFin_eq n1 m1 e1 n2 m2 e2).trans h
  have h0 : (addFin n1 m1 e1 n2 m2 e2).1 = 0 := by simpa [(pow2_pos _).ne'] using hs
  exact if_pos h0

/-- A product that is not 0. -/
theorem roundedAt_mul {v : ℚ} (hv : v = finRat n1 m1 e1 * finRat n2 m2 e2) (h : v ≠ 0) :
    RoundedAt t r (n1 != n2) (fun q => q ≤ if v < 0 then -v else v) (fun q => q < if v < 0 then -v else v)
      (some (t.mul r (.fin n1 m1 e1) (.fin n2 m2 e2))) (overflowResult t r (n1 != n2)) := by
  rw [← finRat_mul] at hv
  have hne : m1 * m2 ≠ 0 := fun h0 => h (hv.trans (finRat_eq_zero.mpr h0))
  have hmul : t.mul r (.fin n1 m1 e1) (.fin n2 m2 e2) = t.arith r (n1 != n2) (m1 * m2) (e1 + e2) := if_neg hne
  have hp : (0 : ℚ) < (m1 * m2 : ℕ) * pow2 (e1 + e2) := mul_pos (by exact_mod_cast Nat.pos_of_ne_zero hne) (pow2_pos _)
  rw [hmul]
  refine roundedAt_arith_rat ht hinf (Nat.pos_of_ne_zero hne) ?_
  rw [hv, finRat]
  cases n1 != n2
  · simp only [Bool.false_eq_true, if_false, one_mul]; exact if_neg hp.le.not_gt
  · simp only [if_true, neg_mul, one_mul, neg_neg]; exact if_pos (by linarith)

omit ht hinf in
theorem FSpec.mul_zero (h : finRat n1 m1 e1 * finRat n2 m2 e2 = 0) :
    t.mul r (.fin n1 m1 e1) (.fin n2 m2 e2) = (t.sign (n1 != n2), 0) := by
  rw [← finRat_mul, finRat_eq_zero] at h
  exact if_pos h

omit ht hinf in
/-- R81: a fused sum is the sum with the exact product. -/
theorem FSpec.fma_fin : t.fma r (.fin n1 m1 e1) (.fin n2 m2 e2) (.fin n3 m3 e3) =
    t.add r (.fin (n1 != n2) (m1 * m2) (e1 + e2)) (.fin n3 m3 e3) := rfl

end

/-! ### FP32 words -/

/-- An FP32 result whose code is one of the type's is that code. -/
theorem asCode_wf32 {x : ℕ × Flags} (h : x.1 < 2 ^ 32) : asCode (wf32 x) = x := by
  exact Prod.ext (Nat.mod_eq_of_lt h) rfl

/-- A magnitude rounded to FP32 is each real that it stands for, rounded. -/
theorem roundedAt_toF32 {y : Mag} {neg : Bool} {v : ℝ} (hm : 0 < y.m) (h : Stands y.m y.e y.sticky v) (hs : fp32.Fine y.m y.e y.sticky) :
    RoundedAt fp32 .rne neg (fun q => (q : ℝ) ≤ v) (fun q => (q : ℝ) < v) (some (asCode (y.toF32 neg))) (overflowResult fp32 .rne neg) := by
  rw [Mag.toF32, asCode_wf32 (FSpec.arith_lt fp32_proper rfl hs hm)]
  exact roundedAt_arith fp32_proper rfl hm h hs

/-- The same of a number that cannot overflow, whatever an overflow would give. -/
theorem roundedAt_toF32_small {y : Mag} {neg : Bool} {v : ℝ} (hm : 0 < y.m) (h : Stands y.m y.e y.sticky v) (hs : fp32.Fine y.m y.e y.sticky)
    (hv : v ≤ 2 ^ (127 : Int)) (ofl : Option (ℕ × Flags)) :
    RoundedAt fp32 .rne neg (fun q => (q : ℝ) ≤ v) (fun q => (q : ℝ) < v) (some (asCode (y.toF32 neg))) ofl := by
  have hb := (FSpec.round_of (r := .rne) (neg := neg) fp32_proper hm h hs).not_big fp32_proper (h.binade hm).1 hv
  have hout (o : Option (ℕ × Flags)) : fp32.out neg (fp32.round .rne neg y.m y.e y.sticky) o =
      some (fp32.encode neg (fp32.round .rne neg y.m y.e y.sticky).i (fp32.round .rne neg y.m y.e y.sticky).q,
        (fp32.round .rne neg y.m y.e y.sticky).flags) := by simp [FSpec.out, hb]
  rw [Mag.toF32, asCode_wf32 (FSpec.arith_lt fp32_proper rfl hs hm), FSpec.some_arith rfl, hout, ← hout ofl]
  exact roundedAt_round fp32_proper hm h hs ofl

/-- A magnitude of 64 significant bits is fine for FP32. -/
theorem fp32_fine {m : ℕ} {e : Int} {s : Bool} (h : 2 ^ 24 ≤ m) : fp32.Fine m e s := fun _ => by
  have : 24 ≤ Nat.log2 m := (Nat.le_log2 (by omega)).mpr h
  left
  show e < (Nat.log2 m : Int) + e - (23 : ℕ)
  omega

/-- What an FP32 pattern of a finite value holds. -/
theorem dec32_fin {a : Word} {n : Bool} {m : ℕ} {e : Int} (h : dec32 a = .fin n m e) :
    m < 2 ^ 24 ∧ -149 ≤ e ∧ e ≤ 104 ∧ (m < 2 ^ 23 → e = -149) := by
  obtain ⟨neg, X, F, hX, hF, hc⟩ := FSpec.exists_code (t := fp32) (show a.toNat < 2 ^ fp32.width from a.isLt)
  rw [dec32, hc] at h
  replace hX : X < 256 := hX
  replace hF : F < 2 ^ 23 := hF
  rcases Nat.eq_zero_or_pos X with rfl | h0
  · rw [FSpec.dec_code_zero fp32_proper hF] at h
    obtain ⟨-, rfl, rfl⟩ := Val.fin.inj h
    exact ⟨by omega, by decide, by decide, fun _ => rfl⟩
  by_cases htop : X = 255
  · rw [htop, show (255 : ℕ) = 2 ^ fp32.eb - 1 from rfl, FSpec.dec_code_top rfl hF] at h
    split at h <;> simp at h
  · rw [FSpec.dec_code_normal (t := fp32) h0 hX hF fun h => absurd h htop] at h
    obtain ⟨-, rfl, rfl⟩ := Val.fin.inj h
    simp only [fp32]
    omega

end Sys2Proof.Machine
end

section
/-! OBLIGATION. Rounding and exact results (O11). -/

namespace Sys2Proof.Machine

/-! ### Quotients and roots (R80, R192) -/

theorem stands_divMag {m1 m2 : ℕ} {e1 e2 : Int} (h2 : 0 < m2) :
    Stands (divMag m1 e1 m2 e2).m (divMag m1 e1 m2 e2).e (divMag m1 e1 m2 e2).sticky ((m1 : ℝ) / m2 * 2 ^ (e1 - e2)) := by
  simp only [divMag, Nat.shiftLeft_eq]
  generalize 64 + Nat.log2 m2 + 1 = k
  have h2' : (0 : ℝ) < m2 := by exact_mod_cast h2
  have hp := two_zpow_pos (e1 - e2 - k)
  have hv : (m1 : ℝ) / m2 * 2 ^ (e1 - e2) = (m1 * 2 ^ k : ℕ) / m2 * 2 ^ (e1 - e2 - k) := by
    rw [show e1 - e2 = (e1 - e2 - k) + (k : ℕ) by omega, zpow_add₀ two_ne_zero, zpow_natCast]
    push_cast
    rw [show e1 - e2 - (k : Int) + k - k = e1 - e2 - k by omega]
    ring
  rw [hv]
  generalize m1 * 2 ^ k = n
  have hn : (n : ℝ) = m2 * (n / m2 : ℕ) + (n % m2 : ℕ) := by exact_mod_cast (Nat.div_add_mod n m2).symm
  have hr : ((n % m2 : ℕ) : ℝ) < m2 := by exact_mod_cast Nat.mod_lt n h2
  by_cases hz : n % m2 = 0
  · rw [show decide (n % m2 ≠ 0) = false by simp [hz]]
    show _ = _
    rw [hn, hz]; field_simp; simp
  · have hz' : (0 : ℝ) < (n % m2 : ℕ) := by exact_mod_cast Nat.pos_of_ne_zero hz
    rw [show decide (n % m2 ≠ 0) = true by simp [hz]]
    refine ⟨mul_lt_mul_of_pos_right ?_ hp, mul_lt_mul_of_pos_right ?_ hp⟩
    · rw [lt_div_iff₀ h2']; linarith
    · rw [div_lt_iff₀ h2']; linarith

theorem le_divMag {m1 m2 : ℕ} {e1 e2 : Int} (h1 : 0 < m1) (h2 : 0 < m2) : 2 ^ 64 ≤ (divMag m1 e1 m2 e2).m := by
  simp only [divMag, Nat.shiftLeft_eq]
  rw [Nat.le_div_iff_mul_le h2, Nat.add_assoc, pow_add]
  calc 2 ^ 64 * m2 ≤ 2 ^ 64 * 2 ^ (Nat.log2 m2 + 1) := Nat.mul_le_mul_left _ Nat.lt_log2_self.le
    _ ≤ m1 * (2 ^ 64 * 2 ^ (Nat.log2 m2 + 1)) := Nat.le_mul_of_pos_left _ h1

/-- A power of two halved: the significand that goes with an even exponent. -/
theorem even_exponent (m : ℕ) (e : Int) : (m : ℝ) * 2 ^ e =
    (if e % 2 ≠ 0 then m * 2 else m : ℕ) *
      (2 ^ ((if e % 2 ≠ 0 then e - 1 else e) / 2) * 2 ^ ((if e % 2 ≠ 0 then e - 1 else e) / 2)) := by
  rw [← zpow_add₀ two_ne_zero]
  by_cases h : e % 2 = 0
  · simp only [h, ne_eq, not_true_eq_false, if_false]
    congr 2; omega
  · simp only [h, ne_eq, not_false_eq_true, if_true]
    rw [← show (e - 1) / 2 + (e - 1) / 2 + 1 = e by omega, zpow_add_one₀ two_ne_zero, add_sub_cancel_right,
      show ((e - 1) / 2 + (e - 1) / 2) / 2 = (e - 1) / 2 by omega]
    push_cast; ring

/-- A natural number between the squares of two successive ones. -/
theorem stands_sqrt {r : ℕ} {x : ℝ} {e : Int} {s : Bool} (h0 : (r : ℝ) * r ≤ x) (h1 : x < (r + 1) * (r + 1))
    (hs : s = false ↔ (r : ℝ) * r = x) : Stands r e s (√x * 2 ^ e) := by
  have hp := two_zpow_pos e
  cases s with
  | false =>
    show _ = _
    rw [← hs.mp rfl, Real.sqrt_mul_self (Nat.cast_nonneg r)]
  | true =>
    have hne : (r : ℝ) * r < x := lt_of_le_of_ne h0 fun h => by simpa using hs.mpr h
    exact ⟨mul_lt_mul_of_pos_right (Real.lt_sqrt_of_sq_lt (by rwa [sq])) hp,
      mul_lt_mul_of_pos_right ((Real.sqrt_lt' (by positivity)).mpr (by rwa [sq])) hp⟩

/-- A root as the model forms it. -/
theorem stands_sqrtMag (m : ℕ) (e : Int) :
    ∃ y, sqrtMag m e = y ∧ Stands y.m y.e y.sticky (√((m : ℝ) * 2 ^ e)) ∧ (0 < m → 2 ^ 64 ≤ y.m) := by
  generalize hy : sqrtMag m e = y
  simp only [sqrtMag] at hy
  have hpos : 0 < m → 0 < if e % 2 ≠ 0 then m * 2 else m := fun h => by split <;> omega
  rw [even_exponent m e]
  revert hy hpos
  generalize (if e % 2 ≠ 0 then m * 2 else m) = m'
  generalize (if e % 2 ≠ 0 then e - 1 else e) / 2 = k
  intro hy hpos
  have h2k := two_zpow_pos k
  have hle : 0 < m' → 2 ^ 128 ≤ m' <<< 128 := fun h => by rw [Nat.shiftLeft_eq]; exact Nat.le_mul_of_pos_left _ h
  have hroot : √((m' : ℝ) * (2 ^ k * 2 ^ k)) = √((m' <<< 128 : ℕ) : ℝ) * 2 ^ (k - 64) := by
    rw [Real.sqrt_mul (Nat.cast_nonneg m'), Real.sqrt_mul_self h2k.le, Nat.shiftLeft_eq, Nat.cast_mul, Real.sqrt_mul (Nat.cast_nonneg m'),
      show ((2 ^ 128 : ℕ) : ℝ) = 2 ^ 64 * 2 ^ 64 by norm_num, Real.sqrt_mul_self (by positivity), zpow_sub₀ two_ne_zero]
    norm_num; ring
  rw [hroot]
  generalize m' <<< 128 = n at hy hle
  subst hy
  exact ⟨_, rfl, stands_sqrt (by exact_mod_cast Nat.sqrt_le n) (by exact_mod_cast Nat.lt_succ_sqrt n) (by simp; norm_cast),
    fun h => Nat.le_sqrt.mpr ((hle (hpos h)).trans' (by norm_num))⟩

/-- The root of a reciprocal, from the root of a quotient of natural numbers. -/
theorem stands_sqrt_quotient {m K r : ℕ} (h : 0 < m) (e : Int) (hr : Nat.sqrt (K * K / m) = r) :
    Stands r e (decide (r * r * m ≠ K * K)) (K * √(1 / (m : ℝ)) * 2 ^ e) := by
  have hm : (0 : ℝ) < m := by exact_mod_cast h
  have hx : (K : ℝ) * √(1 / (m : ℝ)) = √((K * K : ℕ) / (m : ℝ)) := by
    rw [div_eq_mul_one_div ((K * K : ℕ) : ℝ), Real.sqrt_mul (Nat.cast_nonneg _), Nat.cast_mul, Real.sqrt_mul_self (Nat.cast_nonneg _)]
  have h0 : r * r * m ≤ K * K := by rw [← Nat.le_div_iff_mul_le h, ← hr]; exact Nat.sqrt_le _
  have h1 : K * K < (r + 1) * (r + 1) * m := by rw [← Nat.div_lt_iff_lt_mul h, ← hr]; exact Nat.lt_succ_sqrt _
  rw [hx]
  refine stands_sqrt ?_ ?_ ?_
  · rw [le_div_iff₀ hm]; exact_mod_cast h0
  · rw [div_lt_iff₀ hm]; exact_mod_cast h1
  · rw [eq_div_iff hm.ne']; simp; norm_cast

theorem sqrt_two_zpow_mul_self (k : Int) : √((2 : ℝ) ^ k * 2 ^ k) = 2 ^ k := Real.sqrt_mul_self (two_zpow_pos k).le

/-- The reciprocal of a root as the model forms it. -/
theorem frsq32_fin {a : Word} {m : ℕ} {e : Int} (h : dec32 a = .fin false m e) (hm : 0 < m) :
    ∃ y : Mag, frsq32 a = y.toF32 false ∧ Stands y.m y.e y.sticky (1 / √((m : ℝ) * 2 ^ e)) ∧ 2 ^ 24 ≤ y.m := by
  have hlt := (dec32_fin h).1
  have hpos : 0 < if e % 2 ≠ 0 then m * 2 else m := by split <;> omega
  have hlt' : (if e % 2 ≠ 0 then m * 2 else m) < 2 ^ 25 := by split <;> omega
  have hK : 1 <<< 192 = 2 ^ 96 * 2 ^ 96 := by decide
  unfold frsq32
  rw [h, even_exponent m e]
  simp only [hm.ne', if_false, Bool.false_eq_true]
  revert hpos hlt'
  generalize (if e % 2 ≠ 0 then m * 2 else m) = m'
  generalize (if e % 2 ≠ 0 then e - 1 else e) / 2 = k
  intro hpos hlt'
  have hge : 2 ^ 24 ≤ Nat.sqrt (1 <<< 192 / m') := by
    rw [Nat.le_sqrt, Nat.le_div_iff_mul_le hpos]
    calc 2 ^ 24 * 2 ^ 24 * m' ≤ 2 ^ 24 * 2 ^ 24 * 2 ^ 25 := Nat.mul_le_mul_left _ hlt'.le
      _ ≤ 1 <<< 192 := by decide
  have hv : 1 / √((m' : ℝ) * (2 ^ k * 2 ^ k)) = (2 ^ 96 : ℕ) * √(1 / (m' : ℝ)) * 2 ^ (-k - 96) := by
    rw [Real.sqrt_mul (Nat.cast_nonneg m'), sqrt_two_zpow_mul_self, Real.sqrt_div one_pos.le, Real.sqrt_one, zpow_sub₀ two_ne_zero, zpow_neg]
    push_cast; field_simp; norm_num
  rw [hv]
  refine ⟨_, rfl, ?_, hge⟩
  rw [hK]
  exact stands_sqrt_quotient hpos _ rfl

/-! ### NaNs (R67) -/

theorem Val.eq_nan {v : Val} (h : v.isNan = true) : ∃ s, v = .nan s := by
  cases v with
  | nan s => exact ⟨s, rfl⟩
  | inf n => cases h
  | fin n m e => cases h

/-- Arithmetic with a NaN gives the canonical NaN. -/
theorem FSpec.arith_nan (t : FSpec) (r : Rnd) (v y z : Val) (h : v.isNan = true) :
    (t.add r v y).1 = t.nan ∧ (t.add r y v).1 = t.nan ∧ (t.mul r v y).1 = t.nan ∧ (t.mul r y v).1 = t.nan ∧
    (t.fma r v y z).1 = t.nan ∧ (t.fma r y v z).1 = t.nan ∧ (t.fma r y z v).1 = t.nan := by
  obtain ⟨s, rfl⟩ := Val.eq_nan h
  have hfma (a b c : Val) (hn : (a.isNan || b.isNan || c.isNan) = true) : (t.fma r a b c).1 = t.nan := by
    simp only [FSpec.fma, hn, if_true]
    exact (apply_ite Prod.fst _ _ _).trans (ite_self _)
  refine ⟨rfl, ?_, rfl, ?_, hfma _ _ _ (by simp [Val.isNan]), hfma _ _ _ (by simp [Val.isNan]), hfma _ _ _ (by simp [Val.isNan])⟩
  · cases y <;> rfl
  · cases y <;> rfl

/-- R66: a NaN of FP32 is quiet when bit 22 is set. -/
theorem dec32_nan {a : Word} (h : (dec32 a).isNan = true) : dec32 a = .nan (!a.getLsbD 22) := by
  obtain ⟨neg, X, F, hX, hF, hc⟩ := FSpec.exists_code (t := fp32) (show a.toNat < 2 ^ fp32.width from a.isLt)
  have hbit : a.getLsbD 22 = F.testBit 22 := by
    have := Nat.testBit_mod_two_pow a.toNat fp32.fb 22
    rw [hc, FSpec.code_mod hF, decide_eq_true (show 22 < fp32.fb by decide), Bool.true_and] at this
    rw [BitVec.getLsbD, hc, this]
  rw [hbit]
  rw [dec32, hc] at h ⊢
  rcases Nat.eq_zero_or_pos X with rfl | h0
  · rw [FSpec.dec_code_zero fp32_proper hF] at h; cases h
  by_cases htop : X = 2 ^ fp32.eb - 1
  · rw [htop, FSpec.dec_code_top rfl hF] at h ⊢
    split at h
    · cases h
    · next hne => rw [if_neg hne]; rfl
  · rw [FSpec.dec_code_normal h0 hX hF fun h => absurd h htop] at h; cases h

/-- The functions of one FP32 operand give the canonical NaN of a NaN, with NV if it was signalling. -/
theorem real_nan {a : Word} (h : (dec32 a).isNan = true) :
    let one (x : Word × Flags) : Prop := x = (0x7FC00000, if a.getLsbD 22 then 0 else fNV)
    one (frcp32 a) ∧ one (fsqrt32 a) ∧ one (frsq32 a) ∧ one (fexp232 a) ∧ one (flog232 a) ∧ one (ftanh32 a) ∧ one (fsin2pi32 a) := by
  have hd := dec32_nan h
  have hone : dec32 0x3F800000 = .fin false (2 ^ 23) (-23) := by decide
  unfold frcp32 fdiv32 fsqrt32 frsq32 fexp232 fexp2Closed flog232 flog2Closed ftanh32 ftanhClosed fsin2pi32 fsin2piClosed
  simp only [hd, hone]
  cases a.getLsbD 22 <;> exact ⟨rfl, rfl, rfl, rfl, rfl, rfl, rfl⟩

theorem fdiv32_nan {a : Word} (b : Word) (h : (dec32 a).isNan = true) : (fdiv32 a b).1 = nan32 ∧ (fdiv32 b a).1 = nan32 := by
  have hd := dec32_nan h
  unfold fdiv32
  rw [hd]
  exact ⟨rfl, by cases dec32 b <;> rfl⟩

/-! ### Zeros and infinities (R68, R73) -/

/-- An FP32 zero is one of two patterns. -/
theorem eq_zero32 {a : Word} (h : (dec32 a).isZero = true) : a = zero32 (a.getLsbD 31) := by
  obtain ⟨neg, X, F, hX, hF, hc⟩ := FSpec.exists_code (t := fp32) (show a.toNat < 2 ^ fp32.width from a.isLt)
  have key : a = zero32 neg := by
    apply BitVec.eq_of_toNat_eq
    rw [dec32, hc] at h
    rcases Nat.eq_zero_or_pos X with rfl | h0
    · rw [FSpec.dec_code_zero fp32_proper hF] at h
      obtain rfl : F = 0 := of_decide_eq_true h
      rw [hc]; cases neg <;> rfl
    by_cases htop : X = 2 ^ fp32.eb - 1
    · rw [htop, FSpec.dec_code_top rfl hF] at h
      split at h <;> cases h
    · rw [FSpec.dec_code_normal h0 hX hF fun h => absurd h htop] at h
      have : 2 ^ fp32.fb + F = 0 := of_decide_eq_true h
      have : 0 < 2 ^ fp32.fb := by positivity
      omega
  rw [key]; cases neg <;> rfl

theorem dec32_zero32 (n : Bool) : dec32 (zero32 n) = .fin n 0 (-149) := by cases n <;> decide
theorem dec32_inf32 (n : Bool) : dec32 (inf32 n) = .inf n := by cases n <;> decide

section
variable {a b : Word} {n k z : Bool} {e : Int}

theorem fadd32_inf (r : Rnd) (ha : dec32 a = .inf n) (hb : dec32 b = .inf k) :
    fadd32 r a b = if n = k then (inf32 n, 0) else (nan32, fNV) := by
  rw [fadd32, ha, hb]
  cases n <;> cases k <;> rfl

theorem fmul32_inf_zero (r : Rnd) (ha : dec32 a = .inf n) (hb : dec32 b = .fin z 0 e) :
    fmul32 r a b = (nan32, fNV) ∧ fmul32 r b a = (nan32, fNV) := by
  rw [fmul32, fmul32, ha, hb]
  exact ⟨rfl, rfl⟩

theorem ffma32_inf_zero (r : Rnd) (c : Word) (ha : dec32 a = .inf n) (hb : dec32 b = .fin z 0 e) :
    ffma32 r a b c = (nan32, fNV) ∧ ffma32 r b a c = (nan32, fNV) := by
  rw [ffma32, ffma32, ha, hb]
  exact ⟨rfl, rfl⟩

theorem fdiv32_inf_inf (ha : dec32 a = .inf n) (hb : dec32 b = .inf k) : fdiv32 a b = (nan32, fNV) := by
  unfold fdiv32; rw [ha, hb]

theorem fdiv32_inf_zero (ha : dec32 a = .inf n) (hb : dec32 b = .fin z 0 e) : fdiv32 a b = (inf32 (n != z), 0) := by
  unfold fdiv32; rw [ha, hb]; rfl

theorem dec32_one : dec32 0x3F800000 = .fin false (2 ^ 23) (-23) := by decide

theorem frcp32_inf (ha : dec32 a = .inf n) : frcp32 a = (zero32 n, 0) := by
  unfold frcp32 fdiv32; rw [ha, dec32_one]; cases n <;> rfl

theorem fsqrt32_inf (ha : dec32 a = .inf n) : fsqrt32 a = if n then (nan32, fNV) else (inf32 false, 0) := by
  unfold fsqrt32; rw [ha]

theorem flog232_inf (ha : dec32 a = .inf false) : flog232 a = (inf32 false, 0) := by
  unfold flog232 flog2Closed; rw [ha]; rfl

theorem fexp232_inf (ha : dec32 a = .inf n) : fexp232 a = (if n then zero32 false else inf32 false, 0) := by
  unfold fexp232 fexp2Closed; rw [ha]; rfl

theorem ftanh32_inf (ha : dec32 a = .inf n) : ftanh32 a = (if n then 0xBF800000 else 0x3F800000, 0) := by
  unfold ftanh32 ftanhClosed; rw [ha]; rfl

theorem fsin2pi32_inf (ha : dec32 a = .inf n) : fsin2pi32 a = (nan32, fNV) := by
  unfold fsin2pi32 fsin2piClosed; rw [ha]; rfl

end

/-! ### Down-conversions and conversions to integers (R72) -/

/-- R72's result of a magnitude beyond the largest of a type. -/
def FSpec.convertOverflow (t : FSpec) (p : Pol) (neg : Bool) : Option (ℕ × Flags) :=
  match p with
  | .sat => some (t.maxCode neg, fOF ||| fNX ||| fSAT)
  | .inf => if t.inf then some (t.infCode neg, fOF ||| fNX) else some (t.maxCode neg, fOF ||| fNX ||| fSAT)
  | .nan => some (t.nan, fOF ||| fNX ||| fNV)
  | .trap => none

theorem FSpec.convert_fin (t : FSpec) (r : Rnd) (p : Pol) (neg : Bool) (m : ℕ) (e : Int) :
    t.convert r p (.fin neg m e) = t.out neg (t.round r neg m e false) (t.convertOverflow p neg) := by
  cases p <;> rfl

theorem FSpec.convert_inf (t : FSpec) (r : Rnd) (p : Pol) (neg : Bool) :
    t.convert r p (.inf neg) = if t.inf then some (t.infCode neg, 0) else t.convertOverflow p neg := by
  cases p <;> rfl

theorem FSpec.convert_zero (t : FSpec) (r : Rnd) (p : Pol) (neg : Bool) (e : Int) :
    t.convert r p (.fin neg 0 e) = some (t.sign neg, 0) := by
  have hr : t.round r neg 0 e false = ⟨0, t.emin - t.fb, false, false, false⟩ := if_pos rfl
  rw [FSpec.convert_fin, hr]
  simp [FSpec.out, FSpec.encode, Rounded.flags]

/-- R72's result of an integer out of the range of a conversion. -/
def intOverflow (lo hi : Int) (p : Pol) (neg : Bool) : Option (Int × Flags) :=
  match p with
  | .sat | .inf => some (if neg then lo else hi, fOF ||| fNX ||| fSAT)
  | .nan => some (lo, fOF ||| fNX ||| fNV)
  | .trap => none

/-- A conversion to an integer gives the nearest integer where it is in range. -/
theorem intConvert_fin (lo hi : Int) (r : Rnd) (p : Pol) (neg : Bool) (m : ℕ) (e : Int) {v : ℚ} (hv : v = m * pow2 e) :
    ∃ k : ℕ, NearestMultiple r neg (fun q => q ≤ v) (fun q => q < v) 1 k ∧
      let x : Int := if neg then -(k : Int) else k
      intConvert lo hi r p (.fin neg m e) =
        if lo ≤ x ∧ x ≤ hi then some (x, if (k : ℚ) = v then 0 else fNX) else intOverflow lo hi p neg := by
  obtain ⟨hk, hex⟩ := roundAt_spec (r := r) (neg := neg) (q := 0) (stands_exact hv) (fun h => by cases h)
  have hk' : Nearest r neg (v : ℝ) (roundAt r neg m e false 0).1 := by simpa using hk
  have hex' : (roundAt r neg m e false 0).2 = true ↔ ((roundAt r neg m e false 0).1 : ℚ) = v := by
    rw [hex, ← Rat.cast_inj (α := ℝ)]; simp
  refine ⟨_, by simpa only [Rat.cast_le, Rat.cast_lt] using nearestMultiple_one_iff.mpr hk', ?_⟩
  simp only [intConvert]
  revert hex'
  generalize roundAt r neg m e false 0 = k
  intro hex'
  simp only [← hex']
  generalize (if neg = true then -(k.1 : Int) else (k.1 : Int)) = x
  by_cases h : lo ≤ x ∧ x ≤ hi
  · rw [if_pos h, if_neg (by simp; omega)]
  · rw [if_neg h, if_pos (by simp; omega)]
    cases p <;> rfl

end Sys2Proof.Machine
end

section
/-! OBLIGATION. Rounding and exact results (O11): its parts and its settling. -/

namespace Sys2Proof.Machine

/-- The magnitude of a number. -/
def ratMag (x : ℚ) : ℚ := if x < 0 then -x else x

theorem ratMag_finRat (n : Bool) (m : ℕ) (e : Int) : ratMag (finRat n m e) = m * pow2 e := by
  have h : (0 : ℚ) ≤ m * pow2 e := mul_nonneg (Nat.cast_nonneg m) (pow2_pos e).le
  unfold ratMag finRat
  cases n with
  | false => rw [if_neg (by simpa [mul_assoc] using h)]; simp
  | true =>
    rcases h.eq_or_lt with h0 | h0
    · simp [← h0]
    · rw [if_pos (by simpa [mul_assoc] using h0)]; simp

section
variable {a b c : Word} {n1 n2 n3 : Bool} {m1 m2 m3 : ℕ} {e1 e2 e3 : Int}

/-! ### Sums and products of words -/

theorem FSpec.add_lt (t : FSpec) (ht : t.Proper) (hinf : t.inf = true) (r : Rnd) (n1 n2 : Bool) (m1 m2 : ℕ) (e1 e2 : Int) :
    (t.add r (.fin n1 m1 e1) (.fin n2 m2 e2)).1 < 2 ^ t.width := by
  simp only [FSpec.add]
  split
  · exact FSpec.sign_lt
  · next h => exact FSpec.arith_lt ht hinf (t.fine_exact _ _) (Int.natAbs_pos.mpr h)

theorem FSpec.mul_lt (t : FSpec) (ht : t.Proper) (hinf : t.inf = true) (r : Rnd) (n1 n2 : Bool) (m1 m2 : ℕ) (e1 e2 : Int) :
    (t.mul r (.fin n1 m1 e1) (.fin n2 m2 e2)).1 < 2 ^ t.width := by
  simp only [FSpec.mul]
  split
  · exact FSpec.sign_lt
  · next h => exact FSpec.arith_lt ht hinf (t.fine_exact _ _) (Nat.pos_of_ne_zero h)

theorem asCode_fadd32 (r : Rnd) (ha : dec32 a = .fin n1 m1 e1) (hb : dec32 b = .fin n2 m2 e2) :
    asCode (fadd32 r a b) = fp32.add r (.fin n1 m1 e1) (.fin n2 m2 e2) := by
  rw [fadd32, ha, hb, asCode_wf32 (fp32.add_lt fp32_proper rfl _ _ _ _ _ _ _)]

theorem asCode_fmul32 (r : Rnd) (ha : dec32 a = .fin n1 m1 e1) (hb : dec32 b = .fin n2 m2 e2) :
    asCode (fmul32 r a b) = fp32.mul r (.fin n1 m1 e1) (.fin n2 m2 e2) := by
  rw [fmul32, ha, hb, asCode_wf32 (fp32.mul_lt fp32_proper rfl _ _ _ _ _ _ _)]

theorem asCode_ffma32 (r : Rnd) (ha : dec32 a = .fin n1 m1 e1) (hb : dec32 b = .fin n2 m2 e2) (hc : dec32 c = .fin n3 m3 e3) :
    asCode (ffma32 r a b c) = fp32.add r (.fin (n1 != n2) (m1 * m2) (e1 + e2)) (.fin n3 m3 e3) := by
  rw [ffma32, ha, hb, hc, FSpec.fma_fin, asCode_wf32 (fp32.add_lt fp32_proper rfl _ _ _ _ _ _ _)]

/-! ### Quotients -/

theorem fdiv32_fin (ha : dec32 a = .fin n1 m1 e1) (hb : dec32 b = .fin n2 m2 e2) :
    fdiv32 a b = if m2 = 0 then if m1 = 0 then (nan32, fNV) else (inf32 (n1 != n2), fDZ)
      else if m1 = 0 then (zero32 (n1 != n2), 0) else (divMag m1 e1 m2 e2).toF32 (n1 != n2) := by
  unfold fdiv32; rw [ha, hb]

theorem ratMag_div (x y : ℚ) : ratMag (x / y) = ratMag x / ratMag y := by
  have h (z : ℚ) : ratMag z = |z| := by
    unfold ratMag; split
    · next h => rw [abs_of_neg h]
    · next h => rw [abs_of_nonneg (not_lt.mp h)]
  rw [h, h, h, abs_div]

theorem roundedAt_fdiv32 (ha : dec32 a = .fin n1 m1 e1) (hb : dec32 b = .fin n2 m2 e2) (h1 : m1 ≠ 0) (h2 : m2 ≠ 0) :
    let v := ratMag (finRat n1 m1 e1 / finRat n2 m2 e2)
    RoundedAt fp32 .rne (n1 != n2) (fun q => q ≤ v) (fun q => q < v) (some (asCode (fdiv32 a b))) (overflowResult fp32 .rne (n1 != n2)) := by
  intro v
  rw [fdiv32_fin ha hb, if_neg h2, if_neg h1]
  have hge := le_divMag (e1 := e1) (e2 := e2) (Nat.pos_of_ne_zero h1) (Nat.pos_of_ne_zero h2)
  have hst := stands_divMag (m1 := m1) (e1 := e1) (e2 := e2) (Nat.pos_of_ne_zero h2)
  have hv : (v : ℝ) = (m1 : ℝ) / m2 * 2 ^ (e1 - e2) := by
    simp only [v, ratMag_div, ratMag_finRat]
    push_cast
    rw [cast_pow2, cast_pow2, zpow_sub₀ two_ne_zero]
    ring
  refine roundedAt_rat ?_
  rw [hv]
  exact roundedAt_toF32 (hge.trans_lt' (by positivity)) hst (fp32_fine (hge.trans' (by norm_num)))

/-! ### Roots -/

/-- The sign of a finite number. -/
theorem finRat_pos_iff {n : Bool} {m : ℕ} {e : Int} : 0 < finRat n m e ↔ n = false ∧ 0 < m := by
  have := pow2_pos e
  cases n with
  | false => simp [finRat, mul_pos_iff_of_pos_right this]
  | true => simpa [finRat] using mul_nonneg (Nat.cast_nonneg m) this.le

theorem finRat_neg_iff {n : Bool} {m : ℕ} {e : Int} : finRat n m e < 0 ↔ n = true ∧ 0 < m := by
  have := pow2_pos e
  cases n with
  | false => simpa [finRat] using mul_nonneg (Nat.cast_nonneg m) this.le
  | true => simp [finRat, mul_pos_iff_of_pos_right this]

/-- A positive operand of FP32 lies below 2^128 and is at least 2^-149. -/
theorem dec32_bounds (ha : dec32 a = .fin n1 m1 e1) (h : 0 < m1) :
    (2 : ℝ) ^ (-149 : Int) ≤ m1 * 2 ^ e1 ∧ (m1 : ℝ) * 2 ^ e1 < 2 ^ (128 : Int) := by
  obtain ⟨hm, he, he', -⟩ := dec32_fin ha
  have h1 : (1 : ℝ) ≤ m1 := by exact_mod_cast h
  have h2 : (m1 : ℝ) < 2 ^ (24 : ℕ) := by exact_mod_cast hm
  have hp := two_zpow_pos e1
  constructor
  · calc (2 : ℝ) ^ (-149 : Int) ≤ 2 ^ e1 := two_zpow_le he
      _ ≤ m1 * 2 ^ e1 := le_mul_of_one_le_left hp.le h1
  · calc (m1 : ℝ) * 2 ^ e1 < 2 ^ (24 : ℕ) * 2 ^ e1 := mul_lt_mul_of_pos_right h2 hp
      _ = 2 ^ (24 + e1) := by rw [zpow_add₀ two_ne_zero]; norm_cast
      _ ≤ 2 ^ (128 : Int) := two_zpow_le (by omega)

/-- The cut of a root, said without the root. -/
theorem cut_sqrt {x : ℝ} (hx : 0 < x) (q : ℝ) : (q ≤ √x ↔ q ≤ 0 ∨ q * q ≤ x) ∧ (q < √x ↔ q ≤ 0 ∨ q * q < x) := by
  have hs := Real.sqrt_pos.mpr hx
  rcases le_or_gt q 0 with h | h
  · exact ⟨iff_of_true (h.trans hs.le) (Or.inl h), iff_of_true (h.trans_lt hs) (Or.inl h)⟩
  · rw [Real.le_sqrt' h, Real.lt_sqrt h.le, sq]
    simp [h.not_ge]

theorem roundedAt_fsqrt32 (ha : dec32 a = .fin n1 m1 e1) {x : ℚ} (hx : x = finRat n1 m1 e1) (h : 0 < x) :
    RoundedAt fp32 .rne false (fun q => q ≤ 0 ∨ q * q ≤ x) (fun q => q ≤ 0 ∨ q * q < x) (some (asCode (fsqrt32 a))) none := by
  obtain ⟨rfl, hm⟩ := finRat_pos_iff.mp (hx ▸ h)
  have hxR : (x : ℝ) = m1 * 2 ^ e1 := by rw [hx, finRat]; simp
  have hpos : (0 : ℝ) < x := by exact_mod_cast h
  obtain ⟨y, hy, hst, hge⟩ := stands_sqrtMag m1 e1
  have hge := hge hm
  have hsq : fsqrt32 a = y.toF32 false := by
    unfold fsqrt32
    rw [ha, ← hy]
    exact (if_neg hm.ne').trans (if_neg (by simp))
  have hle : √(x : ℝ) ≤ 2 ^ (127 : Int) := by
    rw [Real.sqrt_le_left (two_zpow_pos _).le, ← zpow_natCast, ← zpow_mul, hxR]
    exact (dec32_bounds ha hm).2.le.trans (two_zpow_le (by norm_num))
  have key := roundedAt_toF32_small (neg := false) (hge.trans_lt' (by positivity)) hst (fp32_fine (hge.trans' (by norm_num))) (hxR ▸ hle) none
  rw [hsq]
  have cut (q : ℚ) : ((q : ℝ) ≤ √(m1 * 2 ^ e1) ↔ q ≤ 0 ∨ q * q ≤ x) ∧ ((q : ℝ) < √(m1 * 2 ^ e1) ↔ q ≤ 0 ∨ q * q < x) := by
    rw [← hxR]
    exact_mod_cast cut_sqrt hpos (q : ℝ)
  simpa only [fun q => (cut q).1, fun q => (cut q).2] using key

theorem roundedAt_frsq32 (ha : dec32 a = .fin n1 m1 e1) {x : ℚ} (hx : x = finRat n1 m1 e1) (h : 0 < x) :
    RoundedAt fp32 .rne false (fun q => q ≤ 0 ∨ q * q * x ≤ 1) (fun q => q ≤ 0 ∨ q * q * x < 1) (some (asCode (frsq32 a))) none := by
  obtain ⟨rfl, hm⟩ := finRat_pos_iff.mp (hx ▸ h)
  have hxR : (x : ℝ) = m1 * 2 ^ e1 := by rw [hx, finRat]; simp
  have hpos : (0 : ℝ) < x := by exact_mod_cast h
  obtain ⟨y, hy, hst, hge⟩ := frsq32_fin ha hm
  have hroot : 1 / √(m1 * 2 ^ e1) = √(1 / (x : ℝ)) := by rw [← hxR, Real.sqrt_div one_pos.le, Real.sqrt_one]
  rw [hroot] at hst
  have hle : √(1 / (x : ℝ)) ≤ 2 ^ (127 : Int) := by
    rw [Real.sqrt_le_left (two_zpow_pos _).le, div_le_iff₀ hpos, hxR]
    calc (1 : ℝ) = 2 ^ (149 : Int) * 2 ^ (-149 : Int) := by norm_num
      _ ≤ (2 ^ (127 : Int)) ^ 2 * (m1 * 2 ^ e1) := mul_le_mul (by norm_num) (dec32_bounds ha hm).1 (two_zpow_pos _).le (by positivity)
  have key := roundedAt_toF32_small (neg := false) (hge.trans_lt' (by positivity)) hst (fp32_fine hge) hle none
  rw [hy]
  have cut (q : ℚ) : ((q : ℝ) ≤ √(1 / (x : ℝ)) ↔ q ≤ 0 ∨ q * q * x ≤ 1) ∧ ((q : ℝ) < √(1 / (x : ℝ)) ↔ q ≤ 0 ∨ q * q * x < 1) := by
    obtain ⟨c1, c2⟩ := cut_sqrt (one_div_pos.mpr hpos) (q : ℝ)
    rw [c1, c2, le_div_iff₀ hpos, lt_div_iff₀ hpos]
    norm_cast
  simpa only [fun q => (cut q).1, fun q => (cut q).2] using key

/-- Roots and logarithms of zeros and of negative numbers. -/
theorem root_zero (ha : dec32 a = .fin n1 0 e1) : fsqrt32 a = (a, 0) ∧ frsq32 a = (inf32 n1, fDZ) ∧ flog232 a = (inf32 true, fDZ) := by
  unfold fsqrt32 frsq32 flog232 flog2Closed
  rw [ha]
  exact ⟨rfl, rfl, rfl⟩

theorem root_neg (ha : dec32 a = .fin true m1 e1) (h : 0 < m1) :
    fsqrt32 a = (nan32, fNV) ∧ frsq32 a = (nan32, fNV) ∧ flog232 a = (nan32, fNV) := by
  unfold fsqrt32 frsq32 flog232 flog2Closed
  simp only [ha, if_neg h.ne', if_true, ofClosed, Option.getD_some, and_self]

/-! ### Rotations (R305) -/

theorem sumProducts_fin {d : Word} {n4 : Bool} {m4 : ℕ} {e4 : Int} (ha : dec32 a = .fin n1 m1 e1) (hb : dec32 b = .fin n2 m2 e2)
    (hc : dec32 c = .fin n3 m3 e3) (hd : dec32 d = .fin n4 m4 e4) :
    rotate.sumProducts a b c d =
      fp32.add .rne (.fin (n3 != n4) (m3 * m4) (e3 + e4)) (.fin (n1 != n2) (m1 * m2) (e1 + e2)) := by
  unfold rotate.sumProducts
  rw [ha, hb, hc, hd]
  rfl

end

theorem zero32_eq (n : Bool) : zero32 n = if n then 0x80000000 else 0 := by cases n <;> rfl
theorem inf32_eq (n : Bool) : inf32 n = if n then 0xFF800000 else 0x7F800000 := by cases n <;> rfl

theorem zeroSign_eq (r : Rnd) (n k : Bool) : zeroSign r n k = if n = k then k else r = .rdn := by
  unfold zeroSign; split
  · next h => exact h
  · rfl

/-- A type that a statement lists is one of R66. -/
theorem proper_of_mem {t : FSpec} (h : t ∈ [fp32, bf16, fp16, e4m3, e5m2]) : t.Proper := by
  simp only [List.mem_cons, List.not_mem_nil, or_false] at h
  rcases h with rfl | rfl | rfl | rfl | rfl
  exacts [fp32_proper, bf16_proper, fp16_proper, e4m3_proper, e5m2_proper]

theorem inf_of_mem {t : FSpec} (h : t ∈ [fp32, bf16, fp16]) : t.inf = true := by
  simp only [List.mem_cons, List.not_mem_nil, or_false] at h
  rcases h with rfl | rfl | rfl <;> rfl

/-- The values that chapter 03 works out by hand (R80). -/
theorem worked_values : frcp32 0x40400000 = (0x3EAAAAAB, fNX) ∧ fexp232 0x40400000 = (0x41000000, 0) ∧ flog232 0x3E800000 = (0xC0000000, 0) ∧
    fsin2pi32 0x3E800000 = (0x3F800000, 0) ∧ fexp232 0x43000000 = (0x7F800000, fOF ||| fNX) ∧
    frcp32 0x00000001 = (0x7F800000, fOF ||| fNX) := by
  refine ⟨?_, ?_, ?_, ?_, ?_, ?_⟩ <;> decide

/-- Settles O11: every result is the code that `FSpec.round` gives for the exact number, which `roundedAt_round` shows to be that
number rounded. -/
theorem roundingIsCorrect : Obligations.RoundingIsCorrect := by
  unfold Obligations.RoundingIsCorrect
  intro sgn mag exactly zero inf
  have hsub {t : FSpec} (h : t ∈ [bf16, fp16]) : t ∈ [fp32, bf16, fp16] := List.mem_cons_of_mem _ h
  have hall {t : FSpec} (h : t ∈ [fp32, bf16, fp16]) : t ∈ [fp32, bf16, fp16, e4m3, e5m2] := List.mem_append_left [e4m3, e5m2] h
  have hz : zero32 = zero := funext zero32_eq
  have hi : inf32 = inf := funext inf32_eq
  refine ⟨?_, ?_, ?_, ?_, ?_, ?_, ?_, ?_, ?_, worked_values⟩
  · intro t r neg m e ht hm
    exact roundedAt_arith_rat (proper_of_mem (hall ht)) (inf_of_mem ht) hm rfl
  · intro t r n1 n2 n3 m1 m2 m3 e1 e2 e3 ht x y z p q c
    have hp := proper_of_mem (hall (hsub ht))
    have hinf := inf_of_mem (hsub ht)
    have hxy : finRat (n1 != n2) (m1 * m2) (e1 + e2) = x * y := finRat_mul ..
    exact ⟨roundedAt_add hp hinf r n1 n2 m1 m2 e1 e2 rfl, FSpec.add_zero r n1 n2 m1 m2 e1 e2,
      roundedAt_mul hp hinf r n1 n2 m1 m2 e1 e2 rfl, FSpec.mul_zero r n1 n2 m1 m2 e1 e2,
      roundedAt_add hp hinf r (n1 != n2) n3 (m1 * m2) m3 (e1 + e2) e3 (by rw [hxy]; rfl),
      fun h => by rw [← zeroSign_eq]; exact FSpec.add_zero r (n1 != n2) n3 (m1 * m2) m3 (e1 + e2) e3 (by rw [hxy]; exact h)⟩
  · intro r a b c n1 n2 n3 m1 m2 m3 e1 e2 e3 ha hb hc x y z
    have hxy : finRat (n1 != n2) (m1 * m2) (e1 + e2) = x * y := finRat_mul ..
    have hx0 : x = 0 ↔ m1 = 0 := finRat_eq_zero
    have hy0 : y = 0 ↔ m2 = 0 := finRat_eq_zero
    refine ⟨fun h => ?_, fun h => ?_, fun h => ?_, fun h => ?_, fun h => ?_, fun h => ?_, fun h h' => ?_, fun h h' => ?_, fun h => ?_, rfl,
      fun h => roundedAt_fsqrt32 ha rfl h, fun h => roundedAt_frsq32 ha rfl h, fun h => ?_, fun h => ?_⟩
    · rw [asCode_fadd32 r ha hb]
      exact roundedAt_add fp32_proper rfl r n1 n2 m1 m2 e1 e2 rfl h
    · rw [fadd32, ha, hb, FSpec.add_zero r n1 n2 m1 m2 e1 e2 h]
      exact congrArg (·, 0) (congrFun hz _)
    · rw [asCode_fmul32 r ha hb]
      exact roundedAt_mul fp32_proper rfl r n1 n2 m1 m2 e1 e2 rfl h
    · rw [fmul32, ha, hb, FSpec.mul_zero r n1 n2 m1 m2 e1 e2 h]
      exact congrArg (·, 0) (congrFun hz _)
    · rw [asCode_ffma32 r ha hb hc]
      exact roundedAt_add fp32_proper rfl r (n1 != n2) n3 (m1 * m2) m3 (e1 + e2) e3 (by rw [hxy]; rfl) h
    · rw [ffma32, ha, hb, hc, FSpec.fma_fin, FSpec.add_zero r (n1 != n2) n3 (m1 * m2) m3 (e1 + e2) e3 (by rw [hxy]; exact h), ← zeroSign_eq]
      exact congrArg (·, 0) (congrFun hz _)
    · exact roundedAt_fdiv32 ha hb (mt hx0.mpr h) (mt hy0.mpr h')
    · rw [fdiv32_fin ha hb, if_pos (hy0.mp h'), if_neg (mt hx0.mpr h), hi]
    · rw [fdiv32_fin ha hb, if_pos (hx0.mp h), if_pos (hx0.mp h)]
      simp only [← hy0, hz]
      rfl
    · obtain rfl := hx0.mp h
      rw [← hi]
      exact root_zero ha
    · obtain ⟨rfl, hm⟩ := finRat_neg_iff.mp h
      exact root_neg ha hm
  · intro a b c d n1 n2 n3 n4 m1 m2 m3 m4 e1 e2 e3 e4 ha hb hc hd x
    have hx : finRat (n3 != n4) (m3 * m4) (e3 + e4) + finRat (n1 != n2) (m1 * m2) (e1 + e2) = x := by
      rw [finRat_mul, finRat_mul, add_comm]; rfl
    refine ⟨rfl, fun h => ?_, fun h => ?_⟩
    · rw [sumProducts_fin ha hb hc hd]
      exact roundedAt_add fp32_proper rfl .rne (n3 != n4) (n1 != n2) (m3 * m4) (m1 * m2) (e3 + e4) (e1 + e2) hx.symm h
    · show w32 (rotate.sumProducts a b c d).1 = _
      rw [sumProducts_fin ha hb hc hd, FSpec.add_zero .rne (n3 != n4) (n1 != n2) (m3 * m4) (m1 * m2) (e3 + e4) (e1 + e2) (hx.trans h), ← hz]
      cases n1 != n2 <;> cases n3 != n4 <;> rfl
  · intro t r v y z _ hv
    exact t.arith_nan r v y z hv
  · intro r a b c ha nan one
    have hadd := fp32.arith_nan r (dec32 a) (dec32 b) (dec32 c) ha
    obtain ⟨h1, h2, h3, h4, h5, h6, h7⟩ := hadd
    obtain ⟨d1, d2⟩ := fdiv32_nan b ha
    exact ⟨congrArg w32 h1, congrArg w32 h2, congrArg w32 h3, congrArg w32 h4, congrArg w32 h5, congrArg w32 h6,
      congrArg w32 h7, d1, d2, real_nan ha⟩
  · intro r n k a c ha
    have hi' (n : Bool) : dec32 (inf n) = .inf n := by rw [← hi]; exact dec32_inf32 n
    have ha' : dec32 a = .fin (a.getLsbD 31) 0 (-149) := (congrArg dec32 (eq_zero32 ha)).trans (dec32_zero32 _)
    rw [← hz]
    refine ⟨?_, (fmul32_inf_zero r (hi' n) ha').1, (fmul32_inf_zero r (hi' n) ha').2, (ffma32_inf_zero r c (hi' n) ha').1,
      (ffma32_inf_zero r c (hi' n) ha').2, fdiv32_inf_inf (hi' n) (hi' k), frcp32_inf (hi' n), ?_, ?_, flog232_inf (hi' false), ?_,
      ftanh32_inf (hi' n), fsin2pi32_inf (hi' n)⟩
    · rw [fadd32_inf r (hi' n) (hi' k), hi]; rfl
    · rw [fdiv32_inf_zero (hi' n) ha', hi]
    · rw [fsqrt32_inf (hi' n), hi]; rfl
    · rw [fexp232_inf (hi' n), hi]; rfl
  · intro t r p neg m e ht hm ofl
    have hofl : ofl = t.convertOverflow p neg := by cases p <;> rfl
    have hp := proper_of_mem ht
    refine ⟨?_, ?_, t.convert_zero r p neg e, by cases p <;> rfl⟩
    · rw [FSpec.convert_fin, hofl]
      exact roundedAt_rat (roundedAt_round hp hm (stands_exact rfl) (t.fine_exact m e) _)
    · rw [FSpec.convert_inf, hofl]
  · intro r p neg m e ty _ _ lo hi ofl v
    have hofl : ofl = intOverflow lo hi p neg := by cases p <;> rfl
    rw [hofl]
    exact ⟨intConvert_fin lo hi r p neg m e rfl, by cases p <;> rfl, by cases p <;> rfl⟩

end Sys2Proof.Machine
end

section
/-! SUPPORT. The order of codes: that of their values, and with −0 below +0 that of their ranks (R190, R197). -/

namespace Sys2Proof.Machine

section
variable (t : FSpec)

/-- The magnitude bits of a code. -/
def FSpec.magOf (c : ℕ) : ℕ := c % 2 ^ (t.width - 1)

/-- The number that the magnitude bits of a code stand for; of an infinity, the number that would come next. -/
def FSpec.magVal (k : ℕ) : ℚ :=
  if k / 2 ^ t.fb = 0 then (k % 2 ^ t.fb : ℕ) * pow2 (t.emin - t.fb)
  else (2 ^ t.fb + k % 2 ^ t.fb : ℕ) * pow2 ((k / 2 ^ t.fb : ℕ) - t.bias - t.fb)

/-- The magnitude bits as a signed number, −0 equal to +0. -/
def FSpec.keyOf (c : ℕ) : Int := if c.testBit (t.width - 1) then -(t.magOf c : Int) else t.magOf c

/-- The magnitude bits as a signed number, −0 below +0. -/
def FSpec.rankOf (c : ℕ) : Int := if c.testBit (t.width - 1) then -(t.magOf c : Int) - 1 else t.magOf c

/-- A magnitude above that of infinity. -/
def FSpec.nanCode (c : ℕ) : Bool := decide (t.infCode false < t.magOf c)

theorem FSpec.width_sub_one : t.width - 1 = t.eb + t.fb := by rw [FSpec.width]; omega

theorem FSpec.magVal_zero : t.magVal 0 = 0 := by simp [FSpec.magVal]

theorem FSpec.magVal_strictMono : StrictMono t.magVal := by
  refine strictMono_nat_of_lt_succ fun k => ?_
  have hd := Nat.div_add_mod k (2 ^ t.fb)
  have hlt : k % 2 ^ t.fb < 2 ^ t.fb := Nat.mod_lt _ (by positivity)
  unfold FSpec.magVal
  generalize k / 2 ^ t.fb = X at hd ⊢
  generalize k % 2 ^ t.fb = F at hd hlt ⊢
  by_cases hc : F + 1 < 2 ^ t.fb
  · have h1 : (k + 1) / 2 ^ t.fb = X := by
      rw [← hd, Nat.add_assoc, Nat.mul_add_div (by positivity), Nat.div_eq_of_lt hc, Nat.add_zero]
    have h2 : (k + 1) % 2 ^ t.fb = F + 1 := by rw [← hd, Nat.add_assoc, Nat.mul_add_mod, Nat.mod_eq_of_lt hc]
    rw [h1, h2]
    split
    · exact mul_lt_mul_of_pos_right (by exact_mod_cast Nat.lt_succ_self F) (pow2_pos _)
    · exact mul_lt_mul_of_pos_right (by exact_mod_cast Nat.lt_succ_self (2 ^ t.fb + F)) (pow2_pos _)
  · have hF : F + 1 = 2 ^ t.fb := by omega
    have h1 : (k + 1) / 2 ^ t.fb = X + 1 := by
      rw [← hd, Nat.add_assoc, Nat.mul_add_div (by positivity), hF, Nat.div_self (by positivity)]
    have h2 : (k + 1) % 2 ^ t.fb = 0 := by rw [← hd, Nat.add_assoc, Nat.mul_add_mod, hF, Nat.mod_self]
    have hFq : (F : ℚ) + 1 = 2 ^ t.fb := by exact_mod_cast hF
    rw [h1, h2, if_neg (Nat.succ_ne_zero X)]
    push_cast
    split
    · next hX =>
      have hp := pow2_pos (t.emin - t.fb)
      rw [hX, show ((0 : ℕ) : Int) + 1 - t.bias - t.fb = t.emin - t.fb by rw [FSpec.emin]; push_cast; ring]
      nlinarith
    · have hp := pow2_pos ((X : Int) - t.bias - t.fb)
      rw [show (X : Int) + 1 - t.bias - t.fb = ((X : Int) - t.bias - t.fb) + 1 by ring, pow2_add, show pow2 1 = 2 from rfl]
      nlinarith

variable {t} {neg : Bool} {X F : ℕ}

theorem FSpec.magOf_code (hX : X < 2 ^ t.eb) (hF : F < 2 ^ t.fb) : t.magOf (t.code neg X F) = X * 2 ^ t.fb + F := by
  have h := FSpec.fields_lt hX hF
  rw [FSpec.magOf, FSpec.width_sub_one]
  cases neg <;> simp [FSpec.code, FSpec.sign, Nat.mod_eq_of_lt h]

theorem FSpec.testBit_top (hX : X < 2 ^ t.eb) (hF : F < 2 ^ t.fb) : (t.code neg X F).testBit (t.width - 1) = neg := by
  rw [FSpec.width_sub_one, FSpec.testBit_code hX hF]

end

section
variable {t : FSpec} (ht : t.Proper) (hinf : t.inf = true)
include ht hinf

/-- What a code of a type with infinities stands for: a NaN, an infinity, or the number of its magnitude bits. -/
theorem FSpec.dec_cases {c : ℕ} (hc : c < 2 ^ t.width) :
    (t.nanCode c = true ∧ t.dec c = .nan (!c.testBit (t.fb - 1))) ∨
    (t.nanCode c = false ∧ t.magOf c = t.infCode false ∧ t.dec c = .inf (c.testBit (t.width - 1))) ∨
    (t.nanCode c = false ∧ t.magOf c < t.infCode false ∧
      ∃ m e, t.dec c = .fin (c.testBit (t.width - 1)) m e ∧ (m : ℚ) * pow2 e = t.magVal (t.magOf c)) := by
  obtain ⟨neg, X, F, hX, hF, rfl⟩ := FSpec.exists_code hc
  have h2 := ht.two_le_pow_fb
  have hdiv : (X * 2 ^ t.fb + F) / 2 ^ t.fb = X := by
    rw [mul_comm, Nat.mul_add_div (by positivity), Nat.div_eq_of_lt hF, Nat.add_zero]
  have hmod : (X * 2 ^ t.fb + F) % 2 ^ t.fb = F := by rw [mul_comm, Nat.mul_add_mod, Nat.mod_eq_of_lt hF]
  have hbit : (t.code neg X F).testBit (t.fb - 1) = F.testBit (t.fb - 1) := by
    have := Nat.testBit_mod_two_pow (t.code neg X F) t.fb (t.fb - 1)
    rw [FSpec.code_mod hF, decide_eq_true (by have := ht.fb; omega), Bool.true_and] at this
    exact this.symm
  have hinfc : t.infCode false = (2 ^ t.eb - 1) * 2 ^ t.fb := by simp [FSpec.infCode, FSpec.sign]
  have hbelow : X ≠ 2 ^ t.eb - 1 → X * 2 ^ t.fb + F < (2 ^ t.eb - 1) * 2 ^ t.fb := fun h => by
    have : (X + 1) * 2 ^ t.fb ≤ (2 ^ t.eb - 1) * 2 ^ t.fb := Nat.mul_le_mul_right _ (by omega)
    linarith
  rw [FSpec.nanCode, FSpec.magOf_code hX hF, FSpec.testBit_top hX hF, hbit, hinfc, FSpec.magVal, hdiv, hmod]
  by_cases htop : X = 2 ^ t.eb - 1
  · rw [htop, FSpec.dec_code_top hinf hF]
    by_cases hF0 : F = 0
    · exact Or.inr (Or.inl (by simp [hF0]))
    · exact Or.inl (by simp [hF0]; omega)
  · refine Or.inr (Or.inr ⟨decide_eq_false (hbelow htop).not_gt, hbelow htop, ?_⟩)
    rcases Nat.eq_zero_or_pos X with rfl | h0
    · exact ⟨_, _, FSpec.dec_code_zero ht hF, by simp⟩
    · exact ⟨_, _, FSpec.dec_code_normal h0 hX hF fun h => absurd h htop, by rw [if_neg h0.ne']⟩

theorem FSpec.isNan_dec {c : ℕ} (hc : c < 2 ^ t.width) : (t.dec c).isNan = t.nanCode c := by
  rcases FSpec.dec_cases ht hinf hc with ⟨h, e⟩ | ⟨h, -, e⟩ | ⟨h, -, m, x, e, -⟩ <;> rw [h, e] <;> rfl

theorem FSpec.isSig_dec {c : ℕ} (hc : c < 2 ^ t.width) : (t.dec c).isSig = (t.nanCode c && !c.testBit (t.fb - 1)) := by
  rcases FSpec.dec_cases ht hinf hc with ⟨h, e⟩ | ⟨h, -, e⟩ | ⟨h, -, m, x, e, -⟩ <;> rw [h, e] <;> rfl

omit hinf in
theorem FSpec.infCode_pos : 0 < t.infCode false := by
  have h4 := ht.four_le_pow_eb
  have h2 := ht.two_le_pow_fb
  rw [FSpec.infCode]
  exact Nat.add_pos_right _ (Nat.mul_pos (by omega) (by omega))

omit hinf ht in
/-- Codes of one rank are one code. -/
theorem FSpec.rankOf_inj {a b : ℕ} (ha : a < 2 ^ t.width) (hb : b < 2 ^ t.width) (h : t.rankOf a = t.rankOf b) : a = b := by
  obtain ⟨n, X, F, hX, hF, rfl⟩ := FSpec.exists_code ha
  obtain ⟨k, Y, G, hY, hG, rfl⟩ := FSpec.exists_code hb
  unfold FSpec.rankOf at h
  rw [FSpec.testBit_top hX hF, FSpec.testBit_top hY hG, FSpec.magOf_code hX hF, FSpec.magOf_code hY hG] at h
  unfold FSpec.code
  cases n <;> cases k <;> simp only [Bool.false_eq_true, if_false, if_true] at h <;> omega

omit hinf ht in
/-- Signed numbers of magnitudes that a strictly rising function gives are in the order of the magnitudes. -/
theorem signed_lt_iff {g : ℕ → ℚ} (hg : StrictMono g) (h0 : g 0 = 0) (n k : Bool) (x y : ℕ) :
    ((if n then -g x else g x) < if k then -g y else g y) ↔ ((if n then -(x : Int) else x) < if k then -(y : Int) else y) := by
  have hx : 0 ≤ g x := h0 ▸ hg.monotone (Nat.zero_le x)
  have hy : 0 ≤ g y := h0 ▸ hg.monotone (Nat.zero_le y)
  have hx0 : g x = 0 ↔ x = 0 := by rw [← h0, hg.injective.eq_iff]
  have hy0 : g y = 0 ↔ y = 0 := by rw [← h0, hg.injective.eq_iff]
  cases n <;> cases k <;> simp only [Bool.false_eq_true, if_false, if_true, neg_lt_neg_iff, hg.lt_iff_lt]
  · exact (Nat.cast_lt (α := Int)).symm
  · exact iff_of_false (by linarith) (by omega)
  · constructor
    · intro h
      by_contra hc
      obtain ⟨rfl, rfl⟩ : x = 0 ∧ y = 0 := by omega
      simp [h0] at h
    · intro h
      rcases hx.lt_or_eq with h' | h'
      · linarith
      rcases hy.lt_or_eq with h'' | h''
      · linarith
      have := hx0.mp h'.symm
      have := hy0.mp h''.symm
      omega
  · exact (Nat.cast_lt (α := Int)).symm

omit hinf ht in
theorem compare_congr {α β : Type} [LinearOrder α] [LinearOrder β] {x y : α} {u v : β} (h1 : x < y ↔ u < v) (h2 : y < x ↔ v < u) :
    compare x y = compare u v := by
  rcases lt_trichotomy x y with h | h | h
  · rw [compare_lt_iff_lt.mpr h, compare_lt_iff_lt.mpr (h1.mp h)]
  · rw [compare_eq_iff_eq.mpr h, compare_eq_iff_eq.mpr (le_antisymm (not_lt.mp (mt h2.mpr h.not_gt)) (not_lt.mp (mt h1.mpr h.not_lt)))]
  · rw [compare_gt_iff_gt.mpr h, compare_gt_iff_gt.mpr (h2.mp h)]

omit hinf ht in
theorem Val.cmp_fin (n k : Bool) (m1 m2 : ℕ) (e1 e2 : Int) :
    Val.cmp (.fin n m1 e1) (.fin k m2 e2) = compare (finRat n m1 e1) (finRat k m2 e2) := by
  have hs := addFin_eq n m1 e1 (!k) m2 e2
  have hk : finRat (!k) m2 e2 = -finRat k m2 e2 := by cases k <;> simp [finRat]
  rw [hk] at hs
  have hp := pow2_pos (addFin n m1 e1 (!k) m2 e2).2
  show compare (addFin n m1 e1 (!k) m2 e2).1 0 = _
  generalize addFin n m1 e1 (!k) m2 e2 = z at hs hp
  rcases lt_trichotomy z.1 0 with h | h | h
  · have : (z.1 : ℚ) < 0 := by exact_mod_cast h
    rw [compare_lt_iff_lt.mpr h, compare_lt_iff_lt.mpr (by nlinarith)]
  · rw [compare_eq_iff_eq.mpr h, compare_eq_iff_eq.mpr (by rw [h] at hs; simp at hs; linarith)]
  · have : (0 : ℚ) < z.1 := by exact_mod_cast h
    rw [compare_gt_iff_gt.mpr h, compare_gt_iff_gt.mpr (by nlinarith)]

omit hinf ht in
theorem finRat_magVal {n : Bool} {m k : ℕ} {e : Int} (h : (m : ℚ) * pow2 e = t.magVal k) :
    finRat n m e = if n then -t.magVal k else t.magVal k := by
  cases n <;> simp [finRat, ← h]

/-- R197: the order of two codes that are no NaN is that of their signed magnitudes. -/
theorem FSpec.cmp_dec {a b : ℕ} (ha : a < 2 ^ t.width) (hb : b < 2 ^ t.width) (na : t.nanCode a = false) (nb : t.nanCode b = false) :
    (t.dec a).cmp (t.dec b) = compare (t.keyOf a) (t.keyOf b) := by
  have hmono := signed_lt_iff t.magVal_strictMono t.magVal_zero
  unfold FSpec.keyOf
  have hpos : (0 : Int) < t.infCode false := by exact_mod_cast FSpec.infCode_pos ht
  -- an infinity against an infinity, and against a smaller magnitude on either side
  have hii (n k : Bool) (x : Int) (hx : 0 < x) :
      Val.cmp (.inf n) (.inf k) = compare (if n then -x else x) (if k then -x else x) := by
    cases n <;> cases k
    · exact (compare_eq_iff_eq.mpr rfl).symm
    · exact (compare_gt_iff_gt.mpr (show -x < x by omega)).symm
    · exact (compare_lt_iff_lt.mpr (show -x < x by omega)).symm
    · exact (compare_eq_iff_eq.mpr rfl).symm
  have hif (n k : Bool) (m : ℕ) (e : Int) (x y : ℕ) (h : y < x) :
      Val.cmp (.inf n) (.fin k m e) = compare (if n then -(x : Int) else x) (if k then -(y : Int) else y) := by
    cases n
    · exact (compare_gt_iff_gt.mpr (by simp only [Bool.false_eq_true, if_false]; split <;> omega)).symm
    · exact (compare_lt_iff_lt.mpr (by simp only [if_true]; split <;> omega)).symm
  have hfi (n k : Bool) (m : ℕ) (e : Int) (x y : ℕ) (h : x < y) :
      Val.cmp (.fin n m e) (.inf k) = compare (if n then -(x : Int) else x) (if k then -(y : Int) else y) := by
    cases k
    · exact (compare_lt_iff_lt.mpr (by simp only [Bool.false_eq_true, if_false]; split <;> omega)).symm
    · exact (compare_gt_iff_gt.mpr (by simp only [if_true]; split <;> omega)).symm
  rcases FSpec.dec_cases ht hinf ha with ⟨h, -⟩ | ⟨-, ma, ea⟩ | ⟨-, ma, m, e, ea, va⟩
  · simp [na] at h
  all_goals rcases FSpec.dec_cases ht hinf hb with ⟨h, -⟩ | ⟨-, mb, eb⟩ | ⟨-, mb, m', e', eb, vb⟩
  · simp [nb] at h
  · rw [ea, eb, ma, mb, hii _ _ _ hpos]
  · rw [ea, eb, hif _ _ m' e' (t.magOf a) (t.magOf b) (by omega)]
  · simp [nb] at h
  · rw [ea, eb, hfi _ _ m e (t.magOf a) (t.magOf b) (by omega)]
  · rw [ea, eb, Val.cmp_fin, finRat_magVal va, finRat_magVal vb]
    exact compare_congr (hmono _ _ _ _) (hmono _ _ _ _)

/-- R190: the order of FMIN and FMAX is that of the ranks. -/
theorem FSpec.before_dec {a b : ℕ} (ha : a < 2 ^ t.width) (hb : b < 2 ^ t.width) (na : t.nanCode a = false) (nb : t.nanCode b = false) :
    (t.dec a).before (t.dec b) = decide (t.rankOf a < t.rankOf b) := by
  have hzero {c : ℕ} (hc : c < 2 ^ t.width) (nc : t.nanCode c = false) :
      (t.dec c).isZero = decide (t.magOf c = 0) ∧ (t.dec c).neg = c.testBit (t.width - 1) := by
    have hpos := FSpec.infCode_pos ht
    rcases FSpec.dec_cases ht hinf hc with ⟨h, -⟩ | ⟨-, mc, ec⟩ | ⟨-, mc, m, e, ec, vc⟩
    · simp [nc] at h
    · rw [ec]
      exact ⟨(decide_eq_false (show ¬ t.magOf c = 0 by omega)).symm, rfl⟩
    · rw [ec]
      refine ⟨decide_eq_decide.mpr ?_, rfl⟩
      rw [← t.magVal_strictMono.injective.eq_iff (a := t.magOf c), t.magVal_zero, ← vc]
      simp [(pow2_pos e).ne']
  obtain ⟨za, sa⟩ := hzero ha na
  obtain ⟨zb, sb⟩ := hzero hb nb
  unfold Val.before
  rw [za, zb, sa, sb, FSpec.cmp_dec ht hinf ha hb na nb]
  unfold FSpec.keyOf FSpec.rankOf
  rw [Bool.eq_iff_iff]
  by_cases h0 : t.magOf a = 0 ∧ t.magOf b = 0
  · rw [if_pos (by simp [h0]), h0.1, h0.2]
    cases a.testBit (t.width - 1) <;> cases b.testBit (t.width - 1) <;> simp
  · rw [if_neg (by simpa using h0), decide_eq_true_eq, decide_eq_true_eq, compare_lt_iff_lt]
    split <;> split <;> omega

/-- R190: FMIN and FMAX choose by rank among operands that are no NaN. -/
theorem FSpec.minMax_eq (big : Bool) {a b : ℕ} (ha : a < 2 ^ t.width) (hb : b < 2 ^ t.width) :
    t.minMax big a b =
      (if t.nanCode a && t.nanCode b then t.nan else if t.nanCode a then b else if t.nanCode b then a
       else if (decide (t.rankOf a ≤ t.rankOf b) != big) then a else b,
        if (t.nanCode a && !a.testBit (t.fb - 1)) || (t.nanCode b && !b.testBit (t.fb - 1)) then fNV else 0) := by
  have hsig : sigFlags [t.dec a, t.dec b] =
      if (t.nanCode a && !a.testBit (t.fb - 1)) || (t.nanCode b && !b.testBit (t.fb - 1)) then fNV else 0 := by
    simp [sigFlags, FSpec.isSig_dec ht hinf ha, FSpec.isSig_dec ht hinf hb]
  unfold FSpec.minMax
  simp only [hsig, FSpec.isNan_dec ht hinf ha, FSpec.isNan_dec ht hinf hb]
  cases na : t.nanCode a <;> cases nb : t.nanCode b
  · have hb1 := FSpec.before_dec ht hinf ha hb na nb
    have hb2 := FSpec.before_dec ht hinf hb ha nb na
    have heq := FSpec.rankOf_inj ha hb
    simp only [Bool.and_self, Bool.false_eq_true, if_false]
    rw [hb1, hb2]
    cases big with
    | true =>
      simp only [if_true, Bool.bne_true, Bool.not_eq_true', decide_eq_false_iff_not, decide_eq_true_eq, not_le]
      split <;> rfl
    | false =>
      simp only [Bool.false_eq_true, if_false, Bool.bne_false, decide_eq_true_eq]
      rcases lt_trichotomy (t.rankOf a) (t.rankOf b) with h | h | h
      · rw [if_pos h, if_pos h.le]
      · rw [if_neg h.not_lt, if_pos h.le, heq h]
      · rw [if_neg h.not_gt, if_neg h.not_ge]
  · rfl
  · rfl
  · rfl

end
end Sys2Proof.Machine
end

section
/-! SUPPORT. Rounding at both ends of a type's range, and of numbers that a type holds. -/

namespace Sys2Proof.Machine

section
variable {t : FSpec} {r : Rnd} {neg : Bool} {m : ℕ} {e : Int} {s : Bool} {v : ℝ}

/-- Every positive real has its binade. -/
theorem exists_binade (h : 0 < v) : ∃ x : Int, (2 : ℝ) ^ x ≤ v ∧ v < 2 ^ (x + 1) :=
  exists_mem_Ico_zpow h one_lt_two

/-- The significand of a number at its own precision fills its binade. -/
theorem Nearest.binade {x : Int} {j : ℕ} (n : ℕ) (hj : Nearest r neg (v / 2 ^ (x - n)) j) (hx : (2 : ℝ) ^ x ≤ v) (hx' : v < 2 ^ (x + 1)) :
    (2 : ℝ) ^ x ≤ j * 2 ^ (x - n) ∧ (j : ℝ) * 2 ^ (x - n) ≤ 2 ^ (x + 1) := by
  have hp := two_zpow_pos (x - n)
  have hscale (k : ℕ) : ((2 ^ k : ℕ) : ℝ) * 2 ^ (x - n) = 2 ^ (x - n + k) := by
    rw [Nat.cast_pow, Nat.cast_ofNat, ← zpow_natCast, ← zpow_add₀ two_ne_zero, add_comm]
  have h1 : 2 ^ n ≤ j := hj.ge_of_ge (by rw [le_div_iff₀ hp, hscale]; exact (two_zpow_le (by omega)).trans hx)
  have h2 : j ≤ 2 ^ (n + 1) := hj.le_of_le (by rw [div_le_iff₀ hp, hscale]; exact hx'.le.trans (two_zpow_le (by push_cast; omega)))
  constructor
  · calc (2 : ℝ) ^ x = (2 ^ n : ℕ) * 2 ^ (x - n) := by rw [hscale]; congr 1; omega
      _ ≤ j * 2 ^ (x - n) := mul_le_mul_of_nonneg_right (by exact_mod_cast h1) hp.le
  · calc (j : ℝ) * 2 ^ (x - n) ≤ (2 ^ (n + 1) : ℕ) * 2 ^ (x - n) := mul_le_mul_of_nonneg_right (by exact_mod_cast h2) hp.le
      _ = 2 ^ (x + 1) := by rw [hscale]; congr 1; push_cast; ring

/-! ### Beyond the largest value -/

/-- The largest value of a type. -/
theorem FSpec.Proper.max_lt (ht : t.Proper) : (t.maxSig : ℝ) * 2 ^ t.maxExp < 2 ^ (t.maxExp + t.fb + 1) := by
  have h : (t.maxSig : ℝ) < 2 ^ (t.fb + 1) := by exact_mod_cast ht.maxSig_lt
  calc (t.maxSig : ℝ) * 2 ^ t.maxExp < 2 ^ (t.fb + 1) * 2 ^ t.maxExp := mul_lt_mul_of_pos_right h (two_zpow_pos _)
    _ = 2 ^ (t.maxExp + t.fb + 1) := by rw [← zpow_natCast, ← zpow_add₀ two_ne_zero]; congr 1; push_cast; ring

/-- A number of a binade beyond the largest value rounds to a number beyond it. -/
theorem FSpec.Proper.huge (ht : t.Proper) {x : Int} {k : ℕ} (hk : Nearest r neg (v / 2 ^ max (x - t.fb) (t.emin - t.fb)) k)
    (hx : (2 : ℝ) ^ x ≤ v) (hx' : v < 2 ^ (x + 1)) (h : t.maxExp + t.fb + 1 ≤ x) :
    (t.maxSig : ℝ) * 2 ^ t.maxExp < k * 2 ^ max (x - t.fb) (t.emin - t.fb) := by
  have hmin := ht.emin_le_maxExp
  rw [max_eq_left (by omega)] at hk ⊢
  exact ht.max_lt.trans_le ((two_zpow_le h).trans (hk.binade _ hx hx').1)

/-- R73: a number beyond the largest value by a binade gives the result of an overflow. -/
theorem roundedAt_huge (ht : t.Proper) (h : (2 : ℝ) ^ (t.maxExp + t.fb + 1) ≤ v) (ofl : Option (ℕ × Flags)) :
    RoundedAt t r neg (fun q => (q : ℝ) ≤ v) (fun q => (q : ℝ) < v) ofl ofl := by
  intro x hx hx' M E hME u
  rw [FSpec.dec_maxCode ht] at hME
  obtain ⟨-, rfl, rfl⟩ := Val.fin.inj hME
  replace hx : (2 : ℝ) ^ x ≤ v := by simpa using hx
  replace hx' : v < (2 : ℝ) ^ (x + 1) := by simpa using hx'
  have hle := lt_of_two_zpow_lt (h.trans_lt hx')
  obtain ⟨k, hk⟩ := exists_nearest r neg (w := v / 2 ^ max (x - t.fb) (t.emin - t.fb))
    (div_nonneg ((two_zpow_pos x).le.trans hx) (two_zpow_pos _).le)
  have hbig : (t.maxSig : ℚ) * pow2 t.maxExp < k * u := by
    rw [← Rat.cast_lt (K := ℝ)]
    simpa [u] using ht.huge hk hx hx' (by omega)
  exact ⟨k, nearestMultiple_iff.mpr hk, fun _ => rfl, fun hc => absurd hbig hc.not_gt⟩

theorem FSpec.arith_huge (ht : t.Proper) (hinf : t.inf = true) (hm : 0 < m) (h : t.maxExp + t.fb + 1 ≤ (Nat.log2 m : Int) + e) :
    some (t.arith r neg m e) = overflowResult t r neg := by
  have hst : Stands m e false ((m : ℝ) * 2 ^ e) := rfl
  have y := FSpec.round_of (r := r) (neg := neg) ht hm hst (t.fine_exact m e)
  obtain ⟨hx, hx'⟩ := hst.binade hm
  obtain ⟨k, hk, hky⟩ := y.nearest
  rw [FSpec.some_arith hinf, FSpec.out, if_pos (y.big.mpr (hky ▸ ht.huge hk hx hx' h))]

/-! ### Below half of the smallest value -/

/-- A number rounds to one integer. -/
theorem Nearest.le {w : ℝ} {k k' : ℕ} (h : Nearest r neg w k) (h' : Nearest r neg w k') : k ≤ k' := by
  by_contra hc
  have hlt : (k' : ℝ) + 1 ≤ k := by exact_mod_cast not_le.mp hc
  have down (h : (k : ℝ) ≤ w ∧ w < k + 1) (h' : (k' : ℝ) ≤ w ∧ w < k' + 1) : False := by linarith [h.1, h'.2]
  have up (h : w ≤ k ∧ (k : ℝ) - 1 < w) (h' : w ≤ k' ∧ (k' : ℝ) - 1 < w) : False := by linarith [h.2, h'.1]
  cases r with
  | rtz => exact down h h'
  | rdn => cases neg with
    | true => exact up h h'
    | false => exact down h h'
  | rup => cases neg with
    | true => exact down h h'
    | false => exact up h h'
  | rne =>
    obtain ⟨h1, -, h3⟩ := h
    obtain ⟨-, h2', h3'⟩ := h'
    have e : (k : ℝ) = k' + 1 := by linarith
    have e' : k = k' + 1 := by exact_mod_cast e
    have := h3 (Or.inl (by linarith))
    have := h3' (Or.inr (by linarith))
    omega

theorem Nearest.unique {w : ℝ} {k k' : ℕ} (h : Nearest r neg w k) (h' : Nearest r neg w k') : k = k' :=
  le_antisymm (h.le h') (h'.le h)

/-- A number below one half rounds by its sign and the mode alone, and never exactly. -/
theorem nearest_small {w : ℝ} (h0 : 0 < w) (h1 : w < 1 / 2) :
    Nearest r neg w (roundUnit r neg 0 false .lt) ∧ ((roundUnit r neg 0 false .lt : ℕ) : ℝ) ≠ w := by
  have hn : Nearest r neg w (roundUnit r neg 0 false .lt) :=
    nearest_roundUnit (by simpa using h0.le) (by push_cast; linarith) (by simpa using h0.ne') (fun _ => by simpa using h1)
      (fun _ => by simp; linarith)
  refine ⟨hn, fun e => ?_⟩
  have h2 : (0 : ℝ) < (roundUnit r neg 0 false .lt : ℕ) := e ▸ h0
  have h3 : ((roundUnit r neg 0 false .lt : ℕ) : ℝ) < 1 := by linarith
  norm_cast at h2 h3
  omega

/-- All numbers below half of the smallest value of a type round alike. -/
theorem roundedAt_tiny {v' : ℝ} {out ofl : Option (ℕ × Flags)} (h0 : 0 < v) (h1 : v < 2 ^ (t.emin - t.fb - 1))
    (h0' : 0 < v') (h1' : v' < 2 ^ (t.emin - t.fb - 1))
    (h : RoundedAt t r neg (fun q => (q : ℝ) ≤ v') (fun q => (q : ℝ) < v') out ofl) :
    RoundedAt t r neg (fun q => (q : ℝ) ≤ v) (fun q => (q : ℝ) < v) out ofl := by
  intro x hx hx' M E hME u
  replace hx : (2 : ℝ) ^ x ≤ v := by simpa using hx
  replace hx' : v < (2 : ℝ) ^ (x + 1) := by simpa using hx'
  have hxlt := lt_of_two_zpow_lt (hx.trans_lt h1)
  obtain ⟨x', hb, hb'⟩ := exists_binade h0'
  have hxlt' := lt_of_two_zpow_lt (hb.trans_lt h1')
  have hu : u = pow2 (t.emin - t.fb) := by rw [← max_eq_right (show x - t.fb ≤ t.emin - t.fb by omega)]
  have hu' : pow2 (max (x' - t.fb) (t.emin - t.fb)) = pow2 (t.emin - t.fb) := by rw [max_eq_right (by omega)]
  have hp := two_zpow_pos (t.emin - t.fb)
  have half {z : ℝ} (hz : z < 2 ^ (t.emin - t.fb - 1)) : z / 2 ^ (t.emin - t.fb) < 1 / 2 := by
    rw [div_lt_iff₀ hp]
    rw [zpow_sub_one₀ two_ne_zero] at hz
    linarith
  obtain ⟨k, hk, hbig, hfit⟩ := h x' (by simpa using hb) (by simpa using hb') M E hME
  rw [hu', nearestMultiple_iff] at hk
  rw [hu'] at hbig hfit
  rw [hu]
  obtain ⟨hn, hne⟩ := nearest_small (r := r) (neg := neg) (div_pos h0 hp) (half h1)
  obtain ⟨hn', hne'⟩ := nearest_small (r := r) (neg := neg) (div_pos h0' hp) (half h1')
  obtain rfl := hk.unique hn'
  -- neither number is the multiple that it rounds to, and both are tiny
  have inexact {z : ℝ} (hz : ((roundUnit r neg 0 false .lt : ℕ) : ℝ) ≠ z / 2 ^ (t.emin - t.fb)) :
      ¬ (((roundUnit r neg 0 false .lt : ℕ) * pow2 (t.emin - t.fb) : ℚ) : ℝ) ≤ z ∨
        (((roundUnit r neg 0 false .lt : ℕ) * pow2 (t.emin - t.fb) : ℚ) : ℝ) < z := by
    rw [not_le]
    refine (lt_or_gt_of_ne fun e => hz ?_)
    rw [e, Rat.cast_mul, cast_pow2, Rat.cast_natCast, mul_div_cancel_right₀ _ hp.ne']
  have tiny {z : ℝ} {y : Int} {j : ℕ} (hj : NearestMultiple r neg (fun q => (q : ℝ) ≤ z) (fun q => (q : ℝ) < z) (pow2 (y - t.fb)) j)
      (hy : (2 : ℝ) ^ y ≤ z) (hy' : z < 2 ^ (y + 1)) (hlt : y < t.emin - t.fb - 1) : (j : ℚ) * pow2 (y - t.fb) < pow2 t.emin := by
    rw [nearestMultiple_iff] at hj
    rw [← Rat.cast_lt (K := ℝ)]
    simpa using (hj.binade _ hy hy').2.trans_lt (two_zpow_lt (show y + 1 < t.emin by omega))
  refine ⟨_, nearestMultiple_iff.mpr hn, hbig, fun hle => ?_⟩
  obtain ⟨c, f, m, e, hout, hlt, hdec, hval, j', hj', -, hf⟩ := hfit hle
  obtain ⟨j, hj⟩ := exists_nearest r neg (w := v / 2 ^ (x - t.fb)) (div_pos h0 (two_zpow_pos _)).le
  have hj := nearestMultiple_iff.mpr hj
  refine ⟨c, f, m, e, hout, hlt, hdec, hval, j, hj, fun hex => ?_, fun _ => ?_⟩
  · exact absurd hex (by rw [not_and_or, not_not]; exact inexact hne)
  · rw [hf (inexact hne'), if_pos (tiny hj' hb hb' hxlt'), if_pos (tiny hj hx hx' hxlt)]

/-! ### Numbers that a type holds -/

/-- A multiple of the last place of a type is not changed by rounding. -/
theorem FSpec.arith_exact (ht : t.Proper) (hm : 0 < m) (hx : (Nat.log2 m : Int) ≤ t.fb) (he : t.emin - t.fb ≤ e)
    (hv : (m : ℝ) * 2 ^ e ≤ 2 ^ (t.maxExp + t.fb)) :
    ∃ j i, t.dec (t.arith r neg m e).1 = .fin neg j i ∧ (j : ℚ) * pow2 i = m * pow2 e ∧ (t.arith r neg m e).2 = 0 := by
  have hst : Stands m e false ((m : ℝ) * 2 ^ e) := rfl
  have y := FSpec.round_of (r := r) (neg := neg) ht hm hst (t.fine_exact m e)
  have hb := y.not_big ht (hst.binade hm).1 hv
  obtain ⟨k, hk, hky⟩ := y.nearest
  have hval : ((t.round r neg m e false).i : ℝ) * 2 ^ (t.round r neg m e false).q = m * 2 ^ e := by
    rw [← hky]
    generalize hq : max ((Nat.log2 m : Int) + e - t.fb) (t.emin - t.fb) = q at hk
    have hn : (m : ℝ) * 2 ^ e = (m * 2 ^ (e - q).toNat : ℕ) * 2 ^ q := by
      rw [two_zpow_split (show q ≤ e by omega)]; push_cast; ring
    rw [hn, mul_div_cancel_right₀ _ (two_zpow_pos q).ne'] at hk
    rw [hn, le_antisymm (hk.le_of_le le_rfl) (hk.ge_of_ge le_rfl)]
  have harith : t.arith r neg m e = (t.encode neg (t.round r neg m e false).i (t.round r neg m e false).q, (t.round r neg m e false).flags) := by
    unfold FSpec.arith
    rw [if_neg (by simp [hb])]
  rw [harith]
  refine ⟨_, _, ((y.holds ht hb).dec_encode ht neg).1, ?_, ?_⟩
  · rw [← Rat.cast_inj (α := ℝ)]; simpa using hval
  · simp [Rounded.flags, y.inexact.mpr hval]

end
end Sys2Proof.Machine
end

section
/-! OBLIGATION. Floating-point words (O7). -/

namespace Sys2Proof.Machine

/-! ### Words of FP32 as codes -/

/-- The magnitude of an FP32 pattern. -/
def mag32 (x : Word) : Int := (x.extractLsb' 0 31).toNat
/-- Whether an FP32 pattern is a NaN. -/
def nanBits (x : Word) : Bool := decide (0x7F800000 < mag32 x)
/-- NV of a signalling NaN. -/
def sigBits (x : Word) : Flags := if nanBits x && !x.getLsbD 22 then fNV else 0
/-- The signed magnitude of an FP32 pattern, −0 equal to +0. -/
def key32 (x : Word) : Int := if x.getLsbD 31 then -(mag32 x) else mag32 x

theorem toNat_lt_width (x : Word) : x.toNat < 2 ^ fp32.width := x.isLt

theorem mag32_eq (x : Word) : mag32 x = (fp32.magOf x.toNat : ℕ) := by
  simp only [mag32, BitVec.extractLsb'_toNat]; rfl

theorem nanBits_eq (x : Word) : nanBits x = fp32.nanCode x.toNat := by
  rw [nanBits, mag32_eq, FSpec.nanCode, show fp32.infCode false = 0x7F800000 from rfl]
  exact decide_eq_decide.mpr (by norm_cast)

theorem key32_eq (x : Word) : key32 x = fp32.keyOf x.toNat := by
  rw [key32, mag32_eq]; rfl

theorem isNan_dec32 (x : Word) : (dec32 x).isNan = nanBits x := by
  rw [nanBits_eq]; exact FSpec.isNan_dec fp32_proper rfl (toNat_lt_width x)

theorem isSig_dec32 (x : Word) : (dec32 x).isSig = (nanBits x && !x.getLsbD 22) := by
  rw [nanBits_eq]; exact FSpec.isSig_dec fp32_proper rfl (toNat_lt_width x)

theorem sigFlags_dec32 (a b : Word) : sigFlags [dec32 a, dec32 b] = sigBits a ||| sigBits b := by
  rw [sigFlags, List.any_cons, List.any_cons, List.any_nil, Bool.or_false, isSig_dec32, isSig_dec32, sigBits, sigBits]
  cases nanBits a && !a.getLsbD 22 <;> cases nanBits b && !b.getLsbD 22 <;> rfl

/-- A pattern whose magnitude is that of infinity or 0. -/
theorem dec32_special {a : Word} (h : mag32 a = 0x7F800000 ∨ mag32 a = 0) :
    (mag32 a = 0x7F800000 ∧ dec32 a = .inf (a.getLsbD 31)) ∨ (mag32 a = 0 ∧ ∃ e, dec32 a = .fin (a.getLsbD 31) 0 e) := by
  rw [mag32_eq] at h ⊢
  have hi : fp32.infCode false = 0x7F800000 := rfl
  rcases FSpec.dec_cases fp32_proper rfl (toNat_lt_width a) with ⟨hn, -⟩ | ⟨-, hm, e⟩ | ⟨-, hm, m, e, hd, hv⟩
  · have := of_decide_eq_true hn
    rw [hi] at this
    omega
  · exact Or.inl ⟨by omega, e⟩
  · have h0 : fp32.magOf a.toNat = 0 := by omega
    rw [h0, FSpec.magVal_zero] at hv
    obtain rfl : m = 0 := by simpa [(pow2_pos e).ne'] using hv
    exact Or.inr ⟨by omega, e, hd⟩

/-! ### FAMIN and FCMP (R190, R197) -/

theorem famin32_eq (a b : Word) :
    famin32 a b = if nanBits a || nanBits b || mag32 a = mag32 b then wf32 (fp32.minMax false a.toNat b.toNat)
      else (if mag32 a < mag32 b then a else b, 0) := by
  simp only [famin32, isNan_dec32, mag32_eq, Nat.cast_inj, Nat.cast_lt]
  rfl

theorem fcmp32_eq (c : FCond) (a b : Word) :
    fcmp32 c a b =
      if nanBits a || nanBits b then
        (decide (c ∈ [.ne, .un]), if c ∈ [.lt, .le, .gt, .ge] then fNV else sigBits a ||| sigBits b)
      else (match c with
        | .eq => decide (key32 a = key32 b) | .ne => decide (key32 a ≠ key32 b)
        | .lt => decide (key32 a < key32 b) | .le => decide (key32 a ≤ key32 b)
        | .gt => decide (key32 b < key32 a) | .ge => decide (key32 b ≤ key32 a)
        | .un => false | .ord => true, 0) := by
  simp only [fcmp32, isNan_dec32, sigFlags_dec32]
  split
  · cases c <;> rfl
  · next h =>
    simp only [Bool.or_eq_true, not_or, Bool.not_eq_true] at h
    have hcmp : (dec32 a).cmp (dec32 b) = compare (key32 a) (key32 b) := by
      rw [nanBits_eq, nanBits_eq] at h
      rw [key32_eq, key32_eq]
      exact FSpec.cmp_dec fp32_proper rfl (toNat_lt_width a) (toNat_lt_width b) h.1 h.2
    rw [hcmp]
    cases c <;> simp only [ne_eq, compare_eq_iff_eq, compare_lt_iff_lt, compare_gt_iff_gt, not_lt]

/-! ### FRND, FSCALE and FEXPT (R193, R194, R196) -/

theorem misc_nan {a : Word} (r : Rnd) (b : Word) (h : nanBits a = true) :
    frnd32 r a = (0x7FC00000, sigBits a) ∧ fscale32 r a b = (0x7FC00000, sigBits a) ∧ fexpt32 a = (0x80000000, sigBits a) := by
  have hd := dec32_nan ((isNan_dec32 a).trans h)
  unfold frnd32 fscale32 fexpt32
  rw [hd, sigBits, h]
  exact ⟨rfl, rfl, rfl⟩

theorem misc_special {a : Word} (r : Rnd) (b : Word) (h : mag32 a = 0x7F800000 ∨ mag32 a = 0) :
    frnd32 r a = (a, 0) ∧ fscale32 r a b = (a, 0) ∧ fexpt32 a = (if mag32 a = 0 then 0x80000000 else 0x7FFFFFFF, 0) := by
  unfold frnd32 fscale32 fexpt32
  rcases dec32_special h with ⟨hm, hd⟩ | ⟨hm, e, hd⟩ <;> rw [hd, hm] <;> exact ⟨rfl, rfl, rfl⟩

section
variable {a : Word} {n : Bool} {m : ℕ} {e : Int} (hd : dec32 a = .fin n m e) (hm : 0 < m)
include hd hm

theorem frnd32_fin (r : Rnd) {v : ℚ} (hv : v = m * pow2 e) :
    ∃ k j i, NearestMultiple r n (fun q => q ≤ v) (fun q => q < v) 1 k ∧
      dec32 (frnd32 r a).1 = .fin n j i ∧ (j : ℚ) * pow2 i = k ∧ (frnd32 r a).2 = 0 := by
  obtain ⟨hlt, -, -, -⟩ := dec32_fin hd
  have near {k : ℕ} (h : Nearest r n (v : ℝ) k) : NearestMultiple r n (fun q => q ≤ v) (fun q => q < v) 1 k := by
    simpa only [Rat.cast_le, Rat.cast_lt] using nearestMultiple_one_iff.mpr h
  unfold frnd32
  rw [hd]
  dsimp only
  by_cases he : 0 ≤ e
  · have hk : v = (m * 2 ^ e.toNat : ℕ) := by rw [hv, pow2_split he]; simp [pow2]
    rw [if_pos (by simp [he])]
    exact ⟨m * 2 ^ e.toNat, m, e, near (by rw [hk, Rat.cast_natCast]; exact nearest_natCast r n _), hd, hv ▸ hk, rfl⟩
  · rw [if_neg (by simp [hm.ne', he])]
    obtain ⟨hk, -⟩ := roundAt_spec (r := r) (neg := n) (q := 0) (stands_exact hv) (fun h => by cases h)
    rw [zpow_zero, div_one] at hk
    revert hk
    generalize (roundAt r n m e false 0).1 = k
    intro hk
    by_cases h0 : k = 0
    · rw [if_pos h0]
      exact ⟨k, 0, -149, near hk, dec32_zero32 n, by simp [h0], rfl⟩
    · rw [if_neg h0]
      have hle : k ≤ 2 ^ 23 := by
        refine hk.le_of_le ?_
        have h1 : (m : ℝ) ≤ 2 ^ (24 : ℕ) := by exact_mod_cast hlt.le
        calc (v : ℝ) = m * 2 ^ e := by rw [hv]; simp
          _ ≤ 2 ^ (24 : ℕ) * 2 ^ (-1 : Int) := mul_le_mul h1 (two_zpow_le (by omega)) (two_zpow_pos e).le (by positivity)
          _ = (2 ^ 23 : ℕ) := by norm_num
      have hkpos : 0 < k := Nat.pos_of_ne_zero h0
      have hlog : Nat.log2 k ≤ 23 := Nat.lt_succ_iff.mp ((Nat.log2_lt h0).mpr (hle.trans_lt (by norm_num)))
      obtain ⟨j, i, hdec, hval, -⟩ := FSpec.arith_exact (r := .rtz) (neg := n) (m := k) (e := 0) fp32_proper hkpos (by exact_mod_cast hlog)
        (by decide) (by
          have : (k : ℝ) ≤ 2 ^ (23 : Int) := by exact_mod_cast hle
          simpa using this.trans (two_zpow_le (by decide)))
      have hw : (w32 (fp32.arith .rtz n k 0).1).toNat = (fp32.arith .rtz n k 0).1 :=
        Nat.mod_eq_of_lt (FSpec.arith_lt fp32_proper rfl (fp32.fine_exact k 0) hkpos)
      exact ⟨k, j, i, near hk, by rw [dec32, hw, hdec], by rw [hval]; simp [pow2], rfl⟩

theorem fexpt32_fin {v : ℚ} (hv : v = m * pow2 e) : ∃ z : Int, pow2 z ≤ v ∧ v < pow2 (z + 1) ∧ fexpt32 a = (BitVec.ofInt 32 z, 0) := by
  obtain ⟨h1, h2⟩ := (stands_exact hv).binade hm
  refine ⟨(Nat.log2 m : Int) + e, ?_, ?_, ?_⟩
  · rw [← Rat.cast_le (K := ℝ), cast_pow2]; exact h1
  · rw [← Rat.cast_lt (K := ℝ), cast_pow2]; exact h2
  · unfold fexpt32
    rw [hd]
    exact if_neg hm.ne'

theorem fscale32_fin (r : Rnd) (b : Word) {v : ℚ} (hv : v = m * pow2 e * pow2 b.toInt) :
    RoundedAt fp32 r n (fun q => q ≤ v) (fun q => q < v) (some (asCode (fscale32 r a b))) (overflowResult fp32 r n) := by
  obtain ⟨hlt, hmin, hmax, -⟩ := dec32_fin hd
  have hvR : (v : ℝ) = m * 2 ^ (e + b.toInt) := by
    rw [hv, zpow_add₀ two_ne_zero]; push_cast; rw [cast_pow2, cast_pow2]; ring
  have h1 : (1 : ℝ) ≤ m := by exact_mod_cast hm
  have h2 : (m : ℝ) < 2 ^ (24 : ℕ) := by exact_mod_cast hlt
  have below {k : Int} (hk : k ≤ -1024) : (m : ℝ) * 2 ^ (e + k) < 2 ^ (fp32.emin - fp32.fb - 1) :=
    calc (m : ℝ) * 2 ^ (e + k) < 2 ^ (24 : ℕ) * 2 ^ (e + k) := mul_lt_mul_of_pos_right h2 (two_zpow_pos _)
      _ = 2 ^ (24 + (e + k)) := by rw [zpow_add₀ two_ne_zero 24 (e + k)]; norm_cast
      _ ≤ 2 ^ (fp32.emin - fp32.fb - 1) := two_zpow_le (by simp only [fp32, FSpec.emin]; omega)
  have hpos (k : Int) : 0 < (m : ℝ) * 2 ^ (e + k) := mul_pos (by linarith) (two_zpow_pos _)
  have hcode : asCode (fscale32 r a b) = fp32.arith r n m (e + max (-1024) (min 1024 b.toInt)) := by
    unfold fscale32
    rw [hd]
    dsimp only
    rw [if_neg hm.ne', asCode_wf32 (FSpec.arith_lt fp32_proper rfl (fp32.fine_exact _ _) hm)]
  have key (k : Int) := roundedAt_arith (r := r) (neg := n) (e := e + k) (s := false) fp32_proper rfl hm (v := m * 2 ^ (e + k)) rfl (fp32.fine_exact _ _)
  rw [hcode]
  refine roundedAt_rat ?_
  rw [hvR]
  -- within the range of the model's clamp, and beyond each of its ends
  rcases lt_or_ge b.toInt (-1024) with h | h
  · rw [show max (-1024) (min 1024 b.toInt) = -1024 by omega]
    exact roundedAt_tiny (hpos _) (below h.le) (hpos _) (below le_rfl) (key _)
  rcases le_or_gt b.toInt 1024 with h' | h'
  · rw [show max (-1024) (min 1024 b.toInt) = b.toInt by omega]
    exact key _
  · rw [show max (-1024) (min 1024 b.toInt) = 1024 by omega]
    rw [FSpec.arith_huge fp32_proper rfl hm (by
      rw [show fp32.maxExp + fp32.fb + 1 = 128 by decide]
      omega)]
    refine roundedAt_huge fp32_proper ?_ _
    calc (2 : ℝ) ^ (fp32.maxExp + fp32.fb + 1) ≤ 2 ^ (e + b.toInt) :=
          two_zpow_le (by rw [show fp32.maxExp + fp32.fb + 1 = 128 by decide]; omega)
      _ ≤ m * 2 ^ (e + b.toInt) := le_mul_of_one_le_left (two_zpow_pos _).le h1

end

/-! ### Packed words (R191) -/

section
variable {t : FSpec} (ht : t.Proper) (hinf : t.inf = true) (r : Rnd)
include ht hinf

theorem FSpec.nan_lt : t.nan < 2 ^ t.width := by
  have h2 := ht.two_le_pow_fb
  have hq : 2 ^ (t.fb - 1) < 2 ^ t.fb := Nat.pow_lt_pow_right one_lt_two (by have := ht.fb; omega)
  have hn : t.nan = t.code false (2 ^ t.eb - 1) (2 ^ (t.fb - 1)) := by simp [FSpec.nan, FSpec.code, FSpec.sign, hinf]
  rw [hn]
  exact FSpec.code_lt (Nat.sub_lt (by positivity) one_pos) hq

/-- A sum is a code of the type. -/
theorem FSpec.add_code_lt (x y : Val) : (t.add r x y).1 < 2 ^ t.width := by
  have hn := FSpec.nan_lt ht hinf
  cases x with
  | nan s => exact hn
  | inf n => cases y with
    | nan s => exact hn
    | inf k => simp only [FSpec.add]; split; exacts [FSpec.infCode_lt, hn]
    | fin k m e => exact FSpec.infCode_lt
  | fin n m e => cases y with
    | nan s => exact hn
    | inf k => exact FSpec.infCode_lt
    | fin k m' e' => exact FSpec.add_lt t ht hinf r n k m m' e e'

/-- A product is a code of the type. -/
theorem FSpec.mul_code_lt (x y : Val) : (t.mul r x y).1 < 2 ^ t.width := by
  have hn := FSpec.nan_lt ht hinf
  cases x with
  | nan s => exact hn
  | inf n => cases y with
    | nan s => exact hn
    | inf k => exact FSpec.infCode_lt
    | fin k m e => simp only [FSpec.mul]; split; exacts [hn, FSpec.infCode_lt]
  | fin n m e => cases y with
    | nan s => exact hn
    | inf k => simp only [FSpec.mul]; split; exacts [hn, FSpec.infCode_lt]
    | fin k m' e' => exact FSpec.mul_lt t ht hinf r n k m m' e e'

/-- A fused sum is a code of the type. -/
theorem FSpec.fma_code_lt (x y z : Val) : (t.fma r x y z).1 < 2 ^ t.width := by
  have hn := FSpec.nan_lt ht hinf
  have choice {p : Prop} [Decidable p] {u v : ℕ × Flags} (hu : u.1 < 2 ^ t.width) (hv : v.1 < 2 ^ t.width) :
      (if p then u else v).1 < 2 ^ t.width := by split; exacts [hu, hv]
  refine choice hn (choice hn ?_)
  split
  · exact FSpec.add_lt t ht hinf r _ _ _ _ _ _
  · exact FSpec.infCode_lt
  · exact choice FSpec.infCode_lt hn
  · exact FSpec.infCode_lt

/-- A larger or smaller operand is a code of the type. -/
theorem FSpec.minMax_lt (big : Bool) {a b : ℕ} (ha : a < 2 ^ t.width) (hb : b < 2 ^ t.width) : (t.minMax big a b).1 < 2 ^ t.width := by
  rw [FSpec.minMax_eq ht hinf big ha hb]
  dsimp only
  split
  · exact FSpec.nan_lt ht hinf
  split
  · exact hb
  split
  · exact ha
  split
  · exact ha
  · exact hb

end

/-- A half of a word. -/
def half32 (w : Word) (k : ℕ) : ℕ := (w.extractLsb' (16 * k) 16).toNat

theorem packed2_halves (f : ℕ → ℕ → ℕ → ℕ × Flags) (a b c : Word)
    (h0 : (f (half32 a 0) (half32 b 0) (half32 c 0)).1 < 2 ^ 16) (h1 : (f (half32 a 1) (half32 b 1) (half32 c 1)).1 < 2 ^ 16) :
    half32 (packed2 f a b c).1 0 = (f (half32 a 0) (half32 b 0) (half32 c 0)).1 ∧
    half32 (packed2 f a b c).1 1 = (f (half32 a 1) (half32 b 1) (half32 c 1)).1 ∧
    (packed2 f a b c).2 = (f (half32 a 0) (half32 b 0) (half32 c 0)).2 ||| (f (half32 a 1) (half32 b 1) (half32 c 1)).2 := by
  have hfld (w : Word) (k : ℕ) : fld w (16 * k + 15) (16 * k) = half32 w k := by
    rw [half32, BitVec.extractLsb'_toNat, fld]
    congr 2; omega
  simp only [packed2, hfld]
  generalize f (half32 a 0) (half32 b 0) (half32 c 0) = x at *
  generalize f (half32 a 1) (half32 b 1) (half32 c 1) = y at *
  refine ⟨?_, ?_, trivial⟩
  · simp only [half32, BitVec.extractLsb'_toNat, BitVec.toNat_ofNat, Nat.shiftRight_eq_div_pow]
    omega
  · simp only [half32, BitVec.extractLsb'_toNat, BitVec.toNat_ofNat, Nat.shiftRight_eq_div_pow]
    omega

/-! ### Settling O7 -/

/-- Settles O7: the words complete by `State.setFloat_result`; their results by the order of codes (`FSpec.minMax_eq`,
`FSpec.cmp_dec`) and by the rounding of the exact number. -/
theorem floatResults : Obligations.FloatResults := by
  unfold Obligations.FloatResults
  refine ⟨?_, ?_, ?_, ?_, packed2_halves⟩
  · intro s d e a b r hb x y z f f3 h
    have word (i : Instr) (p : Pipe) (d : Dst) (g : ℕ → Word × Flags) (hx : exec i s = .next (s.setFloat p d g)) :
        Answers i s fun t => FloatResult s t p d g := answers_float hx hb fun _ => rfl
    refine ⟨word _ _ _ _ rfl, word _ _ _ _ rfl, word _ _ _ _ rfl, word _ _ _ _ rfl, word _ _ _ _ rfl, word _ _ _ _ rfl, word _ _ _ _ rfl,
      word _ _ _ _ rfl, word _ _ _ _ rfl, word _ _ _ _ rfl, word _ _ _ _ rfl, word _ _ _ _ rfl, word _ _ _ _ rfl, word _ _ _ _ rfl,
      word _ _ _ _ rfl, word _ _ _ _ rfl, word _ _ _ _ rfl, word _ _ _ _ rfl, word _ _ _ _ rfl, word _ _ _ _ rfl, word _ _ _ _ rfl,
      word _ _ _ _ rfl, word _ _ _ _ rfl, word _ _ _ _ rfl, word _ _ _ _ rfl, word _ _ _ _ rfl, word _ _ _ _ rfl⟩
  · intro t big a b ht ha hb mag nan sig rank
    have hl : t ∈ [fp32, bf16, fp16, e4m3, e5m2] := List.mem_append_left [e4m3, e5m2] ht
    exact FSpec.minMax_eq (proper_of_mem hl) (inf_of_mem ht) big ha hb
  · intro r a b mag nan sig key
    exact ⟨famin32_eq a b, fun c => fcmp32_eq c a b, misc_nan r b, misc_special r b,
      fun n m e hd hm => ⟨frnd32_fin hd hm r rfl, fscale32_fin hd hm r b rfl, fexpt32_fin hd hm rfl⟩⟩
  · intro t r a b c ht ha hb _
    have hw : t.width = 16 := by
      simp only [List.mem_cons, List.not_mem_nil, or_false] at ht
      rcases ht with rfl | rfl <;> rfl
    have hp := proper_of_mem (List.mem_cons_of_mem _ (List.mem_append_left [e4m3, e5m2] ht))
    have hinf := inf_of_mem (List.mem_cons_of_mem _ ht)
    rw [← hw] at ha hb ⊢
    exact ⟨FSpec.add_code_lt hp hinf r _ _, FSpec.mul_code_lt hp hinf r _ _, FSpec.fma_code_lt hp hinf r _ _ _,
      FSpec.minMax_lt hp hinf true ha hb⟩

end Sys2Proof.Machine
end

section
/-! OBLIGATION. Conversions (O9). -/

namespace Sys2Proof.Machine

/-! ### Words none of whose lanes traps -/

/-- A trap of no lane is the effect alone. -/
theorem State.trapLanes_empty (s : State) (code : TrapCode) (eff : State → State) (detail : ℕ) : s.trapLanes 0 code eff detail = eff s := by
  have hnone : lanesOf 0 = [] := by decide
  unfold State.trapLanes State.trapping
  rw [hnone]
  rfl

/-- A conversion that has a value in each lane of Active() writes it. -/
theorem State.setConv_isSome (s : State) (d : Dst) {f : ℕ → Option (Word × Flags)}
    (h : ∀ l, l < 32 → s.cur.mask.getLsbD l → (f l).isSome) : s.setConv d f = s.setFloat .x d fun l => (f l).getD (0, 0) := by
  have hnone : maskOf (fun l => s.cur.mask.getLsbD l && (f l).isNone) = 0 := by
    refine BitVec.eq_of_getLsbD_eq fun l hl => ?_
    rw [getLsbD_maskOf, decide_eq_true hl, Bool.true_and]
    cases hm : s.cur.mask.getLsbD l with
    | false => exact BitVec.getLsbD_zero.symm
    | true => simp [Option.isNone_eq_false_iff.mpr (h l hl hm)]
  unfold State.setConv
  rw [hnone, State.trapLanes_empty]

theorem answers_conv {i : Instr} {s : State} {d : Dst} {f : ℕ → Option (Word × Flags)} (hx : exec i s = .next (s.setConv d f))
    (hb : s.bodyLanes s.cur.mask = 0) (h : ∀ l, l < 32 → s.cur.mask.getLsbD l → (f l).isSome) :
    Answers i s fun t => FloatResult s t .x d fun l => (f l).getD (0, 0) :=
  answers_float (hx.trans (congrArg _ (s.setConv_isSome d h))) hb fun _ => rfl

/-! ### Counting in a matrix exception counter (R85, R86) -/

/-- A state differs from another in counter k of the issuing thread's launch on its core alone, which stands n higher, or at
its limit. -/
structure MxCounted (k n : ℕ) (s t : State) : Prop where
  frame : t = { s with lcs := t.lcs }
  others : ∀ i, i ≠ s.me.lc → t.lc i = s.lc i
  lc : t.lc s.me.lc = { s.lc s.me.lc with mx := (t.lc s.me.lc).mx }
  count : (rd 0 (t.lc s.me.lc).mx k).toNat = min ((rd 0 (s.lc s.me.lc).mx k).toNat + n) (2 ^ 32 - 1)
  rest : ∀ j, j ≠ k → rd 0 (t.lc s.me.lc).mx j = rd 0 (s.lc s.me.lc).mx j

theorem MxCounted.refl (k : ℕ) (s : State) : MxCounted k 0 s s where
  frame := rfl
  others _ _ := rfl
  lc := rfl
  count := by have := (rd 0 (s.lc s.me.lc).mx k).isLt; omega
  rest _ _ := rfl

theorem MxCounted.me {k n : ℕ} {s t : State} (h : MxCounted k n s t) : t.me = s.me := by rw [h.frame]; rfl

theorem MxCounted.addMx {k n : ℕ} {s t : State} (h : MxCounted k n s t) (m : ℕ) : MxCounted k (n + m) s (t.addMx t.me.lc k m) := by
  rw [h.me]
  unfold State.addMx
  by_cases hm : m = 0
  · rw [if_pos hm, hm]
    exact h
  rw [if_neg hm]
  have hlc := State.lc_mapLC t s.me.lc
  exact {
    frame := by rw [State.mapLC]; conv_lhs => rw [h.frame]
    others := fun i hi => by rw [hlc, if_neg hi, h.others i hi]
    lc := by rw [hlc, if_pos rfl, h.lc]
    count := by
      rw [hlc, if_pos rfl, rd_wr_same, mxAdd, BitVec.toNat_ofNat, h.count]
      omega
    rest := fun j hj => by rw [hlc, if_pos rfl, rd_wr_other _ _ _ _ _ hj, h.rest j hj] }

/-- Counting leaves which lanes are in a body. -/
theorem MxCounted.bodyStep {k n : ℕ} {s t : State} (h : MxCounted k n s t) (l : ℕ) : t.bodyStep s.cur.tid l = s.bodyStep s.cur.tid l := by
  have hasid : t.ctxOf s.cur.tid = s.ctxOf s.cur.tid := by
    have hme : t.thread s.cur.tid = s.thread s.cur.tid := by rw [h.frame]; rfl
    have := congrArg LC.asid h.lc
    rw [State.ctxOf, State.lcOf, hme]
    exact this
  have hunit : t.unitOf s.cur.tid = s.unitOf s.cur.tid := by
    rw [State.unitOf, hasid, h.frame]; rfl
  unfold State.bodyStep State.regionStep
  rw [hunit, h.frame]
  rfl

/-- What the lanes of Active() count outside a body. -/
theorem State.countLanes_result (s : State) (k : ℕ) (f : ℕ → ℕ) (h : s.bodyLanes s.cur.mask = 0) :
    MxCounted k ((lanesOf s.cur.mask).map f).sum s (s.countLanes k f) := by
  have gen : ∀ (ls : List ℕ) (u : State) (n : ℕ), MxCounted k n s u → (∀ l ∈ ls, s.bodyStep s.cur.tid l = none) →
      MxCounted k (n + (ls.map f).sum) s (ls.foldl (fun s l =>
        if f l = 0 then s
        else if (s.bodyStep s.cur.tid l).isSome then
          s.mapStep s.cur.tid l fun st => { st with mx := wr 0 st.mx k (rd 0 st.mx k + f l) }
        else s.addMx s.me.lc k (f l)) u) := by
    intro ls
    induction ls with
    | nil => intro u n hu _; exact hu
    | cons l ls ih =>
      intro u n hu hls
      have hcur : u.cur.tid = s.cur.tid := by rw [hu.frame]
      have hbody : u.bodyStep u.cur.tid l = none := by rw [hcur, hu.bodyStep l]; exact hls l (List.mem_cons_self ..)
      rw [List.foldl_cons, List.map_cons, List.sum_cons, ← Nat.add_assoc]
      refine ih _ _ ?_ fun k hk => hls k (List.mem_cons_of_mem _ hk)
      by_cases hf : f l = 0
      · rw [if_pos hf, hf]; exact hu
      · rw [if_neg hf, hbody, if_neg (by simp)]
        exact hu.addMx (f l)
  have := gen (lanesOf s.cur.mask) s 0 (MxCounted.refl k s) fun l hl =>
    State.bodyStep_none h ((mem_lanesOf _ _).mp hl).1 ((mem_lanesOf _ _).mp hl).2
  rwa [Nat.zero_add] at this

/-! ### QUNPACK -/

/-- The elements that QUNPACK reads of a lane, unpacked. -/
def State.unpacked (s : State) (fmt : Fmt) (a : Src) (l : ℕ) : List (Word × Flags) :=
  (List.range (groupSize fmt)).map fun i => qunpackElem (fmtType fmt) (fmtAdj fmt) (elemOf (fmtType fmt) (s.src l a) i)

/-- The T elements of code 10 among them. -/
def State.badElems (s : State) (fmt : Fmt) (a : Src) (l : ℕ) : ℕ :=
  ((List.range (groupSize fmt)).filter fun i => elemOf 7 (s.src l a) i = 2).length

/-- What QUNPACK does with a slot that it accepts. -/
theorem exec_qunpack {s : State} {e : LReg} {a : Src} {slot : FSlot} (h : s.unpackSlotOk (s.fmtOf s.cur.tid slot) e.toNat) :
    exec (.qunpack e a slot) s = .next (
      let fmt := s.fmtOf s.cur.tid slot
      let v := (s.setGroup e.toNat fun l => (s.unpacked fmt a l).map (·.1)).addFlags fun l => (s.unpacked fmt a l).foldl (fun x y => x ||| y.2) 0
      if fmtType fmt = 7 then v.countLanes 0 (s.badElems fmt a) else v) := by
  show execQunpack e a slot s = _
  unfold execQunpack
  rw [State.laneWise_free]
  dsimp only
  rw [if_neg (by simp [h])]
  rfl

/-- Raising flags leaves which lanes are in a body. -/
theorem bodyLanes_of_flags {u v : State} {f : Flags} (h : OnlyThread u.cur.tid u v) (hme : v.me = { u.me with fflags := f }) (m : Mask) :
    v.bodyLanes m = u.bodyLanes m := by
  have hc : v.cur = u.cur := by rw [h.1]
  have hthread : v.thread u.cur.tid = { u.thread u.cur.tid with fflags := f } := by
    rw [State.me, hc] at hme; exact hme
  refine BitVec.eq_of_getLsbD_eq fun l _ => ?_
  simp only [State.bodyLanes, getLsbD_maskOf, hc]
  rw [State.bodyStep_congr (s := u) (t := v) (by rw [h.1]) (by rw [h.1]) (by rw [hthread]) (by rw [hthread]) (by rw [hthread]; rfl)
    (by rw [hthread]) hc]

/-- A group of registers with flags: all that it does outside a body, and what counting after it still finds. -/
theorem State.groupFlags_result (s : State) (d : ℕ) (out : ℕ → List (Word × Flags)) (flags : ℕ → Flags) (h : s.bodyLanes s.cur.mask = 0) :
    ∃ u v, (s.setGroup d fun l => (out l).map (·.1)).addFlags flags = v ∧ GroupResult s u d (fun l => (out l).map (·.1)) ∧
      OnlyThread s.cur.tid u v ∧ v.me = { u.me with fflags := (lanesOf s.cur.mask).foldl (fun f l => f ||| flags l) s.me.fflags } ∧
      v.cur = s.cur ∧ v.me.lc = s.me.lc ∧ v.lcs = s.lcs ∧ v.bodyLanes s.cur.mask = 0 := by
  have hgroup := s.setGroup_result d fun l => (out l).map (·.1)
  generalize s.setGroup d (fun l => (out l).map (·.1)) = u at hgroup
  have hcur : u.cur = s.cur := by rw [hgroup.1.1.1]
  have hhold (l : ℕ) (hl : l < 32) : (u.me.lane l).hold = (s.me.lane l).hold := by rw [(hgroup.2 l hl).1]
  have hbody (m : Mask) : u.bodyLanes m = s.bodyLanes m := hgroup.1.bodyLanes hhold m
  obtain ⟨hthread, hme⟩ := u.addFlags_result flags (by rw [hcur, hbody, h])
  have hflags : u.me.fflags = s.me.fflags := by rw [hgroup.1.2]
  rw [hcur, hflags] at hme
  rw [hcur] at hthread
  generalize u.addFlags flags = v at hthread hme
  have hvcur : v.cur = u.cur := by rw [hthread.1]
  have hvlanes : v.bodyLanes s.cur.mask = u.bodyLanes s.cur.mask :=
    bodyLanes_of_flags (hcur ▸ hthread) hme _
  exact ⟨u, v, rfl, hgroup, hthread, hme, hvcur.trans hcur, by rw [hme, hgroup.1.2], by rw [hthread.1, hgroup.1.1.1], by rw [hvlanes, hbody, h]⟩

theorem qunpack_result {s : State} {e : LReg} {a : Src} {slot : FSlot} (hb : s.bodyLanes s.cur.mask = 0)
    (h : s.unpackSlotOk (s.fmtOf s.cur.tid slot) e.toNat) :
    let fmt := s.fmtOf s.cur.tid slot
    Answers (.qunpack e a slot) s fun t =>
      ∃ u v, GroupResult s u e.toNat (fun l => (s.unpacked fmt a l).map (·.1)) ∧ OnlyThread s.cur.tid u v ∧
        v.me = { u.me with fflags := (lanesOf s.cur.mask).foldl (fun f l => f ||| (s.unpacked fmt a l).foldl (fun f y => f ||| y.2) 0) s.me.fflags } ∧
        v.me.lc = s.me.lc ∧ v.lcs = s.lcs ∧
        MxCounted 0 ((lanesOf s.cur.mask).map fun l => if fmtType fmt = 7 then s.badElems fmt a l else 0).sum v t := by
  intro fmt
  refine ⟨_, exec_qunpack h, ?_⟩
  obtain ⟨u, v, hv, hgroup, hthread, hme, hcur, hlc, hlcs, hbody⟩ := s.groupFlags_result e.toNat (s.unpacked fmt a)
    (fun l => (s.unpacked fmt a l).foldl (fun x y => x ||| y.2) 0) hb
  refine ⟨u, v, hgroup, hthread, hme, hlc, hlcs, ?_⟩
  dsimp only
  rw [hv]
  by_cases ht : fmtType fmt = 7
  · rw [if_pos ht]
    simp only [ht, if_true]
    have := v.countLanes_result 0 (s.badElems fmt a) (by rw [hcur, hbody])
    rwa [hcur] at this
  · rw [if_neg ht]
    simp only [ht, if_false]
    rw [show (List.map (fun _ => 0) (lanesOf s.cur.mask)).sum = 0 by simp]
    exact MxCounted.refl 0 v

/-! ### Settling O9 -/

/-- Settles O9: a conversion with a value in each lane is a floating-point word (`State.setConv_isSome`), and QUNPACK writes its
group, raises its flags and counts (`qunpack_result`). -/
theorem conversionResults : Obligations.ConversionResults := by
  unfold Obligations.ConversionResults
  intro s d e a ft it pol r slot hb x fmt some_
  refine ⟨answers_conv rfl hb, answers_conv rfl hb, answers_float rfl hb fun _ => rfl, answers_float rfl hb fun _ => rfl, fun hok => ?_,
    fun hok => ?_, fun hok => ?_⟩
  · refine answers_conv ?_ hb
    show execQpack d e slot pol r s = _
    unfold execQpack
    rw [State.laneWise_free]
    dsimp only
    rw [if_neg (by simp [fmt] at hok; simp [hok])]
  · refine answers_conv ?_ hb
    show execI8pack d e pol s = _
    unfold execI8pack
    rw [State.laneWise_free, if_neg (by simp [hok])]
  · obtain ⟨t, ht, u, v, hgroup, hthread, hme, hlc, hlcs, hn⟩ := qunpack_result (a := a) hb hok
    have hcv (i : ℕ) : v.lc i = s.lc i := by rw [State.lc, State.lc, hlcs]
    refine ⟨t, ht, u, v, hgroup, hthread, hme, hn.frame, fun i hi => ?_, ?_, ?_, fun k hk => ?_⟩
    · rw [hn.others i (by rwa [hlc]), hcv]
    · have := hn.lc
      rwa [hlc, hcv] at this
    · have := hn.count
      rwa [hlc, hcv] at this
    · have := hn.rest k hk
      rwa [hlc, hcv] at this

end Sys2Proof.Machine
end

section
/-! OBLIGATION. Words on tiles (O28). -/

namespace Sys2Proof.Machine

/-! ### The state that refutes it -/

/-- A TWR of one cell of lane 0 issues for thread 0, which stands on core 0, in a group that was begun on core 1. -/
def strayWriter : State :=
  { cur := { mask := 1, run := 1, old := { core := 1, regs := 2, w := [2 ^ 16], lanes := [{ v := [1] }] } } }

set_option maxRecDepth 4096 in
/-- The cell that the word names is written in the tile of core 1, and the tile of the thread's own core keeps 0. -/
theorem strayWriter_writes : ∃ t, exec (.twr 0 0) strayWriter = .next t ∧ ((t.unitOf 0).tile 0).cell 0 0 = 0 := by
  refine ⟨_, rfl, ?_⟩
  decide

/-- What the statement says of the cell in row 0, of a tile that nothing covers. -/
theorem cell_of_tileWordResults (h : Obligations.TileWordResults) {s : State} (htop : s.Top) (hmask : s.cur.mask.getLsbD 0 = true)
    (hdesc : s.descBad 0 1 2 true = false) (hd : s.tileDesc 0 = (1, 0, 0)) (hlinks : ((s.unitOf s.cur.tid).tile 0).links = [])
    (hcovers : ((s.unitOf s.cur.tid).tile 0).covers = []) (hdone : ∀ k, k < 64 → (s.unitOf s.cur.tid).tagDone s.cur.old.core k = false)
    (hfree : s.waitOver s.cur.tid (.tileFree 0 s.grantOf) = true) :
    ∃ t, exec (.twr 0 0) s = .next t ∧ ((t.unitOf s.cur.tid).tile 0).cell 0 0 = sintOf 48 (s.vpair 0 0) := by
  have hne : s.cur.mask ≠ 0 := fun h0 => by simp [h0] at hmask
  obtain ⟨-, -, -, -, -, h⟩ := h s 0 0 0 false htop hne
  obtain ⟨t, ht, h⟩ := h hdesc hlinks hcovers hdone
  dsimp only at h
  rw [if_pos (show s.waitOver s.cur.tid (.tileFree (0 : TReg).toNat s.grantOf) = true from hfree)] at h
  have hcell := h.2 0 0 (by omega) (by omega)
  rw [hd, if_pos ⟨hmask, Nat.zero_le _, Nat.zero_lt_one⟩] at hcell
  exact ⟨t, ht, hcell⟩

/-- Refutes O28: TWR writes the tile of the core on which its group was begun, and the statement speaks of the tile of the core
on which the thread stands. Of a state in which the two differ, as in strayWriter, it asks that the word writes a tile that it
leaves alone. -/
theorem not_tileWordResults : ¬ Obligations.TileWordResults := by
  intro h
  obtain ⟨t, ht, hcell⟩ := strayWriter_writes
  obtain ⟨t', ht', hcell'⟩ := cell_of_tileWordResults h (s := strayWriter) ⟨rfl, by decide⟩ (by decide) (by decide) (by decide) (by decide)
    (by decide) (by decide) (by decide)
  rw [ht, Host.Outcome.next.injEq] at ht'
  subst ht'
  exact absurd (hcell.symm.trans hcell') (by decide)

end Sys2Proof.Machine
end

section
/-! OBLIGATION. Deadlines and posted faults (O37). -/

namespace Sys2Proof.Machine

/-! ### What events and records leave of a core's region -/

/-- Nothing but domains differs, which of them run does not, and on every core the region does not. -/
structure Booked (s t : State) : Prop where
  frame : t = { s with domains := t.domains }
  running : ∀ k, (t.domain k).running = (s.domain k).running
  region : ∀ a c, (t.unit a c).region = (s.unit a c).region

theorem Booked.refl (s : State) : Booked s s := ⟨rfl, fun _ => rfl, fun _ _ => rfl⟩

theorem Booked.trans {s t u : State} (h : Booked s t) (k : Booked t u) : Booked s u where
  frame := by rw [k.frame, h.frame]
  running n := (k.running n).trans (h.running n)
  region a c := (k.region a c).trans (h.region a c)

theorem Booked.ite {c : Prop} [Decidable c] {s t u : State} (ht : Booked s t) (hu : Booked s u) : Booked s (if c then t else u) := by
  split
  · exact ht
  · exact hu

theorem Booked.thread {s t : State} (h : Booked s t) (k : ℕ) : t.thread k = s.thread k := by
  rw [h.frame]; rfl

theorem Booked.unitOf_region {s t : State} (h : Booked s t) (tid : ℕ) : (t.unitOf tid).region = (s.unitOf tid).region := by
  have hctx : t.ctxOf tid = s.ctxOf tid := by rw [h.frame]; rfl
  rw [State.unitOf, State.unitOf, hctx, h.thread, h.region]

theorem booked_charge (s : State) (asid : ℕ) (r : FaultRec) : Booked s (s.charge asid r) where
  frame := rfl
  running k := by rw [State.charge, State.domain_mapDomain]; split <;> simp [*]
  region a c := by rw [State.unit, State.charge, State.domain_mapDomain]; split <;> simp [*, State.unit]

/-- A change of one core's unit that leaves its region. -/
theorem booked_mapUnit (s : State) (asid core : ℕ) {f : Unit_ → Unit_} (hf : ∀ u, (f u).region = u.region) :
    Booked s (s.mapUnit asid core f) where
  frame := rfl
  running k := by rw [State.mapUnit, State.domain_mapDomain]; split <;> simp [*]
  region a c := by
    rw [State.unit, State.mapUnit, State.domain_mapDomain]
    split
    · next e =>
      rw [e, rd_upd]
      split
      · next e' => rw [hf, e', State.unit]
      · rfl
    · rfl

theorem booked_countBy (s : State) (tid event n : ℕ) : Booked s (s.countBy tid event n) :=
  .ite (.ite (.refl s) (booked_mapUnit _ _ _ fun _ => rfl)) (.refl s)

/-! ### The records of lanes -/

/-- What the statement says of a record. -/
def FaultRec.key (r : FaultRec) : TrapCode × ℕ × ℕ × Word := (r.code, r.kind, r.lane, r.pc)

/-- Records of these keys, and no others, are added to those of a domain. -/
def Charged (dom : ℕ) (s t : State) (xs : List (TrapCode × ℕ × ℕ × Word)) : Prop :=
  ∃ rs, (t.domain dom).records = (s.domain dom).records ++ rs ∧ rs.map FaultRec.key = xs ∧ ∀ r, r ∈ rs → r.domain = dom

theorem charged_charge (dom : ℕ) (s : State) (r : FaultRec) : Charged dom s (s.charge dom r) [r.key] :=
  ⟨[{ r with domain := dom }], by rw [State.records_charge, if_pos rfl], rfl, by simp⟩

/-- One record for each lane of a list, after events that add none. -/
theorem charged_each {s : State} {tid dom : ℕ} {step : State → State} {rec_ : State → ℕ → FaultRec} {key : ℕ → TrapCode × ℕ × ℕ × Word}
    (hstep : ∀ u, SameRecords u (step u) ∧ Booked u (step u)) (hkey : ∀ u l, u.thread tid = s.thread tid → (rec_ u l).key = key l)
    (ls : List ℕ) :
    Booked s (ls.foldl (fun u l => (step u).charge dom (rec_ u l)) s) ∧
      Charged dom s (ls.foldl (fun u l => (step u).charge dom (rec_ u l)) s) (ls.map key) := by
  induction ls using List.reverseRecOn with
  | nil => exact ⟨.refl s, [], by simp, rfl, by simp⟩
  | append_singleton ls l ih =>
    simp only [List.foldl_append, List.foldl_cons, List.foldl_nil, List.map_append, List.map_cons, List.map_nil]
    generalize ls.foldl (fun u l => (step u).charge dom (rec_ u l)) s = u at ih
    obtain ⟨hb, rs, hrs, hkeys, hdom⟩ := ih
    obtain ⟨hsame, hstep⟩ := hstep u
    refine ⟨hb.trans (hstep.trans (booked_charge ..)), rs ++ [{ rec_ u l with domain := dom }], ?_, ?_, fun r hr => ?_⟩
    · rw [State.records_charge, if_pos rfl, hsame.2, hrs, List.append_assoc]
    · rw [List.map_append, hkeys, ← hkey u l (hb.thread tid)]; rfl
    · rcases List.mem_append.mp hr with h | h
      · exact hdom r h
      · rw [List.mem_singleton.mp h]

/-! ### Lanes that park at a boundary -/

/-- A lane of a thread that parks at a run boundary. -/
theorem Thread.lane_parkAtBoundary (t : Thread) (m : Mask) (l : ℕ) (hl : l < 32) : (t.parkAtBoundary m).lane l =
    if m.getLsbD l then { t.lane l with st := .parked, hold := .no, latch := [], kept := none } else t.lane l :=
  t.lane_mapLanes (fun l L => if m.getLsbD l then { L with st := .parked, hold := .no, latch := [], kept := none } else L) l hl

/-- A run that has not begun ends as its lanes park. -/
theorem Thread.run_parkAtBoundary {t : Thread} (h : t.atBoundary = true) (m : Mask) : (t.parkAtBoundary m).run = none :=
  if_pos h

/-- The unit of a thread that keeps its core and its launch-on-core. -/
theorem State.unitOf_mapThread {s : State} {tid : ℕ} {f : Thread → Thread} (hlc : (f (s.thread tid)).lc = (s.thread tid).lc)
    (hcore : (f (s.thread tid)).core = (s.thread tid).core) : (s.mapThread tid f).unitOf tid = s.unitOf tid := by
  simp only [State.unitOf, State.ctxOf, State.lcOf, State.thread_mapThread, if_true, hlc, hcore]
  rfl

/-- The step of a lane depends on the region alone. -/
theorem State.regionStep_congr {s t : State} {tid : ℕ} (h : (t.unitOf tid).region = (s.unitOf tid).region) (l : ℕ) :
    t.regionStep tid l = s.regionStep tid l := by
  simp only [State.regionStep, h]

/-- Whether the region of a thread's core has ended by a trap. -/
def State.regionTrapped (s : State) (tid : ℕ) : Option Bool := (s.unitOf tid).region.map (·.trap)

/-- The word at which a region holds the lanes of a thread that have passed its end. -/
def State.heldAt (s : State) (tid : ℕ) : Option ℕ := (s.unitOf tid).region.bind (·.rlxend)

theorem State.unitOf_markRegionTrap (s : State) (tid : ℕ) :
    ((s.markRegionTrap tid).unitOf tid).region = (s.unitOf tid).region.map fun r => { r with trap := true } :=
  congrArg Unit_.region (State.unit_mapUnit_same s (s.ctxOf tid) (s.thread tid).core _)

theorem State.heldAt_markParked (s : State) (tid : ℕ) (m : Mask) : (s.markParked tid m).heldAt tid = s.heldAt tid := by
  unfold State.markParked
  split
  · rw [State.heldAt, State.heldAt, State.unitOf_markRegionTrap]
    cases (s.unitOf tid).region <;> rfl
  · rfl

/-- A step lane that parks ends its region. -/
theorem State.regionTrapped_markParked {s : State} {tid : ℕ} {m : Mask}
    (h : ∃ l, l < 32 ∧ m.getLsbD l = true ∧ (s.regionStep tid l).isSome = true) :
    (s.markParked tid m).regionTrapped tid = some true := by
  obtain ⟨l, hl, hm, hstep⟩ := h
  have hany : ((lanesOf m).any fun l => (s.regionStep tid l).isSome) = true :=
    List.any_eq_true.mpr ⟨l, (mem_lanesOf m l).mpr ⟨hl, hm⟩, hstep⟩
  rw [State.markParked, if_pos hany, State.regionTrapped, State.unitOf_markRegionTrap]
  unfold State.regionStep at hstep
  cases hr : (s.unitOf tid).region with
  | none => simp [hr] at hstep
  | some r => rfl

/-! ### A deadline that has come -/

/-- What is charged for the lanes of a thread that park at their own words. -/
def Thread.recordKeys (o : Thread) (code : TrapCode) (kind : ℕ) (pc : ℕ → Word) (m : Mask) : List (TrapCode × ℕ × ℕ × Word) :=
  (lanesOf m).map fun l => (code, kind, if o.isLead then 255 else l, pc l)

/-- The records of the lanes whose deadline has come. -/
def State.chargeDeadline (s : State) (tid kind : ℕ) (m : Mask) : State :=
  (lanesOf m).foldl (fun u l => (u.countBy tid 14 1).charge (s.thread tid).dom (u.boundaryRecord tid l .timer kind)) s

theorem State.chargeDeadline_booked (s : State) (tid kind : ℕ) (m : Mask) :
    Booked s (s.chargeDeadline tid kind m) ∧ Charged (s.thread tid).dom s (s.chargeDeadline tid kind m)
      ((s.thread tid).recordKeys .timer kind (fun l => ((s.thread tid).lane l).pc) m) :=
  charged_each (fun u => ⟨sameRecords_countBy u tid 14 1, booked_countBy u tid 14 1⟩)
    (fun u l h => by rw [State.boundaryRecord, FaultRec.key, h]) _

/-- A thread with no deadline. -/
def Thread.timerOff (t : Thread) : Thread := { t with deadline := none }

/-- What TIMER_EXPIRE does where it finds lanes. -/
theorem execTimerExpire_eq {s : State} {tid n pc : ℕ} {m : Mask} (halive : (s.thread tid).alive = true)
    (hstop : (s.thread tid).stopped = false) (hrun : (s.domain (s.ctxOf tid)).running = true)
    (hb : (s.thread tid).atBoundary = true) (hd : (s.thread tid).deadline = some n) (hn : n ≤ (s.thread tid).wtime)
    (hlow : (s.thread tid).lowest = some (pc, m)) :
    execTimerExpire tid s = .next (
      let u := (s.chargeDeadline tid (if (s.thread tid).acts.isEmpty then 1 else 3) m).mapThread tid Thread.timerOff
      if (s.thread tid).acts.isEmpty then (u.markParked tid m).mapThread tid fun t => t.parkAtBoundary m
      else u.endActivation tid 1) := by
  simp only [execTimerExpire, halive, hstop, hrun, hb, hd, hlow, Option.any_some, hn, decide_true, Bool.not_true, Bool.or_false,
    Bool.false_eq_true, if_false]
  rfl

end Sys2Proof.Machine
end

section
/-! OBLIGATION. Deadlines and posted faults (O37), continued. -/

namespace Sys2Proof.Machine

/-- Outside an activation the lanes of a deadline that has come park. -/
theorem timerExpire_parks {s : State} {tid n pc : ℕ} {m : Mask} (halive : (s.thread tid).alive = true)
    (hstop : (s.thread tid).stopped = false) (hrun : (s.domain (s.ctxOf tid)).running = true)
    (hb : (s.thread tid).atBoundary = true) (hd : (s.thread tid).deadline = some n) (hn : n ≤ (s.thread tid).wtime)
    (hlow : (s.thread tid).lowest = some (pc, m)) (hacts : (s.thread tid).acts = []) :
    ∃ t, exec (.timerExpire tid) s = .next t ∧ t.mem = s.mem ∧ t.stores = s.stores ∧ (∀ k, k ≠ tid → t.thread k = s.thread k) ∧
      t.thread tid = (s.thread tid).timerOff.parkAtBoundary m ∧
      ((∃ l, l < 32 ∧ m.getLsbD l = true ∧ (s.regionStep tid l).isSome = true) → t.regionTrapped tid = some true) ∧
      Charged (s.thread tid).dom s t ((s.thread tid).recordKeys .timer 1 (fun l => ((s.thread tid).lane l).pc) m) := by
  have hempty : (s.thread tid).acts.isEmpty = true := by rw [hacts]; rfl
  have hexec := execTimerExpire_eq halive hstop hrun hb hd hn hlow
  simp only [hempty, if_true] at hexec
  refine ⟨_, hexec, ?_⟩
  obtain ⟨hbook, rs, hrs, hkeys, hdom⟩ := s.chargeDeadline_booked tid 1 m
  generalize s.chargeDeadline tid 1 m = u at hbook hrs
  have hsame := sameRecords_markParked (u.mapThread tid Thread.timerOff) tid m
  have hregion : ((u.mapThread tid Thread.timerOff).unitOf tid).region = (s.unitOf tid).region := by
    rw [State.unitOf_mapThread rfl rfl, hbook.unitOf_region]
  refine ⟨?_, ?_, fun k hk => ?_, ?_, fun h => ?_, rs, ?_, hkeys, hdom⟩
  · rw [State.mem_mapThread, hsame.1, hbook.frame]; rfl
  · rw [State.stores_mapThread, hsame.1, hbook.frame]; rfl
  · rw [State.thread_mapThread, if_neg hk, hsame.thread, State.thread_mapThread, if_neg hk, hbook.thread]
  · rw [State.thread_mapThread, if_pos rfl, hsame.thread, State.thread_mapThread, if_pos rfl, hbook.thread]
  · rw [State.regionTrapped, State.unitOf_mapThread rfl rfl]
    refine State.regionTrapped_markParked ?_
    simpa only [State.regionStep_congr hregion] using h
  · exact (hsame.2 _).trans hrs

/-- A thread that leaves its side keeps the windows of every core. -/
theorem State.windows_releaseSide (s : State) (tid k : ℕ) : ((s.releaseSide tid).core k).windows = (s.core k).windows := by
  dsimp only [State.releaseSide]
  split
  · rfl
  · rw [State.core_mapCore]
    split
    · next e => rw [e]
    · rfl

/-- What the end of an activation leaves. -/
theorem State.endActivation_result {s : State} {tid status : ℕ} {b : Banked} {bs : List Banked} (h : (s.thread tid).acts = b :: bs)
    (hrun : (s.domain (s.ctxOf tid)).running = true) :
    let t := s.endActivation tid status
    t.mem = s.mem ∧ (∀ k, k ≠ tid → t.thread k = s.thread k) ∧
      (t.stores.map fun y => { y with late := {} }) = (s.stores.map fun y => { y with late := {} }) ∧
      t.thread tid = (s.thread tid).failed b bs status ∧
      (t.core (s.thread tid).core).windows = (s.core (s.thread tid).core).windows - 1 ∧ t.domains = s.domains := by
  obtain ⟨cs, e⟩ := s.endActivation_eq tid status h
  refine ⟨by rw [e]; rfl, fun k hk => ?_, ?_, ?_, ?_, by rw [e]; rfl⟩
  · rw [e, State.thread_mapThread, if_neg hk]; rfl
  · rw [e]; exact State.stores_closeAccesses _ _ _
  · rw [e, State.thread_mapThread, if_pos rfl]; rfl
  · simp only [State.endActivation, h]
    rw [if_pos (show (((s.dropDests tid).closeAccesses tid (s.thread tid).gdepth).domain
      (((s.dropDests tid).closeAccesses tid (s.thread tid).gdepth).ctxOf tid)).running = true from hrun)]
    refine (State.windows_releaseSide _ tid (s.thread tid).core).trans ?_
    rw [State.freeWindow, State.core_mapCore, if_pos rfl]
    rfl

/-- In an activation a deadline that has come ends it. -/
theorem timerExpire_ends {s : State} {tid n pc : ℕ} {m : Mask} (halive : (s.thread tid).alive = true)
    (hstop : (s.thread tid).stopped = false) (hrun : (s.domain (s.ctxOf tid)).running = true)
    (hb : (s.thread tid).atBoundary = true) (hd : (s.thread tid).deadline = some n) (hn : n ≤ (s.thread tid).wtime)
    (hlow : (s.thread tid).lowest = some (pc, m)) {b : Banked} {bs : List Banked} (hacts : (s.thread tid).acts = b :: bs) :
    ∃ t, exec (.timerExpire tid) s = .next t ∧ t.mem = s.mem ∧ (∀ k, k ≠ tid → t.thread k = s.thread k) ∧
      (t.stores.map fun y => { y with late := {} }) = (s.stores.map fun y => { y with late := {} }) ∧
      t.thread tid = (s.thread tid).timerOff.failed b bs 1 ∧
      (t.core (s.thread tid).core).windows = (s.core (s.thread tid).core).windows - 1 ∧
      Charged (s.thread tid).dom s t ((s.thread tid).recordKeys .timer 3 (fun l => ((s.thread tid).lane l).pc) m) := by
  have hempty : (s.thread tid).acts.isEmpty = false := by rw [hacts]; rfl
  have hexec := execTimerExpire_eq halive hstop hrun hb hd hn hlow
  simp only [hempty, if_false, Bool.false_eq_true] at hexec
  refine ⟨_, hexec, ?_⟩
  obtain ⟨hbook, rs, hrs, hkeys, hdom⟩ := s.chargeDeadline_booked tid 3 m
  generalize s.chargeDeadline tid 3 m = u at hbook hrs
  set v := u.mapThread tid Thread.timerOff with hv
  have hthread : v.thread tid = (s.thread tid).timerOff := by
    rw [hv, State.thread_mapThread, if_pos rfl, hbook.thread]
  have hctx : v.ctxOf tid = s.ctxOf tid := by
    rw [State.ctxOf, State.lcOf, hthread, hv, hbook.frame]; rfl
  obtain ⟨hmem, hothers, hstores, hself, hwin, hdoms⟩ := v.endActivation_result (status := 1) (by rw [hthread]; exact hacts)
    (by rw [hctx, hv]; exact (hbook.running _).trans hrun)
  refine ⟨?_, fun k hk => ?_, ?_, ?_, ?_, rs, ?_, hkeys, hdom⟩
  · rw [hmem, hv, hbook.frame]; rfl
  · rw [hothers k hk, hv, State.thread_mapThread, if_neg hk, hbook.thread]
  · rw [hstores, hv, hbook.frame]; rfl
  · rw [hself, hthread]
  · rw [hthread] at hwin
    refine hwin.trans ?_
    rw [hv, hbook.frame]; rfl
  · rw [State.domain, hdoms]; exact hrs

/-! ### A posted fault -/

/-- Where a lane of a thread would next run, of lanes that a region holds at a word. -/
def Thread.nextPc (o : Thread) (held : Option ℕ) (l : ℕ) : Word :=
  match held with
  | some pc => if (o.lane l).hold = .region then BitVec.ofNat 32 (3 * (pc / 3 + 1)) else (o.lane l).pc
  | none => (o.lane l).pc

/-- A thread whose lanes of a mask leave the region that holds them. -/
def Thread.passRegion (o : Thread) (held : Option ℕ) (m : Mask) : Thread :=
  match held with
  | some pc => o.mapLanes fun l L =>
      if m.getLsbD l && L.hold = .region then { L with pc := BitVec.ofNat 32 (nextPacket pc) } else L
  | none => o

/-- A lane that leaves its region goes to the word after it. -/
theorem Thread.lane_passRegion (o : Thread) (held : Option ℕ) (m : Mask) {l : ℕ} (hl : l < 32) :
    (o.passRegion held m).lane l = if m.getLsbD l then { o.lane l with pc := o.nextPc held l } else o.lane l := by
  cases held with
  | none => simp only [Thread.passRegion, Thread.nextPc, ite_self]
  | some pc =>
    rw [Thread.passRegion, Thread.lane_mapLanes _ _ _ hl]
    by_cases hm : m.getLsbD l = true <;> by_cases hh : (o.lane l).hold = .region <;>
      simp [Thread.nextPc, hm, hh, nextPacket]

/-- A lane that parks after it has left its region. -/
theorem Thread.lane_parkAtBoundary_passRegion (o : Thread) (held : Option ℕ) (m : Mask) {l : ℕ} (hl : l < 32) :
    ((o.passRegion held m).parkAtBoundary m).lane l = if m.getLsbD l then
      { o.lane l with st := .parked, hold := .no, pc := o.nextPc held l, latch := [], kept := none } else o.lane l := by
  rw [Thread.lane_parkAtBoundary _ _ _ hl, Thread.lane_passRegion _ _ _ hl]
  by_cases hm : m.getLsbD l = true
  · rw [if_pos hm, if_pos hm, if_pos hm]
  · rw [if_neg hm, if_neg hm, if_neg hm]

theorem Thread.isLead_passRegion (o : Thread) (held : Option ℕ) (m : Mask) : (o.passRegion held m).isLead = o.isLead := by
  cases held <;> rfl

theorem Thread.atBoundary_passRegion (o : Thread) (held : Option ℕ) (m : Mask) : (o.passRegion held m).atBoundary = o.atBoundary := by
  cases held <;> rfl

/-- What the lanes that leave a region change. -/
theorem State.pastRegion_result (s : State) (tid : ℕ) (m : Mask) :
    let t := s.pastRegion tid m
    t = { s with threads := t.threads } ∧ (∀ k, k ≠ tid → t.thread k = s.thread k) ∧
      t.thread tid = (s.thread tid).passRegion (s.heldAt tid) m ∧ t.unitOf tid = s.unitOf tid := by
  unfold State.pastRegion State.heldAt
  split
  · next pc e =>
    rw [e]
    exact ⟨rfl, fun k hk => by rw [State.thread_mapThread, if_neg hk], by rw [State.thread_mapThread, if_pos rfl]; rfl,
      State.unitOf_mapThread rfl rfl⟩
  · next e =>
    rw [e]
    exact ⟨rfl, fun _ _ => rfl, rfl, rfl⟩

/-- The live lanes that a posted fault names. -/
def Thread.postedLanes (o : Thread) (p : Posted) : Mask := p.mask &&& o.lanesWith fun L => L.st = .live

/-- The events of a lane that parks by a posted fault. -/
def State.countPosted (s : State) (tid : ℕ) (code : TrapCode) : State :=
  if code = .xlate then (s.countBy tid 14 1).countBy tid 15 1 else s.countBy tid 14 1

/-- The records of the lanes that park by a posted fault. -/
def State.chargePosted (s : State) (tid dom : ℕ) (p : Posted) (m : Mask) : State :=
  (lanesOf m).foldl (fun u l => (u.countPosted tid p.code).charge dom
    { (u.countPosted tid p.code).boundaryRecord tid l p.code 2 with addr := p.addr, node := p.node }) s

theorem State.countPosted_books (s : State) (tid : ℕ) (code : TrapCode) :
    SameRecords s (s.countPosted tid code) ∧ Booked s (s.countPosted tid code) := by
  unfold State.countPosted
  split
  · exact ⟨(sameRecords_countBy ..).trans (sameRecords_countBy ..), (booked_countBy ..).trans (booked_countBy ..)⟩
  · exact ⟨sameRecords_countBy .., booked_countBy ..⟩

theorem State.chargePosted_booked (s : State) (tid dom : ℕ) (p : Posted) (m : Mask) :
    Booked s (s.chargePosted tid dom p m) ∧ Charged dom s (s.chargePosted tid dom p m)
      ((s.thread tid).recordKeys p.code 2 (fun l => ((s.thread tid).lane l).pc) m) := by
  refine charged_each (tid := tid) (fun u => u.countPosted_books tid p.code) (fun u l (h : u.thread tid = s.thread tid) => ?_) _
  rw [FaultRec.key, State.boundaryRecord, (u.countPosted_books tid p.code).1.thread, h]

/-- What POSTED_FAULT_DELIVER does where it finds a fault. -/
theorem execPostedFaultDeliver_eq {s : State} {tid : ℕ} (halive : (s.thread tid).alive = true)
    (hstop : (s.thread tid).stopped = false) (hrun : (s.domain (s.ctxOf tid)).running = true)
    (hb : (s.thread tid).atBoundary = true) {p : Posted} {ps : List Posted} (hp : (s.thread tid).posted = p :: ps)
    (hacts : (s.thread tid).acts = []) :
    execPostedFaultDeliver tid s = .next (
      if (s.thread tid).postedLanes p = 0 then
        (s.mapThread tid fun t => { t with posted := ps }).charge (p.dom.getD (s.ctxOf tid))
          { s.boundaryRecord tid 0 p.code 2 with lane := 255, pc := 0, addr := p.addr, node := p.node }
      else
        ((((s.markParked tid ((s.thread tid).postedLanes p)).pastRegion tid ((s.thread tid).postedLanes p)).chargePosted tid
          (p.dom.getD (s.ctxOf tid)) p ((s.thread tid).postedLanes p)).mapThread tid fun t =>
            { t.parkAtBoundary ((s.thread tid).postedLanes p) with posted := ps })) := by
  simp only [execPostedFaultDeliver, halive, hstop, hrun, hb, hp, hacts, Bool.not_true, Bool.or_false, List.isEmpty_nil,
    Bool.false_eq_true, if_false]
  rfl

/-- The live lanes that a posted fault names park. -/
theorem postedFaultDeliver_parks (s : State) (tid dom : ℕ) (p : Posted) (ps : List Posted) (m : Mask) :
    let t := ((((s.markParked tid m).pastRegion tid m).chargePosted tid dom p m).mapThread tid fun t =>
      { t.parkAtBoundary m with posted := ps })
    t.mem = s.mem ∧ t.stores = s.stores ∧ (∀ k, k ≠ tid → t.thread k = s.thread k) ∧
      t.thread tid = { ((s.thread tid).passRegion (s.heldAt tid) m).parkAtBoundary m with posted := ps } ∧
      ((∃ l, l < 32 ∧ m.getLsbD l = true ∧ (s.regionStep tid l).isSome = true) → t.regionTrapped tid = some true) ∧
      Charged dom s t ((s.thread tid).recordKeys p.code 2 ((s.thread tid).nextPc (s.heldAt tid)) m) := by
  have hsame := sameRecords_markParked s tid m
  obtain ⟨hframe, hothers, hself, hunit⟩ := (s.markParked tid m).pastRegion_result tid m
  have hregion : (∃ l, l < 32 ∧ m.getLsbD l = true ∧ (s.regionStep tid l).isSome = true) →
      ((s.markParked tid m).pastRegion tid m).regionTrapped tid = some true := fun h => by
    rw [State.regionTrapped, hunit]
    exact State.regionTrapped_markParked h
  rw [s.heldAt_markParked, hsame.thread] at hself
  generalize (s.markParked tid m).pastRegion tid m = u at *
  obtain ⟨hbook, rs, hrs, hkeys, hdom⟩ := u.chargePosted_booked tid dom p m
  generalize u.chargePosted tid dom p m = v at *
  refine ⟨?_, ?_, fun k hk => ?_, ?_, fun h => ?_, rs, ?_, ?_, hdom⟩
  · rw [State.mem_mapThread, hbook.frame, hframe, hsame.1]
  · rw [State.stores_mapThread, hbook.frame, hframe, hsame.1]
  · rw [State.thread_mapThread, if_neg hk, hbook.thread, hothers k hk, hsame.thread]
  · rw [State.thread_mapThread, if_pos rfl, hbook.thread, hself]
  · rw [← hregion h, State.regionTrapped, State.unitOf_mapThread rfl rfl, hbook.unitOf_region]; rfl
  · refine hrs.trans ?_
    rw [hframe]
    exact congrArg (· ++ rs) (hsame.2 dom)
  · rw [hkeys, hself]
    refine List.map_congr_left fun l hl => ?_
    obtain ⟨hl, hm⟩ := (mem_lanesOf m l).mp hl
    simp only [Thread.isLead_passRegion, Thread.lane_passRegion _ _ _ hl, hm, if_true]

/-- A posted fault of no live lane gives one record. -/
theorem postedFaultDeliver_none (s : State) (tid dom : ℕ) (p : Posted) (ps : List Posted) :
    let t := (s.mapThread tid fun t => { t with posted := ps }).charge dom
      { s.boundaryRecord tid 0 p.code 2 with lane := 255, pc := 0, addr := p.addr, node := p.node }
    t.mem = s.mem ∧ t.stores = s.stores ∧ (∀ k, k ≠ tid → t.thread k = s.thread k) ∧
      t.thread tid = { s.thread tid with posted := ps } ∧ Charged dom s t [(p.code, 2, 255, 0)] :=
  have hthread := s.thread_mapThread tid (f := fun t => { t with posted := ps })
  ⟨rfl, rfl, fun k hk => (hthread k).trans (if_neg hk), (hthread tid).trans (if_pos rfl),
    charged_charge dom (s.mapThread tid fun t => { t with posted := ps }) _⟩

/-! ### The statement -/

/-- Settles O37: records are charged lane by lane and leave threads and regions alone, so that the lanes park as they stood at the
boundary. -/
theorem boundaryTrapSteps : Obligations.BoundaryTrapSteps := by
  unfold Obligations.BoundaryTrapSteps
  intro s tid o asid byte charged at_ parks rest left halive hstop hrun hb
  refine ⟨fun n pc m hd hn hlow => ⟨fun hacts => ?_, fun b bs hacts => ?_⟩, fun p ps hp hacts =>
    ⟨_, execPostedFaultDeliver_eq halive hstop hrun hb hp hacts, ?_⟩⟩
  · obtain ⟨t, hexec, hmem, hstores, hothers, hself, htrap, hrec⟩ := timerExpire_parks halive hstop hrun hb hd hn hlow hacts
    refine ⟨t, hexec, ⟨hmem, hstores, hothers⟩, by rw [hself]; rfl, ⟨?_, htrap, fun l hl => ?_⟩, hrec⟩
    · rw [hself]; exact Thread.run_parkAtBoundary hb m
    · rw [hself]; exact Thread.lane_parkAtBoundary _ m l hl
  · obtain ⟨t, hexec, hmem, hothers, hstores, hself, hwin, hrec⟩ := timerExpire_ends halive hstop hrun hb hd hn hlow hacts
    exact ⟨t, hexec, ⟨hmem, hothers, hstores⟩, by rw [hself]; rfl, by rw [hself]; rfl, by rw [hself]; rfl, by rw [hself]; rfl, hwin, hrec⟩
  · change _ ∧ if o.postedLanes p = 0 then _ else _
    by_cases hlive : o.postedLanes p = 0
    · rw [if_pos hlive, if_pos hlive]
      obtain ⟨hmem, hstores, hothers, hself, hrec⟩ := postedFaultDeliver_none s tid (p.dom.getD asid) p ps
      exact ⟨⟨hmem, hstores, hothers⟩, hself, hrec⟩
    · rw [if_neg hlive, if_neg hlive]
      obtain ⟨hmem, hstores, hothers, hself, htrap, hrec⟩ := postedFaultDeliver_parks s tid (p.dom.getD asid) p ps (o.postedLanes p)
      refine ⟨⟨hmem, hstores, hothers⟩, ⟨?_, htrap, fun l hl => ?_⟩, by rw [hself], hrec⟩
      · rw [hself]
        exact Thread.run_parkAtBoundary ((Thread.atBoundary_passRegion ..).trans hb) (o.postedLanes p)
      · rw [hself]
        exact Thread.lane_parkAtBoundary_passRegion o (s.heldAt tid) (o.postedLanes p) hl

end Sys2Proof.Machine
end

section
/-! SUPPORT. Fixed-point brackets of real functions (R80): what a closed bracket says, how far a series is from its first terms, and
the exponential. -/

namespace Sys2Proof.Machine

/-! ### Floors -/

/-- A quotient of naturals is within one unit below the exact quotient. -/
theorem natDiv_bounds (a b : ℕ) : (a : ℝ) / b - 1 < (a / b : ℕ) ∧ ((a / b : ℕ) : ℝ) ≤ a / b := by
  rw [← Nat.floor_div_eq_div (K := ℝ) a b]
  exact ⟨Nat.sub_one_lt_floor _, Nat.floor_le (by positivity)⟩

theorem cast_two_pow (p : ℕ) : ((2 ^ p : ℕ) : ℝ) = 2 ^ p := by push_cast; rfl

/-- A shift to the right is within one unit below the exact quotient. -/
theorem shiftRight_bounds (a p : ℕ) : (a : ℝ) / 2 ^ p - 1 < (a >>> p : ℕ) ∧ ((a >>> p : ℕ) : ℝ) ≤ a / 2 ^ p := by
  rw [Nat.shiftRight_eq_div_pow, ← cast_two_pow]
  exact natDiv_bounds a (2 ^ p)

/-! ### A bracket that closes -/

theorem ziv_cons (k : ℕ) (f : ℕ → ℕ × ℕ) (p : ℕ) (ps : List ℕ) : ziv k f (p :: ps) =
    if ((f p).1 - (f p).2) >>> (p - k) = ((f p).1 + (f p).2) >>> (p - k) then some (((f p).1 - (f p).2) >>> (p - k)) else ziv k f ps := rfl

/-- A bracket that closes gives the floor of its number, which is no multiple of the unit. -/
theorem ziv_stands {k n : ℕ} {f : ℕ → ℕ × ℕ} {v : ℝ} (hv : 0 < v) : ∀ {ps : List ℕ},
    (∀ p ∈ ps, k ≤ p ∧ |((f p).1 : ℝ) - v * 2 ^ p| < (f p).2) → ziv k f ps = some n → Stands n (-(k : Int)) true v
  | [], _, hz => by simp [ziv] at hz
  | p :: ps, h, hz => by
    obtain ⟨hkp, hclose⟩ := h p (List.mem_cons_self ..)
    rw [ziv_cons] at hz
    split at hz
    · next he =>
      obtain rfl := Option.some.inj hz
      obtain ⟨hlo, hhi⟩ := abs_lt.mp hclose
      have hscale : (2 : ℝ) ^ p = 2 ^ (p - k) * 2 ^ k := by rw [← pow_add, Nat.sub_add_cancel hkp]
      have hpos : (0 : ℝ) < 2 ^ (p - k) := by positivity
      have hup : (((f p).1 + (f p).2 : ℕ) : ℝ) / 2 ^ (p - k) < ((((f p).1 - (f p).2) >>> (p - k) : ℕ) : ℝ) + 1 := by
        rw [he]; linarith [(shiftRight_bounds ((f p).1 + (f p).2) (p - k)).1]
      have hdown := (shiftRight_bounds ((f p).1 - (f p).2) (p - k)).2
      have hsub : (((f p).1 - (f p).2 : ℕ) : ℝ) < v * 2 ^ p := by
        rcases Nat.le_total (f p).1 (f p).2 with hle | hle
        · rw [Nat.sub_eq_zero_of_le hle, Nat.cast_zero]; positivity
        · rw [Nat.cast_sub hle]; linarith
      rw [div_lt_iff₀ hpos] at hup
      rw [le_div_iff₀ hpos] at hdown
      push_cast at hup
      have hk : (2 : ℝ) ^ (-(k : Int)) = (2 ^ k)⁻¹ := by rw [zpow_neg, zpow_natCast]
      rw [hscale] at hsub hlo
      refine ⟨?_, ?_⟩ <;> rw [hk, ← div_eq_mul_inv]
      · rw [div_lt_iff₀ (by positivity)]
        exact lt_of_mul_lt_mul_right (a := 2 ^ (p - k)) (by linarith) hpos.le
      · rw [lt_div_iff₀ (by positivity)]
        exact lt_of_mul_lt_mul_right (a := 2 ^ (p - k)) (by linarith) hpos.le
    · exact ziv_stands hv (fun q hq => h q (List.mem_cons_of_mem _ hq)) hz

/-! ### Series -/

/-- The rest of a series whose terms are below those of a geometric one. -/
theorem abs_sub_sum_le {f : ℕ → ℝ} {a c : ℝ} (n : ℕ) (h : HasSum f a) (hf : ∀ j, |f (j + n)| ≤ c * (1 / 2) ^ j) :
    |a - ∑ i ∈ Finset.range n, f i| ≤ c * 2 := by
  have hrest := (hasSum_nat_add_iff' n).mpr h
  exact hrest.norm_le_of_bounded (hasSum_geometric_two.mul_left c) hf

/-- Factorials outgrow powers of 32. -/
theorem two_pow_le_factorial {n : ℕ} (h : 32 ≤ n) : 2 ^ (5 * n - 43) ≤ n.factorial := by
  obtain ⟨j, rfl⟩ := Nat.exists_eq_add_of_le h
  calc 2 ^ (5 * (32 + j) - 43) = 2 ^ 117 * 32 ^ j := by
        rw [show 5 * (32 + j) - 43 = 117 + 5 * j by omega, pow_add, pow_mul]; norm_num
    _ ≤ (32).factorial * 33 ^ j := Nat.mul_le_mul (by decide) (Nat.pow_le_pow_left (by norm_num) j)
    _ ≤ _ := Nat.factorial_mul_pow_le_factorial

/-! ### The exponential -/

/-- A term of the exponential series at scale 2^p. -/
noncomputable def expTerm (p t j : ℕ) : ℝ := 2 ^ p * (((t : ℝ) / 2 ^ p) ^ j / j.factorial)

theorem expTerm_nonneg (p t j : ℕ) : 0 ≤ expTerm p t j := by unfold expTerm; positivity

theorem expTerm_succ (p t j : ℕ) : expTerm p t (j + 1) = expTerm p t j * t / (2 ^ p * (j + 1)) := by
  rw [expTerm, expTerm, pow_succ, Nat.factorial_succ]
  push_cast
  field_simp

/-- The next term, which one division forms. -/
theorem expSum_next (p t term i : ℕ) : ((term * t) >>> p) / (i + 1) = term * t / (2 ^ p * (i + 1)) := by
  rw [Nat.shiftRight_eq_div_pow, Nat.div_div_eq_div_mul]

/-- Each term of the sum is at most 4 units below the exact term. -/
theorem expSum_next_bounds {p t term i : ℕ} (ht : 4 * t ≤ 3 * 2 ^ p) (hlo : expTerm p t i - 4 ≤ term) (hhi : (term : ℝ) ≤ expTerm p t i) :
    expTerm p t (i + 1) - 4 ≤ (((term * t) >>> p) / (i + 1) : ℕ) ∧ ((((term * t) >>> p) / (i + 1) : ℕ) : ℝ) ≤ expTerm p t (i + 1) := by
  rw [expSum_next, expTerm_succ]
  obtain ⟨h1, h2⟩ := natDiv_bounds (term * t) (2 ^ p * (i + 1))
  push_cast at h1 h2
  have hp : (0 : ℝ) < 2 ^ p := by positivity
  have hd : (0 : ℝ) < 2 ^ p * (i + 1) := by positivity
  have ht' : (t : ℝ) / (2 ^ p * (i + 1)) ≤ 3 / 4 := by
    rw [div_le_div_iff₀ hd (by norm_num)]
    have : (4 * t : ℝ) ≤ 3 * 2 ^ p := by exact_mod_cast ht
    nlinarith [(Nat.cast_nonneg i : (0 : ℝ) ≤ i)]
  have ht0 : (0 : ℝ) ≤ t / (2 ^ p * (i + 1)) := by positivity
  rw [mul_div_assoc] at h1 h2 ⊢
  constructor
  · nlinarith
  · exact h2.trans (mul_le_mul_of_nonneg_right hhi ht0)

theorem expSum_bounds {p t : ℕ} (ht : 4 * t ≤ 3 * 2 ^ p) (n : ℕ) :
    ∀ i term acc : ℕ, expTerm p t i - 4 ≤ term → (term : ℝ) ≤ expTerm p t i →
    |(expSum p t n i term acc : ℝ) - (acc + ∑ j ∈ Finset.range n, expTerm p t (i + j))| ≤ 4 * n := by
  induction n with
  | zero =>
    intro i term acc _ _
    rw [expSum, Finset.sum_range_zero, add_zero, sub_self, abs_zero]
    positivity
  | succ n ih =>
    intro i term acc hlo hhi
    obtain ⟨h1, h2⟩ := expSum_next_bounds ht hlo hhi
    have hrest := ih (i + 1) _ (acc + term) h1 h2
    have hshift : ∑ j ∈ Finset.range n, expTerm p t (i + (j + 1)) = ∑ j ∈ Finset.range n, expTerm p t (i + 1 + j) :=
      Finset.sum_congr rfl fun j _ => by rw [Nat.add_right_comm, Nat.add_assoc]
    rw [expSum, Finset.sum_range_succ', hshift, Nat.add_zero i]
    rw [abs_le] at hrest ⊢
    push_cast at hrest ⊢
    constructor <;> linarith [hrest.1, hrest.2]

theorem hasSum_expTerm (p t : ℕ) : HasSum (expTerm p t) (2 ^ p * Real.exp ((t : ℝ) / 2 ^ p)) := by
  have h := NormedSpace.expSeries_div_hasSum_exp ((t : ℝ) / 2 ^ p)
  rw [← Real.exp_eq_exp_ℝ] at h
  exact h.mul_left (2 ^ p)

/-- The fixed-point exponential. -/
theorem expFix_bounds {p t : ℕ} (hp : 96 ≤ p) (ht : 4 * t ≤ 3 * 2 ^ p) :
    |(expFix p t : ℝ) - 2 ^ p * Real.exp ((t : ℝ) / 2 ^ p)| ≤ 4 * (p / 3 + 10 : ℕ) + 1 := by
  have hsum := expSum_bounds ht (p / 3 + 10) 0 (1 <<< p) 0 (by simp [expTerm, Nat.shiftLeft_eq]) (by simp [expTerm, Nat.shiftLeft_eq])
  have hfact : 2 * 2 ^ p ≤ (p / 3 + 10).factorial :=
    calc 2 * 2 ^ p = 2 ^ (p + 1) := (pow_succ' 2 p).symm
      _ ≤ 2 ^ (5 * (p / 3 + 10) - 43) := Nat.pow_le_pow_right (by norm_num) (by omega)
      _ ≤ _ := two_pow_le_factorial (by omega)
  have htail := abs_sub_sum_le (c := 1 / 2) (p / 3 + 10) (hasSum_expTerm p t) fun j => by
    have hn : 1 ≤ p / 3 + 10 := by omega
    generalize p / 3 + 10 = n at hfact hn ⊢
    have hT : (t : ℝ) / 2 ^ p ≤ 1 := by
      rw [div_le_one (by positivity)]
      have : (4 * t : ℝ) ≤ 3 * 2 ^ p := by exact_mod_cast ht
      nlinarith [show (0 : ℝ) < 2 ^ p by positivity]
    have hgrow : n.factorial * 2 ^ j ≤ (j + n).factorial := by
      rw [Nat.add_comm j]
      refine le_trans (Nat.mul_le_mul_left _ (Nat.pow_le_pow_left ?_ j)) Nat.factorial_mul_pow_le_factorial
      omega
    have hgrow' : (2 : ℝ) * 2 ^ p * 2 ^ j ≤ (j + n).factorial := by
      exact_mod_cast (Nat.mul_le_mul_right _ hfact).trans hgrow
    rw [abs_of_nonneg (expTerm_nonneg _ _ _), expTerm, ← mul_div_assoc, div_le_iff₀ (by positivity)]
    calc 2 ^ p * ((t : ℝ) / 2 ^ p) ^ (j + n) ≤ 2 ^ p * 1 := by gcongr; exact pow_le_one₀ (by positivity) hT
      _ = 1 / 2 * (1 / 2) ^ j * (2 * 2 ^ p * 2 ^ j) := by rw [one_div, inv_pow]; field_simp
      _ ≤ _ := by gcongr
  simp only [Nat.cast_zero, zero_add] at hsum
  rw [expFix]
  rw [abs_le] at *
  constructor <;> linarith [hsum.1, hsum.2, htail.1, htail.2]

end Sys2Proof.Machine
end

section
/-! SUPPORT. The fixed-point logarithm (R80). -/

namespace Sys2Proof.Machine

/-- A product of two fixed-point numbers, by how far below the exact numbers they are. -/
theorem mul_div_ge {P u w a b x y : ℝ} (hP : 0 < P) (hu : 0 ≤ u) (ha : 0 ≤ a) (hx : P * u - a ≤ x) (hy : P * w - b ≤ y)
    (hy' : y ≤ P * w) (hy0 : 0 ≤ y) : P * (u * w) - a * w - b * u ≤ x * y / P := by
  rw [le_div_iff₀ hP]
  have h1 : 0 ≤ (x - (P * u - a)) * y := mul_nonneg (by linarith) hy0
  have h2 : 0 ≤ P * u * (y - (P * w - b)) := mul_nonneg (by positivity) (by linarith)
  have h3 : 0 ≤ a * (P * w - y) := mul_nonneg ha (by linarith)
  linarith

section
variable {p z2 : ℕ} {r : ℝ} (h0 : 0 ≤ r) (h1 : r ≤ 1 / 3) (hlo2 : 2 ^ p * r ^ 2 - 2 ≤ z2) (hhi2 : (z2 : ℝ) ≤ 2 ^ p * r ^ 2)
include h0 h1 hlo2 hhi2

/-- Each power of the sum is at most 2 units below the exact power. -/
theorem atanhSum_next {j pw : ℕ} (hlo : 2 ^ p * r ^ (2 * j + 1) - 2 ≤ pw) (hhi : (pw : ℝ) ≤ 2 ^ p * r ^ (2 * j + 1)) :
    2 ^ p * r ^ (2 * (j + 1) + 1) - 2 ≤ ((pw * z2) >>> p : ℕ) ∧ (((pw * z2) >>> p : ℕ) : ℝ) ≤ 2 ^ p * r ^ (2 * (j + 1) + 1) := by
  obtain ⟨h3, h4⟩ := shiftRight_bounds (pw * z2) p
  have hp : (0 : ℝ) < 2 ^ p := by positivity
  have hpow : r ^ (2 * (j + 1) + 1) = r ^ (2 * j + 1) * r ^ 2 := by rw [← pow_add]; ring_nf
  have hr : r ^ (2 * j + 1) ≤ 1 / 3 := (pow_le_of_le_one h0 (by linarith) (by omega)).trans h1
  have hr0 : 0 ≤ r ^ (2 * j + 1) := by positivity
  have hsq : r ^ 2 ≤ 1 / 9 := by nlinarith
  rw [hpow]
  generalize r ^ (2 * j + 1) = w at *
  push_cast at h3 h4
  constructor
  · have := mul_div_ge hp hr0 (by norm_num) hlo hlo2 hhi2 (Nat.cast_nonneg _)
    linarith
  · refine h4.trans ?_
    rw [div_le_iff₀ hp]
    calc (pw : ℝ) * z2 ≤ (2 ^ p * w) * (2 ^ p * r ^ 2) := mul_le_mul hhi hhi2 (by positivity) (by positivity)
      _ = _ := by ring

theorem atanhSum_bounds (n : ℕ) : ∀ j pw acc : ℕ, 2 ^ p * r ^ (2 * j + 1) - 2 ≤ pw → (pw : ℝ) ≤ 2 ^ p * r ^ (2 * j + 1) →
    |(atanhSum p z2 n (2 * j + 1) pw acc : ℝ) -
      (acc + ∑ k ∈ Finset.range n, 2 ^ p * r ^ (2 * (j + k) + 1) / (2 * (j + k : ℕ) + 1))| ≤ 3 * n := by
  induction n with
  | zero =>
    intro j pw acc _ _
    rw [atanhSum, Finset.sum_range_zero, add_zero, sub_self, abs_zero]
    positivity
  | succ n ih =>
    intro j pw acc hlo hhi
    obtain ⟨h3, h4⟩ := atanhSum_next h0 h1 hlo2 hhi2 hlo hhi
    obtain ⟨h5, h6⟩ := natDiv_bounds pw (2 * j + 1)
    have hrest := ih (j + 1) _ (acc + pw / (2 * j + 1)) h3 h4
    have hshift : ∑ k ∈ Finset.range n, (2 ^ p * r ^ (2 * (j + (k + 1)) + 1) / (2 * (j + (k + 1) : ℕ) + 1) : ℝ) =
        ∑ k ∈ Finset.range n, 2 ^ p * r ^ (2 * (j + 1 + k) + 1) / (2 * (j + 1 + k : ℕ) + 1) :=
      Finset.sum_congr rfl fun k _ => by rw [show j + (k + 1) = j + 1 + k by omega]
    have hd : (1 : ℝ) ≤ 2 * j + 1 := by linarith [(Nat.cast_nonneg j : (0 : ℝ) ≤ j)]
    have hterm : |((pw / (2 * j + 1) : ℕ) : ℝ) - 2 ^ p * r ^ (2 * j + 1) / (2 * j + 1)| ≤ 3 := by
      have hle : (pw : ℝ) / (2 * j + 1) ≤ 2 ^ p * r ^ (2 * j + 1) / (2 * j + 1) := by gcongr
      have hge : 2 ^ p * r ^ (2 * j + 1) / (2 * j + 1) - 2 ≤ (pw : ℝ) / (2 * j + 1) := by
        rw [sub_le_iff_le_add, ← sub_le_iff_le_add', ← sub_div, div_le_iff₀ (by positivity)]
        linarith
      push_cast at h5 h6
      rw [abs_le]
      constructor <;> linarith
    rw [atanhSum, Finset.sum_range_succ', hshift, Nat.add_zero j, show 2 * j + 1 + 2 = 2 * (j + 1) + 1 by ring]
    rw [abs_le] at hrest hterm ⊢
    push_cast at hrest hterm ⊢
    constructor <;> linarith [hrest.1, hrest.2, hterm.1, hterm.2]

end

/-- The fixed-point logarithm of (b + a) / (b - a). -/
theorem atanh2_bounds {p a b : ℕ} (hb : 0 < b) (hab : 3 * a ≤ b) :
    |(atanh2 p a b : ℝ) - 2 ^ p * Real.log ((b + a) / (b - a))| ≤ 6 * (p / 3 + 8 : ℕ) + 1 := by
  have hp : (0 : ℝ) < 2 ^ p := by positivity
  have hb' : (0 : ℝ) < b := by exact_mod_cast hb
  have hab' : 3 * (a : ℝ) ≤ b := by exact_mod_cast hab
  have h0 : (0 : ℝ) ≤ a / b := by positivity
  have h1 : (a : ℝ) / b ≤ 1 / 3 := by rw [div_le_div_iff₀ hb' (by norm_num)]; linarith
  obtain ⟨hz1, hz2⟩ := natDiv_bounds (a <<< p) b
  obtain ⟨hs1, hs2⟩ := shiftRight_bounds ((a <<< p) / b * ((a <<< p) / b)) p
  have hlog : Real.log ((b + a) / (b - a)) = Real.log (1 + a / b) - Real.log (1 - a / b) := by
    rw [← Real.log_div (by linarith) (by linarith)]
    congr 1
    have : (b : ℝ) - a ≠ 0 := by linarith
    field_simp
  have hseries := (Real.hasSum_log_sub_log_of_abs_lt_one (x := (a : ℝ) / b) (by rw [abs_of_nonneg h0]; linarith)).mul_left (2 ^ p)
  have hgrow : (2 : ℝ) ^ p * 4 ≤ 9 ^ (p / 3 + 8) := by
    have : 2 ^ p * 4 ≤ 9 ^ (p / 3 + 8) :=
      calc 2 ^ p * 4 = 2 ^ (p + 2) := by rw [pow_add]; norm_num
        _ ≤ 2 ^ (3 * (p / 3 + 8)) := Nat.pow_le_pow_right (by norm_num) (by omega)
        _ = 8 ^ (p / 3 + 8) := by rw [pow_mul]; norm_num
        _ ≤ 9 ^ (p / 3 + 8) := Nat.pow_le_pow_left (by norm_num) _
    exact_mod_cast this
  have htail := abs_sub_sum_le (c := 1 / 2) (p / 3 + 8) hseries fun j => by
    generalize p / 3 + 8 = n at hgrow
    have hsq : ((a : ℝ) / b) ^ 2 ≤ 1 / 9 := by nlinarith
    have hpow : ((a : ℝ) / b) ^ (2 * (j + n) + 1) ≤ (1 / 2) ^ j * (1 / 9) ^ n := by
      calc ((a : ℝ) / b) ^ (2 * (j + n) + 1) = (((a : ℝ) / b) ^ 2) ^ j * (((a : ℝ) / b) ^ 2) ^ n * (a / b) := by ring
        _ ≤ (1 / 2) ^ j * (1 / 9) ^ n * 1 := by
          gcongr
          · linarith
          · linarith
        _ = _ := mul_one _
    have hcoef : 1 / (2 * ((j + n : ℕ) : ℝ) + 1) ≤ 1 := by
      rw [div_le_one (by positivity)]
      linarith [(Nat.cast_nonneg (j + n) : (0 : ℝ) ≤ (j + n : ℕ))]
    rw [abs_of_nonneg (by positivity)]
    calc (2 : ℝ) ^ p * (2 * (1 / (2 * ((j + n : ℕ) : ℝ) + 1)) * ((a : ℝ) / b) ^ (2 * (j + n) + 1))
        ≤ 2 ^ p * (2 * 1 * ((1 / 2) ^ j * (1 / 9) ^ n)) := by gcongr
      _ = 1 / 2 * (1 / 2) ^ j * ((2 ^ p * 4) / 9 ^ n) := by rw [div_pow 1 9, one_pow]; ring
      _ ≤ 1 / 2 * (1 / 2) ^ j * 1 := by
        gcongr
        rw [div_le_one (by positivity)]
        exact hgrow
      _ = _ := mul_one _
  rw [Nat.shiftLeft_eq] at hz1 hz2 hs1 hs2
  push_cast at hz1 hz2 hs1 hs2
  have hz : (a : ℝ) * 2 ^ p / b = 2 ^ p * (a / b) := by ring
  rw [hz] at hz1 hz2
  have hzsq := mul_div_ge hp h0 zero_le_one hz1.le hz1.le hz2 (Nat.cast_nonneg _)
  have hsq : ((a * 2 ^ p / b : ℕ) : ℝ) * (a * 2 ^ p / b : ℕ) / 2 ^ p ≤ 2 ^ p * (a / b) ^ 2 := by
    rw [div_le_iff₀ hp]
    calc _ ≤ (2 ^ p * ((a : ℝ) / b)) * (2 ^ p * (a / b)) := mul_le_mul hz2 hz2 (Nat.cast_nonneg _) (by positivity)
      _ = _ := by ring
  have hsum := atanhSum_bounds (p := p) (z2 := (a * 2 ^ p / b * (a * 2 ^ p / b)) >>> p) h0 h1 (by rw [sq]; linarith) (hs2.trans hsq) (p / 3 + 8) 0
    (a * 2 ^ p / b) 0 (by simp only [Nat.mul_zero, Nat.zero_add, pow_one]; linarith) (by simpa using hz2)
  have hterms : ∑ k ∈ Finset.range (p / 3 + 8), (2 : ℝ) ^ p * (2 * (1 / (2 * (k : ℝ) + 1)) * ((a : ℝ) / b) ^ (2 * k + 1)) =
      2 * ∑ k ∈ Finset.range (p / 3 + 8), (2 : ℝ) ^ p * ((a : ℝ) / b) ^ (2 * (0 + k) + 1) / (2 * (0 + k : ℕ) + 1) := by
    rw [Finset.mul_sum]
    refine Finset.sum_congr rfl fun k _ => ?_
    rw [Nat.zero_add]; ring
  rw [hterms] at htail
  have hatanh : (atanh2 p a b : ℝ) =
      2 * (atanhSum p ((a * 2 ^ p / b * (a * 2 ^ p / b)) >>> p) (p / 3 + 8) (2 * 0 + 1) (a * 2 ^ p / b) 0 : ℕ) := by
    rw [atanh2, Nat.shiftLeft_eq]; push_cast; rfl
  rw [hatanh, hlog]
  rw [Nat.cast_zero, zero_add] at hsum
  rw [abs_le] at *
  constructor <;> linarith [hsum.1, hsum.2, htail.1, htail.2]

/-- The fixed-point natural logarithm of 2. -/
theorem ln2Fix_bounds (p : ℕ) : |(ln2Fix p : ℝ) - 2 ^ p * Real.log 2| ≤ 6 * (p / 3 + 8 : ℕ) + 1 := by
  have h := atanh2_bounds (p := p) (a := 1) (b := 3) (by norm_num) (by norm_num)
  rwa [show (((3 : ℕ) : ℝ) + (1 : ℕ)) / ((3 : ℕ) - (1 : ℕ)) = 2 by norm_num] at h

/-- The precisions that are tried. -/
theorem precisions_bounds {b p : ℕ} (h : p ∈ precisions b) : b + 32 ≤ p ∧ p ≤ b + 512 := by
  simp only [precisions, List.mem_cons, List.not_mem_nil, or_false] at h
  omega

/-- A ratio of two fixed-point numbers in [0, 1]. -/
theorem ratio_bounds {P L K l k D : ℝ} (hP : 0 < P) (hL : 0 ≤ L) (hLK : L ≤ K) (hK : 0 < K) (hk : 0 < k) (hl : |l - P * L| ≤ D)
    (hk' : |k - P * K| ≤ D) : |l * P / k - P * (L / K)| ≤ 2 * D * P / k := by
  have heq : l * P / k - P * (L / K) = ((l - P * L) * K - L * (k - P * K)) / K * P / k := by field_simp; ring
  rw [heq, abs_div, abs_mul, abs_of_pos hk, abs_of_pos hP, abs_div, abs_of_pos hK]
  have hD : 0 ≤ D := (abs_nonneg _).trans hl
  have hnum : |(l - P * L) * K - L * (k - P * K)| ≤ 2 * D * K := by
    calc |(l - P * L) * K - L * (k - P * K)| ≤ |(l - P * L) * K| + |L * (k - P * K)| := abs_sub _ _
      _ = |l - P * L| * K + L * |k - P * K| := by rw [abs_mul, abs_mul, abs_of_pos hK, abs_of_nonneg hL]
      _ ≤ D * K + K * D := by gcongr
      _ = _ := by ring
  gcongr
  rwa [div_le_iff₀ hK]

/-- The fraction of the logarithm to base 2. -/
theorem log2Frac_stands {m d n : ℕ} (h1 : 2 ^ d < m) (h2 : m < 2 ^ (d + 1)) (h : log2Frac 96 m d = some n) :
    Stands n (-(96 : ℕ)) true (Real.logb 2 (m / 2 ^ d)) := by
  have hd : (0 : ℝ) < 2 ^ d := by positivity
  have h1' : (2 : ℝ) ^ d < m := by exact_mod_cast h1
  have h2' : (m : ℝ) < 2 ^ d * 2 := by rw [← pow_succ]; exact_mod_cast h2
  have hy1 : 1 < (m : ℝ) / 2 ^ d := (one_lt_div hd).mpr h1'
  have hy2 : (m : ℝ) / 2 ^ d < 2 := (div_lt_iff₀ hd).mpr (by linarith)
  refine ziv_stands (Real.logb_pos one_lt_two hy1) (fun p hp => ?_) h
  obtain ⟨hp1, hp2⟩ := precisions_bounds hp
  refine ⟨by omega, ?_⟩
  have hP : (2 : ℝ) ^ 128 ≤ 2 ^ p := pow_le_pow_right₀ one_le_two (by omega)
  have hl := atanh2_bounds (p := p) (a := m - 2 ^ d) (b := m + 2 ^ d) (by omega) (by rw [pow_succ] at h2; omega)
  have hk := ln2Fix_bounds p
  have hcount : (6 * (p / 3 + 8 : ℕ) + 1 : ℝ) ≤ 1261 := by
    have : 6 * (p / 3 + 8) + 1 ≤ 1261 := by omega
    exact_mod_cast this
  have harg : (((m + 2 ^ d : ℕ) : ℝ) + (m - 2 ^ d : ℕ)) / ((m + 2 ^ d : ℕ) - (m - 2 ^ d : ℕ)) = m / 2 ^ d := by
    rw [Nat.cast_sub h1.le]
    push_cast
    rw [div_eq_div_iff (by linarith) hd.ne']
    ring
  rw [harg] at hl
  have hln := Real.log_two_gt_d9
  have hlam : 69 / 100 * 2 ^ p ≤ (ln2Fix p : ℝ) := by
    have := (abs_le.mp hk).1
    nlinarith
  have hP0 : (0 : ℝ) < 2 ^ p := by positivity
  have hlam0 : (0 : ℝ) < ln2Fix p := by linarith
  have hr := ratio_bounds hP0 (Real.log_nonneg hy1.le) (Real.log_le_log (by linarith) hy2.le) (by linarith) hlam0
    (hl.trans hcount) (hk.trans hcount)
  have hsmall : 2 * 1261 * 2 ^ p / (ln2Fix p : ℝ) ≤ 3656 := by
    rw [div_le_iff₀ hlam0]; linarith
  have hq := natDiv_bounds (atanh2 p (m - 2 ^ d) (m + 2 ^ d) * 2 ^ p) (ln2Fix p)
  simp only [Nat.shiftLeft_eq, Nat.one_mul]
  push_cast at hq ⊢
  rw [Real.logb, mul_comm (_ / _)]
  rw [abs_le] at hr
  rw [abs_lt]
  constructor <;> linarith [hr.1, hr.2, hq.1, hq.2]

end Sys2Proof.Machine
end

section
/-! SUPPORT. Powers of 2 and the hyperbolic tangent in fixed point (R80). -/

namespace Sys2Proof.Machine

/-! ### The exponential of a number near the argument -/

/-- The exponential below 1 rises by at most 3 times its argument's rise. -/
theorem exp_sub_exp_le {a b : ℝ} (ha : a ≤ 1) : Real.exp a - Real.exp b ≤ 3 * |a - b| := by
  have h := Real.add_one_le_exp (b - a)
  have he : Real.exp b = Real.exp a * Real.exp (b - a) := by rw [← Real.exp_add]; ring_nf
  have h3 : Real.exp a ≤ 3 := (Real.exp_le_exp.mpr ha).trans Real.exp_one_lt_three.le
  calc Real.exp a - Real.exp b ≤ Real.exp a * (a - b) := by rw [he]; nlinarith [Real.exp_pos a]
    _ ≤ Real.exp a * |a - b| := mul_le_mul_of_nonneg_left (le_abs_self _) (Real.exp_pos a).le
    _ ≤ 3 * |a - b| := mul_le_mul_of_nonneg_right h3 (abs_nonneg _)

/-- The fixed-point exponential of an argument at most D units off, of an exact argument y up to 7/10. -/
theorem expFix_near {p t : ℕ} {y D : ℝ} (hp : 96 ≤ p) (hy : y ≤ 7 / 10) (hD : 20 * D ≤ 2 ^ p) (ht : |(t : ℝ) - 2 ^ p * y| ≤ D) :
    |(expFix p t : ℝ) - 2 ^ p * Real.exp y| ≤ 4 * (p / 3 + 10 : ℕ) + 1 + 3 * D := by
  have hP : (0 : ℝ) < 2 ^ p := by positivity
  obtain ⟨ht1, ht2⟩ := abs_le.mp ht
  have h4 : (4 * t : ℝ) ≤ 3 * 2 ^ p := by nlinarith
  have hfix := expFix_bounds (t := t) hp (by exact_mod_cast h4)
  have hty : (t : ℝ) / 2 ^ p ≤ 1 := (div_le_one hP).mpr (by linarith)
  have hslope : |Real.exp (t / 2 ^ p) - Real.exp y| ≤ 3 * |t / 2 ^ p - y| :=
    abs_le.mpr ⟨by linarith [exp_sub_exp_le (a := y) (b := t / 2 ^ p) (by linarith), abs_sub_comm y (t / 2 ^ p)], exp_sub_exp_le hty⟩
  have hnear : |2 ^ p * Real.exp (t / 2 ^ p) - 2 ^ p * Real.exp y| ≤ 3 * D := by
    calc |2 ^ p * Real.exp (t / 2 ^ p) - 2 ^ p * Real.exp y| = 2 ^ p * |Real.exp (t / 2 ^ p) - Real.exp y| := by
          rw [← mul_sub, abs_mul, abs_of_pos hP]
      _ ≤ 2 ^ p * (3 * |t / 2 ^ p - y|) := mul_le_mul_of_nonneg_left hslope hP.le
      _ = 3 * |2 ^ p * (t / 2 ^ p - y)| := by rw [abs_mul, abs_of_pos hP]; ring
      _ = 3 * |t - 2 ^ p * y| := by rw [mul_sub, mul_div_cancel₀ _ hP.ne']
      _ ≤ 3 * D := by linarith
  exact (abs_sub_le _ _ _).trans (add_le_add hfix hnear)

/-! ### Powers of 2 -/

/-- A fixed-point product of a fraction rounded down and a constant at most D units off. -/
theorem mulShift_bounds {p f d : ℕ} {c : ℕ} {K D : ℝ} (hK : 0 ≤ K) (hD : D ≤ 2 ^ p) (hc : |(c : ℝ) - 2 ^ p * K| ≤ D) :
    |((((f <<< p) >>> d * c) >>> p : ℕ) : ℝ) - 2 ^ p * (f / 2 ^ d * K)| ≤ f / 2 ^ d * D + K + 2 := by
  have hP : (0 : ℝ) < 2 ^ p := by positivity
  obtain ⟨h1, h2⟩ := shiftRight_bounds (f <<< p) d
  obtain ⟨h3, h4⟩ := shiftRight_bounds ((f <<< p) >>> d * c) p
  obtain ⟨hc1, hc2⟩ := abs_le.mp hc
  rw [Nat.shiftLeft_eq] at *
  push_cast at h1 h2 h3 h4
  have he : (f : ℝ) * 2 ^ p / 2 ^ d = 2 ^ p * (f / 2 ^ d) := by ring
  rw [he] at h1 h2
  have hF0 : (0 : ℝ) ≤ f / 2 ^ d := by positivity
  generalize (f : ℝ) / 2 ^ d = F at *
  have hg0 : (0 : ℝ) ≤ ((f * 2 ^ p) >>> d : ℕ) := Nat.cast_nonneg _
  generalize (((f * 2 ^ p) >>> d : ℕ) : ℝ) = g at *
  have hc0 : (0 : ℝ) ≤ c := Nat.cast_nonneg _
  generalize ((((f * 2 ^ p) >>> d * c) >>> p : ℕ) : ℝ) = q at *
  have hup : g * c / 2 ^ p ≤ 2 ^ p * (F * K) + F * D := by
    rw [div_le_iff₀ hP]
    calc g * c ≤ (2 ^ p * F) * (2 ^ p * K + D) := mul_le_mul h2 (by linarith) hc0 (by positivity)
      _ = _ := by ring
  have hdown : 2 ^ p * (F * K) - F * D - K - 1 ≤ g * c / 2 ^ p := by
    rw [le_div_iff₀ hP]
    have h5 : 0 ≤ (g - (2 ^ p * F - 1)) * c := mul_nonneg (by linarith) hc0
    have h6 : 0 ≤ 2 ^ p * F * (c - (2 ^ p * K - D)) := mul_nonneg (by positivity) (by linarith)
    linarith
  rw [abs_le]
  constructor <;> linarith

/-- The fraction of a power of 2. -/
theorem exp2Frac_stands {f d : ℕ} {y : Mag} (h1 : f < 2 ^ d) (h : exp2Frac f d = some y) :
    ∃ n, y = ⟨n, -(64 : ℕ), true⟩ ∧ Stands n (-(64 : ℕ)) true ((2 : ℝ) ^ ((f : ℝ) / 2 ^ d)) := by
  obtain ⟨n, hz, rfl⟩ := Option.map_eq_some_iff.mp h
  refine ⟨n, rfl, ziv_stands (by positivity) (fun p hp => ?_) hz⟩
  obtain ⟨hp1, hp2⟩ := precisions_bounds hp
  refine ⟨by omega, ?_⟩
  have hP : (2 : ℝ) ^ 96 ≤ 2 ^ p := pow_le_pow_right₀ one_le_two (by omega)
  have hlog := Real.log_two_lt_d9
  have hlog0 := Real.log_two_gt_d9
  have hF : (f : ℝ) / 2 ^ d ≤ 1 := (div_le_one (by positivity)).mpr (by exact_mod_cast h1.le)
  have hF0 : (0 : ℝ) ≤ (f : ℝ) / 2 ^ d := by positivity
  have hcount : (6 * (p / 3 + 8 : ℕ) + 1 : ℝ) ≤ 1201 := by
    have : 6 * (p / 3 + 8) + 1 ≤ 1201 := by omega
    exact_mod_cast this
  have hcount' : (4 * (p / 3 + 10 : ℕ) + 1 : ℝ) ≤ 809 := by
    have : 4 * (p / 3 + 10) + 1 ≤ 809 := by omega
    exact_mod_cast this
  have harg := mulShift_bounds (f := f) (d := d) (by linarith) (by linarith) ((ln2Fix_bounds p).trans hcount)
  have harg' : (f : ℝ) / 2 ^ d * 1201 + Real.log 2 + 2 ≤ 1204 := by linarith
  have hexp := expFix_near (by omega) (by nlinarith) (by linarith) (harg.trans harg')
  rw [Real.rpow_def_of_pos two_pos, mul_comm (Real.exp _), mul_comm (Real.log 2)]
  refine hexp.trans_lt ?_
  push_cast at hcount' ⊢
  linarith

/-! ### The hyperbolic tangent -/

/-- Squaring keeps a bracket of a number and its square at scale 2^p. -/
theorem squareN_bounds (p : ℕ) : ∀ (n : ℕ) (x : ℕ × ℕ) (w : ℝ), (x.1 : ℝ) < 2 ^ p * w → 2 ^ p * w < x.2 →
    ((squareN p n x).1 : ℝ) < 2 ^ p * w ^ 2 ^ n ∧ 2 ^ p * w ^ 2 ^ n < (squareN p n x).2
  | 0, x, w, h1, h2 => by
    rw [pow_zero, pow_one]; exact ⟨h1, h2⟩
  | n + 1, (lo, hi), w, h1, h2 => by
    have hP : (0 : ℝ) < 2 ^ p := by positivity
    have hlo := (shiftRight_bounds (lo * lo) p).2
    have hhi := (shiftRight_bounds (hi * hi) p).1
    have hw : 0 < 2 ^ p * w := (Nat.cast_nonneg lo).trans_lt h1
    push_cast at hlo hhi
    rw [pow_succ', pow_mul, squareN]
    refine squareN_bounds p n _ (w ^ 2) (hlo.trans_lt ?_) ?_
    · rw [div_lt_iff₀ hP]
      calc (lo : ℝ) * lo < (2 ^ p * w) * (2 ^ p * w) := mul_self_lt_mul_self (Nat.cast_nonneg _) h1
        _ = _ := by ring
    · have : 2 ^ p * w ^ 2 < (hi : ℝ) * hi / 2 ^ p := by
        rw [lt_div_iff₀ hP]
        calc 2 ^ p * w ^ 2 * 2 ^ p = (2 ^ p * w) * (2 ^ p * w) := by ring
          _ < hi * hi := mul_self_lt_mul_self hw.le h2
      push_cast
      linarith

/-- The hyperbolic tangent by one exponential. -/
theorem tanh_eq_exp (x : ℝ) : Real.tanh x = (Real.exp (2 * x) - 1) / (Real.exp (2 * x) + 1) := by
  rw [Real.tanh_eq, two_mul, Real.exp_add, Real.exp_neg]
  have := Real.exp_pos x
  field_simp

/-- A quotient that rises with W, from a bracket of W. -/
theorem ratio_lt {U V : ℝ} (hU : -1 < U) (h : U < V) : (U - 1) / (U + 1) < (V - 1) / (V + 1) := by
  rw [div_lt_div_iff₀ (by linarith) (by linarith)]
  linarith

/-- The exact quotient of a fixed-point number less and more by 1. -/
theorem ratio_scaled {P u : ℝ} (hP : 0 < P) (hu : 0 ≤ u) : (u / P - 1) / (u / P + 1) = (u - P) / (u + P) := by
  have : u + P ≠ 0 := by linarith
  have : u / P + 1 ≠ 0 := by positivity
  field_simp

/-- The quotient of the lower end of a bracket is below the exact one. -/
theorem ratioFix_lt {p lo s : ℕ} {W : ℝ} (hW : 1 < W) (h : (lo : ℝ) < 2 ^ p * W) :
    ((((lo - 1 <<< p) <<< s) / (lo + 1 <<< p) : ℕ) : ℝ) < 2 ^ s * ((W - 1) / (W + 1)) := by
  have hP : (0 : ℝ) < 2 ^ p := by positivity
  rw [Nat.one_shiftLeft, Nat.shiftLeft_eq]
  rcases Nat.le_total lo (2 ^ p) with hle | hle
  · rw [Nat.sub_eq_zero_of_le hle, Nat.zero_mul, Nat.zero_div, Nat.cast_zero]
    have : 0 < (W - 1) / (W + 1) := div_pos (by linarith) (by linarith)
    positivity
  · refine (natDiv_bounds _ _).2.trans_lt ?_
    have hlt := ratio_lt (U := lo / 2 ^ p) (V := W) (by linarith [show (0 : ℝ) ≤ lo / 2 ^ p by positivity]) (by rw [div_lt_iff₀ hP]; linarith)
    rw [ratio_scaled hP (Nat.cast_nonneg _)] at hlt
    push_cast [Nat.cast_sub hle]
    rw [mul_comm _ ((2 : ℝ) ^ s), mul_div_assoc]
    exact mul_lt_mul_of_pos_left hlt (by positivity)

/-- The quotient of the upper end of a bracket is above the exact one, less a unit. -/
theorem lt_ratioFix {p hi s : ℕ} {W : ℝ} (hW : 1 < W) (h : 2 ^ p * W < (hi : ℝ)) :
    2 ^ s * ((W - 1) / (W + 1)) < ((((hi - 1 <<< p) <<< s) / (hi + 1 <<< p) : ℕ) : ℝ) + 1 := by
  have hP : (0 : ℝ) < 2 ^ p := by positivity
  have hle : 2 ^ p ≤ hi := by
    have : (2 : ℝ) ^ p ≤ hi := by nlinarith
    exact_mod_cast this
  rw [Nat.one_shiftLeft, Nat.shiftLeft_eq]
  have hdiv := (natDiv_bounds ((hi - 2 ^ p) * 2 ^ s) (hi + 2 ^ p)).1
  have hlt := ratio_lt (U := W) (V := hi / 2 ^ p) (by linarith) (by rw [lt_div_iff₀ hP]; linarith)
  rw [ratio_scaled hP (Nat.cast_nonneg _)] at hlt
  push_cast [Nat.cast_sub hle] at hdiv ⊢
  rw [mul_comm _ ((2 : ℝ) ^ s), mul_div_assoc] at hdiv
  have := mul_lt_mul_of_pos_left hlt (show (0 : ℝ) < 2 ^ s by positivity)
  linarith

/-- The argument of the exponential, a 32nd of x. -/
def tanhArg (m : ℕ) (e : Int) (p : ℕ) : ℕ :=
  if (p : Int) + e - 5 ≥ 0 then m <<< ((p : Int) + e - 5).toNat else m >>> (-((p : Int) + e - 5)).toNat

theorem tanhArg_bounds (m : ℕ) (e : Int) (p : ℕ) : |(tanhArg m e p : ℝ) - 2 ^ p * (m * 2 ^ e / 32)| ≤ 1 := by
  have he : (2 : ℝ) ^ p * (m * 2 ^ e / 32) = m * 2 ^ ((p : Int) + e - 5) := by
    rw [zpow_sub₀ two_ne_zero, zpow_add₀ two_ne_zero, zpow_natCast]
    norm_num
    ring
  rw [he, tanhArg]
  split
  · next h =>
    rw [Nat.shiftLeft_eq]
    push_cast
    rw [← zpow_natCast, Int.toNat_of_nonneg h, sub_self, abs_zero]
    exact zero_le_one
  · next h =>
    obtain ⟨h1, h2⟩ := shiftRight_bounds m (-((p : Int) + e - 5)).toNat
    have hneg : (m : ℝ) / 2 ^ (-((p : Int) + e - 5)).toNat = m * 2 ^ ((p : Int) + e - 5) := by
      rw [← zpow_natCast, Int.toNat_of_nonneg (by omega), zpow_neg, div_inv_eq_mul]
    rw [hneg] at h1 h2
    rw [abs_le]
    constructor <;> linarith

/-- The bracket of a precision. -/
def tanhBracket (m : ℕ) (e : Int) (p : ℕ) : ℕ × ℕ :=
  squareN p 6 (expFix p (tanhArg m e p) - 1024, expFix p (tanhArg m e p) + 1024)

theorem tanhFix_cons (m : ℕ) (e : Int) (p : ℕ) (ps : List ℕ) : tanhFix m e (p :: ps) =
    if (((tanhBracket m e p).1 - 1 <<< p) <<< 64) / ((tanhBracket m e p).1 + 1 <<< p) =
        (((tanhBracket m e p).2 - 1 <<< p) <<< 64) / ((tanhBracket m e p).2 + 1 <<< p)
    then some ((((tanhBracket m e p).1 - 1 <<< p) <<< 64) / ((tanhBracket m e p).1 + 1 <<< p)) else tanhFix m e ps := rfl

/-- The bracket holds the exponential of 2x. -/
theorem tanhBracket_bounds {m p : ℕ} {e : Int} (hx : (m : ℝ) * 2 ^ e ≤ 16) (hp1 : 128 ≤ p) (hp2 : p ≤ 608) :
    ((tanhBracket m e p).1 : ℝ) < 2 ^ p * Real.exp (2 * (m * 2 ^ e)) ∧ 2 ^ p * Real.exp (2 * (m * 2 ^ e)) < (tanhBracket m e p).2 := by
  have hP : (2 : ℝ) ^ 128 ≤ 2 ^ p := pow_le_pow_right₀ one_le_two hp1
  have hcount : (4 * (p / 3 + 10 : ℕ) + 1 : ℝ) ≤ 849 := by
    have : 4 * (p / 3 + 10) + 1 ≤ 849 := by omega
    exact_mod_cast this
  have hnear := abs_le.mp (expFix_near (by omega) (by linarith) (by linarith) (tanhArg_bounds m e p))
  have hexp : Real.exp (2 * (m * 2 ^ e)) = Real.exp (m * 2 ^ e / 32) ^ 2 ^ 6 := by
    rw [← Real.exp_nat_mul]
    congr 1
    push_cast
    ring
  have hone : 1 ≤ Real.exp ((m : ℝ) * 2 ^ e / 32) := Real.one_le_exp (by positivity)
  have hlarge : 1024 ≤ expFix p (tanhArg m e p) := by
    have : (1024 : ℝ) ≤ expFix p (tanhArg m e p) := by nlinarith [hnear.1]
    exact_mod_cast this
  rw [hexp]
  refine squareN_bounds p 6 _ _ ?_ ?_
  · rw [Nat.cast_sub hlarge]; push_cast; linarith [hnear.2]
  · push_cast; linarith [hnear.1]

/-- The hyperbolic tangent, where its bracket closes. -/
theorem tanhFix_stands {m q : ℕ} {e : Int} (hm : 0 < m) (hx : (m : ℝ) * 2 ^ e ≤ 16) :
    ∀ {ps : List ℕ}, (∀ p ∈ ps, 128 ≤ p ∧ p ≤ 608) → tanhFix m e ps = some q → Stands q (-(64 : ℕ)) true (Real.tanh (m * 2 ^ e))
  | [], _, h => by simp [tanhFix] at h
  | p :: ps, hps, h => by
    rw [tanhFix_cons] at h
    split at h
    · next heq =>
      obtain rfl := Option.some.inj h
      obtain ⟨hp1, hp2⟩ := hps p (List.mem_cons_self ..)
      obtain ⟨hlo, hhi⟩ := tanhBracket_bounds hx hp1 hp2
      have hm' : (0 : ℝ) < m := by exact_mod_cast hm
      have hW : 1 < Real.exp (2 * ((m : ℝ) * 2 ^ e)) := Real.one_lt_exp_iff.mpr (by have := two_zpow_pos e; positivity)
      have h1 := ratioFix_lt (s := 64) hW hlo
      have h2 := lt_ratioFix (s := 64) hW hhi
      rw [← heq] at h2
      rw [tanh_eq_exp]
      have h64 : (2 : ℝ) ^ (-(64 : ℕ) : Int) = (2 ^ 64)⁻¹ := by rw [zpow_neg, zpow_natCast]
      refine ⟨?_, ?_⟩ <;> rw [h64, ← div_eq_mul_inv]
      · rw [div_lt_iff₀ (by positivity)]; linarith
      · rw [lt_div_iff₀ (by positivity)]; linarith
    · exact tanhFix_stands hm hx (fun p hp => hps p (List.mem_cons_of_mem _ hp)) h

end Sys2Proof.Machine
end

section
/-! SUPPORT. π and the sine in fixed point (R80). -/

namespace Sys2Proof.Machine

/-- A number that a Boolean makes negative. -/
def signed (s : Bool) (x : ℝ) : ℝ := if s then -x else x

theorem signed_add_cast (s : Bool) (acc : Int) (x : ℕ) :
    ((if s then acc - (x : Int) else acc + (x : Int) : Int) : ℝ) = acc + signed s x := by
  cases s <;> simp [signed]; ring

theorem neg_one_pow_succ {j : ℕ} {s : Bool} (h : ∀ x : ℝ, (-1) ^ j * x = signed s x) (x : ℝ) : (-1) ^ (j + 1) * x = signed (!s) x := by
  rw [pow_succ, mul_assoc, h]
  cases s <;> simp [signed]

theorem abs_signed_sub (s : Bool) (x y : ℝ) : |signed s x - signed s y| = |x - y| := by
  cases s
  · rfl
  · show |-x - -y| = _
    rw [neg_sub_neg, abs_sub_comm]

/-- A negative number is farther from a positive one than 0 is. -/
theorem abs_toNat_sub_le (z : Int) {v : ℝ} (hv : 0 ≤ v) : |(z.toNat : ℝ) - v| ≤ |(z : ℝ) - v| := by
  rcases le_total 0 z with h | h
  · rw [← Int.cast_natCast, Int.toNat_of_nonneg h]
  · have hz : (z : ℝ) ≤ 0 := by exact_mod_cast h
    rw [Int.toNat_of_nonpos h, Nat.cast_zero, zero_sub, abs_neg, abs_of_nonneg hv, abs_of_nonpos (by linarith)]
    linarith

/-! ### The arc tangent of a fraction 1/b -/

/-- A term of the series of the arc tangent of 1/b at scale 2^p, without its sign. -/
noncomputable def atanTerm (p b j : ℕ) : ℝ := 2 ^ p / (b ^ (2 * j + 1) * (2 * j + 1))

theorem atanSum_bounds {p b : ℕ} (n : ℕ) : ∀ (j : ℕ) (s : Bool) (acc : Int), (∀ x : ℝ, (-1) ^ j * x = signed s x) →
    |(atanSum (b * b) n (2 * j + 1) (2 ^ p / b ^ (2 * j + 1)) s acc : ℝ) -
      (acc + ∑ k ∈ Finset.range n, (-1) ^ (j + k) * atanTerm p b (j + k))| ≤ n := by
  induction n with
  | zero =>
    intro j s acc _
    rw [atanSum, Finset.sum_range_zero, add_zero, sub_self, abs_zero, Nat.cast_zero]
  | succ n ih =>
    intro j s acc hs
    have hrest := ih (j + 1) (!s)
      (if s then acc - (2 ^ p / b ^ (2 * j + 1) / (2 * j + 1) : ℕ) else acc + (2 ^ p / b ^ (2 * j + 1) / (2 * j + 1) : ℕ))
      (neg_one_pow_succ hs)
    have hnext : 2 ^ p / b ^ (2 * j + 1) / (b * b) = 2 ^ p / b ^ (2 * (j + 1) + 1) := by
      rw [Nat.div_div_eq_div_mul]; ring_nf
    have hshift : ∑ k ∈ Finset.range n, (-1) ^ (j + (k + 1)) * atanTerm p b (j + (k + 1)) =
        ∑ k ∈ Finset.range n, (-1) ^ (j + 1 + k) * atanTerm p b (j + 1 + k) :=
      Finset.sum_congr rfl fun k _ => by rw [show j + (k + 1) = j + 1 + k by omega]
    have hterm : |signed s (2 ^ p / b ^ (2 * j + 1) / (2 * j + 1) : ℕ) - signed s (atanTerm p b j)| ≤ 1 := by
      rw [abs_signed_sub, Nat.div_div_eq_div_mul, atanTerm]
      have h := natDiv_bounds (2 ^ p) (b ^ (2 * j + 1) * (2 * j + 1))
      push_cast at h ⊢
      rw [abs_le]
      constructor <;> linarith [h.1, h.2]
    rw [atanSum, Finset.sum_range_succ', hshift, Nat.add_zero j, hs, hnext, show 2 * j + 1 + 2 = 2 * (j + 1) + 1 by ring]
    rw [signed_add_cast] at hrest
    rw [abs_le] at hrest hterm ⊢
    rw [Nat.cast_succ]
    constructor <;> linarith [hrest.1, hrest.2, hterm.1, hterm.2]

/-- The fixed-point arc tangent of 1/b. -/
theorem atanSum_arctan {p b : ℕ} (hb : 5 ≤ b) :
    |(atanSum (b * b) (p / 4 + 8) 1 ((1 <<< p) / b) false 0 : ℝ) - 2 ^ p * Real.arctan (b : ℝ)⁻¹| ≤ (p / 4 + 8 : ℕ) + 1 := by
  have hb' : (5 : ℝ) ≤ b := by exact_mod_cast hb
  have hinv : (b : ℝ)⁻¹ ≤ 1 / 5 := by rw [inv_le_comm₀ (by linarith) (by norm_num)]; linarith
  have hinv0 : (0 : ℝ) < (b : ℝ)⁻¹ := by positivity
  have hterm (j : ℕ) : (2 : ℝ) ^ p * ((-1) ^ j * (b : ℝ)⁻¹ ^ (2 * j + 1) / (2 * j + 1 : ℕ)) = (-1) ^ j * atanTerm p b j := by
    rw [atanTerm, inv_pow]
    push_cast
    field_simp
  have hseries := (Real.hasSum_arctan (x := (b : ℝ)⁻¹) (by rw [Real.norm_eq_abs, abs_of_pos hinv0]; linarith)).mul_left (2 ^ p)
  simp only [hterm] at hseries
  have hgrow : (2 : ℝ) ^ p * 2 ≤ 25 ^ (p / 4 + 8) := by
    have : 2 ^ p * 2 ≤ 25 ^ (p / 4 + 8) :=
      calc 2 ^ p * 2 = 2 ^ (p + 1) := by rw [pow_succ]
        _ ≤ 2 ^ (4 * (p / 4 + 8)) := Nat.pow_le_pow_right (by norm_num) (by omega)
        _ = 16 ^ (p / 4 + 8) := by rw [pow_mul]; norm_num
        _ ≤ 25 ^ (p / 4 + 8) := Nat.pow_le_pow_left (by norm_num) _
    exact_mod_cast this
  have htail := abs_sub_sum_le (c := 1 / 2) (p / 4 + 8) hseries fun j => by
    generalize p / 4 + 8 = n at hgrow ⊢
    rw [abs_mul, abs_pow, abs_neg, abs_one, one_pow, one_mul, atanTerm, abs_of_pos (by positivity), div_le_iff₀ (by positivity)]
    have hpow : (25 : ℝ) ^ n * 2 ^ j ≤ b ^ (2 * (j + n) + 1) := by
      calc (25 : ℝ) ^ n * 2 ^ j ≤ (b ^ 2) ^ n * (b ^ 2) ^ j := by gcongr <;> nlinarith
        _ = b ^ (2 * (j + n)) := by ring
        _ ≤ b ^ (2 * (j + n) + 1) := pow_le_pow_right₀ (by linarith) (by omega)
    have hfac : (1 : ℝ) ≤ 2 * (j + n : ℕ) + 1 := by linarith [(Nat.cast_nonneg (j + n) : (0 : ℝ) ≤ (j + n : ℕ))]
    calc (2 : ℝ) ^ p = 1 / 2 * (1 / 2) ^ j * ((2 ^ p * 2) * 2 ^ j * 1) := by rw [one_div, inv_pow]; field_simp
      _ ≤ 1 / 2 * (1 / 2) ^ j * (25 ^ n * 2 ^ j * (2 * (j + n : ℕ) + 1)) := by gcongr
      _ ≤ 1 / 2 * (1 / 2) ^ j * (b ^ (2 * (j + n) + 1) * (2 * (j + n : ℕ) + 1)) := by gcongr
  have hsum := atanSum_bounds (p := p) (b := b) (p / 4 + 8) 0 false 0 (fun x => by simp [signed])
  simp only [Nat.mul_zero, pow_one, zero_add, Int.cast_zero] at hsum
  rw [Nat.one_shiftLeft]
  rw [abs_le] at *
  constructor <;> linarith [hsum.1, hsum.2, htail.1, htail.2]

/-- Machin's formula in fixed point. -/
theorem piFix_bounds (p : ℕ) : |(piFix p : ℝ) - 2 ^ p * Real.pi| ≤ 20 * ((p / 4 + 8 : ℕ) + 1) := by
  have h5 := abs_le.mp (atanSum_arctan (p := p) (b := 5) (by norm_num))
  have h239 := abs_le.mp (atanSum_arctan (p := p) (b := 239) (by norm_num))
  have hmachin := Real.four_mul_arctan_inv_5_sub_arctan_inv_239
  have hpi : (2 : ℝ) ^ p * Real.pi = 16 * (2 ^ p * Real.arctan 5⁻¹) - 4 * (2 ^ p * Real.arctan 239⁻¹) := by
    rw [show Real.pi = 4 * (4 * Real.arctan 5⁻¹ - Real.arctan 239⁻¹) by rw [hmachin]; ring]
    ring
  rw [piFix]
  dsimp only
  push_cast at h5 h239
  generalize atanSum (5 * 5) (p / 4 + 8) 1 ((1 <<< p) / 5) false 0 = x at *
  generalize atanSum (239 * 239) (p / 4 + 8) 1 ((1 <<< p) / 239) false 0 = y at *
  refine (abs_toNat_sub_le _ (by positivity)).trans ?_
  rw [hpi]
  push_cast
  rw [abs_le]
  constructor <;> linarith [h5.1, h5.2, h239.1, h239.2]

/-! ### The sine -/

/-- A term of the series of the sine of θ, without its sign. -/
noncomputable def sinTerm (θ : ℝ) (j : ℕ) : ℝ := θ ^ (2 * j + 1) / (2 * j + 1).factorial

theorem sinTerm_succ (θ : ℝ) (j : ℕ) : sinTerm θ (j + 1) = sinTerm θ j * θ ^ 2 / ((2 * j + 1 + 1) * (2 * j + 1 + 2)) := by
  rw [sinTerm, sinTerm, show 2 * (j + 1) + 1 = 2 * j + 1 + 1 + 1 by ring, Nat.factorial_succ, Nat.factorial_succ]
  push_cast
  field_simp
  ring

section
variable {p t2 : ℕ} {θ : ℝ} (h0 : 0 ≤ θ) (h2 : θ ≤ 2) (hlo2 : 2 ^ p * θ ^ 2 - 1 ≤ t2) (hhi2 : (t2 : ℝ) ≤ 2 ^ p * θ ^ 2)
include h0 h2

theorem sinTerm_le (j : ℕ) : sinTerm θ j ≤ 2 := by
  rw [sinTerm, div_le_iff₀ (by positivity)]
  have hfact : 2 ^ (2 * j) ≤ (2 * j + 1).factorial := by
    have := Nat.factorial_mul_pow_le_factorial (m := 1) (n := 2 * j)
    rwa [Nat.factorial_one, Nat.one_mul, Nat.add_comm 1 (2 * j)] at this
  calc θ ^ (2 * j + 1) ≤ 2 ^ (2 * j + 1) := by gcongr
    _ = 2 * 2 ^ (2 * j) := pow_succ' 2 (2 * j)
    _ ≤ 2 * (2 * j + 1).factorial := by gcongr; exact_mod_cast hfact

include hlo2 hhi2

/-- Each term of the sum is at most 4 units below the exact term. -/
theorem sinSum_next {j term : ℕ} (hlo : 2 ^ p * sinTerm θ j - 4 ≤ term) (hhi : (term : ℝ) ≤ 2 ^ p * sinTerm θ j) :
    2 ^ p * sinTerm θ (j + 1) - 4 ≤ ((term * t2) >>> p / ((2 * j + 1 + 1) * (2 * j + 1 + 2)) : ℕ) ∧
      (((term * t2) >>> p / ((2 * j + 1 + 1) * (2 * j + 1 + 2)) : ℕ) : ℝ) ≤ 2 ^ p * sinTerm θ (j + 1) := by
  have hP : (0 : ℝ) < 2 ^ p := by positivity
  have hle := sinTerm_le h0 h2 j
  have hu0 : 0 ≤ sinTerm θ j := by unfold sinTerm; positivity
  have hdown := mul_div_ge hP hu0 (by norm_num) hlo hlo2 hhi2 (Nat.cast_nonneg _)
  have hup : (term : ℝ) * t2 / 2 ^ p ≤ 2 ^ p * (sinTerm θ j * θ ^ 2) := by
    rw [div_le_iff₀ hP]
    calc (term : ℝ) * t2 ≤ (2 ^ p * sinTerm θ j) * (2 ^ p * θ ^ 2) := mul_le_mul hhi hhi2 (Nat.cast_nonneg _) (by positivity)
      _ = _ := by ring
  rw [sinTerm_succ, Nat.shiftRight_eq_div_pow, Nat.div_div_eq_div_mul]
  obtain ⟨h3, h4⟩ := natDiv_bounds (term * t2) (2 ^ p * ((2 * j + 1 + 1) * (2 * j + 1 + 2)))
  push_cast at h3 h4
  rw [← div_div] at h3 h4
  have hd : (6 : ℝ) ≤ (2 * j + 1 + 1) * (2 * j + 1 + 2) := by nlinarith [(Nat.cast_nonneg j : (0 : ℝ) ≤ j)]
  generalize ((2 : ℝ) * j + 1 + 1) * (2 * j + 1 + 2) = D at *
  have hD : 0 < D := by linarith
  have hsq : θ ^ 2 ≤ 4 := by nlinarith
  rw [← mul_div_assoc]
  constructor
  · have hslack : (4 * θ ^ 2 + sinTerm θ j) / D ≤ 3 := by rw [div_le_iff₀ hD]; linarith
    have h5 : (2 ^ p * (sinTerm θ j * θ ^ 2) - (4 * θ ^ 2 + sinTerm θ j)) / D ≤ (term : ℝ) * t2 / 2 ^ p / D := by
      gcongr; linarith
    rw [sub_div] at h5
    linarith
  · exact h4.trans (by gcongr)

theorem sinSum_bounds (n : ℕ) : ∀ (j term : ℕ) (s : Bool) (acc : Int),
    2 ^ p * sinTerm θ j - 4 ≤ term → (term : ℝ) ≤ 2 ^ p * sinTerm θ j → (∀ x : ℝ, (-1) ^ j * x = signed s x) →
    |(sinSum p t2 n (2 * j + 1) term s acc : ℝ) - (acc + ∑ k ∈ Finset.range n, (-1) ^ (j + k) * (2 ^ p * sinTerm θ (j + k)))| ≤ 4 * n := by
  induction n with
  | zero =>
    intro j term s acc _ _ _
    rw [sinSum, Finset.sum_range_zero, add_zero, sub_self, abs_zero]
    positivity
  | succ n ih =>
    intro j term s acc hlo hhi hs
    obtain ⟨h3, h4⟩ := sinSum_next h0 h2 hlo2 hhi2 hlo hhi
    have hrest := ih (j + 1) _ (!s) (if s then acc - (term : Int) else acc + (term : Int)) h3 h4 (neg_one_pow_succ hs)
    have hshift : ∑ k ∈ Finset.range n, (-1) ^ (j + (k + 1)) * (2 ^ p * sinTerm θ (j + (k + 1))) =
        ∑ k ∈ Finset.range n, (-1) ^ (j + 1 + k) * (2 ^ p * sinTerm θ (j + 1 + k)) :=
      Finset.sum_congr rfl fun k _ => by rw [show j + (k + 1) = j + 1 + k by omega]
    have hterm : |signed s term - signed s (2 ^ p * sinTerm θ j)| ≤ 4 := by
      rw [abs_signed_sub, abs_le]
      constructor <;> linarith
    rw [sinSum, Finset.sum_range_succ', hshift, Nat.add_zero j, hs]
    rw [signed_add_cast, show 2 * (j + 1) + 1 = 2 * j + 1 + 2 by ring] at hrest
    rw [abs_le] at hrest hterm ⊢
    rw [Nat.cast_succ]
    constructor <;> linarith [hrest.1, hrest.2, hterm.1, hterm.2]

/-- The sum of the sine's series. -/
theorem sinSum_sin {t : ℕ} (ht : (t : ℝ) = 2 ^ p * θ) :
    |(sinSum p t2 (p / 8 + 24) 1 t false 0 : ℝ) - 2 ^ p * Real.sin θ| ≤ 4 * (p / 8 + 24 : ℕ) + 1 := by
  have hseries := (Real.hasSum_sin θ).mul_left (2 ^ p)
  have hterm (j : ℕ) : (2 : ℝ) ^ p * ((-1) ^ j * θ ^ (2 * j + 1) / (2 * j + 1).factorial) = (-1) ^ j * (2 ^ p * sinTerm θ j) := by
    rw [sinTerm]; ring
  simp only [hterm] at hseries
  have htail := abs_sub_sum_le (c := 1 / 2) (p / 8 + 24) hseries fun j => by
    have hk : p + (2 * (j + (p / 8 + 24)) + 1) + 1 + j ≤ 5 * (2 * (j + (p / 8 + 24)) + 1) - 43 := by omega
    have hfact := (Nat.pow_le_pow_right (by norm_num) hk).trans (two_pow_le_factorial (n := 2 * (j + (p / 8 + 24)) + 1) (by omega))
    rw [abs_mul, abs_pow, abs_neg, abs_one, one_pow, one_mul, sinTerm, abs_of_nonneg (by positivity), ← mul_div_assoc]
    generalize 2 * (j + (p / 8 + 24)) + 1 = K at hfact ⊢
    rw [div_le_iff₀ (by positivity)]
    have hfact' : (2 : ℝ) ^ (p + K + 1 + j) ≤ K.factorial := by exact_mod_cast hfact
    calc (2 : ℝ) ^ p * θ ^ K ≤ 2 ^ p * 2 ^ K := by gcongr
      _ = 1 / 2 * (1 / 2) ^ j * 2 ^ (p + K + 1 + j) := by rw [one_div, inv_pow, pow_add, pow_add, pow_add]; field_simp
      _ ≤ 1 / 2 * (1 / 2) ^ j * K.factorial := by gcongr
  have hzero : sinTerm θ 0 = θ := by simp [sinTerm]
  have hsum := sinSum_bounds h0 h2 hlo2 hhi2 (p / 8 + 24) 0 t false 0 (by rw [hzero, ht]; linarith) (by rw [hzero, ht]) (fun x => by simp [signed])
  simp only [Nat.mul_zero, zero_add, Int.cast_zero] at hsum
  rw [abs_le] at *
  constructor <;> linarith [hsum.1, hsum.2, htail.1, htail.2]

end

/-- The sine of a turn's fraction up to a quarter, where its bracket closes. -/
theorem sinFrac_stands {g d : ℕ} {y : Mag} (h0 : 0 < g) (h4 : 4 * g ≤ 2 ^ d) (hd : d ≤ 149) (h : sinFrac g d = some y) :
    ∃ n, y = ⟨n, -((64 + (d - Nat.log2 g) : ℕ) : Int), true⟩ ∧
      Stands n (-((64 + (d - Nat.log2 g) : ℕ) : Int)) true (Real.sin (2 * Real.pi * (g / 2 ^ d))) := by
  have hpi3 := Real.pi_gt_three
  have hpi4 := Real.pi_lt_d2
  have hg0 : (0 : ℝ) < g := by exact_mod_cast h0
  have hF0 : 0 < (g : ℝ) / 2 ^ d := by positivity
  have hF : (g : ℝ) / 2 ^ d ≤ 1 / 4 := by
    rw [div_le_div_iff₀ (by positivity) (by norm_num)]
    have : (4 * g : ℝ) ≤ 2 ^ d := by exact_mod_cast h4
    linarith
  have hsin : 0 < Real.sin (2 * Real.pi * (g / 2 ^ d)) := Real.sin_pos_of_pos_of_lt_pi (by positivity) (by nlinarith)
  obtain ⟨n, hz, rfl⟩ := Option.map_eq_some_iff.mp h
  refine ⟨n, rfl, ziv_stands hsin (fun p hp => ?_) hz⟩
  obtain ⟨hp1, hp2⟩ := precisions_bounds hp
  refine ⟨by omega, ?_⟩
  have hP : (2 : ℝ) ^ 96 ≤ 2 ^ p := pow_le_pow_right₀ one_le_two (by omega)
  have hP0 : (0 : ℝ) < 2 ^ p := by positivity
  have hpi := piFix_bounds p
  have hcount : 20 * (((p / 4 + 8 : ℕ) : ℝ) + 1) ≤ 3800 := by
    have : 20 * ((p / 4 + 8) + 1) ≤ 3800 := by omega
    exact_mod_cast this
  have htwo : |((2 * piFix p : ℕ) : ℝ) - 2 ^ p * (2 * Real.pi)| ≤ 7600 := by
    rw [abs_le] at hpi ⊢
    push_cast
    constructor <;> linarith [hpi.1, hpi.2]
  have harg := mulShift_bounds (f := g) (d := d) (by linarith) (by linarith) htwo
  dsimp only
  generalize ((g <<< p) >>> d * (2 * piFix p)) >>> p = t at harg ⊢
  have harg' : |(t : ℝ) - 2 ^ p * (g / 2 ^ d * (2 * Real.pi))| ≤ 1909 := harg.trans (by linarith)
  have ht : (t : ℝ) = 2 ^ p * (t / 2 ^ p) := by field_simp
  have ht0 : (0 : ℝ) ≤ t / 2 ^ p := by positivity
  have ht2 : (t : ℝ) / 2 ^ p ≤ 2 := by
    rw [div_le_iff₀ hP0]
    have hθ : (g : ℝ) / 2 ^ d * (2 * Real.pi) ≤ 8 / 5 := by nlinarith
    linarith [(abs_le.mp harg').2, mul_le_mul_of_nonneg_left hθ hP0.le]
  obtain ⟨hs1, hs2⟩ := shiftRight_bounds (t * t) p
  have hsq : ((t * t : ℕ) : ℝ) / 2 ^ p = 2 ^ p * (t / 2 ^ p) ^ 2 := by push_cast; field_simp
  rw [hsq] at hs1 hs2
  have hsum := sinSum_sin ht0 ht2 hs1.le hs2 ht
  have hcount' : (4 * (p / 8 + 24 : ℕ) + 1 : ℝ) ≤ 457 := by
    have : 4 * (p / 8 + 24) + 1 ≤ 457 := by omega
    exact_mod_cast this
  have hlip := Real.abs_sin_sub_sin_le (t / 2 ^ p) (2 * Real.pi * (g / 2 ^ d))
  have hnear : |2 ^ p * Real.sin (t / 2 ^ p) - 2 ^ p * Real.sin (2 * Real.pi * (g / 2 ^ d))| ≤ 1909 := by
    calc |2 ^ p * Real.sin (t / 2 ^ p) - 2 ^ p * Real.sin (2 * Real.pi * (g / 2 ^ d))|
        = 2 ^ p * |Real.sin (t / 2 ^ p) - Real.sin (2 * Real.pi * (g / 2 ^ d))| := by rw [← mul_sub, abs_mul, abs_of_pos hP0]
      _ ≤ 2 ^ p * |t / 2 ^ p - 2 * Real.pi * (g / 2 ^ d)| := mul_le_mul_of_nonneg_left hlip hP0.le
      _ = |(t : ℝ) - 2 ^ p * (g / 2 ^ d * (2 * Real.pi))| := by
        rw [← abs_of_pos hP0, ← abs_mul, abs_of_pos hP0]; congr 1; field_simp
      _ ≤ 1909 := harg'
  rw [mul_comm (Real.sin _)]
  refine (abs_toNat_sub_le _ (by positivity)).trans_lt ?_
  refine (abs_sub_le _ _ _).trans_lt (lt_of_le_of_lt (add_le_add hsum hnear) ?_)
  push_cast at hcount' ⊢
  linarith

end Sys2Proof.Machine
end

section
/-! OBLIGATION. The real functions of R80 (O59): the exponential and the logarithm to base 2. -/

namespace Sys2Proof.Machine

/-! ### Results that a magnitude gives -/

theorem Stands.scale {m : ℕ} {e : Int} {s : Bool} {v : ℝ} (h : Stands m e s v) (i : Int) : Stands m (e + i) s (v * 2 ^ i) := by
  have hi := two_zpow_pos i
  have he : (2 : ℝ) ^ (e + i) = 2 ^ e * 2 ^ i := zpow_add₀ two_ne_zero e i
  cases s
  · show v * 2 ^ i = m * 2 ^ (e + i)
    rw [he, show v = m * 2 ^ e from h]; ring
  · refine ⟨?_, ?_⟩ <;> rw [he, ← mul_assoc]
    · exact mul_lt_mul_of_pos_right h.1 hi
    · exact mul_lt_mul_of_pos_right h.2 hi

/-- A number far above its unit has many significant bits. -/
theorem Stands.large {m : ℕ} {e : Int} {s : Bool} {v : ℝ} (h : Stands m e s v) (hv : (2 : ℝ) ^ (e + 25) ≤ v) : 2 ^ 24 ≤ m := by
  have he := two_zpow_pos e
  have hlt := hv.trans_lt h.lt
  rw [zpow_add₀ two_ne_zero, mul_comm, mul_lt_mul_iff_left₀ he] at hlt
  have : (2 : ℝ) ^ 25 < m + 1 := by exact_mod_cast hlt
  have : 2 ^ 25 < m + 1 := by exact_mod_cast this
  omega

/-- A magnitude that stands for a real gives it rounded. -/
theorem realRounded_toF32 {y : Mag} {neg : Bool} {v : ℝ} (hneg : v < 0 ↔ neg = true) (hm : 0 < y.m) (h : Stands y.m y.e y.sticky |v|)
    (hs : fp32.Fine y.m y.e y.sticky) : RealRounded v (y.toF32 neg) := by
  obtain rfl : decide (v < 0) = neg := Bool.eq_iff_iff.mpr (decide_eq_true_iff.trans hneg)
  exact roundedAt_toF32 hm h hs

/-- The same, of a number far above the unit. -/
theorem realRounded_of_large {y : Mag} {neg : Bool} {v : ℝ} (hneg : v < 0 ↔ neg = true) (h : Stands y.m y.e y.sticky |v|)
    (hv : (2 : ℝ) ^ (y.e + 25) ≤ |v|) : RealRounded v (y.toF32 neg) := by
  have hm := h.large hv
  exact realRounded_toF32 hneg (by omega) h (fp32_fine hm)

theorem cast_finRat (n : Bool) (m : ℕ) (e : Int) : ((finRat n m e : ℚ) : ℝ) = if n then -((m : ℝ) * 2 ^ e) else (m : ℝ) * 2 ^ e := by
  cases n <;> simp [finRat]

/-! ### The exponential to base 2 -/

theorem two_rpow_pos_not_neg (x : ℝ) : (2 : ℝ) ^ x < 0 ↔ false = true :=
  iff_of_false (not_lt.mpr (by positivity)) (by simp)

/-- A positive real result from one that stands for it. -/
theorem realRounded_rpow {y : Mag} {x : ℝ} (h : Stands y.m y.e y.sticky (2 ^ x)) (hv : (2 : ℝ) ^ (y.e + 25) ≤ 2 ^ x) :
    RealRounded (2 ^ x) (y.toF32 false) := by
  have habs : |(2 : ℝ) ^ x| = 2 ^ x := abs_of_pos (by positivity)
  exact realRounded_of_large (two_rpow_pos_not_neg x) (by rwa [habs]) (by rwa [habs])

/-- A positive number rounded. -/
theorem realRounded_of_pos {v : ℝ} {out : Word × Flags} (h0 : 0 < v)
    (h : RoundedAt fp32 .rne false (fun q => (q : ℝ) ≤ v) (fun q => (q : ℝ) < v) (some (asCode out)) (overflowResult fp32 .rne false)) :
    RealRounded v out := by
  unfold RealRounded
  rwa [abs_of_pos h0, decide_eq_false h0.not_gt]

/-- Powers of 2 beyond the range. -/
theorem realRounded_rpow_huge {x : ℝ} (hx : 256 ≤ x) : RealRounded (2 ^ x) (Mag.toF32 ⟨1, 200, false⟩ false) := by
  refine realRounded_of_pos (by positivity) ?_
  have hout : some (asCode (Mag.toF32 ⟨1, 200, false⟩ false)) = overflowResult fp32 .rne false := by decide
  rw [hout]
  refine roundedAt_huge fp32_proper ?_ _
  rw [show fp32.maxExp + fp32.fb + 1 = 128 by decide, ← Real.rpow_intCast]
  exact Real.rpow_le_rpow_of_exponent_le one_le_two (by push_cast; linarith)

/-- Powers of 2 below the range round as any number between 2^-200 and 2^-199 does. -/
theorem realRounded_rpow_tiny {x : ℝ} (hx : x ≤ -256) : RealRounded (2 ^ x) (Mag.toF32 ⟨1, -200, true⟩ false) := by
  refine realRounded_of_pos (by positivity) ?_
  have hst : Stands 1 (-200) true (3 / 2 * 2 ^ (-200 : Int)) := by
    have := two_zpow_pos (-200)
    constructor <;> push_cast <;> linarith
  have hmin : fp32.emin - fp32.fb - 1 = -150 := by decide
  refine roundedAt_tiny (v' := 3 / 2 * 2 ^ (-200 : Int)) (by positivity) ?_ (by positivity) ?_
    (roundedAt_toF32 (y := ⟨1, -200, true⟩) one_pos hst fun _ => .inr (by decide))
  · rw [hmin, ← Real.rpow_intCast]
    exact Real.rpow_lt_rpow_of_exponent_lt one_lt_two (by push_cast; linarith)
  · rw [hmin]; norm_num

/-- Powers of 2 with an exponent near 0. -/
theorem two_rpow_near_one {x : ℝ} (hx : |x| < 2 ^ (-40 : Int)) : |(2 : ℝ) ^ x - 1| < 2 ^ (-36 : Int) := by
  have hlog := Real.log_two_lt_d9
  have hlog0 := Real.log_two_gt_d9
  have hy : |Real.log 2 * x| ≤ |x| := by
    rw [abs_mul, abs_of_pos (by linarith)]
    nlinarith [abs_nonneg x]
  have hsmall : (2 : ℝ) ^ (-40 : Int) ≤ 1 := by norm_num
  rw [Real.rpow_def_of_pos two_pos]
  calc |Real.exp (Real.log 2 * x) - 1| ≤ 2 * |Real.log 2 * x| := Real.abs_exp_sub_one_le (by linarith)
    _ ≤ 2 * 2 ^ (-40 : Int) := by linarith
    _ < 2 ^ (-36 : Int) := by norm_num

/-- A positive exponent near 0. -/
theorem realRounded_rpow_above {x : ℝ} (h0 : 0 < x) (hx : x < 2 ^ (-40 : Int)) :
    RealRounded (2 ^ x) (Mag.toF32 ⟨2 ^ 36, -36, true⟩ false) := by
  have h1 : 1 < (2 : ℝ) ^ x := Real.one_lt_rpow one_lt_two h0
  have h2 := (abs_lt.mp (two_rpow_near_one (by rwa [abs_of_pos h0]))).2
  refine realRounded_rpow ⟨?_, ?_⟩ ?_
  · push_cast; norm_num; linarith
  · push_cast; norm_num at h2 ⊢; linarith
  · norm_num; linarith

/-- A negative exponent near 0. -/
theorem realRounded_rpow_below {x : ℝ} (h0 : x < 0) (hx : -x < 2 ^ (-40 : Int)) :
    RealRounded (2 ^ x) (Mag.toF32 ⟨2 ^ 36 - 1, -36, true⟩ false) := by
  have h1 : (2 : ℝ) ^ x < 1 := Real.rpow_lt_one_of_one_lt_of_neg one_lt_two h0
  have h2 := (abs_lt.mp (two_rpow_near_one (by rwa [abs_of_neg h0]))).1
  refine realRounded_rpow ⟨?_, ?_⟩ ?_
  · push_cast; norm_num at h2 ⊢; linarith
  · push_cast; norm_num; linarith
  · norm_num at h2 ⊢; linarith

/-- A power of 2 with an exponent that is an integer and a fraction. -/
theorem realRounded_exp2Frac {x : ℝ} {i : Int} {f d : ℕ} {y : Mag} (hf : f < 2 ^ d) (hx : x = i + f / 2 ^ d) (h : exp2Frac f d = some y) :
    RealRounded (2 ^ x) (Mag.toF32 { y with e := y.e + i } false) := by
  obtain ⟨n, rfl, hst⟩ := exp2Frac_stands hf h
  have hv : (2 : ℝ) ^ x = 2 ^ ((f : ℝ) / 2 ^ d) * 2 ^ i := by
    rw [hx, add_comm, Real.rpow_add two_pos, Real.rpow_intCast]
  refine realRounded_rpow (hv ▸ hst.scale i) ?_
  have hone : 1 ≤ (2 : ℝ) ^ ((f : ℝ) / 2 ^ d) := Real.one_le_rpow one_le_two (by positivity)
  rw [hv]
  calc (2 : ℝ) ^ (-((64 : ℕ) : Int) + i + 25) ≤ 2 ^ i := two_zpow_le (by push_cast; omega)
    _ ≤ 2 ^ ((f : ℝ) / 2 ^ d) * 2 ^ i := le_mul_of_one_le_left (two_zpow_pos i).le hone

/-- A power of 2 with an integer exponent. -/
theorem realRounded_two_zpow (i : Int) : RealRounded (2 ^ (i : ℝ)) (Mag.toF32 ⟨1, i, false⟩ false) := by
  have hv : |(2 : ℝ) ^ (i : ℝ)| = 2 ^ i := by rw [Real.rpow_intCast, abs_of_pos (two_zpow_pos i)]
  refine realRounded_toF32 (two_rpow_pos_not_neg _) one_pos ?_ (fp32.fine_exact _ _)
  show |(2 : ℝ) ^ (i : ℝ)| = (1 : ℕ) * 2 ^ i
  rw [hv, Nat.cast_one, one_mul]

/-- The integer part and the fraction of a magnitude, as the model takes them. -/
theorem split_fixed (m : ℕ) (e : Int) :
    let d := if e < 0 then (-e).toNat else 0
    let k := if e < 0 then m else m <<< e.toNat
    (m : ℝ) * 2 ^ e = (k >>> d : ℕ) + (k % 2 ^ d : ℕ) / 2 ^ d := by
  intro d k
  have hk : (m : ℝ) * 2 ^ e = k / 2 ^ d := by
    by_cases h : e < 0
    · simp only [d, k, if_pos h]
      rw [← zpow_natCast, Int.toNat_of_nonneg (by omega), zpow_neg, div_inv_eq_mul]
    · simp only [d, k, if_neg h, Nat.shiftLeft_eq, pow_zero, div_one]
      push_cast
      rw [← zpow_natCast, Int.toNat_of_nonneg (by omega)]
  rw [hk, Nat.shiftRight_eq_div_pow, div_eq_iff (by positivity), add_mul, div_mul_cancel₀ _ (by positivity)]
  exact_mod_cast (Nat.div_add_mod' k (2 ^ d)).symm

/-- FEXP2 of a finite operand. -/
theorem fexp2Closed_rounded {a : Word} {n : Bool} {m : ℕ} {e : Int} {out : Word × Flags} (hd : dec32 a = .fin n m e)
    (h : fexp2Closed a = some out) : RealRounded (2 ^ ((finRat n m e : ℚ) : ℝ)) out := by
  have hr := two_zpow_pos e
  rw [cast_finRat]
  unfold fexp2Closed at h
  rw [hd] at h
  dsimp only at h
  by_cases hm : m = 0
  · rw [if_pos hm] at h
    obtain rfl := Option.some.inj h
    rw [show ((0x3F800000 : Word), (0 : Flags)) = Mag.toF32 ⟨1, 0, false⟩ false by decide]
    simpa [hm] using realRounded_two_zpow 0
  rw [if_neg hm] at h
  obtain ⟨hx, hx'⟩ := Stands.binade (m := m) (e := e) (s := false) rfl (Nat.pos_of_ne_zero hm)
  by_cases hbig : (Nat.log2 m : Int) + e ≥ 8
  · rw [if_pos hbig] at h
    obtain rfl := Option.some.inj h
    have h256 : 256 ≤ (m : ℝ) * 2 ^ e := le_trans (by norm_num) ((two_zpow_le hbig).trans hx)
    cases n
    · exact realRounded_rpow_huge h256
    · exact realRounded_rpow_tiny (by simp only [if_true]; linarith)
  rw [if_neg hbig] at h
  have hpos : 0 < (m : ℝ) * 2 ^ e := (two_zpow_pos _).trans_le hx
  by_cases hsmall : (Nat.log2 m : Int) + e < -40
  · rw [if_pos hsmall] at h
    obtain rfl := Option.some.inj h
    have h40 : (m : ℝ) * 2 ^ e < 2 ^ (-40 : Int) := hx'.trans_le (two_zpow_le (by omega))
    cases n
    · exact realRounded_rpow_above hpos h40
    · exact realRounded_rpow_below (neg_lt_zero.mpr hpos) (by simpa using h40)
  rw [if_neg hsmall] at h
  have hsplit := split_fixed m e
  dsimp only at hsplit
  rw [hsplit]
  generalize (if e < 0 then (-e).toNat else 0) = d at h ⊢
  generalize (if e < 0 then m else m <<< e.toNat) = k at h ⊢
  have hlt : k % 2 ^ d < 2 ^ d := Nat.mod_lt _ (by positivity)
  generalize k >>> d = i at h ⊢
  generalize k % 2 ^ d = f at h hlt ⊢
  by_cases hf : f = 0
  · rw [if_pos hf] at h
    obtain rfl := Option.some.inj h
    cases n
    · simpa [hf] using realRounded_two_zpow i
    · simpa [hf] using realRounded_two_zpow (-i)
  rw [if_neg hf] at h
  obtain ⟨y, hy, rfl⟩ := Option.map_eq_some_iff.mp h
  cases n
  · exact realRounded_exp2Frac hlt (by simp) hy
  · refine realRounded_exp2Frac (Nat.sub_lt (by positivity) (Nat.pos_of_ne_zero hf)) ?_ hy
    simp only [if_true]
    rw [Nat.cast_sub hlt.le]
    push_cast
    field_simp
    ring

end Sys2Proof.Machine
end

section
/-! OBLIGATION. The real functions of R80 (O59), continued: the logarithm to base 2 and the hyperbolic tangent. -/

namespace Sys2Proof.Machine

/-! ### The logarithm to base 2 -/

/-- The logarithm to base 2 is the larger of the two in magnitude. -/
theorem log_le_logb_two {z : ℝ} (hz : 1 ≤ z) : Real.log z ≤ Real.logb 2 z := by
  have h0 := Real.log_nonneg hz
  have h1 := Real.log_two_gt_d9
  have h2 := Real.log_two_lt_d9
  rw [Real.logb, le_div_iff₀ (by linarith)]
  nlinarith

/-- A significand that is no power of 2 is off both ends of its binade. -/
theorem log2Frac_gap {m d : ℕ} (h1 : 2 ^ d < m) (h2 : m < 2 ^ (d + 1)) (hm : m < 2 ^ 24) :
    (2 : ℝ) ^ (-24 : Int) ≤ Real.logb 2 (m / 2 ^ d) ∧ Real.logb 2 (m / 2 ^ d) ≤ 1 - 2 ^ (-24 : Int) := by
  have hd : (0 : ℝ) < 2 ^ d := by positivity
  have hpos : 0 < m := by omega
  have hm0 : (0 : ℝ) < m := by exact_mod_cast hpos
  have h1' : (2 : ℝ) ^ d + 1 ≤ m := by exact_mod_cast h1
  have h2' : (m : ℝ) + 1 ≤ 2 ^ (d + 1) := by exact_mod_cast h2
  have hm' : (m : ℝ) ≤ 2 ^ 24 := by exact_mod_cast hm.le
  have hpow : (2 : ℝ) ^ (d + 1) ≤ 2 ^ 24 := by
    have : d < 24 := (Nat.pow_lt_pow_iff_right (by norm_num : 1 < 2)).mp (h1.trans hm)
    exact pow_le_pow_right₀ one_le_two this
  have hunit : (2 : ℝ) ^ (-24 : Int) = 1 / 2 ^ 24 := by norm_num
  have hz : 1 ≤ (m : ℝ) / 2 ^ d := (one_le_div hd).mpr (by linarith)
  rw [hunit]
  constructor
  · refine le_trans ?_ (log_le_logb_two hz)
    refine le_trans ?_ (Real.one_sub_inv_le_log_of_pos (by positivity))
    rw [inv_div, one_sub_div hm0.ne', div_le_div_iff₀ (by positivity) hm0]
    nlinarith
  · have hw : 1 ≤ (2 : ℝ) ^ (d + 1) / m := (one_le_div hm0).mpr (by linarith)
    have hsplit : Real.logb 2 (m / 2 ^ d) = 1 - Real.logb 2 (2 ^ (d + 1) / m) := by
      rw [Real.logb_div hm0.ne' hd.ne', Real.logb_div (by positivity) hm0.ne', pow_succ, Real.logb_mul hd.ne' two_ne_zero,
        Real.logb_self_eq_one one_lt_two]
      ring
    rw [hsplit]
    have hlog := (Real.one_sub_inv_le_log_of_pos (x := (2 : ℝ) ^ (d + 1) / m) (by positivity)).trans (log_le_logb_two hw)
    rw [inv_div, one_sub_div (by positivity)] at hlog
    have hgap : 1 / (2 : ℝ) ^ 24 ≤ (2 ^ (d + 1) - m) / 2 ^ (d + 1) := by
      rw [div_le_div_iff₀ (by positivity) (by positivity)]
      nlinarith
    linarith

/-- The logarithm of a number by the exponent of its binade. -/
theorem logb_mul_zpow {m : ℕ} (hm : 0 < m) (e : Int) (d : ℕ) :
    Real.logb 2 (m * 2 ^ e) = ((d : Int) + e : Int) + Real.logb 2 (m / 2 ^ d) := by
  have hm' : (0 : ℝ) < m := by exact_mod_cast hm
  have hpow : Real.logb 2 (2 ^ e) = e := by rw [← Real.rpow_intCast, Real.logb_rpow two_pos (by norm_num)]
  rw [Real.logb_mul hm'.ne' (two_zpow_pos e).ne', Real.logb_div hm'.ne' (by positivity), hpow, Real.logb_pow,
    Real.logb_self_eq_one one_lt_two]
  push_cast
  ring

/-- An integer logarithm, which is exact. -/
theorem realRounded_int {i : Int} (hi : i ≠ 0) : RealRounded i (wf32 (fp32.arith .rne (i < 0) i.natAbs 0)) := by
  have hst : Stands i.natAbs 0 false |(i : ℝ)| := by
    show |(i : ℝ)| = i.natAbs * 2 ^ (0 : Int)
    rw [zpow_zero, mul_one, Nat.cast_natAbs, Int.cast_abs]
  exact realRounded_toF32 (y := ⟨i.natAbs, 0, false⟩) (by simp) (Int.natAbs_pos.mpr hi) hst (fp32.fine_exact _ _)

/-- A number between two units, as the model gives it by sign and magnitude. -/
theorem realRounded_between {s : Int} {v : ℝ} (h1 : (s : ℝ) * 2 ^ (-96 : Int) < v) (h2 : v < (s + 1) * 2 ^ (-96 : Int))
    (hv : (2 : ℝ) ^ (-71 : Int) ≤ |v|) :
    RealRounded v (if s ≥ 0 then Mag.toF32 ⟨s.toNat, -96, true⟩ false else Mag.toF32 ⟨(-s).toNat - 1, -96, true⟩ true) := by
  have hu := two_zpow_pos (-96)
  split
  · next hs =>
    have hs' : (0 : ℝ) ≤ s := by exact_mod_cast hs
    have hv0 : 0 < v := lt_of_le_of_lt (by positivity) h1
    rw [abs_of_pos hv0] at hv
    have hcast : ((s.toNat : ℕ) : ℝ) = s := by rw [← Int.cast_natCast, Int.toNat_of_nonneg hs]
    refine realRounded_of_large (iff_of_false hv0.not_gt (by simp)) ?_ (by rw [abs_of_pos hv0]; exact hv)
    rw [abs_of_pos hv0]
    exact ⟨by rw [hcast]; exact h1, by rw [hcast]; exact h2⟩
  · next hs =>
    have hs' : (s : ℝ) + 1 ≤ 0 := by exact_mod_cast (by omega : s + 1 ≤ 0)
    have hv0 : v < 0 := h2.trans_le (mul_nonpos_of_nonpos_of_nonneg hs' hu.le)
    rw [abs_of_neg hv0] at hv
    have hcast : (((-s).toNat - 1 : ℕ) : ℝ) = -s - 1 := by
      rw [Nat.cast_sub (by omega), ← Int.cast_natCast (-s).toNat, Int.toNat_of_nonneg (by omega)]
      push_cast; ring
    refine realRounded_of_large (iff_of_true hv0 rfl) ?_ (by rw [abs_of_neg hv0]; exact hv)
    rw [abs_of_neg hv0]
    refine ⟨?_, ?_⟩ <;> dsimp only <;> rw [hcast] <;> linarith

/-- The same, of an integer and a fraction. -/
theorem realRounded_shifted {f : ℕ} {L : ℝ} (i : Int) (h1 : (f : ℝ) * 2 ^ (-96 : Int) < L) (h2 : L < (f + 1) * 2 ^ (-96 : Int))
    (hgap1 : (2 : ℝ) ^ (-24 : Int) ≤ L) (hgap2 : L ≤ 1 - 2 ^ (-24 : Int)) :
    RealRounded (i + L) (if i * 2 ^ 96 + (f : Int) ≥ 0 then Mag.toF32 ⟨(i * 2 ^ 96 + (f : Int)).toNat, -96, true⟩ false
      else Mag.toF32 ⟨(-(i * 2 ^ 96 + (f : Int))).toNat - 1, -96, true⟩ true) := by
  have hunit : (2 : ℝ) ^ 96 * 2 ^ (-96 : Int) = 1 := by norm_num
  have hle : (2 : ℝ) ^ (-71 : Int) ≤ 2 ^ (-24 : Int) := two_zpow_le (by norm_num)
  have hscale : ((i * 2 ^ 96 + (f : Int) : Int) : ℝ) * 2 ^ (-96 : Int) = i + f * 2 ^ (-96 : Int) := by
    calc ((i * 2 ^ 96 + (f : Int) : Int) : ℝ) * 2 ^ (-96 : Int) = i * ((2 : ℝ) ^ 96 * 2 ^ (-96 : Int)) + f * 2 ^ (-96 : Int) := by
          push_cast; ring
      _ = _ := by rw [hunit, mul_one]
  refine realRounded_between (by rw [hscale]; linarith) (by rw [add_mul, hscale, one_mul]; linarith) (hle.trans ?_)
  rcases le_or_gt 0 i with hi | hi
  · have : (0 : ℝ) ≤ i := by exact_mod_cast hi
    exact le_trans (by linarith) (le_abs_self _)
  · have : (i : ℝ) + 1 ≤ 0 := by exact_mod_cast hi
    exact le_trans (by linarith) (neg_le_abs _)

/-- FLOG2 of a positive finite operand other than 1. -/
theorem flog2Closed_rounded {a : Word} {n : Bool} {m : ℕ} {e : Int} {out : Word × Flags} (hd : dec32 a = .fin n m e)
    (h0 : 0 < finRat n m e) (h1 : finRat n m e ≠ 1) (h : flog2Closed a = some out) :
    RealRounded (Real.logb 2 ((finRat n m e : ℚ) : ℝ)) out := by
  obtain ⟨hn, hm⟩ := finRat_pos_iff.mp h0
  subst hn
  obtain ⟨hm24, -, -, -⟩ := dec32_fin hd
  have hlog := logb_mul_zpow hm e (Nat.log2 m)
  unfold flog2Closed at h
  rw [hd] at h
  simp only [hm.ne', if_false, Bool.false_eq_true] at h
  rw [cast_finRat]
  simp only [Bool.false_eq_true, if_false]
  rw [hlog]
  by_cases hp : m = 2 ^ Nat.log2 m
  · rw [if_pos hp] at h
    obtain rfl := Option.some.inj h
    have hone : (m : ℝ) / 2 ^ Nat.log2 m = 1 := by
      rw [div_eq_one_iff_eq (by positivity)]; exact_mod_cast hp
    rw [hone, Real.logb_one, add_zero]
    refine realRounded_int fun hi => h1 ?_
    have hval : ((finRat false m e : ℚ) : ℝ) = 1 := by
      rw [cast_finRat, if_neg (by simp), (div_eq_one_iff_eq (by positivity)).mp hone, ← zpow_natCast, ← zpow_add₀ two_ne_zero, hi, zpow_zero]
    exact_mod_cast hval
  · rw [if_neg hp] at h
    obtain ⟨z, hz, rfl⟩ := Option.map_eq_some_iff.mp h
    obtain ⟨f, hf, hcast⟩ := Option.bind_eq_some_iff.mp hz
    obtain rfl := Option.some.inj hcast
    have hlo : 2 ^ Nat.log2 m < m := lt_of_le_of_ne (Nat.log2_self_le hm.ne') (Ne.symm hp)
    have hhi : m < 2 ^ (Nat.log2 m + 1) := Nat.lt_log2_self
    obtain ⟨hst1, hst2⟩ := log2Frac_stands hlo hhi hf
    obtain ⟨hgap1, hgap2⟩ := log2Frac_gap hlo hhi hm24
    exact realRounded_shifted ((Nat.log2 m : Int) + e) hst1 hst2 hgap1 hgap2

/-! ### The hyperbolic tangent -/

/-- A magnitude with the sign of an odd function's operand. -/
theorem realRounded_signed {y : Mag} {n : Bool} {w : ℝ} (hw : 0 < w) (hm : 0 < y.m) (h : Stands y.m y.e y.sticky w)
    (hs : fp32.Fine y.m y.e y.sticky) : RealRounded (if n then -w else w) (y.toF32 n) := by
  cases n
  · exact realRounded_toF32 (iff_of_false hw.not_gt (by simp)) hm (by simpa [abs_of_pos hw] using h) hs
  · exact realRounded_toF32 (iff_of_true (neg_lt_zero.mpr hw) rfl) hm (by simpa [abs_of_pos hw] using h) hs

theorem tanh_pos {x : ℝ} (hx : 0 < x) : 0 < Real.tanh x := by
  rw [Real.tanh_eq_sinh_div_cosh]
  exact div_pos (Real.sinh_pos_iff.mpr hx) (Real.cosh_pos x)

/-- The first two terms of the area tangent's series. -/
theorem tanh_lt_self {x : ℝ} (hx : 0 < x) : Real.tanh x < x := by
  have h0 := tanh_pos hx
  have h1 := Real.tanh_lt_one x
  have hlog : Real.log (1 + Real.tanh x) - Real.log (1 - Real.tanh x) = 2 * x := by
    have hart := Real.artanh_tanh x
    rw [Real.artanh_eq_half_log ⟨by linarith, h1.le⟩] at hart
    rw [← Real.log_div (by linarith) (by linarith)]
    linarith
  have hsum := Real.hasSum_log_sub_log_of_abs_lt_one (x := Real.tanh x) (by rw [abs_of_pos h0]; exact h1)
  rw [hlog] at hsum
  have hle := sum_le_hasSum (Finset.range 2) (fun i _ => by positivity) hsum
  rw [Finset.sum_range_succ, Finset.sum_range_one] at hle
  have : 0 < Real.tanh x ^ 3 := by positivity
  norm_num at hle
  linarith

theorem sub_cube_le_tanh {x : ℝ} (hx : 0 < x) : x - x ^ 3 / 2 ≤ Real.tanh x := by
  rw [Real.tanh_eq_sinh_div_cosh]
  have hexp : 1 - x ^ 2 / 2 ≤ Real.exp (-(x ^ 2 / 2)) := by linarith [Real.add_one_le_exp (-(x ^ 2 / 2))]
  calc x - x ^ 3 / 2 = x * (1 - x ^ 2 / 2) := by ring
    _ ≤ x * Real.exp (-(x ^ 2 / 2)) := mul_le_mul_of_nonneg_left hexp hx.le
    _ = x / Real.exp (x ^ 2 / 2) := by rw [Real.exp_neg]; rfl
    _ ≤ Real.sinh x / Real.cosh x :=
      div_le_div₀ (Real.sinh_pos_iff.mpr hx).le (Real.self_le_sinh_iff.mpr hx.le) (Real.cosh_pos x) (Real.cosh_le_exp_half_sq x)

theorem div_le_tanh {x : ℝ} (hx : 0 < x) : x / (1 + x) ≤ Real.tanh x := by
  have hexp := Real.add_one_le_exp (2 * x)
  rw [tanh_eq_exp, div_le_div_iff₀ (by linarith) (by linarith)]
  nlinarith

/-- The hyperbolic tangent of a small operand is just below it. -/
theorem tanh_small_stands {m : ℕ} {e : Int} (hm : 0 < m) (hm24 : m < 2 ^ 24) (hx : (m : ℝ) * 2 ^ e < 2 ^ (-14 : Int)) :
    Stands (4 * m - 1) (e - 2) true (Real.tanh (m * 2 ^ e)) := by
  have he := two_zpow_pos e
  have hm0 : (0 : ℝ) < m := by exact_mod_cast hm
  have hm24' : (m : ℝ) < 2 ^ 24 := by exact_mod_cast hm24
  have hpos : 0 < (m : ℝ) * 2 ^ e := by positivity
  have hscale : (2 : ℝ) ^ (e - 2) = 2 ^ e / 4 := by rw [zpow_sub₀ two_ne_zero]; norm_num
  have hcast : ((4 * m - 1 : ℕ) : ℝ) = 4 * m - 1 := by rw [Nat.cast_sub (by omega)]; push_cast; rfl
  refine ⟨?_, ?_⟩ <;> rw [hcast, hscale]
  · refine lt_of_lt_of_le ?_ (sub_cube_le_tanh hpos)
    have hsq : ((m : ℝ) * 2 ^ e) ^ 2 < 2 ^ (-28 : Int) := by
      calc ((m : ℝ) * 2 ^ e) ^ 2 < (2 ^ (-14 : Int)) ^ 2 := pow_lt_pow_left₀ hx hpos.le two_ne_zero
        _ = 2 ^ (-28 : Int) := by norm_num
    have hcube : ((m : ℝ) * 2 ^ e) ^ 3 < 2 ^ e / 16 := by
      calc ((m : ℝ) * 2 ^ e) ^ 3 = ((m : ℝ) * 2 ^ e) ^ 2 * m * 2 ^ e := by ring
        _ < 2 ^ (-28 : Int) * 2 ^ 24 * 2 ^ e := by gcongr
        _ = 2 ^ e / 16 := by norm_num; ring
    linarith
  · have := tanh_lt_self hpos
    linarith

/-- The hyperbolic tangent of a large operand is just below 1. -/
theorem tanh_large_stands {x : ℝ} (hx : 16 ≤ x) : Stands (2 ^ 26 - 1) (-26) true (Real.tanh x) := by
  have hexp : (2 : ℝ) ^ 32 ≤ Real.exp (2 * x) := by
    calc (2 : ℝ) ^ 32 ≤ Real.exp 1 ^ 32 := pow_le_pow_left₀ (by norm_num) Real.exp_one_gt_two.le 32
      _ = Real.exp 32 := by rw [← Real.exp_nat_mul]; norm_num
      _ ≤ Real.exp (2 * x) := Real.exp_le_exp.mpr (by linarith)
  rw [tanh_eq_exp]
  generalize Real.exp (2 * x) = W at hexp
  have hunit : (2 : ℝ) ^ (-26 : Int) = 1 / 2 ^ 26 := by norm_num
  have hcast : ((2 ^ 26 - 1 : ℕ) : ℝ) = 2 ^ 26 - 1 := by norm_num
  refine ⟨?_, ?_⟩ <;> rw [hcast, hunit]
  · rw [lt_div_iff₀ (by linarith)]
    linarith
  · rw [div_lt_iff₀ (by linarith)]
    linarith

/-- FTANH of a finite operand other than 0. -/
theorem ftanhClosed_rounded {a : Word} {n : Bool} {m : ℕ} {e : Int} {out : Word × Flags} (hd : dec32 a = .fin n m e)
    (h0 : finRat n m e ≠ 0) (h : ftanhClosed a = some out) : RealRounded (Real.tanh ((finRat n m e : ℚ) : ℝ)) out := by
  have hm : m ≠ 0 := fun hm => h0 (finRat_eq_zero.mpr hm)
  have hm0 : 0 < m := Nat.pos_of_ne_zero hm
  obtain ⟨hm24, hmin, -, hsub⟩ := dec32_fin hd
  obtain ⟨hx, hx'⟩ := Stands.binade (m := m) (e := e) (s := false) rfl hm0
  have hpos : 0 < (m : ℝ) * 2 ^ e := (two_zpow_pos _).trans_le hx
  have hodd : Real.tanh ((finRat n m e : ℚ) : ℝ) = if n then -Real.tanh (m * 2 ^ e) else Real.tanh (m * 2 ^ e) := by
    rw [cast_finRat]
    cases n
    · rfl
    · exact Real.tanh_neg _
  rw [hodd]
  unfold ftanhClosed at h
  rw [hd] at h
  simp only [hm, if_false] at h
  by_cases hsmall : (Nat.log2 m : Int) + e < -14
  · rw [if_pos hsmall] at h
    obtain rfl := Option.some.inj h
    refine realRounded_signed (tanh_pos hpos) (by dsimp only; omega) (tanh_small_stands hm0 hm24 (hx'.trans_le (two_zpow_le (by omega)))) ?_
    rcases Nat.lt_or_ge m (2 ^ 23) with hlt | hge
    · exact fun _ => .inr (show e - 2 < -150 by omega)
    · exact fp32_fine (show 2 ^ 24 ≤ 4 * m - 1 by omega)
  rw [if_neg hsmall] at h
  by_cases hlarge : (Nat.log2 m : Int) + e ≥ 4
  · rw [if_pos hlarge] at h
    obtain rfl := Option.some.inj h
    have h16 : 16 ≤ (m : ℝ) * 2 ^ e := le_trans (by norm_num) ((two_zpow_le hlarge).trans hx)
    exact realRounded_signed (tanh_pos hpos) (by decide) (tanh_large_stands h16) (fp32_fine (by decide))
  rw [if_neg hlarge] at h
  obtain ⟨q, hq, rfl⟩ := Option.map_eq_some_iff.mp h
  have h16 : (m : ℝ) * 2 ^ e ≤ 16 := (hx'.trans_le (two_zpow_le (show _ ≤ (4 : Int) by omega))).le.trans (by norm_num)
  have hst := tanhFix_stands hm0 h16 (fun p hp => by have := precisions_bounds hp; omega) hq
  have hbig : (2 : ℝ) ^ (-((64 : ℕ) : Int) + 25) ≤ Real.tanh (m * 2 ^ e) := by
    have h14 : (2 : ℝ) ^ (-14 : Int) ≤ m * 2 ^ e := (two_zpow_le (by omega)).trans hx
    refine le_trans ?_ (div_le_tanh hpos)
    rw [le_div_iff₀ (by linarith)]
    norm_num at h14 ⊢
    linarith
  have hlarge := hst.large hbig
  exact realRounded_signed (tanh_pos hpos) (by dsimp only; omega) hst (fp32_fine hlarge)

end Sys2Proof.Machine
end

section
/-! OBLIGATION. The real functions of R80 (O59), continued: the sine of a turn's fraction, and the statement. -/

namespace Sys2Proof.Machine

/-! ### The sine of a turn's fraction -/

/-- Half a turn and whole turns, in units of 2^d to the turn. -/
theorem sin_turn_mod (m d : ℕ) : Real.sin (2 * Real.pi * (m / 2 ^ d)) = Real.sin (2 * Real.pi * ((m % 2 ^ d : ℕ) / 2 ^ d)) := by
  have hm : (m : ℝ) / 2 ^ d = (m % 2 ^ d : ℕ) / 2 ^ d + (m / 2 ^ d : ℕ) := by
    rw [div_add' _ _ _ (by positivity)]
    congr 1
    exact_mod_cast (Nat.mod_add_div' m (2 ^ d)).symm
  rw [hm, mul_add, mul_comm (2 * Real.pi) ((m / 2 ^ d : ℕ) : ℝ), Real.sin_add_nat_mul_two_pi]

/-- The part of a turn's fraction in its half turn. -/
theorem sin_half_turn {f d : ℕ} (hd : 0 < d) (hf : f < 2 ^ d) :
    Real.sin (2 * Real.pi * (f / 2 ^ d)) = signed (decide (2 ^ (d - 1) ≤ f)) (Real.sin (2 * Real.pi * ((f % 2 ^ (d - 1) : ℕ) / 2 ^ d))) := by
  obtain ⟨d, rfl⟩ := Nat.exists_eq_add_one.mpr hd
  rw [Nat.add_sub_cancel]
  rw [pow_succ] at hf
  by_cases h : 2 ^ d ≤ f
  · rw [decide_eq_true h, Nat.mod_eq_sub_mod h, Nat.mod_eq_of_lt (by omega), Nat.cast_sub h]
    show _ = -_
    rw [← Real.sin_add_pi]
    congr 1
    push_cast
    rw [pow_succ]
    field_simp
    ring
  · rw [decide_eq_false h, Nat.mod_eq_of_lt (by omega)]
    rfl

/-- The fold of a half turn to its first quarter turn. -/
theorem sin_fold {g d : ℕ} (hd : 0 < d) (hg : g ≤ 2 ^ (d - 1)) :
    Real.sin (2 * Real.pi * ((2 ^ (d - 1) - g : ℕ) / 2 ^ d)) = Real.sin (2 * Real.pi * (g / 2 ^ d)) := by
  obtain ⟨d, rfl⟩ := Nat.exists_eq_add_one.mpr hd
  rw [Nat.add_sub_cancel] at hg ⊢
  rw [← Real.sin_pi_sub, Nat.cast_sub hg]
  congr 1
  push_cast
  rw [pow_succ]
  field_simp
  ring

/-- A bracketed sine is its magnitude rounded. -/
theorem realRounded_sinFrac {g d : ℕ} {y : Mag} {n : Bool} (h0 : 0 < g) (h4 : 4 * g ≤ 2 ^ d) (hd : d ≤ 149) (h : sinFrac g d = some y) :
    RealRounded (signed n (Real.sin (2 * Real.pi * (g / 2 ^ d)))) (y.toF32 n) := by
  obtain ⟨q, rfl, hst⟩ := sinFrac_stands h0 h4 hd h
  have hg0 : (0 : ℝ) < g := by exact_mod_cast h0
  have hF : (g : ℝ) / 2 ^ d ≤ 1 / 4 := by
    rw [div_le_div_iff₀ (by positivity) (by norm_num)]
    have : (4 * g : ℝ) ≤ 2 ^ d := by exact_mod_cast h4
    linarith
  have hF0 : (0 : ℝ) < g / 2 ^ d := by positivity
  have hsin : (g : ℝ) / 2 ^ d ≤ Real.sin (2 * Real.pi * (g / 2 ^ d)) := by
    have h := Real.mul_le_sin (x := 2 * Real.pi * (g / 2 ^ d)) (by positivity) (by nlinarith [Real.pi_pos])
    have he : 2 / Real.pi * (2 * Real.pi * ((g : ℝ) / 2 ^ d)) = 4 * (g / 2 ^ d) := by field_simp; ring
    rw [he] at h
    linarith
  have hlog : Nat.log2 g ≤ d := (Nat.pow_le_pow_iff_right (by norm_num : 1 < 2)).mp ((Nat.log2_self_le h0.ne').trans (by omega))
  have hbig : (2 : ℝ) ^ (-((64 + (d - Nat.log2 g) : ℕ) : Int) + 25) ≤ Real.sin (2 * Real.pi * (g / 2 ^ d)) := by
    refine le_trans ?_ hsin
    calc (2 : ℝ) ^ (-((64 + (d - Nat.log2 g) : ℕ) : Int) + 25) ≤ 2 ^ ((Nat.log2 g : Int) - d) := two_zpow_le (by omega)
      _ = 2 ^ Nat.log2 g / 2 ^ d := by rw [zpow_sub₀ two_ne_zero, zpow_natCast, zpow_natCast]
      _ ≤ g / 2 ^ d := by gcongr; exact_mod_cast Nat.log2_self_le h0.ne'
  have hlarge := hst.large hbig
  exact realRounded_signed (hF0.trans_le hsin) (by dsimp only; omega) hst (fp32_fine hlarge)

/-- A sine of 1 or -1. -/
theorem realRounded_signed_one (n : Bool) : RealRounded (signed n 1) (if n then 0xBF800000 else 0x3F800000, 0) := by
  have h := realRounded_signed (n := n) (y := ⟨1, 0, false⟩) one_pos one_pos
    (show (1 : ℝ) = (1 : ℕ) * 2 ^ (0 : Int) by norm_num) (fp32.fine_exact _ _)
  rwa [show Mag.toF32 ⟨1, 0, false⟩ n = (if n then 0xBF800000 else 0x3F800000, 0) by cases n <;> decide] at h

/-- The part of a turn in its first quarter, as the model folds it. -/
def foldTurn (f d : ℕ) : ℕ :=
  if 4 * (f % 2 ^ (d - 1)) > 2 ^ d then 2 ^ (d - 1) - f % 2 ^ (d - 1) else f % 2 ^ (d - 1)

theorem sin_foldTurn {f d : ℕ} (hd : 0 < d) (hf : f < 2 ^ d) :
    Real.sin (2 * Real.pi * (f / 2 ^ d)) = signed (decide (2 ^ (d - 1) ≤ f)) (Real.sin (2 * Real.pi * (foldTurn f d / 2 ^ d))) := by
  rw [sin_half_turn hd hf, foldTurn]
  split
  · rw [sin_fold hd (Nat.mod_lt _ (by positivity)).le]
  · rfl

theorem foldTurn_bounds {f d : ℕ} (hd : 0 < d) (h : f % 2 ^ (d - 1) ≠ 0) : 0 < foldTurn f d ∧ 4 * foldTurn f d ≤ 2 ^ d := by
  have hlt : f % 2 ^ (d - 1) < 2 ^ (d - 1) := Nat.mod_lt _ (by positivity)
  have hpow : 2 ^ d = 2 * 2 ^ (d - 1) := by rw [← pow_succ', Nat.sub_add_cancel hd]
  unfold foldTurn
  split <;> omega

/-- A fraction of a turn is a whole number of half turns. -/
theorem mod_half_eq_zero {f d : ℕ} (hd : 0 < d) (hf : f < 2 ^ d) : f % 2 ^ (d - 1) = 0 ↔ f = 0 ∨ f = 2 ^ (d - 1) := by
  have hpow : 2 ^ d = 2 * 2 ^ (d - 1) := by rw [← pow_succ', Nat.sub_add_cancel hd]
  have hpos : 0 < 2 ^ (d - 1) := by positivity
  constructor
  · intro h
    obtain ⟨c, rfl⟩ := Nat.dvd_of_mod_eq_zero h
    rw [hpow, mul_comm] at hf
    have : c < 2 := Nat.lt_of_mul_lt_mul_right hf
    interval_cases c <;> simp
  · rintro (rfl | rfl) <;> simp

/-! ### FSIN2PI -/

/-- Twice an operand below the units is an integer where half a turn's unit divides its significand. -/
theorem twice_int_iff {n : Bool} {m : ℕ} {e : Int} (he : e < 0) : (∃ k : Int, 2 * finRat n m e = k) ↔ m % 2 ^ ((-e).toNat - 1) = 0 := by
  have hscale : 2 * pow2 e = 1 / ((2 ^ ((-e).toNat - 1) : ℕ) : ℚ) := by
    have he' : e = -(((-e).toNat - 1 : ℕ) : Int) - 1 := by omega
    rw [pow2_eq_zpow]
    conv_lhs => rw [he']
    rw [zpow_sub₀ two_ne_zero, zpow_neg, zpow_natCast]
    push_cast
    field_simp
  have htwice : 2 * finRat n m e = (if n then -1 else 1) * (m / ((2 ^ ((-e).toNat - 1) : ℕ) : ℚ)) := by
    rw [finRat, div_eq_mul_one_div, ← hscale]; ring
  have hpos : 0 < 2 ^ ((-e).toNat - 1) := by positivity
  generalize 2 ^ ((-e).toNat - 1) = D at *
  have hD : (D : ℚ) ≠ 0 := by exact_mod_cast hpos.ne'
  rw [htwice, ← Nat.dvd_iff_mod_eq_zero]
  constructor
  · rintro ⟨k, hk⟩
    rw [← Int.natCast_dvd_natCast]
    refine ⟨(if n then -1 else 1) * k, ?_⟩
    have : (m : ℚ) = D * ((if n then -1 else 1) * k) := by
      rw [← hk]; cases n <;> simp <;> field_simp
    exact_mod_cast this
  · rintro ⟨c, rfl⟩
    refine ⟨(if n then -1 else 1) * c, ?_⟩
    cases n <;> push_cast <;> field_simp

/-- Twice an operand in whole units is an integer. -/
theorem twice_int_of_nonneg {n : Bool} {m : ℕ} {e : Int} (he : 0 ≤ e) : ∃ k : Int, 2 * finRat n m e = k := by
  obtain ⟨c, rfl⟩ := Int.eq_ofNat_of_zero_le he
  refine ⟨2 * ((if n then -1 else 1) * m * 2 ^ c), ?_⟩
  rw [finRat, pow2_eq_zpow]
  push_cast
  rfl

/-- FSIN2PI of a finite operand below the units. -/
theorem fsin2piClosed_eq {a : Word} {n : Bool} {m : ℕ} {e : Int} (hd : dec32 a = .fin n m e) (he : e < 0) :
    fsin2piClosed a =
      if m % 2 ^ (-e).toNat = 0 ∨ m % 2 ^ (-e).toNat = 2 ^ ((-e).toNat - 1) then some (zero32 n, 0)
      else if 4 * foldTurn (m % 2 ^ (-e).toNat) (-e).toNat = 2 ^ (-e).toNat then
        some (if n != decide (m % 2 ^ (-e).toNat > 2 ^ ((-e).toNat - 1)) then 0xBF800000 else 0x3F800000, 0)
      else (sinFrac (foldTurn (m % 2 ^ (-e).toNat) (-e).toNat) (-e).toNat).map fun y =>
        y.toF32 (n != decide (m % 2 ^ (-e).toNat > 2 ^ ((-e).toNat - 1))) := by
  unfold fsin2piClosed
  rw [hd]
  simp only [ge_iff_le, he.not_ge, if_false, Bool.or_eq_true, decide_eq_true_eq]
  rfl

/-- FSIN2PI of an operand of whole half turns. -/
theorem fsin2pi32_of_int {a : Word} {n : Bool} {m : ℕ} {e : Int} (hd : dec32 a = .fin n m e) (h : ∃ k : Int, 2 * finRat n m e = k) :
    fsin2pi32 a = (if n then 0x80000000 else 0, 0) := by
  rw [← zero32_eq, fsin2pi32]
  rcases le_or_gt 0 e with he | he
  · unfold fsin2piClosed
    rw [hd]
    simp only [ge_iff_le, he, if_true]
    rfl
  · have hdpos : 0 < (-e).toNat := by omega
    have hlt : m % 2 ^ (-e).toNat < 2 ^ (-e).toNat := Nat.mod_lt _ (by positivity)
    have hmod := (twice_int_iff he).mp h
    rw [← Nat.mod_mod_of_dvd m (pow_dvd_pow 2 (Nat.sub_le _ 1)), mod_half_eq_zero hdpos hlt] at hmod
    rw [fsin2piClosed_eq hd he, if_pos hmod]
    rfl

/-- FSIN2PI of any other finite operand. -/
theorem fsin2piClosed_rounded {a : Word} {n : Bool} {m : ℕ} {e : Int} {out : Word × Flags} (hd : dec32 a = .fin n m e)
    (hint : ∀ k : Int, 2 * finRat n m e ≠ k) (h : fsin2piClosed a = some out) :
    RealRounded (Real.sin (2 * Real.pi * ((finRat n m e : ℚ) : ℝ))) out := by
  have he : e < 0 := not_le.mp fun he => by
    obtain ⟨k, hk⟩ := twice_int_of_nonneg (n := n) (m := m) he
    exact hint k hk
  obtain ⟨-, hmin, -, -⟩ := dec32_fin hd
  have hdpos : 0 < (-e).toNat := by omega
  have hmod : m % 2 ^ ((-e).toNat - 1) ≠ 0 := fun h0 => by
    obtain ⟨k, hk⟩ := (twice_int_iff (n := n) he).mpr h0
    exact hint k hk
  rw [fsin2piClosed_eq hd he] at h
  have hturn : (m : ℝ) * 2 ^ e = m / 2 ^ (-e).toNat := by
    rw [← zpow_natCast, Int.toNat_of_nonneg (by omega), zpow_neg, div_inv_eq_mul]
  have hlt : m % 2 ^ (-e).toNat < 2 ^ (-e).toNat := Nat.mod_lt _ (by positivity)
  have hodd : Real.sin (2 * Real.pi * ((finRat n m e : ℚ) : ℝ)) =
      signed n (Real.sin (2 * Real.pi * ((m % 2 ^ (-e).toNat : ℕ) / 2 ^ (-e).toNat))) := by
    rw [← sin_turn_mod, ← hturn, cast_finRat]
    cases n
    · rfl
    · show Real.sin (2 * Real.pi * -_) = -_
      rw [mul_neg, Real.sin_neg]
  rw [← Nat.mod_mod_of_dvd m (pow_dvd_pow 2 (Nat.sub_le (-e).toNat 1))] at hmod
  rw [hodd]
  have hd149 : (-e).toNat ≤ 149 := by omega
  generalize m % 2 ^ (-e).toNat = f at *
  generalize (-e).toNat = d at *
  have hends := mt (mod_half_eq_zero hdpos hlt).mpr hmod
  rw [if_neg hends] at h
  obtain ⟨hg0, hg4⟩ := foldTurn_bounds hdpos hmod
  have hsign : signed n (Real.sin (2 * Real.pi * (f / 2 ^ d))) =
      signed (n != decide (f > 2 ^ (d - 1))) (Real.sin (2 * Real.pi * (foldTurn f d / 2 ^ d))) := by
    have hdec : decide (2 ^ (d - 1) ≤ f) = decide (f > 2 ^ (d - 1)) := by
      rw [decide_eq_decide]
      omega
    rw [sin_foldTurn hdpos hlt, hdec]
    cases n <;> cases decide (f > 2 ^ (d - 1)) <;> simp [signed]
  rw [hsign]
  by_cases hquarter : 4 * foldTurn f d = 2 ^ d
  · rw [if_pos hquarter] at h
    obtain rfl := Option.some.inj h
    have hone : Real.sin (2 * Real.pi * (foldTurn f d / 2 ^ d)) = 1 := by
      have hq : (4 : ℝ) * foldTurn f d = 2 ^ d := by exact_mod_cast hquarter
      have hg : (0 : ℝ) < foldTurn f d := by exact_mod_cast hg0
      rw [← hq, show 2 * Real.pi * ((foldTurn f d : ℝ) / (4 * foldTurn f d)) = Real.pi / 2 by field_simp; ring, Real.sin_pi_div_two]
    rw [hone]
    exact realRounded_signed_one _
  · rw [if_neg hquarter] at h
    obtain ⟨y, hy, rfl⟩ := Option.map_eq_some_iff.mp h
    exact realRounded_sinFrac hg0 hg4 hd149 hy

/-! ### The statement -/

/-- What a function answers whose bracket closed. -/
theorem ofClosed_some {o : Option (Word × Flags)} {out : Word × Flags} (h : o = some out) : ofClosed o = out := by rw [h]; rfl

/-- FLOG2 of 1. -/
theorem flog232_one {a : Word} {n : Bool} {m : ℕ} {e : Int} (hd : dec32 a = .fin n m e) (h : finRat n m e = 1) : flog232 a = (0, 0) := by
  obtain ⟨rfl, hm⟩ := finRat_pos_iff.mp (h ▸ one_pos : 0 < finRat n m e)
  have hval : (m : ℝ) * 2 ^ e = 1 := by
    have := cast_finRat false m e
    rw [h] at this
    simpa using this.symm
  obtain ⟨hx, hx'⟩ := Stands.binade (m := m) (e := e) (s := false) rfl hm
  have hi : (Nat.log2 m : Int) + e = 0 := binade_unique hx hx' (by simp [hval]) (by simp [hval])
  have hp : m = 2 ^ Nat.log2 m := by
    have : (m : ℝ) = 2 ^ Nat.log2 m := by
      rw [← zpow_natCast, show (Nat.log2 m : Int) = -e by omega, zpow_neg]
      exact eq_inv_of_mul_eq_one_left hval
    exact_mod_cast this
  refine ofClosed_some ?_
  unfold flog2Closed
  rw [hd]
  simp only [hm.ne', if_false, Bool.false_eq_true]
  rw [if_pos hp, hi]
  decide

/-- FTANH of a zero. -/
theorem ftanh32_zero {a : Word} {n : Bool} {m : ℕ} {e : Int} (hd : dec32 a = .fin n m e) (h : finRat n m e = 0) : ftanh32 a = (a, 0) := by
  have hm := finRat_eq_zero.mp h
  refine ofClosed_some ?_
  unfold ftanhClosed
  rw [hd]
  exact if_pos hm

/-- Settles O59: a bracket is strict, so that where it closes its floor and a sticky mark stand for the exact value, whether or not that
is irrational; its bounds are those of the series' terms, of their rests and of the arguments. -/
theorem realFunctionsRounded : Obligations.RealFunctionsRounded := by
  unfold Obligations.RealFunctionsRounded
  intro a n m e out hd x
  exact ⟨fun h => ⟨ofClosed_some h, fexp2Closed_rounded hd h⟩, fun h0 h1 h => ⟨ofClosed_some h, flog2Closed_rounded hd h0 h1 h⟩,
    flog232_one hd, fun h0 h => ⟨ofClosed_some h, ftanhClosed_rounded hd h0 h⟩, ftanh32_zero hd,
    fun hint h => ⟨ofClosed_some h, fsin2piClosed_rounded hd hint h⟩, fsin2pi32_of_int hd⟩

end Sys2Proof.Machine
end
